-- ==== Sys2Proof/Word.lean ====
section
/-!
DEFINITION. Word.lean: the word types of the Bredibin, sparse tables of words, and the records that
device steps carry as operands (what a host, a peer package or the physical start-up supplies).
-/

namespace Sys2Proof

/-- A 32-bit register, literal or instruction word (R56, R162). -/
abbrev Word := BitVec 32

/-- One byte of any memory (R5). -/
abbrev Byte := BitVec 8

/-- A 64-bit value held in an aligned register pair (R58). -/
abbrev Dword := BitVec 64

/-- A sparse table of `w`-bit entries by number: register files, memories and arrays that read as
zero before their first write (R57, R101, R108, R345). Entries rise by key and none is zero. -/
abbrev Cells (w : Nat) := List (Nat × BitVec w)

/-- What a start reports of its physical steps (R345, R346, R401). Each is an input of the model:
the four measured stages with their digest and whether the signature verified, the HBM stacks that fail
training, the stacks that fail it again where a warm start falls back on a training of its own, the cores that fail
self-test, the links and modules that fail, whether the saved training and spare map of a warm start
check, and the audit log as its HBM mirror verifies. -/
structure StartReport where
  security    : BitVec 512 × Bool
  management  : BitVec 512 × Bool
  microcode   : BitVec 512 × Bool
  fused       : BitVec 512 × Bool
  savedBad    : Bool
  stacksFail  : List Nat
  coresFail   : List (Nat × Nat)
  linksFail   : List Nat
  modulesFail : List Nat
  mirrorOk    : Bool
  verified    : Nat
  stacksAgain : List Nat
  deriving DecidableEq, Repr

/-- What a fabric write is for (R311 to R314, R319, R320, R322). -/
inductive FabricKind where
  /-- plain bytes of a slot, a row or a chunk -/
  | write
  /-- a release write: TAIL, RHEAD, performed at `GTIME ≥ T + 2` (R313) -/
  | releaseWrite
  /-- a release fetch-add of a 64-bit natural: NOTIFY and DONE (R320, R322) -/
  | releaseAdd
  /-- the fetch-add request of a PUTR with FIX = 0 (R322) -/
  | reserve
  /-- one combination of a COPYRED with DK = 1 (R314); `op` is the OP byte of R276 -/
  | combine (op : Byte)
  /-- the answer to a transfer: its t, or 0 where its address failed; for a reservation `data` is the row -/
  | ack
  deriving DecidableEq, Repr

/-- One fabric transfer of a job: from package `src` (its command `cmd`, transfer number `seq`) to package
`dst`, at virtual address `va` of the bound context; `t` is the T of R313 in the destination's time. -/
structure FabricMsg where
  job  : Nat
  src  : Nat
  dst  : Nat
  cmd  : Nat
  seq  : Nat
  kind : FabricKind
  va   : Nat
  data : List Byte
  t    : Nat
  deriving DecidableEq, Repr

/-- What one step takes of the operation or command with number `id`: the registers, words or entries of `items`, or, where none is
named, all that are left (R68, R128). -/
structure Part where
  id    : Nat
  items : List Nat
  deriving DecidableEq, Repr

end Sys2Proof
end

