-- ==== Sys2Proof/Syntax.lean ====
section
/-!
DEFINITION. Syntax.lean: the steps of the part, one constructor per row of the opcode table.

Instruction words (R162, R163) carry their fields as the table names them: `c` the chain bit, `g` the
guard (R165), `d`, `a`, `b` register fields, `s` a uniform field, `i`, `o` the immediate or offset field
and `lit` the literal of the next slot (R164), which is 0 when the word takes none.
Steps without an instruction word are the operations and events of the device, its engines and its
host: they carry what the step acts on (an in-flight access, a command, a team, a core) or the
operands that the host, a peer or the physical surroundings supply.
-/

namespace Sys2Proof

/-- One step of the part. -/
inductive Instr where
  /-- R345. Power-on starts a cold start: boot ROM, measured firmware stages, HBM training, self-test, audit log, link training, START entry, then waiting for FEATURE. -/
  | powerOn (r : StartReport)
  /-- R345. A driver-commanded cold reset runs the full cold-start sequence and destroys every context. -/
  | coldReset (r : StartReport)
  /-- R345. A driver-commanded warm reset restarts the device, reusing the saved HBM training and spare map and keeping the audit log. -/
  | warmReset (r : StartReport)
  /-- R351. A memory-clear engine finishes zeroing a range, which then becomes free and is recorded by a CLEAR audit entry. -/
  | memoryClearDone (k : Nat)
  /-- R349. A tail count written to the management doorbell makes the device take and perform management commands from the ring in order. -/
  | managementDoorbell (tail : BitVec 32)
  /-- R349. A write to a CXL.io register without behaviour of its own, such as MRING or MLOGN, sets it unless a command is unperformed. -/
  | registerWrite (offset : Nat) (value : BitVec 64)
  /-- R347. Management command that fixes ACCEPT as offer AND request and completes the last start step. -/
  | feature (reply : Nat) (request : BitVec 128)
  /-- R350. Management command that creates a context from a 576-byte record, or is refused with no change. -/
  | create (reply : Nat) (rec : List (BitVec 8))
  /-- R351. Management command that stops and discards a context's teams, drains its commands, scrubs its cores, invalidates its entries and hands its ranges to clearing. -/
  | release (reply : Nat) (ctx : Nat)
  /-- R143. Management command that saves every team of a context to its context frame. -/
  | switch (reply : Nat) (ctx : Nat)
  /-- R143. Management command that saves all teams of a launch. -/
  | preempt (reply : Nat) (ctx : Nat) (queue : Nat) (k : Nat)
  /-- R384. Management command that drops TLB and walker entries of a range, waits for accesses that used them, then replies. -/
  | invalidate (reply : Nat) (ctx : Nat) (lvl : Nat) (base : Nat) (len : Nat)
  /-- R346. Management command that measures, verifies and loads a firmware stage into MEAS4 to MEAS7. -/
  | fwload (reply : Nat) (regs : List Nat) (digest : BitVec 512) (sigOk : Bool)
  /-- R353. Management command that returns a signature over a host nonce, the measurement registers and the newest audit entry. -/
  | attest (reply : Nat) (nonce : BitVec 256)
  /-- R352. Management command that returns audit entries and advances the driver's read mark, letting pending entries be appended. -/
  | logread (reply : Nat) (count : Nat)
  /-- R353. Management command that returns a signature over SEQ and LINK of the newest audit entry. -/
  | logsign (reply : Nat)
  /-- R356. Management command that migrates a core's teams onto a spare core with the same logical number. -/
  | repair (reply : Nat) (die : Nat) (core : Nat)
  /-- R360. Management command that sets a context's or the device's error ring and clears CESTAT bits, replying with the old CESTAT. -/
  | errctl (reply : Nat) (ctx : Nat) (logn : Nat) (ring : Nat) (consw : Nat) (prodw : Nat) (clr : Nat)
  /-- R381. Management command that releases or fails the teams, commands and dispatcher reads waiting on translation faults in a range. -/
  | resolve (reply : Nat) (ctx : Nat) (out : Nat) (base : Nat) (len : Nat)
  /-- R372. DEBUG operation that sets a context's debug mode and event area. -/
  | debugMode (reply : Nat) (ctx : Nat) (mode : Nat) (addr : Nat)
  /-- R374. DEBUG operation that sets a hardware breakpoint on a packet address of a core. -/
  | setbp (reply : Nat) (ctx : Nat) (bp : Nat) (die : Nat) (core : Nat) (addr : Nat)
  /-- R372. DEBUG operation that clears a hardware breakpoint. -/
  | clrbp (reply : Nat) (ctx : Nat) (bp : Nat) (die : Nat) (core : Nat)
  /-- R376. DEBUG operation that stops the named threads as a breakpoint would, without an event. -/
  | debugStop (reply : Nat) (ctx : Nat) (teamId : Nat) (lrank : Nat)
  /-- R376. DEBUG operation that makes stopped threads ready again or leaves them parked. -/
  | debugResume (reply : Nat) (ctx : Nat) (teamId : Nat) (lrank : Nat)
  /-- R377. DEBUG operation that issues one packet of a stopped thread in a bundle of its own and stops it again. -/
  | debugStep (reply : Nat) (ctx : Nat) (teamId : Nat) (lrank : Nat)
  /-- R378. DEBUG operation that writes a team's image in context-frame layout without freeing anything. -/
  | dump (reply : Nat) (ctx : Nat) (addr : Nat) (teamId : Nat)
  /-- R378. DEBUG operation that copies PC, PREC, PRED, AKEY and vector registers back into a stopped team. -/
  | debugLoad (reply : Nat) (ctx : Nat) (addr : Nat) (teamId : Nat)
  /-- R131. A tail count written to a queue doorbell makes the dispatcher read the queue-table entry and take announced descriptors in order. -/
  | launchDoorbell (ctx : Nat) (queue : Nat) (tail : BitVec 32)
  /-- R134. A launch starts when both dependence counters reach their thresholds, its uniform words are read and its head count is written. -/
  | launchStart (ctx : Nat) (queue : Nat)
  /-- R134. The dispatcher rereads dependence counters at least every 1,024 ticks and on every completion-event write. -/
  | dependenceRecheck (ctx : Nat) (queue : Nat)
  /-- R137. When a core or rectangle has room, the dispatcher places the next team or cluster, assigns its slot, homes its threads and writes its initial uniforms. -/
  | teamPlacement (ctx : Nat) (queue : Nat)
  /-- R136. When all teams have exited and all their commands completed, the dispatcher increments the DONE counter as a release write. -/
  | launchCompletion (launch : Nat)
  /-- R160. A course's picker chooses a (frame, PC) pair and issues its packet as a bundle, after checking the whole packet for legality. -/
  | packetIssue (die : Nat) (core : Nat) (course : Nat)
  /-- R139. A thread ready for 1,024 core clocks becomes aged and takes precedence at the picker. -/
  | threadAging (team : Nat) (lrank : Nat)
  /-- R197. A yield's count of core clocks runs out and the thread becomes ready with the yield mark. -/
  | yieldExpiry (team : Nat) (lrank : Nat)
  /-- R159. A load's data arrives, its destination is written and its completion flag clears when all tracked instructions are done. -/
  | loadCompletion (part : Part)
  /-- R159. A tracked special-function, XF or accumulator-read operation writes its destination and its flag clears. -/
  | trackedOpCompletion (part : Part)
  /-- R116. A write's completion time t returns to the issuing thread, which raises FH to it. -/
  | writeCompletionReturn (op : Nat)
  /-- R116. A store arrives at its line's home L2 and is performed with t past every unexpired lease. -/
  | storeAtHome (op : Nat)
  /-- R244. An atomic or RED on a RED=0 page is performed at the home L2 after any partial merge. -/
  | atomicAtHome (op : Nat)
  /-- R129. A RED on a RED page combines into the issuing die's private partial value. -/
  | redAtDieL2 (op : Nat)
  /-- R104. A fill reply arrives at L1 and merges into the line under its lease and stamp. -/
  | l1Fill (op : Nat) (evicted : List Nat)
  /-- R115. An L1 copy's lease end passes and the whole line becomes invalid. -/
  | leaseExpiry (die : Nat) (core : Nat) (line : Nat)
  /-- R121. A host write over CXL.cache is placed in a SYSTEM-scope location's order at the home. -/
  | hostCxlWrite (pa : Nat) (data : List (BitVec 8))
  /-- R95. A die TLB miss walks the three-level page table in HBM and returns a translation or a fault. -/
  | pageWalk (die : Nat) (core : Nat) (ctx : Nat) (va : Nat)
  /-- R404. The HBM controller spares a failing row or pseudo-channel, copying readable data, or retires the granule. -/
  | hbmSpare (pa : Nat) (corr : Bool) (spareLeft : Bool)
  /-- R141. At the end of a 1,024-clock window with 32 re-references the permit count P is halved. -/
  | localityWindowEnd (die : Nat) (core : Nat)
  /-- R141. After 4,096 clocks without a heavy window, P rises by one and a waiting team takes the free permit. -/
  | permitIncrease (die : Nat) (core : Nat)
  /-- R142. Every 4,096 core clocks while a team waits, the longest-held load permit moves to the longest-waiting team. -/
  | permitRotation (die : Nat) (core : Nat)
  /-- R46. A parked TCALL's fork reservation is met from the core pool in rendezvous order and the sub-teams begin. -/
  | forkReservation (die : Nat) (core : Nat)
  /-- R54. When all sub-teams are complete, the join merges result registers, returns forks and releases the parent no earlier than GTIME ≥ H + 2. -/
  | join (team : Nat) (frame : Nat)
  /-- R120. A team, cluster or grid barrier releases its participants no earlier than GTIME ≥ H + 2, raising their FH and RH. -/
  | barrierRelease (kind : Nat) (team : Nat) (frame : Nat) (bar : Nat)
  /-- R152. The bow arrives at the next team after its holder's BOW-page writes have returned t, no earlier than GTIME ≥ T + 2. -/
  | bowArrival (launch : Nat)
  /-- R365. A rendezvous open past its limit writes one stall record and keeps waiting. -/
  | rendezvousWatchdog (team : Nat) (lrank : Nat)
  /-- R369. After all flags clear, a trapping thread writes its trap record, pushes its resume point and jumps to its vector. -/
  | trapEntry (team : Nat) (lrank : Nat)
  /-- R144. A team stops issuing, waits for its writes and core-local commands, records abandoned loads and writes its context frame. -/
  | teamSave (team : Nat)
  /-- R264. A thread with an open command window that issues 256 packets without GO lets the pending save begin, losing the window. -/
  | openWindowLimit (team : Nat) (lrank : Nat)
  /-- R146. A saved team is placed back on a core, its frame restored and its recorded loads reissued. -/
  | teamRestore (team : Nat)
  /-- R261. A store to a command window's GO offset sends the window as a command, acting as a release. -/
  | commandGo (op : Nat)
  /-- R262. When queue room and counter limits allow, the command is latched with its handles, counters rise and its tag becomes busy. -/
  | commandAcceptance (op : Nat)
  /-- R123. An engine command's writes are all performed, its status word is written, and its counter, tag and TAGRDY change. -/
  | commandCompletion (cmd : Nat)
  /-- R127. A command's notify counter is incremented at its home once GTIME ≥ Tc + 2. -/
  | notifyRelease (cmd : Nat)
  /-- R281. A matrix command finishes reading its operand-buffer words and lowers its operands-consumed counter. -/
  | mmaOperandsConsumed (cmd : Nat)
  /-- R277. Copy command that copies LEN bytes from SRC to DST. -/
  | copy (cmd : Nat) (done : List Nat)
  /-- R277. Copy command that copies a strided three-dimensional block of rows. -/
  | copynd (cmd : Nat) (done : List Nat)
  /-- R277. Copy command that combines source elements into the destination by add, min or max, locally or on a peer package. -/
  | copyred (cmd : Nat) (done : List Nat)
  /-- R277. Copy command that writes VALUE to each word of a range. -/
  | fill (cmd : Nat) (done : List Nat)
  /-- R277. Copy command that loads lines of a tile handle's operand-buffer range from memory. -/
  | osbload (cmd : Nat) (done : List Nat)
  /-- R277. Copy command that moves accumulator entries to or from memory, with optional conversion. -/
  | accmove (cmd : Nat) (done : List Nat)
  /-- R279. Matrix command that multiplies A and B tiles into accumulator entries with exact chunked rounding. -/
  | mma (part : Part)
  /-- R280. Matrix command like MMA with a 2:4-compressed A operand and its metadata. -/
  | mmas (part : Part)
  /-- R282. Launch command that appends a descriptor to a queue of its own context when the ring has room. -/
  | launch (cmd : Nat)
  /-- R282. A LAUNCH that gained no ring room within 2^26 ticks completes with QFULL. -/
  | launchQfullTimeout (cmd : Nat)
  /-- R298. Attention command that captures block bounds, sorts them and begins bounded visits, or resumes from a cursor. -/
  | attn (cmd : Nat)
  /-- R300. The sequencer visits the next sorted block, reading keys and values stably and updating each query's softmax state. -/
  | attnVisit (cmd : Nat)
  /-- R306. A parked ATTN continues by itself once the faulting page is present. -/
  | attnParkResume (cmd : Nat)
  /-- R392. A stable read that has not succeeded within 256 attempts or 2^20 ticks halts ATTN with UNSTABLE. -/
  | attnUnstable (cmd : Nat)
  /-- R293. Maintenance command that appends a quantised key and value to a block and widens its envelope. -/
  | kapp (cmd : Nat)
  /-- R293. Maintenance command that requantises a block's keys and values with new scales and recomputes its envelope. -/
  | kreq (cmd : Nat)
  /-- R293. Maintenance command that rotates a block's key channel pairs by position-dependent angles. -/
  | krot (cmd : Nat)
  /-- R293. Maintenance command that recomputes a block's envelope. -/
  | ksum (cmd : Nat)
  /-- R293. Maintenance command that truncates a block's key count. -/
  | ktrunc (cmd : Nat)
  /-- R291. A maintenance command finding its block held retries the claim within 64 ticks. -/
  | blockClaimRetry (cmd : Nat)
  /-- R392. A maintenance command that cannot claim its block within 2^24 ticks completes with BUSY. -/
  | maintenanceBusy (cmd : Nat)
  /-- R315. Collective command that starts a step program on a collective engine. -/
  | cprog (cmd : Nat)
  /-- R319. Collective step that writes a chunk into a peer's slot once a slot is free, then releases its TAIL. -/
  | send (cmd : Nat)
  /-- R320. Collective step that takes a chunk from its own slot once TAIL advances and sends the slot-release notice. -/
  | recv (cmd : Nat)
  /-- R320. Collective step that receives a chunk, combines it with a local one, optionally keeps it and sends it on. -/
  | rrs (cmd : Nat)
  /-- R320. Collective step that copies L bytes between local buffers. -/
  | cprogCopy (cmd : Nat)
  /-- R320. Collective step that acquire-reads a symmetric counter until it reaches VAL. -/
  | cprogWait (cmd : Nat)
  /-- R320. Collective step that release-adds VAL to a symmetric counter on a peer. -/
  | notify (cmd : Nat)
  /-- R320. Collective step that starts a counted loop or skips it. -/
  | loop (cmd : Nat)
  /-- R320. Collective step that advances a loop counter and branches back while below the count. -/
  | endloop (cmd : Nat)
  /-- R320. Collective step that computes a peer register by add, xor or mirror modulo SIZE. -/
  | peer (cmd : Nat)
  /-- R322. Collective step that reserves rows in a peer's row area and writes them, or takes OVF on FULL. -/
  | putr (cmd : Nat)
  /-- R317. Collective step that ends the program; the command completes after remote acknowledgements. -/
  | endStep (cmd : Nat)
  /-- R322. A PUTR's fetch-add request is performed at the home of USED, granting rows or FULL. -/
  | putrReserve (cmd : Nat) (got : Nat × Nat)
  /-- R319. A waiting program rereads its slot header words at least every 256 ticks or when a write arrives. -/
  | slotHeaderReread (cmd : Nat)
  /-- R393. A collective wait longer than TMO·1,024 ticks ends the program with TIMEOUT. -/
  | cprogTimeout (cmd : Nat)
  /-- R312. A fabric write is performed at its home in the destination package and acknowledged with its t. -/
  | fabricWriteArrival (msg : FabricMsg)
  /-- R312. An acknowledgement arrives at the issuing engine, giving the write's completion time. -/
  | fabricAck (cmd : Nat) (seq : Nat) (value : Nat)
  /-- R403. A fabric or UCIe lane is lost; the link retrains on the remaining lanes and LANE is recorded. -/
  | lane (link : Nat) (lanes : Nat)
  /-- R403. A link or module loses its last lane; unacknowledged flits go over another link or accesses fail with PEER. -/
  | linkdown (link : Nat)
  /-- R387. Every 256 ticks each die's GTIME is compared with bridge die 0 and corrected in rate, or contexts are stopped. -/
  | timeBaseCompare (die : Nat) (lead : Int) (lost : Bool)
  /-- R406. Every 10 µs the management controller reads thermal, droop and process monitors and throttles, raises or stops. -/
  | monitorReading (die : Nat) (group : Nat) (temp : Nat) (droop : Bool) (proc : Option Nat)
  /-- R406. One millisecond after a droop trip the lowered clock is restored. -/
  | droopRestore (die : Nat) (group : Nat)
  /-- R407. Once a minute the SRAM audit chain is checked against its HBM mirror, rewriting the mirror on mismatch. -/
  | auditChainCheck (mirrorOk : Bool) (sramOk : Bool)
  /-- R204. Adds two registers modulo 2^32. -/
  | iadd (c : BitVec 1) (g : BitVec 3) (d : BitVec 6) (a : BitVec 6) (b : BitVec 6)
  /-- R204. Subtracts two registers modulo 2^32. -/
  | isub (c : BitVec 1) (g : BitVec 3) (d : BitVec 6) (a : BitVec 6) (b : BitVec 6)
  /-- R204. Low 32 bits of a product. -/
  | imul (c : BitVec 1) (g : BitVec 3) (d : BitVec 6) (a : BitVec 6) (b : BitVec 6)
  /-- R204. High 32 bits of a signed product. -/
  | imulhiI32 (c : BitVec 1) (g : BitVec 3) (d : BitVec 6) (a : BitVec 6) (b : BitVec 6)
  /-- R204. High 32 bits of an unsigned product. -/
  | imulhiN32 (c : BitVec 1) (g : BitVec 3) (d : BitVec 6) (a : BitVec 6) (b : BitVec 6)
  /-- R204. Signed minimum. -/
  | iminI32 (c : BitVec 1) (g : BitVec 3) (d : BitVec 6) (a : BitVec 6) (b : BitVec 6)
  /-- R204. Unsigned minimum. -/
  | iminN32 (c : BitVec 1) (g : BitVec 3) (d : BitVec 6) (a : BitVec 6) (b : BitVec 6)
  /-- R204. Signed maximum. -/
  | imaxI32 (c : BitVec 1) (g : BitVec 3) (d : BitVec 6) (a : BitVec 6) (b : BitVec 6)
  /-- R204. Unsigned maximum. -/
  | imaxN32 (c : BitVec 1) (g : BitVec 3) (d : BitVec 6) (a : BitVec 6) (b : BitVec 6)
  /-- R204. Saturating signed add. -/
  | iaddSatI32 (c : BitVec 1) (g : BitVec 3) (d : BitVec 6) (a : BitVec 6) (b : BitVec 6)
  /-- R204. Saturating unsigned add. -/
  | iaddSatN32 (c : BitVec 1) (g : BitVec 3) (d : BitVec 6) (a : BitVec 6) (b : BitVec 6)
  /-- R204. Saturating signed subtract. -/
  | isubSatI32 (c : BitVec 1) (g : BitVec 3) (d : BitVec 6) (a : BitVec 6) (b : BitVec 6)
  /-- R204. Saturating unsigned subtract. -/
  | isubSatN32 (c : BitVec 1) (g : BitVec 3) (d : BitVec 6) (a : BitVec 6) (b : BitVec 6)
  /-- R204. Adds register pairs modulo 2^64. -/
  | iaddI64 (c : BitVec 1) (g : BitVec 3) (d : BitVec 6) (a : BitVec 6) (b : BitVec 6)
  /-- R204. Subtracts register pairs modulo 2^64. -/
  | isubI64 (c : BitVec 1) (g : BitVec 3) (d : BitVec 6) (a : BitVec 6) (b : BitVec 6)
  /-- R204. Multiply-add into vd modulo 2^32. -/
  | imad (c : BitVec 1) (g : BitVec 3) (d : BitVec 6) (a : BitVec 6) (b : BitVec 6)
  /-- R205. Bitwise and. -/
  | and (c : BitVec 1) (g : BitVec 3) (d : BitVec 6) (a : BitVec 6) (b : BitVec 6)
  /-- R205. Bitwise or. -/
  | or (c : BitVec 1) (g : BitVec 3) (d : BitVec 6) (a : BitVec 6) (b : BitVec 6)
  /-- R205. Bitwise exclusive or. -/
  | xor (c : BitVec 1) (g : BitVec 3) (d : BitVec 6) (a : BitVec 6) (b : BitVec 6)
  /-- R205. And with complement. -/
  | andn (c : BitVec 1) (g : BitVec 3) (d : BitVec 6) (a : BitVec 6) (b : BitVec 6)
  /-- R205. Bitwise complement. -/
  | not (c : BitVec 1) (g : BitVec 3) (d : BitVec 6) (a : BitVec 6)
  /-- R205. Logical shift left by a register count. -/
  | shl (c : BitVec 1) (g : BitVec 3) (d : BitVec 6) (a : BitVec 6) (b : BitVec 6)
  /-- R205. Logical shift right by a register count. -/
  | shr (c : BitVec 1) (g : BitVec 3) (d : BitVec 6) (a : BitVec 6) (b : BitVec 6)
  /-- R205. Arithmetic shift right. -/
  | sar (c : BitVec 1) (g : BitVec 3) (d : BitVec 6) (a : BitVec 6) (b : BitVec 6)
  /-- R205. Rotate left. -/
  | rotl (c : BitVec 1) (g : BitVec 3) (d : BitVec 6) (a : BitVec 6) (b : BitVec 6)
  /-- R205. Rotate right. -/
  | rotr (c : BitVec 1) (g : BitVec 3) (d : BitVec 6) (a : BitVec 6) (b : BitVec 6)
  /-- R206. Extracts a bit field zero-extended. -/
  | bitgetN32 (c : BitVec 1) (g : BitVec 3) (d : BitVec 6) (a : BitVec 6) (b : BitVec 6)
  /-- R206. Extracts a bit field sign-extended. -/
  | bitgetI32 (c : BitVec 1) (g : BitVec 3) (d : BitVec 6) (a : BitVec 6) (b : BitVec 6)
  /-- R206. Inserts a bit field into vd. -/
  | bitins (c : BitVec 1) (g : BitVec 3) (d : BitVec 6) (a : BitVec 6) (b : BitVec 6)
  /-- R206. Counts one bits. -/
  | popc (c : BitVec 1) (g : BitVec 3) (d : BitVec 6) (a : BitVec 6)
  /-- R206. Counts leading zeros. -/
  | clz (c : BitVec 1) (g : BitVec 3) (d : BitVec 6) (a : BitVec 6)
  /-- R206. Counts trailing zeros. -/
  | ctz (c : BitVec 1) (g : BitVec 3) (d : BitVec 6) (a : BitVec 6)
  /-- R206. Reverses the bits. -/
  | brev (c : BitVec 1) (g : BitVec 3) (d : BitVec 6) (a : BitVec 6)
  /-- R206. Selects va or vb by a predicate. -/
  | sel (c : BitVec 1) (g : BitVec 3) (d : BitVec 6) (a : BitVec 6) (b : BitVec 6) (q : BitVec 3)
  /-- R207. Adds a uniform register. -/
  | iaddUniform (c : BitVec 1) (g : BitVec 3) (d : BitVec 6) (a : BitVec 6) (s : BitVec 8)
  /-- R207. Subtracts a uniform register. -/
  | isubUniform (c : BitVec 1) (g : BitVec 3) (d : BitVec 6) (a : BitVec 6) (s : BitVec 8)
  /-- R207. Multiplies by a uniform register. -/
  | imulUniform (c : BitVec 1) (g : BitVec 3) (d : BitVec 6) (a : BitVec 6) (s : BitVec 8)
  /-- R207. Ands with a uniform register. -/
  | andUniform (c : BitVec 1) (g : BitVec 3) (d : BitVec 6) (a : BitVec 6) (s : BitVec 8)
  /-- R207. Adds an immediate or literal. -/
  | iaddImm (c : BitVec 1) (g : BitVec 3) (d : BitVec 6) (a : BitVec 6) (i : BitVec 10) (lit : BitVec 32)
  /-- R207. Ands with an immediate. -/
  | andImm (c : BitVec 1) (g : BitVec 3) (d : BitVec 6) (a : BitVec 6) (i : BitVec 10) (lit : BitVec 32)
  /-- R207. Ors with an immediate. -/
  | orImm (c : BitVec 1) (g : BitVec 3) (d : BitVec 6) (a : BitVec 6) (i : BitVec 10) (lit : BitVec 32)
  /-- R207. Xors with an immediate. -/
  | xorImm (c : BitVec 1) (g : BitVec 3) (d : BitVec 6) (a : BitVec 6) (i : BitVec 10) (lit : BitVec 32)
  /-- R207. Shifts left or, by a negative count, right by an immediate. -/
  | shlImm (c : BitVec 1) (g : BitVec 3) (d : BitVec 6) (a : BitVec 6) (i : BitVec 10) (lit : BitVec 32)
  /-- R208. Compares two integers and writes a predicate. -/
  | icmp (c : BitVec 1) (g : BitVec 3) (p : BitVec 3) (a : BitVec 6) (b : BitVec 6) (k : BitVec 4) (f : BitVec 3)
  /-- R209. Copies a register. -/
  | mov (c : BitVec 1) (g : BitVec 3) (d : BitVec 6) (a : BitVec 6)
  /-- R209. Copies a register pair. -/
  | mov64 (c : BitVec 1) (g : BitVec 3) (d : BitVec 6) (a : BitVec 6)
  /-- R209. Predicate and. -/
  | pand (c : BitVec 1) (g : BitVec 3) (d : BitVec 3) (a : BitVec 3) (b : BitVec 3)
  /-- R209. Predicate or. -/
  | por (c : BitVec 1) (g : BitVec 3) (d : BitVec 3) (a : BitVec 3) (b : BitVec 3)
  /-- R209. Predicate exclusive or. -/
  | pxor (c : BitVec 1) (g : BitVec 3) (d : BitVec 3) (a : BitVec 3) (b : BitVec 3)
  /-- R209. Predicate and with complement. -/
  | pandn (c : BitVec 1) (g : BitVec 3) (d : BitVec 3) (a : BitVec 3) (b : BitVec 3)
  /-- R209. Moves a predicate into a vector register. -/
  | pmov (c : BitVec 1) (g : BitVec 3) (d : BitVec 6) (a : BitVec 3)
  /-- R209. Sets a predicate when a register is nonzero. -/
  | ptst (c : BitVec 1) (g : BitVec 3) (d : BitVec 3) (a : BitVec 6)
  /-- R210. Mixes a counter and key into a random word. -/
  | rand (c : BitVec 1) (g : BitVec 3) (d : BitVec 6) (a : BitVec 6) (b : BitVec 6)
  /-- R209. Writes the low half of vd. -/
  | movH0 (c : BitVec 1) (g : BitVec 3) (d : BitVec 6) (a : BitVec 6)
  /-- R209. Writes the high half of vd. -/
  | movH1 (c : BitVec 1) (g : BitVec 3) (d : BitVec 6) (a : BitVec 6)
  /-- R207. Moves an immediate or literal into a vector register. -/
  | movImm (c : BitVec 1) (g : BitVec 3) (d : BitVec 6) (i : BitVec 10) (lit : BitVec 32)
  /-- R211. Uniform add. -/
  | uadd (c : BitVec 1) (d : BitVec 8) (a : BitVec 8) (b : BitVec 6)
  /-- R211. Uniform subtract. -/
  | usub (c : BitVec 1) (d : BitVec 8) (a : BitVec 8) (b : BitVec 6)
  /-- R211. Uniform multiply. -/
  | umul (c : BitVec 1) (d : BitVec 8) (a : BitVec 8) (b : BitVec 6)
  /-- R211. Uniform and. -/
  | uand (c : BitVec 1) (d : BitVec 8) (a : BitVec 8) (b : BitVec 6)
  /-- R211. Uniform or. -/
  | uor (c : BitVec 1) (d : BitVec 8) (a : BitVec 8) (b : BitVec 6)
  /-- R211. Uniform exclusive or. -/
  | uxor (c : BitVec 1) (d : BitVec 8) (a : BitVec 8) (b : BitVec 6)
  /-- R211. Uniform shift left. -/
  | ushl (c : BitVec 1) (d : BitVec 8) (a : BitVec 8) (b : BitVec 6)
  /-- R211. Uniform shift right. -/
  | ushr (c : BitVec 1) (d : BitVec 8) (a : BitVec 8) (b : BitVec 6)
  /-- R211. Uniform add of an immediate. -/
  | uaddImm (c : BitVec 1) (d : BitVec 8) (a : BitVec 8) (i : BitVec 6) (lit : BitVec 32)
  /-- R211. Uniform subtract of an immediate. -/
  | usubImm (c : BitVec 1) (d : BitVec 8) (a : BitVec 8) (i : BitVec 6) (lit : BitVec 32)
  /-- R211. Uniform multiply by an immediate. -/
  | umulImm (c : BitVec 1) (d : BitVec 8) (a : BitVec 8) (i : BitVec 6) (lit : BitVec 32)
  /-- R211. Uniform and with an immediate. -/
  | uandImm (c : BitVec 1) (d : BitVec 8) (a : BitVec 8) (i : BitVec 6) (lit : BitVec 32)
  /-- R211. Uniform or with an immediate. -/
  | uorImm (c : BitVec 1) (d : BitVec 8) (a : BitVec 8) (i : BitVec 6) (lit : BitVec 32)
  /-- R211. Uniform xor with an immediate. -/
  | uxorImm (c : BitVec 1) (d : BitVec 8) (a : BitVec 8) (i : BitVec 6) (lit : BitVec 32)
  /-- R211. Uniform shift left by an immediate. -/
  | ushlImm (c : BitVec 1) (d : BitVec 8) (a : BitVec 8) (i : BitVec 6) (lit : BitVec 32)
  /-- R211. Uniform shift right by an immediate. -/
  | ushrImm (c : BitVec 1) (d : BitVec 8) (a : BitVec 8) (i : BitVec 6) (lit : BitVec 32)
  /-- R212. Copies a uniform register into vd of every thread of the bundle. -/
  | movVFromS (c : BitVec 1) (d : BitVec 6) (s : BitVec 8)
  /-- R212. Copies the lowest-ranked thread's register into a uniform register. -/
  | movSFromV (c : BitVec 1) (d : BitVec 8) (a : BitVec 6)
  /-- R212. Copies a uniform pair into a vector pair. -/
  | mov64VFromS (c : BitVec 1) (d : BitVec 6) (s : BitVec 8)
  /-- R212. Copies a vector pair of the lowest-ranked thread into a uniform pair. -/
  | mov64SFromV (c : BitVec 1) (d : BitVec 8) (a : BitVec 6)
  /-- R213. Moves an immediate into a uniform register. -/
  | movUniformImm (c : BitVec 1) (d : BitVec 8) (i : BitVec 6) (lit : BitVec 32)
  /-- R213. Compares a uniform register with an immediate and writes a predicate in every thread of the bundle. -/
  | ucmp (c : BitVec 1) (u : BitVec 3) (p : BitVec 3) (a : BitVec 8) (i : BitVec 6) (lit : BitVec 32)
  /-- R217. FP32 add. -/
  | faddF32 (c : BitVec 1) (g : BitVec 3) (d : BitVec 6) (a : BitVec 6) (b : BitVec 6)
  /-- R217. FP32 subtract. -/
  | fsubF32 (c : BitVec 1) (g : BitVec 3) (d : BitVec 6) (a : BitVec 6) (b : BitVec 6)
  /-- R217. FP32 multiply. -/
  | fmulF32 (c : BitVec 1) (g : BitVec 3) (d : BitVec 6) (a : BitVec 6) (b : BitVec 6)
  /-- R217. FP32 fused multiply-add into vd. -/
  | ffmaF32 (c : BitVec 1) (g : BitVec 3) (d : BitVec 6) (a : BitVec 6) (b : BitVec 6)
  /-- R217. FP32 fused multiply-subtract. -/
  | ffmsF32 (c : BitVec 1) (g : BitVec 3) (d : BitVec 6) (a : BitVec 6) (b : BitVec 6)
  /-- R217. FP32 fused negated multiply-add. -/
  | fnmaF32 (c : BitVec 1) (g : BitVec 3) (d : BitVec 6) (a : BitVec 6) (b : BitVec 6)
  /-- R218. FP32 minimum. -/
  | fminF32 (c : BitVec 1) (g : BitVec 3) (d : BitVec 6) (a : BitVec 6) (b : BitVec 6)
  /-- R218. FP32 maximum. -/
  | fmaxF32 (c : BitVec 1) (g : BitVec 3) (d : BitVec 6) (a : BitVec 6) (b : BitVec 6)
  /-- R218. Clears the sign bit. -/
  | fabsF32 (c : BitVec 1) (g : BitVec 3) (d : BitVec 6) (a : BitVec 6)
  /-- R218. Inverts the sign bit. -/
  | fnegF32 (c : BitVec 1) (g : BitVec 3) (d : BitVec 6) (a : BitVec 6)
  /-- R218. Copies the sign of vb onto va. -/
  | fcopysignF32 (c : BitVec 1) (g : BitVec 3) (d : BitVec 6) (a : BitVec 6) (b : BitVec 6)
  /-- R218. FP32 minimum preferring numbers. -/
  | fminNumF32 (c : BitVec 1) (g : BitVec 3) (d : BitVec 6) (a : BitVec 6) (b : BitVec 6)
  /-- R218. FP32 maximum preferring numbers. -/
  | fmaxNumF32 (c : BitVec 1) (g : BitVec 3) (d : BitVec 6) (a : BitVec 6) (b : BitVec 6)
  /-- R220. Packed FP16 or BF16 add. -/
  | faddF16 (c : BitVec 1) (y : BitVec 1) (g : BitVec 3) (d : BitVec 6) (a : BitVec 6) (b : BitVec 6)
  /-- R220. Packed FP16 or BF16 subtract. -/
  | fsubF16 (c : BitVec 1) (y : BitVec 1) (g : BitVec 3) (d : BitVec 6) (a : BitVec 6) (b : BitVec 6)
  /-- R220. Packed FP16 or BF16 multiply. -/
  | fmulF16 (c : BitVec 1) (y : BitVec 1) (g : BitVec 3) (d : BitVec 6) (a : BitVec 6) (b : BitVec 6)
  /-- R220. Packed absolute value. -/
  | fabsF16 (c : BitVec 1) (y : BitVec 1) (g : BitVec 3) (d : BitVec 6) (a : BitVec 6)
  /-- R220. Packed negation. -/
  | fnegF16 (c : BitVec 1) (y : BitVec 1) (g : BitVec 3) (d : BitVec 6) (a : BitVec 6)
  /-- R220. Two-term dot product added to an FP32 vd with one rounding. -/
  | fdot2F16 (c : BitVec 1) (y : BitVec 1) (g : BitVec 3) (d : BitVec 6) (a : BitVec 6) (b : BitVec 6)
  /-- R219. FP32 add of a uniform operand. -/
  | faddF32Uniform (c : BitVec 1) (g : BitVec 3) (d : BitVec 6) (a : BitVec 6) (s : BitVec 8)
  /-- R219. FP32 multiply by a uniform operand. -/
  | fmulF32Uniform (c : BitVec 1) (g : BitVec 3) (d : BitVec 6) (a : BitVec 6) (s : BitVec 8)
  /-- R219. FP32 fused multiply-add with a uniform operand. -/
  | ffmaF32Uniform (c : BitVec 1) (g : BitVec 3) (d : BitVec 6) (a : BitVec 6) (s : BitVec 8)
  /-- R219. FP32 subtract of a uniform operand. -/
  | fsubF32Uniform (c : BitVec 1) (g : BitVec 3) (d : BitVec 6) (a : BitVec 6) (s : BitVec 8)
  /-- R219. FP32 multiply by an integer immediate or FP32 literal. -/
  | fmulF32Imm (c : BitVec 1) (g : BitVec 3) (d : BitVec 6) (a : BitVec 6) (i : BitVec 10) (lit : BitVec 32)
  /-- R222. Floating-point compare into a predicate. -/
  | fcmp (c : BitVec 1) (g : BitVec 3) (p : BitVec 3) (a : BitVec 6) (b : BitVec 6) (k : BitVec 4) (f : BitVec 3)
  /-- R222. Tests the class of a value against a class mask. -/
  | fclass (c : BitVec 1) (g : BitVec 3) (p : BitVec 3) (a : BitVec 6) (b : BitVec 6) (f : BitVec 3)
  /-- R224. Rounds FP32 to an integral value in a chosen mode. -/
  | frndF32 (c : BitVec 1) (g : BitVec 3) (d : BitVec 6) (a : BitVec 6) (r : BitVec 3)
  /-- R224. Converts a source format to FP32. -/
  | cvtToF32 (c : BitVec 1) (g : BitVec 3) (d : BitVec 6) (a : BitVec 6) (r : BitVec 3) (e : BitVec 2) (f : BitVec 4)
  /-- R225. Converts FP32 to a target format. -/
  | cvtFromF32 (c : BitVec 1) (g : BitVec 3) (d : BitVec 6) (a : BitVec 6) (r : BitVec 3) (z : BitVec 1) (e : BitVec 2) (f : BitVec 4)
  /-- R226. Packs two FP32 values into a narrow format. -/
  | cvtPk (c : BitVec 1) (g : BitVec 3) (d : BitVec 6) (a : BitVec 6) (b : BitVec 6) (h : BitVec 1) (f : BitVec 3)
  /-- R227. Correctly rounded reciprocal. -/
  | frcpF32 (c : BitVec 1) (g : BitVec 3) (d : BitVec 6) (a : BitVec 6)
  /-- R227. Correctly rounded reciprocal square root. -/
  | frsqF32 (c : BitVec 1) (g : BitVec 3) (d : BitVec 6) (a : BitVec 6)
  /-- R227. Correctly rounded square root. -/
  | fsqrtF32 (c : BitVec 1) (g : BitVec 3) (d : BitVec 6) (a : BitVec 6)
  /-- R227. Correctly rounded base-2 exponential. -/
  | fexp2F32 (c : BitVec 1) (g : BitVec 3) (d : BitVec 6) (a : BitVec 6)
  /-- R227. Correctly rounded base-2 logarithm. -/
  | flog2F32 (c : BitVec 1) (g : BitVec 3) (d : BitVec 6) (a : BitVec 6)
  /-- R227. Correctly rounded hyperbolic tangent. -/
  | ftanhF32 (c : BitVec 1) (g : BitVec 3) (d : BitVec 6) (a : BitVec 6)
  /-- R227. Correctly rounded sine. -/
  | fsinF32 (c : BitVec 1) (g : BitVec 3) (d : BitVec 6) (a : BitVec 6)
  /-- R227. Correctly rounded cosine. -/
  | fcosF32 (c : BitVec 1) (g : BitVec 3) (d : BitVec 6) (a : BitVec 6)
  /-- R221. Packed FP16 or BF16 minimum. -/
  | fminF16 (c : BitVec 1) (g : BitVec 3) (d : BitVec 6) (a : BitVec 6) (b : BitVec 6) (y : BitVec 1)
  /-- R221. Packed FP16 or BF16 maximum. -/
  | fmaxF16 (c : BitVec 1) (g : BitVec 3) (d : BitVec 6) (a : BitVec 6) (b : BitVec 6) (y : BitVec 1)
  /-- R221. Packed FP16 or BF16 fused multiply-add. -/
  | ffmaF16 (c : BitVec 1) (g : BitVec 3) (d : BitVec 6) (a : BitVec 6) (b : BitVec 6) (y : BitVec 1)
  /-- R230. XF add rounded by PREC. -/
  | xadd (c : BitVec 1) (g : BitVec 3) (d : BitVec 6) (a : BitVec 6) (b : BitVec 6)
  /-- R230. XF subtract. -/
  | xsub (c : BitVec 1) (g : BitVec 3) (d : BitVec 6) (a : BitVec 6) (b : BitVec 6)
  /-- R230. XF multiply. -/
  | xmul (c : BitVec 1) (g : BitVec 3) (d : BitVec 6) (a : BitVec 6) (b : BitVec 6)
  /-- R230. XF divide. -/
  | xdiv (c : BitVec 1) (g : BitVec 3) (d : BitVec 6) (a : BitVec 6) (b : BitVec 6)
  /-- R230. XF fused multiply-add into xd. -/
  | xfma (c : BitVec 1) (g : BitVec 3) (d : BitVec 6) (a : BitVec 6) (b : BitVec 6)
  /-- R230. XF square root. -/
  | xsqrt (c : BitVec 1) (g : BitVec 3) (d : BitVec 6) (a : BitVec 6)
  /-- R230. XF negation. -/
  | xneg (c : BitVec 1) (g : BitVec 3) (d : BitVec 6) (a : BitVec 6)
  /-- R230. XF absolute value. -/
  | xabs (c : BitVec 1) (g : BitVec 3) (d : BitVec 6) (a : BitVec 6)
  /-- R230. XF minimum. -/
  | xmin (c : BitVec 1) (g : BitVec 3) (d : BitVec 6) (a : BitVec 6) (b : BitVec 6)
  /-- R230. XF maximum. -/
  | xmax (c : BitVec 1) (g : BitVec 3) (d : BitVec 6) (a : BitVec 6) (b : BitVec 6)
  /-- R232. Converts FP32 to XF. -/
  | xcvtXfF32 (c : BitVec 1) (g : BitVec 3) (d : BitVec 6) (a : BitVec 6)
  /-- R232. Converts I32 to XF. -/
  | xcvtXfI32 (c : BitVec 1) (g : BitVec 3) (d : BitVec 6) (a : BitVec 6)
  /-- R232. Converts N32 to XF. -/
  | xcvtXfN32 (c : BitVec 1) (g : BitVec 3) (d : BitVec 6) (a : BitVec 6)
  /-- R232. Converts an I64 pair to XF. -/
  | xcvtXfI64 (c : BitVec 1) (g : BitVec 3) (d : BitVec 6) (a : BitVec 6)
  /-- R232. Converts an N64 pair to XF. -/
  | xcvtXfN64 (c : BitVec 1) (g : BitVec 3) (d : BitVec 6) (a : BitVec 6)
  /-- R232. Converts XF to FP32 in a chosen mode. -/
  | xcvtF32Xf (c : BitVec 1) (g : BitVec 3) (d : BitVec 6) (a : BitVec 6) (r : BitVec 3) (z : BitVec 1)
  /-- R232. Converts XF to I32, saturating. -/
  | xcvtI32Xf (c : BitVec 1) (g : BitVec 3) (d : BitVec 6) (a : BitVec 6) (r : BitVec 3)
  /-- R232. Converts XF to N32, saturating. -/
  | xcvtN32Xf (c : BitVec 1) (g : BitVec 3) (d : BitVec 6) (a : BitVec 6) (r : BitVec 3)
  /-- R232. Converts XF to an I64 pair. -/
  | xcvtI64Xf (c : BitVec 1) (g : BitVec 3) (d : BitVec 6) (a : BitVec 6) (r : BitVec 3)
  /-- R232. Converts XF to an N64 pair. -/
  | xcvtN64Xf (c : BitVec 1) (g : BitVec 3) (d : BitVec 6) (a : BitVec 6) (r : BitVec 3)
  /-- R232. Rewrites an XF value at the current precision. -/
  | xrnd (c : BitVec 1) (g : BitVec 3) (d : BitVec 6) (a : BitVec 6)
  /-- R232. Rounds an XF value to an integral value. -/
  | xrint (c : BitVec 1) (g : BitVec 3) (d : BitVec 6) (a : BitVec 6)
  /-- R233. Compares two XF values exactly into a predicate. -/
  | xcmp (c : BitVec 1) (g : BitVec 3) (p : BitVec 3) (a : BitVec 6) (b : BitVec 6) (k : BitVec 4)
  /-- R234. Sets PREC.P to an immediate. -/
  | setp (c : BitVec 1) (g : BitVec 3) (n : BitVec 8)
  /-- R234. Sets PREC.RM. -/
  | setrm (c : BitVec 1) (g : BitVec 3) (m : BitVec 3)
  /-- R234. Sets PREC.X. -/
  | setx (c : BitVec 1) (g : BitVec 3) (x : BitVec 1)
  /-- R234. Adds a signed amount to PREC.P. -/
  | addp (c : BitVec 1) (g : BitVec 3) (k : BitVec 9)
  /-- R234. Sets PREC.P from a register. -/
  | setpReg (c : BitVec 1) (g : BitVec 3) (a : BitVec 6)
  /-- R234. Clears PREC.XUF. -/
  | clrxuf (c : BitVec 1) (g : BitVec 3)
  /-- R247. Loads an XF element exactly into a window. -/
  | xld (c : BitVec 1) (g : BitVec 3) (d : BitVec 6) (a : BitVec 6) (o : BitVec 10) (lit : BitVec 32)
  /-- R248. Loads an XF element and rounds it by PREC. -/
  | xldR (c : BitVec 1) (g : BitVec 3) (d : BitVec 6) (a : BitVec 6)
  /-- R248. Rounds a window by PREC and stores it. -/
  | xst (c : BitVec 1) (g : BitVec 3) (d : BitVec 6) (a : BitVec 6)
  /-- R248. Stores a window at its shortest exact length. -/
  | xstMin (c : BitVec 1) (g : BitVec 3) (d : BitVec 6) (a : BitVec 6)
  /-- R248. Loads an XF element exactly and advances the address pair. -/
  | xlds (c : BitVec 1) (g : BitVec 3) (d : BitVec 6) (a : BitVec 6)
  /-- R248. Loads and rounds an XF element and advances the address pair. -/
  | xldsR (c : BitVec 1) (g : BitVec 3) (d : BitVec 6) (a : BitVec 6)
  /-- R248. Rounds and stores a window and advances the address pair. -/
  | xsts (c : BitVec 1) (g : BitVec 3) (d : BitVec 6) (a : BitVec 6)
  /-- R248. Stores a window at Wmin and advances the address pair. -/
  | xstsMin (c : BitVec 1) (g : BitVec 3) (d : BitVec 6) (a : BitVec 6)
  /-- R238. Loads 32 bits. -/
  | ld32 (c : BitVec 1) (g : BitVec 3) (d : BitVec 6) (a : BitVec 6) (o : BitVec 10) (lit : BitVec 32)
  /-- R238. Stores 32 bits. -/
  | st32 (c : BitVec 1) (g : BitVec 3) (d : BitVec 6) (a : BitVec 6) (o : BitVec 10) (lit : BitVec 32)
  /-- R238. Loads 64 bits into a pair. -/
  | ld64 (c : BitVec 1) (g : BitVec 3) (d : BitVec 6) (a : BitVec 6) (o : BitVec 10) (lit : BitVec 32)
  /-- R238. Stores 64 bits from a pair. -/
  | st64 (c : BitVec 1) (g : BitVec 3) (d : BitVec 6) (a : BitVec 6) (o : BitVec 10) (lit : BitVec 32)
  /-- R238. Loads 128 bits into four registers. -/
  | ld128 (c : BitVec 1) (g : BitVec 3) (d : BitVec 6) (a : BitVec 6) (o : BitVec 10) (lit : BitVec 32)
  /-- R238. Stores 128 bits from four registers. -/
  | st128 (c : BitVec 1) (g : BitVec 3) (d : BitVec 6) (a : BitVec 6) (o : BitVec 10) (lit : BitVec 32)
  /-- R239. Loads a byte zero-extended. -/
  | ldN8 (c : BitVec 1) (g : BitVec 3) (d : BitVec 6) (a : BitVec 6)
  /-- R239. Loads a halfword zero-extended. -/
  | ldN16 (c : BitVec 1) (g : BitVec 3) (d : BitVec 6) (a : BitVec 6)
  /-- R239. Loads a halfword into the low half. -/
  | ldN16H0 (c : BitVec 1) (g : BitVec 3) (d : BitVec 6) (a : BitVec 6)
  /-- R239. Loads a halfword into the high half. -/
  | ldN16H1 (c : BitVec 1) (g : BitVec 3) (d : BitVec 6) (a : BitVec 6)
  /-- R239. Stores a byte. -/
  | stN8 (c : BitVec 1) (g : BitVec 3) (d : BitVec 6) (a : BitVec 6)
  /-- R239. Stores the low halfword. -/
  | stN16 (c : BitVec 1) (g : BitVec 3) (d : BitVec 6) (a : BitVec 6)
  /-- R239. Stores the high halfword. -/
  | stN16H1 (c : BitVec 1) (g : BitVec 3) (d : BitVec 6) (a : BitVec 6)
  /-- R119. Acquire load of 32 bits. -/
  | ldAcq32 (c : BitVec 1) (g : BitVec 3) (d : BitVec 6) (a : BitVec 6)
  /-- R119. Acquire load of 64 bits. -/
  | ldAcq64 (c : BitVec 1) (g : BitVec 3) (d : BitVec 6) (a : BitVec 6)
  /-- R119. Release store of 32 bits. -/
  | stRel32 (c : BitVec 1) (g : BitVec 3) (d : BitVec 6) (a : BitVec 6)
  /-- R119. Release store of 64 bits. -/
  | stRel64 (c : BitVec 1) (g : BitVec 3) (d : BitVec 6) (a : BitVec 6)
  /-- R119. Acquire load of 128 bits. -/
  | ldAcq128 (c : BitVec 1) (g : BitVec 3) (d : BitVec 6) (a : BitVec 6)
  /-- R119. Release store of 128 bits. -/
  | stRel128 (c : BitVec 1) (g : BitVec 3) (d : BitVec 6) (a : BitVec 6)
  /-- R240. Loads 32 bits at a uniform base plus index. -/
  | ldUniformBase (c : BitVec 1) (g : BitVec 3) (d : BitVec 6) (a : BitVec 6) (s : BitVec 8)
  /-- R240. Stores 32 bits at a uniform base plus index. -/
  | stUniformBase (c : BitVec 1) (g : BitVec 3) (d : BitVec 6) (a : BitVec 6) (s : BitVec 8)
  /-- R240. Loads 64 bits at a uniform base plus index. -/
  | ld64UniformBase (c : BitVec 1) (g : BitVec 3) (d : BitVec 6) (a : BitVec 6) (s : BitVec 8)
  /-- R240. Stores 64 bits at a uniform base plus index. -/
  | st64UniformBase (c : BitVec 1) (g : BitVec 3) (d : BitVec 6) (a : BitVec 6) (s : BitVec 8)
  /-- R242. Atomic 32-bit add returning the old value. -/
  | atomAddI32 (c : BitVec 1) (g : BitVec 3) (d : BitVec 6) (a : BitVec 6) (b : BitVec 6)
  /-- R242. Atomic signed minimum. -/
  | atomMinI32 (c : BitVec 1) (g : BitVec 3) (d : BitVec 6) (a : BitVec 6) (b : BitVec 6)
  /-- R242. Atomic signed maximum. -/
  | atomMaxI32 (c : BitVec 1) (g : BitVec 3) (d : BitVec 6) (a : BitVec 6) (b : BitVec 6)
  /-- R242. Atomic unsigned minimum. -/
  | atomMinN32 (c : BitVec 1) (g : BitVec 3) (d : BitVec 6) (a : BitVec 6) (b : BitVec 6)
  /-- R242. Atomic unsigned maximum. -/
  | atomMaxN32 (c : BitVec 1) (g : BitVec 3) (d : BitVec 6) (a : BitVec 6) (b : BitVec 6)
  /-- R242. Atomic and. -/
  | atomAnd (c : BitVec 1) (g : BitVec 3) (d : BitVec 6) (a : BitVec 6) (b : BitVec 6)
  /-- R242. Atomic or. -/
  | atomOr (c : BitVec 1) (g : BitVec 3) (d : BitVec 6) (a : BitVec 6) (b : BitVec 6)
  /-- R242. Atomic exclusive or. -/
  | atomXor (c : BitVec 1) (g : BitVec 3) (d : BitVec 6) (a : BitVec 6) (b : BitVec 6)
  /-- R242. Atomic 32-bit exchange. -/
  | atomExch (c : BitVec 1) (g : BitVec 3) (d : BitVec 6) (a : BitVec 6) (b : BitVec 6)
  /-- R242. Atomic 32-bit compare-and-swap. -/
  | atomCas (c : BitVec 1) (g : BitVec 3) (d : BitVec 6) (a : BitVec 6) (b : BitVec 6)
  /-- R242. Atomic 64-bit add. -/
  | atomAddI64 (c : BitVec 1) (g : BitVec 3) (d : BitVec 6) (a : BitVec 6) (b : BitVec 6)
  /-- R242. Atomic 64-bit unsigned maximum. -/
  | atomMaxN64 (c : BitVec 1) (g : BitVec 3) (d : BitVec 6) (a : BitVec 6) (b : BitVec 6)
  /-- R242. Atomic 64-bit exchange. -/
  | atomExch64 (c : BitVec 1) (g : BitVec 3) (d : BitVec 6) (a : BitVec 6) (b : BitVec 6)
  /-- R242. Atomic 64-bit compare-and-swap. -/
  | atomCas64 (c : BitVec 1) (g : BitVec 3) (d : BitVec 6) (a : BitVec 6) (b : BitVec 6)
  /-- R243. Atomic with acquire, release or both, its operation and order in a literal. -/
  | atomOrdered (c : BitVec 1) (g : BitVec 3) (d : BitVec 6) (a : BitVec 6) (b : BitVec 6) (lit : BitVec 32)
  /-- R245. Commutative update with no return value, the operation in the vd field. -/
  | red (c : BitVec 1) (g : BitVec 3) (r : BitVec 6) (a : BitVec 6) (b : BitVec 6)
  /-- R118. Full fence waiting for earlier accesses and GTIME ≥ FH + 2. -/
  | fence (g : BitVec 3)
  /-- R118. Acquire fence raising RH. -/
  | fenceAcq (g : BitVec 3)
  /-- R118. Release fence holding later writes. -/
  | fenceRel (g : BitVec 3)
  /-- R246. Fills a line into L1 with no destination. -/
  | prefetch (c : BitVec 1) (g : BitVec 3) (a : BitVec 6) (o : BitVec 10) (lit : BitVec 32)
  /-- R246. Brings a line into its home L2. -/
  | prefetchL2 (c : BitVec 1) (g : BitVec 3) (a : BitVec 6) (o : BitVec 10) (lit : BitVec 32)
  /-- R253. Takes a value from the lane named in vd. -/
  | pluckAt (c : BitVec 1) (g : BitVec 3) (d : BitVec 6) (a : BitVec 6) (s : BitVec 8)
  /-- R253. Takes a value from lane j − l. -/
  | pluckBelow (c : BitVec 1) (g : BitVec 3) (d : BitVec 6) (a : BitVec 6) (s : BitVec 8)
  /-- R253. Takes a value from lane j + l. -/
  | pluckAbove (c : BitVec 1) (g : BitVec 3) (d : BitVec 6) (a : BitVec 6) (s : BitVec 8)
  /-- R253. Takes a value from lane j XOR l. -/
  | pluckFlip (c : BitVec 1) (g : BitVec 3) (d : BitVec 6) (a : BitVec 6) (s : BitVec 8)
  /-- R254. 1 if every member contribution is true. -/
  | pollAll (c : BitVec 1) (g : BitVec 3) (d : BitVec 6) (a : BitVec 6) (s : BitVec 8)
  /-- R254. 1 if any member contribution is true. -/
  | pollAny (c : BitVec 1) (g : BitVec 3) (d : BitVec 6) (a : BitVec 6) (s : BitVec 8)
  /-- R254. Ballot mask of true contributions. -/
  | pollMask (c : BitVec 1) (g : BitVec 3) (d : BitVec 6) (a : BitVec 6) (s : BitVec 8)
  /-- R254. Mask of lanes holding the same value. -/
  | pollSame (c : BitVec 1) (g : BitVec 3) (d : BitVec 6) (a : BitVec 6) (s : BitVec 8)
  /-- R255. Group integer sum. -/
  | gredAddI32 (c : BitVec 1) (g : BitVec 3) (d : BitVec 6) (a : BitVec 6) (s : BitVec 8)
  /-- R255. Group signed minimum. -/
  | gredMinI32 (c : BitVec 1) (g : BitVec 3) (d : BitVec 6) (a : BitVec 6) (s : BitVec 8)
  /-- R255. Group signed maximum. -/
  | gredMaxI32 (c : BitVec 1) (g : BitVec 3) (d : BitVec 6) (a : BitVec 6) (s : BitVec 8)
  /-- R255. Group unsigned maximum with index. -/
  | gredMaxiN32 (c : BitVec 1) (g : BitVec 3) (d : BitVec 6) (a : BitVec 6) (s : BitVec 8)
  /-- R255. Group FP32 sum by a fixed tree. -/
  | gredAddF32 (c : BitVec 1) (g : BitVec 3) (d : BitVec 6) (a : BitVec 6) (s : BitVec 8)
  /-- R255. Group FP32 minimum. -/
  | gredMinF32 (c : BitVec 1) (g : BitVec 3) (d : BitVec 6) (a : BitVec 6) (s : BitVec 8)
  /-- R255. Group FP32 maximum. -/
  | gredMaxF32 (c : BitVec 1) (g : BitVec 3) (d : BitVec 6) (a : BitVec 6) (s : BitVec 8)
  /-- R255. Group FP32 maximum with index. -/
  | gredMaxiF32 (c : BitVec 1) (g : BitVec 3) (d : BitVec 6) (a : BitVec 6) (s : BitVec 8)
  /-- R256. Inclusive group prefix sum. -/
  | gscanAddI32 (c : BitVec 1) (g : BitVec 3) (d : BitVec 6) (a : BitVec 6) (s : BitVec 8)
  /-- R256. Exclusive group prefix sum. -/
  | gscanAddXI32 (c : BitVec 1) (g : BitVec 3) (d : BitVec 6) (a : BitVec 6) (s : BitVec 8)
  /-- R256. Inclusive group prefix maximum. -/
  | gscanMaxI32 (c : BitVec 1) (g : BitVec 3) (d : BitVec 6) (a : BitVec 6) (s : BitVec 8)
  /-- R256. Compaction positions and total of true lanes. -/
  | gcompact (c : BitVec 1) (g : BitVec 3) (d : BitVec 6) (a : BitVec 6) (s : BitVec 8)
  /-- R257. Sorts member key-index pairs and hands the top k out in lane order. -/
  | topk (c : BitVec 1) (g : BitVec 3) (d : BitVec 6) (a : BitVec 6) (s : BitVec 8)
  /-- R258. Group synchronisation point over member lanes. -/
  | gsync (c : BitVec 1) (g : BitVec 3) (s : BitVec 8)
  /-- R265. Sends a command from sixteen uniform registers if it can be accepted now, reporting success in a predicate. -/
  | push (c : BitVec 1) (g : BitVec 3) (p : BitVec 3) (l : BitVec 3) (s : BitVec 8)
  /-- R272. Checks and writes a tile-handle reservation record from uniform registers. -/
  | obres (c : BitVec 1) (g : BitVec 3) (k : BitVec 4) (s : BitVec 8)
  /-- R272. Clears a tile handle. -/
  | obrel (c : BitVec 1) (g : BitVec 3) (k : BitVec 4)
  /-- R274. Reads an accumulator entry. -/
  | accrd (c : BitVec 1) (g : BitVec 3) (d : BitVec 6) (a : BitVec 6)
  /-- R274. Writes an accumulator entry. -/
  | accwr (c : BitVec 1) (g : BitVec 3) (a : BitVec 6) (b : BitVec 6)
  /-- R274. Reads four accumulator entries. -/
  | accrd128 (c : BitVec 1) (g : BitVec 3) (d : BitVec 6) (a : BitVec 6)
  /-- R274. Writes four accumulator entries. -/
  | accwr128 (c : BitVec 1) (g : BitVec 3) (a : BitVec 6) (b : BitVec 6)
  /-- R274. Adds FP32 into an accumulator entry indivisibly. -/
  | accaddF32 (c : BitVec 1) (g : BitVec 3) (a : BitVec 6) (b : BitVec 6)
  /-- R274. Adds I32 into an accumulator entry indivisibly. -/
  | accaddI32 (c : BitVec 1) (g : BitVec 3) (a : BitVec 6) (b : BitVec 6)
  /-- R125. Waits until at most n commands of a class remain incomplete and acquires their writes. -/
  | waitc (g : BitVec 3) (l : BitVec 3) (n : BitVec 8)
  /-- R125. Waits until at most n matrix commands remain short of operands consumed. -/
  | waitcCons (g : BitVec 3) (n : BitVec 8)
  /-- R126. Waits until one masked tag is ready and acquires its commands' writes. -/
  | waitany (g : BitVec 3) (s : BitVec 8)
  /-- R126. Waits until every masked tag is ready. -/
  | waitall (g : BitVec 3) (s : BitVec 8)
  /-- R270. Returns the lowest ready masked tag, or 64. -/
  | ffr (c : BitVec 1) (g : BitVec 3) (d : BitVec 6) (s : BitVec 8)
  /-- R181. Branches per thread when a predicate is 1. -/
  | bra (p : BitVec 3) (h : BitVec 1) (t : BitVec 21)
  /-- R185. Pushes the return address and branches. -/
  | call (t : BitVec 21)
  /-- R185. Pops a return-stack entry and jumps to it. -/
  | ret
  /-- R186. Team-collective call dividing the frame's threads among up to four sub-teams. -/
  | tcall (w : BitVec 8) (e : BitVec 8) (g : BitVec 1) (lit : BitVec 32)
  /-- R188. Parks the thread until its frame's join. -/
  | tret
  /-- R189. Ends the thread, possibly releasing barriers and ending the team. -/
  | exit
  /-- R182. Branches each thread to the address in its register pair. -/
  | brx (a : BitVec 6)
  /-- R185. Pushes the return address and jumps to a register address. -/
  | callx (a : BitVec 6)
  /-- R190. Arrives at a team barrier and waits for its release. -/
  | tutti (b : BitVec 2)
  /-- R190. Arrives at a team barrier, recording its phase. -/
  | tuttiArv (b : BitVec 2) (p : BitVec 3)
  /-- R190. Waits for a team barrier's phase to change. -/
  | tuttiWait (b : BitVec 2) (p : BitVec 3)
  /-- R192. Cluster barrier over every team of the cluster. -/
  | cbar
  /-- R193. Grid barrier over every team of an ENSEMBLE launch. -/
  | gbar
  /-- R30. Team-collective election of the lowest-ranked arriving thread. -/
  | elect (p : BitVec 3)
  /-- R195. Parks until the team holds the bow, then acquires. -/
  | bowwait
  /-- R195. Passes the bow to the next team. -/
  | bowpass
  /-- R196. Sets the affinity key from an immediate. -/
  | setkeyImm (k : BitVec 8)
  /-- R196. Sets the affinity key from a register. -/
  | setkeyReg (a : BitVec 6)
  /-- R197. Raises a breakpoint event. -/
  | brk (k : BitVec 16)
  /-- R197. Raises a software trap. -/
  | trap (k : BitVec 16)
  /-- R197. Waits n core clocks and marks the thread to yield at its next issue. -/
  | yield (n : BitVec 10)
  /-- R198. Reads a system register into a vector register, latching high-half shadows. -/
  | mfsrV (c : BitVec 1) (d : BitVec 6) (n : BitVec 8)
  /-- R198. Reads a system register into a uniform register. -/
  | mfsrU (c : BitVec 1) (d : BitVec 8) (n : BitVec 8)
  /-- R199. Writes a system register from a vector register. -/
  | mtsrV (c : BitVec 1) (a : BitVec 6) (n : BitVec 8)
  /-- R199. Writes a system register from a uniform register in every thread of the bundle. -/
  | mtsrU (c : BitVec 1) (n : BitVec 8) (s : BitVec 8)
  /-- R118. The wait of a stalling instruction, or the release part of ST.REL, a GO store or PUSH, ends once its conditions hold and GTIME reaches FH + 2 or H + 2; the instruction then sets FH and RH, and the thread's held-back accesses and next packet may go. -/
  | stallingWaitEnd (op : Nat)
  /-- R311. A fabric link receives a flit that arrives damaged and sends it again, keeping its flits in order. -/
  | damagedFlit (link : Nat)
  deriving DecidableEq, Repr

end Sys2Proof
end

