-- ==== Sys2Proof/WellFormed.lean ====
section
/-!
DEFINITION. WellFormed.lean: the operand values that the descriptions allow, beyond the widths that the
types already fix. `Instr.valuesOk` is the part that the decoder checks (R170, R214, R235, R259, R283);
`Instr.literalOk` the part that a literal adds; `Instr.wf` is both.
-/

namespace Sys2Proof

/-- Bytes of HBM that physical addresses reach (R98). -/
def hbmBytes : Nat := 576000000000

/-- A logical core of a compute die (R13). -/
def coreOk (die core : Nat) : Bool := decide (die < 8) && decide (core < 256)

/-- A fabric link 0 to 23, or a UCIe module 0x100 to 0x103 (R400). -/
def linkOk (link : Nat) : Bool := decide (link < 24) || (decide (256 ≤ link) && decide (link < 260))

/-- The control `c` of a conversion to FP32, by source format (R223, R224). -/
def cvtToOk (f : BitVec 4) (r : BitVec 3) (e : BitVec 2) : Bool :=
  match f.toNat with
  | 0 => false
  | 1 => r == 0 && decide (e.toNat ≤ 1)
  | 2 => r == 0 && decide (e.toNat ≤ 1)
  | 10 => r == 0 && decide (e.toNat ≤ 1)
  | 11 => r == 0 && decide (e.toNat ≤ 1)
  | 12 => decide (r.toNat ≤ 3) && e == 0
  | 13 => decide (r.toNat ≤ 3) && e == 0
  | 14 => decide (r.toNat ≤ 3) && e == 0
  | 15 => decide (r.toNat ≤ 3) && e == 0
  | _ => r == 0

/-- The control `c` of a conversion from FP32, by target format (R223, R225). -/
def cvtFromOk (f : BitVec 4) (r : BitVec 3) (z : BitVec 1) (e : BitVec 2) : Bool :=
  match f.toNat with
  | 0 => false
  | 1 => decide (r.toNat ≤ 3) && decide (e.toNat ≤ 2)
  | 2 => decide (r.toNat ≤ 3) && decide (e.toNat ≤ 2)
  | 10 => decide (r.toNat ≤ 3) && z == 0 && decide (e.toNat ≤ 2)
  | 11 => decide (r.toNat ≤ 3) && z == 0 && decide (e.toNat ≤ 2)
  | 4 => r == 0 && e == 0
  | 3 => r == 0 && z == 0 && e == 0
  | 5 => r == 0 && z == 0 && e == 0
  | 6 => r == 0 && z == 0 && e == 0
  | 7 => r == 0 && z == 0 && e == 0
  | _ => decide (r.toNat ≤ 3) && z == 0 && e == 0

/-- The values of the fields that a description restricts. -/
def Instr.valuesOk : Instr → Bool
  | .powerOn _ => true
  | .coldReset _ => true
  | .warmReset _ => true
  | .memoryClearDone _ => true
  | .managementDoorbell _ => true
  | .registerWrite _ _ => true
  | .feature _ _ => true
  | .create _ rec => decide (rec.length = 576)
  | .release _ ctx => decide (ctx < 32)
  | .switch _ ctx => decide (ctx < 32)
  | .preempt _ ctx queue _ => decide (ctx < 32) && decide (queue < 64)
  | .invalidate _ _ _ _ _ => true
  | .fwload _ regs _ _ => regs.all fun i => decide (i < 8)
  | .attest _ _ => true
  | .logread _ _ => true
  | .logsign _ => true
  | .repair _ die core => coreOk die core
  | .errctl _ _ _ _ _ _ _ => true
  | .resolve _ _ _ _ _ => true
  | .debugMode _ _ _ _ => true
  | .setbp _ _ _ _ _ _ => true
  | .clrbp _ _ _ _ _ => true
  | .debugStop _ _ _ _ => true
  | .debugResume _ _ _ _ => true
  | .debugStep _ _ _ _ => true
  | .dump _ _ _ _ => true
  | .debugLoad _ _ _ _ => true
  | .launchDoorbell ctx queue _ => decide (ctx < 32) && decide (queue < 64)
  | .launchStart ctx queue => decide (ctx < 32) && decide (queue < 64)
  | .dependenceRecheck ctx queue => decide (ctx < 32) && decide (queue < 64)
  | .teamPlacement ctx queue => decide (ctx < 32) && decide (queue < 64)
  | .launchCompletion _ => true
  | .packetIssue die core course => coreOk die core && decide (course < 4)
  | .threadAging _ _ => true
  | .yieldExpiry _ _ => true
  | .loadCompletion _ => true
  | .trackedOpCompletion _ => true
  | .writeCompletionReturn _ => true
  | .storeAtHome _ => true
  | .atomicAtHome _ => true
  | .redAtDieL2 _ => true
  | .l1Fill _ _ => true
  | .leaseExpiry die core _ => coreOk die core
  | .hostCxlWrite pa data => decide (pa < hbmBytes) && decide (1 ≤ data.length)
  | .pageWalk die core ctx va => coreOk die core && decide (ctx < 32) && decide (va < 2 ^ 56)
  | .hbmSpare pa _ _ => decide (pa < hbmBytes)
  | .localityWindowEnd die core => coreOk die core
  | .permitIncrease die core => coreOk die core
  | .permitRotation die core => coreOk die core
  | .forkReservation die core => coreOk die core
  | .join _ _ => true
  | .barrierRelease kind _ _ bar => decide (kind = 3) || (decide (kind < 3) && decide (bar < 4))
  | .bowArrival _ => true
  | .rendezvousWatchdog _ _ => true
  | .trapEntry _ _ => true
  | .teamSave _ => true
  | .openWindowLimit _ _ => true
  | .teamRestore _ => true
  | .commandGo _ => true
  | .commandAcceptance _ => true
  | .commandCompletion _ => true
  | .notifyRelease _ => true
  | .mmaOperandsConsumed _ => true
  | .copy _ _ => true
  | .copynd _ _ => true
  | .copyred _ _ => true
  | .fill _ _ => true
  | .osbload _ _ => true
  | .accmove _ _ => true
  | .mma _ => true
  | .mmas _ => true
  | .launch _ => true
  | .launchQfullTimeout _ => true
  | .attn _ => true
  | .attnVisit _ => true
  | .attnParkResume _ => true
  | .attnUnstable _ => true
  | .kapp _ => true
  | .kreq _ => true
  | .krot _ => true
  | .ksum _ => true
  | .ktrunc _ => true
  | .blockClaimRetry _ => true
  | .maintenanceBusy _ => true
  | .cprog _ => true
  | .send _ => true
  | .recv _ => true
  | .rrs _ => true
  | .cprogCopy _ => true
  | .cprogWait _ => true
  | .notify _ => true
  | .loop _ => true
  | .endloop _ => true
  | .peer _ => true
  | .putr _ => true
  | .endStep _ => true
  | .putrReserve _ _ => true
  | .slotHeaderReread _ => true
  | .cprogTimeout _ => true
  | .fabricWriteArrival _ => true
  | .fabricAck _ _ _ => true
  | .lane link lanes => linkOk link && decide (1 ≤ lanes)
  | .linkdown link => linkOk link
  | .timeBaseCompare die _ _ => decide (die < 10)
  | .monitorReading die group _ _ _ => decide (die < 8) && decide (group < 16)
  | .droopRestore die group => decide (die < 8) && decide (group < 16)
  | .auditChainCheck _ _ => true
  | .iadd _ _ _ _ _ => true
  | .isub _ _ _ _ _ => true
  | .imul _ _ _ _ _ => true
  | .imulhiI32 _ _ _ _ _ => true
  | .imulhiN32 _ _ _ _ _ => true
  | .iminI32 _ _ _ _ _ => true
  | .iminN32 _ _ _ _ _ => true
  | .imaxI32 _ _ _ _ _ => true
  | .imaxN32 _ _ _ _ _ => true
  | .iaddSatI32 _ _ _ _ _ => true
  | .iaddSatN32 _ _ _ _ _ => true
  | .isubSatI32 _ _ _ _ _ => true
  | .isubSatN32 _ _ _ _ _ => true
  | .iaddI64 _ _ _ _ _ => true
  | .isubI64 _ _ _ _ _ => true
  | .imad _ _ _ _ _ => true
  | .and _ _ _ _ _ => true
  | .or _ _ _ _ _ => true
  | .xor _ _ _ _ _ => true
  | .andn _ _ _ _ _ => true
  | .not _ _ _ _ => true
  | .shl _ _ _ _ _ => true
  | .shr _ _ _ _ _ => true
  | .sar _ _ _ _ _ => true
  | .rotl _ _ _ _ _ => true
  | .rotr _ _ _ _ _ => true
  | .bitgetN32 _ _ _ _ _ => true
  | .bitgetI32 _ _ _ _ _ => true
  | .bitins _ _ _ _ _ => true
  | .popc _ _ _ _ => true
  | .clz _ _ _ _ => true
  | .ctz _ _ _ _ => true
  | .brev _ _ _ _ => true
  | .sel _ _ _ _ _ _ => true
  | .iaddUniform _ _ _ _ _ => true
  | .isubUniform _ _ _ _ _ => true
  | .imulUniform _ _ _ _ _ => true
  | .andUniform _ _ _ _ _ => true
  | .iaddImm _ _ _ _ _ _ => true
  | .andImm _ _ _ _ _ _ => true
  | .orImm _ _ _ _ _ _ => true
  | .xorImm _ _ _ _ _ _ => true
  | .shlImm _ _ _ _ _ _ => true
  | .icmp _ _ _ _ _ k f => decide (k.toNat ≤ 6) && decide (f.toNat ≤ 3)
  | .mov _ _ _ _ => true
  | .mov64 _ _ _ _ => true
  | .pand _ _ _ _ _ => true
  | .por _ _ _ _ _ => true
  | .pxor _ _ _ _ _ => true
  | .pandn _ _ _ _ _ => true
  | .pmov _ _ _ _ => true
  | .ptst _ _ _ _ => true
  | .rand _ _ _ _ _ => true
  | .movH0 _ _ _ _ => true
  | .movH1 _ _ _ _ => true
  | .movImm _ _ _ _ _ => true
  | .uadd _ _ _ _ => true
  | .usub _ _ _ _ => true
  | .umul _ _ _ _ => true
  | .uand _ _ _ _ => true
  | .uor _ _ _ _ => true
  | .uxor _ _ _ _ => true
  | .ushl _ _ _ _ => true
  | .ushr _ _ _ _ => true
  | .uaddImm _ _ _ _ _ => true
  | .usubImm _ _ _ _ _ => true
  | .umulImm _ _ _ _ _ => true
  | .uandImm _ _ _ _ _ => true
  | .uorImm _ _ _ _ _ => true
  | .uxorImm _ _ _ _ _ => true
  | .ushlImm _ _ _ _ _ => true
  | .ushrImm _ _ _ _ _ => true
  | .movVFromS _ _ _ => true
  | .movSFromV _ _ _ => true
  | .mov64VFromS _ _ _ => true
  | .mov64SFromV _ _ _ => true
  | .movUniformImm _ _ _ _ => true
  | .ucmp _ u _ _ _ _ => decide (1 ≤ u.toNat) && decide (u.toNat ≤ 6)
  | .faddF32 _ _ _ _ _ => true
  | .fsubF32 _ _ _ _ _ => true
  | .fmulF32 _ _ _ _ _ => true
  | .ffmaF32 _ _ _ _ _ => true
  | .ffmsF32 _ _ _ _ _ => true
  | .fnmaF32 _ _ _ _ _ => true
  | .fminF32 _ _ _ _ _ => true
  | .fmaxF32 _ _ _ _ _ => true
  | .fabsF32 _ _ _ _ => true
  | .fnegF32 _ _ _ _ => true
  | .fcopysignF32 _ _ _ _ _ => true
  | .fminNumF32 _ _ _ _ _ => true
  | .fmaxNumF32 _ _ _ _ _ => true
  | .faddF16 _ _ _ _ _ _ => true
  | .fsubF16 _ _ _ _ _ _ => true
  | .fmulF16 _ _ _ _ _ _ => true
  | .fabsF16 _ _ _ _ _ => true
  | .fnegF16 _ _ _ _ _ => true
  | .fdot2F16 _ _ _ _ _ _ => true
  | .faddF32Uniform _ _ _ _ _ => true
  | .fmulF32Uniform _ _ _ _ _ => true
  | .ffmaF32Uniform _ _ _ _ _ => true
  | .fsubF32Uniform _ _ _ _ _ => true
  | .fmulF32Imm _ _ _ _ _ _ => true
  | .fcmp _ _ _ _ _ k f => decide (k.toNat ≤ 7) && decide (f.toNat ≤ 4)
  | .fclass _ _ _ _ _ f => decide (f.toNat ≤ 4)
  | .frndF32 _ _ _ _ r => decide (r.toNat ≤ 3)
  | .cvtToF32 _ _ _ _ r e f => cvtToOk f r e
  | .cvtFromF32 _ _ _ _ r z e f => cvtFromOk f r z e
  | .cvtPk _ _ _ _ _ h f => decide (1 ≤ f.toNat) && decide (f.toNat ≤ 6) && (decide (3 ≤ f.toNat) || h == 0)
  | .frcpF32 _ _ _ _ => true
  | .frsqF32 _ _ _ _ => true
  | .fsqrtF32 _ _ _ _ => true
  | .fexp2F32 _ _ _ _ => true
  | .flog2F32 _ _ _ _ => true
  | .ftanhF32 _ _ _ _ => true
  | .fsinF32 _ _ _ _ => true
  | .fcosF32 _ _ _ _ => true
  | .fminF16 _ _ _ _ _ _ => true
  | .fmaxF16 _ _ _ _ _ _ => true
  | .ffmaF16 _ _ _ _ _ _ => true
  | .xadd _ _ _ _ _ => true
  | .xsub _ _ _ _ _ => true
  | .xmul _ _ _ _ _ => true
  | .xdiv _ _ _ _ _ => true
  | .xfma _ _ _ _ _ => true
  | .xsqrt _ _ _ _ => true
  | .xneg _ _ _ _ => true
  | .xabs _ _ _ _ => true
  | .xmin _ _ _ _ _ => true
  | .xmax _ _ _ _ _ => true
  | .xcvtXfF32 _ _ _ _ => true
  | .xcvtXfI32 _ _ _ _ => true
  | .xcvtXfN32 _ _ _ _ => true
  | .xcvtXfI64 _ _ _ _ => true
  | .xcvtXfN64 _ _ _ _ => true
  | .xcvtF32Xf _ _ _ _ r _ => decide (r.toNat ≤ 3)
  | .xcvtI32Xf _ _ _ _ r => decide (r.toNat ≤ 3)
  | .xcvtN32Xf _ _ _ _ r => decide (r.toNat ≤ 3)
  | .xcvtI64Xf _ _ _ _ r => decide (r.toNat ≤ 3)
  | .xcvtN64Xf _ _ _ _ r => decide (r.toNat ≤ 3)
  | .xrnd _ _ _ _ => true
  | .xrint _ _ _ _ => true
  | .xcmp _ _ _ _ _ k => decide (k.toNat ≤ 7)
  | .setp _ _ _ => true
  | .setrm _ _ _ => true
  | .setx _ _ _ => true
  | .addp _ _ _ => true
  | .setpReg _ _ _ => true
  | .clrxuf _ _ => true
  | .xld _ _ _ _ _ _ => true
  | .xldR _ _ _ _ => true
  | .xst _ _ _ _ => true
  | .xstMin _ _ _ _ => true
  | .xlds _ _ _ _ => true
  | .xldsR _ _ _ _ => true
  | .xsts _ _ _ _ => true
  | .xstsMin _ _ _ _ => true
  | .ld32 _ _ _ _ _ _ => true
  | .st32 _ _ _ _ _ _ => true
  | .ld64 _ _ _ _ _ _ => true
  | .st64 _ _ _ _ _ _ => true
  | .ld128 _ _ _ _ _ _ => true
  | .st128 _ _ _ _ _ _ => true
  | .ldN8 _ _ _ _ => true
  | .ldN16 _ _ _ _ => true
  | .ldN16H0 _ _ _ _ => true
  | .ldN16H1 _ _ _ _ => true
  | .stN8 _ _ _ _ => true
  | .stN16 _ _ _ _ => true
  | .stN16H1 _ _ _ _ => true
  | .ldAcq32 _ _ _ _ => true
  | .ldAcq64 _ _ _ _ => true
  | .stRel32 _ _ _ _ => true
  | .stRel64 _ _ _ _ => true
  | .ldAcq128 _ _ _ _ => true
  | .stRel128 _ _ _ _ => true
  | .ldUniformBase _ _ _ _ _ => true
  | .stUniformBase _ _ _ _ _ => true
  | .ld64UniformBase _ _ _ _ _ => true
  | .st64UniformBase _ _ _ _ _ => true
  | .atomAddI32 _ _ _ _ _ => true
  | .atomMinI32 _ _ _ _ _ => true
  | .atomMaxI32 _ _ _ _ _ => true
  | .atomMinN32 _ _ _ _ _ => true
  | .atomMaxN32 _ _ _ _ _ => true
  | .atomAnd _ _ _ _ _ => true
  | .atomOr _ _ _ _ _ => true
  | .atomXor _ _ _ _ _ => true
  | .atomExch _ _ _ _ _ => true
  | .atomCas _ _ _ _ _ => true
  | .atomAddI64 _ _ _ _ _ => true
  | .atomMaxN64 _ _ _ _ _ => true
  | .atomExch64 _ _ _ _ _ => true
  | .atomCas64 _ _ _ _ _ => true
  | .atomOrdered _ _ _ _ _ _ => true
  | .red _ _ r _ _ => decide (r.toNat ≤ 10)
  | .fence _ => true
  | .fenceAcq _ => true
  | .fenceRel _ => true
  | .prefetch _ _ _ _ _ => true
  | .prefetchL2 _ _ _ _ _ => true
  | .pluckAt _ _ _ _ _ => true
  | .pluckBelow _ _ _ _ _ => true
  | .pluckAbove _ _ _ _ _ => true
  | .pluckFlip _ _ _ _ _ => true
  | .pollAll _ _ _ _ _ => true
  | .pollAny _ _ _ _ _ => true
  | .pollMask _ _ _ _ _ => true
  | .pollSame _ _ _ _ _ => true
  | .gredAddI32 _ _ _ _ _ => true
  | .gredMinI32 _ _ _ _ _ => true
  | .gredMaxI32 _ _ _ _ _ => true
  | .gredMaxiN32 _ _ _ _ _ => true
  | .gredAddF32 _ _ _ _ _ => true
  | .gredMinF32 _ _ _ _ _ => true
  | .gredMaxF32 _ _ _ _ _ => true
  | .gredMaxiF32 _ _ _ _ _ => true
  | .gscanAddI32 _ _ _ _ _ => true
  | .gscanAddXI32 _ _ _ _ _ => true
  | .gscanMaxI32 _ _ _ _ _ => true
  | .gcompact _ _ _ _ _ => true
  | .topk _ _ _ _ _ => true
  | .gsync _ _ _ => true
  | .push _ _ _ l s => decide (l.toNat ≤ 4) && decide (s.toNat ≤ 240)
  | .obres _ _ _ s => decide (s.toNat ≤ 248)
  | .obrel _ _ _ => true
  | .accrd _ _ _ _ => true
  | .accwr _ _ _ _ => true
  | .accrd128 _ _ _ _ => true
  | .accwr128 _ _ _ _ => true
  | .accaddF32 _ _ _ _ => true
  | .accaddI32 _ _ _ _ => true
  | .waitc _ l _ => decide (l.toNat ≤ 4)
  | .waitcCons _ _ => true
  | .waitany _ _ => true
  | .waitall _ _ => true
  | .ffr _ _ _ _ => true
  | .bra _ _ _ => true
  | .call _ => true
  | .ret => true
  | .tcall _ e _ _ => decide (e.toNat ≤ 252)
  | .tret => true
  | .exit => true
  | .brx _ => true
  | .callx _ => true
  | .tutti _ => true
  | .tuttiArv _ _ => true
  | .tuttiWait _ _ => true
  | .cbar => true
  | .gbar => true
  | .elect _ => true
  | .bowwait => true
  | .bowpass => true
  | .setkeyImm _ => true
  | .setkeyReg _ => true
  | .brk _ => true
  | .trap _ => true
  | .yield _ => true
  | .mfsrV _ _ n => decide (n.toNat ≤ 0x11)
  | .mfsrU _ _ n => decide (n.toNat ≤ 0x11)
  | .mtsrV _ _ n => decide (n.toNat ≤ 0x11)
  | .mtsrU _ n _ => decide (n.toNat ≤ 0x11)
  | .stallingWaitEnd _ => true
  | .damagedFlit link => decide (link < 24)

/-- An immediate or offset field and the literal beside it: the literal is 0 unless the field holds
the escape (R164). -/
def immOk {n : Nat} (i : BitVec n) (lit : Word) : Bool := i.toNat == 2 ^ (n - 1) || lit == 0

/-- A literal of an ordered atomic: ORD 1 to 3 and OP 0 to 13, nothing else (R243). -/
def orderOk (lit : Word) : Bool := decide (lit.toNat / 64 = 0) && decide (1 ≤ lit.toNat / 16 % 4) && decide (lit.toNat % 16 ≤ 13)

/-- What a literal may hold: nothing where the word takes none; ORD and OP of an ordered atomic (R243). -/
def Instr.literalOk : Instr → Bool
  | .iaddImm _ _ _ _ i lit => immOk i lit
  | .andImm _ _ _ _ i lit => immOk i lit
  | .orImm _ _ _ _ i lit => immOk i lit
  | .xorImm _ _ _ _ i lit => immOk i lit
  | .shlImm _ _ _ _ i lit => immOk i lit
  | .movImm _ _ _ i lit => immOk i lit
  | .uaddImm _ _ _ i lit => immOk i lit
  | .usubImm _ _ _ i lit => immOk i lit
  | .umulImm _ _ _ i lit => immOk i lit
  | .uandImm _ _ _ i lit => immOk i lit
  | .uorImm _ _ _ i lit => immOk i lit
  | .uxorImm _ _ _ i lit => immOk i lit
  | .ushlImm _ _ _ i lit => immOk i lit
  | .ushrImm _ _ _ i lit => immOk i lit
  | .movUniformImm _ _ i lit => immOk i lit
  | .ucmp _ _ _ _ i lit => immOk i lit
  | .fmulF32Imm _ _ _ _ i lit => immOk i lit
  | .xld _ _ _ _ o lit => immOk o lit
  | .ld32 _ _ _ _ o lit => immOk o lit
  | .st32 _ _ _ _ o lit => immOk o lit
  | .ld64 _ _ _ _ o lit => immOk o lit
  | .st64 _ _ _ _ o lit => immOk o lit
  | .ld128 _ _ _ _ o lit => immOk o lit
  | .st128 _ _ _ _ o lit => immOk o lit
  | .atomOrdered _ _ _ _ _ lit => orderOk lit
  | .prefetch _ _ _ o lit => immOk o lit
  | .prefetchL2 _ _ _ o lit => immOk o lit
  | _ => true

/-- A well-formed step. -/
def Instr.wf (i : Instr) : Bool := i.valuesOk && i.literalOk

/-- Whether a step has an instruction word (R162); the others are operations and events of the device. -/
def Instr.isWord : Instr → Bool
  | .powerOn _ => false
  | .coldReset _ => false
  | .warmReset _ => false
  | .memoryClearDone _ => false
  | .managementDoorbell _ => false
  | .registerWrite _ _ => false
  | .feature _ _ => false
  | .create _ _ => false
  | .release _ _ => false
  | .switch _ _ => false
  | .preempt _ _ _ _ => false
  | .invalidate _ _ _ _ _ => false
  | .fwload _ _ _ _ => false
  | .attest _ _ => false
  | .logread _ _ => false
  | .logsign _ => false
  | .repair _ _ _ => false
  | .errctl _ _ _ _ _ _ _ => false
  | .resolve _ _ _ _ _ => false
  | .debugMode _ _ _ _ => false
  | .setbp _ _ _ _ _ _ => false
  | .clrbp _ _ _ _ _ => false
  | .debugStop _ _ _ _ => false
  | .debugResume _ _ _ _ => false
  | .debugStep _ _ _ _ => false
  | .dump _ _ _ _ => false
  | .debugLoad _ _ _ _ => false
  | .launchDoorbell _ _ _ => false
  | .launchStart _ _ => false
  | .dependenceRecheck _ _ => false
  | .teamPlacement _ _ => false
  | .launchCompletion _ => false
  | .packetIssue _ _ _ => false
  | .threadAging _ _ => false
  | .yieldExpiry _ _ => false
  | .loadCompletion _ => false
  | .trackedOpCompletion _ => false
  | .writeCompletionReturn _ => false
  | .storeAtHome _ => false
  | .atomicAtHome _ => false
  | .redAtDieL2 _ => false
  | .l1Fill _ _ => false
  | .leaseExpiry _ _ _ => false
  | .hostCxlWrite _ _ => false
  | .pageWalk _ _ _ _ => false
  | .hbmSpare _ _ _ => false
  | .localityWindowEnd _ _ => false
  | .permitIncrease _ _ => false
  | .permitRotation _ _ => false
  | .forkReservation _ _ => false
  | .join _ _ => false
  | .barrierRelease _ _ _ _ => false
  | .bowArrival _ => false
  | .rendezvousWatchdog _ _ => false
  | .trapEntry _ _ => false
  | .teamSave _ => false
  | .openWindowLimit _ _ => false
  | .teamRestore _ => false
  | .commandGo _ => false
  | .commandAcceptance _ => false
  | .commandCompletion _ => false
  | .notifyRelease _ => false
  | .mmaOperandsConsumed _ => false
  | .copy _ _ => false
  | .copynd _ _ => false
  | .copyred _ _ => false
  | .fill _ _ => false
  | .osbload _ _ => false
  | .accmove _ _ => false
  | .mma _ => false
  | .mmas _ => false
  | .launch _ => false
  | .launchQfullTimeout _ => false
  | .attn _ => false
  | .attnVisit _ => false
  | .attnParkResume _ => false
  | .attnUnstable _ => false
  | .kapp _ => false
  | .kreq _ => false
  | .krot _ => false
  | .ksum _ => false
  | .ktrunc _ => false
  | .blockClaimRetry _ => false
  | .maintenanceBusy _ => false
  | .cprog _ => false
  | .send _ => false
  | .recv _ => false
  | .rrs _ => false
  | .cprogCopy _ => false
  | .cprogWait _ => false
  | .notify _ => false
  | .loop _ => false
  | .endloop _ => false
  | .peer _ => false
  | .putr _ => false
  | .endStep _ => false
  | .putrReserve _ _ => false
  | .slotHeaderReread _ => false
  | .cprogTimeout _ => false
  | .fabricWriteArrival _ => false
  | .fabricAck _ _ _ => false
  | .lane _ _ => false
  | .linkdown _ => false
  | .timeBaseCompare _ _ _ => false
  | .monitorReading _ _ _ _ _ => false
  | .droopRestore _ _ => false
  | .auditChainCheck _ _ => false
  | .iadd _ _ _ _ _ => true
  | .isub _ _ _ _ _ => true
  | .imul _ _ _ _ _ => true
  | .imulhiI32 _ _ _ _ _ => true
  | .imulhiN32 _ _ _ _ _ => true
  | .iminI32 _ _ _ _ _ => true
  | .iminN32 _ _ _ _ _ => true
  | .imaxI32 _ _ _ _ _ => true
  | .imaxN32 _ _ _ _ _ => true
  | .iaddSatI32 _ _ _ _ _ => true
  | .iaddSatN32 _ _ _ _ _ => true
  | .isubSatI32 _ _ _ _ _ => true
  | .isubSatN32 _ _ _ _ _ => true
  | .iaddI64 _ _ _ _ _ => true
  | .isubI64 _ _ _ _ _ => true
  | .imad _ _ _ _ _ => true
  | .and _ _ _ _ _ => true
  | .or _ _ _ _ _ => true
  | .xor _ _ _ _ _ => true
  | .andn _ _ _ _ _ => true
  | .not _ _ _ _ => true
  | .shl _ _ _ _ _ => true
  | .shr _ _ _ _ _ => true
  | .sar _ _ _ _ _ => true
  | .rotl _ _ _ _ _ => true
  | .rotr _ _ _ _ _ => true
  | .bitgetN32 _ _ _ _ _ => true
  | .bitgetI32 _ _ _ _ _ => true
  | .bitins _ _ _ _ _ => true
  | .popc _ _ _ _ => true
  | .clz _ _ _ _ => true
  | .ctz _ _ _ _ => true
  | .brev _ _ _ _ => true
  | .sel _ _ _ _ _ _ => true
  | .iaddUniform _ _ _ _ _ => true
  | .isubUniform _ _ _ _ _ => true
  | .imulUniform _ _ _ _ _ => true
  | .andUniform _ _ _ _ _ => true
  | .iaddImm _ _ _ _ _ _ => true
  | .andImm _ _ _ _ _ _ => true
  | .orImm _ _ _ _ _ _ => true
  | .xorImm _ _ _ _ _ _ => true
  | .shlImm _ _ _ _ _ _ => true
  | .icmp _ _ _ _ _ _ _ => true
  | .mov _ _ _ _ => true
  | .mov64 _ _ _ _ => true
  | .pand _ _ _ _ _ => true
  | .por _ _ _ _ _ => true
  | .pxor _ _ _ _ _ => true
  | .pandn _ _ _ _ _ => true
  | .pmov _ _ _ _ => true
  | .ptst _ _ _ _ => true
  | .rand _ _ _ _ _ => true
  | .movH0 _ _ _ _ => true
  | .movH1 _ _ _ _ => true
  | .movImm _ _ _ _ _ => true
  | .uadd _ _ _ _ => true
  | .usub _ _ _ _ => true
  | .umul _ _ _ _ => true
  | .uand _ _ _ _ => true
  | .uor _ _ _ _ => true
  | .uxor _ _ _ _ => true
  | .ushl _ _ _ _ => true
  | .ushr _ _ _ _ => true
  | .uaddImm _ _ _ _ _ => true
  | .usubImm _ _ _ _ _ => true
  | .umulImm _ _ _ _ _ => true
  | .uandImm _ _ _ _ _ => true
  | .uorImm _ _ _ _ _ => true
  | .uxorImm _ _ _ _ _ => true
  | .ushlImm _ _ _ _ _ => true
  | .ushrImm _ _ _ _ _ => true
  | .movVFromS _ _ _ => true
  | .movSFromV _ _ _ => true
  | .mov64VFromS _ _ _ => true
  | .mov64SFromV _ _ _ => true
  | .movUniformImm _ _ _ _ => true
  | .ucmp _ _ _ _ _ _ => true
  | .faddF32 _ _ _ _ _ => true
  | .fsubF32 _ _ _ _ _ => true
  | .fmulF32 _ _ _ _ _ => true
  | .ffmaF32 _ _ _ _ _ => true
  | .ffmsF32 _ _ _ _ _ => true
  | .fnmaF32 _ _ _ _ _ => true
  | .fminF32 _ _ _ _ _ => true
  | .fmaxF32 _ _ _ _ _ => true
  | .fabsF32 _ _ _ _ => true
  | .fnegF32 _ _ _ _ => true
  | .fcopysignF32 _ _ _ _ _ => true
  | .fminNumF32 _ _ _ _ _ => true
  | .fmaxNumF32 _ _ _ _ _ => true
  | .faddF16 _ _ _ _ _ _ => true
  | .fsubF16 _ _ _ _ _ _ => true
  | .fmulF16 _ _ _ _ _ _ => true
  | .fabsF16 _ _ _ _ _ => true
  | .fnegF16 _ _ _ _ _ => true
  | .fdot2F16 _ _ _ _ _ _ => true
  | .faddF32Uniform _ _ _ _ _ => true
  | .fmulF32Uniform _ _ _ _ _ => true
  | .ffmaF32Uniform _ _ _ _ _ => true
  | .fsubF32Uniform _ _ _ _ _ => true
  | .fmulF32Imm _ _ _ _ _ _ => true
  | .fcmp _ _ _ _ _ _ _ => true
  | .fclass _ _ _ _ _ _ => true
  | .frndF32 _ _ _ _ _ => true
  | .cvtToF32 _ _ _ _ _ _ _ => true
  | .cvtFromF32 _ _ _ _ _ _ _ _ => true
  | .cvtPk _ _ _ _ _ _ _ => true
  | .frcpF32 _ _ _ _ => true
  | .frsqF32 _ _ _ _ => true
  | .fsqrtF32 _ _ _ _ => true
  | .fexp2F32 _ _ _ _ => true
  | .flog2F32 _ _ _ _ => true
  | .ftanhF32 _ _ _ _ => true
  | .fsinF32 _ _ _ _ => true
  | .fcosF32 _ _ _ _ => true
  | .fminF16 _ _ _ _ _ _ => true
  | .fmaxF16 _ _ _ _ _ _ => true
  | .ffmaF16 _ _ _ _ _ _ => true
  | .xadd _ _ _ _ _ => true
  | .xsub _ _ _ _ _ => true
  | .xmul _ _ _ _ _ => true
  | .xdiv _ _ _ _ _ => true
  | .xfma _ _ _ _ _ => true
  | .xsqrt _ _ _ _ => true
  | .xneg _ _ _ _ => true
  | .xabs _ _ _ _ => true
  | .xmin _ _ _ _ _ => true
  | .xmax _ _ _ _ _ => true
  | .xcvtXfF32 _ _ _ _ => true
  | .xcvtXfI32 _ _ _ _ => true
  | .xcvtXfN32 _ _ _ _ => true
  | .xcvtXfI64 _ _ _ _ => true
  | .xcvtXfN64 _ _ _ _ => true
  | .xcvtF32Xf _ _ _ _ _ _ => true
  | .xcvtI32Xf _ _ _ _ _ => true
  | .xcvtN32Xf _ _ _ _ _ => true
  | .xcvtI64Xf _ _ _ _ _ => true
  | .xcvtN64Xf _ _ _ _ _ => true
  | .xrnd _ _ _ _ => true
  | .xrint _ _ _ _ => true
  | .xcmp _ _ _ _ _ _ => true
  | .setp _ _ _ => true
  | .setrm _ _ _ => true
  | .setx _ _ _ => true
  | .addp _ _ _ => true
  | .setpReg _ _ _ => true
  | .clrxuf _ _ => true
  | .xld _ _ _ _ _ _ => true
  | .xldR _ _ _ _ => true
  | .xst _ _ _ _ => true
  | .xstMin _ _ _ _ => true
  | .xlds _ _ _ _ => true
  | .xldsR _ _ _ _ => true
  | .xsts _ _ _ _ => true
  | .xstsMin _ _ _ _ => true
  | .ld32 _ _ _ _ _ _ => true
  | .st32 _ _ _ _ _ _ => true
  | .ld64 _ _ _ _ _ _ => true
  | .st64 _ _ _ _ _ _ => true
  | .ld128 _ _ _ _ _ _ => true
  | .st128 _ _ _ _ _ _ => true
  | .ldN8 _ _ _ _ => true
  | .ldN16 _ _ _ _ => true
  | .ldN16H0 _ _ _ _ => true
  | .ldN16H1 _ _ _ _ => true
  | .stN8 _ _ _ _ => true
  | .stN16 _ _ _ _ => true
  | .stN16H1 _ _ _ _ => true
  | .ldAcq32 _ _ _ _ => true
  | .ldAcq64 _ _ _ _ => true
  | .stRel32 _ _ _ _ => true
  | .stRel64 _ _ _ _ => true
  | .ldAcq128 _ _ _ _ => true
  | .stRel128 _ _ _ _ => true
  | .ldUniformBase _ _ _ _ _ => true
  | .stUniformBase _ _ _ _ _ => true
  | .ld64UniformBase _ _ _ _ _ => true
  | .st64UniformBase _ _ _ _ _ => true
  | .atomAddI32 _ _ _ _ _ => true
  | .atomMinI32 _ _ _ _ _ => true
  | .atomMaxI32 _ _ _ _ _ => true
  | .atomMinN32 _ _ _ _ _ => true
  | .atomMaxN32 _ _ _ _ _ => true
  | .atomAnd _ _ _ _ _ => true
  | .atomOr _ _ _ _ _ => true
  | .atomXor _ _ _ _ _ => true
  | .atomExch _ _ _ _ _ => true
  | .atomCas _ _ _ _ _ => true
  | .atomAddI64 _ _ _ _ _ => true
  | .atomMaxN64 _ _ _ _ _ => true
  | .atomExch64 _ _ _ _ _ => true
  | .atomCas64 _ _ _ _ _ => true
  | .atomOrdered _ _ _ _ _ _ => true
  | .red _ _ _ _ _ => true
  | .fence _ => true
  | .fenceAcq _ => true
  | .fenceRel _ => true
  | .prefetch _ _ _ _ _ => true
  | .prefetchL2 _ _ _ _ _ => true
  | .pluckAt _ _ _ _ _ => true
  | .pluckBelow _ _ _ _ _ => true
  | .pluckAbove _ _ _ _ _ => true
  | .pluckFlip _ _ _ _ _ => true
  | .pollAll _ _ _ _ _ => true
  | .pollAny _ _ _ _ _ => true
  | .pollMask _ _ _ _ _ => true
  | .pollSame _ _ _ _ _ => true
  | .gredAddI32 _ _ _ _ _ => true
  | .gredMinI32 _ _ _ _ _ => true
  | .gredMaxI32 _ _ _ _ _ => true
  | .gredMaxiN32 _ _ _ _ _ => true
  | .gredAddF32 _ _ _ _ _ => true
  | .gredMinF32 _ _ _ _ _ => true
  | .gredMaxF32 _ _ _ _ _ => true
  | .gredMaxiF32 _ _ _ _ _ => true
  | .gscanAddI32 _ _ _ _ _ => true
  | .gscanAddXI32 _ _ _ _ _ => true
  | .gscanMaxI32 _ _ _ _ _ => true
  | .gcompact _ _ _ _ _ => true
  | .topk _ _ _ _ _ => true
  | .gsync _ _ _ => true
  | .push _ _ _ _ _ => true
  | .obres _ _ _ _ => true
  | .obrel _ _ _ => true
  | .accrd _ _ _ _ => true
  | .accwr _ _ _ _ => true
  | .accrd128 _ _ _ _ => true
  | .accwr128 _ _ _ _ => true
  | .accaddF32 _ _ _ _ => true
  | .accaddI32 _ _ _ _ => true
  | .waitc _ _ _ => true
  | .waitcCons _ _ => true
  | .waitany _ _ => true
  | .waitall _ _ => true
  | .ffr _ _ _ _ => true
  | .bra _ _ _ => true
  | .call _ => true
  | .ret => true
  | .tcall _ _ _ _ => true
  | .tret => true
  | .exit => true
  | .brx _ => true
  | .callx _ => true
  | .tutti _ => true
  | .tuttiArv _ _ => true
  | .tuttiWait _ _ => true
  | .cbar => true
  | .gbar => true
  | .elect _ => true
  | .bowwait => true
  | .bowpass => true
  | .setkeyImm _ => true
  | .setkeyReg _ => true
  | .brk _ => true
  | .trap _ => true
  | .yield _ => true
  | .mfsrV _ _ _ => true
  | .mfsrU _ _ _ => true
  | .mtsrV _ _ _ => true
  | .mtsrU _ _ _ => true
  | .stallingWaitEnd _ => false
  | .damagedFlit _ => false

end Sys2Proof
end

