-- ==== Sys2Proof/Decode.lean ====
section
/-!
DEFINITION. Decode.lean: instruction words to steps (R162 to R171), total and rejecting by name. A word
is first matched to its row of the opcode table (`rowOf`, with every check of R170 on the word), and the
step is then built from the row's fields (`build`). The number of a row is its place in the table,
counted from 0. `build` cannot be compiled (the compiler holds at most 244 tagged constructors), so it
and what needs it are evaluated by the kernel alone. After it the encoder, written from the same formats. The guards `zeros` stand for the fields that a
format or description reserves (R170).
-/

namespace Sys2Proof

/-- The `n`-bit field of `w` whose lowest bit is `lo`. -/
def fld (w : Word) (lo n : Nat) : BitVec n := BitVec.ofNat n (w.toNat / 2 ^ lo)

/-- Why a slot is no instruction (R170). -/
inductive Reject where
  /-- a value of a function field that no chapter assigns -/
  | unassigned
  /-- a nonzero field that a format or description reserves -/
  | reservedField
  /-- a field value that the description does not allow (R223 to R226, R235, R259, R283, R63) -/
  | reservedValue
  /-- an escape or a description requires a literal and none follows (R164) -/
  | missingLiteral
  /-- a literal follows a word that takes none -/
  | literalWithoutOwner
  /-- major 0x3F, or a number beyond the major map -/
  | reservedMajor
  deriving DecidableEq, Repr

/-- The field `v` must hold `want`. -/
def zeros (v want : Nat) (k : Except Reject Nat) : Except Reject Nat :=
  if v = want then k else .error .reservedField

/-- A word that takes no literal. -/
def plain (lit : Option Word) (row : Nat) : Except Reject Nat :=
  match lit with
  | none => .ok row
  | some _ => .error .literalWithoutOwner

/-- A word that always takes a literal. -/
def withLit (lit : Option Word) (row : Nat) : Except Reject Nat :=
  match lit with
  | none => .error .missingLiteral
  | some _ => .ok row

/-- A word that takes a literal exactly when its immediate field holds the escape (R164). -/
def withEscape (esc : Bool) (lit : Option Word) (row : Nat) : Except Reject Nat :=
  match esc with
  | true => withLit lit row
  | false => plain lit row

/-- Major 0x00 (R168). -/
def major00 (w : Word) (lit : Option Word) : Except Reject Nat :=
  match (fld w 0 4).toNat with
  | 0 => plain lit 107
  | 1 => plain lit 108
  | 2 => plain lit 109
  | 3 => plain lit 110
  | 4 => plain lit 111
  | 5 => plain lit 112
  | 6 => plain lit 113
  | 7 => plain lit 114
  | 8 => plain lit 115
  | 9 => plain lit 116
  | 10 => plain lit 117
  | 11 => plain lit 118
  | 12 => plain lit 119
  | 13 => plain lit 120
  | 14 => plain lit 121
  | _ => plain lit 122

/-- Major 0x01 (R168). -/
def major01 (w : Word) (lit : Option Word) : Except Reject Nat :=
  match (fld w 0 4).toNat with
  | 0 => plain lit 123
  | 1 => plain lit 124
  | 2 => plain lit 125
  | 3 => plain lit 126
  | 4 => zeros (fld w 4 6).toNat 0 <| plain lit 127
  | 5 => plain lit 128
  | 6 => plain lit 129
  | 7 => plain lit 130
  | 8 => plain lit 131
  | 9 => plain lit 132
  | _ => .error .unassigned

/-- Major 0x02 (R168). -/
def major02 (w : Word) (lit : Option Word) : Except Reject Nat :=
  match (fld w 0 4).toNat with
  | 0 => plain lit 133
  | 1 => plain lit 134
  | 2 => plain lit 135
  | 3 => zeros (fld w 4 6).toNat 0 <| plain lit 136
  | 4 => zeros (fld w 4 6).toNat 0 <| plain lit 137
  | 5 => zeros (fld w 4 6).toNat 0 <| plain lit 138
  | 6 => zeros (fld w 4 6).toNat 0 <| plain lit 139
  | 7 => .error .unassigned
  | _ => plain lit 140

/-- Major 0x03 (R168). -/
def major03 (w : Word) (lit : Option Word) : Except Reject Nat :=
  match (fld w 0 2).toNat with
  | 0 => plain lit 141
  | 1 => plain lit 142
  | 2 => plain lit 143
  | _ => plain lit 144

/-- Major 0x04 (R168). -/
def major04 (w : Word) (lit : Option Word) : Except Reject Nat :=
  withEscape ((fld w 0 10).toNat == 512) lit 145

/-- Major 0x05 (R168). -/
def major05 (w : Word) (lit : Option Word) : Except Reject Nat :=
  withEscape ((fld w 0 10).toNat == 512) lit 146

/-- Major 0x06 (R168). -/
def major06 (w : Word) (lit : Option Word) : Except Reject Nat :=
  withEscape ((fld w 0 10).toNat == 512) lit 147

/-- Major 0x07 (R168). -/
def major07 (w : Word) (lit : Option Word) : Except Reject Nat :=
  withEscape ((fld w 0 10).toNat == 512) lit 148

/-- Major 0x08 (R168). -/
def major08 (w : Word) (lit : Option Word) : Except Reject Nat :=
  withEscape ((fld w 0 10).toNat == 512) lit 149

/-- Major 0x09 (R168). -/
def major09 (w : Word) (lit : Option Word) : Except Reject Nat :=
  plain lit 150

/-- Major 0x0a (R168). -/
def major0A (w : Word) (lit : Option Word) : Except Reject Nat :=
  match (fld w 0 4).toNat with
  | 0 => zeros (fld w 4 6).toNat 0 <| plain lit 151
  | 1 => zeros (fld w 4 6).toNat 0 <| plain lit 152
  | 2 => zeros (fld w 19 3).toNat 0 <| zeros (fld w 13 3).toNat 0 <| zeros (fld w 7 3).toNat 0 <| plain lit 153
  | 3 => zeros (fld w 19 3).toNat 0 <| zeros (fld w 13 3).toNat 0 <| zeros (fld w 7 3).toNat 0 <| plain lit 154
  | 4 => zeros (fld w 19 3).toNat 0 <| zeros (fld w 13 3).toNat 0 <| zeros (fld w 7 3).toNat 0 <| plain lit 155
  | 5 => zeros (fld w 19 3).toNat 0 <| zeros (fld w 13 3).toNat 0 <| zeros (fld w 7 3).toNat 0 <| plain lit 156
  | 6 => zeros (fld w 13 3).toNat 0 <| zeros (fld w 4 6).toNat 0 <| plain lit 157
  | 7 => zeros (fld w 19 3).toNat 0 <| zeros (fld w 4 6).toNat 0 <| plain lit 158
  | 8 => plain lit 159
  | 9 => zeros (fld w 4 6).toNat 0 <| plain lit 160
  | 10 => zeros (fld w 4 6).toNat 0 <| plain lit 161
  | _ => .error .unassigned

/-- Major 0x0b (R168). -/
def major0B (w : Word) (lit : Option Word) : Except Reject Nat :=
  zeros (fld w 10 6).toNat 0 <| withEscape ((fld w 0 10).toNat == 512) lit 162

/-- Major 0x0c (R168). -/
def major0C (w : Word) (lit : Option Word) : Except Reject Nat :=
  match (fld w 22 3).toNat with
  | 0 => plain lit 163
  | 1 => plain lit 164
  | 2 => plain lit 165
  | 3 => plain lit 166
  | 4 => plain lit 167
  | 5 => plain lit 168
  | 6 => plain lit 169
  | _ => plain lit 170

/-- Major 0x0d (R168). -/
def major0D (w : Word) (lit : Option Word) : Except Reject Nat :=
  match (fld w 22 3).toNat with
  | 0 => withEscape ((fld w 0 6).toNat == 32) lit 171
  | 1 => withEscape ((fld w 0 6).toNat == 32) lit 172
  | 2 => withEscape ((fld w 0 6).toNat == 32) lit 173
  | 3 => withEscape ((fld w 0 6).toNat == 32) lit 174
  | 4 => withEscape ((fld w 0 6).toNat == 32) lit 175
  | 5 => withEscape ((fld w 0 6).toNat == 32) lit 176
  | 6 => withEscape ((fld w 0 6).toNat == 32) lit 177
  | _ => withEscape ((fld w 0 6).toNat == 32) lit 178

/-- Major 0x0e (R168). -/
def major0E (w : Word) (lit : Option Word) : Except Reject Nat :=
  match (fld w 22 3).toNat with
  | 0 => zeros (fld w 0 8).toNat 0 <| plain lit 179
  | 1 => zeros (fld w 0 8).toNat 0 <| plain lit 180
  | 2 => zeros (fld w 0 8).toNat 0 <| plain lit 181
  | 3 => zeros (fld w 0 8).toNat 0 <| plain lit 182
  | _ => .error .unassigned

/-- Major 0x0f (R168). -/
def major0F (w : Word) (lit : Option Word) : Except Reject Nat :=
  match (fld w 22 3).toNat with
  | 0 => zeros (fld w 6 8).toNat 0 <| withEscape ((fld w 0 6).toNat == 32) lit 183
  | _ => zeros (fld w 17 5).toNat 0 <| withEscape ((fld w 0 6).toNat == 32) lit 184

/-- Major 0x10 (R168). -/
def major10 (w : Word) (lit : Option Word) : Except Reject Nat :=
  match (fld w 0 4).toNat with
  | 0 => plain lit 185
  | 1 => plain lit 186
  | 2 => plain lit 187
  | 3 => plain lit 188
  | 4 => plain lit 189
  | 5 => plain lit 190
  | _ => .error .unassigned

/-- Major 0x11 (R168). -/
def major11 (w : Word) (lit : Option Word) : Except Reject Nat :=
  match (fld w 0 4).toNat with
  | 0 => plain lit 191
  | 1 => plain lit 192
  | 2 => zeros (fld w 4 6).toNat 0 <| plain lit 193
  | 3 => zeros (fld w 4 6).toNat 0 <| plain lit 194
  | 4 => plain lit 195
  | 5 => plain lit 196
  | 6 => plain lit 197
  | _ => .error .unassigned

/-- Major 0x12 (R168). -/
def major12 (w : Word) (lit : Option Word) : Except Reject Nat :=
  match (fld w 0 4).toNat with
  | 0 => plain lit 198
  | 1 => plain lit 199
  | 2 => plain lit 200
  | 3 => zeros (fld w 4 6).toNat 0 <| plain lit 201
  | 4 => zeros (fld w 4 6).toNat 0 <| plain lit 202
  | 5 => plain lit 203
  | _ => .error .unassigned

/-- Major 0x13 (R168). -/
def major13 (w : Word) (lit : Option Word) : Except Reject Nat :=
  match (fld w 0 4).toNat with
  | 0 => plain lit 198
  | 1 => plain lit 199
  | 2 => plain lit 200
  | 3 => zeros (fld w 4 6).toNat 0 <| plain lit 201
  | 4 => zeros (fld w 4 6).toNat 0 <| plain lit 202
  | 5 => plain lit 203
  | _ => .error .unassigned

/-- Major 0x14 (R168). -/
def major14 (w : Word) (lit : Option Word) : Except Reject Nat :=
  match (fld w 0 2).toNat with
  | 0 => plain lit 204
  | 1 => plain lit 205
  | 2 => plain lit 206
  | _ => plain lit 207

/-- Major 0x15 (R168). -/
def major15 (w : Word) (lit : Option Word) : Except Reject Nat :=
  withEscape ((fld w 0 10).toNat == 512) lit 208

/-- Major 0x16 (R168). -/
def major16 (w : Word) (lit : Option Word) : Except Reject Nat :=
  match (fld w 3 4).toNat with
  | 8 => plain lit 210
  | _ => plain lit 209

/-- Major 0x17 (R168). -/
def major17 (w : Word) (lit : Option Word) : Except Reject Nat :=
  match (fld w 0 4).toNat with
  | 0 => zeros (fld w 4 3).toNat 0 <| plain lit 211
  | _ => zeros (fld w 6 1).toNat 0 <| plain lit 212

/-- Major 0x18 (R168). -/
def major18 (w : Word) (lit : Option Word) : Except Reject Nat :=
  plain lit 213

/-- Major 0x19 (R168). -/
def major19 (w : Word) (lit : Option Word) : Except Reject Nat :=
  plain lit 214

/-- Major 0x1a (R168). -/
def major1A (w : Word) (lit : Option Word) : Except Reject Nat :=
  match (fld w 0 4).toNat with
  | 0 => zeros (fld w 4 6).toNat 0 <| plain lit 215
  | 1 => zeros (fld w 4 6).toNat 0 <| plain lit 216
  | 2 => zeros (fld w 4 6).toNat 0 <| plain lit 217
  | 3 => zeros (fld w 4 6).toNat 0 <| plain lit 218
  | 4 => zeros (fld w 4 6).toNat 0 <| plain lit 219
  | 5 => zeros (fld w 4 6).toNat 0 <| plain lit 220
  | 6 => zeros (fld w 4 6).toNat 0 <| plain lit 221
  | 7 => zeros (fld w 4 6).toNat 0 <| plain lit 222
  | _ => .error .unassigned

/-- Major 0x1b (R168). -/
def major1B (w : Word) (lit : Option Word) : Except Reject Nat :=
  match (fld w 0 3).toNat with
  | 0 => plain lit 223
  | 1 => plain lit 224
  | 2 => plain lit 225
  | _ => .error .unassigned

/-- Major 0x1c (R168). -/
def major1C (w : Word) (lit : Option Word) : Except Reject Nat :=
  match (fld w 0 4).toNat with
  | 0 => plain lit 226
  | 1 => plain lit 227
  | 2 => plain lit 228
  | 3 => plain lit 229
  | 4 => plain lit 230
  | 5 => zeros (fld w 4 6).toNat 0 <| plain lit 231
  | 6 => zeros (fld w 4 6).toNat 0 <| plain lit 232
  | 7 => zeros (fld w 4 6).toNat 0 <| plain lit 233
  | 8 => plain lit 234
  | 9 => plain lit 235
  | _ => .error .unassigned

/-- Major 0x1d (R168). -/
def major1D (w : Word) (lit : Option Word) : Except Reject Nat :=
  match (fld w 0 4).toNat with
  | 0 => zeros (fld w 4 6).toNat 0 <| plain lit 236
  | 1 => zeros (fld w 4 6).toNat 0 <| plain lit 237
  | 2 => zeros (fld w 4 6).toNat 0 <| plain lit 238
  | 3 => zeros (fld w 4 6).toNat 0 <| plain lit 239
  | 4 => zeros (fld w 4 6).toNat 0 <| plain lit 240
  | 5 => zeros (fld w 4 2).toNat 0 <| plain lit 241
  | 6 => zeros (fld w 4 3).toNat 0 <| plain lit 242
  | 7 => zeros (fld w 4 3).toNat 0 <| plain lit 243
  | 8 => zeros (fld w 4 3).toNat 0 <| plain lit 244
  | 9 => zeros (fld w 4 3).toNat 0 <| plain lit 245
  | 10 => zeros (fld w 4 6).toNat 0 <| plain lit 246
  | 11 => zeros (fld w 4 6).toNat 0 <| plain lit 247
  | _ => .error .unassigned

/-- Major 0x1e (R168). -/
def major1E (w : Word) (lit : Option Word) : Except Reject Nat :=
  zeros (fld w 0 3).toNat 0 <| plain lit 248

/-- Major 0x1f (R168). -/
def major1F (w : Word) (lit : Option Word) : Except Reject Nat :=
  match (fld w 19 3).toNat with
  | 0 => zeros (fld w 8 11).toNat 0 <| plain lit 249
  | 1 => zeros (fld w 3 16).toNat 0 <| plain lit 250
  | 2 => zeros (fld w 1 18).toNat 0 <| plain lit 251
  | 3 => zeros (fld w 9 10).toNat 0 <| plain lit 252
  | 4 => zeros (fld w 16 3).toNat 0 <| zeros (fld w 0 10).toNat 0 <| plain lit 253
  | 5 => zeros (fld w 0 19).toNat 0 <| plain lit 254
  | _ => .error .unassigned

/-- Major 0x20 (R168). -/
def major20 (w : Word) (lit : Option Word) : Except Reject Nat :=
  withEscape ((fld w 0 10).toNat == 512) lit 255

/-- Major 0x21 (R168). -/
def major21 (w : Word) (lit : Option Word) : Except Reject Nat :=
  match (fld w 0 4).toNat with
  | 0 => zeros (fld w 4 6).toNat 0 <| plain lit 256
  | 1 => zeros (fld w 4 6).toNat 0 <| plain lit 257
  | 2 => zeros (fld w 4 6).toNat 0 <| plain lit 258
  | 3 => zeros (fld w 4 6).toNat 0 <| plain lit 259
  | 4 => zeros (fld w 4 6).toNat 0 <| plain lit 260
  | 5 => zeros (fld w 4 6).toNat 0 <| plain lit 261
  | 6 => zeros (fld w 4 6).toNat 0 <| plain lit 262
  | _ => .error .unassigned

/-- Major 0x22 (R168). -/
def major22 (w : Word) (lit : Option Word) : Except Reject Nat :=
  withEscape ((fld w 0 10).toNat == 512) lit 263

/-- Major 0x23 (R168). -/
def major23 (w : Word) (lit : Option Word) : Except Reject Nat :=
  withEscape ((fld w 0 10).toNat == 512) lit 264

/-- Major 0x24 (R168). -/
def major24 (w : Word) (lit : Option Word) : Except Reject Nat :=
  withEscape ((fld w 0 10).toNat == 512) lit 265

/-- Major 0x25 (R168). -/
def major25 (w : Word) (lit : Option Word) : Except Reject Nat :=
  withEscape ((fld w 0 10).toNat == 512) lit 266

/-- Major 0x26 (R168). -/
def major26 (w : Word) (lit : Option Word) : Except Reject Nat :=
  withEscape ((fld w 0 10).toNat == 512) lit 267

/-- Major 0x27 (R168). -/
def major27 (w : Word) (lit : Option Word) : Except Reject Nat :=
  withEscape ((fld w 0 10).toNat == 512) lit 268

/-- Major 0x28 (R168). -/
def major28 (w : Word) (lit : Option Word) : Except Reject Nat :=
  match (fld w 0 4).toNat with
  | 0 => zeros (fld w 4 6).toNat 0 <| plain lit 269
  | 1 => zeros (fld w 4 6).toNat 0 <| plain lit 270
  | 2 => zeros (fld w 4 6).toNat 0 <| plain lit 271
  | 3 => zeros (fld w 4 6).toNat 0 <| plain lit 272
  | 4 => zeros (fld w 4 6).toNat 0 <| plain lit 273
  | 5 => zeros (fld w 4 6).toNat 0 <| plain lit 274
  | 6 => zeros (fld w 4 6).toNat 0 <| plain lit 275
  | 7 => zeros (fld w 4 6).toNat 0 <| plain lit 276
  | 8 => zeros (fld w 4 6).toNat 0 <| plain lit 277
  | 9 => zeros (fld w 4 6).toNat 0 <| plain lit 278
  | 10 => zeros (fld w 4 6).toNat 0 <| plain lit 279
  | 11 => zeros (fld w 4 6).toNat 0 <| plain lit 280
  | 12 => zeros (fld w 4 6).toNat 0 <| plain lit 281
  | _ => .error .unassigned

/-- Major 0x29 (R168). -/
def major29 (w : Word) (lit : Option Word) : Except Reject Nat :=
  match (fld w 0 2).toNat with
  | 0 => plain lit 282
  | 1 => plain lit 283
  | 2 => plain lit 284
  | _ => plain lit 285

/-- Major 0x2a (R168). -/
def major2A (w : Word) (lit : Option Word) : Except Reject Nat :=
  match (fld w 0 4).toNat with
  | 0 => plain lit 286
  | 1 => plain lit 287
  | 2 => plain lit 288
  | 3 => plain lit 289
  | 4 => plain lit 290
  | 5 => plain lit 291
  | 6 => plain lit 292
  | 7 => plain lit 293
  | 8 => plain lit 294
  | 9 => plain lit 295
  | 10 => plain lit 296
  | 11 => plain lit 297
  | 12 => plain lit 298
  | 13 => plain lit 299
  | 14 => withLit lit 300
  | _ => plain lit 301

/-- Major 0x2b (R168). -/
def major2B (w : Word) (lit : Option Word) : Except Reject Nat :=
  match (fld w 19 3).toNat with
  | 0 => zeros (fld w 31 1).toNat 0 <| zeros (fld w 0 19).toNat 0 <| plain lit 302
  | 1 => zeros (fld w 31 1).toNat 0 <| zeros (fld w 0 19).toNat 0 <| plain lit 303
  | 2 => zeros (fld w 31 1).toNat 0 <| zeros (fld w 0 19).toNat 0 <| plain lit 304
  | 3 => zeros (fld w 16 3).toNat 0 <| withEscape ((fld w 0 10).toNat == 512) lit 305
  | 4 => zeros (fld w 16 3).toNat 0 <| withEscape ((fld w 0 10).toNat == 512) lit 306
  | _ => .error .unassigned

/-- Major 0x2c (R168). -/
def major2C (w : Word) (lit : Option Word) : Except Reject Nat :=
  match (fld w 0 2).toNat with
  | 0 => plain lit 307
  | 1 => plain lit 308
  | 2 => plain lit 309
  | _ => plain lit 310

/-- Major 0x2d (R168). -/
def major2D (w : Word) (lit : Option Word) : Except Reject Nat :=
  match (fld w 0 2).toNat with
  | 0 => plain lit 311
  | 1 => plain lit 312
  | 2 => plain lit 313
  | _ => plain lit 314

/-- Major 0x2e (R168). -/
def major2E (w : Word) (lit : Option Word) : Except Reject Nat :=
  match (fld w 0 2).toNat with
  | 0 => plain lit 315
  | 1 => plain lit 316
  | 2 => plain lit 317
  | _ => plain lit 318

/-- Major 0x2f (R168). -/
def major2F (w : Word) (lit : Option Word) : Except Reject Nat :=
  match (fld w 0 2).toNat with
  | 0 => plain lit 319
  | 1 => plain lit 320
  | 2 => plain lit 321
  | _ => plain lit 322

/-- Major 0x30 (R168). -/
def major30 (w : Word) (lit : Option Word) : Except Reject Nat :=
  match (fld w 0 2).toNat with
  | 0 => plain lit 323
  | 1 => plain lit 324
  | 2 => plain lit 325
  | _ => plain lit 326

/-- Major 0x31 (R168). -/
def major31 (w : Word) (lit : Option Word) : Except Reject Nat :=
  match (fld w 0 2).toNat with
  | 0 => plain lit 327
  | 1 => zeros (fld w 10 12).toNat 0 <| plain lit 328
  | _ => .error .unassigned

/-- Major 0x32 (R168). -/
def major32 (w : Word) (lit : Option Word) : Except Reject Nat :=
  zeros (fld w 0 8).toNat 0 <| plain lit 329

/-- Major 0x33 (R168). -/
def major33 (w : Word) (lit : Option Word) : Except Reject Nat :=
  match (fld w 20 2).toNat with
  | 0 => zeros (fld w 0 8).toNat 0 <| plain lit 330
  | 1 => zeros (fld w 0 16).toNat 0 <| plain lit 331
  | _ => .error .unassigned

/-- Major 0x34 (R168). -/
def major34 (w : Word) (lit : Option Word) : Except Reject Nat :=
  match (fld w 0 4).toNat with
  | 0 => zeros (fld w 4 6).toNat 0 <| plain lit 332
  | 1 => zeros (fld w 16 6).toNat 0 <| plain lit 333
  | 2 => zeros (fld w 4 6).toNat 0 <| plain lit 334
  | 3 => zeros (fld w 16 6).toNat 0 <| plain lit 335
  | 4 => zeros (fld w 16 6).toNat 0 <| plain lit 336
  | 5 => zeros (fld w 16 6).toNat 0 <| plain lit 337
  | _ => .error .unassigned

/-- Major 0x35 (R168). -/
def major35 (w : Word) (lit : Option Word) : Except Reject Nat :=
  match (fld w 18 1).toNat with
  | 0 => zeros (fld w 31 1).toNat 0 <| zeros (fld w 8 10).toNat 0 <| plain lit 338
  | _ => zeros (fld w 31 1).toNat 0 <| zeros (fld w 19 3).toNat 1 <| zeros (fld w 8 10).toNat 0 <| plain lit 339

/-- Major 0x36 (R168). -/
def major36 (w : Word) (lit : Option Word) : Except Reject Nat :=
  match (fld w 20 2).toNat with
  | 0 => zeros (fld w 31 1).toNat 0 <| zeros (fld w 14 6).toNat 0 <| zeros (fld w 0 6).toNat 0 <| plain lit 340
  | 1 => zeros (fld w 31 1).toNat 0 <| zeros (fld w 14 6).toNat 0 <| zeros (fld w 0 6).toNat 0 <| plain lit 341
  | 2 => zeros (fld w 0 6).toNat 0 <| plain lit 342
  | _ => .error .unassigned

/-- Major 0x38 (R168). -/
def major38 (w : Word) (lit : Option Word) : Except Reject Nat :=
  zeros (fld w 31 1).toNat 0 <| plain lit 343

/-- Major 0x39 (R168). -/
def major39 (w : Word) (lit : Option Word) : Except Reject Nat :=
  match (fld w 22 3).toNat with
  | 0 => zeros (fld w 31 1).toNat 0 <| zeros (fld w 21 1).toNat 0 <| plain lit 344
  | _ => .error .unassigned

/-- Major 0x3a (R168). -/
def major3A (w : Word) (lit : Option Word) : Except Reject Nat :=
  match (fld w 22 3).toNat with
  | 0 => zeros (fld w 31 1).toNat 0 <| zeros (fld w 0 22).toNat 0 <| plain lit 345
  | 1 => zeros (fld w 31 1).toNat 0 <| zeros (fld w 0 5).toNat 0 <| withLit lit 346
  | 2 => zeros (fld w 31 1).toNat 0 <| zeros (fld w 0 22).toNat 0 <| plain lit 347
  | 3 => zeros (fld w 31 1).toNat 0 <| zeros (fld w 0 22).toNat 0 <| plain lit 348
  | 4 => zeros (fld w 31 1).toNat 0 <| zeros (fld w 0 16).toNat 0 <| plain lit 349
  | 5 => zeros (fld w 31 1).toNat 0 <| zeros (fld w 0 16).toNat 0 <| plain lit 350
  | _ => .error .unassigned

/-- Major 0x3b (R168). -/
def major3B (w : Word) (lit : Option Word) : Except Reject Nat :=
  match (fld w 22 3).toNat with
  | 0 => zeros (fld w 31 1).toNat 0 <| zeros (fld w 0 20).toNat 0 <| plain lit 351
  | 1 => zeros (fld w 31 1).toNat 0 <| zeros (fld w 0 17).toNat 0 <| plain lit 352
  | 2 => zeros (fld w 31 1).toNat 0 <| zeros (fld w 0 17).toNat 0 <| plain lit 353
  | 3 => zeros (fld w 31 1).toNat 0 <| zeros (fld w 0 22).toNat 0 <| plain lit 354
  | 4 => zeros (fld w 31 1).toNat 0 <| zeros (fld w 0 22).toNat 0 <| plain lit 355
  | _ => .error .unassigned

/-- Major 0x3c (R168). -/
def major3C (w : Word) (lit : Option Word) : Except Reject Nat :=
  match (fld w 22 3).toNat with
  | 0 => zeros (fld w 31 1).toNat 0 <| zeros (fld w 0 19).toNat 0 <| plain lit 356
  | 1 => zeros (fld w 31 1).toNat 0 <| zeros (fld w 0 22).toNat 0 <| plain lit 357
  | 2 => zeros (fld w 31 1).toNat 0 <| zeros (fld w 0 22).toNat 0 <| plain lit 358
  | 3 => zeros (fld w 31 1).toNat 0 <| zeros (fld w 8 14).toNat 0 <| plain lit 359
  | 4 => zeros (fld w 31 1).toNat 0 <| zeros (fld w 16 6).toNat 0 <| zeros (fld w 0 10).toNat 0 <| plain lit 360
  | _ => .error .unassigned

/-- Major 0x3d (R168). -/
def major3D (w : Word) (lit : Option Word) : Except Reject Nat :=
  match (fld w 22 3).toNat with
  | 0 => zeros (fld w 31 1).toNat 0 <| zeros (fld w 16 6).toNat 0 <| plain lit 361
  | 1 => zeros (fld w 31 1).toNat 0 <| zeros (fld w 16 6).toNat 0 <| plain lit 362
  | 2 => zeros (fld w 31 1).toNat 0 <| zeros (fld w 10 12).toNat 0 <| plain lit 363
  | _ => .error .unassigned

/-- Major 0x3e (R168). -/
def major3E (w : Word) (lit : Option Word) : Except Reject Nat :=
  match (fld w 22 3).toNat with
  | 0 => zeros (fld w 8 8).toNat 0 <| plain lit 364
  | 1 => zeros (fld w 0 6).toNat 0 <| plain lit 365
  | 2 => zeros (fld w 16 6).toNat 0 <| zeros (fld w 8 2).toNat 0 <| plain lit 366
  | 3 => zeros (fld w 0 6).toNat 0 <| plain lit 367
  | _ => .error .unassigned

/-- The opcode-table row of a word by its major (R168); major 0x37 is unassigned and 0x3F reserved. -/
def rowOfFields (w : Word) (lit : Option Word) : Except Reject Nat :=
  match (fld w 25 6).toNat with
  | 0x00 => major00 w lit
  | 0x01 => major01 w lit
  | 0x02 => major02 w lit
  | 0x03 => major03 w lit
  | 0x04 => major04 w lit
  | 0x05 => major05 w lit
  | 0x06 => major06 w lit
  | 0x07 => major07 w lit
  | 0x08 => major08 w lit
  | 0x09 => major09 w lit
  | 0x0A => major0A w lit
  | 0x0B => major0B w lit
  | 0x0C => major0C w lit
  | 0x0D => major0D w lit
  | 0x0E => major0E w lit
  | 0x0F => major0F w lit
  | 0x10 => major10 w lit
  | 0x11 => major11 w lit
  | 0x12 => major12 w lit
  | 0x13 => major13 w lit
  | 0x14 => major14 w lit
  | 0x15 => major15 w lit
  | 0x16 => major16 w lit
  | 0x17 => major17 w lit
  | 0x18 => major18 w lit
  | 0x19 => major19 w lit
  | 0x1A => major1A w lit
  | 0x1B => major1B w lit
  | 0x1C => major1C w lit
  | 0x1D => major1D w lit
  | 0x1E => major1E w lit
  | 0x1F => major1F w lit
  | 0x20 => major20 w lit
  | 0x21 => major21 w lit
  | 0x22 => major22 w lit
  | 0x23 => major23 w lit
  | 0x24 => major24 w lit
  | 0x25 => major25 w lit
  | 0x26 => major26 w lit
  | 0x27 => major27 w lit
  | 0x28 => major28 w lit
  | 0x29 => major29 w lit
  | 0x2A => major2A w lit
  | 0x2B => major2B w lit
  | 0x2C => major2C w lit
  | 0x2D => major2D w lit
  | 0x2E => major2E w lit
  | 0x2F => major2F w lit
  | 0x30 => major30 w lit
  | 0x31 => major31 w lit
  | 0x32 => major32 w lit
  | 0x33 => major33 w lit
  | 0x34 => major34 w lit
  | 0x35 => major35 w lit
  | 0x36 => major36 w lit
  | 0x38 => major38 w lit
  | 0x39 => major39 w lit
  | 0x3A => major3A w lit
  | 0x3B => major3B w lit
  | 0x3C => major3C w lit
  | 0x3D => major3D w lit
  | 0x3E => major3E w lit
  | 0x37 => .error .unassigned
  | _ => .error .reservedMajor

/-- The values of the fields that a description restricts, by row (R214, R235, R259, R283, R63). -/
def rowValuesOk (row : Nat) (w : Word) : Bool :=
  match row with
  | 150 => decide ((fld w 3 4).toNat ≤ 6) && decide ((fld w 0 3).toNat ≤ 3)
  | 184 => decide (1 ≤ (fld w 22 3).toNat) && decide ((fld w 22 3).toNat ≤ 6)
  | 209 => decide ((fld w 3 4).toNat ≤ 7) && decide ((fld w 0 3).toNat ≤ 4)
  | 210 => decide ((fld w 0 3).toNat ≤ 4)
  | 211 => decide ((fld w 7 3).toNat ≤ 3)
  | 212 => cvtToOk (fld w 0 4) (fld w 7 3) (fld w 4 2)
  | 213 => cvtFromOk (fld w 0 4) (fld w 7 3) (fld w 6 1) (fld w 4 2)
  | 214 => decide (1 ≤ (fld w 0 3).toNat) && decide ((fld w 0 3).toNat ≤ 6) && (decide (3 ≤ (fld w 0 3).toNat) || (fld w 3 1) == 0)
  | 241 => decide ((fld w 7 3).toNat ≤ 3)
  | 242 => decide ((fld w 7 3).toNat ≤ 3)
  | 243 => decide ((fld w 7 3).toNat ≤ 3)
  | 244 => decide ((fld w 7 3).toNat ≤ 3)
  | 245 => decide ((fld w 7 3).toNat ≤ 3)
  | 248 => decide ((fld w 3 4).toNat ≤ 7)
  | 301 => decide ((fld w 16 6).toNat ≤ 10)
  | 329 => decide ((fld w 16 3).toNat ≤ 4) && decide ((fld w 8 8).toNat ≤ 240)
  | 330 => decide ((fld w 8 8).toNat ≤ 248)
  | 338 => decide ((fld w 19 3).toNat ≤ 4)
  | 346 => decide ((fld w 6 8).toNat ≤ 252)
  | 364 => decide ((fld w 0 8).toNat ≤ 0x11)
  | 365 => decide ((fld w 6 8).toNat ≤ 0x11)
  | 366 => decide ((fld w 0 8).toNat ≤ 0x11)
  | 367 => decide ((fld w 14 8).toNat ≤ 0x11)
  | _ => true

/-- The step of a table row from its word and literal. -/
noncomputable def build (row : Nat) (w l : Word) : Instr :=
  match row with
  | 107 => .iadd (fld w 31 1) (fld w 22 3) (fld w 16 6) (fld w 10 6) (fld w 4 6)
  | 108 => .isub (fld w 31 1) (fld w 22 3) (fld w 16 6) (fld w 10 6) (fld w 4 6)
  | 109 => .imul (fld w 31 1) (fld w 22 3) (fld w 16 6) (fld w 10 6) (fld w 4 6)
  | 110 => .imulhiI32 (fld w 31 1) (fld w 22 3) (fld w 16 6) (fld w 10 6) (fld w 4 6)
  | 111 => .imulhiN32 (fld w 31 1) (fld w 22 3) (fld w 16 6) (fld w 10 6) (fld w 4 6)
  | 112 => .iminI32 (fld w 31 1) (fld w 22 3) (fld w 16 6) (fld w 10 6) (fld w 4 6)
  | 113 => .iminN32 (fld w 31 1) (fld w 22 3) (fld w 16 6) (fld w 10 6) (fld w 4 6)
  | 114 => .imaxI32 (fld w 31 1) (fld w 22 3) (fld w 16 6) (fld w 10 6) (fld w 4 6)
  | 115 => .imaxN32 (fld w 31 1) (fld w 22 3) (fld w 16 6) (fld w 10 6) (fld w 4 6)
  | 116 => .iaddSatI32 (fld w 31 1) (fld w 22 3) (fld w 16 6) (fld w 10 6) (fld w 4 6)
  | 117 => .iaddSatN32 (fld w 31 1) (fld w 22 3) (fld w 16 6) (fld w 10 6) (fld w 4 6)
  | 118 => .isubSatI32 (fld w 31 1) (fld w 22 3) (fld w 16 6) (fld w 10 6) (fld w 4 6)
  | 119 => .isubSatN32 (fld w 31 1) (fld w 22 3) (fld w 16 6) (fld w 10 6) (fld w 4 6)
  | 120 => .iaddI64 (fld w 31 1) (fld w 22 3) (fld w 16 6) (fld w 10 6) (fld w 4 6)
  | 121 => .isubI64 (fld w 31 1) (fld w 22 3) (fld w 16 6) (fld w 10 6) (fld w 4 6)
  | 122 => .imad (fld w 31 1) (fld w 22 3) (fld w 16 6) (fld w 10 6) (fld w 4 6)
  | 123 => .and (fld w 31 1) (fld w 22 3) (fld w 16 6) (fld w 10 6) (fld w 4 6)
  | 124 => .or (fld w 31 1) (fld w 22 3) (fld w 16 6) (fld w 10 6) (fld w 4 6)
  | 125 => .xor (fld w 31 1) (fld w 22 3) (fld w 16 6) (fld w 10 6) (fld w 4 6)
  | 126 => .andn (fld w 31 1) (fld w 22 3) (fld w 16 6) (fld w 10 6) (fld w 4 6)
  | 127 => .not (fld w 31 1) (fld w 22 3) (fld w 16 6) (fld w 10 6)
  | 128 => .shl (fld w 31 1) (fld w 22 3) (fld w 16 6) (fld w 10 6) (fld w 4 6)
  | 129 => .shr (fld w 31 1) (fld w 22 3) (fld w 16 6) (fld w 10 6) (fld w 4 6)
  | 130 => .sar (fld w 31 1) (fld w 22 3) (fld w 16 6) (fld w 10 6) (fld w 4 6)
  | 131 => .rotl (fld w 31 1) (fld w 22 3) (fld w 16 6) (fld w 10 6) (fld w 4 6)
  | 132 => .rotr (fld w 31 1) (fld w 22 3) (fld w 16 6) (fld w 10 6) (fld w 4 6)
  | 133 => .bitgetN32 (fld w 31 1) (fld w 22 3) (fld w 16 6) (fld w 10 6) (fld w 4 6)
  | 134 => .bitgetI32 (fld w 31 1) (fld w 22 3) (fld w 16 6) (fld w 10 6) (fld w 4 6)
  | 135 => .bitins (fld w 31 1) (fld w 22 3) (fld w 16 6) (fld w 10 6) (fld w 4 6)
  | 136 => .popc (fld w 31 1) (fld w 22 3) (fld w 16 6) (fld w 10 6)
  | 137 => .clz (fld w 31 1) (fld w 22 3) (fld w 16 6) (fld w 10 6)
  | 138 => .ctz (fld w 31 1) (fld w 22 3) (fld w 16 6) (fld w 10 6)
  | 139 => .brev (fld w 31 1) (fld w 22 3) (fld w 16 6) (fld w 10 6)
  | 140 => .sel (fld w 31 1) (fld w 22 3) (fld w 16 6) (fld w 10 6) (fld w 4 6) (fld w 0 3)
  | 141 => .iaddUniform (fld w 31 1) (fld w 22 3) (fld w 16 6) (fld w 10 6) (fld w 2 8)
  | 142 => .isubUniform (fld w 31 1) (fld w 22 3) (fld w 16 6) (fld w 10 6) (fld w 2 8)
  | 143 => .imulUniform (fld w 31 1) (fld w 22 3) (fld w 16 6) (fld w 10 6) (fld w 2 8)
  | 144 => .andUniform (fld w 31 1) (fld w 22 3) (fld w 16 6) (fld w 10 6) (fld w 2 8)
  | 145 => .iaddImm (fld w 31 1) (fld w 22 3) (fld w 16 6) (fld w 10 6) (fld w 0 10) l
  | 146 => .andImm (fld w 31 1) (fld w 22 3) (fld w 16 6) (fld w 10 6) (fld w 0 10) l
  | 147 => .orImm (fld w 31 1) (fld w 22 3) (fld w 16 6) (fld w 10 6) (fld w 0 10) l
  | 148 => .xorImm (fld w 31 1) (fld w 22 3) (fld w 16 6) (fld w 10 6) (fld w 0 10) l
  | 149 => .shlImm (fld w 31 1) (fld w 22 3) (fld w 16 6) (fld w 10 6) (fld w 0 10) l
  | 150 => .icmp (fld w 31 1) (fld w 22 3) (fld w 19 3) (fld w 13 6) (fld w 7 6) (fld w 3 4) (fld w 0 3)
  | 151 => .mov (fld w 31 1) (fld w 22 3) (fld w 16 6) (fld w 10 6)
  | 152 => .mov64 (fld w 31 1) (fld w 22 3) (fld w 16 6) (fld w 10 6)
  | 153 => .pand (fld w 31 1) (fld w 22 3) (fld w 16 3) (fld w 10 3) (fld w 4 3)
  | 154 => .por (fld w 31 1) (fld w 22 3) (fld w 16 3) (fld w 10 3) (fld w 4 3)
  | 155 => .pxor (fld w 31 1) (fld w 22 3) (fld w 16 3) (fld w 10 3) (fld w 4 3)
  | 156 => .pandn (fld w 31 1) (fld w 22 3) (fld w 16 3) (fld w 10 3) (fld w 4 3)
  | 157 => .pmov (fld w 31 1) (fld w 22 3) (fld w 16 6) (fld w 10 3)
  | 158 => .ptst (fld w 31 1) (fld w 22 3) (fld w 16 3) (fld w 10 6)
  | 159 => .rand (fld w 31 1) (fld w 22 3) (fld w 16 6) (fld w 10 6) (fld w 4 6)
  | 160 => .movH0 (fld w 31 1) (fld w 22 3) (fld w 16 6) (fld w 10 6)
  | 161 => .movH1 (fld w 31 1) (fld w 22 3) (fld w 16 6) (fld w 10 6)
  | 162 => .movImm (fld w 31 1) (fld w 22 3) (fld w 16 6) (fld w 0 10) l
  | 163 => .uadd (fld w 31 1) (fld w 14 8) (fld w 6 8) (fld w 0 6)
  | 164 => .usub (fld w 31 1) (fld w 14 8) (fld w 6 8) (fld w 0 6)
  | 165 => .umul (fld w 31 1) (fld w 14 8) (fld w 6 8) (fld w 0 6)
  | 166 => .uand (fld w 31 1) (fld w 14 8) (fld w 6 8) (fld w 0 6)
  | 167 => .uor (fld w 31 1) (fld w 14 8) (fld w 6 8) (fld w 0 6)
  | 168 => .uxor (fld w 31 1) (fld w 14 8) (fld w 6 8) (fld w 0 6)
  | 169 => .ushl (fld w 31 1) (fld w 14 8) (fld w 6 8) (fld w 0 6)
  | 170 => .ushr (fld w 31 1) (fld w 14 8) (fld w 6 8) (fld w 0 6)
  | 171 => .uaddImm (fld w 31 1) (fld w 14 8) (fld w 6 8) (fld w 0 6) l
  | 172 => .usubImm (fld w 31 1) (fld w 14 8) (fld w 6 8) (fld w 0 6) l
  | 173 => .umulImm (fld w 31 1) (fld w 14 8) (fld w 6 8) (fld w 0 6) l
  | 174 => .uandImm (fld w 31 1) (fld w 14 8) (fld w 6 8) (fld w 0 6) l
  | 175 => .uorImm (fld w 31 1) (fld w 14 8) (fld w 6 8) (fld w 0 6) l
  | 176 => .uxorImm (fld w 31 1) (fld w 14 8) (fld w 6 8) (fld w 0 6) l
  | 177 => .ushlImm (fld w 31 1) (fld w 14 8) (fld w 6 8) (fld w 0 6) l
  | 178 => .ushrImm (fld w 31 1) (fld w 14 8) (fld w 6 8) (fld w 0 6) l
  | 179 => .movVFromS (fld w 31 1) (fld w 16 6) (fld w 8 8)
  | 180 => .movSFromV (fld w 31 1) (fld w 14 8) (fld w 8 6)
  | 181 => .mov64VFromS (fld w 31 1) (fld w 16 6) (fld w 8 8)
  | 182 => .mov64SFromV (fld w 31 1) (fld w 14 8) (fld w 8 6)
  | 183 => .movUniformImm (fld w 31 1) (fld w 14 8) (fld w 0 6) l
  | 184 => .ucmp (fld w 31 1) (fld w 22 3) (fld w 14 3) (fld w 6 8) (fld w 0 6) l
  | 185 => .faddF32 (fld w 31 1) (fld w 22 3) (fld w 16 6) (fld w 10 6) (fld w 4 6)
  | 186 => .fsubF32 (fld w 31 1) (fld w 22 3) (fld w 16 6) (fld w 10 6) (fld w 4 6)
  | 187 => .fmulF32 (fld w 31 1) (fld w 22 3) (fld w 16 6) (fld w 10 6) (fld w 4 6)
  | 188 => .ffmaF32 (fld w 31 1) (fld w 22 3) (fld w 16 6) (fld w 10 6) (fld w 4 6)
  | 189 => .ffmsF32 (fld w 31 1) (fld w 22 3) (fld w 16 6) (fld w 10 6) (fld w 4 6)
  | 190 => .fnmaF32 (fld w 31 1) (fld w 22 3) (fld w 16 6) (fld w 10 6) (fld w 4 6)
  | 191 => .fminF32 (fld w 31 1) (fld w 22 3) (fld w 16 6) (fld w 10 6) (fld w 4 6)
  | 192 => .fmaxF32 (fld w 31 1) (fld w 22 3) (fld w 16 6) (fld w 10 6) (fld w 4 6)
  | 193 => .fabsF32 (fld w 31 1) (fld w 22 3) (fld w 16 6) (fld w 10 6)
  | 194 => .fnegF32 (fld w 31 1) (fld w 22 3) (fld w 16 6) (fld w 10 6)
  | 195 => .fcopysignF32 (fld w 31 1) (fld w 22 3) (fld w 16 6) (fld w 10 6) (fld w 4 6)
  | 196 => .fminNumF32 (fld w 31 1) (fld w 22 3) (fld w 16 6) (fld w 10 6) (fld w 4 6)
  | 197 => .fmaxNumF32 (fld w 31 1) (fld w 22 3) (fld w 16 6) (fld w 10 6) (fld w 4 6)
  | 198 => .faddF16 (fld w 31 1) (fld w 25 1) (fld w 22 3) (fld w 16 6) (fld w 10 6) (fld w 4 6)
  | 199 => .fsubF16 (fld w 31 1) (fld w 25 1) (fld w 22 3) (fld w 16 6) (fld w 10 6) (fld w 4 6)
  | 200 => .fmulF16 (fld w 31 1) (fld w 25 1) (fld w 22 3) (fld w 16 6) (fld w 10 6) (fld w 4 6)
  | 201 => .fabsF16 (fld w 31 1) (fld w 25 1) (fld w 22 3) (fld w 16 6) (fld w 10 6)
  | 202 => .fnegF16 (fld w 31 1) (fld w 25 1) (fld w 22 3) (fld w 16 6) (fld w 10 6)
  | 203 => .fdot2F16 (fld w 31 1) (fld w 25 1) (fld w 22 3) (fld w 16 6) (fld w 10 6) (fld w 4 6)
  | 204 => .faddF32Uniform (fld w 31 1) (fld w 22 3) (fld w 16 6) (fld w 10 6) (fld w 2 8)
  | 205 => .fmulF32Uniform (fld w 31 1) (fld w 22 3) (fld w 16 6) (fld w 10 6) (fld w 2 8)
  | 206 => .ffmaF32Uniform (fld w 31 1) (fld w 22 3) (fld w 16 6) (fld w 10 6) (fld w 2 8)
  | 207 => .fsubF32Uniform (fld w 31 1) (fld w 22 3) (fld w 16 6) (fld w 10 6) (fld w 2 8)
  | 208 => .fmulF32Imm (fld w 31 1) (fld w 22 3) (fld w 16 6) (fld w 10 6) (fld w 0 10) l
  | 209 => .fcmp (fld w 31 1) (fld w 22 3) (fld w 19 3) (fld w 13 6) (fld w 7 6) (fld w 3 4) (fld w 0 3)
  | 210 => .fclass (fld w 31 1) (fld w 22 3) (fld w 19 3) (fld w 13 6) (fld w 7 6) (fld w 0 3)
  | 211 => .frndF32 (fld w 31 1) (fld w 22 3) (fld w 16 6) (fld w 10 6) (fld w 7 3)
  | 212 => .cvtToF32 (fld w 31 1) (fld w 22 3) (fld w 16 6) (fld w 10 6) (fld w 7 3) (fld w 4 2) (fld w 0 4)
  | 213 => .cvtFromF32 (fld w 31 1) (fld w 22 3) (fld w 16 6) (fld w 10 6) (fld w 7 3) (fld w 6 1) (fld w 4 2) (fld w 0 4)
  | 214 => .cvtPk (fld w 31 1) (fld w 22 3) (fld w 16 6) (fld w 10 6) (fld w 4 6) (fld w 3 1) (fld w 0 3)
  | 215 => .frcpF32 (fld w 31 1) (fld w 22 3) (fld w 16 6) (fld w 10 6)
  | 216 => .frsqF32 (fld w 31 1) (fld w 22 3) (fld w 16 6) (fld w 10 6)
  | 217 => .fsqrtF32 (fld w 31 1) (fld w 22 3) (fld w 16 6) (fld w 10 6)
  | 218 => .fexp2F32 (fld w 31 1) (fld w 22 3) (fld w 16 6) (fld w 10 6)
  | 219 => .flog2F32 (fld w 31 1) (fld w 22 3) (fld w 16 6) (fld w 10 6)
  | 220 => .ftanhF32 (fld w 31 1) (fld w 22 3) (fld w 16 6) (fld w 10 6)
  | 221 => .fsinF32 (fld w 31 1) (fld w 22 3) (fld w 16 6) (fld w 10 6)
  | 222 => .fcosF32 (fld w 31 1) (fld w 22 3) (fld w 16 6) (fld w 10 6)
  | 223 => .fminF16 (fld w 31 1) (fld w 22 3) (fld w 16 6) (fld w 10 6) (fld w 4 6) (fld w 3 1)
  | 224 => .fmaxF16 (fld w 31 1) (fld w 22 3) (fld w 16 6) (fld w 10 6) (fld w 4 6) (fld w 3 1)
  | 225 => .ffmaF16 (fld w 31 1) (fld w 22 3) (fld w 16 6) (fld w 10 6) (fld w 4 6) (fld w 3 1)
  | 226 => .xadd (fld w 31 1) (fld w 22 3) (fld w 16 6) (fld w 10 6) (fld w 4 6)
  | 227 => .xsub (fld w 31 1) (fld w 22 3) (fld w 16 6) (fld w 10 6) (fld w 4 6)
  | 228 => .xmul (fld w 31 1) (fld w 22 3) (fld w 16 6) (fld w 10 6) (fld w 4 6)
  | 229 => .xdiv (fld w 31 1) (fld w 22 3) (fld w 16 6) (fld w 10 6) (fld w 4 6)
  | 230 => .xfma (fld w 31 1) (fld w 22 3) (fld w 16 6) (fld w 10 6) (fld w 4 6)
  | 231 => .xsqrt (fld w 31 1) (fld w 22 3) (fld w 16 6) (fld w 10 6)
  | 232 => .xneg (fld w 31 1) (fld w 22 3) (fld w 16 6) (fld w 10 6)
  | 233 => .xabs (fld w 31 1) (fld w 22 3) (fld w 16 6) (fld w 10 6)
  | 234 => .xmin (fld w 31 1) (fld w 22 3) (fld w 16 6) (fld w 10 6) (fld w 4 6)
  | 235 => .xmax (fld w 31 1) (fld w 22 3) (fld w 16 6) (fld w 10 6) (fld w 4 6)
  | 236 => .xcvtXfF32 (fld w 31 1) (fld w 22 3) (fld w 16 6) (fld w 10 6)
  | 237 => .xcvtXfI32 (fld w 31 1) (fld w 22 3) (fld w 16 6) (fld w 10 6)
  | 238 => .xcvtXfN32 (fld w 31 1) (fld w 22 3) (fld w 16 6) (fld w 10 6)
  | 239 => .xcvtXfI64 (fld w 31 1) (fld w 22 3) (fld w 16 6) (fld w 10 6)
  | 240 => .xcvtXfN64 (fld w 31 1) (fld w 22 3) (fld w 16 6) (fld w 10 6)
  | 241 => .xcvtF32Xf (fld w 31 1) (fld w 22 3) (fld w 16 6) (fld w 10 6) (fld w 7 3) (fld w 6 1)
  | 242 => .xcvtI32Xf (fld w 31 1) (fld w 22 3) (fld w 16 6) (fld w 10 6) (fld w 7 3)
  | 243 => .xcvtN32Xf (fld w 31 1) (fld w 22 3) (fld w 16 6) (fld w 10 6) (fld w 7 3)
  | 244 => .xcvtI64Xf (fld w 31 1) (fld w 22 3) (fld w 16 6) (fld w 10 6) (fld w 7 3)
  | 245 => .xcvtN64Xf (fld w 31 1) (fld w 22 3) (fld w 16 6) (fld w 10 6) (fld w 7 3)
  | 246 => .xrnd (fld w 31 1) (fld w 22 3) (fld w 16 6) (fld w 10 6)
  | 247 => .xrint (fld w 31 1) (fld w 22 3) (fld w 16 6) (fld w 10 6)
  | 248 => .xcmp (fld w 31 1) (fld w 22 3) (fld w 19 3) (fld w 13 6) (fld w 7 6) (fld w 3 4)
  | 249 => .setp (fld w 31 1) (fld w 22 3) (fld w 0 8)
  | 250 => .setrm (fld w 31 1) (fld w 22 3) (fld w 0 3)
  | 251 => .setx (fld w 31 1) (fld w 22 3) (fld w 0 1)
  | 252 => .addp (fld w 31 1) (fld w 22 3) (fld w 0 9)
  | 253 => .setpReg (fld w 31 1) (fld w 22 3) (fld w 10 6)
  | 254 => .clrxuf (fld w 31 1) (fld w 22 3)
  | 255 => .xld (fld w 31 1) (fld w 22 3) (fld w 16 6) (fld w 10 6) (fld w 0 10) l
  | 256 => .xldR (fld w 31 1) (fld w 22 3) (fld w 16 6) (fld w 10 6)
  | 257 => .xst (fld w 31 1) (fld w 22 3) (fld w 16 6) (fld w 10 6)
  | 258 => .xstMin (fld w 31 1) (fld w 22 3) (fld w 16 6) (fld w 10 6)
  | 259 => .xlds (fld w 31 1) (fld w 22 3) (fld w 16 6) (fld w 10 6)
  | 260 => .xldsR (fld w 31 1) (fld w 22 3) (fld w 16 6) (fld w 10 6)
  | 261 => .xsts (fld w 31 1) (fld w 22 3) (fld w 16 6) (fld w 10 6)
  | 262 => .xstsMin (fld w 31 1) (fld w 22 3) (fld w 16 6) (fld w 10 6)
  | 263 => .ld32 (fld w 31 1) (fld w 22 3) (fld w 16 6) (fld w 10 6) (fld w 0 10) l
  | 264 => .st32 (fld w 31 1) (fld w 22 3) (fld w 16 6) (fld w 10 6) (fld w 0 10) l
  | 265 => .ld64 (fld w 31 1) (fld w 22 3) (fld w 16 6) (fld w 10 6) (fld w 0 10) l
  | 266 => .st64 (fld w 31 1) (fld w 22 3) (fld w 16 6) (fld w 10 6) (fld w 0 10) l
  | 267 => .ld128 (fld w 31 1) (fld w 22 3) (fld w 16 6) (fld w 10 6) (fld w 0 10) l
  | 268 => .st128 (fld w 31 1) (fld w 22 3) (fld w 16 6) (fld w 10 6) (fld w 0 10) l
  | 269 => .ldN8 (fld w 31 1) (fld w 22 3) (fld w 16 6) (fld w 10 6)
  | 270 => .ldN16 (fld w 31 1) (fld w 22 3) (fld w 16 6) (fld w 10 6)
  | 271 => .ldN16H0 (fld w 31 1) (fld w 22 3) (fld w 16 6) (fld w 10 6)
  | 272 => .ldN16H1 (fld w 31 1) (fld w 22 3) (fld w 16 6) (fld w 10 6)
  | 273 => .stN8 (fld w 31 1) (fld w 22 3) (fld w 16 6) (fld w 10 6)
  | 274 => .stN16 (fld w 31 1) (fld w 22 3) (fld w 16 6) (fld w 10 6)
  | 275 => .stN16H1 (fld w 31 1) (fld w 22 3) (fld w 16 6) (fld w 10 6)
  | 276 => .ldAcq32 (fld w 31 1) (fld w 22 3) (fld w 16 6) (fld w 10 6)
  | 277 => .ldAcq64 (fld w 31 1) (fld w 22 3) (fld w 16 6) (fld w 10 6)
  | 278 => .stRel32 (fld w 31 1) (fld w 22 3) (fld w 16 6) (fld w 10 6)
  | 279 => .stRel64 (fld w 31 1) (fld w 22 3) (fld w 16 6) (fld w 10 6)
  | 280 => .ldAcq128 (fld w 31 1) (fld w 22 3) (fld w 16 6) (fld w 10 6)
  | 281 => .stRel128 (fld w 31 1) (fld w 22 3) (fld w 16 6) (fld w 10 6)
  | 282 => .ldUniformBase (fld w 31 1) (fld w 22 3) (fld w 16 6) (fld w 10 6) (fld w 2 8)
  | 283 => .stUniformBase (fld w 31 1) (fld w 22 3) (fld w 16 6) (fld w 10 6) (fld w 2 8)
  | 284 => .ld64UniformBase (fld w 31 1) (fld w 22 3) (fld w 16 6) (fld w 10 6) (fld w 2 8)
  | 285 => .st64UniformBase (fld w 31 1) (fld w 22 3) (fld w 16 6) (fld w 10 6) (fld w 2 8)
  | 286 => .atomAddI32 (fld w 31 1) (fld w 22 3) (fld w 16 6) (fld w 10 6) (fld w 4 6)
  | 287 => .atomMinI32 (fld w 31 1) (fld w 22 3) (fld w 16 6) (fld w 10 6) (fld w 4 6)
  | 288 => .atomMaxI32 (fld w 31 1) (fld w 22 3) (fld w 16 6) (fld w 10 6) (fld w 4 6)
  | 289 => .atomMinN32 (fld w 31 1) (fld w 22 3) (fld w 16 6) (fld w 10 6) (fld w 4 6)
  | 290 => .atomMaxN32 (fld w 31 1) (fld w 22 3) (fld w 16 6) (fld w 10 6) (fld w 4 6)
  | 291 => .atomAnd (fld w 31 1) (fld w 22 3) (fld w 16 6) (fld w 10 6) (fld w 4 6)
  | 292 => .atomOr (fld w 31 1) (fld w 22 3) (fld w 16 6) (fld w 10 6) (fld w 4 6)
  | 293 => .atomXor (fld w 31 1) (fld w 22 3) (fld w 16 6) (fld w 10 6) (fld w 4 6)
  | 294 => .atomExch (fld w 31 1) (fld w 22 3) (fld w 16 6) (fld w 10 6) (fld w 4 6)
  | 295 => .atomCas (fld w 31 1) (fld w 22 3) (fld w 16 6) (fld w 10 6) (fld w 4 6)
  | 296 => .atomAddI64 (fld w 31 1) (fld w 22 3) (fld w 16 6) (fld w 10 6) (fld w 4 6)
  | 297 => .atomMaxN64 (fld w 31 1) (fld w 22 3) (fld w 16 6) (fld w 10 6) (fld w 4 6)
  | 298 => .atomExch64 (fld w 31 1) (fld w 22 3) (fld w 16 6) (fld w 10 6) (fld w 4 6)
  | 299 => .atomCas64 (fld w 31 1) (fld w 22 3) (fld w 16 6) (fld w 10 6) (fld w 4 6)
  | 300 => .atomOrdered (fld w 31 1) (fld w 22 3) (fld w 16 6) (fld w 10 6) (fld w 4 6) l
  | 301 => .red (fld w 31 1) (fld w 22 3) (fld w 16 6) (fld w 10 6) (fld w 4 6)
  | 302 => .fence (fld w 22 3)
  | 303 => .fenceAcq (fld w 22 3)
  | 304 => .fenceRel (fld w 22 3)
  | 305 => .prefetch (fld w 31 1) (fld w 22 3) (fld w 10 6) (fld w 0 10) l
  | 306 => .prefetchL2 (fld w 31 1) (fld w 22 3) (fld w 10 6) (fld w 0 10) l
  | 307 => .pluckAt (fld w 31 1) (fld w 22 3) (fld w 16 6) (fld w 10 6) (fld w 2 8)
  | 308 => .pluckBelow (fld w 31 1) (fld w 22 3) (fld w 16 6) (fld w 10 6) (fld w 2 8)
  | 309 => .pluckAbove (fld w 31 1) (fld w 22 3) (fld w 16 6) (fld w 10 6) (fld w 2 8)
  | 310 => .pluckFlip (fld w 31 1) (fld w 22 3) (fld w 16 6) (fld w 10 6) (fld w 2 8)
  | 311 => .pollAll (fld w 31 1) (fld w 22 3) (fld w 16 6) (fld w 10 6) (fld w 2 8)
  | 312 => .pollAny (fld w 31 1) (fld w 22 3) (fld w 16 6) (fld w 10 6) (fld w 2 8)
  | 313 => .pollMask (fld w 31 1) (fld w 22 3) (fld w 16 6) (fld w 10 6) (fld w 2 8)
  | 314 => .pollSame (fld w 31 1) (fld w 22 3) (fld w 16 6) (fld w 10 6) (fld w 2 8)
  | 315 => .gredAddI32 (fld w 31 1) (fld w 22 3) (fld w 16 6) (fld w 10 6) (fld w 2 8)
  | 316 => .gredMinI32 (fld w 31 1) (fld w 22 3) (fld w 16 6) (fld w 10 6) (fld w 2 8)
  | 317 => .gredMaxI32 (fld w 31 1) (fld w 22 3) (fld w 16 6) (fld w 10 6) (fld w 2 8)
  | 318 => .gredMaxiN32 (fld w 31 1) (fld w 22 3) (fld w 16 6) (fld w 10 6) (fld w 2 8)
  | 319 => .gredAddF32 (fld w 31 1) (fld w 22 3) (fld w 16 6) (fld w 10 6) (fld w 2 8)
  | 320 => .gredMinF32 (fld w 31 1) (fld w 22 3) (fld w 16 6) (fld w 10 6) (fld w 2 8)
  | 321 => .gredMaxF32 (fld w 31 1) (fld w 22 3) (fld w 16 6) (fld w 10 6) (fld w 2 8)
  | 322 => .gredMaxiF32 (fld w 31 1) (fld w 22 3) (fld w 16 6) (fld w 10 6) (fld w 2 8)
  | 323 => .gscanAddI32 (fld w 31 1) (fld w 22 3) (fld w 16 6) (fld w 10 6) (fld w 2 8)
  | 324 => .gscanAddXI32 (fld w 31 1) (fld w 22 3) (fld w 16 6) (fld w 10 6) (fld w 2 8)
  | 325 => .gscanMaxI32 (fld w 31 1) (fld w 22 3) (fld w 16 6) (fld w 10 6) (fld w 2 8)
  | 326 => .gcompact (fld w 31 1) (fld w 22 3) (fld w 16 6) (fld w 10 6) (fld w 2 8)
  | 327 => .topk (fld w 31 1) (fld w 22 3) (fld w 16 6) (fld w 10 6) (fld w 2 8)
  | 328 => .gsync (fld w 31 1) (fld w 22 3) (fld w 2 8)
  | 329 => .push (fld w 31 1) (fld w 22 3) (fld w 19 3) (fld w 16 3) (fld w 8 8)
  | 330 => .obres (fld w 31 1) (fld w 22 3) (fld w 16 4) (fld w 8 8)
  | 331 => .obrel (fld w 31 1) (fld w 22 3) (fld w 16 4)
  | 332 => .accrd (fld w 31 1) (fld w 22 3) (fld w 16 6) (fld w 10 6)
  | 333 => .accwr (fld w 31 1) (fld w 22 3) (fld w 10 6) (fld w 4 6)
  | 334 => .accrd128 (fld w 31 1) (fld w 22 3) (fld w 16 6) (fld w 10 6)
  | 335 => .accwr128 (fld w 31 1) (fld w 22 3) (fld w 10 6) (fld w 4 6)
  | 336 => .accaddF32 (fld w 31 1) (fld w 22 3) (fld w 10 6) (fld w 4 6)
  | 337 => .accaddI32 (fld w 31 1) (fld w 22 3) (fld w 10 6) (fld w 4 6)
  | 338 => .waitc (fld w 22 3) (fld w 19 3) (fld w 0 8)
  | 339 => .waitcCons (fld w 22 3) (fld w 0 8)
  | 340 => .waitany (fld w 22 3) (fld w 6 8)
  | 341 => .waitall (fld w 22 3) (fld w 6 8)
  | 342 => .ffr (fld w 31 1) (fld w 22 3) (fld w 14 6) (fld w 6 8)
  | 343 => .bra (fld w 22 3) (fld w 21 1) (fld w 0 21)
  | 344 => .call (fld w 0 21)
  | 345 => .ret
  | 346 => .tcall (fld w 14 8) (fld w 6 8) (fld w 5 1) l
  | 347 => .tret
  | 348 => .exit
  | 349 => .brx (fld w 16 6)
  | 350 => .callx (fld w 16 6)
  | 351 => .tutti (fld w 20 2)
  | 352 => .tuttiArv (fld w 20 2) (fld w 17 3)
  | 353 => .tuttiWait (fld w 20 2) (fld w 17 3)
  | 354 => .cbar
  | 355 => .gbar
  | 356 => .elect (fld w 19 3)
  | 357 => .bowwait
  | 358 => .bowpass
  | 359 => .setkeyImm (fld w 0 8)
  | 360 => .setkeyReg (fld w 10 6)
  | 361 => .brk (fld w 0 16)
  | 362 => .trap (fld w 0 16)
  | 363 => .yield (fld w 0 10)
  | 364 => .mfsrV (fld w 31 1) (fld w 16 6) (fld w 0 8)
  | 365 => .mfsrU (fld w 31 1) (fld w 14 8) (fld w 6 8)
  | 366 => .mtsrV (fld w 31 1) (fld w 10 6) (fld w 0 8)
  | 367 => .mtsrU (fld w 31 1) (fld w 14 8) (fld w 6 8)
  | _ => .exit

/-- The literal of an ordered atomic, the only one whose values a description restricts (R243). -/
def rowLiteralOk (row : Nat) (lit : Option Word) : Bool :=
  match row, lit with
  | 300, some l => orderOk l
  | _, _ => true

/-- The row of one slot: the word and the literal that follows it, if any. -/
def rowOf (w : Word) (lit : Option Word) : Except Reject Nat :=
  match rowOfFields w lit with
  | .ok row => if rowValuesOk row w && rowLiteralOk row lit then .ok row else .error .reservedValue
  | .error e => .error e

/-- One slot as a step. -/
noncomputable def decodeWord (w : Word) (lit : Option Word) : Except Reject Instr :=
  match rowOf w lit with
  | .ok row => .ok (build row w (lit.getD 0))
  | .error e => .error e

/-- The instruction of a word numbered as the opcode table numbers it. A word that takes a literal is
given a literal of zeros. -/
noncomputable def decodeTableWord (nbits w : Nat) : Option Instr :=
  if nbits = 32 then
    match decodeWord (BitVec.ofNat 32 w) none with
    | .ok i => some i
    | .error .missingLiteral => (decodeWord (BitVec.ofNat 32 w) (some 0)).toOption
    | .error _ => none
  else none

/-- The little-endian word at the front of a list of bytes, and the bytes after it (R5). -/
def takeWord : List Byte → Option (Word × List Byte)
  | b0 :: b1 :: b2 :: b3 :: rest => some (b3 ++ b2 ++ b1 ++ b0, rest)
  | _ => none

/-- The bytes of a word, lowest address first (R5). -/
def wordBytes (w : Word) : List Byte :=
  [fld w 0 8, fld w 8 8, fld w 16 8, fld w 24 8]

/-- Decoding from bytes: the instruction at the front, with its literal where it takes one, and the
rest of the bytes. -/
noncomputable def decode (bytes : List Byte) : Except Reject (Instr × List Byte) :=
  match takeWord bytes with
  | none => .error .missingLiteral
  | some (w, rest) =>
    match decodeWord w none with
    | .ok i => .ok (i, rest)
    | .error .missingLiteral =>
      match takeWord rest with
      | none => .error .missingLiteral
      | some (l, rest2) =>
        match decodeWord w (some l) with
        | .ok i => .ok (i, rest2)
        | .error e => .error e
    | .error e => .error e

/-- The value of a field at its place in the word. -/
def put {n : Nat} (x : BitVec n) (lo : Nat) : Nat := x.toNat * 2 ^ lo

/-- A word from the sum of its fields. -/
def word (n : Nat) : Word := BitVec.ofNat 32 n

/-- The literal that follows an escaped immediate. -/
def litTail (esc : Bool) (lit : Word) : List Word :=
  match esc with
  | true => [lit]
  | false => []

/-- The words of an instruction: its own, and the literal where it takes one (R162 to R164). A step
without an instruction word has none. -/
def encode : Instr → List Word
  | .iadd c g d a b => [word (0x00000000 + put c 31 + put g 22 + put d 16 + put a 10 + put b 4)]
  | .isub c g d a b => [word (0x00000001 + put c 31 + put g 22 + put d 16 + put a 10 + put b 4)]
  | .imul c g d a b => [word (0x00000002 + put c 31 + put g 22 + put d 16 + put a 10 + put b 4)]
  | .imulhiI32 c g d a b => [word (0x00000003 + put c 31 + put g 22 + put d 16 + put a 10 + put b 4)]
  | .imulhiN32 c g d a b => [word (0x00000004 + put c 31 + put g 22 + put d 16 + put a 10 + put b 4)]
  | .iminI32 c g d a b => [word (0x00000005 + put c 31 + put g 22 + put d 16 + put a 10 + put b 4)]
  | .iminN32 c g d a b => [word (0x00000006 + put c 31 + put g 22 + put d 16 + put a 10 + put b 4)]
  | .imaxI32 c g d a b => [word (0x00000007 + put c 31 + put g 22 + put d 16 + put a 10 + put b 4)]
  | .imaxN32 c g d a b => [word (0x00000008 + put c 31 + put g 22 + put d 16 + put a 10 + put b 4)]
  | .iaddSatI32 c g d a b => [word (0x00000009 + put c 31 + put g 22 + put d 16 + put a 10 + put b 4)]
  | .iaddSatN32 c g d a b => [word (0x0000000A + put c 31 + put g 22 + put d 16 + put a 10 + put b 4)]
  | .isubSatI32 c g d a b => [word (0x0000000B + put c 31 + put g 22 + put d 16 + put a 10 + put b 4)]
  | .isubSatN32 c g d a b => [word (0x0000000C + put c 31 + put g 22 + put d 16 + put a 10 + put b 4)]
  | .iaddI64 c g d a b => [word (0x0000000D + put c 31 + put g 22 + put d 16 + put a 10 + put b 4)]
  | .isubI64 c g d a b => [word (0x0000000E + put c 31 + put g 22 + put d 16 + put a 10 + put b 4)]
  | .imad c g d a b => [word (0x0000000F + put c 31 + put g 22 + put d 16 + put a 10 + put b 4)]
  | .and c g d a b => [word (0x02000000 + put c 31 + put g 22 + put d 16 + put a 10 + put b 4)]
  | .or c g d a b => [word (0x02000001 + put c 31 + put g 22 + put d 16 + put a 10 + put b 4)]
  | .xor c g d a b => [word (0x02000002 + put c 31 + put g 22 + put d 16 + put a 10 + put b 4)]
  | .andn c g d a b => [word (0x02000003 + put c 31 + put g 22 + put d 16 + put a 10 + put b 4)]
  | .not c g d a => [word (0x02000004 + put c 31 + put g 22 + put d 16 + put a 10)]
  | .shl c g d a b => [word (0x02000005 + put c 31 + put g 22 + put d 16 + put a 10 + put b 4)]
  | .shr c g d a b => [word (0x02000006 + put c 31 + put g 22 + put d 16 + put a 10 + put b 4)]
  | .sar c g d a b => [word (0x02000007 + put c 31 + put g 22 + put d 16 + put a 10 + put b 4)]
  | .rotl c g d a b => [word (0x02000008 + put c 31 + put g 22 + put d 16 + put a 10 + put b 4)]
  | .rotr c g d a b => [word (0x02000009 + put c 31 + put g 22 + put d 16 + put a 10 + put b 4)]
  | .bitgetN32 c g d a b => [word (0x04000000 + put c 31 + put g 22 + put d 16 + put a 10 + put b 4)]
  | .bitgetI32 c g d a b => [word (0x04000001 + put c 31 + put g 22 + put d 16 + put a 10 + put b 4)]
  | .bitins c g d a b => [word (0x04000002 + put c 31 + put g 22 + put d 16 + put a 10 + put b 4)]
  | .popc c g d a => [word (0x04000003 + put c 31 + put g 22 + put d 16 + put a 10)]
  | .clz c g d a => [word (0x04000004 + put c 31 + put g 22 + put d 16 + put a 10)]
  | .ctz c g d a => [word (0x04000005 + put c 31 + put g 22 + put d 16 + put a 10)]
  | .brev c g d a => [word (0x04000006 + put c 31 + put g 22 + put d 16 + put a 10)]
  | .sel c g d a b q => [word (0x04000008 + put c 31 + put g 22 + put d 16 + put a 10 + put b 4 + put q 0)]
  | .iaddUniform c g d a s => [word (0x06000000 + put c 31 + put g 22 + put d 16 + put a 10 + put s 2)]
  | .isubUniform c g d a s => [word (0x06000001 + put c 31 + put g 22 + put d 16 + put a 10 + put s 2)]
  | .imulUniform c g d a s => [word (0x06000002 + put c 31 + put g 22 + put d 16 + put a 10 + put s 2)]
  | .andUniform c g d a s => [word (0x06000003 + put c 31 + put g 22 + put d 16 + put a 10 + put s 2)]
  | .iaddImm c g d a i lit => word (0x08000000 + put c 31 + put g 22 + put d 16 + put a 10 + put i 0) :: litTail ((i).toNat == 512) lit
  | .andImm c g d a i lit => word (0x0A000000 + put c 31 + put g 22 + put d 16 + put a 10 + put i 0) :: litTail ((i).toNat == 512) lit
  | .orImm c g d a i lit => word (0x0C000000 + put c 31 + put g 22 + put d 16 + put a 10 + put i 0) :: litTail ((i).toNat == 512) lit
  | .xorImm c g d a i lit => word (0x0E000000 + put c 31 + put g 22 + put d 16 + put a 10 + put i 0) :: litTail ((i).toNat == 512) lit
  | .shlImm c g d a i lit => word (0x10000000 + put c 31 + put g 22 + put d 16 + put a 10 + put i 0) :: litTail ((i).toNat == 512) lit
  | .icmp c g p a b k f => [word (0x12000000 + put c 31 + put g 22 + put p 19 + put a 13 + put b 7 + put k 3 + put f 0)]
  | .mov c g d a => [word (0x14000000 + put c 31 + put g 22 + put d 16 + put a 10)]
  | .mov64 c g d a => [word (0x14000001 + put c 31 + put g 22 + put d 16 + put a 10)]
  | .pand c g d a b => [word (0x14000002 + put c 31 + put g 22 + put d 16 + put a 10 + put b 4)]
  | .por c g d a b => [word (0x14000003 + put c 31 + put g 22 + put d 16 + put a 10 + put b 4)]
  | .pxor c g d a b => [word (0x14000004 + put c 31 + put g 22 + put d 16 + put a 10 + put b 4)]
  | .pandn c g d a b => [word (0x14000005 + put c 31 + put g 22 + put d 16 + put a 10 + put b 4)]
  | .pmov c g d a => [word (0x14000006 + put c 31 + put g 22 + put d 16 + put a 10)]
  | .ptst c g d a => [word (0x14000007 + put c 31 + put g 22 + put d 16 + put a 10)]
  | .rand c g d a b => [word (0x14000008 + put c 31 + put g 22 + put d 16 + put a 10 + put b 4)]
  | .movH0 c g d a => [word (0x14000009 + put c 31 + put g 22 + put d 16 + put a 10)]
  | .movH1 c g d a => [word (0x1400000A + put c 31 + put g 22 + put d 16 + put a 10)]
  | .movImm c g d i lit => word (0x16000000 + put c 31 + put g 22 + put d 16 + put i 0) :: litTail ((i).toNat == 512) lit
  | .uadd c d a b => [word (0x18000000 + put c 31 + put d 14 + put a 6 + put b 0)]
  | .usub c d a b => [word (0x18400000 + put c 31 + put d 14 + put a 6 + put b 0)]
  | .umul c d a b => [word (0x18800000 + put c 31 + put d 14 + put a 6 + put b 0)]
  | .uand c d a b => [word (0x18C00000 + put c 31 + put d 14 + put a 6 + put b 0)]
  | .uor c d a b => [word (0x19000000 + put c 31 + put d 14 + put a 6 + put b 0)]
  | .uxor c d a b => [word (0x19400000 + put c 31 + put d 14 + put a 6 + put b 0)]
  | .ushl c d a b => [word (0x19800000 + put c 31 + put d 14 + put a 6 + put b 0)]
  | .ushr c d a b => [word (0x19C00000 + put c 31 + put d 14 + put a 6 + put b 0)]
  | .uaddImm c d a i lit => word (0x1A000000 + put c 31 + put d 14 + put a 6 + put i 0) :: litTail ((i).toNat == 32) lit
  | .usubImm c d a i lit => word (0x1A400000 + put c 31 + put d 14 + put a 6 + put i 0) :: litTail ((i).toNat == 32) lit
  | .umulImm c d a i lit => word (0x1A800000 + put c 31 + put d 14 + put a 6 + put i 0) :: litTail ((i).toNat == 32) lit
  | .uandImm c d a i lit => word (0x1AC00000 + put c 31 + put d 14 + put a 6 + put i 0) :: litTail ((i).toNat == 32) lit
  | .uorImm c d a i lit => word (0x1B000000 + put c 31 + put d 14 + put a 6 + put i 0) :: litTail ((i).toNat == 32) lit
  | .uxorImm c d a i lit => word (0x1B400000 + put c 31 + put d 14 + put a 6 + put i 0) :: litTail ((i).toNat == 32) lit
  | .ushlImm c d a i lit => word (0x1B800000 + put c 31 + put d 14 + put a 6 + put i 0) :: litTail ((i).toNat == 32) lit
  | .ushrImm c d a i lit => word (0x1BC00000 + put c 31 + put d 14 + put a 6 + put i 0) :: litTail ((i).toNat == 32) lit
  | .movVFromS c d s => [word (0x1C000000 + put c 31 + put d 16 + put s 8)]
  | .movSFromV c d a => [word (0x1C400000 + put c 31 + put d 14 + put a 8)]
  | .mov64VFromS c d s => [word (0x1C800000 + put c 31 + put d 16 + put s 8)]
  | .mov64SFromV c d a => [word (0x1CC00000 + put c 31 + put d 14 + put a 8)]
  | .movUniformImm c d i lit => word (0x1E000000 + put c 31 + put d 14 + put i 0) :: litTail ((i).toNat == 32) lit
  | .ucmp c u p a i lit => word (0x1E000000 + put c 31 + put u 22 + put p 14 + put a 6 + put i 0) :: litTail ((i).toNat == 32) lit
  | .faddF32 c g d a b => [word (0x20000000 + put c 31 + put g 22 + put d 16 + put a 10 + put b 4)]
  | .fsubF32 c g d a b => [word (0x20000001 + put c 31 + put g 22 + put d 16 + put a 10 + put b 4)]
  | .fmulF32 c g d a b => [word (0x20000002 + put c 31 + put g 22 + put d 16 + put a 10 + put b 4)]
  | .ffmaF32 c g d a b => [word (0x20000003 + put c 31 + put g 22 + put d 16 + put a 10 + put b 4)]
  | .ffmsF32 c g d a b => [word (0x20000004 + put c 31 + put g 22 + put d 16 + put a 10 + put b 4)]
  | .fnmaF32 c g d a b => [word (0x20000005 + put c 31 + put g 22 + put d 16 + put a 10 + put b 4)]
  | .fminF32 c g d a b => [word (0x22000000 + put c 31 + put g 22 + put d 16 + put a 10 + put b 4)]
  | .fmaxF32 c g d a b => [word (0x22000001 + put c 31 + put g 22 + put d 16 + put a 10 + put b 4)]
  | .fabsF32 c g d a => [word (0x22000002 + put c 31 + put g 22 + put d 16 + put a 10)]
  | .fnegF32 c g d a => [word (0x22000003 + put c 31 + put g 22 + put d 16 + put a 10)]
  | .fcopysignF32 c g d a b => [word (0x22000004 + put c 31 + put g 22 + put d 16 + put a 10 + put b 4)]
  | .fminNumF32 c g d a b => [word (0x22000005 + put c 31 + put g 22 + put d 16 + put a 10 + put b 4)]
  | .fmaxNumF32 c g d a b => [word (0x22000006 + put c 31 + put g 22 + put d 16 + put a 10 + put b 4)]
  | .faddF16 c y g d a b => [word (0x24000000 + put c 31 + put y 25 + put g 22 + put d 16 + put a 10 + put b 4)]
  | .fsubF16 c y g d a b => [word (0x24000001 + put c 31 + put y 25 + put g 22 + put d 16 + put a 10 + put b 4)]
  | .fmulF16 c y g d a b => [word (0x24000002 + put c 31 + put y 25 + put g 22 + put d 16 + put a 10 + put b 4)]
  | .fabsF16 c y g d a => [word (0x24000003 + put c 31 + put y 25 + put g 22 + put d 16 + put a 10)]
  | .fnegF16 c y g d a => [word (0x24000004 + put c 31 + put y 25 + put g 22 + put d 16 + put a 10)]
  | .fdot2F16 c y g d a b => [word (0x24000005 + put c 31 + put y 25 + put g 22 + put d 16 + put a 10 + put b 4)]
  | .faddF32Uniform c g d a s => [word (0x28000000 + put c 31 + put g 22 + put d 16 + put a 10 + put s 2)]
  | .fmulF32Uniform c g d a s => [word (0x28000001 + put c 31 + put g 22 + put d 16 + put a 10 + put s 2)]
  | .ffmaF32Uniform c g d a s => [word (0x28000002 + put c 31 + put g 22 + put d 16 + put a 10 + put s 2)]
  | .fsubF32Uniform c g d a s => [word (0x28000003 + put c 31 + put g 22 + put d 16 + put a 10 + put s 2)]
  | .fmulF32Imm c g d a i lit => word (0x2A000000 + put c 31 + put g 22 + put d 16 + put a 10 + put i 0) :: litTail ((i).toNat == 512) lit
  | .fcmp c g p a b k f => [word (0x2C000000 + put c 31 + put g 22 + put p 19 + put a 13 + put b 7 + put k 3 + put f 0)]
  | .fclass c g p a b f => [word (0x2C000040 + put c 31 + put g 22 + put p 19 + put a 13 + put b 7 + put f 0)]
  | .frndF32 c g d a r => [word (0x2E000000 + put c 31 + put g 22 + put d 16 + put a 10 + put r 7)]
  | .cvtToF32 c g d a r e f => [word (0x2E000000 + put c 31 + put g 22 + put d 16 + put a 10 + put r 7 + put e 4 + put f 0)]
  | .cvtFromF32 c g d a r z e f => [word (0x30000000 + put c 31 + put g 22 + put d 16 + put a 10 + put r 7 + put z 6 + put e 4 + put f 0)]
  | .cvtPk c g d a b h f => [word (0x32000000 + put c 31 + put g 22 + put d 16 + put a 10 + put b 4 + put h 3 + put f 0)]
  | .frcpF32 c g d a => [word (0x34000000 + put c 31 + put g 22 + put d 16 + put a 10)]
  | .frsqF32 c g d a => [word (0x34000001 + put c 31 + put g 22 + put d 16 + put a 10)]
  | .fsqrtF32 c g d a => [word (0x34000002 + put c 31 + put g 22 + put d 16 + put a 10)]
  | .fexp2F32 c g d a => [word (0x34000003 + put c 31 + put g 22 + put d 16 + put a 10)]
  | .flog2F32 c g d a => [word (0x34000004 + put c 31 + put g 22 + put d 16 + put a 10)]
  | .ftanhF32 c g d a => [word (0x34000005 + put c 31 + put g 22 + put d 16 + put a 10)]
  | .fsinF32 c g d a => [word (0x34000006 + put c 31 + put g 22 + put d 16 + put a 10)]
  | .fcosF32 c g d a => [word (0x34000007 + put c 31 + put g 22 + put d 16 + put a 10)]
  | .fminF16 c g d a b y => [word (0x36000000 + put c 31 + put g 22 + put d 16 + put a 10 + put b 4 + put y 3)]
  | .fmaxF16 c g d a b y => [word (0x36000001 + put c 31 + put g 22 + put d 16 + put a 10 + put b 4 + put y 3)]
  | .ffmaF16 c g d a b y => [word (0x36000002 + put c 31 + put g 22 + put d 16 + put a 10 + put b 4 + put y 3)]
  | .xadd c g d a b => [word (0x38000000 + put c 31 + put g 22 + put d 16 + put a 10 + put b 4)]
  | .xsub c g d a b => [word (0x38000001 + put c 31 + put g 22 + put d 16 + put a 10 + put b 4)]
  | .xmul c g d a b => [word (0x38000002 + put c 31 + put g 22 + put d 16 + put a 10 + put b 4)]
  | .xdiv c g d a b => [word (0x38000003 + put c 31 + put g 22 + put d 16 + put a 10 + put b 4)]
  | .xfma c g d a b => [word (0x38000004 + put c 31 + put g 22 + put d 16 + put a 10 + put b 4)]
  | .xsqrt c g d a => [word (0x38000005 + put c 31 + put g 22 + put d 16 + put a 10)]
  | .xneg c g d a => [word (0x38000006 + put c 31 + put g 22 + put d 16 + put a 10)]
  | .xabs c g d a => [word (0x38000007 + put c 31 + put g 22 + put d 16 + put a 10)]
  | .xmin c g d a b => [word (0x38000008 + put c 31 + put g 22 + put d 16 + put a 10 + put b 4)]
  | .xmax c g d a b => [word (0x38000009 + put c 31 + put g 22 + put d 16 + put a 10 + put b 4)]
  | .xcvtXfF32 c g d a => [word (0x3A000000 + put c 31 + put g 22 + put d 16 + put a 10)]
  | .xcvtXfI32 c g d a => [word (0x3A000001 + put c 31 + put g 22 + put d 16 + put a 10)]
  | .xcvtXfN32 c g d a => [word (0x3A000002 + put c 31 + put g 22 + put d 16 + put a 10)]
  | .xcvtXfI64 c g d a => [word (0x3A000003 + put c 31 + put g 22 + put d 16 + put a 10)]
  | .xcvtXfN64 c g d a => [word (0x3A000004 + put c 31 + put g 22 + put d 16 + put a 10)]
  | .xcvtF32Xf c g d a r z => [word (0x3A000005 + put c 31 + put g 22 + put d 16 + put a 10 + put r 7 + put z 6)]
  | .xcvtI32Xf c g d a r => [word (0x3A000006 + put c 31 + put g 22 + put d 16 + put a 10 + put r 7)]
  | .xcvtN32Xf c g d a r => [word (0x3A000007 + put c 31 + put g 22 + put d 16 + put a 10 + put r 7)]
  | .xcvtI64Xf c g d a r => [word (0x3A000008 + put c 31 + put g 22 + put d 16 + put a 10 + put r 7)]
  | .xcvtN64Xf c g d a r => [word (0x3A000009 + put c 31 + put g 22 + put d 16 + put a 10 + put r 7)]
  | .xrnd c g d a => [word (0x3A00000A + put c 31 + put g 22 + put d 16 + put a 10)]
  | .xrint c g d a => [word (0x3A00000B + put c 31 + put g 22 + put d 16 + put a 10)]
  | .xcmp c g p a b k => [word (0x3C000000 + put c 31 + put g 22 + put p 19 + put a 13 + put b 7 + put k 3)]
  | .setp c g n => [word (0x3E000000 + put c 31 + put g 22 + put n 0)]
  | .setrm c g m => [word (0x3E080000 + put c 31 + put g 22 + put m 0)]
  | .setx c g x => [word (0x3E100000 + put c 31 + put g 22 + put x 0)]
  | .addp c g k => [word (0x3E180000 + put c 31 + put g 22 + put k 0)]
  | .setpReg c g a => [word (0x3E200000 + put c 31 + put g 22 + put a 10)]
  | .clrxuf c g => [word (0x3E280000 + put c 31 + put g 22)]
  | .xld c g d a o lit => word (0x40000000 + put c 31 + put g 22 + put d 16 + put a 10 + put o 0) :: litTail ((o).toNat == 512) lit
  | .xldR c g d a => [word (0x42000000 + put c 31 + put g 22 + put d 16 + put a 10)]
  | .xst c g d a => [word (0x42000001 + put c 31 + put g 22 + put d 16 + put a 10)]
  | .xstMin c g d a => [word (0x42000002 + put c 31 + put g 22 + put d 16 + put a 10)]
  | .xlds c g d a => [word (0x42000003 + put c 31 + put g 22 + put d 16 + put a 10)]
  | .xldsR c g d a => [word (0x42000004 + put c 31 + put g 22 + put d 16 + put a 10)]
  | .xsts c g d a => [word (0x42000005 + put c 31 + put g 22 + put d 16 + put a 10)]
  | .xstsMin c g d a => [word (0x42000006 + put c 31 + put g 22 + put d 16 + put a 10)]
  | .ld32 c g d a o lit => word (0x44000000 + put c 31 + put g 22 + put d 16 + put a 10 + put o 0) :: litTail ((o).toNat == 512) lit
  | .st32 c g d a o lit => word (0x46000000 + put c 31 + put g 22 + put d 16 + put a 10 + put o 0) :: litTail ((o).toNat == 512) lit
  | .ld64 c g d a o lit => word (0x48000000 + put c 31 + put g 22 + put d 16 + put a 10 + put o 0) :: litTail ((o).toNat == 512) lit
  | .st64 c g d a o lit => word (0x4A000000 + put c 31 + put g 22 + put d 16 + put a 10 + put o 0) :: litTail ((o).toNat == 512) lit
  | .ld128 c g d a o lit => word (0x4C000000 + put c 31 + put g 22 + put d 16 + put a 10 + put o 0) :: litTail ((o).toNat == 512) lit
  | .st128 c g d a o lit => word (0x4E000000 + put c 31 + put g 22 + put d 16 + put a 10 + put o 0) :: litTail ((o).toNat == 512) lit
  | .ldN8 c g d a => [word (0x50000000 + put c 31 + put g 22 + put d 16 + put a 10)]
  | .ldN16 c g d a => [word (0x50000001 + put c 31 + put g 22 + put d 16 + put a 10)]
  | .ldN16H0 c g d a => [word (0x50000002 + put c 31 + put g 22 + put d 16 + put a 10)]
  | .ldN16H1 c g d a => [word (0x50000003 + put c 31 + put g 22 + put d 16 + put a 10)]
  | .stN8 c g d a => [word (0x50000004 + put c 31 + put g 22 + put d 16 + put a 10)]
  | .stN16 c g d a => [word (0x50000005 + put c 31 + put g 22 + put d 16 + put a 10)]
  | .stN16H1 c g d a => [word (0x50000006 + put c 31 + put g 22 + put d 16 + put a 10)]
  | .ldAcq32 c g d a => [word (0x50000007 + put c 31 + put g 22 + put d 16 + put a 10)]
  | .ldAcq64 c g d a => [word (0x50000008 + put c 31 + put g 22 + put d 16 + put a 10)]
  | .stRel32 c g d a => [word (0x50000009 + put c 31 + put g 22 + put d 16 + put a 10)]
  | .stRel64 c g d a => [word (0x5000000A + put c 31 + put g 22 + put d 16 + put a 10)]
  | .ldAcq128 c g d a => [word (0x5000000B + put c 31 + put g 22 + put d 16 + put a 10)]
  | .stRel128 c g d a => [word (0x5000000C + put c 31 + put g 22 + put d 16 + put a 10)]
  | .ldUniformBase c g d a s => [word (0x52000000 + put c 31 + put g 22 + put d 16 + put a 10 + put s 2)]
  | .stUniformBase c g d a s => [word (0x52000001 + put c 31 + put g 22 + put d 16 + put a 10 + put s 2)]
  | .ld64UniformBase c g d a s => [word (0x52000002 + put c 31 + put g 22 + put d 16 + put a 10 + put s 2)]
  | .st64UniformBase c g d a s => [word (0x52000003 + put c 31 + put g 22 + put d 16 + put a 10 + put s 2)]
  | .atomAddI32 c g d a b => [word (0x54000000 + put c 31 + put g 22 + put d 16 + put a 10 + put b 4)]
  | .atomMinI32 c g d a b => [word (0x54000001 + put c 31 + put g 22 + put d 16 + put a 10 + put b 4)]
  | .atomMaxI32 c g d a b => [word (0x54000002 + put c 31 + put g 22 + put d 16 + put a 10 + put b 4)]
  | .atomMinN32 c g d a b => [word (0x54000003 + put c 31 + put g 22 + put d 16 + put a 10 + put b 4)]
  | .atomMaxN32 c g d a b => [word (0x54000004 + put c 31 + put g 22 + put d 16 + put a 10 + put b 4)]
  | .atomAnd c g d a b => [word (0x54000005 + put c 31 + put g 22 + put d 16 + put a 10 + put b 4)]
  | .atomOr c g d a b => [word (0x54000006 + put c 31 + put g 22 + put d 16 + put a 10 + put b 4)]
  | .atomXor c g d a b => [word (0x54000007 + put c 31 + put g 22 + put d 16 + put a 10 + put b 4)]
  | .atomExch c g d a b => [word (0x54000008 + put c 31 + put g 22 + put d 16 + put a 10 + put b 4)]
  | .atomCas c g d a b => [word (0x54000009 + put c 31 + put g 22 + put d 16 + put a 10 + put b 4)]
  | .atomAddI64 c g d a b => [word (0x5400000A + put c 31 + put g 22 + put d 16 + put a 10 + put b 4)]
  | .atomMaxN64 c g d a b => [word (0x5400000B + put c 31 + put g 22 + put d 16 + put a 10 + put b 4)]
  | .atomExch64 c g d a b => [word (0x5400000C + put c 31 + put g 22 + put d 16 + put a 10 + put b 4)]
  | .atomCas64 c g d a b => [word (0x5400000D + put c 31 + put g 22 + put d 16 + put a 10 + put b 4)]
  | .atomOrdered c g d a b lit => [word (0x5400000E + put c 31 + put g 22 + put d 16 + put a 10 + put b 4), lit]
  | .red c g r a b => [word (0x5400000F + put c 31 + put g 22 + put r 16 + put a 10 + put b 4)]
  | .fence g => [word (0x56000000 + put g 22)]
  | .fenceAcq g => [word (0x56080000 + put g 22)]
  | .fenceRel g => [word (0x56100000 + put g 22)]
  | .prefetch c g a o lit => word (0x56180000 + put c 31 + put g 22 + put a 10 + put o 0) :: litTail ((o).toNat == 512) lit
  | .prefetchL2 c g a o lit => word (0x56200000 + put c 31 + put g 22 + put a 10 + put o 0) :: litTail ((o).toNat == 512) lit
  | .pluckAt c g d a s => [word (0x58000000 + put c 31 + put g 22 + put d 16 + put a 10 + put s 2)]
  | .pluckBelow c g d a s => [word (0x58000001 + put c 31 + put g 22 + put d 16 + put a 10 + put s 2)]
  | .pluckAbove c g d a s => [word (0x58000002 + put c 31 + put g 22 + put d 16 + put a 10 + put s 2)]
  | .pluckFlip c g d a s => [word (0x58000003 + put c 31 + put g 22 + put d 16 + put a 10 + put s 2)]
  | .pollAll c g d a s => [word (0x5A000000 + put c 31 + put g 22 + put d 16 + put a 10 + put s 2)]
  | .pollAny c g d a s => [word (0x5A000001 + put c 31 + put g 22 + put d 16 + put a 10 + put s 2)]
  | .pollMask c g d a s => [word (0x5A000002 + put c 31 + put g 22 + put d 16 + put a 10 + put s 2)]
  | .pollSame c g d a s => [word (0x5A000003 + put c 31 + put g 22 + put d 16 + put a 10 + put s 2)]
  | .gredAddI32 c g d a s => [word (0x5C000000 + put c 31 + put g 22 + put d 16 + put a 10 + put s 2)]
  | .gredMinI32 c g d a s => [word (0x5C000001 + put c 31 + put g 22 + put d 16 + put a 10 + put s 2)]
  | .gredMaxI32 c g d a s => [word (0x5C000002 + put c 31 + put g 22 + put d 16 + put a 10 + put s 2)]
  | .gredMaxiN32 c g d a s => [word (0x5C000003 + put c 31 + put g 22 + put d 16 + put a 10 + put s 2)]
  | .gredAddF32 c g d a s => [word (0x5E000000 + put c 31 + put g 22 + put d 16 + put a 10 + put s 2)]
  | .gredMinF32 c g d a s => [word (0x5E000001 + put c 31 + put g 22 + put d 16 + put a 10 + put s 2)]
  | .gredMaxF32 c g d a s => [word (0x5E000002 + put c 31 + put g 22 + put d 16 + put a 10 + put s 2)]
  | .gredMaxiF32 c g d a s => [word (0x5E000003 + put c 31 + put g 22 + put d 16 + put a 10 + put s 2)]
  | .gscanAddI32 c g d a s => [word (0x60000000 + put c 31 + put g 22 + put d 16 + put a 10 + put s 2)]
  | .gscanAddXI32 c g d a s => [word (0x60000001 + put c 31 + put g 22 + put d 16 + put a 10 + put s 2)]
  | .gscanMaxI32 c g d a s => [word (0x60000002 + put c 31 + put g 22 + put d 16 + put a 10 + put s 2)]
  | .gcompact c g d a s => [word (0x60000003 + put c 31 + put g 22 + put d 16 + put a 10 + put s 2)]
  | .topk c g d a s => [word (0x62000000 + put c 31 + put g 22 + put d 16 + put a 10 + put s 2)]
  | .gsync c g s => [word (0x62000001 + put c 31 + put g 22 + put s 2)]
  | .push c g p l s => [word (0x64000000 + put c 31 + put g 22 + put p 19 + put l 16 + put s 8)]
  | .obres c g k s => [word (0x66000000 + put c 31 + put g 22 + put k 16 + put s 8)]
  | .obrel c g k => [word (0x66100000 + put c 31 + put g 22 + put k 16)]
  | .accrd c g d a => [word (0x68000000 + put c 31 + put g 22 + put d 16 + put a 10)]
  | .accwr c g a b => [word (0x68000001 + put c 31 + put g 22 + put a 10 + put b 4)]
  | .accrd128 c g d a => [word (0x68000002 + put c 31 + put g 22 + put d 16 + put a 10)]
  | .accwr128 c g a b => [word (0x68000003 + put c 31 + put g 22 + put a 10 + put b 4)]
  | .accaddF32 c g a b => [word (0x68000004 + put c 31 + put g 22 + put a 10 + put b 4)]
  | .accaddI32 c g a b => [word (0x68000005 + put c 31 + put g 22 + put a 10 + put b 4)]
  | .waitc g l n => [word (0x6A000000 + put g 22 + put l 19 + put n 0)]
  | .waitcCons g n => [word (0x6A0C0000 + put g 22 + put n 0)]
  | .waitany g s => [word (0x6C000000 + put g 22 + put s 6)]
  | .waitall g s => [word (0x6C100000 + put g 22 + put s 6)]
  | .ffr c g d s => [word (0x6C200000 + put c 31 + put g 22 + put d 14 + put s 6)]
  | .bra p h t => [word (0x70000000 + put p 22 + put h 21 + put t 0)]
  | .call t => [word (0x72000000 + put t 0)]
  | .ret => [word (0x74000000)]
  | .tcall w e g lit => [word (0x74400000 + put w 14 + put e 6 + put g 5), lit]
  | .tret => [word (0x74800000)]
  | .exit => [word (0x74C00000)]
  | .brx a => [word (0x75000000 + put a 16)]
  | .callx a => [word (0x75400000 + put a 16)]
  | .tutti b => [word (0x76000000 + put b 20)]
  | .tuttiArv b p => [word (0x76400000 + put b 20 + put p 17)]
  | .tuttiWait b p => [word (0x76800000 + put b 20 + put p 17)]
  | .cbar => [word (0x76C00000)]
  | .gbar => [word (0x77000000)]
  | .elect p => [word (0x78000000 + put p 19)]
  | .bowwait => [word (0x78400000)]
  | .bowpass => [word (0x78800000)]
  | .setkeyImm k => [word (0x78C00000 + put k 0)]
  | .setkeyReg a => [word (0x79000000 + put a 10)]
  | .brk k => [word (0x7A000000 + put k 0)]
  | .trap k => [word (0x7A400000 + put k 0)]
  | .yield n => [word (0x7A800000 + put n 0)]
  | .mfsrV c d n => [word (0x7C000000 + put c 31 + put d 16 + put n 0)]
  | .mfsrU c d n => [word (0x7C400000 + put c 31 + put d 14 + put n 6)]
  | .mtsrV c a n => [word (0x7C800000 + put c 31 + put a 10 + put n 0)]
  | .mtsrU c n s => [word (0x7CC00000 + put c 31 + put n 14 + put s 6)]
  | .powerOn _ => []
  | .coldReset _ => []
  | .warmReset _ => []
  | .memoryClearDone _ => []
  | .managementDoorbell _ => []
  | .registerWrite _ _ => []
  | .feature _ _ => []
  | .create _ _ => []
  | .release _ _ => []
  | .switch _ _ => []
  | .preempt _ _ _ _ => []
  | .invalidate _ _ _ _ _ => []
  | .fwload _ _ _ _ => []
  | .attest _ _ => []
  | .logread _ _ => []
  | .logsign _ => []
  | .repair _ _ _ => []
  | .errctl _ _ _ _ _ _ _ => []
  | .resolve _ _ _ _ _ => []
  | .debugMode _ _ _ _ => []
  | .setbp _ _ _ _ _ _ => []
  | .clrbp _ _ _ _ _ => []
  | .debugStop _ _ _ _ => []
  | .debugResume _ _ _ _ => []
  | .debugStep _ _ _ _ => []
  | .dump _ _ _ _ => []
  | .debugLoad _ _ _ _ => []
  | .launchDoorbell _ _ _ => []
  | .launchStart _ _ => []
  | .dependenceRecheck _ _ => []
  | .teamPlacement _ _ => []
  | .launchCompletion _ => []
  | .packetIssue _ _ _ => []
  | .threadAging _ _ => []
  | .yieldExpiry _ _ => []
  | .loadCompletion _ => []
  | .trackedOpCompletion _ => []
  | .writeCompletionReturn _ => []
  | .storeAtHome _ => []
  | .atomicAtHome _ => []
  | .redAtDieL2 _ => []
  | .l1Fill _ _ => []
  | .leaseExpiry _ _ _ => []
  | .hostCxlWrite _ _ => []
  | .pageWalk _ _ _ _ => []
  | .hbmSpare _ _ _ => []
  | .localityWindowEnd _ _ => []
  | .permitIncrease _ _ => []
  | .permitRotation _ _ => []
  | .forkReservation _ _ => []
  | .join _ _ => []
  | .barrierRelease _ _ _ _ => []
  | .bowArrival _ => []
  | .rendezvousWatchdog _ _ => []
  | .trapEntry _ _ => []
  | .teamSave _ => []
  | .openWindowLimit _ _ => []
  | .teamRestore _ => []
  | .commandGo _ => []
  | .commandAcceptance _ => []
  | .commandCompletion _ => []
  | .notifyRelease _ => []
  | .mmaOperandsConsumed _ => []
  | .copy _ _ => []
  | .copynd _ _ => []
  | .copyred _ _ => []
  | .fill _ _ => []
  | .osbload _ _ => []
  | .accmove _ _ => []
  | .mma _ => []
  | .mmas _ => []
  | .launch _ => []
  | .launchQfullTimeout _ => []
  | .attn _ => []
  | .attnVisit _ => []
  | .attnParkResume _ => []
  | .attnUnstable _ => []
  | .kapp _ => []
  | .kreq _ => []
  | .krot _ => []
  | .ksum _ => []
  | .ktrunc _ => []
  | .blockClaimRetry _ => []
  | .maintenanceBusy _ => []
  | .cprog _ => []
  | .send _ => []
  | .recv _ => []
  | .rrs _ => []
  | .cprogCopy _ => []
  | .cprogWait _ => []
  | .notify _ => []
  | .loop _ => []
  | .endloop _ => []
  | .peer _ => []
  | .putr _ => []
  | .endStep _ => []
  | .putrReserve _ _ => []
  | .slotHeaderReread _ => []
  | .cprogTimeout _ => []
  | .fabricWriteArrival _ => []
  | .fabricAck _ _ _ => []
  | .lane _ _ => []
  | .linkdown _ => []
  | .timeBaseCompare _ _ _ => []
  | .monitorReading _ _ _ _ _ => []
  | .droopRestore _ _ => []
  | .auditChainCheck _ _ => []
  | .stallingWaitEnd _ => []
  | .damagedFlit _ => []

/-- The bytes of an instruction, lowest address first. -/
def encodeBytes (i : Instr) : List Byte := (encode i).flatMap wordBytes

end Sys2Proof
end

