-- ==== Sys2Proof/Machine/Num.lean ====
section
/-!
DEFINITION. Machine/Num.lean: exact values, the roundings of R9, and the number formats of R70 to R76 and R83
to R85. A value is exact until one of the `enc` functions rounds it once.
-/

namespace Sys2Proof.Machine

open Sys2Proof

/-- The roundings of R9 and R64, in the codes of PREC.RM. -/
inductive Mode where
  | rne
  | rtz
  | rup
  | rdn
  | rto
  deriving DecidableEq, Repr

/-- The mode of a code (R64, R223). -/
def modeOf (n : Nat) : Mode :=
  match n with
  | 0 => .rne
  | 1 => .rtz
  | 2 => .rup
  | 3 => .rdn
  | _ => .rto

/-- An exact value: NaN, an infinity, or `(-1)^neg * m * 2^e`, where `m = 0` is a signed zero. -/
inductive Val where
  | nan
  | inf (neg : Bool)
  | fin (neg : Bool) (m : Nat) (e : Int)
  deriving DecidableEq, Repr

/-- `x` rounded to a multiple of `2^drop`, as that multiple: the rule of each mode (R9). -/
def roundShift (mode : Mode) (neg : Bool) (x drop : Nat) : Nat :=
  let q := x / 2 ^ drop
  let r := x % 2 ^ drop
  if r = 0 then q else
  match mode with
  | .rne => if 2 * r > 2 ^ drop ∨ (2 * r = 2 ^ drop ∧ q % 2 = 1) then q + 1 else q
  | .rtz => q
  | .rup => if neg then q else q + 1
  | .rdn => if neg then q + 1 else q
  | .rto => if q % 2 = 1 then q else q + 1

/-- `m * 2^e` as a multiple of `2^q`, rounded. -/
def roundAt (mode : Mode) (neg : Bool) (m : Nat) (e q : Int) : Nat :=
  if q ≤ e then m * 2 ^ (e - q).toNat else roundShift mode neg m (q - e).toNat

/-- Whether `m * 2^e` is a multiple of `2^q`. -/
def exactAt (m : Nat) (e q : Int) : Bool :=
  decide (q ≤ e) || m % 2 ^ (q - e).toNat == 0

/-- The sign of an exact zero sum (R79 step 5, R216). -/
def zeroSign (mode : Mode) (a b : Bool) : Bool :=
  if a = b then a else decide (mode = .rdn)

/-- The exact sum; the mode decides the sign of an exact zero alone. -/
def Val.add (mode : Mode) (x y : Val) : Val :=
  match x, y with
  | .nan, _ => .nan
  | _, .nan => .nan
  | .inf a, .inf b => if a = b then .inf a else .nan
  | .inf a, .fin _ _ _ => .inf a
  | .fin _ _ _, .inf b => .inf b
  | .fin a m e, .fin b n f =>
    let g := min e f
    let p := m * 2 ^ (e - g).toNat
    let q := n * 2 ^ (f - g).toNat
    if m = 0 ∧ n = 0 then .fin (zeroSign mode a b) 0 0
    else if a = b then .fin a (p + q) g
    else if p = q then .fin (zeroSign mode a b) 0 0
    else if p > q then .fin a (p - q) g
    else .fin b (q - p) g

/-- The value with its sign inverted. -/
def Val.neg : Val → Val
  | .nan => .nan
  | .inf a => .inf (!a)
  | .fin a m e => .fin (!a) m e

/-- The magnitude. -/
def Val.abs : Val → Val
  | .nan => .nan
  | .inf _ => .inf false
  | .fin _ m e => .fin false m e

/-- The exact difference. -/
def Val.sub (mode : Mode) (x y : Val) : Val := x.add mode y.neg

/-- The exact product; `0 × ∞` is invalid. -/
def Val.mul (x y : Val) : Val :=
  match x, y with
  | .nan, _ => .nan
  | _, .nan => .nan
  | .inf a, .inf b => .inf (a != b)
  | .inf a, .fin b m _ => if m = 0 then .nan else .inf (a != b)
  | .fin a m _, .inf b => if m = 0 then .nan else .inf (a != b)
  | .fin a m e, .fin b n f => .fin (a != b) (m * n) (e + f)

/-- Bits of quotient and root kept below the last place that any rounding here uses. -/
def guardBits : Nat := 280

/-- The quotient to more than 240 bits, with a last bit that stands for a nonzero remainder: rounded to
240 bits or fewer it rounds as the exact quotient does. -/
def Val.div (x y : Val) : Val :=
  match x, y with
  | .nan, _ => .nan
  | _, .nan => .nan
  | .inf _, .inf _ => .nan
  | .inf a, .fin b _ _ => .inf (a != b)
  | .fin a _ _, .inf b => .fin (a != b) 0 0
  | .fin a m e, .fin b n f =>
    if n = 0 then (if m = 0 then .nan else .inf (a != b))
    else
      let k := guardBits + n.log2 + 1
      let q := m * 2 ^ k / n
      let s := if m * 2 ^ k % n = 0 then 0 else 1
      .fin (a != b) (2 * q + s) (e - f - k - 1)

/-- Newton's iteration for the integer square root, from above. -/
def isqrtGo : Nat → Nat → Nat → Nat
  | 0, _, r => r
  | k + 1, x, r =>
    let t := (r + x / r) / 2
    if t < r then isqrtGo k x t else r

/-- The integer square root. -/
def isqrt (x : Nat) : Nat := if x = 0 then 0 else isqrtGo (x.log2 + 4) x (2 ^ (x.log2 / 2 + 1))

/-- The square root, like `Val.div` with a last bit for a remainder; `√(−0) = −0`, and a number below zero is
invalid (R79, R228, R230). -/
def Val.sqrt (x : Val) : Val :=
  match x with
  | .nan => .nan
  | .inf a => if a then .nan else .inf false
  | .fin a m e =>
    if m = 0 then .fin a 0 0
    else if a then .nan
    else
      let odd := e % 2
      let m2 := m * 2 ^ odd.toNat * 4 ^ guardBits
      let r := isqrt m2
      let s := if r * r = m2 then 0 else 1
      .fin false (2 * r + s) ((e - odd) / 2 - guardBits - 1)

/-- The order of two finite or infinite values, zeros of both signs equal; none when either is NaN. -/
def Val.cmp (x y : Val) : Option Ordering :=
  match x, y with
  | .nan, _ => none
  | _, .nan => none
  | .inf a, .inf b => some (if a = b then .eq else if a then .lt else .gt)
  | .inf a, .fin _ _ _ => some (if a then .lt else .gt)
  | .fin _ _ _, .inf b => some (if b then .gt else .lt)
  | .fin a m e, .fin b n f =>
    let g := min e f
    let p : Int := (m * 2 ^ (e - g).toNat : Nat)
    let q : Int := (n * 2 ^ (f - g).toNat : Nat)
    some (compare (if a then -p else p) (if b then -q else q))

/-- Whether a value is NaN. -/
def Val.isNan : Val → Bool
  | .nan => true
  | _ => false

/-- Whether the sign is set; NaN has none. -/
def Val.isNeg : Val → Bool
  | .nan => false
  | .inf a => a
  | .fin a _ _ => a

/-- Whether a value is a zero. -/
def Val.isZero : Val → Bool
  | .fin _ m _ => m == 0
  | _ => false

/-- `x < y` with −0 below +0 (R218, R230). -/
def Val.below (x y : Val) : Bool :=
  match x.cmp y with
  | some .lt => true
  | some .eq => x.isNeg && !y.isNeg
  | _ => false

/-- The smaller, with −0 below +0; NaN if either is NaN (R218). -/
def Val.min (x y : Val) : Val := if x.isNan || y.isNan then .nan else if y.below x then y else x

/-- The larger, alike. -/
def Val.max (x y : Val) : Val := if x.isNan || y.isNan then .nan else if x.below y then y else x

/-- A value from an integer. -/
def Val.ofInt (n : Int) : Val := .fin (decide (n < 0)) n.natAbs 0

/-! ## IEEE formats (R71, R72) and the eight-bit floats (R73) -/

/-- A binary format: exponent and fraction widths. -/
structure Fmt where
  eb : Nat
  fb : Nat
  deriving DecidableEq, Repr

def fp32 : Fmt := ⟨8, 23⟩
def fp16 : Fmt := ⟨5, 10⟩
def bf16 : Fmt := ⟨8, 7⟩
def e5m2 : Fmt := ⟨5, 2⟩
def e4m3 : Fmt := ⟨4, 3⟩

/-- The bias, `2^(eb-1) - 1`. -/
def Fmt.bias (f : Fmt) : Nat := 2 ^ (f.eb - 1) - 1

/-- The weight of a subnormal's last place. -/
def Fmt.qmin (f : Fmt) : Int := 1 - (f.bias : Int) - (f.fb : Int)

/-- The magnitude bits of the infinity: the exponent field all ones. -/
def Fmt.infBits (f : Fmt) : Nat := (2 ^ f.eb - 1) * 2 ^ f.fb

/-- The value of the finite word with exponent field `e` and fraction field `m` (R73). -/
def Fmt.finite (f : Fmt) (neg : Bool) (e m : Nat) : Val :=
  if e = 0 then .fin neg m f.qmin else .fin neg (2 ^ f.fb + m) (f.qmin + (e - 1 : Nat))

/-- The value of a word of an IEEE format (R71), E5M2 included (R73). -/
def Fmt.dec (f : Fmt) (x : Nat) : Val :=
  let neg := decide (x / 2 ^ (f.eb + f.fb) % 2 = 1)
  let e := x / 2 ^ f.fb % 2 ^ f.eb
  let m := x % 2 ^ f.fb
  if e = 2 ^ f.eb - 1 then (if m = 0 then .inf neg else .nan) else f.finite neg e m

/-- The sign bit of a format. -/
def Fmt.signBit (f : Fmt) (neg : Bool) : Nat := if neg then 2 ^ (f.eb + f.fb) else 0

/-- The canonical NaN: quiet bit set, sign clear (R71). -/
def Fmt.nanBits (f : Fmt) : Nat := f.infBits + 2 ^ (f.fb - 1)

/-- The magnitude bits of a nonzero finite magnitude rounded with an unbounded exponent field. -/
def Fmt.magBits (f : Fmt) (mode : Mode) (neg : Bool) (m : Nat) (e : Int) : Nat :=
  let q := max f.qmin ((m.log2 : Int) + e - f.fb)
  roundAt mode neg m e q + (q - f.qmin).toNat * 2 ^ f.fb

/-- Whether an overflow in this mode gives the infinity (R71, R79). -/
def overflowsToInf (mode : Mode) (neg : Bool) : Bool :=
  match mode with
  | .rne => true
  | .rtz => false
  | .rup => !neg
  | .rdn => neg
  | .rto => false

/-- The encoding of a value in an IEEE format by one rounding (R71, R72, R83); `sat` is the `.sat` form. -/
def Fmt.enc (f : Fmt) (mode : Mode) (sat : Bool) (v : Val) : Nat :=
  match v with
  | .nan => f.nanBits
  | .inf a => f.signBit a + (if sat then f.infBits - 1 else f.infBits)
  | .fin a m e =>
    if m = 0 then f.signBit a else
    let b := f.magBits mode a m e
    f.signBit a +
      (if b < f.infBits then b
       else if sat || !overflowsToInf mode a then f.infBits - 1 else f.infBits)

/-- FP32 bits of a value, RNE (R216). -/
def encF32 (v : Val) : Word := BitVec.ofNat 32 (fp32.enc .rne false v)

/-- The value of FP32 bits. -/
def decF32 (x : Word) : Val := fp32.dec x.toNat

/-- The value of an E4M3 word (R73). -/
def decE4m3 (x : Nat) : Val :=
  if x % 128 = 127 then .nan else e4m3.finite (decide (x / 128 % 2 = 1)) (x / 8 % 16) (x % 8)

/-- E4M3: RNE, saturating to ±448 (R83). -/
def encE4m3 (v : Val) : Nat :=
  match v with
  | .nan => 0x7F
  | .inf a => e4m3.signBit a + 0x7E
  | .fin a m e =>
    if m = 0 then e4m3.signBit a
    else e4m3.signBit a + min 0x7E (e4m3.magBits .rne a m e)

/-- E5M2: RNE; infinities stay infinities also under `.sat` (R83). -/
def encE5m2 (sat : Bool) (v : Val) : Nat :=
  match v with
  | .nan => 0x7E
  | .inf a => e5m2.signBit a + e5m2.infBits
  | .fin a m e => e5m2.enc .rne sat (.fin a m e)

/-! ## Tapered formats (R74, R75) -/

/-- The length of the run of bits equal to the highest of `n` bits. -/
def runLength : Nat → Nat → Nat → Nat
  | 0, _, _ => 0
  | n + 1, x, b => if x / 2 ^ n % 2 = b then runLength n x b + 1 else 0

/-- The value of `n` magnitude bits, `es` exponent bits (R74); zero when all are zero. -/
def taperMag (n es mag : Nat) : Nat × Int :=
  if mag = 0 then (0, 0) else
  let r0 := mag / 2 ^ (n - 1) % 2
  let k := runLength n mag r0
  let kk : Int := if r0 = 1 then (k : Int) - 1 else -(k : Int)
  let rest := n - (k + 1)
  let e := if es = 0 then 0 else if rest = 0 then 0 else mag / 2 ^ (rest - 1) % 2
  let fl := rest - es
  (2 ^ fl + mag % 2 ^ fl, kk * 2 ^ es + e - fl)

/-- The value of a T8 word (`n = 7`, `es = 1`) or a T6 word (`n = 5`, `es = 0`). -/
def taperDec (n es x : Nat) : Val :=
  let s := decide (x / 2 ^ n % 2 = 1)
  let mag := x % 2 ^ n
  if mag = 0 then (if s then .nan else .fin false 0 0)
  else .fin s (taperMag n es mag).1 (taperMag n es mag).2

/-- Whether `m * 2^e ≤ n * 2^f`. -/
def magLe (m : Nat) (e : Int) (n : Nat) (f : Int) : Bool :=
  let g := min e f
  decide (m * 2 ^ (e - g).toNat ≤ n * 2 ^ (f - g).toNat)

/-- The largest magnitude word at or below `m * 2^e`, searched from word `k` downwards. -/
def taperFloor (n es : Nat) : Nat → Nat → Int → Nat
  | 0, _, _ => 0
  | k + 1, m, e =>
    if magLe (taperMag n es (k + 1)).1 (taperMag n es (k + 1)).2 m e then k + 1
    else taperFloor n es k m e

/-- Rounding to a tapered format (R75): the nearest magnitude, a tie to the neighbour whose word has bit 0
clear, saturating; a zero is always the zero word, and NaN the sign-only word. -/
def taperEnc (n es : Nat) (v : Val) : Nat :=
  match v with
  | .nan => 2 ^ n
  | .inf a => (if a then 2 ^ n else 0) + (2 ^ n - 1)
  | .fin a m e =>
    let lo := taperFloor n es (2 ^ n - 1) m e
    let mag :=
      if lo = 2 ^ n - 1 then lo else
      let l := taperMag n es lo
      let h := taperMag n es (lo + 1)
      -- twice the value against the sum of the neighbours
      let g := min (min l.2 h.2) e
      let s := l.1 * 2 ^ (l.2 - g).toNat + h.1 * 2 ^ (h.2 - g).toNat
      let x := 2 * (m * 2 ^ (e - g).toNat)
      if x < s then lo else if s < x then lo + 1 else if lo % 2 = 0 then lo else lo + 1
    if mag = 0 then 0 else (if a then 2 ^ n else 0) + mag

def decT8 (x : Nat) : Val := taperDec 7 1 (x % 256)
def decT6 (x : Nat) : Val := taperDec 5 0 (x % 64)
def encT8 (v : Val) : Nat := taperEnc 7 1 v
def encT6 (v : Val) : Nat := taperEnc 5 0 v

/-! ## Block scales (R76, R83) -/

/-- The value of an E8M0 byte. -/
def decE8m0 (x : Nat) : Val := if x % 256 = 255 then .nan else .fin false 1 ((x % 256 : Nat) - 127)

/-- E8M0: the magnitude rounded down to a power of two, its exponent clamped (R83). -/
def encE8m0 (v : Val) : Nat :=
  match v with
  | .nan => 0xFF
  | .inf _ => 0xFF
  | .fin _ m e =>
    if m = 0 then 0 else (max 0 (min 254 ((m.log2 : Int) + e + 127))).toNat

/-! ## Integers (R70, R83, R84) -/

/-- `x` as two's complement of `n` bits. -/
def sx (n x : Nat) : Int := if x % 2 ^ n < 2 ^ (n - 1) then (x % 2 ^ n : Nat) else (x % 2 ^ n : Nat) - (2 ^ n : Nat)

/-- An integer modulo `2^n`. -/
def wrap (n : Nat) (x : Int) : Nat := (x % (2 ^ n : Nat)).toNat

/-- `x` clamped (R9). -/
def clamp (x lo hi : Int) : Int := max lo (min hi x)

/-- A finite value rounded to an integer. -/
def roundInt (mode : Mode) (neg : Bool) (m : Nat) (e : Int) : Int :=
  let q := roundAt mode neg m e 0
  if neg then -(q : Int) else q

/-- The range of an integer format. -/
def intLo (signed : Bool) (n : Nat) : Int := if signed then -(2 ^ (n - 1) : Nat) else 0
def intHi (signed : Bool) (n : Nat) : Int := if signed then (2 ^ (n - 1) : Nat) - 1 else (2 ^ n : Nat) - 1

/-- Conversion to an integer: saturating, NaN to 0 (R83). -/
def encInt (signed : Bool) (n : Nat) (mode : Mode) (v : Val) : Nat :=
  match v with
  | .nan => 0
  | .inf a => wrap n (if a then intLo signed n else intHi signed n)
  | .fin a m e => wrap n (clamp (roundInt mode a m e) (intLo signed n) (intHi signed n))

/-- A finite value rounded to an integral value; zeros and infinities kept (R224, R232). -/
def Val.rint (mode : Mode) (v : Val) : Val :=
  match v with
  | .nan => .nan
  | .inf a => .inf a
  | .fin a m e => .fin a (roundAt mode a m e 0) 0

end Sys2Proof.Machine
end

