-- ==== Sys2Proof/Machine/Elem.lean ====
section
/-!
DEFINITION. Machine/Elem.lean: the special functions of R227, R228 and the exponentials of R296. Each is
evaluated in integer fixed point to far more places than FP32 holds, with a last bit set for the part
below; the exact value is never a rounding boundary of FP32 where that bit is set, so the one rounding is
that of the exact value.
-/

namespace Sys2Proof.Machine

open Sys2Proof

/-- π, 2/π and ln 2 as integers over `2^700`, `2^700` and `2^300`, cut short below. -/
def piFix : Nat := 0x3243f6a8885a308d313198a2e03707344a4093822299f31d0082efa98ec4e6c89452821e638d01377be5466cf34e90c6cc0ac29b7c97c50dd3f84d5b5b54709179216d5d98979fb1bd1310ba698dfb5ac2ffd72dbd01adfb
def twoOverPiFix : Nat := 0xa2f9836e4e441529fc2757d1f534ddc0db6295993c439041fe5163abdebbc561b7246e3a424dd2e006492eea09d1921cfe1deb1cb129a73ee88235f52ebb4484e99c7026b45f7e413991d639835339f49c845f8bbdf9283
def ln2Fix : Nat := 0xb17217f7d1cf79abc9e3b39803f2f6af40f343267298b62d8a0d175b8baafa2be7b876206de

/-- Places of the fixed point. -/
def fixP : Nat := 300

/-- Terms of a power series `Σ t_k`, `t_(k+1) = t_k * y / (2^p * (k + 1))`. -/
def expTerms : Nat → Nat → Nat → Nat → Nat → Nat
  | 0, _, _, _, _ => 0
  | n + 1, p, y, k, t => t + expTerms n p y (k + 1) (t * y / (2 ^ p * (k + 1)))

/-- `e^y` for `0 ≤ y < 1`, over `2^fixP`. -/
def expFix (y : Nat) : Nat := expTerms 80 fixP y 0 (2 ^ fixP)

/-- `2^k` times a fixed-point value, with the last bit for what lies below. -/
def inexactFix (neg : Bool) (m : Nat) (k : Int) : Val := .fin neg (2 * m + 1) (k - (fixP : Int) - 1)

/-- `floor(m * 2^e * 2^p)` of a signed magnitude, as an integer. -/
def fixFloor (p : Nat) (neg : Bool) (m : Nat) (e : Int) : Int :=
  let s : Int := if neg then -(m : Int) else m
  if 0 ≤ e + p then s * (2 ^ (e + p).toNat : Nat) else s / (2 ^ (-(e + p)).toNat : Nat)

/-- `2^x` exactly or with a last bit. -/
def Val.exp2 (v : Val) : Val :=
  match v with
  | .nan => .nan
  | .inf a => if a then .fin false 0 0 else .inf false
  | .fin a m e =>
    if m = 0 then .fin false 1 0
    else if magLe (2 ^ 12) 0 m e then (if a then .fin false 1 (-100000) else .fin false 1 100000)
    else
      let x := fixFloor fixP a m e
      let k := x / (2 ^ fixP : Nat)
      let f := (x % (2 ^ fixP : Nat)).toNat
      if f = 0 ∧ exactAt m e 0 then .fin false 1 k
      else inexactFix false (expFix (f * ln2Fix / 2 ^ 300)) k

/-- `e^x`, 1 at 0, with a last bit elsewhere (R296). -/
def Val.exp (v : Val) : Val :=
  match v with
  | .nan => .nan
  | .inf a => if a then .fin false 0 0 else .inf false
  | .fin a m e =>
    if m = 0 then .fin false 1 0
    else if magLe (2 ^ 12) 0 m e then (if a then .fin false 1 (-100000) else .fin false 1 100000)
    else
      let x := fixFloor fixP a m e
      let k := x / (ln2Fix : Int)
      let r := (x % (ln2Fix : Int)).toNat
      inexactFix false (expFix r) k

/-- `Σ z^(2k+1) / (2k+1)` over `2^fixP`. -/
def atanhTerms : Nat → Nat → Nat → Nat → Nat
  | 0, _, _, _ => 0
  | n + 1, z2, k, t => t / (2 * k + 1) + atanhTerms n z2 (k + 1) (t * z2 / 2 ^ fixP)

/-- `log2 x` (R228): exact at powers of two. -/
def Val.log2 (v : Val) : Val :=
  match v with
  | .nan => .nan
  | .inf a => if a then .nan else .inf false
  | .fin a m e =>
    if m = 0 then .inf true
    else if a then .nan
    else
      let l := m.log2
      if m = 2 ^ l then Val.ofInt (l + e)
      else
        -- x = u * 2^k with 3/4 ≤ u < 3/2
        let up := decide (3 * 2 ^ l ≤ 2 * m)
        let k : Int := l + e + (if up then 1 else 0)
        let den := if up then 2 ^ (l + 1) else 2 ^ l
        let neg := decide (m < den)
        let num := if neg then den - m else m - den
        let z := num * 2 ^ fixP / (m + den)
        let lnu := 2 * atanhTerms 130 (z * z / 2 ^ fixP) 0 z
        let fr : Int := (lnu * 2 ^ 300 / ln2Fix : Nat)
        let tot : Int := k * (2 ^ fixP : Nat) + (if neg then -fr else fr)
        inexactFix (decide (tot < 0)) tot.natAbs 0

/-- `tanh x` (R228). -/
def Val.tanh (v : Val) : Val :=
  match v with
  | .nan => .nan
  | .inf a => .fin a 1 0
  | .fin a m e =>
    if m = 0 then .fin a 0 0
    else if magLe 19 (-1) m e then .fin a 1 0
    else if magLe m e 1 (-60) then .fin a (m * 2 ^ 100) (e - 100)
    else
      let x := (fixFloor fixP false (2 * m) e).toNat
      let k := x / ln2Fix
      let ex := expFix (x % ln2Fix) * 2 ^ k
      inexactFix a ((ex - 2 ^ fixP) * 2 ^ fixP / (ex + 2 ^ fixP)) 0

/-- Alternating series of the sine and cosine: `t_(k+2) = t_k * y2 / ((k+1)(k+2))`, over `2^600`. -/
def trigTerms : Nat → Nat → Nat → Nat → Int
  | 0, _, _, _ => 0
  | n + 1, y2, k, t => (t : Int) - trigTerms n y2 (k + 2) (t * y2 / (2 ^ 600 * ((k + 1) * (k + 2))))

/-- The quadrant of `|x|` and the rest over `2^600` as a multiple of π/2. -/
def quadrant (m : Nat) (e : Int) : Nat × Nat :=
  let t := m * twoOverPiFix
  let x := if 0 ≤ e - 100 then t * 2 ^ (e - 100).toNat else t / 2 ^ (100 - e).toNat
  (x / 2 ^ 600, x % 2 ^ 600)

/-- The sine of `f * π/2`, `0 ≤ f ≤ 1`, over `2^600`. -/
def sinQuarter (f : Nat) : Nat :=
  let r := f * piFix / 2 ^ 701
  (trigTerms 60 (r * r / 2 ^ 600) 1 r).toNat

/-- The cosine of `f * π/2`, alike. -/
def cosQuarter (f : Nat) : Nat :=
  let r := f * piFix / 2 ^ 701
  (trigTerms 60 (r * r / 2 ^ 600) 0 (2 ^ 600)).toNat

/-- Sine or cosine of `|x|` by quadrant: its sign and magnitude over `2^600`. -/
def trigQuad (q f : Nat) : Bool × Nat :=
  match q % 4 with
  | 0 => (false, sinQuarter f)
  | 1 => (false, cosQuarter f)
  | 2 => (true, sinQuarter f)
  | _ => (true, cosQuarter f)

/-- `sin x` (R227, R228). Below `2^-60` the value rounds as `x` does. -/
def Val.sin (v : Val) : Val :=
  match v with
  | .nan => .nan
  | .inf _ => .nan
  | .fin a m e =>
    if m = 0 then .fin a 0 0
    else if magLe m e 1 (-60) then .fin a m e
    else
      let q := quadrant m e
      let s := trigQuad q.1 q.2
      .fin (a != s.1) (2 * s.2 + 1) (-601)

/-- `cos x` (R227, R228). -/
def Val.cos (v : Val) : Val :=
  match v with
  | .nan => .nan
  | .inf _ => .nan
  | .fin _ m e =>
    if m = 0 then .fin false 1 0
    else if magLe m e 1 (-60) then .fin false 1 0
    else
      let q := quadrant m e
      let s := trigQuad (q.1 + 1) q.2
      .fin s.1 (2 * s.2 + 1) (-601)

/-- The reciprocal and the reciprocal square root (R228). -/
def Val.rcp (v : Val) : Val := (Val.fin false 1 0).div v

def Val.rsq (v : Val) : Val :=
  match v with
  | .fin a m _ => if m = 0 then .inf a else (Val.fin false 1 0).div v.sqrt
  | _ => (Val.fin false 1 0).div v.sqrt

/-- `expn` and `expu` of R296 on FP32 bits. -/
def expn (x : Word) : Word := encF32 (decF32 x).exp
def expu (x : Word) : Word := BitVec.ofNat 32 (fp32.enc .rup false (decF32 x).exp)

end Sys2Proof.Machine
end

