-- ==== Sys2Proof/Config.lean ====
section
/-!
DEFINITION. Config.lean: the values that the manual leaves to the device (free values, without a body) and
the fixed figures of every Bredibin package.
-/

namespace Sys2Proof.Config

/-- The ML-DSA-65 signature of the device identity key over a message (R353). The private key never leaves
the root of trust and the manual gives no signature, so nothing constrains the bytes. -/
opaque sign : List Byte → List Byte

/-- What the manual leaves open in a reply: byte `k` of the reply to management command `n` where no rule gives it
(R349). A free value. -/
opaque replyByte (n k : Nat) : BitVec 8

/-- The detail bytes of audit entry `n` where no rule gives them (R352). A free value. -/
opaque auditByte (n k : Nat) : BitVec 8

/-- What a device unit makes of byte `a` of an uncorrectable granule, at its `n`th record, where it goes on with the data (R386). A free
value. -/
opaque lostByte (a n : Nat) : BitVec 8

/-- Whether a trained fabric link leads to a package of a job (R21, R403): the manual gives no topology. A free value. -/
opaque leads (link job package : Nat) : Bool

/-- The figures of R12 and R13. -/
def dies : Nat := 8
def coresPerDie : Nat := 256
def sparesPerDie : Nat := 8

/-- Units of the model's own clock: one tick is 19 units and one core clock at 1.9 GHz is 10 (R6, R111). -/
def unitsPerTick : Nat := 19
def unitsPerClock : Nat := 10

/-- The feature word that the device offers (R347): bits 0 to 7. -/
def offer : BitVec 128 := 0xFF

/-- Entries per class queue of a core (R260). -/
def queueRoom : Nat → Nat
  | 0 => 32
  | 1 => 16
  | 2 => 8
  | 3 => 8
  | _ => 4

end Sys2Proof.Config
end

