-- ==== Sys2Proof/Machine/State.lean ====
section
/-!
DEFINITION. State.lean: everything the manual gives the device, as plain data: threads, frames, teams, cores,
contexts, launches, engine commands, accesses in flight, memories, and the device-wide registers. Times are
ticks of the global time base as naturals; a register read of a time truncates it to its 64 bits (R63).
-/

namespace Sys2Proof.Machine

open Sys2Proof

/-- Where a thread is parked (R35, R150's PARK). -/
inductive Park where
  | none
  | bar (k : Nat)
  | cbar
  | gbar
  | tcall
  | tret
  | elect
  | group
  | bowwait
  deriving DecidableEq, Repr

/-- One register or predicate write of an instruction (R67). -/
inductive Wr where
  | reg (i : Nat) (x : Word)
  | half0 (i : Nat) (x : BitVec 16)
  | half1 (i : Nat) (x : BitVec 16)
  | pred (p : Nat) (b : Bool)
  deriving DecidableEq, Repr

/-- The trap record of R371 and what the entry still needs (R370): the resume point. -/
structure TrapInfo where
  cause  : Nat
  slot   : Nat
  word   : Word
  packet : BitVec 56
  resume : BitVec 56
  deriving DecidableEq, Repr

/-- The operations over a group (R253 to R258). -/
inductive GroupOp where
  | pluck (fn : Nat)
  | poll (fn : Nat)
  | gredI (fn : Nat)
  | gredF (fn : Nat)
  | gscan (fn : Nat)
  | topk
  | gsync
  deriving DecidableEq, Repr

/-- The arrival of a lane at a group rendezvous (R250): the packet, mask and parameter word, and the operands
that the lane read at issue. -/
structure GroupArrival where
  op     : GroupOp
  packet : BitVec 56
  mask   : Word
  param  : Word
  d      : Nat
  a0     : Word
  a1     : Word
  dOld   : Word
  flag   : Option Nat
  deriving DecidableEq, Repr

/-- What a word reads as it issues: the thread's registers and its frame's uniform values. Kept for the second
word of a chained pair, which reads before the first word writes (R160, R409). -/
structure View where
  v     : Cells 32
  preds : BitVec 8
  prec  : Word
  /-- the PREC that governs XF words: the thread's present one, also for the second word of a pair (R64) -/
  mode  : Word
  fh    : Nat
  rh    : Nat
  akey  : Byte
  uni   : Cells 32
  deriving DecidableEq, Repr

/-- An arrival at a team barrier that counts once the accesses issued before it are done (R120, R190). -/
structure Arrival where
  bar : Nat
  ops : List Nat
  at_ : BitVec 56
  deriving DecidableEq, Repr

/-- A release that comes to a stopped thread, held until it resumes (R376): the time that it acquires, and the writes. -/
structure Due where
  h  : Nat
  ws : List Wr
  deriving DecidableEq, Repr

/-- A thread (R23, R69, R150), with the picker's and the debugger's marks on it. `pc` holds a resume slot in
bits [3:2] (R370); `cont` says that the thread goes on inside a packet that has started, so that the packet's WAIT
does not apply again. `stopNext` says that it stops once it is released (R377), `stopClock` and `stopTime` when it stopped, by the core's clock
and by GTIME (R365), and `skipBp` is the packet whose breakpoint it has met (R374). `dieAt` is the core clock at which a failure of its
group found it inside a packet that it still issues (R361). -/
structure Thread where
  lrank     : Nat
  rank      : Nat
  frame     : Nat
  course    : Nat
  nreg      : Nat
  pc        : BitVec 56
  cont      : Bool
  snap      : Option View
  rstack    : List Dword
  v         : Cells 32
  preds     : BitVec 8
  flags     : BitVec 12
  prec      : Word
  fh        : Nat
  rh        : Nat
  akey      : Byte
  shFh      : Option Word
  shRh      : Option Word
  shGtime   : Option Word
  shTagrdy  : Option Word
  exited    : Bool
  stopped   : Bool
  stopNext  : Bool
  stopClock : Nat
  stopTime  : Nat
  due       : Option Due
  park      : Park
  parkPhase : Bool
  parkArg   : Nat
  parkAt    : BitVec 56
  parkClock : Nat
  parkTold  : Bool
  arrivals  : List Arrival
  garr      : Option GroupArrival
  yieldAt   : Option Nat
  yieldMark : Bool
  hintMark  : Bool
  aged      : Bool
  readyAt   : Nat
  trap      : Option TrapInfo
  pmk       : Bool
  skipBp    : Option (BitVec 56)
  stepOne   : Bool
  stepRun   : Bool
  openWin   : List Nat
  sinceOpen : Nat
  dieAt     : Option Nat
  deriving DecidableEq, Repr

/-- A team barrier (R190): arrivals of the open phase, the phase bit, the largest FH of the counted arrivals
and the H of the last release; the packet, thread and time of the first arrival and whether a stall was recorded (R365). -/
structure Barrier where
  count  : Nat
  phase  : Bool
  h      : Nat
  relH   : Nat
  at_    : BitVec 56
  who    : Nat
  since  : Nat
  told   : Bool
  deriving DecidableEq, Repr

/-- Uncompleted commands of a frame by class, and by the operands-consumed step for class 1 (R149, R262). -/
structure Counters where
  copy   : Nat
  matC   : Nat
  matO   : Nat
  attn   : Nat
  coll   : Nat
  launch : Nat
  deriving DecidableEq, Repr

/-- A callee of a TCALL that will run: its index, first position, size and entry (R41, R186). -/
structure Callee where
  idx   : Nat
  start : Nat
  size  : Nat
  entry : BitVec 56
  deriving DecidableEq, Repr

/-- A TCALL whose rendezvous is complete (R186): its number in the order of rendezvous, the H of R49, the launch ranks of its threads by
position (R40, R41), the callees, and the granules it needs (R46). -/
structure Call where
  seq     : Nat
  h       : Nat
  ranks   : List Nat
  callees : List Callee
  marker  : BitVec 56
  /-- whether its forks have been taken from the core's pool (R46) -/
  reserved : Bool
  deriving DecidableEq, Repr

/-- The STATE byte of R149, and a frame whose sub-teams have joined. -/
inductive FrameStatus where
  | running
  | waitingJoin
  | complete
  | gone
  deriving DecidableEq, Repr

/-- A team frame (R24, R44, R45, R149). `uni` holds the frame's own uniform values; a sub-team's fork holds
the granules of `gran` and reads the others through its parent. `tcOps` are the fields of the TCALL that its
threads are parked at: weights, entry base, granule g32 and result mask (R38); `tcAt` is its packet and `tcApart` says that a thread came to
another one while its rendezvous was pending (R187). -/
structure Frame where
  parent : Option Nat
  depth  : Nat
  callee : Nat
  nrank  : Nat
  status : FrameStatus
  uni    : Cells 32
  gran   : BitVec 16
  rmask  : Word
  wrote  : Word
  resume : BitVec 56
  cnt    : Counters
  tcs    : List Nat
  bars   : List Barrier
  tcOps  : Nat × Nat × Bool × Word
  tcAt   : BitVec 56 := 0
  tcApart : Bool := false
  call   : Option Call
  callH  : Nat
  exitH  : Nat
  cmdH   : Nat
  deriving DecidableEq, Repr

/-- Where a team stands: on its core, being saved, saved to its frame, or ended (R143, R55). -/
inductive Standing where
  | resident
  | saving
  | saved
  | ended
  deriving DecidableEq, Repr

/-- A load that a save abandoned (R150's PEND), with the operation that it was and what its trap would record (R371). -/
structure Pend where
  op     : Nat
  lrank  : Nat
  flag   : Option Nat
  va     : Nat
  dest   : Nat
  kind   : Nat
  width  : Nat
  stream : Nat
  lprec  : Word
  acq    : Bool
  info   : TrapInfo
  deriving DecidableEq, Repr

/-- A team (R22, R24, R69, R148). `faults` are the addresses that failed, each with its fault detail (R379, R380).
`home` says that a repair saved it, so that it goes back to its own core (R356); `savedClock` and `savedTime` say when it was saved (R365). -/
structure Team where
  id       : Nat
  ctx      : Nat
  launch   : Nat
  teamId   : Nat
  cluster  : Nat
  pos      : Nat
  die      : Nat
  core     : Nat
  slot     : Nat
  standing : Standing
  threads  : List Thread
  frames   : List Frame
  scratch  : Cells 8
  opbuf    : Cells 8
  acc      : Cells 32
  win      : Cells 8
  handles  : Cells 8
  mrgc     : Bool
  tags     : BitVec 64
  trdy     : BitVec 64
  arrC     : Bool
  phaseC   : Bool
  arrG     : Bool
  phaseG   : Bool
  wideH    : Nat
  wideAt   : Nat
  toldC : Bool
  toldG : Bool
  pends    : List Pend
  faults   : List (Nat × Nat)
  mayResume : Bool
  home     : Bool
  savedClock : Nat
  savedTime : Nat
  deriving DecidableEq, Repr

/-- The attributes of a leaf entry (R96, R99). -/
structure PageAttr where
  scope : Nat
  red   : Bool
  bow   : Bool
  w     : Bool
  x     : Bool
  deriving DecidableEq, Repr

/-- A translation held in a TLB (R97): the page's first window address and physical address, its size. -/
structure TlbEntry where
  ctx  : Nat
  wa   : Nat
  pa   : Nat
  size : Nat
  attr : PageAttr
  deriving DecidableEq, Repr

/-- A line of an L1 (R103, R104, R115): its valid words, lease end (none for CORE scope), stamp and w. -/
structure L1Line where
  line  : Nat
  words : List (Nat × Word)
  lease : Option Nat
  stamp : Nat
  w     : Nat
  scope : Nat
  team  : Nat
  deriving DecidableEq, Repr

/-- What a core holds beside its teams (R14, R15, R46, R100, R110, R141, R142, R374). `permits` and `waiters`
list teams, the longest holder and the longest waiter first; `tagCnt` lists, by tag, the uncompleted commands counted
against it and the largest Tc of the completed ones (R110, R126). -/
structure Core where
  die     : Nat
  num     : Nat
  split   : Nat
  retired : Bool
  closed  : Bool
  tlb     : List TlbEntry
  l1      : List L1Line
  icache  : List (Nat × List Byte)
  tagrdy  : BitVec 64
  tagCnt  : List (Nat × Nat × Nat)
  forkQ   : List (Nat × Nat)
  permitP : Nat
  permits : List Nat
  waiters : List Nat
  victims : List (Nat × List Nat)
  reref   : Nat
  lastHeavy : Nat
  lastRise  : Nat
  lastTurn  : Nat
  winAt     : Nat
  bps     : List (Nat × Nat × Nat)
  deriving DecidableEq, Repr

/-- A launch descriptor (R132). -/
structure Desc where
  addr   : Nat
  entry  : Nat
  nteams : Nat
  tsize  : Nat
  shapeW : Nat
  shapeH : Nat
  nreg   : Nat
  split  : Nat
  sak    : Nat
  oak    : Nat
  acck   : Nat
  uinit  : Nat
  ucnt   : Nat
  det    : Bool
  ens    : Bool
  pin    : Bool
  resv   : Nat
  dep0   : Nat
  val0   : Nat
  dep1   : Nat
  val1   : Nat
  done   : Nat
  frames : Nat
  loc    : Nat
  lsize  : Nat
  deriving DecidableEq, Repr

/-- The bow of a DET launch (R152): the team index that holds it, or, on its way, the one it goes to; the T that it
came with; the largest t of the holder's BOW-page writes; and, on its way, the team that passed it and the number from
which operations were issued after the pass. -/
structure Bow where
  holder : Nat
  moving : Bool
  t      : Nat
  next   : Nat
  prev   : Nat
  mark   : Nat
  deriving DecidableEq, Repr

/-- A launch that has started (R134 to R136). `nextTeam` is the next team index to place, `minIssue` the time of
R134, `tl` the largest write-completion time of its writes and commands. -/
structure Launch where
  id       : Nat
  ctx      : Nat
  queue    : Nat
  k        : Nat
  prio     : Nat
  desc     : Desc
  uwords   : List Word
  nextTeam : Nat
  minIssue : Nat
  bow      : Bow
  tl       : Nat
  headDone : Bool
  done     : Bool
  deriving DecidableEq, Repr

/-- A launch queue as the dispatcher keeps it (R131, R134, R282): `next` is the descriptor number that it comes to,
`headW` the last head count, `freed` when its ring last came to have room, `pend` a tail whose queue-table read waits on
a translation, `taken` the bytes of the descriptor in hand, and `met` the largest write time of the dependences once they hold. -/
structure Queue where
  num      : Nat
  tail     : BitVec 32
  next     : BitVec 32
  headW    : BitVec 32
  open_    : Bool
  told     : Bool
  ring     : Nat
  logn     : Nat
  prio     : Nat
  headwb   : Nat
  pend     : Option (BitVec 32)
  taken    : Option (List Byte)
  met      : Option Nat
  freed    : Nat := 0
  deriving DecidableEq, Repr

/-- An error or device ring (R360). -/
structure Ring where
  base  : Nat
  logn  : Nat
  consw : Nat
  prodw : Nat
  k     : Nat
  deriving DecidableEq, Repr

/-- A context (R93, R130, R350, R357 to R360, R372, R373). -/
structure Context where
  num      : Nat
  lcl      : Nat
  ldie     : Nat
  lpkg     : Nat
  heapBase : Nat
  heapLim  : Nat
  heapOff  : Nat
  ptBase   : Nat
  qtab     : Nat
  job      : Nat
  prank    : Nat
  cores    : List (Nat × Nat)
  ranges   : List (Nat × Nat)
  cestat   : Word
  ring     : Option Ring
  stopped  : Bool
  dbgMode  : Nat
  dbgArea  : Nat
  dbgCount : Nat
  queues   : List Queue
  dispWait : List (Nat × Nat)
  deriving DecidableEq, Repr

/-- Which memory an access reaches, once its address has been checked and translated (R91, R92). -/
inductive Space where
  | hbm
  | scratch (team : Nat)
  | window (team : Nat) (cls : Nat)
  deriving DecidableEq, Repr

/-- An access of a thread (R236, R237): its bytes in order, each by its place in `space`, the virtual address
of the first, and the attributes of the page. -/
structure Access where
  space : Space
  bytes : List Nat
  va    : Nat
  attr  : PageAttr
  deriving DecidableEq, Repr

/-- How a load writes its destination (R238, R239, R247, R248; R150's KIND). -/
inductive LoadKind where
  | plain (width : Nat)
  | half0
  | half1
  | xf
  | xfRound (prec : Word)
  | fill
  /-- word `i` of the XF element that operation `op` gathers -/
  | word (op i : Nat)
  deriving DecidableEq, Repr

/-- An operation in flight (R35, R68, R116, R118, R157). -/
inductive OpBody where
  /-- a tracked result waiting to be written (R159); `xuf` sets PREC.XUF -/
  | result (wr : List Wr) (xuf : Bool)
  /-- a tracked XF operation that ends in a trap (R80, R59) -/
  | trapping (info : TrapInfo)
  /-- a load; `got` holds its bytes and w once a fill or the home answered -/
  | load (kind : LoadKind) (dest : Nat) (stream : Option Nat) (a : Access) (acq : Bool)
      (got : Option (List Byte × Nat)) (trap : TrapInfo)
  /-- an XF element that is not atomic as a whole: its words as they come in, each read by a load of its own (R114, R249) -/
  | gather (kind : LoadKind) (dest : Nat) (stream : Option Nat) (va : Nat) (words : List (Option Word)) (trap : TrapInfo)
  /-- a store; `gate` is the release part not yet ended (R119); `l1` lists the lines that it allocated in its core's L1 as its bytes went
  there, none while they have not (R104) -/
  | store (a : Access) (data : List Byte) (gate : Bool) (l1 : Option (List Nat))
  /-- a read of accumulator entries that an earlier acquire holds back (R119, R275): register, first entry, how many -/
  | accRead (dest e n : Nat)
  /-- a write of accumulator entries held back likewise: 0 replaces, 1 adds FP32, 2 adds I32; the first entry and the values -/
  | accWrite (how e : Nat) (xs : List Word)
  /-- a write of a tile handle's record held back likewise (R119, R272) -/
  | handle (k : Nat) (bytes : List Byte)
  /-- an atomic: the fn of R242, the operands, the destination, and its ordering (R243) -/
  | atomic (fn : Nat) (a : Access) (x y : Dword) (dest : Nat) (acq : Bool) (gate : Bool)
  /-- an atomic performed at the home: the old value, its t and the w it read -/
  | atomicDone (dest : Nat) (wide : Bool) (old : Dword) (acq : Bool) (w : Nat) (t : Nat)
  /-- a RED: rop of R245 and its operand -/
  | red (rop : Nat) (a : Access) (x : Dword)
  /-- a uniform write that has issued and not completed (R28, R29): the frame, the course, the bundle's launch ranks, and the
  values by register -/
  | uniform (frame course : Nat) (ranks : List Nat) (ws : List (Nat × Word))
  /-- a write performed, whose t has not returned to the thread -/
  | written (t : Nat)
  /-- a prefetch into L1 or into the home L2 (R246) -/
  | prefetch (a : Access) (l2 : Bool)
  /-- a fence: 0 FENCE, 1 FENCE.ACQ, 2 FENCE.REL (R118) -/
  | fence (kind : Nat)
  /-- a WAITC (R125): class, operands-consumed step, n -/
  | waitc (cls : Nat) (cons : Bool) (n : Nat)
  /-- a WAITANY or WAITALL (R126) -/
  | waitTags (all : Bool) (mask : BitVec 64)
  /-- an FFR: its destination, its mask and its packet (R126, R270) -/
  | ffr (d : Nat) (mask : BitVec 64) (pc : BitVec 56)
  /-- a store to GO in its release part (R122); `sent` once the command is at the queue, and `recs` the handle records that its thread
  has replaced since (R272) -/
  | go (cls : Nat) (gate : Bool) (sent : Bool) (recs : List (Nat × List Byte)) (scales : List (Nat × Word))
  /-- a PUSH in its release part, with its command and predicate -/
  | push (cls : Nat) (pd : Nat) (gate : Bool) (cmd : List Byte) (recs : List (Nat × List Byte)) (scales : List (Nat × Word))
  deriving DecidableEq, Repr

/-- What an unfinished operation holds back in its thread (R158, R184, R409): nothing, the next packet, or also the slot after the
chained pair that it stands in. -/
inductive Hold where
  | none
  | packet
  | slot
  deriving DecidableEq, Repr

/-- An operation in flight with the thread it belongs to; the list of them is in issue order. `issue` numbers the word that issued
it, `sectors` lists the 32-byte sectors for which its bundle's requests hold entries until it completes (R106), and `frame` is the frame
that its thread was in (R44). -/
structure Op where
  id      : Nat
  team    : Nat
  lrank   : Nat
  flag    : Option Nat
  hold    : Hold
  issue   : Nat
  sectors : List Nat
  frame   : Nat := 0
  body    : OpBody
  deriving DecidableEq, Repr

/-- The step an engine command has reached (R262, R123). A command waiting on a translation fault (R382) keeps the
address and whether it waits in its body (0), for its status word (1) or for its notify counter (2). -/
inductive CmdState where
  | queued
  | running
  | waiting (va phase : Nat)
  | performed
  | completed
  deriving DecidableEq, Repr

/-- An ATTN under way (R298 to R303): the cursor's PHASE, K, BDONE, U0, tolerance and per-query state, the query rows
(BF16 codes), the entry that the capture comes to, and the attempts at a stable read with the time of the first. -/
structure AttnState where
  phase : Nat
  k     : Nat
  bdone : Nat
  u0    : Word
  tol   : Word
  q     : List (List Nat)
  m     : List Word
  l     : List Word
  r     : List Word
  o     : List (List Word)
  pos   : Nat
  tries : Nat
  since : Nat
  deriving DecidableEq, Repr

/-- A counter of a CPROG (R317, R320). -/
structure LoopCounter where
  active : Bool
  value  : Nat
  count  : Nat
  start  : Nat
  deriving DecidableEq, Repr

/-- What a program still has to do before its next step (R319, R320, R322): read the counts of its channels as it starts, send bytes on, announce
slot `n` of a channel to a rank, have rows reserved, or count written rows. -/
inductive CollWait where
  | none
  | start
  | sendOn (bytes : List Byte)
  | tail (ch rank n : Nat)
  | reserve (pkg va : Nat)
  | rows (pkg va nr : Nat)
  deriving DecidableEq, Repr

/-- A CPROG under way (R317, R319): step index, peers, loop counters, SENT and TAKEN of the channels used so far, the steps
executed, the FULL outcomes, the transfers not yet acknowledged (number, package and step), the largest acknowledged t by
package, since when it waits, and the code and detail that it ends with. -/
structure CollState where
  step    : Nat
  q       : List Nat
  loops   : List LoopCounter
  chans   : List (Nat × Nat × Nat)
  steps   : Nat
  fulls   : Nat
  seq     : Nat
  unacked : List (Nat × Nat × Nat)
  ackT    : List (Nat × Nat)
  since   : Option Nat
  wait    : CollWait
  ending  : Option (Nat × Nat)
  deriving DecidableEq, Repr

/-- An ECC granule of a core's arrays (R385): a register, a uniform register of a frame, 32 bytes of a team's scratchpad or operand buffer,
or eight of its accumulator entries. -/
inductive Sram where
  | reg (team lrank i : Nat)
  | uni (team frame j : Nat)
  | scratch (team g : Nat)
  | opbuf (team g : Nat)
  | acc (team g : Nat)
  deriving DecidableEq, Repr

/-- An engine command (R262, R266): who sent it, its latched bytes and records, and where it stands. `units`
are the words performed so far (R382, R390), `fault` the detail of the translation fault that it waits on (R379), `mended` the bytes that
it has written in uncorrectable granules of HBM and `scrubbed` those in a core's arrays (R386), `outs` the results of a matrix command not yet
written (R281), and `early` the operand-buffer words that it has read while it is still to read others, by word number (R128). -/
structure Cmd where
  id       : Nat
  team     : Nat
  frame    : Nat
  lrank    : Nat
  die      : Nat
  core     : Nat
  cls      : Nat
  bytes    : List Byte
  recs     : List (Nat × List Byte)
  scales   : List (Nat × Word)
  state    : CmdState
  code     : Nat
  detail   : Nat
  count    : Nat
  tc       : Nat
  stBad    : Bool
  at_      : Nat
  consumed : Bool
  tagged   : Bool
  units    : List Nat
  fault    : Nat
  mended   : List Nat
  scrubbed : List (Sram × Nat)
  outs     : Option (List (Nat × Word))
  claimed  : Bool
  attn     : Option AttnState
  coll     : Option CollState
  notify   : Bool
  early    : Option (List (Nat × Word)) := none
  deriving DecidableEq, Repr

/-- The record of a failure whose packet has not ended (R362): the strength of its action, its context, its bytes as they were when it was
detected, and the status bits that it sets. -/
structure LateRec where
  strength : Nat
  ctx      : Nat
  bytes    : List Byte
  bits     : Word
  deriving DecidableEq, Repr

/-- The bundle that a course is issuing (R26, R160): its threads by launch rank, ascending in rank, the address and
words of its packet, control word first, and the slot that issues next. `acting` says that a word is issuing, `top` is the strength of the strongest failure that its packet met so
far, `recs` are the records of its failures, and `kept` says how its team stood before a translation fault of the packet (R362). -/
structure Bundle where
  team    : Nat
  frame   : Nat
  die     : Nat
  core    : Nat
  course  : Nat
  ranks   : List Nat
  pc      : BitVec 56
  words   : List Word
  slot    : Nat
  acting  : Bool := false
  top     : Nat := 0
  recs    : List LateRec := []
  kept    : Option (Standing × List (Nat × Nat) × Bool) := none
  deriving DecidableEq, Repr

/-- A private partial value of a RED page (R129): the die, the location, the width and the rop that made it. -/
structure Partial where
  die   : Nat
  pa    : Nat
  rop   : Nat
  width : Nat
  value : Dword
  deriving DecidableEq, Repr

/-- What the home keeps of a line (R107, R115, R116, R121): the latest lease end granted, the t of the latest write, and whether the
host's caches hold a copy over CXL.cache. -/
structure LineMeta where
  line  : Nat
  lease : Nat
  w     : Nat
  host  : Bool
  deriving DecidableEq, Repr

/-- A GTIME copy (R111, R387): its value at `since` and its rate, 0 half, 1 normal, 2 double, which a correction holds
for `span` units of the model's clock. -/
structure TimeBase where
  value : Nat
  since : Nat
  rate  : Nat
  span  : Nat
  deriving DecidableEq, Repr

/-- The clock of a core group (R354, R406): clocks counted at `since` (in sixteenths), the rate in sixteenths
of 1.9 GHz, its cap, and the sixteenths that a droop has taken. -/
structure GroupClock where
  die   : Nat
  group : Nat
  value : Nat
  since : Nat
  rate  : Nat
  cap   : Nat
  droop : Nat
  droopAt : Nat
  deriving DecidableEq, Repr

/-- An entry of the audit log (R352). -/
structure AuditEntry where
  seq    : Nat
  gtime  : Nat
  type   : Nat
  ctx    : Nat
  detail : List Byte
  link   : List Byte
  deriving DecidableEq, Repr

/-- The audit log unit: the entries, the driver's read mark, entries waiting for room, the LINK that the next
entry chains from, and whether it is frozen (R352, R407). -/
structure Audit where
  entries : List AuditEntry
  seq     : Nat
  mark    : Nat
  link    : List Byte
  pending : List AuditEntry
  frozen  : Bool
  deriving DecidableEq, Repr

/-- How far the start has come (R345, R401, R406): no power, failed (only ATTEST, LOGREAD and resets), waiting for a
reset, its supplies shed, waiting for FEATURE, running. -/
inductive StartPhase where
  | off
  | failed
  | dead
  | shed
  | negotiating
  | running
  deriving DecidableEq, Repr

/-- A release write that a device unit makes at physical addresses from `pa` on, once GTIME there reaches `after` + 2 (R127). -/
structure Release where
  pa    : Nat
  data  : List Byte
  after : Nat
  deriving DecidableEq, Repr

/-- A granule of a core in which an error is corrected (R385): of its arrays, or a sector of an L1 line or of a line of its instruction cache. -/
inductive Granule where
  | array (p : Sram)
  | l1 (line sector : Nat)
  | icache (line sector : Nat)
  deriving DecidableEq, Repr

/-- What befalls the device from outside its own agents: an error that is corrected in a granule of HBM or of a core, an uncorrectable one in an
array of a core, in an L1 line or in a line of an instruction cache (R385) or in the control state of a core (R405), a translation that the TLB
of a die, or of a core of it, drops (R97), a note that firmware appends to the audit log (R352), and bytes that the host writes in its own
memory, as the driver does in the management ring (R349). -/
inductive Outside where
  | corrected (pa : Nat)
  | correctedIn (die core : Nat) (g : Granule)
  | control (die core : Nat)
  | tlb (die : Nat) (core : Option Nat) (ctx wa : Nat)
  | sram (p : Sram)
  | l1 (die core line : Nat)
  | icache (die core line : Nat)
  | note (ctx : Nat) (detail : List Byte)
  | host (addr : Nat) (data : List Byte)
  deriving DecidableEq, Repr

/-- The device-wide registers and units on the bridge dies (R12, R345 to R356, R400 to R407). `stepping` is a debug
STEP under way: its team, launch rank and reply address (R377); `mark` says that the management command at the head
of the ring has begun, which one with which operands, and the number from which later operations are counted (R384); `releases` are release
writes of the device that wait for their time (R360, R373); `badSram` the granules of core arrays that are uncorrectable (R386), `corrected` the
times at which errors of a granule of HBM were corrected within the last hour, `correctedIn` those of a granule of a core, and `worn` the granules that raised CORR and are still to be
spared (R385, R400, R404); `clearing` lists the ranges
being zeroed, with the context that held each or 0xFFFF; `repairs` the cores that the management controller repairs of its
own accord, with whether a spare was left for each (R405). -/
structure Device where
  phase    : StartPhase
  meas     : List (BitVec 512)
  accept   : BitVec 128
  mring    : BitVec 64
  mlogn    : BitVec 64
  mtail    : BitVec 32
  mhead    : BitVec 32
  audit    : Audit
  ring     : Option Ring
  ovf      : Bool
  clearing : List (Nat × Nat × Nat)
  retiredCores : List (Nat × Nat)
  spares   : List Nat
  links    : List (Nat × Nat)
  retiredHbm : List Nat
  badGranules : List Nat
  trained  : Bool
  stepping : Option (Nat × Nat × Nat)
  mark     : Option (List Nat × Nat)
  repairs  : List (Nat × Nat × Bool)
  releases : List Release
  badSram  : List Sram
  corrected : List (Nat × List Nat)
  correctedIn : List ((Nat × Nat × Granule) × List Nat)
  worn     : List Nat
  deriving DecidableEq, Repr

/-- What the scheduler does next: clocks of 1.9 GHz that pass first, what befalls the device, which bundle in progress to go on with, and
the step. With no step the current bundle issues its next slot, or a bundle is chosen. -/
structure Act where
  clocks  : Nat
  outside : List Outside
  swap    : Option Nat
  what   : Option Instr
  deriving DecidableEq, Repr

/-- The whole device. `agenda` lists the coming steps of the device's agents and its surroundings, in order
(the model's own field); when it is empty, `place` is the course that comes to its issue next in this core clock, in the order of cores and
courses (the model's own field). `units` is the model's clock (Config), and `issues` counts the words that have begun to issue (the model's own
field). -/
structure State where
  units    : Nat
  place    : Nat
  issues   : Nat
  times    : List TimeBase
  clocks   : List GroupClock
  agenda   : List Act
  bundle   : Option Bundle
  others   : List Bundle
  nextId   : Nat
  contexts : List Context
  launches : List Launch
  teams    : List Team
  cores    : List Core
  dtlb     : List (Nat × TlbEntry)
  ops      : List Op
  cmds     : List Cmd
  mem      : Cells 8
  hostMem  : Cells 8
  lines    : List LineMeta
  partials : List Partial
  outbox   : List FabricMsg
  dev      : Device
  deriving DecidableEq, Repr

/-- Why the device cannot go on. -/
inductive Fault where
  /-- A slot of the bundle in progress holds no instruction. Raised by `step`; PACKET_ISSUE lets no such packet
  issue (R170), so no run reaches it. Safe: the model stops where the device has no such state. -/
  | slotNotDecoded
  deriving DecidableEq, Repr

/-- Why a step has no meaning. -/
inductive Refusal where
  /-- An instruction whose meaning has not been written; raised by its arm of `exec` alone. Safe. -/
  | notModelled (mnemonic : String)
  /-- The agenda names an instruction word, which only a bundle executes. Raised by `step`. Safe: such an
  agenda is no behaviour of the device. -/
  | notAnEvent
  deriving DecidableEq, Repr

/-- Eight measurement registers of zeros (R345). -/
def measReset : List (BitVec 512) := [0, 0, 0, 0, 0, 0, 0, 0]

/-- The bridge dies before the first start. -/
def Device.reset : Device where
  phase := .off
  meas := measReset
  accept := 0
  mring := 0
  mlogn := 0
  mtail := 0
  mhead := 0
  audit := { entries := [], seq := 0, mark := 0, link := [], pending := [], frozen := false }
  ring := none
  ovf := false
  clearing := []
  retiredCores := []
  spares := []
  links := []
  retiredHbm := []
  badGranules := []
  trained := false
  stepping := none
  mark := none
  repairs := []
  releases := []
  badSram := []
  corrected := []
  correctedIn := []
  worn := []

/-- The device as power reaches it: every array clear, no context, nothing in flight, every copy of the time
base at 0, and the start of R345 not yet run. -/
def State.reset : State where
  units := 0
  place := 0
  issues := 0
  times := []
  clocks := []
  agenda := []
  bundle := none
  others := []
  nextId := 0
  contexts := []
  launches := []
  teams := []
  cores := []
  dtlb := []
  ops := []
  cmds := []
  mem := []
  hostMem := []
  lines := []
  partials := []
  outbox := []
  dev := Device.reset

end Sys2Proof.Machine
end

