-- ==== Sys2Proof/Machine/Tables.lean ====
section
/-!
DEFINITION. Machine/Tables.lean: sparse tables of words, byte order, and updates of lists by key.
-/

namespace Sys2Proof.Machine

open Sys2Proof

/-- The entry of a table; an unlisted key reads as zero (R57, R101, R108). -/
def cget {w : Nat} (m : Cells w) (k : Nat) : BitVec w :=
  match m with
  | [] => 0
  | (j, x) :: t => if j = k then x else if k < j then 0 else cget t k

/-- What follows a key that is no longer listed; in a table whose keys do not rise after it, an entry of zero keeps the place, so that
reading any key gives the same whatever the table. -/
def cunlist {w : Nat} (k : Nat) (t : Cells w) : Cells w :=
  match t with
  | [] => []
  | (j, y) :: r => if k < j then (j, y) :: r else (k, 0) :: (j, y) :: r

/-- The table with one entry written; writing zero unlists the key. -/
def cput {w : Nat} (m : Cells w) (k : Nat) (x : BitVec w) : Cells w :=
  match m with
  | [] => if x = 0 then [] else [(k, x)]
  | (j, y) :: t =>
    if k < j then (if x = 0 then (j, y) :: t else (k, x) :: (j, y) :: t)
    else if k = j then (if x = 0 then cunlist k t else (k, x) :: t)
    else (j, y) :: cput t k x

/-- Keys above `lo` rise and no entry is zero. -/
def cwfFrom {w : Nat} (lo : Option Nat) (m : Cells w) : Bool :=
  match m with
  | [] => true
  | (k, x) :: t => (match lo with | none => true | some l => decide (l < k)) && decide (x ≠ 0) && cwfFrom (some k) t

/-- The canonical form of a table. -/
def Memory.wf {w : Nat} (m : Cells w) : Bool := cwfFrom none m

/-- The table without the keys that `p` names. -/
def cdrop {w : Nat} (p : Nat → Bool) (m : Cells w) : Cells w :=
  match m with
  | [] => []
  | (k, x) :: t => if p k then cunlist k (cdrop p t) else (k, x) :: cdrop p t

/-- The `n` bytes from `a` upwards. -/
def getBytes (m : Cells 8) (a n : Nat) : List Byte := (List.range n).map fun i => cget m (a + i)

/-- Bytes written from `a` upwards. -/
def putBytes (m : Cells 8) (a : Nat) (bs : List Byte) : Cells 8 :=
  match bs with
  | [] => m
  | b :: t => putBytes (cput m a b) (a + 1) t

/-- The bytes at listed places. -/
def getAt (m : Cells 8) (as : List Nat) : List Byte := as.map fun a => cget m a

/-- Bytes written at listed places. -/
def putAt (m : Cells 8) (as : List Nat) (bs : List Byte) : Cells 8 :=
  match as, bs with
  | a :: as', b :: bs' => putAt (cput m a b) as' bs'
  | _, _ => m

/-- Little-endian value of bytes (R5). -/
def leNat (bs : List Byte) : Nat :=
  match bs with
  | [] => 0
  | b :: t => b.toNat + 256 * leNat t

/-- The `n` low bytes of a value, least significant first (R5). -/
def toLe (n x : Nat) : List Byte :=
  match n with
  | 0 => []
  | n + 1 => BitVec.ofNat 8 x :: toLe n (x / 256)

/-- A little-endian field of `n` bytes at `off` in a record; bytes beyond the record read as zero. -/
def fieldLe (bs : List Byte) (off n : Nat) : Nat := leNat ((bs.drop off).take n)

/-- A record of `n` zero bytes. -/
def zeroBytes (n : Nat) : List Byte := List.replicate n 0

/-- A record with a field of `n` bytes set. -/
def setLe (bs : List Byte) (off n x : Nat) : List Byte := bs.take off ++ toLe n x ++ bs.drop (off + n)

/-- Register words from bytes, least significant word first. -/
def wordsOf (bs : List Byte) : List Word :=
  match bs with
  | a :: b :: c :: d :: t => BitVec.ofNat 32 (leNat [a, b, c, d]) :: wordsOf t
  | [] => []
  | rest => [BitVec.ofNat 32 (leNat rest)]

/-- Bytes of words. -/
def bytesOf (ws : List Word) : List Byte := ws.flatMap fun w => toLe 4 w.toNat

/-- Replaces the element at an index. -/
def setAt {α : Type} (l : List α) (i : Nat) (f : α → α) : List α :=
  match l, i with
  | [], _ => []
  | x :: t, 0 => f x :: t
  | x :: t, i + 1 => x :: setAt t i f

/-- Applies `f` to the elements that `p` names. -/
def mapIf {α : Type} (p : α → Bool) (f : α → α) (l : List α) : List α := l.map fun x => if p x then f x else x

/-- The largest of a list, at least `d`. -/
def maxOf (d : Nat) (l : List Nat) : Nat := l.foldl Nat.max d

/-- Inserts into a list kept ascending by `key`, after equals. -/
def insertBy {α : Type} (le : α → α → Bool) (x : α) (l : List α) : List α :=
  match l with
  | [] => [x]
  | y :: t => if le y x then y :: insertBy le x t else x :: y :: t

/-- Insertion sort, stable. -/
def sortBy {α : Type} (le : α → α → Bool) (l : List α) : List α := l.foldl (fun acc x => insertBy le x acc) []

/-- Applies `f` to the state once per element. -/
def forAll {σ α : Type} (l : List α) (s : σ) (f : σ → α → σ) : σ := l.foldl f s

end Sys2Proof.Machine
end

