-- ==== Sys2Proof/Machine/Lookup.lean ====
section
/-!
DEFINITION. Machine/Lookup.lean: finding and replacing the parts of the state, the clocks, and the registers as
a thread reads and writes them (R23 to R29, R45, R56 to R67).
-/

namespace Sys2Proof.Machine

open Sys2Proof

/-! ## Parts -/

def State.team? (s : State) (id : Nat) : Option Team := s.teams.find? fun t => t.id == id
def State.modTeam (s : State) (id : Nat) (f : Team → Team) : State :=
  { s with teams := mapIf (fun t => t.id == id) f s.teams }
def Team.thread? (t : Team) (r : Nat) : Option Thread := t.threads.find? fun h => h.lrank == r
def Team.modThread (t : Team) (r : Nat) (f : Thread → Thread) : Team :=
  { t with threads := mapIf (fun h => h.lrank == r) f t.threads }
def State.modThread (s : State) (id r : Nat) (f : Thread → Thread) : State := s.modTeam id fun t => t.modThread r f
def State.thread? (s : State) (id r : Nat) : Option Thread := (s.team? id).bind fun t => t.thread? r
def Team.modFrame (t : Team) (i : Nat) (f : Frame → Frame) : Team := { t with frames := setAt t.frames i f }
def State.modFrame (s : State) (id i : Nat) (f : Frame → Frame) : State := s.modTeam id fun t => t.modFrame i f

/-- A frame in which nothing has happened. -/
def Frame.empty : Frame :=
  { parent := none, depth := 0, callee := 0, nrank := 0, status := .gone, uni := [], gran := 0, rmask := 0, wrote := 0,
    resume := 0, cnt := ⟨0, 0, 0, 0, 0, 0⟩, tcs := [0, 0, 0, 0, 0], bars := [], tcOps := (0, 0, false, 0), call := none, callH := 0, exitH := 0,
    cmdH := 0 }

def Team.frame (t : Team) (i : Nat) : Frame := t.frames.getD i Frame.empty

def State.ctx? (s : State) (c : Nat) : Option Context := s.contexts.find? fun x => x.num == c
def State.modCtx (s : State) (c : Nat) (f : Context → Context) : State :=
  { s with contexts := mapIf (fun x => x.num == c) f s.contexts }
def State.launch? (s : State) (l : Nat) : Option Launch := s.launches.find? fun x => x.id == l
def State.modLaunch (s : State) (l : Nat) (f : Launch → Launch) : State :=
  { s with launches := mapIf (fun x => x.id == l) f s.launches }
def State.core? (s : State) (d n : Nat) : Option Core := s.cores.find? fun c => c.die == d && c.num == n
def State.modCore (s : State) (d n : Nat) (f : Core → Core) : State :=
  { s with cores := mapIf (fun c => c.die == d && c.num == n) f s.cores }
def State.op? (s : State) (k : Nat) : Option Op := s.ops.find? fun o => o.id == k
def State.setBody (s : State) (k : Nat) (b : OpBody) : State :=
  { s with ops := mapIf (fun o => o.id == k) (fun o => { o with body := b }) s.ops }
def State.cmd? (s : State) (k : Nat) : Option Cmd := s.cmds.find? fun c => c.id == k
def State.modCmd (s : State) (k : Nat) (f : Cmd → Cmd) : State :=
  { s with cmds := mapIf (fun c => c.id == k) f s.cmds }

/-- The launch descriptor of a team. -/
def State.desc? (s : State) (t : Team) : Option Desc := (s.launch? t.launch).map (·.desc)

/-- Whether a launch is deterministic. -/
def State.isDet (s : State) (t : Team) : Bool := match s.desc? t with | some d => d.det | none => false

/-- A fresh number. -/
def State.fresh (s : State) : State × Nat := ({ s with nextId := s.nextId + 1 }, s.nextId)

/-! ## Time (R6, R111, R354) -/

/-- Half steps per tick of a copy of the time base: 1 at half rate, 2 at normal, 4 at double. -/
def rateNum (r : Nat) : Nat := match r with | 0 => 1 | 1 => 2 | _ => 4

/-- The value of a copy of the time base: at its rate while its correction lasts, then at one tick per tick. -/
def TimeBase.now (b : TimeBase) (units : Nat) : Nat :=
  let gone := units - b.since
  let held := if b.rate = 1 then gone else min gone b.span
  b.value + (held * rateNum b.rate + 2 * (gone - held)) / (2 * Config.unitsPerTick)

/-- GTIME as a die reads it; dies 8 and 9 are the bridge dies. -/
def State.gtime (s : State) (die : Nat) : Nat := match s.times[die]? with | some b => b.now s.units | none => 0

/-- The core group of a core: its 4 × 4 block of the mesh (R354, R13). -/
def coreGroup (num : Nat) : Nat := num / 64 * 4 + num % 16 / 4

def State.group? (s : State) (die g : Nat) : Option GroupClock := s.clocks.find? fun c => c.die == die && c.group == g

/-- Core clocks that a group has counted. -/
def GroupClock.now (c : GroupClock) (units : Nat) : Nat :=
  c.value + (units - c.since) * c.rate / (16 * Config.unitsPerClock)

def State.clock (s : State) (die core : Nat) : Nat :=
  match s.group? die (coreGroup core) with | some c => c.now s.units | none => 0

/-! ## Registers -/

/-- A vector register; none has been written where the table lists none (R57). -/
def Thread.rd (t : Thread) (i : Nat) : Word := cget t.v i

/-- A predicate as read, p7 as 1 (R61). -/
def predOf (ps : BitVec 8) (p : Nat) : Bool := if p = 7 then true else ps.getLsbD p

/-- The low and high register of a pair as one value (R58). -/
def pairOf (lo hi : Word) : Dword := hi ++ lo

/-- A view's register, pair, predicate and 56-bit address pair (R58, R91). -/
def View.rd (w : View) (i : Nat) : Word := cget w.v i
def View.pair (w : View) (i : Nat) : Dword := pairOf (w.rd i) (w.rd (i + 1))
def View.pred (w : View) (p : Nat) : Bool := predOf w.preds p
def View.addr (w : View) (i : Nat) : Nat := (w.pair i).toNat % 2 ^ 56
def View.u (w : View) (j : Nat) : Word := cget w.uni j
def View.upair (w : View) (j : Nat) : Dword := pairOf (w.u j) (w.u (j + 1))
def View.uaddr (w : View) (j : Nat) : Nat := (w.upair j).toNat % 2 ^ 56

/-- A predicate written; p7 discards (R61). -/
def setPred (ps : BitVec 8) (p : Nat) (b : Bool) : BitVec 8 :=
  if 7 ≤ p then ps else (ps &&& ~~~(1#8 <<< p)) ||| (if b then 1#8 <<< p else 0#8)

/-- One write of an instruction (R67). -/
def Thread.write (t : Thread) (w : Wr) : Thread :=
  match w with
  | .reg i x => { t with v := cput t.v i x }
  | .half0 i x => { t with v := cput t.v i ((cget t.v i).extractLsb' 16 16 ++ x) }
  | .half1 i x => { t with v := cput t.v i (x ++ (cget t.v i).extractLsb' 0 16) }
  | .pred p b => { t with preds := setPred t.preds p b }

/-- The writes of an instruction, in order. -/
def Thread.writes (t : Thread) (ws : List Wr) : Thread := ws.foldl Thread.write t

/-- A 64-bit result, to both registers of a pair (R67). -/
def wrPair (i : Nat) (x : Dword) : List Wr := [.reg i (x.extractLsb' 0 32), .reg (i + 1) (x.extractLsb' 32 32)]

/-! ## The uniform file and its forks (R45) -/

/-- The frame that holds granule `g` for frame `i`: itself, or the nearest ancestor whose fork does. -/
def Team.holder (t : Team) : Nat → Nat → Nat → Nat
  | 0, i, _ => i
  | n + 1, i, g =>
    let f := t.frame i
    if f.gran.getLsbD g then i else match f.parent with | some p => t.holder n p g | none => i

/-- Uniform register `j` as frame `i` reads it. -/
def Team.uget (t : Team) (i j : Nat) : Word := cget (t.frame (t.holder 8 i (j / 16))).uni j

/-- The whole file as frame `i` reads it. -/
def Team.uniform (t : Team) (i : Nat) : Cells 32 :=
  let f := t.frame i
  match f.parent with
  | none => f.uni
  | some _ => (List.range 256).foldl (fun u j => cput u j (t.uget i j)) []

/-- A uniform write in frame `i`: the first write to a granule copies it into the fork (R45), and the frame
has then written the register (R53). -/
def Team.uput (t : Team) (i j : Nat) (x : Word) : Team :=
  let f := t.frame i
  let g := j / 16
  let own := if f.gran.getLsbD g then f.uni
    else (List.range 16).foldl (fun u k => cput u (16 * g + k) (t.uget i (16 * g + k))) f.uni
  t.modFrame i fun f =>
    { f with
      uni := cput own j x
      gran := f.gran ||| (1#16 <<< g)
      wrote := if j < 32 then f.wrote ||| (1#32 <<< j) else f.wrote }

/-- What a thread's word reads now. -/
def Team.viewOf (t : Team) (h : Thread) : View :=
  { v := h.v, preds := h.preds, prec := h.prec, mode := h.prec, fh := h.fh, rh := h.rh, akey := h.akey, uni := t.uniform h.frame }

/-- What a thread's word reads: the view kept from before the first word of its chained pair, or the present; the present PREC governs
either word (R64, R160). -/
def Team.view (t : Team) (h : Thread) : View := match h.snap with | some w => { w with mode := h.prec } | none => t.viewOf h

/-! ## Threads of a frame -/

/-- The frames from `i` up to the launch frame. -/
def Team.ancestors (t : Team) : Nat → Nat → List Nat
  | 0, i => [i]
  | n + 1, i => match (t.frame i).parent with | some p => i :: t.ancestors n p | none => [i]

/-- Whether a thread belongs to frame `i` or to a frame below it. -/
def Team.within (t : Team) (i : Nat) (h : Thread) : Bool := (t.ancestors 8 h.frame).contains i

/-- The living threads whose current frame is `i` (R24). -/
def Team.living (t : Team) (i : Nat) : List Thread := t.threads.filter fun h => h.frame == i && !h.exited

/-- The living threads of frame `i` or of a frame below it: those that its barriers wait for, a call's with them (R47, R190, R191). -/
def Team.members (t : Team) (i : Nat) : List Thread := t.threads.filter fun h => t.within i h && !h.exited

/-- Where a thread waits in a rendezvous: a stopped thread whose release is held waits in none (R376). -/
def Thread.waitsAt (h : Thread) : Park := if h.due.isSome then .none else h.park

/-- The group of a thread in its current frame (R24). -/
def Thread.group (h : Thread) : Nat := h.rank / 32

/-- Whether any counter of a frame is above zero. -/
def Counters.none (c : Counters) : Bool := c.copy == 0 && c.matC == 0 && c.matO == 0 && c.attn == 0 && c.coll == 0 && c.launch == 0

/-- Whether a thread has an operation in flight. -/
def State.busy (s : State) (team r : Nat) : Bool := s.ops.any fun o => o.team == team && o.lrank == r

/-- A thread whose next packet an unfinished operation holds back (R158, R409). -/
def State.held (s : State) (team r : Nat) : Bool := s.ops.any fun o => o.team == team && o.lrank == r && o.hold != .none

/-- A thread for which one holds back the slot after its chained pair as well (R409). -/
def State.slotHeld (s : State) (team r : Nat) : Bool := s.ops.any fun o => o.team == team && o.lrank == r && o.hold == .slot

end Sys2Proof.Machine
end

