-- ==== Sys2Proof/Machine/Memory.lean ====
section
/-!
DEFINITION. Machine/Memory.lean: addresses and translation (R91 to R98), the homes with their write times, leases
and partial values (R107, R115, R116, R129), the L1 (R103, R104, R408), and accesses by the place they reach.
-/

namespace Sys2Proof.Machine

open Sys2Proof

/-! ## Physical addresses (R98) -/

def hbmSize : Nat := 576000000000

/-- The die that attaches a stack. -/
def stackDie (k : Nat) : Nat := [0, 0, 1, 2, 3, 3, 4, 4, 5, 6, 7, 7].getD k 0

/-- The home die of a physical address. -/
def homeDie (pa : Nat) : Nat := stackDie (pa / 4096 % 12)

/-- The 128-byte line of a physical address (R103). -/
def lineOf (pa : Nat) : Nat := pa / 128

/-- Whether a read of these bytes meets an uncorrectable or retired granule (R386, R404). -/
def State.poisoned (s : State) (pas : List Nat) : Bool :=
  pas.any fun a => s.dev.badGranules.contains (a / 32) || s.dev.retiredHbm.contains (a / 65536)

/-- A write that covers a whole granule makes it readable again; a narrower one does not (R386). -/
def State.cure (s : State) (pas : List Nat) : State :=
  { s with dev := { s.dev with
      badGranules := s.dev.badGranules.filter fun g => !(List.range 32).all fun i => pas.contains (32 * g + i) } }

/-! ## Translation (R93 to R99) -/

/-- Whether `n` bytes from `a` lie in a context's window (R94). -/
def Context.inWindow (c : Context) (a n : Nat) : Bool := decide (c.heapBase ≤ a ∧ a + n ≤ c.heapBase + c.heapLim)

/-- The window address (R94). -/
def Context.windowAddr (c : Context) (a : Nat) : Nat := (a + c.heapOff) % 2 ^ 48

/-- How far a list of ranges reaches without a gap from an address on, through at most `k` of them. -/
def reachOf (rs : List (Nat × Nat)) : Nat → Nat → Nat
  | 0, pa => pa
  | k + 1, pa => match rs.find? fun r => decide (r.1 ≤ pa ∧ pa < r.1 + r.2) with | some r => reachOf rs k (r.1 + r.2) | none => pa

/-- Whether `n` bytes of HBM from `pa` lie in a context's ranges, taken together (R350; log entry 26). -/
def Context.owns (c : Context) (pa n : Nat) : Bool := decide (pa + n ≤ reachOf c.ranges c.ranges.length pa)

/-- A translation, a fault with its detail (R379), or a data error in a table (R386). -/
inductive Xl where
  | ok (e : TlbEntry)
  | fault (detail : Nat)
  | data
  deriving DecidableEq, Repr

/-- The attributes of a leaf entry (R96). -/
def attrOf (e : Nat) : PageAttr :=
  { scope := e / 64 % 8, red := e / 512 % 2 == 1, bow := e / 1024 % 2 == 1, w := e / 32 % 2 == 1, x := e / 16 % 2 == 1 }

/-- The kind and level bits of a fault detail (R379). -/
def xlDetail (perm : Bool) (lvl kind : Nat) : Nat := (if perm then 32 else 0) + 4 * lvl + kind

/-- Whether an entry is rejected at its level before its leaf is used (R96). -/
def entryBad (lvl e : Nat) : Bool :=
  e % 2 == 0 || e / 2 ^ 48 != 0 || e / 2 ^ 11 % 32 != 0 || e / 4 % 4 != 0
    || (lvl == 1 && e / 2 % 2 == 1) || (lvl == 3 && e / 2 % 2 == 0)

/-- Whether a leaf is rejected: a reserved scope, a 32 MiB page out of line, or a scope or RED bit that the
driver has not accepted (R96, R348). -/
def leafBad (accept : BitVec 128) (lvl e : Nat) : Bool :=
  let a := attrOf e
  decide (5 ≤ a.scope) || (lvl == 2 && e / 2 ^ 16 % 512 != 0)
    || (a.scope == 4 && !accept.getLsbD 3) || (a.red && !accept.getLsbD 7)

/-- The walk of R95 from the table at `tab` of level `lvl`, with `n` levels to go. A level-2 table whose pointer is not a multiple of its
128 KiB is read from where it points (log entry 69). -/
def State.walk (s : State) (c : Context) (wa kind : Nat) : Nat → Nat → Nat → Xl
  | 0, lvl, _ => .fault (xlDetail false lvl kind)
  | n + 1, lvl, tab =>
    let idx := if lvl = 1 then wa / 2 ^ 39 % 512 else if lvl = 2 then wa / 2 ^ 25 % 2 ^ 14 else wa / 2 ^ 16 % 512
    let at_ := tab + 8 * idx
    if s.poisoned ((List.range 8).map (at_ + ·)) then .data else
    let e := leNat (getBytes s.mem at_ 8)
    let addr := e / 2 ^ 16 % 2 ^ 32 * 2 ^ 16
    if entryBad lvl e then .fault (xlDetail false lvl kind)
    else if e / 2 % 2 = 1 then
      let size := if lvl = 2 then 2 ^ 25 else 2 ^ 16
      if leafBad s.dev.accept lvl e then .fault (xlDetail false lvl kind)
      else if hbmSize < addr + size then .fault (xlDetail false 0 kind)
      else if !c.owns addr size then .fault (xlDetail false lvl kind)
      else .ok { ctx := c.num, wa := wa / size * size, pa := addr, size := size, attr := attrOf e }
    else
      let size := if lvl = 1 then 2 ^ 17 else 2 ^ 12
      if hbmSize < addr + size then .fault (xlDetail false 0 kind)
      else if !c.owns addr size then .fault (xlDetail false lvl kind)
      else s.walk c wa kind n (lvl + 1) addr

/-- Whether a TLB entry covers a window address of a context. -/
def TlbEntry.covers (e : TlbEntry) (ctx wa : Nat) : Bool := e.ctx == ctx && decide (e.wa ≤ wa ∧ wa < e.wa + e.size)

/-- Entries of the TLBs (R97); the oldest makes room. -/
def tlbRoom : Nat := 64
def dieTlbRoom : Nat := 8192

/-- A translation put into the TLB of a die and of a core. -/
def State.fillTlb (s : State) (die : Nat) (core : Option Nat) (e : TlbEntry) : State :=
  let full := decide (dieTlbRoom ≤ (s.dtlb.filter fun x => x.1 == die).length)
  let kept := if full then s.dtlb.eraseP fun x => x.1 == die else s.dtlb
  let s := if s.dtlb.any (fun x => x.1 == die && x.2 == e) then s else { s with dtlb := kept ++ [(die, e)] }
  match core with
  | none => s
  | some n => s.modCore die n fun c =>
    if c.tlb.contains e then c else { c with tlb := c.tlb.drop (c.tlb.length + 1 - tlbRoom) ++ [e] }

/-- The translation of a window address: core TLB, die TLB, walk (R97). An entry that a TLB holds is used as it is; a TLB may drop one at any
time (`Outside.tlb`), after which the table's present entry is found. -/
def State.translate (s : State) (die : Nat) (core : Option Nat) (c : Context) (wa kind : Nat) : State × Xl :=
  let own : Option TlbEntry := match core with
    | none => none
    | some n => (s.core? die n).bind fun k => k.tlb.find? fun e : TlbEntry => e.covers c.num wa
  match own with
  | some e => (s, .ok e)
  | none =>
    match s.dtlb.find? (fun x : Nat × TlbEntry => x.1 == die && x.2.covers c.num wa) with
    | some (_, e) => (s.fillTlb die core e, .ok e)
    | none =>
      match s.walk c wa kind 3 1 c.ptBase with
      | .ok e => (s.fillTlb die core e, .ok e)
      | r => (s, r)

/-- What a global address of a context comes to: its physical address and page, or why not. -/
inductive Res where
  | ok (a : Access)
  /-- a class 0x0202 fault with its sub-cause (R383) -/
  | bad (sub va : Nat)
  /-- a translation fault with its detail (R379) -/
  | xlate (va detail : Nat)
  /-- a data error in a page table (R386) -/
  | data (va : Nat)
  /-- an uncorrectable granule at the place itself (R386) -/
  | poison (va : Nat)
  deriving DecidableEq, Repr

/-- An access kind asks for W or X (R96); 0 read, 1 write, atomic or RED, 2 fetch. -/
def PageAttr.allows (a : PageAttr) (need : Nat) : Bool := match need with | 0 => true | 1 => a.w | _ => a.x

/-- The physical address of `n` bytes within one page; `need` is what the access does and `kind` what its fault
record calls it (R379). -/
def State.global (s : State) (die : Nat) (core : Option Nat) (c : Context) (a n need kind : Nat) : State × Res :=
  if !c.inWindow a n then (s, .bad 1 a) else
  let wa := c.windowAddr a
  match s.translate die core c wa kind with
  | (s, .ok e) =>
    if e.attr.allows need then
      (s, .ok { space := .hbm, bytes := (List.range n).map fun i => e.pa + (wa - e.wa) + i, va := a, attr := e.attr })
    else (s, .xlate a (xlDetail true (if e.size = 65536 then 3 else 2) kind))
  | (s, .fault d) => (s, .xlate a d)
  | (s, .data) => (s, .data a)

/-- Page attributes where none applies (R92). -/
def noAttr : PageAttr := { scope := 0, red := false, bow := false, w := true, x := false }

/-- The scratchpad bytes of a team's allocation (R92). -/
def State.scratchSize (s : State) (t : Team) : Nat := match s.desc? t with | some d => d.sak * 1024 | none => 0

/-- The teams of a cluster are as many as its shape holds (R31). -/
def State.clusterSize (s : State) (t : Team) : Nat := match s.desc? t with | some d => d.shapeW * d.shapeH | none => 1

/-- The team at a position of a team's cluster, unless it has ended (R32, R92). -/
def State.mate? (s : State) (t : Team) (q : Nat) : Option Team :=
  s.teams.find? fun x => x.launch == t.launch && x.cluster == t.cluster && x.pos == q && x.standing != .ended

/-- A local address (R92). `win` says whether the access may reach a command window (R383, R261). -/
def State.localRes (s : State) (t : Team) (a n : Nat) (win : Bool) : Res :=
  let off := a % 2 ^ 48
  let top := off / 2 ^ 32
  let o := off % 2 ^ 32
  let sa := s.scratchSize t
  if top = 0 then
    if o + n ≤ sa then .ok { space := .scratch t.id, bytes := (List.range n).map (o + ·), va := a, attr := noAttr }
    else .bad 2 a
  else if top = 1 then
    let q := o / 2 ^ 20
    let p := o % 2 ^ 20
    if p + n ≤ sa ∧ q < 12 ∧ q < s.clusterSize t then
      match s.mate? t q with
      | some m => .ok { space := .scratch m.id, bytes := (List.range n).map (p + ·), va := a, attr := { noAttr with scope := 1 } }
      | none => .bad 2 a
    else .bad 2 a
  else if top = 2 then
    let k := o / 256
    let p := o % 256
    if win ∧ k ≤ 4 ∧ p + n ≤ 0x48 then
      .ok { space := .window t.id k, bytes := (List.range n).map (p + ·), va := a, attr := noAttr }
    else .bad 2 a
  else .bad 2 a

/-- Whether an address is local (R91). -/
def isLocal (a : Nat) : Bool := a / 2 ^ 48 % 256 == 255

/-- Where `n` bytes at an address are (R91 to R96), for an access of a team on its own core; `n` bytes that do
not start at a multiple of `n` are misaligned (R237). -/
def State.resolve (s : State) (t : Team) (a n need : Nat) (win : Bool) : State × Res :=
  let a := a % 2 ^ 56
  if a % n ≠ 0 then (s, .bad 3 a)
  else if isLocal a then (s, s.localRes t a n win)
  else match s.ctx? t.ctx with
    | some c => s.global t.die (some t.core) c a n need need
    | none => (s, .bad 1 a)

/-- The words of an XF element, each with its own place and page, or the failure of the first word that fails (R249). -/
inductive Words where
  | ok (as : List Access)
  | fail (r : Res)
  deriving DecidableEq, Repr

/-- An XF element of `k` words, each resolved by itself (R249). -/
def State.resolveWords (s : State) (t : Team) (a : Nat) (need : Nat) : Nat → State × Words
  | 0 => (s, .ok [])
  | k + 1 =>
    match s.resolve t a 4 need false with
    | (s, .ok x) =>
      match s.resolveWords t (a + 4) need k with
      | (s, .ok xs) => (s, .ok (x :: xs))
      | r => r
    | (s, r) => (s, .fail r)

/-- Whether an XF element of `n` words is atomic as a whole (R114). -/
def wholeElement (va n : Nat) : Bool := decide (n ≤ 4 ∧ va % 16 = 0)

/-- Accesses to consecutive bytes of one page as one access. -/
def Access.joined (a : Access) (as : List Access) : Access := { a with bytes := (a :: as).flatMap (·.bytes) }

/-! ## Homes (R107, R115, R116, R129) -/

def State.lineMeta (s : State) (l : Nat) : LineMeta :=
  match s.lines.find? (fun m => m.line == l) with | some m => m | none => { line := l, lease := 0, w := 0, host := false }

def State.setLine (s : State) (m : LineMeta) : State :=
  { s with lines := m :: s.lines.filter fun x => x.line != m.line }

/-- The combination of a RED (R245, R129). -/
def redCombine (rop : Nat) (x y : Dword) : Dword :=
  let a := x.extractLsb' 0 32
  let b := y.extractLsb' 0 32
  let w : Word → Dword := fun r => r.zeroExtend 64
  match rop with
  | 0 => w (a + b)
  | 1 => w (if a.slt b then a else b)
  | 2 => w (if a.slt b then b else a)
  | 3 => w (if a.ult b then a else b)
  | 4 => w (if a.ult b then b else a)
  | 5 => x + y
  | 6 => if x.ult y then x else y
  | 7 => if x.ult y then y else x
  | 8 => w (encF32 ((decF32 a).add .rne (decF32 b)))
  | 9 => w (encF32 ((decF32 a).min (decF32 b)))
  | _ => w (encF32 ((decF32 a).max (decF32 b)))

/-- The bytes that a RED's operand covers. -/
def redWidth (rop : Nat) : Nat := if 5 ≤ rop ∧ rop ≤ 7 then 8 else 4

/-- The t of a write performed at the home of `pa` (R116). -/
def State.writeTime (s : State) (pa : Nat) : Nat := max (s.gtime (homeDie pa)) (s.lineMeta (lineOf pa)).lease + 1

/-- Bytes written at their homes: `time` gives by address the t of the write to its line, and a host copy of the line is recalled, unless
the host itself writes (`host`, R121). -/
def State.putHome (s : State) (pas : List Nat) (data : List Byte) (host : Bool) (time : Nat → Nat) : State :=
  let s := s.cure pas
  let s := { s with mem := putAt s.mem pas data }
  pas.foldl (fun s a =>
    let m := s.lineMeta (lineOf a)
    if m.w = time a ∧ m.host = host then s else s.setLine { m with w := max m.w (time a), host := host }) s

/-- The largest t over the lines that a write touches. -/
def State.writeTimes (s : State) (pas : List Nat) : Nat := maxOf 0 (pas.map s.writeTime)

/-- One die's partial combined into the home value (R129). -/
def State.mergeOne (s : State) (p : Partial) : State :=
  let pas := (List.range p.width).map (p.pa + ·)
  let old := BitVec.ofNat 64 (leNat (getAt s.mem pas))
  s.putHome pas (toLe p.width (redCombine p.rop old p.value).toNat) false s.writeTime

def Partial.touches (p : Partial) (pas : List Nat) : Bool := pas.any fun a => decide (p.pa ≤ a ∧ a < p.pa + p.width)

/-- The merge that an ordinary access to these bytes causes first, in ascending die order (R129). -/
def State.merge (s : State) (pas : List Nat) : State :=
  let hit := sortBy (fun x y => decide (x.die ≤ y.die)) (s.partials.filter fun p => p.touches pas)
  if hit.isEmpty then s
  else hit.foldl State.mergeOne { s with partials := s.partials.filter fun p => !p.touches pas }

/-- Whether a RED meets a partial value of another location, width or rop, which makes the home merge first (R129). -/
def State.redMerges (s : State) (rop pa : Nat) : Bool :=
  let width := redWidth rop
  s.partials.any fun p => p.touches ((List.range width).map (pa + ·)) && !(p.pa == pa && p.width == width && p.rop == rop)

/-- A RED in the L2 of the issuing die (R129); the answer's number is its t. -/
def State.redAtDie (s : State) (die rop pa : Nat) (x : Dword) : State × Nat :=
  let width := redWidth rop
  let pas := (List.range width).map (pa + ·)
  let s := if s.redMerges rop pa then s.merge (pas ++ (s.partials.filter fun p => p.touches pas).flatMap fun p =>
      (List.range p.width).map (p.pa + ·)) else s
  let s := if s.partials.any fun p => p.die == die && p.pa == pa then
      { s with partials := mapIf (fun p => p.die == die && p.pa == pa) (fun p => { p with value := redCombine rop p.value x }) s.partials }
    else { s with partials := s.partials ++ [{ die := die, pa := pa, rop := rop, width := width, value := x }] }
  (s, s.gtime die + 1)

/-- A read at the home: the merge, then the bytes and the largest write time of their lines. -/
def State.readHome (s : State) (pas : List Nat) : State × List Byte × Nat :=
  let s := s.merge pas
  (s, getAt s.mem pas, maxOf 0 (pas.map fun a => (s.lineMeta (lineOf a)).w))

/-- A write at the home: the merge, then the bytes, as a write of its own t to each line (R116); the number is the largest t. -/
def State.writeHome (s : State) (pas : List Nat) (data : List Byte) : State × Nat :=
  let s := s.merge pas
  (s.putHome pas data false s.writeTime, s.writeTimes pas)

/-! ## Accesses by space -/

/-- The bytes of an access, from where it reaches, with w (R116, R241, R261). -/
def State.readSpace (s : State) (a : Access) : State × List Byte × Nat :=
  match a.space with
  | .hbm => s.readHome a.bytes
  | .scratch id =>
    match s.team? id with
    | some t => (s, getAt t.scratch a.bytes, s.gtime t.die + 1)
    | none => (s, a.bytes.map fun _ => 0, 0)
  | .window id c =>
    match s.team? id with
    | some t => (s, getAt t.win (a.bytes.map (256 * c + ·)), s.gtime t.die + 1)
    | none => (s, a.bytes.map fun _ => 0, 0)

/-- Bytes written to where an access reaches, with t (R116); a window keeps its first 64 bytes alone (R261). -/
def State.writeSpace (s : State) (a : Access) (data : List Byte) : State × Nat :=
  match a.space with
  | .hbm => s.writeHome a.bytes data
  | .scratch id =>
    (s.modTeam id fun t => { t with scratch := putAt t.scratch a.bytes data },
      match s.team? id with | some t => s.gtime t.die + 1 | none => 0)
  | .window id c =>
    let put := fun (t : Team) => if a.bytes.headD 0 < 0x40 then { t with win := putAt t.win (a.bytes.map (256 * c + ·)) data } else t
    (s.modTeam id put,
      match s.team? id with | some t => s.gtime t.die + 1 | none => 0)

/-! ## L1 (R103, R104, R115, R117, R408) -/

/-- Whether pages of these attributes are held in L1 (R99, R104). -/
def PageAttr.cached (a : PageAttr) : Bool := decide (a.scope ≤ 3) && !a.red

/-- The lease length of a scope in a context (R115). -/
def Context.leaseLen (c : Context) (scope : Nat) : Nat :=
  match scope with | 1 => 2 ^ c.lcl | 2 => 2 ^ c.ldie | _ => 2 ^ c.lpkg

def State.leaseLen (s : State) (ctx scope : Nat) : Nat := match s.ctx? ctx with | some c => c.leaseLen scope | none => 0

/-- Whether a lease still runs at time `g`; CORE-scope lines have none. -/
def leaseRuns (l : Option Nat) (g : Nat) : Bool := match l with | none => true | some e => decide (g < e)

/-- Whether a store finds a line: under its lease, or allocated by a store whose reply is still to come (R104, R115). -/
def L1Line.present (l : L1Line) (g : Nat) : Bool := leaseRuns l.lease g || l.lease == some 0

/-- The copy of a line that a load may use: present, under its lease, and stamped no lower than RH (R115, R117). -/
def Core.copy? (c : Core) (line g rh : Nat) : Option L1Line :=
  c.l1.find? fun l => l.line == line && leaseRuns l.lease g && decide (rh ≤ l.stamp)

/-- The word of a line copy. -/
def L1Line.word? (l : L1Line) (i : Nat) : Option Word := (l.words.find? fun e => e.1 == i).map (·.2)

/-- The byte of a line copy. -/
def L1Line.byte? (l : L1Line) (pa : Nat) : Option Byte :=
  (l.word? (pa / 4 % 32)).map fun w => BitVec.ofNat 8 (w.toNat / 256 ^ (pa % 4))

def L1Line.setWord (l : L1Line) (i : Nat) (w : Word) : L1Line := { l with words := (i, w) :: l.words.filter fun e => e.1 != i }

/-- The byte of a word replaced. -/
def setByte (w : Word) (i : Nat) (b : Byte) : Word := BitVec.ofNat 32 (leNat (setLe (toLe 4 w.toNat) i 1 b.toNat))

/-- One stored byte put into a line: into a valid word, or, for a whole word, making the word valid (R237). -/
def L1Line.store (l : L1Line) (wide : Bool) (pa : Nat) (b : Byte) : L1Line :=
  let i := pa / 4 % 32
  match l.word? i with
  | some w => l.setWord i (setByte w (pa % 4) b)
  | none => if wide then l.setWord i (setByte 0 (pa % 4) b) else l

/-- Sets of the L1 for a split in units of 64 KiB (R103). -/
def l1Sets (split : Nat) : Nat := 512 - 64 * split

/-- The victims of the team whose fill evicts lines, with those lines added (R141). -/
def Core.evict (c : Core) (team : Nat) (lines : List L1Line) : Core :=
  lines.foldl (fun c l =>
    let old := match c.victims.find? (fun v => v.1 == team) with | some v => v.2 | none => []
    let new := old.drop (old.length + 1 - 32) ++ [l.line]
    { c with victims := (team, new) :: c.victims.filter fun v => v.1 != team }) c

/-- A line put into the L1: named evictions first, then the oldest line of a full set (R103); the set is the line number modulo the number
of sets (log entry 70). With it the lines evicted. -/
def Core.putLine (c : Core) (l : L1Line) (out : List Nat) : Core × List L1Line :=
  let rest := c.l1.filter fun x => x.line != l.line
  let gone := rest.filter fun x => out.contains x.line
  let rest := rest.filter fun x => !out.contains x.line
  let set := rest.filter fun x => x.line % l1Sets c.split == l.line % l1Sets c.split
  let more := set.take (set.length + 1 - 8)
  let rest := rest.filter fun x => !more.any fun y => y.line == x.line
  ({ c with l1 := rest ++ [l] }, gone ++ more)

/-- A miss of a team's access on a line counts as a re-reference where its victims hold the line (R141). -/
def Core.missed (c : Core) (team line : Nat) : Core :=
  if c.victims.any fun v => v.1 == team && v.2.contains line then { c with reref := c.reref + 1 } else c

/-- The lines of a store that its core's L1 does not hold, which it allocates (R104). -/
def State.l1Allocates (s : State) (t : Team) (a : Access) : List Nat :=
  if a.space != .hbm || !a.attr.cached then [] else
  let g := s.gtime t.die
  (a.bytes.map lineOf).dedup.filter fun line =>
    !(match s.core? t.die t.core with | some c => c.l1.any fun l => l.line == line && l.present g | none => true)

/-- A store's bytes in the L1 of its core as it issues (R104): into a present line, or into a line allocated without a fetch, which has no
lease until the home replies; a line whose lease has ended is not present. The stamp of an allocated line is 0 until a grant gives it one,
which a CORE-scope line gets only from a fill (log entry 71). -/
def State.l1Store (s : State) (t : Team) (a : Access) (data : List Byte) : State :=
  if a.space != .hbm || !a.attr.cached then s else
  let g := s.gtime t.die
  s.modCore t.die t.core fun c =>
    (a.bytes.map lineOf).dedup.foldl (fun c line =>
      let old := c.l1.find? fun l => l.line == line && l.present g
      let l := match old with
        | some l => l
        | none => { line := line, words := [], lease := if a.attr.scope = 0 then none else some 0, stamp := 0, w := 0,
                    scope := a.attr.scope, team := t.id }
      let l := (a.bytes.zip data).foldl (fun l e =>
        if lineOf e.1 = line then l.store (decide (4 ≤ data.length)) e.1 e.2 else l) l
      match old with
      | some _ => { c with l1 := mapIf (fun x => x.line == line) (fun _ => l) c.l1 }
      | none => ((c.putLine l []).1).missed t.id line) c

/-- The words that an atomic or RED touches become invalid in the issuing core's copy (R408). -/
def State.l1Drop (s : State) (t : Team) (a : Access) : State :=
  if a.space != .hbm then s else
  s.modCore t.die t.core fun c =>
    { c with l1 := c.l1.map fun l =>
        { l with words := l.words.filter fun e => !a.bytes.any fun p => lineOf p == l.line && p / 4 % 32 == e.1 } }

/-- The bytes of a load from its core's L1, if every one may be used; with the copy's w. -/
def State.l1Read? (s : State) (t : Team) (rh : Nat) (a : Access) : Option (List Byte × Nat) :=
  match s.core? t.die t.core with
  | none => none
  | some c =>
    let g := s.gtime t.die
    let got := a.bytes.map fun p => (c.copy? (lineOf p) g rh).bind fun l => (l.byte? p).map fun b => (b, l.w)
    if got.all Option.isSome then
      let got := got.filterMap id
      some (got.map (·.1), maxOf 0 (got.map (·.2)))
    else none

end Sys2Proof.Machine
end

