-- ==== Sys2Proof/Machine/Shake.lean ====
section
/-!
DEFINITION. Machine/Shake.lean: SHAKE256, the digest of the measurement registers and of the audit chain (R346,
R352). The manual names FIPS 202; the function itself is taken from that standard (PRESUMED, log entry 12).
-/

namespace Sys2Proof.Machine

open Sys2Proof

/-- The lanes in the order in which ρ visits them from lane `x + 5 y` on, each with its offset: the triangular number of its place. -/
def rhoWalk (x y place : Nat) : Nat → List (Nat × Nat)
  | 0 => []
  | n + 1 => (x + 5 * y, (place + 1) * (place + 2) / 2 % 64) :: rhoWalk y ((2 * x + 3 * y) % 5) (place + 1) n

/-- ρ: every lane but lane 0 turned by its offset. -/
def stepRho (a : List Dword) : List Dword := (rhoWalk 1 0 0 24).foldl (fun a e => setAt a e.1 fun x => x.rotateLeft e.2) a

/-- The shift register that the round constants come from, one step on: x^8 = x^6 + x^5 + x^4 + 1. -/
def lfsrNext (r : Nat) : Nat := if r < 128 then 2 * r else (2 * r) ^^^ 0x171

/-- ι of a round, with the register afterwards: bit 2^j − 1 of lane 0 takes the register's j-th output. -/
def stepIota (a : List Dword) (r : Nat) : List Dword × Nat :=
  (List.range 7).foldl (fun p j => (if p.2 % 2 = 1 then setAt p.1 0 fun x => x ^^^ 1 <<< (2 ^ j - 1) else p.1, lfsrNext p.2)) (a, r)

/-- θ: every lane takes the parities of two columns. -/
def stepTheta (a : List Dword) : List Dword :=
  let parity := fun (x : Nat) => (List.range 5).foldl (fun p y => p ^^^ a.getD (x % 5 + 5 * y) 0) 0
  let mix := (List.range 5).map fun x => parity (x + 4) ^^^ (parity (x + 1)).rotateLeft 1
  a.zipIdx.map fun e => e.1 ^^^ mix.getD (e.2 % 5) 0

/-- π: lane (x, y) takes lane (x + 3 y, x). -/
def stepPi (a : List Dword) : List Dword :=
  a.zipIdx.map fun e => let x := e.2 % 5; let y := e.2 / 5; a.getD ((x + 3 * y) % 5 + 5 * x) 0

/-- χ: within a row, a lane changes where the next holds 0 and the one after it 1. -/
def stepChi (a : List Dword) : List Dword :=
  a.zipIdx.map fun e =>
    let next := fun (k : Nat) => a.getD ((e.2 + k) % 5 + 5 * (e.2 / 5)) 0
    e.1 ^^^ (next 2 &&& ~~~next 1)

/-- The rounds of Keccak-f[1600] that are left, on 25 lanes. -/
def keccakRounds (a : List Dword) (r : Nat) : Nat → List Dword
  | 0 => a
  | n + 1 => let p := stepIota (stepChi (stepPi (stepRho (stepTheta a)))) r; keccakRounds p.1 p.2 n

def keccakF (a : List Dword) : List Dword := keccakRounds a 1 24

/-- A lane from eight bytes. -/
def laneOf (bs : List Byte) : Dword := BitVec.ofNat 64 (leNat bs)

/-- The bytes of a message cut into blocks of 136, padded for SHAKE. -/
def shakePad (m : List Byte) : List Byte :=
  let k := 136 - m.length % 136
  if k = 1 then m ++ [0x9F] else m ++ [0x1F] ++ zeroBytes (k - 2) ++ [0x80]

/-- Absorbs `n` blocks. -/
def shakeAbsorb (n : Nat) (a : List Dword) (m : List Byte) : List Dword :=
  match n with
  | 0 => a
  | n + 1 =>
    let blk := (List.range 25).map fun i => if i < 17 then laneOf ((m.drop (8 * i)).take 8) else 0
    shakeAbsorb n (keccakF (List.zipWith (· ^^^ ·) a blk)) (m.drop 136)

/-- The first 64 bytes of SHAKE256 of a message. -/
def shake256 (m : List Byte) : List Byte :=
  let p := shakePad m
  let a := shakeAbsorb (p.length / 136) (List.replicate 25 0) p
  (a.take 8).flatMap fun x => toLe 8 x.toNat

end Sys2Proof.Machine
end

