-- ==== Sys2Proof/Machine/Ops.lean ====
section
/-!
DEFINITION. Machine/Ops.lean: what every instruction shares: the audit log (R352), error records (R360), the
actions on a failure (R357 to R362), the end of a thread (R189), the return stack (R183, R184), and taking a trap
with the return from it (R368 to R371).
-/

namespace Sys2Proof.Machine

open Sys2Proof

/-! ## The audit log (R352) -/

def bridge0 : Nat := 8

/-- Entries of the audit ring, and the entries kept for its last users. -/
def auditRoom : Nat := 2 ^ 22
def auditKept : Nat := 1024

def Audit.free (a : Audit) : Nat := auditRoom - (a.seq - a.mark)

/-- The first 32 bytes of an entry. -/
def AuditEntry.head (e : AuditEntry) : List Byte :=
  toLe 8 e.seq ++ toLe 8 e.gtime ++ toLe 2 e.type ++ toLe 2 e.ctx ++ (e.detail ++ zeroBytes 12).take 12

/-- The LINK of an entry after the LINK of the entry before it. -/
def AuditEntry.linkAfter (e : AuditEntry) (prev : List Byte) : List Byte :=
  (shake256 ((prev ++ zeroBytes 32).take 32 ++ e.head)).take 32

/-- An entry appended at once, at its GTIME, with its copy in the HBM mirror, which covers two granules whole (R352, R386). -/
def State.auditPut (s : State) (e : AuditEntry) : State :=
  let a := s.dev.audit
  let e := { e with seq := a.seq, gtime := s.gtime bridge0 }
  let e := { e with link := e.linkAfter a.link }
  { s with
    mem := putBytes s.mem (64 * (e.seq % auditRoom)) (e.head ++ e.link)
    dev := { s.dev with audit := { a with entries := (a.entries ++ [e]).drop (a.entries.length + 1 - auditRoom)
                                          seq := a.seq + 1, link := e.link }
                        badGranules := s.dev.badGranules.filter fun g => g / 2 != e.seq % auditRoom } }

/-- The TYPEs for which the last 1,024 entries are kept: RELEASE, SCRUB, CLEAR, REPAIR and ERROR (R352). -/
def keptType (type : Nat) : Bool := [3, 4, 5, 8, 10].contains type

/-- Whether entries of a TYPE have room: those of the kept TYPEs while an entry is free, the others while the last 1,024 stay free (R352). -/
def Audit.roomFor (a : Audit) (type : Nat) : Bool :=
  !a.frozen && decide ((if keptType type then 1 else auditKept) ≤ a.free)

/-- Whether an entry may be appended before those that wait: one of a kept TYPE goes before the entries that wait for more room than it needs
(R352). -/
def Audit.overtakes (a : Audit) (type : Nat) : Bool := a.pending.all fun e => keptType type && !keptType e.type

/-- An entry of TYPE `type` for context `ctx`. Without room, or while the log is frozen or not yet open, it waits; an ERROR entry
beyond the 1,024 that may wait is dropped. -/
def State.audit (s : State) (type ctx : Nat) (detail : List Byte) : State :=
  let a := s.dev.audit
  let e : AuditEntry := { seq := 0, gtime := 0, type := type, ctx := ctx, detail := detail, link := [] }
  if a.roomFor type && a.overtakes type then s.auditPut e
  else if type = 10 ∧ auditKept ≤ a.pending.length then s
  else { s with dev := { s.dev with audit := { a with pending := a.pending ++ [e] } } }

/-- An entry whose detail no rule gives. -/
def State.note (s : State) (type ctx : Nat) : State :=
  let n := s.dev.audit.seq + s.dev.audit.pending.length
  s.audit type ctx ((List.range 12).map (Config.auditByte n))

/-- Entries that have waited are appended as room allows (R352); the others wait on. -/
def State.flushAudit (s : State) (es : List AuditEntry) : State :=
  match es with
  | [] => s
  | e :: rest =>
    if s.dev.audit.roomFor e.type && s.dev.audit.overtakes e.type then (s.auditPut e).flushAudit rest
    else ({ s with dev := { s.dev with audit := { s.dev.audit with pending := s.dev.audit.pending ++ [e] } } }).flushAudit rest

/-- Whether CREATE, FWLOAD and FEATURE have room in the log (R350, R352, R407). -/
def Audit.roomy (a : Audit) : Bool := a.roomFor 2

/-- The audit region, which only the audit log unit writes (R352). -/
def auditEnd : Nat := 2 ^ 28

/-! ## Records (R360, R400) -/

/-- An error record before its bytes are laid out. -/
structure Rec where
  die    : Nat
  cls    : Nat
  action : Nat
  ctx    : Nat
  team   : Nat := 0xFFFFFFFF
  lrank  : Nat := 0xFFFF
  core   : Nat := 0
  addr   : Nat := 0
  detail : Nat := 0
  group  : Nat := 0

def Rec.bytes (r : Rec) (g : Nat) : List Byte :=
  toLe 8 g ++ toLe 2 r.cls ++ toLe 1 r.action ++ toLe 1 r.ctx ++ toLe 4 r.team ++ toLe 2 r.lrank
    ++ toLe 1 (r.die % 8) ++ toLe 1 r.core ++ toLe 8 r.addr ++ toLe 2 r.detail ++ toLe 2 r.group

/-- Bytes that a device unit writes at consecutive physical addresses, at their homes, with the largest t; none in the audit region, which no
such unit writes (R352; log entry 82). -/
def State.devPut (s : State) (pa : Nat) (bs : List Byte) : State × Nat :=
  if pa < auditEnd then (s, 0) else s.writeHome ((List.range bs.length).map (pa + ·)) bs

def State.devWrite (s : State) (pa : Nat) (bs : List Byte) : State := (s.devPut pa bs).1

/-- A release write of a device unit after a write that took `t`: it waits for its time (R127). -/
def State.devRelease (s : State) (pa : Nat) (bs : List Byte) (t : Nat) : State :=
  { s with dev := { s.dev with releases := s.dev.releases ++ [{ pa := pa, data := bs, after := t }] } }

/-- The release writes whose time has come are performed, in order, each with a t past the writes before it (R127). -/
def State.release1 (s : State) : List Release → State
  | [] => { s with dev := { s.dev with releases := [] } }
  | r :: rest =>
    if r.after + 2 ≤ s.gtime (homeDie r.pa) then (s.devWrite r.pa r.data).release1 rest
    else { s with dev := { s.dev with releases := r :: rest } }

def State.releasesDue (s : State) : State := s.release1 s.dev.releases

/-- Bytes that a device unit reads there; of an uncorrectable granule nothing is known (R386). -/
def State.devRead (s : State) (pa n : Nat) : State × Nat :=
  let pas := (List.range n).map (pa + ·)
  if s.poisoned pas then (s, leNat (pas.map fun a => Config.lostByte a s.dev.audit.seq))
  else
    let r := s.readHome pas
    (r.1, leNat r.2.1)

/-- A record put into a ring; none when it is dropped. -/
def State.ringPut (s : State) (r : Option Ring) (bs : List Byte) : State × Option Ring :=
  match r with
  | none => (s, none)
  | some q =>
    let (s, cons) := s.devRead q.consw 8
    if 2 ^ q.logn ≤ (q.k - cons) then (s, none)
    else
      let (s, t) := s.devPut (q.base + 32 * (q.k % 2 ^ q.logn)) bs
      (s.devRelease q.prodw (toLe 8 (q.k + 1)) t, some { q with k := q.k + 1 })

/-- The CESTAT bits (R359). -/
def bitILL : Word := 0x1
def bitIUSE : Word := 0x2
def bitTCF : Word := 0x4
def bitSTALL : Word := 0x8
def bitMEM : Word := 0x10
def bitTRF : Word := 0x20
def bitUCE : Word := 0x40
def bitENG : Word := 0x80
def bitLNCH : Word := 0x100
def bitSTOP : Word := 0x200
def bitOVF : Word := 0x400

/-- A record put into the device ring and, as an entry of TYPE 10, into the audit log (R400). -/
def State.devicePut (s : State) (r : Rec) : State :=
  let bs := r.bytes (s.gtime bridge0)
  let s := s.audit 10 0xFFFF ((bs.drop 8).take 12)
  let (s, q) := s.ringPut s.dev.ring bs
  match q with
  | some q => { s with dev := { s.dev with ring := some q } }
  | none => { s with dev := { s.dev with ovf := true } }

/-- The DEVICE action on an uncorrectable read of memory by a device unit (R386; log entry 87). -/
def State.dataRecord (s : State) (pa : Nat) : State :=
  s.devicePut { die := homeDie pa, cls := 0x0203, action := 8, ctx := 0xFF, addr := pa }

/-- The same where the count of records consumed is such a read. -/
def State.countRead (s : State) (r : Option Ring) : State :=
  match r with
  | some q => if s.poisoned ((List.range 8).map (q.consw + ·)) then s.dataRecord q.consw else s
  | none => s

/-- The bytes of a record of a context, with the status bits that it sets. -/
def State.recordBytes (s : State) (ctx : Nat) (bs : List Byte) (bits : Word) : State :=
  match s.ctx? ctx with
  | none => s
  | some c =>
    let (s, q) := (s.countRead c.ring).ringPut c.ring bs
    match q with
    | some q => s.modCtx ctx fun c => { c with ring := some q, cestat := c.cestat ||| bits }
    | none => s.modCtx ctx fun c => { c with cestat := c.cestat ||| bits ||| bitOVF }

/-- A record of a context with the status bits that it sets. -/
def State.record (s : State) (r : Rec) (bits : Word) : State := s.recordBytes r.ctx (r.bytes (s.gtime r.die)) bits

/-- A failure of a team, of a strength of R362. One that a word meets as it issues is recorded at the end of its packet, if no stronger
one comes in it (log entry 99). -/
def State.failRecord (s : State) (team strength : Nat) (r : Rec) (bits : Word) : State :=
  match s.bundle with
  | some b =>
    if b.acting ∧ b.team = team then
      let late : LateRec := { strength := strength, ctx := r.ctx, bytes := r.bytes (s.gtime r.die), bits := bits }
      { s with bundle := some { b with top := max b.top strength, recs := b.recs ++ [late] } }
    else s.record r bits
  | none => s.record r bits

/-- A STOP of a context is the strongest failure of a packet that a team of it issues (R362). -/
def State.stopsPacket (s : State) (ctx : Nat) : State :=
  match s.bundle with
  | some b =>
    if b.acting && (match s.team? b.team with | some t => t.ctx == ctx | none => false) then { s with bundle := some { b with top := 4 } } else s
  | none => s

/-- A device record (R400). -/
def State.deviceRecord (s : State) (event addr die core : Nat) : State :=
  (s.countRead s.dev.ring).devicePut { die := die, cls := 0x0501, action := 8, ctx := 0xFF, core := core, addr := addr, detail := event }

/-- The record of a thread. -/
def recOf (t : Team) (h : Thread) (cls action addr detail : Nat) : Rec :=
  { die := t.die, cls := cls, action := action, ctx := t.ctx, team := t.teamId, lrank := h.lrank, core := t.core,
    addr := addr, detail := detail, group := if action = 4 then h.group else 0 }

/-- The REPORT of a lease or stamp too far in the future (R388): by the die, and for an L1 the core, that finds it, with the virtual address of
the access that meets it (R360). -/
def State.leaseReport (s : State) (die core ctx va : Nat) : State :=
  s.record { die := die, cls := 0x0204, action := 3, ctx := ctx, core := core, addr := va } bitMEM

/-- A home lowers a recorded lease end above its GTIME plus the scope's length (R388). -/
def State.leaseCheck (s : State) (ctx scope va pa : Nat) : State :=
  let m := s.lineMeta (lineOf pa)
  let top := s.gtime (homeDie pa) + s.leaseLen ctx scope
  if 1 ≤ scope ∧ scope ≤ 3 ∧ top < m.lease then (s.setLine { m with lease := top }).leaseReport (homeDie pa) 0 ctx va else s

/-- That, for every line of an access of a context to HBM. -/
def State.leaseChecks (s : State) (ctx : Nat) (a : Access) : State :=
  if a.space == .hbm then
    ((a.bytes.map lineOf).dedup).foldl (fun s l =>
      s.leaseCheck ctx a.attr.scope (a.va + a.bytes.findIdx fun p => lineOf p == l) (128 * l)) s
  else s

/-- Where an access makes a home merge partial values, which writes them, the home looks at its leases first (R129, R388). -/
def State.mergeChecks (s : State) (ctx : Nat) (a : Access) : State :=
  if a.space == .hbm && s.partials.any (·.touches a.bytes) then s.leaseChecks ctx a else s

/-- A RED of a context in the L2 of a die, which may make the home merge (R129). -/
def State.redAt (s : State) (ctx die rop : Nat) (a : Access) (x : Dword) : State × Nat :=
  let pa := a.bytes.headD 0
  (if s.redMerges rop pa then s.mergeChecks ctx a else s).redAtDie die rop pa x

/-- A read of a context at the place of an access. -/
def State.readChecked (s : State) (ctx : Nat) (a : Access) : State × List Byte × Nat := (s.mergeChecks ctx a).readSpace a

/-- Bytes that a unit of the device writes at their homes for a context, and bytes that it reads there with the largest write time. -/
def State.homeWrite (s : State) (ctx : Nat) (a : Access) (data : List Byte) : State × Nat := (s.leaseChecks ctx a).writeHome a.bytes data
def State.homeRead (s : State) (ctx : Nat) (a : Access) : State × List Byte × Nat := (s.mergeChecks ctx a).readHome a.bytes

/-- The packet address of a PC, without a resume slot (R154, R370). -/
def packetOf (pc : BitVec 56) : BitVec 56 := pc &&& ~~~(0xF#56)

/-- The status bit of an execution class (R357). -/
def classBits (cls : Nat) : Word :=
  match cls with
  | 0x0101 => bitILL
  | 0x0102 => bitIUSE
  | 0x0103 => bitTCF
  | 0x0104 => bitSTALL
  | 0x0201 => bitTRF
  | 0x0202 => bitMEM
  | 0x0203 => bitUCE
  | 0x0204 => bitMEM
  | 0x0301 => bitENG
  | 0x0401 => bitLNCH
  | _ => 0

/-! ## Replies (R349) -/

/-- The 16 bytes of a reply, in host memory; the detail bytes that no rule gives are free. -/
def State.reply (s : State) (addr code : Nat) (detail : List Byte) : State :=
  let open_ := (List.range 14).map (Config.replyByte s.dev.mhead.toNat)
  { s with hostMem := putBytes s.hostMem addr (toLe 2 code ++ detail ++ open_.drop detail.length) }

/-- The STEP of a thread is over, and is answered (R377). -/
def State.stepOver (s : State) (team r code : Nat) : State :=
  match s.dev.stepping with
  | some (a, b, addr) => if a = team ∧ b = r then ({ s with dev := { s.dev with stepping := none } }).reply addr code [] else s
  | none => s

/-! ## Watchdogs while a participant is stopped (R365, R376) -/

/-- A first arrival at `mark`, moved on by the time from `a` to `b` that its watchdog did not run. -/
def held_ (a b mark : Nat) : Nat := mark + (b - max a mark)

/-- The earliest stop of other threads that take part, or the end `now` of this one's. -/
def stopEnd (now : Nat) (f : Thread → Nat) (r : Nat) (hs : List Thread) : Nat :=
  ((hs.filter fun x => x.stopped && !x.exited && x.lrank != r).map f).foldl min now

/-- The rendezvous of a frame whose watchdogs a thread's stop held back: barriers, ELECT, TCALL, and those of its group that name it. -/
def Team.ran (t : Team) (h : Thread) (clock i : Nat) : Team :=
  let upto := stopEnd clock (·.stopClock) h.lrank
  let all := upto (t.members i)
  let bars := fun (f : Frame) => { f with bars := f.bars.map fun b => if 0 < b.count then { b with since := held_ h.stopClock all b.since } else b }
  let mates := fun (a : GroupArrival) (x : Thread) => t.threads.filter fun y => y.frame == i && y.group == x.group && a.mask.getLsbD (y.rank % 32)
  let one := fun (x : Thread) =>
    if x.frame != i || x.exited then x else
    match x.garr with
    | some a => if (mates a x).any (·.lrank == h.lrank) then { x with parkClock := held_ h.stopClock (upto (mates a x)) x.parkClock } else x
    | none => if x.waitsAt == .elect || x.waitsAt == .tcall then { x with parkClock := held_ h.stopClock all x.parkClock } else x
  { (t.modFrame i bars) with threads := t.threads.map one }

/-- The threads of the teams that may meet a team's at a cluster or grid barrier. -/
def State.wideMates (s : State) (t : Team) (grid : Bool) : List Team :=
  s.teams.filter fun x => x.launch == t.launch && (grid || x.cluster == t.cluster) && x.standing != .ended

/-- The cluster and grid barriers of a team, whose watchdogs did not run from `a` on: until now, or until the next of those that hold them
back. -/
def State.ranWide (s : State) (t : Team) (r : Option Nat) (a : Nat) : State :=
  let now := s.gtime t.die
  [false, true].foldl (fun s grid =>
    let ps := s.wideMates t grid
    let stops := ps.flatMap fun p => (p.threads.filter fun x => x.stopped && !x.exited && !(p.id == t.id && some x.lrank == r)).map (·.stopTime)
    let saves := (ps.filter fun p => p.standing == .saved && !(p.id == t.id && r.isNone)).map (·.savedTime)
    let b := (stops ++ saves).foldl min now
    let mine := fun (x : Thread) => !x.exited && x.waitsAt == (if grid then Park.gbar else Park.cbar)
    ps.foldl (fun s p => s.modTeam p.id fun p => { p with threads := mapIf mine (fun x => { x with parkClock := held_ a b x.parkClock }) p.threads }) s) s

/-- A stopped thread goes on, or ends: the watchdogs that its stop held back run again. -/
def State.ranAgain (s : State) (team r : Nat) : State :=
  match s.team? team, s.thread? team r with
  | some t, some h =>
    if !h.stopped then s
    else
      let clock := s.clock t.die t.core
      (s.modTeam team fun t => (t.ancestors 8 h.frame).foldl (fun t i => t.ran h clock i) t).ranWide t (some r) h.stopTime
  | _, _ => s

/-- A thread stops, at a core clock and a GTIME (R376). -/
def Thread.halt (h : Thread) (clock time : Nat) : Thread :=
  if h.stopped then { h with stepOne := false }
  else { h with stopped := true, stepOne := false, stopClock := clock, stopTime := time }

/-! ## The end of a thread (R189) -/

/-- What an ended thread leaves in flight: stores, atomics and REDs with the return of their t, uniform writes, and commands on their way. -/
def OpBody.outlives (b : OpBody) : Bool :=
  match b with
  | .store _ _ _ _ => true
  | .atomic _ _ _ _ _ _ _ => true
  | .atomicDone _ _ _ _ _ _ => true
  | .red _ _ _ => true
  | .written _ => true
  | .accWrite _ _ _ => true
  | .handle _ _ => true
  | .uniform _ _ _ _ => true
  | .go _ _ _ _ _ => true
  | .push _ _ _ _ _ _ => true
  | _ => false

/-- Commands on their way to acceptance. -/
def OpBody.sends (b : OpBody) : Bool :=
  match b with | .go _ _ _ _ _ => true | .push _ _ _ _ _ _ => true | _ => false

/-- A thread out of every bundle in progress. -/
def Bundle.without (b : Bundle) (team r : Nat) : Bundle :=
  if b.team = team then { b with ranks := b.ranks.filter (· != r) } else b

def State.leave (s : State) (team r : Nat) : State :=
  { s with bundle := s.bundle.map fun b => b.without team r, others := s.others.map fun b => b.without team r }

/-- The thread ends for good: its outstanding loads and results are dropped, and its registers are freed. -/
def State.exitThread (s : State) (team r : Nat) : State :=
  let s := (s.ranAgain team r).stepOver team r 0
  let s := { s with ops := s.ops.filter fun o => !(o.team == team && o.lrank == r) || o.body.outlives }
  let s := s.leave team r
  s.modThread team r fun h =>
    { h with exited := true, v := [], park := .none, garr := none, trap := none, pmk := false, stopped := false, stopNext := false, due := none,
             flags := 0, yieldAt := none, cont := false, snap := none, openWin := [], dieAt := none }

/-- Whether a thread is inside a packet that goes on: in a bundle in progress, or between two slots of its packet (R409). One that is parked at
a group rendezvous is not: a save withdraws it, and it then issues its packet again (R251). -/
def State.inPacket (s : State) (team : Nat) (h : Thread) : Bool :=
  (h.cont && h.park != .group) || (s.bundle.toList ++ s.others).any fun b => b.team == team && b.ranks.contains h.lrank

/-- The bundle in progress that a thread is in. -/
def State.bundleOf (s : State) (team r : Nat) : Option Bundle :=
  (s.bundle.toList ++ s.others).find? fun b => b.team == team && b.ranks.contains r

/-- A thread of a group that a failure ends: at once, parked or not, or, where another bundle is issuing its packet, as it leaves that
bundle, and no later than 64 core clocks from now (R361). -/
def State.endsWith (s : State) (team : Nat) (failing : List Nat) (clock : Nat) (h : Thread) : State :=
  if (s.bundleOf team h.lrank).isSome && !failing.contains h.lrank then s.modThread team h.lrank fun x => { x with dieAt := some clock }
  else s.exitThread team h.lrank

/-- Core clocks after which no thread of a group that failed issues (R361). -/
def dieRoom : Nat := 64

/-- The threads that a failure has ended and that have left their bundle, or whose clocks are over. -/
def State.reap (s : State) (team : Nat) : State :=
  match s.team? team with
  | none => s
  | some t =>
    let due := fun (h : Thread) => match h.dieAt with
      | some c => (s.bundleOf team h.lrank).isNone || decide (c + dieRoom ≤ s.clock t.die t.core)
      | none => false
    (t.threads.filter due).foldl (fun s h => s.exitThread team h.lrank) s

/-! ## Actions (R357 to R362) -/

/-- The GROUP action on the group of a thread (R361): one record, and every living thread of the group ends. -/
def State.groupAction (s : State) (t : Team) (h : Thread) (cls addr detail : Nat) : State :=
  match s.thread? t.id h.lrank with
  | none => s
  | some now =>
    if now.exited || now.dieAt.isSome then s else
    let s := s.failRecord t.id 2 (recOf t h cls 4 addr detail) (classBits cls)
    let failing := h.lrank :: match s.bundleOf t.id h.lrank with | some b => b.ranks | none => []
    match s.team? t.id with
    | none => s
    | some u =>
      (u.threads.filter fun x => x.frame == h.frame && x.group == h.group && !x.exited).foldl
        (fun s x => s.endsWith t.id failing (s.clock t.die t.core) x) s

/-- A GROUP action for an execution class, at the thread's packet. -/
def State.illegal (s : State) (t : Team) (h : Thread) (cls : Nat) : State :=
  s.groupAction t h cls (packetOf h.pc).toNat 0

/-- The TEAM action (R358): every living thread ends, the commands not yet started complete as KILLED, and those not yet
accepted are not sent. -/
def State.teamEnds (s : State) (id : Nat) : State :=
  match s.team? id with
  | none => s
  | some t =>
    let s := ((t.threads.filter fun h => !h.exited).map (·.lrank)).foldl (fun s r => s.exitThread id r) s
    let kill := fun c : Cmd => { c with state := .performed, code := 0x0F01, detail := 0, count := 0 }
    { s with cmds := mapIf (fun c => c.team == id && c.state == .queued) kill s.cmds
             ops := s.ops.filter fun o => !(o.team == id && o.body.sends) }

def State.teamAction (s : State) (t : Team) (h : Option Thread) (cls addr detail : Nat) : State :=
  let r : Rec := match h with
    | some h => recOf t h cls 5 addr detail
    | none => { die := t.die, cls := cls, action := 5, ctx := t.ctx, team := t.teamId, core := t.core, addr := addr,
                detail := detail }
  (s.failRecord t.id 3 r (classBits cls)).teamEnds t.id

/-- The debugged step of a thread that can issue nothing more is over (R377): the thread stops again. -/
def State.stepFails (s : State) (team r code : Nat) : State :=
  match s.team? team, s.thread? team r with
  | some t, some h =>
    if !h.stepOne then s
    else (s.modThread team r fun h => { h.halt (s.clock t.die t.core) (s.gtime t.die) with stepRun := false }).stepOver team r code
  | _, _ => s

/-- A STEP of a context that stops before its packet has begun is over (R358, R377). -/
def State.stepCut (s : State) (ctx : Nat) : State :=
  match s.dev.stepping with
  | some (a, b, _) =>
    (match s.team? a, s.thread? a b with
      | some t, some h => if t.ctx = ctx ∧ !h.stepRun then s.stepFails a b 1 else s
      | _, _ => s)
  | none => s

/-- The STOP action (R358): the context takes no more descriptors and its teams stop at packet boundaries; an
audit entry keeps bytes 8 to 19 of the record. -/
def State.stopAction (s : State) (r : Rec) : State :=
  match s.ctx? r.ctx with
  | none => s
  | some _ =>
    let r := { r with action := 7 }
    let s := (s.record r (classBits r.cls ||| bitSTOP)).stopsPacket r.ctx
    let s := s.modCtx r.ctx fun c => { c with stopped := true, queues := c.queues.map fun q => { q with open_ := false } }
    (s.audit 10 r.ctx (((r.bytes (s.gtime r.die)).drop 8).take 12)).stepCut r.ctx

/-- How a team stands before the first translation fault of a packet of it (R362). -/
def State.keepStanding (s : State) (team : Nat) : State :=
  match s.bundle, s.team? team with
  | some b, some t =>
    if b.acting ∧ b.team = team ∧ b.kept.isNone then { s with bundle := some { b with kept := some (t.standing, t.faults, t.mayResume) } } else s
  | _, _ => s

/-- The RETRY action (R380): the team begins to be saved, with the addresses that failed and one record, that of
the first thread. -/
def State.retry (s : State) (t : Team) (h : Thread) (fs : List (Nat × Nat)) (va detail : Nat) : State :=
  let first := match s.team? t.id with | some t => t.faults.isEmpty | none => false
  let s := s.keepStanding t.id
  let s := if first then s.failRecord t.id 0 (recOf t h 0x0201 0 va detail) 0 else s
  s.modTeam t.id fun t =>
    { t with standing := if t.standing = .resident then .saving else t.standing, faults := t.faults ++ fs, mayResume := false }

/-! ## Debug events (R373) -/

/-- A record of the event area of a context. -/
def State.debugEvent (s : State) (t : Team) (lrank event : Nat) (pc : BitVec 56) : State :=
  match s.ctx? t.ctx with
  | none => s
  | some c =>
    let bs := toLe 4 t.teamId ++ toLe 2 lrank ++ toLe 1 event ++ toLe 1 t.die ++ toLe 7 (packetOf pc).toNat ++ toLe 1 t.core
    let (s, w) := s.devPut (c.dbgArea + 16 * (c.dbgCount % 255)) bs
    (s.devRelease (c.dbgArea + 4080) (toLe 8 (c.dbgCount + 1)) w).modCtx t.ctx fun c => { c with dbgCount := c.dbgCount + 1 }

def State.debugMode (s : State) (t : Team) : Nat := match s.ctx? t.ctx with | some c => c.dbgMode | none => 0

/-- A thread stops with an event, which ends a STEP of it (R374 to R377); in TEAM mode its whole team stops, and event 9 is written once, unless
the team's stop has come to the thread before. -/
def State.debugStop (s : State) (t : Team) (r event : Nat) (pc : BitVec 56) : State :=
  let s := (s.debugEvent t r event pc).stepOver t.id r 0
  let stop := fun (h : Thread) => h.halt (s.clock t.die t.core) (s.gtime t.die)
  let before := match s.thread? t.id r with | some h => h.stopped | none => true
  let s := s.modThread t.id r stop
  if s.debugMode t = 2 ∧ !before then
    (s.debugEvent t r 9 pc).modTeam t.id fun t => { t with threads := mapIf (fun h => !h.exited) stop t.threads }
  else s

/-! ## The return stack (R183, R184) -/

/-- An entry: marker bit, depth, packet address. -/
def stackEntry (m : Bool) (d : Nat) (a : BitVec 56) : Dword := (BitVec.ofBool m ++ BitVec.ofNat 7 d) ++ a
def entryM (e : Dword) : Bool := e.getLsbD 63
def entryD (e : Dword) : Nat := (e.extractLsb' 56 7).toNat
def entryAddr (e : Dword) : BitVec 56 := e.extractLsb' 0 56

/-- A thread's local area (R132). -/
def State.localArea (s : State) (t : Team) (h : Thread) : Nat × Nat :=
  match s.desc? t with
  | some d => (d.loc + (t.teamId * d.tsize + h.lrank) * d.lsize, d.lsize)
  | none => (0, 0)

/-- The depth that the next pushed entry takes. -/
def Thread.nextDepth (h : Thread) : Nat := match h.rstack.getLast? with | some e => entryD e + 1 | none => 1

/-- Whether a push overflows the stack or its spill area (R184). -/
def pushOverflows (h : Thread) (lsize : Nat) : Bool :=
  decide (127 < h.nextDepth) ||
    (decide (16 ≤ h.rstack.length) && decide (lsize < 8 * entryD (h.rstack.getD 0 0)))

/-- The outcome of a push or a pop. -/
inductive StackRes where
  | ok (s : State)
  | illegal
  | mem (s : State) (r : Res)
  deriving DecidableEq, Repr

/-- The access that an operation makes as it issues. -/
def OpBody.access? (b : OpBody) : Option Access :=
  match b with
  | .load _ _ _ a _ _ _ => some a
  | .store a _ _ _ => some a
  | .atomic _ a _ _ _ _ _ => some a
  | .red _ a _ => some a
  | .prefetch a _ => some a
  | _ => none

/-- The 32-byte sectors of global memory that an operation's requests name (R106). -/
def OpBody.sectors (b : OpBody) : List Nat :=
  match b.access? with
  | some a => if a.space == .hbm then (a.bytes.map (· / 32)).dedup else []
  | none => []

/-- The frame that a thread is in. -/
def State.frameOf (s : State) (team r : Nat) : Nat := match s.thread? team r with | some h => h.frame | none => 0

/-- A new operation in flight, last in issue order (R112), of the word that is issuing. -/
def State.addOp (s : State) (team r : Nat) (flag : Option Nat) (hold : Hold) (b : OpBody) : State :=
  { s with ops := s.ops ++ [{ id := s.nextId, team := team, lrank := r, flag := flag, hold := hold, issue := s.issues, sectors := b.sectors,
                              frame := s.frameOf team r, body := b }],
           nextId := s.nextId + 1 }

/-- Loads and atomics, until they return. -/
def OpBody.isLoad (b : OpBody) : Bool :=
  match b with
  | .load _ _ _ _ _ _ _ => true
  | .gather _ _ _ _ _ _ => true
  | .atomic _ _ _ _ _ _ _ => true
  | .atomicDone _ _ _ _ _ _ => true
  | _ => false

/-- Loads that have not returned, and writes whose t has not, the store to GO among them (R118, R120, R261). -/
def OpBody.unreturned (b : OpBody) : Bool :=
  match b with
  | .load _ _ _ _ _ _ _ => true
  | .gather _ _ _ _ _ _ => true
  | .accRead _ _ _ => true
  | .accWrite _ _ _ => true
  | .handle _ _ => true
  | .go _ _ _ _ _ => true
  | .store _ _ _ _ => true
  | .atomic _ _ _ _ _ _ _ => true
  | .atomicDone _ _ _ _ _ _ => true
  | .red _ _ _ => true
  | .written _ => true
  | _ => false

/-- Whether a thread has an access that keeps it from counting as arrived (R120). -/
def State.accessing (s : State) (team r : Nat) : Bool := s.ops.any fun o => o.team == team && o.lrank == r && o.body.unreturned

/-! ## Uniform writes on their way (R28, R29) -/

/-- The frame, the course, the ranks and the values of a uniform write. -/
def OpBody.uniform? (b : OpBody) : Option (Nat × Nat × List Nat × List (Nat × Word)) :=
  match b with | .uniform f c rs ws => some (f, c, rs, ws) | _ => none

/-- A uniform write completes. -/
def State.publishOne (s : State) (o : Op) : State :=
  match o.body.uniform? with
  | some (f, _, _, ws) =>
    { s.modTeam o.team fun t => ws.foldl (fun t e => t.uput f e.1 e.2) t with ops := s.ops.filter fun x => x.id != o.id }
  | none => s

/-- The uniform writes of a team that `due` names complete, each after those that its course issued before it (R28). -/
def State.publish (s : State) (team : Nat) (due : Op → Bool) : State :=
  let us := s.ops.filter fun o => o.team == team && o.body.uniform?.isSome
  let before := fun (o e : Op) => decide (o.id ≤ e.id) && o.body.uniform?.map (·.2.1) == e.body.uniform?.map (·.2.1)
  (us.filter fun o => us.any fun e => due e && before o e).foldl State.publishOne s

/-- Those that the threads of these ranks issued, or all of a team. -/
def byRanks (ranks : List Nat) (o : Op) : Bool := match o.body.uniform? with | some (_, _, rs, _) => rs.any ranks.contains | none => false
def State.publishAll (s : State) (team : Nat) : State := s.publish team fun _ => true

/-- Whether an unfinished operation holds back later accesses of its thread: a release part, or an acquiring read
(R118, R119). -/
def OpBody.blocks (b : OpBody) : Bool :=
  match b with
  | .store _ _ gate _ => gate
  | .load _ _ _ _ acq _ _ => acq
  | .atomic _ _ _ _ _ acq gate => acq || gate
  | .atomicDone _ _ _ acq _ _ => acq
  | .fence _ => true
  | .go _ gate _ _ _ => gate
  | .push _ _ gate _ _ _ => gate
  | _ => false

/-- The access of an operation that has not been performed. -/
def OpBody.pending? (b : OpBody) : Option Access :=
  match b with
  | .load _ _ _ a _ none _ => some a
  | .store a _ _ _ => some a
  | .atomic _ a _ _ _ _ _ => some a
  | .red _ a _ => some a
  | _ => none

/-- Whether two accesses touch a byte in common. -/
def Access.meets (a b : Access) : Bool := a.space == b.space && a.bytes.any b.bytes.contains

/-- A store whose bytes are in its core's L1 and which has not been performed. -/
def OpBody.inL1 (b : OpBody) : Bool := match b with | .store _ _ _ l1 => l1.isSome | _ => false

/-- Whether two teams are on one core. -/
def State.sameCore (s : State) (x y : Nat) : Bool :=
  x == y || match s.team? x, s.team? y with | some a, some b => a.die == b.die && a.core == b.core | _, _ => false

/-- Whether an earlier operation keeps a store's bytes out of its core's L1 until the store is performed: a release or acquire of its
thread, an access of its thread to one of the bytes, or a store of the core to one of them that is itself kept out. -/
def State.keepsOut (s : State) (t : Team) (r : Nat) (a : Access) (o : Op) : Bool :=
  let meet := !o.body.inL1 && match o.body.pending? with | some x => x.meets a | none => false
  if o.team = t.id ∧ o.lrank = r then o.body.blocks || meet
  else meet && s.sameCore o.team t.id && match o.body with | .store _ _ _ _ => true | _ => false

/-- A store issues: its bytes enter its core's L1 at once, unless an earlier access keeps them out; the lines that they allocate there are
noted, since the reply to the store brings their leases (R104). -/
def State.issueStore (s : State) (t : Team) (r : Nat) (hold : Hold) (a : Access) (data : List Byte) (gate : Bool) : State :=
  if !gate && !s.ops.any (s.keepsOut t r a) then (s.l1Store t a data).addOp t.id r none hold (.store a data gate (some (s.l1Allocates t a)))
  else s.addOp t.id r none hold (.store a data gate none)

/-- Where an entry spills: LOCAL_t + 8·(D − 1), in exact arithmetic (R184, R9), so that a D of 0 lies below the area. -/
def spillAddr (area : Nat) (e : Dword) : Nat := (area + 8 * entryD e + (2 ^ 56 - 8)) % 2 ^ 56

/-- Where a push of a thread would spill its oldest entry, and where a pop would fill one from (R184). -/
def State.spillOf (s : State) (t : Team) (h : Thread) : Option Nat :=
  if h.rstack.length < 16 then none else h.rstack.head?.map (spillAddr (s.localArea t h).1)
def State.fillOf (s : State) (t : Team) (h : Thread) : Option Nat :=
  match h.rstack.getLast? with
  | some e => if h.rstack.length = 1 ∧ 1 < entryD e then some ((s.localArea t h).1 + 8 * (entryD e - 2)) else none
  | none => none

/-- The sectors of global memory at addresses (R106). -/
def sectorsOf (as : List Nat) : List Nat := ((as.filter fun a => !isLocal (a % 2 ^ 56)).map fun a => a % 2 ^ 56 / 32).dedup

/-- Pushes an entry; the oldest of sixteen is spilled by a store of the thread, which holds its next packet. -/
def State.push (s : State) (t : Team) (h : Thread) (addr : BitVec 56) (m : Bool) : StackRes :=
  let area := s.localArea t h
  if pushOverflows h area.2 then .illegal
  else
    let e := stackEntry m h.nextDepth addr
    match h.rstack with
    | old :: rest =>
      if h.rstack.length < 16 then .ok (s.modThread t.id h.lrank fun x => { x with rstack := h.rstack ++ [e] })
      else
        match s.resolve t (spillAddr area.1 old) 8 1 false with
        | (s, .ok a) =>
          let data := toLe 8 old.toNat
          let s := s.issueStore t h.lrank .packet a data false
          .ok (s.modThread t.id h.lrank fun x => { x with rstack := rest ++ [e] })
        | (s, r) => .mem s r
    | [] => .ok (s.modThread t.id h.lrank fun x => { x with rstack := [e] })

/-- Removes the newest entry; an emptied hardware stack is filled by a load of the thread, which holds its next
packet. -/
def State.pop (s : State) (t : Team) (h : Thread) : StackRes :=
  match h.rstack.getLast? with
  | none => .illegal
  | some e =>
    let left := h.rstack.dropLast
    if left.isEmpty && decide (1 < entryD e) then
      match s.resolve t ((s.localArea t h).1 + 8 * (entryD e - 2)) 8 0 false with
      | (s, .ok a) =>
        let info : TrapInfo := { cause := 0, slot := 0, word := 0, packet := 0, resume := 0 }
        .ok ((s.addOp t.id h.lrank none .packet (.load .fill 0 none a false none info)).modThread t.id h.lrank
          fun x => { x with rstack := [] })
      | (s, r) => .mem s r
    else .ok (s.modThread t.id h.lrank fun x => { x with rstack := left })

/-! ## Traps (R368 to R371) -/

/-- The uniform pair that holds the handler of a cause (R368). -/
def trapVector (cause : Nat) : Nat :=
  match cause with | 1 => 248 | 2 => 250 | 3 => 250 | 4 => 252 | _ => 254

/-- The class of a cause without a handler (R368). -/
def trapClass (cause : Nat) : Nat := if cause ≤ 3 then 0x0105 else 0x0106

/-- The trap record of R371. -/
def TrapInfo.bytes (i : TrapInfo) : List Byte :=
  toLe 2 i.cause ++ toLe 1 i.slot ++ [0] ++ toLe 4 i.word.toNat ++ toLe 8 i.packet.toNat

/-- A resume point: a packet and a slot; a slot past the packet is the next packet (R370). -/
def resumeAt (packet : BitVec 56) (slot : Nat) : BitVec 56 :=
  if slot < 4 then packet + BitVec.ofNat 56 (4 * slot) else packet + 16#56

/-- A thread traps: it leaves its bundle and waits at its resume point for the entry. -/
def State.trap (s : State) (team r : Nat) (i : TrapInfo) : State :=
  (s.leave team r).modThread team r fun h => { h with pc := i.resume, cont := false, snap := none, trap := some i }

/-- A failed access of a thread takes its action: a GROUP action, a save with RETRY, a STOP, or a TEAM action. -/
def State.failAccess (s : State) (t : Team) (h : Thread) (r : Res) : State :=
  match r with
  | .ok _ => s
  | .bad sub va => s.groupAction t h 0x0202 va sub
  | .xlate va d => s.retry t h [(va, d)] va d
  | .data va => s.stopAction { recOf t h 0x0203 7 va 0 with action := 7 }
  | .poison va => s.teamAction t (some h) 0x0203 va 0

/-- The sectors that a trap entry stores to: the record's and, where its push spills, the entry's (R184, R369). -/
def State.trapSectors (s : State) (t : Team) (h : Thread) : List Nat :=
  let area := s.localArea t h
  sectorsOf ((if 16 ≤ area.2 then [area.1 + area.2 - 16] else []) ++ (s.spillOf t h).toList)

/-- Whether one of these uniform registers, as a frame reads them, is uncorrectable (R385, R386). -/
def Team.uniBad (t : Team) (bad : List Sram) (f : Nat) (js : List Nat) : Bool :=
  js.any fun j => bad.contains (.uni t.id (t.holder 8 f (j / 16)) j)

/-- Taking a trap (R369), once everything the thread issued before has completed: the vector, the record at the
end of the local area, the resume point pushed, and the PC at the handler. A push that does not translate is done again from the start, and
then the record with it; any other failure leaves the record stored. -/
def State.takeTrap (s : State) (t : Team) (h : Thread) (i : TrapInfo) : State :=
  let at_ := trapVector i.cause
  let vec := ((t.viewOf h).upair at_).extractLsb' 0 56
  let clear := fun (s : State) => s.modThread t.id h.lrank fun x => { x with trap := none }
  if t.uniBad s.dev.badSram h.frame [at_, at_ + 1] then s.teamAction t (some h) 0x0203 0 0
  else if vec = 0 then
    if s.debugMode t = 0 then s.groupAction t h (trapClass i.cause) i.packet.toNat 0
    else (clear s).debugStop t h.lrank i.cause i.packet
  else if vec.toNat % 16 ≠ 0 then s.groupAction t h 0x0102 i.packet.toNat 0
  else
    let area := s.localArea t h
    let rec_ : State × Res × State := if 16 ≤ area.2 then
        match s.resolve t (area.1 + area.2 - 16) 16 1 false with
        | (s, .ok a) =>
          (s, Res.ok a, s.issueStore t h.lrank .packet a i.bytes false)
        | (s, r) => (s, r, s)
      else (s, .ok { space := .hbm, bytes := [], va := 0, attr := noAttr }, s)
    match rec_ with
    | (_, .ok _, s1) =>
      match s1.push t h i.resume false with
      | .ok s2 => (clear s2).modThread t.id h.lrank fun x => { x with pc := vec, cont := false, readyAt := s.clock t.die t.core, aged := false }
      | .illegal => s1.groupAction t h 0x0102 i.packet.toNat 0
      | .mem _ (.xlate va d) => s.failAccess t h (.xlate va d)
      | .mem s2 r => s2.failAccess t h r
    | (s0, r, _) => s0.failAccess t h r

/-- What the return from a trap or a call finds: the entry's address where its use is legal (R185, R363). -/
def returnTarget (h : Thread) : Option (BitVec 56) :=
  match h.rstack.getLast? with
  | none => none
  | some e => if entryM e || (entryAddr e).toNat % 4 != 0 then none else some (entryAddr e)

/-- Returning: the entry is popped and the thread goes to its packet and slot (R185, R370). -/
def State.returnFrom (s : State) (t : Team) (h : Thread) : StackRes :=
  match returnTarget h with
  | none => .illegal
  | some a =>
    match s.pop t h with
    | .ok s => .ok ((s.leave t.id h.lrank).modThread t.id h.lrank fun x => { x with pc := a, cont := false, snap := none })
    | r => r

end Sys2Proof.Machine
end

