-- ==== Sys2Proof/Machine/Operands.lean ====
section
/-!
DEFINITION. Machine/Operands.lean: the packet and what its words name (R154 to R171): kinds, pipes, register
fields, destinations, immediates; and the forms by which a word acts on the threads of its bundle (R28, R67, R160).
-/

namespace Sys2Proof.Machine

open Sys2Proof

/-! ## Words (R157, R162 to R166) -/

def majorOf (w : Word) : Nat := (fld w 25 6).toNat
def chainBit (w : Word) : Bool := w.getLsbD 31
def fnOf (w : Word) : Nat := (fld w 0 4).toNat
def xopOf (w : Word) : Nat := (fld w 19 3).toNat
def gOf (w : Word) : Nat := (fld w 22 3).toNat

/-- The pipes of a course (R166). -/
inductive Pipe where
  | a
  | s
  | m
  | u
  | c
  deriving DecidableEq, Repr

def pipeOf (w : Word) : Pipe :=
  let m := majorOf w
  if m ≤ 0x0B then .a
  else if m ≤ 0x0F then .u
  else if m ≤ 0x19 ∨ m = 0x1B then .a
  else if m ≤ 0x1F then .s
  else if m ≤ 0x37 then .m
  else if m = 0x3E then .u
  else .c

/-- Whether a word is tracked (R157). -/
def isTracked (w : Word) : Bool :=
  let m := majorOf w
  let f := fnOf w
  m == 0x1A || (0x1C ≤ m && m ≤ 0x1E) || m == 0x20 || (m == 0x21 && (f == 0 || f == 3 || f == 4))
    || m == 0x22 || m == 0x24 || m == 0x26
    || (m == 0x28 && (f ≤ 3 || f == 7 || f == 8 || f == 11))
    || (m == 0x29 && (f % 4 == 0 || f % 4 == 2))
    || (m == 0x2A && f ≠ 15)
    || (0x2C ≤ m && m ≤ 0x32)
    || (m == 0x34 && (f == 0 || f == 2))
    || (m == 0x36 && (fld w 20 2).toNat == 2)

/-- Whether a word is stalling (R157). -/
def isStalling (w : Word) : Bool :=
  let m := majorOf w
  (m == 0x2B && xopOf w ≤ 2) || m == 0x35 || (m == 0x36 && (fld w 20 2).toNat ≤ 1)

/-- Whether a word is ending (R157). -/
def isEnding (w : Word) : Bool := 0x38 ≤ majorOf w && majorOf w ≤ 0x3D

/-- Whether a word is a group-wide operation (R250). -/
def isGroupWide (w : Word) : Bool := 0x2C ≤ majorOf w && majorOf w ≤ 0x31

/-! ## Register fields (R58, R163, R169) -/

/-- A run of registers that a word names: its first register, how many, and the alignment of the first. -/
abbrev Run := Nat × Nat × Nat

def one (w : Word) (lo : Nat) : Run := ((fld w lo 6).toNat, 1, 1)
def two (w : Word) (lo : Nat) : Run := ((fld w lo 6).toNat, 2, 2)
def four (w : Word) (lo : Nat) : Run := ((fld w lo 6).toNat, 4, 4)

/-- The runs of an atomic by its fn (R242). -/
def atomRuns (w : Word) (f : Nat) : List Run :=
  if f ≤ 8 then [one w 16, two w 10, one w 4]
  else if f = 9 then [one w 16, two w 10, two w 4]
  else if f ≤ 12 then [two w 16, two w 10, two w 4]
  else [two w 16, two w 10, four w 4]

/-- The vector registers that a word names, XF windows apart. The alignment of the `.128` forms of major 0x34 is judged as the word
executes (R283, R363). -/
def vecRuns (w : Word) (lit : Word) : List Run :=
  let f := fnOf w
  let dab := [one w 16, one w 10, one w 4]
  let da := [one w 16, one w 10]
  match majorOf w with
  | 0x00 => if f = 13 ∨ f = 14 then [two w 16, two w 10, two w 4] else dab
  | 0x01 => if f = 4 then da else dab
  | 0x02 => if 3 ≤ f ∧ f ≤ 6 then da else dab
  | 0x09 => if f % 8 = 2 ∨ f % 8 = 3 then [two w 13, two w 7] else [one w 13, one w 7]
  | 0x0A => if f = 1 then [two w 16, two w 10] else if 2 ≤ f ∧ f ≤ 5 then [] else if f = 6 then [one w 16]
      else if f = 7 then [one w 10] else if f = 8 then dab else da
  | 0x0B => [one w 16]
  | 0x0C => []
  | 0x0D => []
  | 0x0E => match gOf w with | 0 => [one w 16] | 1 => [one w 8] | 2 => [two w 16] | _ => [two w 8]
  | 0x0F => []
  | 0x10 => dab
  | 0x11 => if f = 2 ∨ f = 3 then da else dab
  | 0x12 => if f = 3 ∨ f = 4 then da else dab
  | 0x13 => if f = 3 ∨ f = 4 then da else dab
  | 0x16 => [one w 13, one w 7]
  | 0x17 => if 14 ≤ f then [one w 16, two w 10] else da
  | 0x18 => if 14 ≤ f then [two w 16, one w 10] else da
  | 0x19 => dab
  | 0x1B => dab
  | 0x1C => []
  | 0x1D => if f ≤ 2 then [one w 10] else if f ≤ 4 then [two w 10] else if f ≤ 7 then [one w 16]
      else if f ≤ 9 then [two w 16] else []
  | 0x1E => []
  | 0x1F => if xopOf w = 4 then [one w 10] else []
  | 0x20 => [two w 10]
  | 0x21 => [two w 10]
  | 0x22 => [one w 16, two w 10]
  | 0x23 => [one w 16, two w 10]
  | 0x24 => [two w 16, two w 10]
  | 0x25 => [two w 16, two w 10]
  | 0x26 => [four w 16, two w 10]
  | 0x27 => [four w 16, two w 10]
  | 0x28 => if f = 8 ∨ f = 10 then [two w 16, two w 10] else if f = 11 ∨ f = 12 then [four w 16, two w 10]
      else [one w 16, two w 10]
  | 0x29 => if 2 ≤ f % 4 then [two w 16, one w 10] else da
  | 0x2A => if f ≤ 13 then atomRuns w f else if f = 14 then atomRuns w (lit.toNat % 16)
      else if redWidth (fld w 16 6).toNat = 8 then [two w 10, two w 4] else [two w 10, one w 4]
  | 0x2B => if 3 ≤ xopOf w then [two w 10] else []
  | 0x2E => if f % 4 = 3 then [two w 16, two w 10] else da
  | 0x2F => if f % 4 = 3 then [two w 16, two w 10] else da
  | 0x31 => if f % 4 = 0 then [two w 16, two w 10] else []
  | 0x32 => []
  | 0x33 => []
  | 0x34 => match f with
    | 0 => da
    | 2 => [((fld w 16 6).toNat, 4, 1), one w 10]
    | 3 => [one w 10, ((fld w 4 6).toNat, 4, 1)]
    | _ => [one w 10, one w 4]
  | 0x35 => []
  | 0x36 => if (fld w 20 2).toNat = 2 then [one w 14] else []
  | 0x38 => []
  | 0x39 => []
  | 0x3A => if 4 ≤ gOf w then [two w 16] else []
  | 0x3B => []
  | 0x3C => if gOf w = 4 then [one w 10] else []
  | 0x3D => []
  | 0x3E => match gOf w with | 0 => [one w 16] | 2 => [one w 10] | _ => []
  | _ => da

/-- Whether a uniform field names an odd pair (R212, R236). -/
def uniOdd (w : Word) : Bool :=
  match majorOf w with
  | 0x0E => match gOf w with | 2 => (fld w 8 8).getLsbD 0 | 3 => (fld w 14 8).getLsbD 0 | _ => false
  | 0x29 => (fld w 2 8).getLsbD 0
  | _ => false

/-- The illegal uses that are checked with the packet: R169, and `red.add.f32` in a DET launch (R151, R170). -/
def usesBad (w lit : Word) (n : Nat) (det : Bool) : Bool :=
  (vecRuns w lit).any (fun r => decide (r.1 % r.2.2 ≠ 0 ∨ n < r.1 + r.2.1)) || uniOdd w
    || (det && majorOf w == 0x2A && fnOf w == 15 && (fld w 16 6).toNat == 8)

/-! ## Destinations, for the check of chained pairs (R166) -/

/-- A destination: a vector, uniform, predicate or system register. -/
inductive Dest where
  | v (i : Nat)
  | s (i : Nat)
  | p (i : Nat)
  | sys (i : Nat)
  deriving DecidableEq, Repr

def vDest (b n : Nat) : List Dest := (List.range n).map fun i => .v (b + i)

/-- The registers of a window destination, judged from the word alone (R166). -/
def xDest (b : Nat) : List Dest := vDest b (min 8 (64 - b))

/-- A predicate destination; p7 discards. -/
def pDest (p : Nat) : List Dest := if p = 7 then [] else [.p p]

/-- PREC, whose XUF an XF result may set (R64). -/
def xufDest : List Dest := [.sys 0]

/-- The predicates that a parameter register may name for validity (R253, R257). -/
def anyPred : List Dest := (List.range 7).map .p

/-- The registers that a word may write in any thread. -/
def destsOf (w lit : Word) : List Dest :=
  let f := fnOf w
  let d := (fld w 16 6).toNat
  let a := (fld w 10 6).toNat
  let u := (fld w 14 8).toNat
  match majorOf w with
  | 0x00 => vDest d (if f = 13 ∨ f = 14 then 2 else 1)
  | 0x09 => pDest (xopOf w)
  | 0x0A => if f = 1 then vDest d 2 else if (2 ≤ f ∧ f ≤ 5) ∨ f = 7 then pDest (d % 8) else vDest d 1
  | 0x0C => [.s u]
  | 0x0D => [.s u]
  | 0x0E => match gOf w with | 0 => vDest d 1 | 1 => [.s u] | 2 => vDest d 2 | _ => [.s u, .s (u + 1)]
  | 0x0F => if gOf w = 0 then [.s u] else pDest (u % 8)
  | 0x16 => pDest (xopOf w)
  | 0x18 => vDest d (if 14 ≤ f then 2 else 1)
  | 0x1C => xDest d ++ xufDest
  | 0x1D => if f ≤ 4 ∨ 10 ≤ f then xDest d ++ xufDest else vDest d (if f ≤ 7 then 1 else 2)
  | 0x1E => pDest (xopOf w)
  | 0x1F => [.sys 0]
  | 0x20 => xDest d
  | 0x21 => (if f = 0 ∨ f = 3 ∨ f = 4 then xDest d else []) ++ (if 3 ≤ f then vDest a 2 else []) ++
      if f = 2 ∨ f = 3 ∨ f = 6 then [] else xufDest
  | 0x22 => vDest d 1
  | 0x24 => vDest d 2
  | 0x26 => vDest d 4
  | 0x28 => if f ≤ 3 ∨ f = 7 then vDest d 1 else if f = 8 then vDest d 2 else if f = 11 then vDest d 4 else []
  | 0x29 => if f % 4 = 0 then vDest d 1 else if f % 4 = 2 then vDest d 2 else []
  | 0x2A =>
    if f = 15 then []
    else
      let g := if f = 14 then lit.toNat % 16 else f
      vDest d (if g ≤ 9 then 1 else 2)
  | 0x2E => vDest d (if f % 4 = 3 then 2 else 1)
  | 0x2F => vDest d (if f % 4 = 3 then 2 else 1)
  | 0x2C => vDest d 1 ++ anyPred
  | 0x31 => if f % 4 = 0 then vDest d 2 ++ anyPred else []
  | 0x32 => pDest (xopOf w)
  | 0x34 => if f = 0 then vDest d 1 else if f = 2 then vDest d 4 else []
  | 0x36 => if (fld w 20 2).toNat = 2 then vDest (fld w 14 6).toNat 1 else []
  | 0x3B => if gOf w = 1 then pDest (fld w 17 3).toNat else []
  | 0x3C => if gOf w = 0 then pDest (xopOf w) else []
  | 0x3E => match gOf w with
    | 0 => vDest d 1
    | 1 => [.s u]
    | 2 => [.sys (w.toNat % 256)]
    | _ => [.sys u]
  | m => if m ≤ 0x1B ∨ (0x2C ≤ m ∧ m ≤ 0x30) then vDest d 1 else []

/-! ## The packet (R154 to R160, R170, R171) -/

/-- The kind of slot 1 to 3: 0 instruction, 1 literal, 2 empty, 3 reserved. -/
def slotKind (ws : List Word) (i : Nat) : Nat := (fld (ws.getD 0 0) (20 + 2 * i) 2).toNat

def slotWord (ws : List Word) (i : Nat) : Word := ws.getD i 0

/-- The literal that follows a slot, if one does. -/
def slotLit (ws : List Word) (i : Nat) : Option Word :=
  if i < 3 ∧ slotKind ws (i + 1) = 1 then some (slotWord ws (i + 1)) else none

/-- The flags that a packet waits for, as a mask. -/
def waitMask (ws : List Word) : BitVec 12 := fld (ws.getD 0 0) 0 12

/-- The valid set-flag fields, in order (R155). -/
def setFlags (ws : List Word) : List Nat :=
  let c := ws.getD 0 0
  (if c.getLsbD 16 then [(fld c 12 4).toNat] else []) ++ (if c.getLsbD 21 then [(fld c 17 4).toNat] else [])

def yieldBit (ws : List Word) : Bool := (ws.getD 0 0).getLsbD 28

/-- Whether a slot holds an instruction. -/
def isInstr (ws : List Word) (i : Nat) : Bool := slotKind ws i == 0

/-- The set-flag field that the tracked word of a slot takes (R158). -/
def flagOf (ws : List Word) (i : Nat) : Option Nat :=
  let before := ((List.range 3).filter fun k => decide (k + 1 < i) && isInstr ws (k + 1) && isTracked (slotWord ws (k + 1))).length
  (setFlags ws)[before]?

/-- The first slot from `i` that holds an instruction (R370). -/
def nextSlot (ws : List Word) (i : Nat) : Option Nat := ([1, 2, 3].filter fun k => decide (i ≤ k) && isInstr ws k).head?

/-- Whether the word of a slot breaks the rules of a chained pair (R166). -/
def chainBad (ws : List Word) (i : Nat) : Bool :=
  let w := slotWord ws i
  let x := slotWord ws (i + 1)
  chainBit w &&
    (decide (3 ≤ i) || !isInstr ws (i + 1) || pipeOf w == pipeOf x || isEnding w || isStalling w
      || (decide (2 ≤ i) && isInstr ws (i - 1) && chainBit (slotWord ws (i - 1)))
      || (destsOf w 0).any fun d => (destsOf x ((slotLit ws (i + 1)).getD 0)).contains d)

/-- Whether one slot makes its packet an illegal encoding (R170). -/
def slotBad (ws : List Word) (i : Nat) : Bool :=
  match slotKind ws i with
  | 0 =>
    let w := slotWord ws i
    (match rowOf w (slotLit ws i) with | .ok _ => false | .error _ => true)
      || chainBad ws i
      || (isEnding w && ([2, 3].any fun k => decide (i < k) && slotKind ws k != 2 && !(k == i + 1 && slotKind ws k == 1)))
      || (isStalling w && (decide (i ≠ 1) || slotKind ws 2 != 2 || slotKind ws 3 != 2))
  | 1 => decide (i = 1) || !isInstr ws (i - 1)
  | 2 => false
  | _ => true

/-- Whether a packet is an illegal encoding (R170). -/
def packetBad (ws : List Word) : Bool :=
  fld (ws.getD 0 0) 29 3 != 0 || (setFlags ws).any (fun f => decide (12 ≤ f)) || [1, 2, 3].any (slotBad ws)

/-- The class of an illegal packet for threads that hold `n` registers (R170). -/
def packetClass (ws : List Word) (n : Nat) (det : Bool) : Option Nat :=
  if packetBad ws then some 0x0101
  else if [1, 2, 3].any fun i => isInstr ws i && usesBad (slotWord ws i) ((slotLit ws i).getD 0) n det then some 0x0102
  else none

/-! ## Immediates (R164) -/

/-- imm10, or the literal on the escape. -/
def immOf (i : BitVec 10) (lit : Word) : Word := if i = 0x200#10 then lit else i.signExtend 32

/-- imm6, or the literal on the escape. -/
def imm6Of (i : BitVec 6) (lit : Word) : Word := if i = 0x20#6 then lit else i.signExtend 32

/-- The address of an M-format access (R236). -/
def View.mAddr (w : View) (a : Nat) (o : BitVec 10) (lit : Word) : Nat :=
  (w.pair a + (immOf o lit).signExtend 64).toNat % 2 ^ 56

/-- The address at a uniform base (R236). -/
def View.sAddr (w : View) (sb a : Nat) : Nat := (w.upair sb + (w.rd a).zeroExtend 64).toNat % 2 ^ 56

/-! ## Acting on the bundle -/

/-- The bundle in progress with its team. -/
def State.current (s : State) : Option (Bundle × Team) :=
  match s.bundle with
  | none => none
  | some b => (s.team? b.team).map fun t => (b, t)

/-- One thread under a vector word: the writes of `f` when it is in the bundle and its guard is 1. -/
def Bundle.lane (b : Bundle) (t : Team) (g : BitVec 3) (f : View → List Wr) (h : Thread) : Thread :=
  if b.ranks.contains h.lrank && (t.view h).pred g.toNat then h.writes (f (t.view h)) else h

/-- A vector word that writes registers alone: in each thread of the bundle whose guard is 1, the writes of `f`
(R67, R202). -/
def State.vec (s : State) (g : BitVec 3) (f : View → List Wr) : State :=
  match s.current with
  | none => s
  | some (b, t) => s.modTeam b.team fun t' => { t' with threads := t.threads.map (b.lane t g f) }

/-- The same without a guard (R198, R212). -/
def State.allLanes (s : State) (f : View → List Wr) : State := s.vec 7 f

/-- The lowest-ranked thread of the bundle (R198, R212). -/
def lowest (b : Bundle) (t : Team) : Option Thread := b.ranks.head?.bind t.thread?

/-- The uniform writes of a bundle's word set out; they complete later (R28). -/
def State.sendUniform (s : State) (b : Bundle) (h : Thread) (ws : List (Nat × Word)) : State :=
  s.addOp b.team h.lrank none .none (.uniform b.frame b.course b.ranks ws)

/-- A uniform word: once per bundle, the writes to uniform registers that `f` gives from what the lowest-ranked
thread of the bundle reads at issue (R28, R211, R212). -/
def State.uni (s : State) (f : View → List (Nat × Word)) : State :=
  match s.current with
  | none => s
  | some (b, t) =>
    match lowest b t with
    | none => s
    | some h => s.sendUniform b h (f (t.view h))

/-- Acts in each thread of the bundle in turn, ascending in rank, with the word's guard: `f` for a thread that
executes the word, `k` for one that does not (R67). -/
def State.lanes (s : State) (g : BitVec 3) (f : State → Team → Thread → View → State) : State :=
  match s.current with
  | none => s
  | some (b, _) => b.ranks.foldl (fun s r =>
      match s.team? b.team with
      | none => s
      | some t =>
        match t.thread? r with
        | none => s
        | some h => if h.exited then s else if (t.view h).pred g.toNat then f s t h (t.view h) else s) s

/-- How a word fails in a thread: an illegal use (R363), or an access or use that Machine/Memory.lean names (R379, R383, R386). -/
inductive Fail where
  | illegal
  | mem (r : Res)
  deriving DecidableEq, Repr

/-- The strength of a failure's action (R362): STOP 4, TEAM 3, GROUP 2, then TRAP with 1, which no access takes, and RETRY. -/
def Fail.strength (f : Fail) : Nat :=
  match f with
  | .illegal => 2
  | .mem (.data _) => 4
  | .mem (.poison _) => 3
  | .mem (.bad _ _) => 2
  | .mem (.xlate _ _) => 0
  | .mem (.ok _) => 0

/-- A thread whose access did not translate keeps the resume point of R380, the slot of the word. -/
def State.backTo (s : State) (team r : Nat) (at_ : BitVec 56) : State :=
  (s.leave team r).modThread team r fun h => { h with pc := at_, cont := false, snap := none }

/-- Whether a failure is one of translation. -/
def Fail.missed (f : Fail) : Bool := match f with | .mem (.xlate _ _) => true | _ => false

/-- The action of the strongest of the failures that the threads of a team met at one instant, alone (R362): STOP and TEAM once, GROUP for each
group, RETRY with every address that failed, recorded for the lowest of the threads, which come in ascending rank (R380). -/
def State.takeFailures (s : State) (id : Nat) (fs : List (Nat × Fail)) : State :=
  let top := maxOf 0 (fs.map (·.2.strength))
  let again := fs.filter fun e => e.2.missed
  let worst := fs.filter fun e => e.2.strength == top
  let act := fun (s : State) (e : Nat × Fail) => match s.team? id, s.thread? id e.1 with
    | some t, some h => (match e.2 with | .illegal => s.illegal t h 0x0102 | .mem r => s.failAccess t h r)
    | _, _ => s
  let s := if top = 0 then s else (if top = 2 then worst else worst.take 1).foldl act s
  let vas := again.filterMap fun e => match e.2 with | .mem (.xlate va d) => some (va, d) | _ => none
  if top ≠ 0 then s else
  match again.head?, vas.head?, s.team? id with
  | some e, some (va, d), some t => (match t.thread? e.1 with | some h => s.retry t h vas va d | none => s)
  | _, _, _ => s

/-- The failures that one word met in the threads of a team: the action of the strongest of them, and a thread whose access did not translate
issues the word again (R362, R380). -/
def State.failures (s : State) (id : Nat) (fs : List (Nat × Fail)) : State :=
  let at_ := resumeAt (match s.bundle with | some b => packetOf b.pc | none => 0) (match s.bundle with | some b => b.slot | none => 0)
  (((fs.filter fun e => e.2.missed).map (·.1)).foldl (fun s r => s.backTo id r at_) s).takeFailures id fs

/-- Acts in each thread of the bundle whose guard is 1: `f` says what the word does and whether it fails there. It is done in every thread
where it does not fail, and then the failures take their action (R380, R383; log entry 83). -/
def State.faultLanes (s : State) (g : BitVec 3) (f : State → Team → Thread → View → State × Option Fail) : State :=
  match s.current with
  | none => s
  | some (b, _) =>
    let step := fun (acc : State × List (Nat × Fail)) (r : Nat) =>
      match acc.1.team? b.team with
      | none => acc
      | some t =>
        match t.thread? r with
        | none => acc
        | some h =>
          if h.exited || !(t.view h).pred g.toNat then acc
          else match f acc.1 t h (t.view h) with
            | (s, none) => (s, acc.2)
            | (s, some e) => (s, acc.2 ++ [(r, e)])
    let out := b.ranks.foldl step (s, [])
    out.1.failures b.team out.2

/-- The current slot's word, its place, and the set-flag field it takes. -/
def State.slotFlag (s : State) : Option Nat :=
  match s.bundle with | some b => flagOf b.words b.slot | none => none

/-- Whether the current slot's word is the first of a chained pair. -/
def State.chained (s : State) : Bool :=
  match s.bundle with | some b => chainBit (slotWord b.words b.slot) | none => false

/-- The slot after the current word, and after its partner in a chained pair. -/
def State.slotNow (s : State) : Nat := match s.bundle with | some b => b.slot | none => 0

/-- The address of the packet in progress (R180's `here`). -/
def State.here (s : State) : BitVec 56 := match s.bundle with | some b => packetOf b.pc | none => 0

/-- The words that a trap record and a resume point need (R370, R371). -/
def State.trapAt (s : State) (cause : Nat) (slot : Nat) : TrapInfo :=
  match s.bundle with
  | some b => { cause := cause, slot := b.slot, word := slotWord b.words b.slot, packet := packetOf b.pc,
                resume := resumeAt (packetOf b.pc) slot }
  | none => { cause := cause, slot := 0, word := 0, packet := 0, resume := 0 }

end Sys2Proof.Machine
end

