-- ==== Sys2Proof/Machine/Flags.lean ====
section
/-!
DEFINITION. Machine/Flags.lean: the fetch of a packet, what makes a thread ready (R35, R105, R106, R142, R156), completion flags (R158, R159), the relations that write predicates (R208, R213,
R222, R233), the fields of PREC (R64) and of TSTAT (R65).
-/

namespace Sys2Proof.Machine

open Sys2Proof

/-! ## Fetch -/

/-- What a fetch gives: the four words of a packet, a failed address, or an uncorrectable granule. -/
inductive Fetch where
  | ok (ws : List Word)
  | fail (r : Res)
  | poison (va : Nat)
  deriving DecidableEq, Repr

/-- The packet at an address through the core's instruction cache, whose lines stay as they were fetched (R105). -/
def State.fetch (s : State) (t : Team) (pc : Nat) : State × Fetch :=
  if isLocal pc then (s, .fail (.bad 2 pc)) else
  match s.ctx? t.ctx with
  | none => (s, .fail (.bad 1 pc))
  | some c =>
    match s.global t.die (some t.core) c pc 16 2 2 with
    | (s, .ok a) =>
      let pa := a.bytes.headD 0
      let cut := fun (line : List Byte) => Fetch.ok (wordsOf ((line.drop (pa % 128)).take 16))
      match (s.core? t.die t.core).bind fun k => k.icache.find? fun e => e.1 == lineOf pa with
      | some e => (s, cut e.2)
      | none =>
        if s.poisoned a.bytes then (s, .poison pc)
        else
          let r := s.homeRead t.ctx { a with bytes := (List.range 128).map (128 * lineOf pa + ·) }
          (r.1.modCore t.die t.core fun k => { k with icache := k.icache ++ [(lineOf pa, r.2.1)] }, cut r.2.1)
    | (s, r) => (s, .fail r)

/-! ## Readiness (R35, R142, R156) -/

/-- The slot at which a PC starts its packet (R370). -/
def pcSlot (pc : BitVec 56) : Nat := max 1 (pc.toNat / 4 % 4)

/-- Whether a thread's team lets it issue: resident and under way, or, while its save waits, a thread with an open window or inside a
packet; in a stopped context only a thread inside a packet (R134, R34, R144, R264, R358). -/
def State.teamIssues (s : State) (t : Team) (h : Thread) : Bool :=
  let going := match s.launch? t.launch with
    | some l => decide (l.minIssue ≤ s.gtime t.die) && (!l.desc.ens || decide (l.desc.nteams ≤ l.nextTeam))
    | none => false
  let free := match s.ctx? t.ctx with | some c => !c.stopped | none => false
  going && (free || h.cont) && (t.standing == .resident || (t.standing == .saving && (h.cont || !h.openWin.isEmpty)))

/-- Whether a thread could issue, its packet's flags and the resources it needs apart. A thread that a debugger stopped inside a packet goes
on to its boundary (R376). -/
def State.couldIssue (s : State) (t : Team) (h : Thread) : Bool :=
  s.teamIssues t h && !h.exited && (!h.stopped || h.cont) && h.park == .none && h.trap.isNone && h.yieldAt.isNone && !h.pmk
    && !s.held t.id h.lrank
    && !((s.bundle.toList ++ s.others).any fun b => b.team == t.id && b.ranks.contains h.lrank)

/-- Whether the flags that a packet names are clear; a thread inside its packet does not wait again. -/
def flagsClear (h : Thread) (ws : List Word) : Bool :=
  h.cont || (h.flags &&& waitMask ws == 0 && (setFlags ws).all fun f => !h.flags.getLsbD f)

/-- The address of a load or prefetch word, if it is one. -/
def loadAddr? (v : View) (w lit : Word) : Option Nat :=
  let f := fnOf w
  let a := (fld w 10 6).toNat
  let m := v.mAddr a (fld w 0 10) lit
  match majorOf w with
  | 0x20 => some m
  | 0x21 => if f = 0 ∨ f = 3 ∨ f = 4 then some (v.addr a) else none
  | 0x22 => some m
  | 0x24 => some m
  | 0x26 => some m
  | 0x28 => if f ≤ 3 ∨ f = 7 ∨ f = 8 ∨ f = 11 then some (v.addr a) else none
  | 0x29 => if f % 4 = 0 ∨ f % 4 = 2 then some (v.sAddr (fld w 2 8).toNat a) else none
  | 0x2B => if 3 ≤ xopOf w then some m else none
  | _ => none

/-- The address of any access of a word to memory, with the bytes that its sectors may span: an XF element's, or one, since no other
access crosses a sector (R106, R237). -/
def memTouch? (v : View) (w lit : Word) : Option (Nat × Nat) :=
  let a := (fld w 10 6).toNat
  let m := v.mAddr a (fld w 0 10) lit
  match majorOf w with
  | 0x20 => some (m, 32)
  | 0x21 => some (v.addr a, 32)
  | 0x28 => some (v.addr a, 1)
  | 0x29 => some (v.sAddr (fld w 2 8).toNat a, 1)
  | 0x2A => some (v.addr a, 1)
  | 0x2B => if 3 ≤ xopOf w then some (m, 1) else none
  | m' => if 0x22 ≤ m' ∧ m' ≤ 0x27 then some (m, 1) else none

/-- The global sectors that a word needs in a thread whose guard is 1. -/
def wordSectors (v : View) (w lit : Word) : List Nat :=
  match memTouch? v w lit with
  | some (a, n) => if v.pred (gOf w) ∧ !isLocal (a % 2 ^ 56) then [a / 32, (a + n - 1) / 32].dedup else []
  | none => []

/-- The slots that issue together at a slot: it, and its partner in a chained pair. -/
def slotsAt (ws : List Word) (k : Nat) : List Nat := if chainBit (slotWord ws k) then [k, k + 1] else [k]

/-- Whether a thread waits for a load permit of its team: a word that it is about to issue is a global load or prefetch (R142). -/
def State.wantsPermit (s : State) (t : Team) (h : Thread) (ws : List Word) (k : Nat) : Bool :=
  !(match s.core? t.die t.core with | some c => c.permits.contains t.id | none => false) && (slotsAt ws k).any fun k =>
    match loadAddr? (t.view h) (slotWord ws k) ((slotLit ws k).getD 0) with
    | some a => (t.view h).pred (gOf (slotWord ws k)) && !isLocal (a % 2 ^ 56)
    | none => false

/-- The sectors that a call's spill or a return's fill needs (R184). -/
def State.stackSectors (s : State) (t : Team) (h : Thread) (w : Word) : List Nat :=
  let call := majorOf w == 0x39 || (majorOf w == 0x3A && gOf w == 5)
  let ret := majorOf w == 0x3A && gOf w == 0
  sectorsOf ((if call then s.spillOf t h else if ret then s.fillOf t h else none).toList)

/-- The sectors that the words which a thread is about to issue need. -/
def State.sectorsAt (s : State) (t : Team) (h : Thread) (ws : List Word) (k : Nat) : List Nat :=
  ((slotsAt ws k).flatMap fun k =>
    wordSectors (t.view h) (slotWord ws k) ((slotLit ws k).getD 0) ++ s.stackSectors t h (slotWord ws k)).dedup

/-- Entries of a core's table of outstanding requests, and how many are free: a request is one sector of one word (R15, R106). -/
def requestRoom : Nat := 4096
def State.freeRequests (s : State) (die core : Nat) : Nat :=
  let mine := s.ops.filter fun o => match s.team? o.team with | some t => t.die == die && t.core == core | none => false
  requestRoom - (mine.flatMap fun o => o.sectors.map fun x => (o.issue, x)).dedup.length

/-- Whether sectors find no entries of a core's table. -/
def State.tableFull (s : State) (die core : Nat) (need : List Nat) : Bool := !need.isEmpty && decide (s.freeRequests die core < need.length)

/-- Whether a thread cannot issue its next word yet (R35): for a load permit, or for entries of the request table. -/
def State.lacks (s : State) (t : Team) (h : Thread) (ws : List Word) (k : Nat) : Bool :=
  s.wantsPermit t h ws k || s.tableFull t.die t.core (s.sectorsAt t h ws k)

/-- Whether a thread is ready: it can issue now (R35, R156). -/
def State.ready (s : State) (t : Team) (h : Thread) : Bool :=
  s.couldIssue t h && match (s.fetch t (packetOf h.pc).toNat).2 with
    | .ok ws => flagsClear h ws && (match nextSlot ws (pcSlot h.pc) with | some k => !s.lacks t h ws k | none => true)
    | _ => true

/-- A thread that was not ready in `old` and is now counts its age from now (R139). -/
def State.newlyReady (old s : State) (die core : Nat) : State :=
  let clock := s.clock die core
  let woken := fun (t : Team) (h : Thread) => s.ready t h &&
    match old.team? t.id, old.thread? t.id h.lrank with | some u, some g => !old.ready u g | _, _ => false
  (s.teams.filter fun t => t.die == die && t.core == core).foldl (fun r t =>
    ((t.threads.filter (woken t)).map (·.lrank)).foldl (fun r k => r.modThread t.id k fun h => { h with readyAt := clock, aged := false }) r) s

/-! ## Completion flags -/

def setBit (fs : BitVec 12) (f : Nat) : BitVec 12 := fs ||| (1#12 <<< f)
def clearBit (fs : BitVec 12) (f : Nat) : BitVec 12 := fs &&& ~~~(1#12 <<< f)

/-- The flag of a tracked word set in a thread as it issues (R158). -/
def State.raise (s : State) (team r : Nat) (flag : Option Nat) : State :=
  match flag with | some f => s.modThread team r fun h => { h with flags := setBit h.flags f } | none => s

/-- A flag clears once no instruction that it tracks is unfinished (R159). -/
def State.settleFlag (s : State) (team r : Nat) (flag : Option Nat) : State :=
  match flag with
  | some f =>
    if s.ops.any (fun o => o.team == team && o.lrank == r && o.flag == some f) then s
    else s.modThread team r fun h => { h with flags := clearBit h.flags f }
  | none => s

/-- The core of an operation's thread: a thread there that its end makes ready counts as ready from now (R35, R139). -/
def State.readyNow (s : State) (old : State) (o : Op) : State :=
  match s.team? o.team with
  | some t => old.newlyReady s t.die t.core
  | none => s

/-- An operation ends: it leaves the list and its flag clears. -/
def State.endOp (s : State) (o : Op) : State :=
  (({ s with ops := s.ops.filter fun x => x.id != o.id }).settleFlag o.team o.lrank o.flag).readyNow s o

/-- What a tracked word holds back: with `slot` the slot after its pair too (R409), and without a flag the next packet (R158). -/
def holdOf (slot : Bool) (flag : Option Nat) : Hold := if slot then .slot else if flag.isNone then .packet else .none

/-- A tracked operation begins in a thread: its flag sets, and without a flag it holds the thread's next packet (R158). -/
def State.track (s : State) (team r : Nat) (slot : Bool) (b : OpBody) : State :=
  let f := s.slotFlag
  (s.raise team r f).addOp team r f (holdOf slot f) b

/-! ## Relations -/

/-- The relations of R208 on integers; 6 is the bit test. -/
def icmpHolds (k : Nat) (x y : Int) (tst : Bool) : Bool :=
  match k with
  | 0 => decide (x = y)
  | 1 => decide (x ≠ y)
  | 2 => decide (x < y)
  | 3 => decide (x ≤ y)
  | 4 => decide (y < x)
  | 5 => decide (y ≤ x)
  | _ => tst

/-- The relations of R222 on values, 0 to 7. -/
def fcmpHolds (k : Nat) (x y : Val) : Bool :=
  let o := x.cmp y
  match k with
  | 0 => o == some .eq
  | 1 => o != some .eq
  | 2 => o == some .lt
  | 3 => o == some .lt || o == some .eq
  | 4 => o == some .gt
  | 5 => o == some .gt || o == some .eq
  | 6 => o.isNone
  | _ => o.isSome

/-- The class of a value of an IEEE format (R222): subnormal means below the smallest normal. -/
def classOf (f : Fmt) (x : Val) : Nat :=
  match x with
  | .nan => 8
  | .inf a => if a then 0 else 7
  | .fin a m _ =>
    if m = 0 then (if a then 3 else 4)
    else if m < 2 ^ f.fb then (if a then 2 else 5)
    else (if a then 1 else 6)

/-! ## PREC (R64) -/

def precP (w : Word) : Nat := w.toNat % 256
def precRM (w : Word) : Nat := w.toNat / 256 % 8
def precX (w : Word) : Bool := w.getLsbD 11
def precXUF (w : Word) : Bool := w.getLsbD 12
def precMode (w : Word) : Mode := modeOf (precRM w)

/-- PREC from its fields. -/
def precOf (p rm : Nat) (x xuf : Bool) : Word :=
  BitVec.ofNat 32 (p + 256 * rm + (if x then 2048 else 0) + (if xuf then 4096 else 0))

/-- PREC with P and RM replaced; none for values that R64 rejects. -/
def precSet (w : Word) (p : Int) (rm : Nat) (x : Bool) : Option Word :=
  if 1 ≤ p ∧ p ≤ 237 ∧ rm ≤ 4 then some (precOf p.toNat rm x (precXUF w)) else none

/-- A write of PREC as a whole: XUF clears where the written bit is 1 (R64). -/
def precWrite (old new : Word) : Option Word :=
  if 1 ≤ precP new ∧ precP new ≤ 237 ∧ precRM new ≤ 4 then
    some (precOf (precP new) (precRM new) (precX new) (precXUF old && !precXUF new))
  else none

/-- PREC as a debugger or a restored image gives it: reserved bits are dropped, and a P or RM that R64 rejects leaves the register as it
was (R8; log entry 77). -/
def precLoad (old new : Word) : Word :=
  if 1 ≤ precP new ∧ precP new ≤ 237 ∧ precRM new ≤ 4 then precOf (precP new) (precRM new) (precX new) (precXUF new) else old

/-! ## TSTAT (R65) -/

/-- TSTAT as a thread of frame `f` reads it. -/
def tstatOf (ens det mrgc : Bool) (f : Frame) : Word :=
  BitVec.ofNat 32 (f.depth % 16 + 16 * (f.callee % 4) + (if mrgc then 256 else 0) + (if det then 512 else 0)
    + (if ens then 1024 else 0))

end Sys2Proof.Machine
end

