-- ==== Sys2Proof/Machine/Integer.lean ====
section
/-!
DEFINITION. Machine/Integer.lean: majors 0x00 to 0x0F (R202 to R214).
-/

namespace Sys2Proof.Machine

open Sys2Proof

/-- The outcome of a meaning. -/
abbrev Out := Host.Outcome State Fault Refusal

/-! ## Shared arithmetic -/

/-- A saturated integer as 32 bits (R204). -/
def sat32 (x lo hi : Int) : Word := BitVec.ofInt 32 (clamp x lo hi)

/-- The smallest and largest signed and the largest unsigned 32-bit numbers. -/
def loI32 : Int := -2147483648
def hiI32 : Int := 2147483647
def hiN32 : Int := 4294967295

/-- Position and length of a bit-field control word (R206). -/
def fieldPos (b : Word) : Nat := b.toNat % 32
def fieldLen (b : Word) : Nat := min (b.toNat / 256 % 64) 32

/-- A bit field, zero-extended (R206). -/
def bitget (a b : Word) : Word := BitVec.ofNat 32 (a.toNat / 2 ^ fieldPos b % 2 ^ fieldLen b)

/-- A bit field, its top bit copied upwards; a top bit beyond the register is 0 (R206). -/
def bitgetSigned (a b : Word) : Word :=
  let n := fieldLen b
  let f := bitget a b
  if n = 0 then f
  else if f.getLsbD (n - 1) then f ||| BitVec.ofNat 32 (2 ^ 32 - 2 ^ n) else f

/-- The bits that an insertion replaces (R206). -/
def fieldMask (b : Word) : Word := BitVec.ofNat 32 ((2 ^ fieldLen b - 1) * 2 ^ fieldPos b)

/-- An insertion of the low bits of `a` into `d` (R206). -/
def bitins (d a b : Word) : Word :=
  (d &&& ~~~(fieldMask b)) ||| (BitVec.ofNat 32 (a.toNat * 2 ^ fieldPos b) &&& fieldMask b)

/-- The number of 1 bits among the low `n`. -/
def ones : Nat → Word → Nat
  | 0, _ => 0
  | n + 1, x => ones n x + (if x.getLsbD n then 1 else 0)

/-- Zeros above the highest 1 bit among the low `n`. -/
def leading : Nat → Word → Nat
  | 0, _ => 0
  | n + 1, x => if x.getLsbD n then 0 else leading n x + 1

/-- Zeros below the lowest 1 bit of `n` bits, from bit `32 - n`. -/
def trailing32 : Nat → Word → Nat
  | 0, _ => 0
  | n + 1, x => if x.getLsbD (31 - n) then 0 else trailing32 n x + 1

/-- The bits in reverse order. -/
def reverse32 (x : Word) : Word := BitVec.ofNat 32 ((List.range 32).foldl (fun r i => 2 * r + (x.getLsbD i).toNat) 0)

/-- A shift left by a count, 0 at 32 and above (R205, R211). -/
def shlBy (a c : Word) : Word := if 32 ≤ c.toNat then 0 else a <<< c.toNat

/-- A shift right by a count, alike. -/
def shrBy (a c : Word) : Word := a >>> c.toNat

/-- A shift by a signed immediate (R207). -/
def shlSigned (a m : Word) : Word :=
  let n := m.toInt
  if 0 ≤ n ∧ n < 32 then a <<< n.toNat
  else if -32 < n ∧ n < 0 then a >>> (-n).toNat
  else 0

/-- One round of the mixing function (R210). -/
def mixRound (k x b : Word) : Word :=
  let x := x + b + k
  let x := x ^^^ (x >>> 16)
  let x := x * 0x5D2BA7C3
  let x := x ^^^ (x >>> 15)
  let x := x * 0x2C1F6B95
  x ^^^ (x >>> 16)

/-- The mixing function of RAND (R210). -/
def mix (a b : Word) : Word := mixRound 0xC94B70E3 (mixRound 0x6A3D2F15 a b) b

/-- The relation of an integer compare (R208). -/
def icmpOf (f k : Nat) (x y : Word) (xp yp : Dword) : Bool :=
  match f with
  | 0 => icmpHolds k x.toInt y.toInt (x &&& y != 0)
  | 1 => icmpHolds k x.toNat y.toNat (x &&& y != 0)
  | 2 => icmpHolds k xp.toInt yp.toInt (xp &&& yp != 0)
  | _ => icmpHolds k xp.toNat yp.toNat (xp &&& yp != 0)

/-- The relation of a uniform compare (R213). -/
def ucmpOf (u : Nat) (x y : Word) : Bool :=
  match u with
  | 1 => x == y
  | 2 => x != y
  | 3 => x.slt y
  | 4 => !x.slt y
  | 5 => x.ult y
  | _ => !x.ult y

/-! ## Meanings -/

/-- IADD (R204): adds two registers modulo 2^32. -/
def execIadd (_c : BitVec 1) (g : BitVec 3) (d : BitVec 6) (a : BitVec 6) (b : BitVec 6) (s : State) : Out :=
  .next (s.vec g fun w => [.reg d.toNat (w.rd a.toNat + w.rd b.toNat)])

/-- ISUB (R204): subtracts two registers modulo 2^32. -/
def execIsub (_c : BitVec 1) (g : BitVec 3) (d : BitVec 6) (a : BitVec 6) (b : BitVec 6) (s : State) : Out :=
  .next (s.vec g fun w => [.reg d.toNat (w.rd a.toNat - w.rd b.toNat)])

/-- IMUL (R204): low 32 bits of a product. -/
def execImul (_c : BitVec 1) (g : BitVec 3) (d : BitVec 6) (a : BitVec 6) (b : BitVec 6) (s : State) : Out :=
  .next (s.vec g fun w => [.reg d.toNat (w.rd a.toNat * w.rd b.toNat)])

/-- IMULHI_I32 (R204): high 32 bits of a signed product. -/
def execImulhiI32 (_c : BitVec 1) (g : BitVec 3) (d : BitVec 6) (a : BitVec 6) (b : BitVec 6) (s : State) : Out :=
  .next (s.vec g fun w => [.reg d.toNat (BitVec.ofInt 32 ((w.rd a.toNat).toInt * (w.rd b.toNat).toInt / 2 ^ 32))])

/-- IMULHI_N32 (R204): high 32 bits of an unsigned product. -/
def execImulhiN32 (_c : BitVec 1) (g : BitVec 3) (d : BitVec 6) (a : BitVec 6) (b : BitVec 6) (s : State) : Out :=
  .next (s.vec g fun w => [.reg d.toNat (BitVec.ofNat 32 ((w.rd a.toNat).toNat * (w.rd b.toNat).toNat / 2 ^ 32))])

/-- IMIN_I32 (R204): signed minimum. -/
def execIminI32 (_c : BitVec 1) (g : BitVec 3) (d : BitVec 6) (a : BitVec 6) (b : BitVec 6) (s : State) : Out :=
  .next (s.vec g fun w => [.reg d.toNat (if (w.rd b.toNat).slt (w.rd a.toNat) then w.rd b.toNat else w.rd a.toNat)])

/-- IMIN_N32 (R204): unsigned minimum. -/
def execIminN32 (_c : BitVec 1) (g : BitVec 3) (d : BitVec 6) (a : BitVec 6) (b : BitVec 6) (s : State) : Out :=
  .next (s.vec g fun w => [.reg d.toNat (if (w.rd b.toNat).ult (w.rd a.toNat) then w.rd b.toNat else w.rd a.toNat)])

/-- IMAX_I32 (R204): signed maximum. -/
def execImaxI32 (_c : BitVec 1) (g : BitVec 3) (d : BitVec 6) (a : BitVec 6) (b : BitVec 6) (s : State) : Out :=
  .next (s.vec g fun w => [.reg d.toNat (if (w.rd a.toNat).slt (w.rd b.toNat) then w.rd b.toNat else w.rd a.toNat)])

/-- IMAX_N32 (R204): unsigned maximum. -/
def execImaxN32 (_c : BitVec 1) (g : BitVec 3) (d : BitVec 6) (a : BitVec 6) (b : BitVec 6) (s : State) : Out :=
  .next (s.vec g fun w => [.reg d.toNat (if (w.rd a.toNat).ult (w.rd b.toNat) then w.rd b.toNat else w.rd a.toNat)])

/-- IADD_SAT_I32 (R204): saturating signed add. -/
def execIaddSatI32 (_c : BitVec 1) (g : BitVec 3) (d : BitVec 6) (a : BitVec 6) (b : BitVec 6) (s : State) : Out :=
  .next (s.vec g fun w => [.reg d.toNat (sat32 ((w.rd a.toNat).toInt + (w.rd b.toNat).toInt) loI32 hiI32)])

/-- IADD_SAT_N32 (R204): saturating unsigned add. -/
def execIaddSatN32 (_c : BitVec 1) (g : BitVec 3) (d : BitVec 6) (a : BitVec 6) (b : BitVec 6) (s : State) : Out :=
  .next (s.vec g fun w => [.reg d.toNat (sat32 ((w.rd a.toNat).toNat + (w.rd b.toNat).toNat) 0 hiN32)])

/-- ISUB_SAT_I32 (R204): saturating signed subtract. -/
def execIsubSatI32 (_c : BitVec 1) (g : BitVec 3) (d : BitVec 6) (a : BitVec 6) (b : BitVec 6) (s : State) : Out :=
  .next (s.vec g fun w => [.reg d.toNat (sat32 ((w.rd a.toNat).toInt - (w.rd b.toNat).toInt) loI32 hiI32)])

/-- ISUB_SAT_N32 (R204): saturating unsigned subtract. -/
def execIsubSatN32 (_c : BitVec 1) (g : BitVec 3) (d : BitVec 6) (a : BitVec 6) (b : BitVec 6) (s : State) : Out :=
  .next (s.vec g fun w => [.reg d.toNat (sat32 (((w.rd a.toNat).toNat : Int) - (w.rd b.toNat).toNat) 0 hiN32)])

/-- IADD_I64 (R204): adds register pairs modulo 2^64. -/
def execIaddI64 (_c : BitVec 1) (g : BitVec 3) (d : BitVec 6) (a : BitVec 6) (b : BitVec 6) (s : State) : Out :=
  .next (s.vec g fun w => wrPair d.toNat (w.pair a.toNat + w.pair b.toNat))

/-- ISUB_I64 (R204): subtracts register pairs modulo 2^64. -/
def execIsubI64 (_c : BitVec 1) (g : BitVec 3) (d : BitVec 6) (a : BitVec 6) (b : BitVec 6) (s : State) : Out :=
  .next (s.vec g fun w => wrPair d.toNat (w.pair a.toNat - w.pair b.toNat))

/-- IMAD (R204): multiply-add into vd modulo 2^32. -/
def execImad (_c : BitVec 1) (g : BitVec 3) (d : BitVec 6) (a : BitVec 6) (b : BitVec 6) (s : State) : Out :=
  .next (s.vec g fun w => [.reg d.toNat (w.rd d.toNat + w.rd a.toNat * w.rd b.toNat)])

/-- AND (R205): bitwise and. -/
def execAnd (_c : BitVec 1) (g : BitVec 3) (d : BitVec 6) (a : BitVec 6) (b : BitVec 6) (s : State) : Out :=
  .next (s.vec g fun w => [.reg d.toNat (w.rd a.toNat &&& w.rd b.toNat)])

/-- OR (R205): bitwise or. -/
def execOr (_c : BitVec 1) (g : BitVec 3) (d : BitVec 6) (a : BitVec 6) (b : BitVec 6) (s : State) : Out :=
  .next (s.vec g fun w => [.reg d.toNat (w.rd a.toNat ||| w.rd b.toNat)])

/-- XOR (R205): bitwise exclusive or. -/
def execXor (_c : BitVec 1) (g : BitVec 3) (d : BitVec 6) (a : BitVec 6) (b : BitVec 6) (s : State) : Out :=
  .next (s.vec g fun w => [.reg d.toNat (w.rd a.toNat ^^^ w.rd b.toNat)])

/-- ANDN (R205): and with complement. -/
def execAndn (_c : BitVec 1) (g : BitVec 3) (d : BitVec 6) (a : BitVec 6) (b : BitVec 6) (s : State) : Out :=
  .next (s.vec g fun w => [.reg d.toNat (w.rd a.toNat &&& ~~~(w.rd b.toNat))])

/-- NOT (R205): bitwise complement. -/
def execNot (_c : BitVec 1) (g : BitVec 3) (d : BitVec 6) (a : BitVec 6) (s : State) : Out :=
  .next (s.vec g fun w => [.reg d.toNat (~~~(w.rd a.toNat))])

/-- SHL (R205): logical shift left by a register count. -/
def execShl (_c : BitVec 1) (g : BitVec 3) (d : BitVec 6) (a : BitVec 6) (b : BitVec 6) (s : State) : Out :=
  .next (s.vec g fun w => [.reg d.toNat (shlBy (w.rd a.toNat) (w.rd b.toNat))])

/-- SHR (R205): logical shift right by a register count. -/
def execShr (_c : BitVec 1) (g : BitVec 3) (d : BitVec 6) (a : BitVec 6) (b : BitVec 6) (s : State) : Out :=
  .next (s.vec g fun w => [.reg d.toNat (shrBy (w.rd a.toNat) (w.rd b.toNat))])

/-- SAR (R205): arithmetic shift right. -/
def execSar (_c : BitVec 1) (g : BitVec 3) (d : BitVec 6) (a : BitVec 6) (b : BitVec 6) (s : State) : Out :=
  .next (s.vec g fun w => [.reg d.toNat ((w.rd a.toNat).sshiftRight (min (w.rd b.toNat).toNat 31))])

/-- ROTL (R205): rotate left. -/
def execRotl (_c : BitVec 1) (g : BitVec 3) (d : BitVec 6) (a : BitVec 6) (b : BitVec 6) (s : State) : Out :=
  .next (s.vec g fun w => [.reg d.toNat ((w.rd a.toNat).rotateLeft ((w.rd b.toNat).toNat % 32))])

/-- ROTR (R205): rotate right. -/
def execRotr (_c : BitVec 1) (g : BitVec 3) (d : BitVec 6) (a : BitVec 6) (b : BitVec 6) (s : State) : Out :=
  .next (s.vec g fun w => [.reg d.toNat ((w.rd a.toNat).rotateRight ((w.rd b.toNat).toNat % 32))])

/-- BITGET_N32 (R206): extracts a bit field zero-extended. -/
def execBitgetN32 (_c : BitVec 1) (g : BitVec 3) (d : BitVec 6) (a : BitVec 6) (b : BitVec 6) (s : State) : Out :=
  .next (s.vec g fun w => [.reg d.toNat (bitget (w.rd a.toNat) (w.rd b.toNat))])

/-- BITGET_I32 (R206): extracts a bit field sign-extended. -/
def execBitgetI32 (_c : BitVec 1) (g : BitVec 3) (d : BitVec 6) (a : BitVec 6) (b : BitVec 6) (s : State) : Out :=
  .next (s.vec g fun w => [.reg d.toNat (bitgetSigned (w.rd a.toNat) (w.rd b.toNat))])

/-- BITINS (R206): inserts a bit field into vd. -/
def execBitins (_c : BitVec 1) (g : BitVec 3) (d : BitVec 6) (a : BitVec 6) (b : BitVec 6) (s : State) : Out :=
  .next (s.vec g fun w => [.reg d.toNat (bitins (w.rd d.toNat) (w.rd a.toNat) (w.rd b.toNat))])

/-- POPC (R206): counts one bits. -/
def execPopc (_c : BitVec 1) (g : BitVec 3) (d : BitVec 6) (a : BitVec 6) (s : State) : Out :=
  .next (s.vec g fun w => [.reg d.toNat (BitVec.ofNat 32 (ones 32 (w.rd a.toNat)))])

/-- CLZ (R206): counts leading zeros. -/
def execClz (_c : BitVec 1) (g : BitVec 3) (d : BitVec 6) (a : BitVec 6) (s : State) : Out :=
  .next (s.vec g fun w => [.reg d.toNat (BitVec.ofNat 32 (leading 32 (w.rd a.toNat)))])

/-- CTZ (R206): counts trailing zeros. -/
def execCtz (_c : BitVec 1) (g : BitVec 3) (d : BitVec 6) (a : BitVec 6) (s : State) : Out :=
  .next (s.vec g fun w => [.reg d.toNat (BitVec.ofNat 32 (trailing32 32 (w.rd a.toNat)))])

/-- BREV (R206): reverses the bits. -/
def execBrev (_c : BitVec 1) (g : BitVec 3) (d : BitVec 6) (a : BitVec 6) (s : State) : Out :=
  .next (s.vec g fun w => [.reg d.toNat (reverse32 (w.rd a.toNat))])

/-- SEL (R206): selects va or vb by a predicate. -/
def execSel (_c : BitVec 1) (g : BitVec 3) (d : BitVec 6) (a : BitVec 6) (b : BitVec 6) (q : BitVec 3) (s : State) : Out :=
  .next (s.vec g fun w => [.reg d.toNat (if w.pred q.toNat then w.rd a.toNat else w.rd b.toNat)])

/-- IADD_UNIFORM (R207): adds a uniform register. -/
def execIaddUniform (_c : BitVec 1) (g : BitVec 3) (d : BitVec 6) (a : BitVec 6) (u : BitVec 8) (s : State) : Out :=
  .next (s.vec g fun w => [.reg d.toNat (w.rd a.toNat + w.u u.toNat)])

/-- ISUB_UNIFORM (R207): subtracts a uniform register. -/
def execIsubUniform (_c : BitVec 1) (g : BitVec 3) (d : BitVec 6) (a : BitVec 6) (u : BitVec 8) (s : State) : Out :=
  .next (s.vec g fun w => [.reg d.toNat (w.rd a.toNat - w.u u.toNat)])

/-- IMUL_UNIFORM (R207): multiplies by a uniform register. -/
def execImulUniform (_c : BitVec 1) (g : BitVec 3) (d : BitVec 6) (a : BitVec 6) (u : BitVec 8) (s : State) : Out :=
  .next (s.vec g fun w => [.reg d.toNat (w.rd a.toNat * w.u u.toNat)])

/-- AND_UNIFORM (R207): ands with a uniform register. -/
def execAndUniform (_c : BitVec 1) (g : BitVec 3) (d : BitVec 6) (a : BitVec 6) (u : BitVec 8) (s : State) : Out :=
  .next (s.vec g fun w => [.reg d.toNat (w.rd a.toNat &&& w.u u.toNat)])

/-- IADD_IMM (R207): adds an immediate or literal. -/
def execIaddImm (_c : BitVec 1) (g : BitVec 3) (d : BitVec 6) (a : BitVec 6) (i : BitVec 10) (lit : BitVec 32) (s : State) : Out :=
  .next (s.vec g fun w => [.reg d.toNat (w.rd a.toNat + immOf i lit)])

/-- AND_IMM (R207): ands with an immediate. -/
def execAndImm (_c : BitVec 1) (g : BitVec 3) (d : BitVec 6) (a : BitVec 6) (i : BitVec 10) (lit : BitVec 32) (s : State) : Out :=
  .next (s.vec g fun w => [.reg d.toNat (w.rd a.toNat &&& immOf i lit)])

/-- OR_IMM (R207): ors with an immediate. -/
def execOrImm (_c : BitVec 1) (g : BitVec 3) (d : BitVec 6) (a : BitVec 6) (i : BitVec 10) (lit : BitVec 32) (s : State) : Out :=
  .next (s.vec g fun w => [.reg d.toNat (w.rd a.toNat ||| immOf i lit)])

/-- XOR_IMM (R207): xors with an immediate. -/
def execXorImm (_c : BitVec 1) (g : BitVec 3) (d : BitVec 6) (a : BitVec 6) (i : BitVec 10) (lit : BitVec 32) (s : State) : Out :=
  .next (s.vec g fun w => [.reg d.toNat (w.rd a.toNat ^^^ immOf i lit)])

/-- SHL_IMM (R207): shifts left or, by a negative count, right by an immediate. -/
def execShlImm (_c : BitVec 1) (g : BitVec 3) (d : BitVec 6) (a : BitVec 6) (i : BitVec 10) (lit : BitVec 32) (s : State) : Out :=
  .next (s.vec g fun w => [.reg d.toNat (shlSigned (w.rd a.toNat) (immOf i lit))])

/-- ICMP (R208): compares two integers and writes a predicate. -/
def execIcmp (_c : BitVec 1) (g : BitVec 3) (p : BitVec 3) (a : BitVec 6) (b : BitVec 6) (k : BitVec 4) (f : BitVec 3) (s : State) : Out :=
  .next (s.vec g fun w => [.pred p.toNat (icmpOf f.toNat k.toNat (w.rd a.toNat) (w.rd b.toNat) (w.pair a.toNat) (w.pair b.toNat))])

/-- MOV (R209): copies a register. -/
def execMov (_c : BitVec 1) (g : BitVec 3) (d : BitVec 6) (a : BitVec 6) (s : State) : Out :=
  .next (s.vec g fun w => [.reg d.toNat (w.rd a.toNat)])

/-- MOV_64 (R209): copies a register pair. -/
def execMov64 (_c : BitVec 1) (g : BitVec 3) (d : BitVec 6) (a : BitVec 6) (s : State) : Out :=
  .next (s.vec g fun w => wrPair d.toNat (w.pair a.toNat))

/-- PAND (R209): predicate and. -/
def execPand (_c : BitVec 1) (g : BitVec 3) (d : BitVec 3) (a : BitVec 3) (b : BitVec 3) (s : State) : Out :=
  .next (s.vec g fun w => [.pred d.toNat (w.pred a.toNat && w.pred b.toNat)])

/-- POR (R209): predicate or. -/
def execPor (_c : BitVec 1) (g : BitVec 3) (d : BitVec 3) (a : BitVec 3) (b : BitVec 3) (s : State) : Out :=
  .next (s.vec g fun w => [.pred d.toNat (w.pred a.toNat || w.pred b.toNat)])

/-- PXOR (R209): predicate exclusive or. -/
def execPxor (_c : BitVec 1) (g : BitVec 3) (d : BitVec 3) (a : BitVec 3) (b : BitVec 3) (s : State) : Out :=
  .next (s.vec g fun w => [.pred d.toNat (w.pred a.toNat != w.pred b.toNat)])

/-- PANDN (R209): predicate and with complement. -/
def execPandn (_c : BitVec 1) (g : BitVec 3) (d : BitVec 3) (a : BitVec 3) (b : BitVec 3) (s : State) : Out :=
  .next (s.vec g fun w => [.pred d.toNat (w.pred a.toNat && !w.pred b.toNat)])

/-- PMOV (R209): moves a predicate into a vector register. -/
def execPmov (_c : BitVec 1) (g : BitVec 3) (d : BitVec 6) (a : BitVec 3) (s : State) : Out :=
  .next (s.vec g fun w => [.reg d.toNat (if w.pred a.toNat then 1 else 0)])

/-- PTST (R209): sets a predicate when a register is nonzero. -/
def execPtst (_c : BitVec 1) (g : BitVec 3) (d : BitVec 3) (a : BitVec 6) (s : State) : Out :=
  .next (s.vec g fun w => [.pred d.toNat (w.rd a.toNat != 0)])

/-- RAND (R210): mixes a counter and key into a random word. -/
def execRand (_c : BitVec 1) (g : BitVec 3) (d : BitVec 6) (a : BitVec 6) (b : BitVec 6) (s : State) : Out :=
  .next (s.vec g fun w => [.reg d.toNat (mix (w.rd a.toNat) (w.rd b.toNat))])

/-- MOV_H0 (R209): writes the low half of vd. -/
def execMovH0 (_c : BitVec 1) (g : BitVec 3) (d : BitVec 6) (a : BitVec 6) (s : State) : Out :=
  .next (s.vec g fun w => [.half0 d.toNat ((w.rd a.toNat).extractLsb' 0 16)])

/-- MOV_H1 (R209): writes the high half of vd. -/
def execMovH1 (_c : BitVec 1) (g : BitVec 3) (d : BitVec 6) (a : BitVec 6) (s : State) : Out :=
  .next (s.vec g fun w => [.half1 d.toNat ((w.rd a.toNat).extractLsb' 0 16)])

/-- MOV_IMM (R207): moves an immediate or literal into a vector register. -/
def execMovImm (_c : BitVec 1) (g : BitVec 3) (d : BitVec 6) (i : BitVec 10) (lit : BitVec 32) (s : State) : Out :=
  .next (s.vec g fun _ => [.reg d.toNat (immOf i lit)])

/-- UADD (R211): uniform add. -/
def execUadd (_c : BitVec 1) (d : BitVec 8) (a : BitVec 8) (b : BitVec 6) (s : State) : Out :=
  .next (s.uni fun w => [(d.toNat, w.u a.toNat + w.u b.toNat)])

/-- USUB (R211): uniform subtract. -/
def execUsub (_c : BitVec 1) (d : BitVec 8) (a : BitVec 8) (b : BitVec 6) (s : State) : Out :=
  .next (s.uni fun w => [(d.toNat, w.u a.toNat - w.u b.toNat)])

/-- UMUL (R211): uniform multiply. -/
def execUmul (_c : BitVec 1) (d : BitVec 8) (a : BitVec 8) (b : BitVec 6) (s : State) : Out :=
  .next (s.uni fun w => [(d.toNat, w.u a.toNat * w.u b.toNat)])

/-- UAND (R211): uniform and. -/
def execUand (_c : BitVec 1) (d : BitVec 8) (a : BitVec 8) (b : BitVec 6) (s : State) : Out :=
  .next (s.uni fun w => [(d.toNat, w.u a.toNat &&& w.u b.toNat)])

/-- UOR (R211): uniform or. -/
def execUor (_c : BitVec 1) (d : BitVec 8) (a : BitVec 8) (b : BitVec 6) (s : State) : Out :=
  .next (s.uni fun w => [(d.toNat, w.u a.toNat ||| w.u b.toNat)])

/-- UXOR (R211): uniform exclusive or. -/
def execUxor (_c : BitVec 1) (d : BitVec 8) (a : BitVec 8) (b : BitVec 6) (s : State) : Out :=
  .next (s.uni fun w => [(d.toNat, w.u a.toNat ^^^ w.u b.toNat)])

/-- USHL (R211): uniform shift left. -/
def execUshl (_c : BitVec 1) (d : BitVec 8) (a : BitVec 8) (b : BitVec 6) (s : State) : Out :=
  .next (s.uni fun w => [(d.toNat, shlBy (w.u a.toNat) (w.u b.toNat))])

/-- USHR (R211): uniform shift right. -/
def execUshr (_c : BitVec 1) (d : BitVec 8) (a : BitVec 8) (b : BitVec 6) (s : State) : Out :=
  .next (s.uni fun w => [(d.toNat, shrBy (w.u a.toNat) (w.u b.toNat))])

/-- UADD_IMM (R211): uniform add of an immediate. -/
def execUaddImm (_c : BitVec 1) (d : BitVec 8) (a : BitVec 8) (i : BitVec 6) (lit : BitVec 32) (s : State) : Out :=
  .next (s.uni fun w => [(d.toNat, w.u a.toNat + imm6Of i lit)])

/-- USUB_IMM (R211): uniform subtract of an immediate. -/
def execUsubImm (_c : BitVec 1) (d : BitVec 8) (a : BitVec 8) (i : BitVec 6) (lit : BitVec 32) (s : State) : Out :=
  .next (s.uni fun w => [(d.toNat, w.u a.toNat - imm6Of i lit)])

/-- UMUL_IMM (R211): uniform multiply by an immediate. -/
def execUmulImm (_c : BitVec 1) (d : BitVec 8) (a : BitVec 8) (i : BitVec 6) (lit : BitVec 32) (s : State) : Out :=
  .next (s.uni fun w => [(d.toNat, w.u a.toNat * imm6Of i lit)])

/-- UAND_IMM (R211): uniform and with an immediate. -/
def execUandImm (_c : BitVec 1) (d : BitVec 8) (a : BitVec 8) (i : BitVec 6) (lit : BitVec 32) (s : State) : Out :=
  .next (s.uni fun w => [(d.toNat, w.u a.toNat &&& imm6Of i lit)])

/-- UOR_IMM (R211): uniform or with an immediate. -/
def execUorImm (_c : BitVec 1) (d : BitVec 8) (a : BitVec 8) (i : BitVec 6) (lit : BitVec 32) (s : State) : Out :=
  .next (s.uni fun w => [(d.toNat, w.u a.toNat ||| imm6Of i lit)])

/-- UXOR_IMM (R211): uniform xor with an immediate. -/
def execUxorImm (_c : BitVec 1) (d : BitVec 8) (a : BitVec 8) (i : BitVec 6) (lit : BitVec 32) (s : State) : Out :=
  .next (s.uni fun w => [(d.toNat, w.u a.toNat ^^^ imm6Of i lit)])

/-- USHL_IMM (R211): uniform shift left by an immediate. -/
def execUshlImm (_c : BitVec 1) (d : BitVec 8) (a : BitVec 8) (i : BitVec 6) (lit : BitVec 32) (s : State) : Out :=
  .next (s.uni fun w => [(d.toNat, shlBy (w.u a.toNat) (imm6Of i lit))])

/-- USHR_IMM (R211): uniform shift right by an immediate. -/
def execUshrImm (_c : BitVec 1) (d : BitVec 8) (a : BitVec 8) (i : BitVec 6) (lit : BitVec 32) (s : State) : Out :=
  .next (s.uni fun w => [(d.toNat, shrBy (w.u a.toNat) (imm6Of i lit))])

/-- MOV_V_FROM_S (R212): copies a uniform register into vd of every thread of the bundle. -/
def execMovVFromS (_c : BitVec 1) (d : BitVec 6) (u : BitVec 8) (s : State) : Out :=
  .next (s.allLanes fun w => [.reg d.toNat (w.u u.toNat)])

/-- MOV_S_FROM_V (R212): copies the lowest-ranked thread's register into a uniform register. -/
def execMovSFromV (_c : BitVec 1) (d : BitVec 8) (a : BitVec 6) (s : State) : Out :=
  .next (s.uni fun w => [(d.toNat, w.rd a.toNat)])

/-- MOV_64_V_FROM_S (R212): copies a uniform pair into a vector pair. -/
def execMov64VFromS (_c : BitVec 1) (d : BitVec 6) (u : BitVec 8) (s : State) : Out :=
  .next (s.allLanes fun w => wrPair d.toNat (w.upair u.toNat))

/-- MOV_64_S_FROM_V (R212): copies a vector pair of the lowest-ranked thread into a uniform pair. -/
def execMov64SFromV (_c : BitVec 1) (d : BitVec 8) (a : BitVec 6) (s : State) : Out :=
  .next (s.uni fun w => [(d.toNat, w.rd a.toNat), (d.toNat + 1, w.rd (a.toNat + 1))])

/-- MOV_UNIFORM_IMM (R213): moves an immediate into a uniform register. -/
def execMovUniformImm (_c : BitVec 1) (d : BitVec 8) (i : BitVec 6) (lit : BitVec 32) (s : State) : Out :=
  .next (s.uni fun _ => [(d.toNat, imm6Of i lit)])

/-- UCMP (R213): compares a uniform register with an immediate and writes a predicate in every thread of the bundle. -/
def execUcmp (_c : BitVec 1) (u : BitVec 3) (p : BitVec 3) (a : BitVec 8) (i : BitVec 6) (lit : BitVec 32) (s : State) : Out :=
  .next (s.allLanes fun w => [.pred p.toNat (ucmpOf u.toNat (w.u a.toNat) (imm6Of i lit))])

end Sys2Proof.Machine
end

