-- ==== Sys2Proof/Machine/Xf.lean ====
section
/-!
DEFINITION. Machine/Xf.lean: the extensible floating point: values of windows (R77, R78), the write of a result
(R79, R80) and the shortest length (R81).
-/

namespace Sys2Proof.Machine

open Sys2Proof

/-- The length that a header names (R77). -/
def xfLen (h : Word) : Nat := (fld h 29 3).toNat + 1

/-- The fraction bits that `n` words hold. -/
def xfCap (n : Nat) : Nat := 13 + 32 * (n - 1)

/-- The smallest length whose capacity is at least `p`. -/
def xfWords (p : Nat) : Nat := if p ≤ 13 then 1 else (p - 13 + 31) / 32 + 1

/-- The fraction bits of a window as one number. -/
def xfFrac (ws : List Word) : Nat :=
  match ws with
  | [] => 0
  | h :: t => t.foldl (fun x w => x * 2 ^ 32 + w.toNat) (h.toNat % 2 ^ 13)

/-- The exponent field of a header. -/
def xfExp (h : Word) : Nat := (fld h 13 15).toNat

/-- The value of a window's words (R78). -/
def xfVal (ws : List Word) : Val :=
  let h := ws.getD 0 0
  let s := h.getLsbD 28
  let f := xfFrac ws
  if xfExp h = 0 then .fin s 0 0
  else if xfExp h = 0x7FFF then (if f = 0 then .inf s else .nan)
  else .fin s (2 ^ xfCap ws.length + f) ((xfExp h : Int) - 16383 - xfCap ws.length)

/-- The words after the header, most significant first. -/
def xfTail (f : Nat) : Nat → List Word
  | 0 => []
  | k + 1 => BitVec.ofNat 32 (f / 2 ^ (32 * k)) :: xfTail f k

/-- The words of a sign, exponent field and `xfCap n` fraction bits. -/
def xfPack (n : Nat) (s : Bool) (e f : Nat) : List Word :=
  BitVec.ofNat 32 ((n - 1) * 2 ^ 29 + (if s then 2 ^ 28 else 0) + e * 2 ^ 13 + f / 2 ^ (32 * (n - 1)) % 2 ^ 13)
    :: xfTail f (n - 1)

/-- A result with its XUF (R79) and whether it raises precision exhausted under X (R80). -/
structure XfOut where
  words     : List Word
  xuf       : Bool
  exhausted : Bool
  deriving DecidableEq, Repr

/-- The write of a result by a PREC value: rounded to its P, with what it signals (R79, R80). -/
def xfWrite (prec : Word) (v : Val) : XfOut :=
  let p := precP prec
  let n := xfWords p
  let cap := xfCap n
  let mode := precMode prec
  match v with
  | .nan => ⟨xfPack n false 0x7FFF (2 ^ (cap - 1)), false, false⟩
  | .inf s => ⟨xfPack n s 0x7FFF 0, false, false⟩
  | .fin s m e =>
    if m = 0 then ⟨xfPack n s 0 0, false, false⟩
    else
      let q := (m.log2 : Int) + e - p
      let r := roundAt mode s m e q
      let x := (r.log2 : Int) + q
      if 16383 < x then
        if overflowsToInf mode s then ⟨xfPack n s 0x7FFF 0, false, false⟩
        else ⟨xfPack n s 0x7FFE ((2 ^ p - 1) * 2 ^ (cap - p)), false, false⟩
      else if x < -16382 then ⟨xfPack n s 0 0, true, false⟩
      else ⟨xfPack n s (x + 16383).toNat ((r * 2 ^ cap / 2 ^ r.log2) % 2 ^ cap), false, !exactAt m e q⟩

/-- Trailing zero bits of a nonzero number, at most `n`. -/
def trailing : Nat → Nat → Nat
  | 0, _ => 0
  | n + 1, x => if x % 2 = 0 then trailing n (x / 2) + 1 else 0

/-- The words of a value at its shortest length, a NaN's fraction bits kept; the fraction bits of a zero, which R78 ignores, are stored as
0 (R81; log entry 95). -/
def xfMin (ws : List Word) : List Word :=
  let h := ws.getD 0 0
  let s := h.getLsbD 28
  let cap := xfCap ws.length
  let f := xfFrac ws
  if xfExp h = 0 then xfPack 1 s 0 0
  else if f = 0 then xfPack 1 s (xfExp h) 0
  else
    let n := xfWords (cap - trailing cap f)
    xfPack n s (xfExp h) (f / 2 ^ (cap - xfCap n))

end Sys2Proof.Machine
end

