-- ==== Sys2Proof/Machine/Float.lean ====
section
/-!
DEFINITION. Machine/Float.lean: majors 0x10 to 0x1B, FP32, FP16 and BF16 (R215 to R228), whose results round with
RNE alone (R216) except in the conversions.
-/

namespace Sys2Proof.Machine

open Sys2Proof

/-! ## Shared arithmetic -/

/-- The halves of a register (R215). -/
def h0 (x : Word) : BitVec 16 := x.extractLsb' 0 16
def h1 (x : Word) : BitVec 16 := x.extractLsb' 16 16

/-- FP16 or BF16, by the format bit of majors 0x12, 0x13 and 0x1B. -/
def halfFmt (y : BitVec 1) : Fmt := if y = 0 then fp16 else bf16

def decHalf (f : Fmt) (x : BitVec 16) : Val := f.dec x.toNat
def encHalf (f : Fmt) (v : Val) : BitVec 16 := BitVec.ofNat 16 (f.enc .rne false v)

/-- A function on both halves of three registers (R220, R221). -/
def halves (k : BitVec 16 → BitVec 16 → BitVec 16 → BitVec 16) (a b d : Word) : Word :=
  k (h1 a) (h1 b) (h1 d) ++ k (h0 a) (h0 b) (h0 d)

/-- `a*b + d` with one rounding (R217). An invalid product is NaN whatever `d` is. -/
def fused (a b d : Val) : Val := (a.mul b).add .rne d

def fadd32 (a b : Word) : Word := encF32 ((decF32 a).add .rne (decF32 b))
def fsub32 (a b : Word) : Word := encF32 ((decF32 a).sub .rne (decF32 b))
def fmul32 (a b : Word) : Word := encF32 ((decF32 a).mul (decF32 b))
def ffma32 (a b d : Word) : Word := encF32 (fused (decF32 a) (decF32 b) (decF32 d))
def ffms32 (a b d : Word) : Word := encF32 (fused (decF32 a) (decF32 b) (decF32 d).neg)
def fnma32 (a b d : Word) : Word := encF32 (fused (decF32 a).neg (decF32 b) (decF32 d))
def fmin32 (a b : Word) : Word := encF32 ((decF32 a).min (decF32 b))
def fmax32 (a b : Word) : Word := encF32 ((decF32 a).max (decF32 b))

/-- The forms that prefer a number (R218): the other input as it is when exactly one is NaN. -/
def numForm (f : Word → Word → Word) (a b : Word) : Word :=
  if (decF32 a).isNan && !(decF32 b).isNan then b
  else if !(decF32 a).isNan && (decF32 b).isNan then a
  else f a b

/-- The operand of a multiply by an immediate (R219): the integer, or the literal as FP32 bits. -/
def immVal (i : BitVec 10) (lit : Word) : Val := if i = 0x200#10 then decF32 lit else Val.ofInt i.toInt

/-- The operand of a compare (R222). -/
def cmpVal (f : Nat) (x : Word) : Val :=
  match f with
  | 0 => decF32 x
  | 1 => decHalf fp16 (h0 x)
  | 2 => decHalf fp16 (h1 x)
  | 3 => decHalf bf16 (h0 x)
  | _ => decHalf bf16 (h1 x)

/-- The format of a compare's operand. -/
def cmpFmt (f : Nat) : Fmt := if f = 0 then fp32 else if f ≤ 2 then fp16 else bf16

/-- The byte that a selector names. -/
def byteOf (x : Word) (sel : Nat) : Nat := x.toNat / 256 ^ sel % 256

/-- The value of a source of major 0x17 by its format code (R223, R224). -/
def srcVal (f sel : Nat) (a : Word) (p : Dword) : Val :=
  let b := byteOf a sel
  let h := if sel % 2 = 0 then h0 a else h1 a
  match f with
  | 0 => decF32 a
  | 1 => decHalf fp16 h
  | 2 => decHalf bf16 h
  | 3 => decE4m3 b
  | 4 => e5m2.dec b
  | 5 => decT8 b
  | 6 => decT6 b
  | 7 => decE8m0 b
  | 8 => Val.ofInt (sx 8 b)
  | 9 => Val.ofInt b
  | 10 => Val.ofInt h.toInt
  | 11 => Val.ofInt h.toNat
  | 12 => Val.ofInt a.toInt
  | 13 => Val.ofInt a.toNat
  | 14 => Val.ofInt p.toInt
  | _ => Val.ofInt p.toNat

/-- A value in a narrow target of majors 0x18 and 0x19 (R83, R225, R226). -/
def dstBits (f : Nat) (mode : Mode) (sat : Bool) (v : Val) : Nat :=
  match f with
  | 1 => fp16.enc mode sat v
  | 2 => bf16.enc mode sat v
  | 3 => encE4m3 v
  | 4 => encE5m2 sat v
  | 5 => encT8 v
  | 6 => encT6 v
  | 7 => encE8m0 v
  | 8 => encInt true 8 mode v
  | 9 => encInt false 8 mode v
  | 10 => encInt true 16 mode v
  | 11 => encInt false 16 mode v
  | 12 => encInt true 32 mode v
  | 13 => encInt false 32 mode v
  | 14 => encInt true 64 mode v
  | _ => encInt false 64 mode v

/-- The write of a conversion from FP32 (R225): a pair, a half, or the register zero-extended. -/
def dstWrite (d f sel : Nat) (x : Nat) : List Wr :=
  if 14 ≤ f then wrPair d (BitVec.ofNat 64 x)
  else if sel = 1 then [.half0 d (BitVec.ofNat 16 x)]
  else if sel = 2 then [.half1 d (BitVec.ofNat 16 x)]
  else [.reg d (BitVec.ofNat 32 x)]

/-- The write of a packed conversion (R226). -/
def packWrite (d f : Nat) (high : Bool) (x y : Nat) : List Wr :=
  if f ≤ 2 then [.reg d (BitVec.ofNat 16 y ++ BitVec.ofNat 16 x)]
  else if high then [.half1 d (BitVec.ofNat 16 (x + 256 * y))]
  else [.half0 d (BitVec.ofNat 16 (x + 256 * y))]

/-- A special function (R227): tracked, its result the exact value rounded once. -/
def State.special (s : State) (g : BitVec 3) (d a : Nat) (f : Val → Val) : State :=
  s.lanes g fun s t h w => s.track t.id h.lrank false (.result [.reg d (encF32 (f (decF32 (w.rd a))))] false)

/-! ## Meanings -/

/-- FADD_F32 (R217): fP32 add. -/
def execFaddF32 (_c : BitVec 1) (g : BitVec 3) (d : BitVec 6) (a : BitVec 6) (b : BitVec 6) (s : State) : Out :=
  .next (s.vec g fun w => [.reg d.toNat (fadd32 (w.rd a.toNat) (w.rd b.toNat))])

/-- FSUB_F32 (R217): fP32 subtract. -/
def execFsubF32 (_c : BitVec 1) (g : BitVec 3) (d : BitVec 6) (a : BitVec 6) (b : BitVec 6) (s : State) : Out :=
  .next (s.vec g fun w => [.reg d.toNat (fsub32 (w.rd a.toNat) (w.rd b.toNat))])

/-- FMUL_F32 (R217): fP32 multiply. -/
def execFmulF32 (_c : BitVec 1) (g : BitVec 3) (d : BitVec 6) (a : BitVec 6) (b : BitVec 6) (s : State) : Out :=
  .next (s.vec g fun w => [.reg d.toNat (fmul32 (w.rd a.toNat) (w.rd b.toNat))])

/-- FFMA_F32 (R217): fP32 fused multiply-add into vd. -/
def execFfmaF32 (_c : BitVec 1) (g : BitVec 3) (d : BitVec 6) (a : BitVec 6) (b : BitVec 6) (s : State) : Out :=
  .next (s.vec g fun w => [.reg d.toNat (ffma32 (w.rd a.toNat) (w.rd b.toNat) (w.rd d.toNat))])

/-- FFMS_F32 (R217): fP32 fused multiply-subtract. -/
def execFfmsF32 (_c : BitVec 1) (g : BitVec 3) (d : BitVec 6) (a : BitVec 6) (b : BitVec 6) (s : State) : Out :=
  .next (s.vec g fun w => [.reg d.toNat (ffms32 (w.rd a.toNat) (w.rd b.toNat) (w.rd d.toNat))])

/-- FNMA_F32 (R217): fP32 fused negated multiply-add. -/
def execFnmaF32 (_c : BitVec 1) (g : BitVec 3) (d : BitVec 6) (a : BitVec 6) (b : BitVec 6) (s : State) : Out :=
  .next (s.vec g fun w => [.reg d.toNat (fnma32 (w.rd a.toNat) (w.rd b.toNat) (w.rd d.toNat))])

/-- FMIN_F32 (R218): fP32 minimum. -/
def execFminF32 (_c : BitVec 1) (g : BitVec 3) (d : BitVec 6) (a : BitVec 6) (b : BitVec 6) (s : State) : Out :=
  .next (s.vec g fun w => [.reg d.toNat (fmin32 (w.rd a.toNat) (w.rd b.toNat))])

/-- FMAX_F32 (R218): fP32 maximum. -/
def execFmaxF32 (_c : BitVec 1) (g : BitVec 3) (d : BitVec 6) (a : BitVec 6) (b : BitVec 6) (s : State) : Out :=
  .next (s.vec g fun w => [.reg d.toNat (fmax32 (w.rd a.toNat) (w.rd b.toNat))])

/-- FABS_F32 (R218): clears the sign bit. -/
def execFabsF32 (_c : BitVec 1) (g : BitVec 3) (d : BitVec 6) (a : BitVec 6) (s : State) : Out :=
  .next (s.vec g fun w => [.reg d.toNat (w.rd a.toNat &&& 0x7FFFFFFF)])

/-- FNEG_F32 (R218): inverts the sign bit. -/
def execFnegF32 (_c : BitVec 1) (g : BitVec 3) (d : BitVec 6) (a : BitVec 6) (s : State) : Out :=
  .next (s.vec g fun w => [.reg d.toNat (w.rd a.toNat ^^^ 0x80000000)])

/-- FCOPYSIGN_F32 (R218): copies the sign of vb onto va. -/
def execFcopysignF32 (_c : BitVec 1) (g : BitVec 3) (d : BitVec 6) (a : BitVec 6) (b : BitVec 6) (s : State) : Out :=
  .next (s.vec g fun w => [.reg d.toNat ((w.rd a.toNat &&& 0x7FFFFFFF) ||| (w.rd b.toNat &&& 0x80000000))])

/-- FMIN_NUM_F32 (R218): fP32 minimum preferring numbers. -/
def execFminNumF32 (_c : BitVec 1) (g : BitVec 3) (d : BitVec 6) (a : BitVec 6) (b : BitVec 6) (s : State) : Out :=
  .next (s.vec g fun w => [.reg d.toNat (numForm fmin32 (w.rd a.toNat) (w.rd b.toNat))])

/-- FMAX_NUM_F32 (R218): fP32 maximum preferring numbers. -/
def execFmaxNumF32 (_c : BitVec 1) (g : BitVec 3) (d : BitVec 6) (a : BitVec 6) (b : BitVec 6) (s : State) : Out :=
  .next (s.vec g fun w => [.reg d.toNat (numForm fmax32 (w.rd a.toNat) (w.rd b.toNat))])

/-- FADD_F16 (R220): packed FP16 or BF16 add. -/
def execFaddF16 (_c : BitVec 1) (y : BitVec 1) (g : BitVec 3) (d : BitVec 6) (a : BitVec 6) (b : BitVec 6) (s : State) : Out :=
  .next (s.vec g fun w => [.reg d.toNat (halves (fun x z _ => encHalf (halfFmt y) ((decHalf (halfFmt y) x).add .rne (decHalf (halfFmt y) z))) (w.rd a.toNat) (w.rd b.toNat) 0)])

/-- FSUB_F16 (R220): packed FP16 or BF16 subtract. -/
def execFsubF16 (_c : BitVec 1) (y : BitVec 1) (g : BitVec 3) (d : BitVec 6) (a : BitVec 6) (b : BitVec 6) (s : State) : Out :=
  .next (s.vec g fun w => [.reg d.toNat (halves (fun x z _ => encHalf (halfFmt y) ((decHalf (halfFmt y) x).sub .rne (decHalf (halfFmt y) z))) (w.rd a.toNat) (w.rd b.toNat) 0)])

/-- FMUL_F16 (R220): packed FP16 or BF16 multiply. -/
def execFmulF16 (_c : BitVec 1) (y : BitVec 1) (g : BitVec 3) (d : BitVec 6) (a : BitVec 6) (b : BitVec 6) (s : State) : Out :=
  .next (s.vec g fun w => [.reg d.toNat (halves (fun x z _ => encHalf (halfFmt y) ((decHalf (halfFmt y) x).mul (decHalf (halfFmt y) z))) (w.rd a.toNat) (w.rd b.toNat) 0)])

/-- FABS_F16 (R220): packed absolute value. -/
def execFabsF16 (_c : BitVec 1) (_y : BitVec 1) (g : BitVec 3) (d : BitVec 6) (a : BitVec 6) (s : State) : Out :=
  .next (s.vec g fun w => [.reg d.toNat (w.rd a.toNat &&& 0x7FFF7FFF)])

/-- FNEG_F16 (R220): packed negation. -/
def execFnegF16 (_c : BitVec 1) (_y : BitVec 1) (g : BitVec 3) (d : BitVec 6) (a : BitVec 6) (s : State) : Out :=
  .next (s.vec g fun w => [.reg d.toNat (w.rd a.toNat ^^^ 0x80008000)])

/-- FDOT2_F16 (R220): two-term dot product added to an FP32 vd with one rounding. -/
def execFdot2F16 (_c : BitVec 1) (y : BitVec 1) (g : BitVec 3) (d : BitVec 6) (a : BitVec 6) (b : BitVec 6) (s : State) : Out :=
  .next (s.vec g fun w => [.reg d.toNat (encF32 ((((decHalf (halfFmt y) (h0 (w.rd a.toNat))).mul (decHalf (halfFmt y) (h0 (w.rd b.toNat)))).add .rne ((decHalf (halfFmt y) (h1 (w.rd a.toNat))).mul (decHalf (halfFmt y) (h1 (w.rd b.toNat))))).add .rne (decF32 (w.rd d.toNat))))])

/-- FADD_F32_UNIFORM (R219): fP32 add of a uniform operand. -/
def execFaddF32Uniform (_c : BitVec 1) (g : BitVec 3) (d : BitVec 6) (a : BitVec 6) (u : BitVec 8) (s : State) : Out :=
  .next (s.vec g fun w => [.reg d.toNat (fadd32 (w.rd a.toNat) (w.u u.toNat))])

/-- FMUL_F32_UNIFORM (R219): fP32 multiply by a uniform operand. -/
def execFmulF32Uniform (_c : BitVec 1) (g : BitVec 3) (d : BitVec 6) (a : BitVec 6) (u : BitVec 8) (s : State) : Out :=
  .next (s.vec g fun w => [.reg d.toNat (fmul32 (w.rd a.toNat) (w.u u.toNat))])

/-- FFMA_F32_UNIFORM (R219): fP32 fused multiply-add with a uniform operand. -/
def execFfmaF32Uniform (_c : BitVec 1) (g : BitVec 3) (d : BitVec 6) (a : BitVec 6) (u : BitVec 8) (s : State) : Out :=
  .next (s.vec g fun w => [.reg d.toNat (ffma32 (w.rd a.toNat) (w.u u.toNat) (w.rd d.toNat))])

/-- FSUB_F32_UNIFORM (R219): fP32 subtract of a uniform operand. -/
def execFsubF32Uniform (_c : BitVec 1) (g : BitVec 3) (d : BitVec 6) (a : BitVec 6) (u : BitVec 8) (s : State) : Out :=
  .next (s.vec g fun w => [.reg d.toNat (fsub32 (w.rd a.toNat) (w.u u.toNat))])

/-- FMUL_F32_IMM (R219): fP32 multiply by an integer immediate or FP32 literal. -/
def execFmulF32Imm (_c : BitVec 1) (g : BitVec 3) (d : BitVec 6) (a : BitVec 6) (i : BitVec 10) (lit : BitVec 32) (s : State) : Out :=
  .next (s.vec g fun w => [.reg d.toNat (encF32 ((decF32 (w.rd a.toNat)).mul (immVal i lit)))])

/-- FCMP (R222): floating-point compare into a predicate. -/
def execFcmp (_c : BitVec 1) (g : BitVec 3) (p : BitVec 3) (a : BitVec 6) (b : BitVec 6) (k : BitVec 4) (f : BitVec 3) (s : State) : Out :=
  .next (s.vec g fun w => [.pred p.toNat (fcmpHolds k.toNat (cmpVal f.toNat (w.rd a.toNat)) (cmpVal f.toNat (w.rd b.toNat)))])

/-- FCLASS (R222): tests the class of a value against a class mask. -/
def execFclass (_c : BitVec 1) (g : BitVec 3) (p : BitVec 3) (a : BitVec 6) (b : BitVec 6) (f : BitVec 3) (s : State) : Out :=
  .next (s.vec g fun w => [.pred p.toNat ((w.rd b.toNat).getLsbD (classOf (cmpFmt f.toNat) (cmpVal f.toNat (w.rd a.toNat))))])

/-- FRND_F32 (R224): rounds FP32 to an integral value in a chosen mode. -/
def execFrndF32 (_c : BitVec 1) (g : BitVec 3) (d : BitVec 6) (a : BitVec 6) (r : BitVec 3) (s : State) : Out :=
  .next (s.vec g fun w => [.reg d.toNat (encF32 ((decF32 (w.rd a.toNat)).rint (modeOf r.toNat)))])

/-- CVT_TO_F32 (R224): converts a source format to FP32. -/
def execCvtToF32 (_c : BitVec 1) (g : BitVec 3) (d : BitVec 6) (a : BitVec 6) (r : BitVec 3) (e : BitVec 2) (f : BitVec 4) (s : State) : Out :=
  .next (s.vec g fun w => [.reg d.toNat (BitVec.ofNat 32 (fp32.enc (modeOf r.toNat) false (srcVal f.toNat e.toNat (w.rd a.toNat) (w.pair a.toNat))))])

/-- CVT_FROM_F32 (R225): converts FP32 to a target format. -/
def execCvtFromF32 (_c : BitVec 1) (g : BitVec 3) (d : BitVec 6) (a : BitVec 6) (r : BitVec 3) (z : BitVec 1) (e : BitVec 2) (f : BitVec 4) (s : State) : Out :=
  .next (s.vec g fun w => dstWrite d.toNat f.toNat e.toNat (dstBits f.toNat (modeOf r.toNat) (z == 1) (decF32 (w.rd a.toNat))))

/-- CVT_PK (R226): packs two FP32 values into a narrow format. -/
def execCvtPk (_c : BitVec 1) (g : BitVec 3) (d : BitVec 6) (a : BitVec 6) (b : BitVec 6) (h : BitVec 1) (f : BitVec 3) (s : State) : Out :=
  .next (s.vec g fun w => packWrite d.toNat f.toNat (h == 1) (dstBits f.toNat .rne false (decF32 (w.rd a.toNat))) (dstBits f.toNat .rne false (decF32 (w.rd b.toNat))))

/-- FRCP_F32 (R227): correctly rounded reciprocal. -/
def execFrcpF32 (_c : BitVec 1) (g : BitVec 3) (d : BitVec 6) (a : BitVec 6) (s : State) : Out :=
  .next (s.special g d.toNat a.toNat Val.rcp)

/-- FRSQ_F32 (R227): correctly rounded reciprocal square root. -/
def execFrsqF32 (_c : BitVec 1) (g : BitVec 3) (d : BitVec 6) (a : BitVec 6) (s : State) : Out :=
  .next (s.special g d.toNat a.toNat Val.rsq)

/-- FSQRT_F32 (R227): correctly rounded square root. -/
def execFsqrtF32 (_c : BitVec 1) (g : BitVec 3) (d : BitVec 6) (a : BitVec 6) (s : State) : Out :=
  .next (s.special g d.toNat a.toNat Val.sqrt)

/-- FEXP2_F32 (R227): correctly rounded base-2 exponential. -/
def execFexp2F32 (_c : BitVec 1) (g : BitVec 3) (d : BitVec 6) (a : BitVec 6) (s : State) : Out :=
  .next (s.special g d.toNat a.toNat Val.exp2)

/-- FLOG2_F32 (R227): correctly rounded base-2 logarithm. -/
def execFlog2F32 (_c : BitVec 1) (g : BitVec 3) (d : BitVec 6) (a : BitVec 6) (s : State) : Out :=
  .next (s.special g d.toNat a.toNat Val.log2)

/-- FTANH_F32 (R227): correctly rounded hyperbolic tangent. -/
def execFtanhF32 (_c : BitVec 1) (g : BitVec 3) (d : BitVec 6) (a : BitVec 6) (s : State) : Out :=
  .next (s.special g d.toNat a.toNat Val.tanh)

/-- FSIN_F32 (R227): correctly rounded sine. -/
def execFsinF32 (_c : BitVec 1) (g : BitVec 3) (d : BitVec 6) (a : BitVec 6) (s : State) : Out :=
  .next (s.special g d.toNat a.toNat Val.sin)

/-- FCOS_F32 (R227): correctly rounded cosine. -/
def execFcosF32 (_c : BitVec 1) (g : BitVec 3) (d : BitVec 6) (a : BitVec 6) (s : State) : Out :=
  .next (s.special g d.toNat a.toNat Val.cos)

/-- FMIN_F16 (R221): packed FP16 or BF16 minimum. -/
def execFminF16 (_c : BitVec 1) (g : BitVec 3) (d : BitVec 6) (a : BitVec 6) (b : BitVec 6) (y : BitVec 1) (s : State) : Out :=
  .next (s.vec g fun w => [.reg d.toNat (halves (fun x z _ => encHalf (halfFmt y) ((decHalf (halfFmt y) x).min (decHalf (halfFmt y) z))) (w.rd a.toNat) (w.rd b.toNat) 0)])

/-- FMAX_F16 (R221): packed FP16 or BF16 maximum. -/
def execFmaxF16 (_c : BitVec 1) (g : BitVec 3) (d : BitVec 6) (a : BitVec 6) (b : BitVec 6) (y : BitVec 1) (s : State) : Out :=
  .next (s.vec g fun w => [.reg d.toNat (halves (fun x z _ => encHalf (halfFmt y) ((decHalf (halfFmt y) x).max (decHalf (halfFmt y) z))) (w.rd a.toNat) (w.rd b.toNat) 0)])

/-- FFMA_F16 (R221): packed FP16 or BF16 fused multiply-add. -/
def execFfmaF16 (_c : BitVec 1) (g : BitVec 3) (d : BitVec 6) (a : BitVec 6) (b : BitVec 6) (y : BitVec 1) (s : State) : Out :=
  .next (s.vec g fun w => [.reg d.toNat (halves (fun x z v => encHalf (halfFmt y) (fused (decHalf (halfFmt y) x) (decHalf (halfFmt y) z) (decHalf (halfFmt y) v))) (w.rd a.toNat) (w.rd b.toNat) (w.rd d.toNat))])

end Sys2Proof.Machine
end

