-- ==== Sys2Proof/Machine/XfInstr.lean ====
section
/-!
DEFINITION. Machine/XfInstr.lean: majors 0x1C to 0x1F (R229 to R235): XF arithmetic, conversions and compares, which
are tracked, and the PREC instructions.
-/

namespace Sys2Proof.Machine

open Sys2Proof

/-- The words of a window, as many as its header names (R59). -/
def View.win (w : View) (b : Nat) : List Word := (List.range (xfLen (w.rd b))).map fun i => w.rd (b + i)

/-- The value of a window. -/
def View.xval (w : View) (b : Nat) : Val := xfVal (w.win b)

/-- Whether a source window passes the allocation (R59). -/
def View.overrun (w : View) (n b : Nat) : Bool := decide (n < b + xfLen (w.rd b))

/-- The writes of words from register `d`. -/
def wrWords (d : Nat) (ws : List Word) : List Wr :=
  match ws with
  | [] => []
  | x :: t => .reg d x :: wrWords (d + 1) t

/-- The slot after the current word and its chained partner (R370). -/
def State.slotAfter (s : State) : Nat := s.slotNow + (if s.chained then 2 else 1)

/-- A trap found at issue: the thread stays for the chained word, and leaves after it (R370, R409). Where both words of a chained pair find one,
the later one's stands (log entry 110). -/
def State.trapAfter (s : State) (team r cause : Nat) : State :=
  s.modThread team r fun h => { h with trap := some (s.trapAt cause s.slotAfter) }

/-- A thread held at the slot after the current word; the words that a chained partner reads stay kept (R229,
R251, R409). -/
def State.holdNext (s : State) (team r : Nat) : State :=
  let next := match s.bundle with
    | some b => (match nextSlot b.words (b.slot + 1) with | some k => resumeAt s.here k | none => s.here + 16)
    | none => s.here
  let ch := s.chained
  (s.leave team r).modThread team r fun h => { h with pc := next, cont := decide (next.toNat % 16 ≠ 0), snap := if ch then h.snap else none }

/-- An XF instruction (R229): the overruns of its windows trap at issue; otherwise it is tracked, with the writes
and the XUF that `f` gives, or with a trap where X is set and the result is inexact. `x` names majors 0x1C and
0x1D, which hold the thread's later slots while X is set. -/
def State.xf (s : State) (g : BitVec 3) (x : Bool) (srcs : List Nat) (dst : Option Nat)
    (f : View → List Wr × Bool × Bool) : State :=
  s.lanes g fun s t h w =>
    let wide := match dst with | some d => decide (h.nreg < d + xfWords (precP w.mode)) | none => false
    if srcs.any (w.overrun h.nreg) || wide then s.trapAfter t.id h.lrank 3
    else
      let o := f w
      let hold := x && precX w.mode
      let s1 := s.track t.id h.lrank hold
        (if o.2.2 && precX w.mode then .trapping (s.trapAt 1 s.slotNow) else .result o.1 o.2.1)
      if hold then s1.holdNext t.id h.lrank else s1

/-- One that writes a value to a window by R79. -/
def State.xfValue (s : State) (g : BitVec 3) (d : Nat) (srcs : List Nat) (f : View → Val) : State :=
  s.xf g true srcs (some d) fun w =>
    let o := xfWrite w.mode (f w)
    (wrWords d o.words, o.xuf, o.exhausted)

/-- One that writes registers or a predicate. -/
def State.xfPlain (s : State) (g : BitVec 3) (x : Bool) (srcs : List Nat) (f : View → List Wr) : State :=
  s.xf g x srcs none fun w => (f w, false, false)

/-- A write of PREC that `f` computes; a value that R64 rejects raises precision limit (R199, R234). -/
def State.precTo (s : State) (g : BitVec 3) (f : View → Option Word) : State :=
  s.lanes g fun s t h w =>
    match f w with
    | some p => s.modThread t.id h.lrank fun h => { h with prec := p }
    | none => s.trapAfter t.id h.lrank 2

/-! ## Meanings -/

/-- XADD (R230): xF add rounded by PREC. -/
def execXadd (_c : BitVec 1) (g : BitVec 3) (d : BitVec 6) (a : BitVec 6) (b : BitVec 6) (s : State) : Out :=
  .next (s.xfValue g d.toNat [a.toNat, b.toNat] fun w => (w.xval a.toNat).add (precMode w.mode) (w.xval b.toNat))

/-- XSUB (R230): xF subtract. -/
def execXsub (_c : BitVec 1) (g : BitVec 3) (d : BitVec 6) (a : BitVec 6) (b : BitVec 6) (s : State) : Out :=
  .next (s.xfValue g d.toNat [a.toNat, b.toNat] fun w => (w.xval a.toNat).sub (precMode w.mode) (w.xval b.toNat))

/-- XMUL (R230): xF multiply. -/
def execXmul (_c : BitVec 1) (g : BitVec 3) (d : BitVec 6) (a : BitVec 6) (b : BitVec 6) (s : State) : Out :=
  .next (s.xfValue g d.toNat [a.toNat, b.toNat] fun w => (w.xval a.toNat).mul (w.xval b.toNat))

/-- XDIV (R230): xF divide. -/
def execXdiv (_c : BitVec 1) (g : BitVec 3) (d : BitVec 6) (a : BitVec 6) (b : BitVec 6) (s : State) : Out :=
  .next (s.xfValue g d.toNat [a.toNat, b.toNat] fun w => (w.xval a.toNat).div (w.xval b.toNat))

/-- XFMA (R230): xF fused multiply-add into xd. -/
def execXfma (_c : BitVec 1) (g : BitVec 3) (d : BitVec 6) (a : BitVec 6) (b : BitVec 6) (s : State) : Out :=
  .next (s.xfValue g d.toNat [a.toNat, b.toNat, d.toNat] fun w => ((w.xval a.toNat).mul (w.xval b.toNat)).add (precMode w.mode) (w.xval d.toNat))

/-- XSQRT (R230): xF square root. -/
def execXsqrt (_c : BitVec 1) (g : BitVec 3) (d : BitVec 6) (a : BitVec 6) (s : State) : Out :=
  .next (s.xfValue g d.toNat [a.toNat] fun w => (w.xval a.toNat).sqrt)

/-- XNEG (R230): xF negation. -/
def execXneg (_c : BitVec 1) (g : BitVec 3) (d : BitVec 6) (a : BitVec 6) (s : State) : Out :=
  .next (s.xfValue g d.toNat [a.toNat] fun w => (w.xval a.toNat).neg)

/-- XABS (R230): xF absolute value. -/
def execXabs (_c : BitVec 1) (g : BitVec 3) (d : BitVec 6) (a : BitVec 6) (s : State) : Out :=
  .next (s.xfValue g d.toNat [a.toNat] fun w => (w.xval a.toNat).abs)

/-- XMIN (R230): xF minimum. -/
def execXmin (_c : BitVec 1) (g : BitVec 3) (d : BitVec 6) (a : BitVec 6) (b : BitVec 6) (s : State) : Out :=
  .next (s.xfValue g d.toNat [a.toNat, b.toNat] fun w => (w.xval a.toNat).min (w.xval b.toNat))

/-- XMAX (R230): xF maximum. -/
def execXmax (_c : BitVec 1) (g : BitVec 3) (d : BitVec 6) (a : BitVec 6) (b : BitVec 6) (s : State) : Out :=
  .next (s.xfValue g d.toNat [a.toNat, b.toNat] fun w => (w.xval a.toNat).max (w.xval b.toNat))

/-- XCVT_XF_F32 (R232): converts FP32 to XF. -/
def execXcvtXfF32 (_c : BitVec 1) (g : BitVec 3) (d : BitVec 6) (a : BitVec 6) (s : State) : Out :=
  .next (s.xfValue g d.toNat [] fun w => decF32 (w.rd a.toNat))

/-- XCVT_XF_I32 (R232): converts I32 to XF. -/
def execXcvtXfI32 (_c : BitVec 1) (g : BitVec 3) (d : BitVec 6) (a : BitVec 6) (s : State) : Out :=
  .next (s.xfValue g d.toNat [] fun w => Val.ofInt (w.rd a.toNat).toInt)

/-- XCVT_XF_N32 (R232): converts N32 to XF. -/
def execXcvtXfN32 (_c : BitVec 1) (g : BitVec 3) (d : BitVec 6) (a : BitVec 6) (s : State) : Out :=
  .next (s.xfValue g d.toNat [] fun w => Val.ofInt (w.rd a.toNat).toNat)

/-- XCVT_XF_I64 (R232): converts an I64 pair to XF. -/
def execXcvtXfI64 (_c : BitVec 1) (g : BitVec 3) (d : BitVec 6) (a : BitVec 6) (s : State) : Out :=
  .next (s.xfValue g d.toNat [] fun w => Val.ofInt (w.pair a.toNat).toInt)

/-- XCVT_XF_N64 (R232): converts an N64 pair to XF. -/
def execXcvtXfN64 (_c : BitVec 1) (g : BitVec 3) (d : BitVec 6) (a : BitVec 6) (s : State) : Out :=
  .next (s.xfValue g d.toNat [] fun w => Val.ofInt (w.pair a.toNat).toNat)

/-- XCVT_F32_XF (R232): converts XF to FP32 in a chosen mode. -/
def execXcvtF32Xf (_c : BitVec 1) (g : BitVec 3) (d : BitVec 6) (a : BitVec 6) (r : BitVec 3) (z : BitVec 1) (s : State) : Out :=
  .next (s.xfPlain g true [a.toNat] fun w => [.reg d.toNat (BitVec.ofNat 32 (fp32.enc (modeOf r.toNat) (z == 1) (w.xval a.toNat)))])

/-- XCVT_I32_XF (R232): converts XF to I32, saturating. -/
def execXcvtI32Xf (_c : BitVec 1) (g : BitVec 3) (d : BitVec 6) (a : BitVec 6) (r : BitVec 3) (s : State) : Out :=
  .next (s.xfPlain g true [a.toNat] fun w => [.reg d.toNat (BitVec.ofNat 32 (encInt true 32 (modeOf r.toNat) (w.xval a.toNat)))])

/-- XCVT_N32_XF (R232): converts XF to N32, saturating. -/
def execXcvtN32Xf (_c : BitVec 1) (g : BitVec 3) (d : BitVec 6) (a : BitVec 6) (r : BitVec 3) (s : State) : Out :=
  .next (s.xfPlain g true [a.toNat] fun w => [.reg d.toNat (BitVec.ofNat 32 (encInt false 32 (modeOf r.toNat) (w.xval a.toNat)))])

/-- XCVT_I64_XF (R232): converts XF to an I64 pair. -/
def execXcvtI64Xf (_c : BitVec 1) (g : BitVec 3) (d : BitVec 6) (a : BitVec 6) (r : BitVec 3) (s : State) : Out :=
  .next (s.xfPlain g true [a.toNat] fun w => wrPair d.toNat (BitVec.ofNat 64 (encInt true 64 (modeOf r.toNat) (w.xval a.toNat))))

/-- XCVT_N64_XF (R232): converts XF to an N64 pair. -/
def execXcvtN64Xf (_c : BitVec 1) (g : BitVec 3) (d : BitVec 6) (a : BitVec 6) (r : BitVec 3) (s : State) : Out :=
  .next (s.xfPlain g true [a.toNat] fun w => wrPair d.toNat (BitVec.ofNat 64 (encInt false 64 (modeOf r.toNat) (w.xval a.toNat))))

/-- XRND (R232): rewrites an XF value at the current precision. -/
def execXrnd (_c : BitVec 1) (g : BitVec 3) (d : BitVec 6) (a : BitVec 6) (s : State) : Out :=
  .next (s.xfValue g d.toNat [a.toNat] fun w => w.xval a.toNat)

/-- XRINT (R232): rounds an XF value to an integral value. -/
def execXrint (_c : BitVec 1) (g : BitVec 3) (d : BitVec 6) (a : BitVec 6) (s : State) : Out :=
  .next (s.xfValue g d.toNat [a.toNat] fun w => (w.xval a.toNat).rint (precMode w.mode))

/-- XCMP (R233): compares two XF values exactly into a predicate. -/
def execXcmp (_c : BitVec 1) (g : BitVec 3) (p : BitVec 3) (a : BitVec 6) (b : BitVec 6) (k : BitVec 4) (s : State) : Out :=
  .next (s.xfPlain g false [a.toNat, b.toNat] fun w => [.pred p.toNat (fcmpHolds k.toNat (w.xval a.toNat) (w.xval b.toNat))])

/-- SETP (R234): sets PREC.P to an immediate. -/
def execSetp (_c : BitVec 1) (g : BitVec 3) (n : BitVec 8) (s : State) : Out :=
  .next (s.precTo g fun w => precSet w.mode n.toNat (precRM w.mode) (precX w.mode))

/-- SETRM (R234): sets PREC.RM. -/
def execSetrm (_c : BitVec 1) (g : BitVec 3) (m : BitVec 3) (s : State) : Out :=
  .next (s.precTo g fun w => precSet w.mode (precP w.mode) m.toNat (precX w.mode))

/-- SETX (R234): sets PREC.X. -/
def execSetx (_c : BitVec 1) (g : BitVec 3) (x : BitVec 1) (s : State) : Out :=
  .next (s.precTo g fun w => precSet w.mode (precP w.mode) (precRM w.mode) (x == 1))

/-- ADDP (R234): adds a signed amount to PREC.P. -/
def execAddp (_c : BitVec 1) (g : BitVec 3) (k : BitVec 9) (s : State) : Out :=
  .next (s.precTo g fun w => precSet w.mode (precP w.mode + k.toInt) (precRM w.mode) (precX w.mode))

/-- SETP_REG (R234): sets PREC.P from a register. -/
def execSetpReg (_c : BitVec 1) (g : BitVec 3) (a : BitVec 6) (s : State) : Out :=
  .next (s.precTo g fun w => precSet w.mode (w.rd a.toNat).toNat (precRM w.mode) (precX w.mode))

/-- CLRXUF (R234): clears PREC.XUF. -/
def execClrxuf (_c : BitVec 1) (g : BitVec 3) (s : State) : Out :=
  .next (s.precTo g fun w => some (w.mode &&& ~~~(0x1000#32)))

end Sys2Proof.Machine
end

