-- ==== Sys2Proof/Machine/MemInstr.lean ====
section
/-!
DEFINITION. Machine/MemInstr.lean: majors 0x20 to 0x2B: loads, stores, XF elements, fences, prefetch, atomics and RED
(R236 to R249). What a word does here is to put accesses in flight; they are performed by the steps of
Machine/MemEvents.lean.
-/

namespace Sys2Proof.Machine

open Sys2Proof

/-! ## Shared forms -/

/-- The offsets of a command window that a load or store may touch (R261). -/
def windowOk (off n : Nat) : Bool :=
  decide (off + n ≤ 0x40) || (off == 0x40 && n == 4) || (off == 0x40 && n == 8) || (off == 0x44 && n == 4)

/-- A resolved access with the check of R261. -/
def Res.windowed (r : Res) : Res :=
  match r with
  | .ok a =>
    match a.space with
    | .window _ _ => if windowOk (a.bytes.headD 0) a.bytes.length then r else .bad 2 a.va
    | _ => r
  | _ => r

/-- A load of `n` bytes in each executing thread: tracked, with its destination written at completion (R159). -/
def State.loads (s : State) (g : BitVec 3) (addr : View → Nat) (n : Nat) (kind : LoadKind) (d : Nat) (acq : Bool) : State :=
  s.faultLanes g fun s t h w =>
    let q := s.resolve t (addr w) n 0 true
    match q.2.windowed with
    | .ok a => (q.1.track t.id h.lrank (acq && s.chained) (.load kind d none a acq none (s.trapAt 0 0)), none)
    | r => (q.1, some (.mem r))

/-- A thread's store to a window opens it; its packets without GO are counted from the first window that is open (R264). -/
def Thread.openWindow (h : Thread) (c : Nat) : Thread :=
  if h.openWin.contains c then h else { h with openWin := h.openWin ++ [c], sinceOpen := if h.openWin.isEmpty then 0 else h.sinceOpen }

/-- A thread's GO closes its window, and the count begins again (R264). -/
def Thread.closeWindow (h : Thread) (c : Nat) : Thread := { h with openWin := h.openWin.filter (· != c), sinceOpen := 0 }

/-- The compatibility scale registers that a command in `bytes` may name are read from the lanes of the thread's group
(R87): for each of A and B the selector's registers of every lane, none living as 0x7F bytes. -/
def scaleRegs (t : Team) (h : Thread) (bytes : List Byte) : List (Nat × Word) :=
  if fieldLe bytes 3 1 ≠ 1 then [] else
  let grab : Nat → Nat → List (Nat × Word) := fun vs sel => (List.range (sel / 4 % 8 + 1)).flatMap fun k =>
    (List.range 32).map fun lane =>
      let who := t.threads.find? fun x => x.frame == h.frame && x.rank == 32 * h.group + lane && !x.exited
      (64 * lane + (vs + k), match who with | some x => x.rd (vs + k) | none => 0x7F7F7F7F)
  grab (fieldLe bytes 48 1) (fieldLe bytes 49 1) ++ grab (fieldLe bytes 50 1) (fieldLe bytes 51 1)

/-- The bytes of a team's command window (R261). -/
def Team.window (t : Team) (c : Nat) : List Byte := getBytes t.win (256 * c) 64

/-- A store to a resolved place: window bytes, a GO, or an ordinary store (R237, R261). `rel` is the release form. A GO holds the thread's
next packet, and the slot after its pair where it is the first word of a chained pair (R262, R409). -/
def State.storeTo (s : State) (t : Team) (h : Thread) (a : Access) (data : List Byte) (rel hold : Bool) : State :=
  match a.space with
  | .window _ c =>
    let off := a.bytes.headD 0
    if off = 0x40 then
      (s.modThread t.id h.lrank fun h => h.closeWindow c).addOp t.id h.lrank none (if s.chained then .slot else .packet)
        (.go c true false [] [])
    else if off = 0x44 then s.issueStore t h.lrank (if hold then .slot else .none) a data rel
    else (s.modThread t.id h.lrank fun h => h.openWindow c).issueStore t h.lrank (if hold then .slot else .none) a data rel
  | _ => s.issueStore t h.lrank (if hold then .slot else .none) a data rel

/-- A store of the bytes that `data` gives, read at issue (R236). -/
def State.stores (s : State) (g : BitVec 3) (addr : View → Nat) (n : Nat) (data : View → List Byte) (rel : Bool) : State :=
  s.faultLanes g fun s t h w =>
    let q := s.resolve t (addr w) n 1 true
    match q.2.windowed with
    | .ok a => (q.1.storeTo t h a (data w) rel (rel && s.chained), none)
    | r => (q.1, some (.mem r))

/-- The bytes of `k` registers. -/
def View.bytes (w : View) (d k : Nat) : List Byte := bytesOf ((List.range k).map fun i => w.rd (d + i))

/-! ## XF elements (R247 to R249) -/

/-- The header word as it stands, to know how many words an element touches. -/
def State.peek (s : State) (t : Team) (rh : Nat) (a : Access) : Word :=
  let bs := match (if a.space = .hbm ∧ a.attr.cached then s.l1Read? t rh a else none) with
    | some r => r.1
    | none => (s.readSpace a).2.1
  BitVec.ofNat 32 (leNat bs)

/-- The reads of words of an element that operation `g` gathers, each an access of its own (R114, R249); they hold back nothing by
themselves. -/
def State.wordLoads (s : State) (t : Team) (r g : Nat) (info : TrapInfo) (ws : List (Access × Nat)) : State :=
  ws.foldl (fun s w => s.addOp t.id r none .none (.load (.word g w.2) 0 none w.1 false none info)) s

/-- A tracked read of an XF element whose words are at `as`: one access where the element is atomic as a whole, and otherwise one for each
word (R114, R249). -/
def State.readElement (s : State) (t : Team) (r : Nat) (hold : Bool) (kind : LoadKind) (d : Nat) (stream : Option Nat) (va : Nat)
    (as : List Access) (info : TrapInfo) : State :=
  match as with
  | [] => s
  | a :: rest =>
    if wholeElement va as.length then s.track t.id r hold (.load kind d stream (a.joined rest) false none info)
    else (s.track t.id r hold (.gather kind d stream va (as.map fun _ => none) info)).wordLoads t r s.nextId info as.zipIdx

/-- The stores of an XF element whose words go to `as`, likewise. -/
def State.writeElement (s : State) (t : Team) (r va : Nat) (as : List Access) (ws : List Word) : State :=
  match as with
  | [] => s
  | a :: rest =>
    if wholeElement va as.length then s.issueStore t r .none (a.joined rest) (bytesOf ws) false
    else (as.zip ws).foldl (fun s e => s.issueStore t r .none e.1 (bytesOf [e.2]) false) s

/-- An XF load: every word that the header names is resolved before anything is read (R249). -/
def State.xfLoads (s : State) (g : BitVec 3) (addr : View → Nat) (kind : View → LoadKind) (d : Nat) (stream : Option Nat)
    (x : Bool) : State :=
  s.faultLanes g fun s t h w =>
    let q := s.resolve t (addr w) 4 0 false
    match q.2 with
    | .ok a0 =>
      let n := xfLen (s.peek t h.rh a0)
      let q := s.resolveWords t (addr w) 0 n
      match q.2 with
      | .ok as =>
        let hold := x && precX w.mode
        let s1 := q.1.readElement t h.lrank hold (kind w) d stream (addr w % 2 ^ 56) as (s.trapAt 1 s.slotNow)
        (if hold then s1.holdNext t.id h.lrank else s1, none)
      | .fail r => (q.1, some (.mem r))
    | r => (q.1, some (.mem r))

/-- An XF store of the words that `f` gives with XUF and exhaustion; a stream form then advances its pair (R248). -/
def State.xfStores (s : State) (g : BitVec 3) (d a : Nat) (stream : Bool) (f : View → XfOut) : State :=
  s.faultLanes g fun s t h w =>
    if w.overrun h.nreg d then (s.trapAfter t.id h.lrank 3, none)
    else
      let o := f w
      if o.exhausted && precX w.mode then (s.trap t.id h.lrank (s.trapAt 1 s.slotNow), none)
      else
        let q := s.resolveWords t (w.addr a) 1 o.words.length
        match q.2 with
        | .ok as =>
          let s := q.1.writeElement t h.lrank (w.addr a) as o.words
          (s.modThread t.id h.lrank fun h =>
            let h := { h with prec := if o.xuf then h.prec ||| 0x1000 else h.prec }
            if stream then h.writes (wrPair a (BitVec.ofNat 64 ((w.addr a + 4 * o.words.length) % 2 ^ 56))) else h, none)
        | .fail r => (q.1, some (.mem r))

/-! ## Fences, prefetch, atomics and RED -/

/-- A stalling word: its wait holds the thread until STALLING_WAIT_END (R118, R157). -/
def State.stall (s : State) (g : BitVec 3) (b : OpBody) : State :=
  s.lanes g fun s t h _ => s.addOp t.id h.lrank none .packet b

/-- A prefetch: dropped unless its line can be held (R246). -/
def State.prefetches (s : State) (g : BitVec 3) (addr : View → Nat) (l2 : Bool) : State :=
  s.lanes g fun s t h w =>
    let at_ := addr w % 2 ^ 56
    if isLocal at_ then s else
    match s.ctx? t.ctx with
    | none => s
    | some c =>
      let q := s.global t.die (some t.core) c at_ 1 0 0
      match q.2 with
      | .ok a => if a.attr.cached then q.1.addOp t.id h.lrank none .none (.prefetch a l2) else q.1
      | _ => q.1

/-- The bytes that an atomic's fn covers (R242). -/
def atomWidth (f : Nat) : Nat := if f ≤ 9 then 4 else 8

/-- The operands of an atomic: b or P(b), and the new value of a compare-and-swap (R242). -/
def atomX (w : View) (f b : Nat) : Dword := if f ≤ 9 then (w.rd b).zeroExtend 64 else w.pair b
def atomY (w : View) (f b : Nat) : Dword := if f ≤ 9 then (w.rd (b + 1)).zeroExtend 64 else w.pair (b + 2)

/-- An atomic: tracked, and performed at the home (R242 to R244). -/
def State.atomics (s : State) (g : BitVec 3) (f d a b : Nat) (acq rel : Bool) : State :=
  s.faultLanes g fun s t h w =>
    let q := s.resolve t (w.addr a) (atomWidth f) 1 false
    match q.2 with
    | .ok acc =>
      ((q.1.l1Drop t acc).track t.id h.lrank ((acq || rel) && s.chained) (.atomic f acc (atomX w f b) (atomY w f b) d acq rel), none)
    | r => (q.1, some (.mem r))

/-- A RED: complete for the thread at issue (R244, R245). -/
def State.reds (s : State) (g : BitVec 3) (rop a b : Nat) : State :=
  s.faultLanes g fun s t h w =>
    let q := s.resolve t (w.addr a) (redWidth rop) 1 false
    match q.2 with
    | .ok acc =>
      ((if acc.attr.red then q.1 else q.1.l1Drop t acc).addOp t.id h.lrank none .none
        (.red rop acc (if redWidth rop = 8 then w.pair b else (w.rd b).zeroExtend 64)), none)
    | r => (q.1, some (.mem r))

/-! ## Meanings -/

/-- XLD (R247): loads an XF element exactly into a window. -/
def execXld (_c : BitVec 1) (g : BitVec 3) (d : BitVec 6) (a : BitVec 6) (o : BitVec 10) (lit : BitVec 32) (s : State) : Out :=
  .next (s.xfLoads g (fun w => w.mAddr a.toNat o lit) (fun _ => .xf) d.toNat none false)

/-- XLD_R (R248): loads an XF element and rounds it by PREC. -/
def execXldR (_c : BitVec 1) (g : BitVec 3) (d : BitVec 6) (a : BitVec 6) (s : State) : Out :=
  .next (s.xfLoads g (fun w => w.addr a.toNat) (fun w => .xfRound w.mode) d.toNat none true)

/-- XST (R248): rounds a window by PREC and stores it. -/
def execXst (_c : BitVec 1) (g : BitVec 3) (d : BitVec 6) (a : BitVec 6) (s : State) : Out :=
  .next (s.xfStores g d.toNat a.toNat false fun w => xfWrite w.mode (w.xval d.toNat))

/-- XST_MIN (R248): stores a window at its shortest exact length. -/
def execXstMin (_c : BitVec 1) (g : BitVec 3) (d : BitVec 6) (a : BitVec 6) (s : State) : Out :=
  .next (s.xfStores g d.toNat a.toNat false fun w => ⟨xfMin (w.win d.toNat), false, false⟩)

/-- XLDS (R248): loads an XF element exactly and advances the address pair. -/
def execXlds (_c : BitVec 1) (g : BitVec 3) (d : BitVec 6) (a : BitVec 6) (s : State) : Out :=
  .next (s.xfLoads g (fun w => w.addr a.toNat) (fun _ => .xf) d.toNat (some a.toNat) false)

/-- XLDS_R (R248): loads and rounds an XF element and advances the address pair. -/
def execXldsR (_c : BitVec 1) (g : BitVec 3) (d : BitVec 6) (a : BitVec 6) (s : State) : Out :=
  .next (s.xfLoads g (fun w => w.addr a.toNat) (fun w => .xfRound w.mode) d.toNat (some a.toNat) true)

/-- XSTS (R248): rounds and stores a window and advances the address pair. -/
def execXsts (_c : BitVec 1) (g : BitVec 3) (d : BitVec 6) (a : BitVec 6) (s : State) : Out :=
  .next (s.xfStores g d.toNat a.toNat true fun w => xfWrite w.mode (w.xval d.toNat))

/-- XSTS_MIN (R248): stores a window at Wmin and advances the address pair. -/
def execXstsMin (_c : BitVec 1) (g : BitVec 3) (d : BitVec 6) (a : BitVec 6) (s : State) : Out :=
  .next (s.xfStores g d.toNat a.toNat true fun w => ⟨xfMin (w.win d.toNat), false, false⟩)

/-- LD_32 (R238): loads 32 bits. -/
def execLd32 (_c : BitVec 1) (g : BitVec 3) (d : BitVec 6) (a : BitVec 6) (o : BitVec 10) (lit : BitVec 32) (s : State) : Out :=
  .next (s.loads g (fun w => w.mAddr a.toNat o lit) 4 (.plain 4) d.toNat false)

/-- ST_32 (R238): stores 32 bits. -/
def execSt32 (_c : BitVec 1) (g : BitVec 3) (d : BitVec 6) (a : BitVec 6) (o : BitVec 10) (lit : BitVec 32) (s : State) : Out :=
  .next (s.stores g (fun w => w.mAddr a.toNat o lit) 4 (fun w => w.bytes d.toNat 1) false)

/-- LD_64 (R238): loads 64 bits into a pair. -/
def execLd64 (_c : BitVec 1) (g : BitVec 3) (d : BitVec 6) (a : BitVec 6) (o : BitVec 10) (lit : BitVec 32) (s : State) : Out :=
  .next (s.loads g (fun w => w.mAddr a.toNat o lit) 8 (.plain 8) d.toNat false)

/-- ST_64 (R238): stores 64 bits from a pair. -/
def execSt64 (_c : BitVec 1) (g : BitVec 3) (d : BitVec 6) (a : BitVec 6) (o : BitVec 10) (lit : BitVec 32) (s : State) : Out :=
  .next (s.stores g (fun w => w.mAddr a.toNat o lit) 8 (fun w => w.bytes d.toNat 2) false)

/-- LD_128 (R238): loads 128 bits into four registers. -/
def execLd128 (_c : BitVec 1) (g : BitVec 3) (d : BitVec 6) (a : BitVec 6) (o : BitVec 10) (lit : BitVec 32) (s : State) : Out :=
  .next (s.loads g (fun w => w.mAddr a.toNat o lit) 16 (.plain 16) d.toNat false)

/-- ST_128 (R238): stores 128 bits from four registers. -/
def execSt128 (_c : BitVec 1) (g : BitVec 3) (d : BitVec 6) (a : BitVec 6) (o : BitVec 10) (lit : BitVec 32) (s : State) : Out :=
  .next (s.stores g (fun w => w.mAddr a.toNat o lit) 16 (fun w => w.bytes d.toNat 4) false)

/-- LD_N8 (R239): loads a byte zero-extended. -/
def execLdN8 (_c : BitVec 1) (g : BitVec 3) (d : BitVec 6) (a : BitVec 6) (s : State) : Out :=
  .next (s.loads g (fun w => w.addr a.toNat) 1 (.plain 1) d.toNat false)

/-- LD_N16 (R239): loads a halfword zero-extended. -/
def execLdN16 (_c : BitVec 1) (g : BitVec 3) (d : BitVec 6) (a : BitVec 6) (s : State) : Out :=
  .next (s.loads g (fun w => w.addr a.toNat) 2 (.plain 2) d.toNat false)

/-- LD_N16_H0 (R239): loads a halfword into the low half. -/
def execLdN16H0 (_c : BitVec 1) (g : BitVec 3) (d : BitVec 6) (a : BitVec 6) (s : State) : Out :=
  .next (s.loads g (fun w => w.addr a.toNat) 2 (.half0) d.toNat false)

/-- LD_N16_H1 (R239): loads a halfword into the high half. -/
def execLdN16H1 (_c : BitVec 1) (g : BitVec 3) (d : BitVec 6) (a : BitVec 6) (s : State) : Out :=
  .next (s.loads g (fun w => w.addr a.toNat) 2 (.half1) d.toNat false)

/-- ST_N8 (R239): stores a byte. -/
def execStN8 (_c : BitVec 1) (g : BitVec 3) (d : BitVec 6) (a : BitVec 6) (s : State) : Out :=
  .next (s.stores g (fun w => w.addr a.toNat) 1 (fun w => toLe 1 (w.rd d.toNat).toNat) false)

/-- ST_N16 (R239): stores the low halfword. -/
def execStN16 (_c : BitVec 1) (g : BitVec 3) (d : BitVec 6) (a : BitVec 6) (s : State) : Out :=
  .next (s.stores g (fun w => w.addr a.toNat) 2 (fun w => toLe 2 (w.rd d.toNat).toNat) false)

/-- ST_N16_H1 (R239): stores the high halfword. -/
def execStN16H1 (_c : BitVec 1) (g : BitVec 3) (d : BitVec 6) (a : BitVec 6) (s : State) : Out :=
  .next (s.stores g (fun w => w.addr a.toNat) 2 (fun w => toLe 2 ((w.rd d.toNat).toNat / 65536)) false)

/-- LD_ACQ_32 (R119): acquire load of 32 bits. -/
def execLdAcq32 (_c : BitVec 1) (g : BitVec 3) (d : BitVec 6) (a : BitVec 6) (s : State) : Out :=
  .next (s.loads g (fun w => w.addr a.toNat) 4 (.plain 4) d.toNat true)

/-- LD_ACQ_64 (R119): acquire load of 64 bits. -/
def execLdAcq64 (_c : BitVec 1) (g : BitVec 3) (d : BitVec 6) (a : BitVec 6) (s : State) : Out :=
  .next (s.loads g (fun w => w.addr a.toNat) 8 (.plain 8) d.toNat true)

/-- ST_REL_32 (R119): release store of 32 bits. -/
def execStRel32 (_c : BitVec 1) (g : BitVec 3) (d : BitVec 6) (a : BitVec 6) (s : State) : Out :=
  .next (s.stores g (fun w => w.addr a.toNat) 4 (fun w => w.bytes d.toNat 1) true)

/-- ST_REL_64 (R119): release store of 64 bits. -/
def execStRel64 (_c : BitVec 1) (g : BitVec 3) (d : BitVec 6) (a : BitVec 6) (s : State) : Out :=
  .next (s.stores g (fun w => w.addr a.toNat) 8 (fun w => w.bytes d.toNat 2) true)

/-- LD_ACQ_128 (R119): acquire load of 128 bits. -/
def execLdAcq128 (_c : BitVec 1) (g : BitVec 3) (d : BitVec 6) (a : BitVec 6) (s : State) : Out :=
  .next (s.loads g (fun w => w.addr a.toNat) 16 (.plain 16) d.toNat true)

/-- ST_REL_128 (R119): release store of 128 bits. -/
def execStRel128 (_c : BitVec 1) (g : BitVec 3) (d : BitVec 6) (a : BitVec 6) (s : State) : Out :=
  .next (s.stores g (fun w => w.addr a.toNat) 16 (fun w => w.bytes d.toNat 4) true)

/-- LD_UNIFORM_BASE (R240): loads 32 bits at a uniform base plus index. -/
def execLdUniformBase (_c : BitVec 1) (g : BitVec 3) (d : BitVec 6) (a : BitVec 6) (u : BitVec 8) (s : State) : Out :=
  .next (s.loads g (fun w => w.sAddr u.toNat a.toNat) 4 (.plain 4) d.toNat false)

/-- ST_UNIFORM_BASE (R240): stores 32 bits at a uniform base plus index. -/
def execStUniformBase (_c : BitVec 1) (g : BitVec 3) (d : BitVec 6) (a : BitVec 6) (u : BitVec 8) (s : State) : Out :=
  .next (s.stores g (fun w => w.sAddr u.toNat a.toNat) 4 (fun w => w.bytes d.toNat 1) false)

/-- LD_64_UNIFORM_BASE (R240): loads 64 bits at a uniform base plus index. -/
def execLd64UniformBase (_c : BitVec 1) (g : BitVec 3) (d : BitVec 6) (a : BitVec 6) (u : BitVec 8) (s : State) : Out :=
  .next (s.loads g (fun w => w.sAddr u.toNat a.toNat) 8 (.plain 8) d.toNat false)

/-- ST_64_UNIFORM_BASE (R240): stores 64 bits at a uniform base plus index. -/
def execSt64UniformBase (_c : BitVec 1) (g : BitVec 3) (d : BitVec 6) (a : BitVec 6) (u : BitVec 8) (s : State) : Out :=
  .next (s.stores g (fun w => w.sAddr u.toNat a.toNat) 8 (fun w => w.bytes d.toNat 2) false)

/-- ATOM_ADD_I32 (R242): atomic 32-bit add returning the old value. -/
def execAtomAddI32 (_c : BitVec 1) (g : BitVec 3) (d : BitVec 6) (a : BitVec 6) (b : BitVec 6) (s : State) : Out :=
  .next (s.atomics g 0 d.toNat a.toNat b.toNat false false)

/-- ATOM_MIN_I32 (R242): atomic signed minimum. -/
def execAtomMinI32 (_c : BitVec 1) (g : BitVec 3) (d : BitVec 6) (a : BitVec 6) (b : BitVec 6) (s : State) : Out :=
  .next (s.atomics g 1 d.toNat a.toNat b.toNat false false)

/-- ATOM_MAX_I32 (R242): atomic signed maximum. -/
def execAtomMaxI32 (_c : BitVec 1) (g : BitVec 3) (d : BitVec 6) (a : BitVec 6) (b : BitVec 6) (s : State) : Out :=
  .next (s.atomics g 2 d.toNat a.toNat b.toNat false false)

/-- ATOM_MIN_N32 (R242): atomic unsigned minimum. -/
def execAtomMinN32 (_c : BitVec 1) (g : BitVec 3) (d : BitVec 6) (a : BitVec 6) (b : BitVec 6) (s : State) : Out :=
  .next (s.atomics g 3 d.toNat a.toNat b.toNat false false)

/-- ATOM_MAX_N32 (R242): atomic unsigned maximum. -/
def execAtomMaxN32 (_c : BitVec 1) (g : BitVec 3) (d : BitVec 6) (a : BitVec 6) (b : BitVec 6) (s : State) : Out :=
  .next (s.atomics g 4 d.toNat a.toNat b.toNat false false)

/-- ATOM_AND (R242): atomic and. -/
def execAtomAnd (_c : BitVec 1) (g : BitVec 3) (d : BitVec 6) (a : BitVec 6) (b : BitVec 6) (s : State) : Out :=
  .next (s.atomics g 5 d.toNat a.toNat b.toNat false false)

/-- ATOM_OR (R242): atomic or. -/
def execAtomOr (_c : BitVec 1) (g : BitVec 3) (d : BitVec 6) (a : BitVec 6) (b : BitVec 6) (s : State) : Out :=
  .next (s.atomics g 6 d.toNat a.toNat b.toNat false false)

/-- ATOM_XOR (R242): atomic exclusive or. -/
def execAtomXor (_c : BitVec 1) (g : BitVec 3) (d : BitVec 6) (a : BitVec 6) (b : BitVec 6) (s : State) : Out :=
  .next (s.atomics g 7 d.toNat a.toNat b.toNat false false)

/-- ATOM_EXCH (R242): atomic 32-bit exchange. -/
def execAtomExch (_c : BitVec 1) (g : BitVec 3) (d : BitVec 6) (a : BitVec 6) (b : BitVec 6) (s : State) : Out :=
  .next (s.atomics g 8 d.toNat a.toNat b.toNat false false)

/-- ATOM_CAS (R242): atomic 32-bit compare-and-swap. -/
def execAtomCas (_c : BitVec 1) (g : BitVec 3) (d : BitVec 6) (a : BitVec 6) (b : BitVec 6) (s : State) : Out :=
  .next (s.atomics g 9 d.toNat a.toNat b.toNat false false)

/-- ATOM_ADD_I64 (R242): atomic 64-bit add. -/
def execAtomAddI64 (_c : BitVec 1) (g : BitVec 3) (d : BitVec 6) (a : BitVec 6) (b : BitVec 6) (s : State) : Out :=
  .next (s.atomics g 10 d.toNat a.toNat b.toNat false false)

/-- ATOM_MAX_N64 (R242): atomic 64-bit unsigned maximum. -/
def execAtomMaxN64 (_c : BitVec 1) (g : BitVec 3) (d : BitVec 6) (a : BitVec 6) (b : BitVec 6) (s : State) : Out :=
  .next (s.atomics g 11 d.toNat a.toNat b.toNat false false)

/-- ATOM_EXCH_64 (R242): atomic 64-bit exchange. -/
def execAtomExch64 (_c : BitVec 1) (g : BitVec 3) (d : BitVec 6) (a : BitVec 6) (b : BitVec 6) (s : State) : Out :=
  .next (s.atomics g 12 d.toNat a.toNat b.toNat false false)

/-- ATOM_CAS_64 (R242): atomic 64-bit compare-and-swap. -/
def execAtomCas64 (_c : BitVec 1) (g : BitVec 3) (d : BitVec 6) (a : BitVec 6) (b : BitVec 6) (s : State) : Out :=
  .next (s.atomics g 13 d.toNat a.toNat b.toNat false false)

/-- ATOM_ORDERED (R243): atomic with acquire, release or both, its operation and order in a literal. -/
def execAtomOrdered (_c : BitVec 1) (g : BitVec 3) (d : BitVec 6) (a : BitVec 6) (b : BitVec 6) (lit : BitVec 32) (s : State) : Out :=
  .next (s.atomics g (lit.toNat % 16) d.toNat a.toNat b.toNat (lit.getLsbD 4) (lit.getLsbD 5))

/-- RED (R245): commutative update with no return value, the operation in the vd field. -/
def execRed (_c : BitVec 1) (g : BitVec 3) (r : BitVec 6) (a : BitVec 6) (b : BitVec 6) (s : State) : Out :=
  .next (s.reds g r.toNat a.toNat b.toNat)

/-- FENCE (R118): full fence waiting for earlier accesses and GTIME ≥ FH + 2. -/
def execFence (g : BitVec 3) (s : State) : Out :=
  .next (s.stall g (.fence 0))

/-- FENCE_ACQ (R118): acquire fence raising RH. -/
def execFenceAcq (g : BitVec 3) (s : State) : Out :=
  .next (s.stall g (.fence 1))

/-- FENCE_REL (R118): release fence holding later writes. -/
def execFenceRel (g : BitVec 3) (s : State) : Out :=
  .next (s.stall g (.fence 2))

/-- PREFETCH (R246): fills a line into L1 with no destination. -/
def execPrefetch (_c : BitVec 1) (g : BitVec 3) (a : BitVec 6) (o : BitVec 10) (lit : BitVec 32) (s : State) : Out :=
  .next (s.prefetches g (fun w => w.mAddr a.toNat o lit) false)

/-- PREFETCH_L2 (R246): brings a line into its home L2. -/
def execPrefetchL2 (_c : BitVec 1) (g : BitVec 3) (a : BitVec 6) (o : BitVec 10) (lit : BitVec 32) (s : State) : Out :=
  .next (s.prefetches g (fun w => w.mAddr a.toNat o lit) true)

end Sys2Proof.Machine
end

