-- ==== Sys2Proof/Machine/Rendezvous.lean ====
section
/-!
DEFINITION. Machine/Rendezvous.lean: what waits for several threads: the results of group-wide operations (R250 to
R257), ELECT (R30), the division of a TCALL (R38 to R41), the arrivals at barriers (R120, R190 to R193), the passing
of the bow (R152) and the end of a team (R55). `settle` brings a team up to date after any of its threads arrives,
completes an access or ends.
-/

namespace Sys2Proof.Machine

open Sys2Proof

/-! ## Group-wide results -/

/-- Level by level, each even position combined with its right neighbour (R153, R255). -/
def treeLevel {α : Type} (f : α → α → α) : List α → List α
  | x :: y :: t => f x y :: treeLevel f t
  | l => l

def treeFold {α : Type} (f : α → α → α) (n : Nat) (xs : List α) : List α :=
  match n with
  | 0 => xs
  | n + 1 => treeFold f n (treeLevel f xs)

/-- The value of the tree over 32 positions. -/
def tree {α : Type} (f : α → α → α) (d : α) (xs : List α) : α := (treeFold f 5 xs).headD d

/-- The lanes of a rendezvous: for each member lane that lives, what it read (R250). -/
abbrev Lanes := List (Option GroupArrival)

def Lanes.at_ (l : Lanes) (j : Nat) : Option GroupArrival := (l[j]?).join

/-- The order of `gred.maxi.f32`: NaN below every number, −0 below +0 (R255). -/
def maxiLess (x y : Word) : Bool :=
  let a := decF32 x
  let b := decF32 y
  if a.isNan then !b.isNan else if b.isNan then false else a.below b

/-- The winner of two candidates of a maxi form: the larger value, then the smaller index; none loses. -/
def maxiPick (less : Word → Word → Bool) (x y : Option (Word × Word)) : Option (Word × Word) :=
  match x, y with
  | none, r => r
  | r, none => r
  | some a, some b =>
    if less a.1 b.1 then some b else if less b.1 a.1 then some a
    else if b.2.ult a.2 then some b else some a

/-- The result of an integer reduction (R255). -/
def gredIOf (fn : Nat) (l : Lanes) (d : Nat) : List Wr :=
  let xs := fun (z : Word) => l.map fun a => match a with | some a => a.a0 | none => z
  match fn with
  | 0 => [.reg d (tree (· + ·) 0 (xs 0))]
  | 1 => [.reg d (tree (fun x y => if y.slt x then y else x) 0 (xs 0x7FFFFFFF))]
  | 2 => [.reg d (tree (fun x y => if x.slt y then y else x) 0 (xs 0x80000000))]
  | _ =>
    let c := (tree (maxiPick fun x y => x.ult y) none (l.map fun a => some (match a with
      | some a => (a.a0, a.a1) | none => (0, 0xFFFFFFFF)))).getD (0, 0xFFFFFFFF)
    [.reg d c.1, .reg (d + 1) c.2]

/-- The result of a floating-point reduction (R255). -/
def gredFOf (fn : Nat) (l : Lanes) (d : Nat) : List Wr :=
  let xs := fun (z : Word) => l.map fun a => match a with | some a => a.a0 | none => z
  match fn with
  | 0 => [.reg d (tree fadd32 0 (xs 0x80000000))]
  | 1 => [.reg d (tree fmin32 0 (xs 0x7F800000))]
  | 2 => [.reg d (tree fmax32 0 (xs 0xFF800000))]
  | _ =>
    let c := (tree (maxiPick maxiLess) none (l.map fun a => a.map fun a => (a.a0, a.a1))).getD (0, 0xFFFFFFFF)
    [.reg d (if (decF32 c.1).isNan then 0x7FC00000 else c.1), .reg (d + 1) c.2]

/-- The sum of a list of words. -/
def sumWords (l : List Word) : Word := l.foldl (· + ·) 0

/-- A scan's result in lane `j` (R256). -/
def gscanOf (fn j : Nat) (l : Lanes) (d : Nat) : List Wr :=
  let upto := fun n => (l.take n).filterMap id
  match fn with
  | 0 => [.reg d (sumWords ((upto (j + 1)).map (·.a0)))]
  | 1 => [.reg d (sumWords ((upto j).map (·.a0)))]
  | 2 => [.reg d ((upto (j + 1)).foldl (fun x a => if x.slt a.a0 then a.a0 else x) 0x80000000)]
  | _ =>
    let count := fun (xs : List GroupArrival) => (xs.filter fun a => a.a0 != 0).length
    [.reg d (BitVec.ofNat 32 (count (upto j) + 65536 * count (l.filterMap id)))]

/-- A poll's result in lane `j` (R254). -/
def pollOf (fn j : Nat) (l : Lanes) (d : Nat) : List Wr :=
  let live := l.filterMap id
  let bits := fun (p : GroupArrival → Bool) =>
    BitVec.ofNat 32 ((List.range 32).foldl (fun x i => x + (match l.at_ i with | some a => if p a then 2 ^ i else 0 | none => 0)) 0)
  match fn with
  | 0 => [.reg d (if live.all fun a => a.a0 != 0 then 1 else 0)]
  | 1 => [.reg d (if live.any fun a => a.a0 != 0 then 1 else 0)]
  | 2 => [.reg d (bits fun a => a.a0 != 0)]
  | _ => [.reg d (bits fun a => match l.at_ j with | some b => a.a0 == b.a0 | none => false)]

/-- The source lane of a PLUCK (R253). -/
def pluckFrom (fn j : Nat) (a : GroupArrival) : Option Nat :=
  let n := a.param.toNat % 32
  match fn with
  | 0 => some (a.dOld.toNat % 32)
  | 1 => if n ≤ j then some (j - n) else none
  | 2 => if j + n ≤ 31 then some (j + n) else none
  | _ => some (j ^^^ n)

/-- The predicate that a parameter word names for validity (R253, R257). -/
def validPred (param : Word) (b : Bool) : List Wr := [.pred (param.toNat / 256 % 8) b]

/-- A PLUCK's result in lane `j` (R253). -/
def pluckOf (fn j : Nat) (a : GroupArrival) (l : Lanes) : List Wr :=
  match pluckFrom fn j a with
  | none => .reg a.d a.a0 :: validPred a.param false
  | some k =>
    if a.mask.getLsbD k then
      match l.at_ k with
      | some b => .reg a.d b.a0 :: validPred a.param true
      | none => .reg a.d 0 :: validPred a.param false
    else .reg a.d a.a0 :: validPred a.param false

/-- The entries of a TOPK: key descending, then index, then lane (R257). -/
def topkSorted (l : Lanes) : List (Word × Word) :=
  (sortBy (fun (x y : Word × Word) => y.1.ult x.1 || (x.1 == y.1 && !y.2.ult x.2)) ((l.filterMap id).map fun a => (a.a0, a.a1)))

/-- A TOPK's result in lane `j`, the `r`-th living member. -/
def topkOf (j : Nat) (a : GroupArrival) (l : Lanes) : List Wr :=
  let r := ((l.take j).filterMap id).length
  if r < a.param.toNat % 64 then
    let e := (topkSorted l).getD r (0, 0xFFFFFFFF)
    [.reg a.d e.1, .reg (a.d + 1) e.2] ++ validPred a.param true
  else [.reg a.d 0, .reg (a.d + 1) 0xFFFFFFFF] ++ validPred a.param false

/-- The writes of a completed rendezvous in lane `j`. -/
def groupResult (a : GroupArrival) (j : Nat) (l : Lanes) : List Wr :=
  match a.op with
  | .pluck fn => pluckOf fn j a l
  | .poll fn => pollOf fn j l a.d
  | .gredI fn => gredIOf fn l a.d
  | .gredF fn => gredFOf fn l a.d
  | .gscan fn => gscanOf fn j l a.d
  | .topk => topkOf j a l
  | .gsync => []

/-- The living thread of a lane of a group of a frame. -/
def Team.laneOf (t : Team) (frame group j : Nat) : Option Thread :=
  t.threads.find? fun h => h.frame == frame && h.rank == 32 * group + j && !h.exited

/-- Whether two arrivals are at the same rendezvous (R250). -/
def GroupArrival.same (a b : GroupArrival) : Bool := a.packet == b.packet && a.mask == b.mask && a.param == b.param

/-- The member lanes of an arrival's rendezvous as they stand. -/
def Team.lanesOf (t : Team) (h : Thread) (a : GroupArrival) : Lanes :=
  (List.range 32).map fun j =>
    if a.mask.getLsbD j then
      match t.laneOf h.frame h.group j with
      | some x => match x.garr with | some b => if a.same b then some b else none | none => none
      | none => none
    else none

/-- Whether every member lane has arrived, has exited or does not exist (R250). -/
def Team.groupFull (t : Team) (h : Thread) (a : GroupArrival) : Bool :=
  (List.range 32).all fun j => !a.mask.getLsbD j ||
    match t.laneOf h.frame h.group j with
    | some x => match x.garr with | some b => a.same b | none => false
    | none => true

/-- A thread made ready at a core clock and a GTIME (R35); one that a STEP parked stops instead (R377). -/
def Thread.wake (h : Thread) (clock time : Nat) : Thread :=
  { h with park := .none, readyAt := clock, aged := false, parkTold := false, due := none, stopped := h.stopped || h.stopNext, stopNext := false,
           stopClock := if h.stopNext then clock else h.stopClock, stopTime := if h.stopNext then time else h.stopTime }

/-- A thread takes an acquired time (R120, R125, R126). -/
def Thread.acquire (h : Thread) (t : Nat) : Thread := { h with fh := max h.fh t, rh := max h.rh t }

/-- A parked thread is released, with the time that it acquires and what the rendezvous writes; while it is stopped, its release is held
(R120, R376). -/
def Thread.release (h : Thread) (hz : Nat) (ws : List Wr) (clock time : Nat) : Thread :=
  if h.stopped then { h with due := some ⟨hz, ws⟩ } else ((h.acquire hz).writes ws).wake clock time

/-- A release that was held takes place. -/
def Thread.takeDue (h : Thread) (clock time : Nat) : Thread :=
  match h.due with | some d => ((h.acquire d.h).writes d.ws).wake clock time | none => h

/-- A lane's part of a completed rendezvous: the time that it acquires, its writes, and its release. -/
def State.groupDone (s : State) (t : Team) (h : Thread) (hz : Nat) (ws : List Wr) : State :=
  match h.garr with
  | none => s
  | some a =>
    (s.modThread t.id h.lrank fun h => { h.release hz ws (s.clock t.die t.core) (s.gtime t.die) with garr := none }).settleFlag t.id h.lrank a.flag

/-- Completes the rendezvous of a thread, if it is full and is not a synchronisation point. -/
def State.settleGroup (s : State) (id r : Nat) : State :=
  match s.team? id with
  | none => s
  | some t =>
    match t.thread? r with
    | none => s
    | some h =>
      match h.garr with
      | none => s
      | some a =>
        if a.op == .gsync || !t.groupFull h a then s
        else
          let l := t.lanesOf h a
          (List.range 32).foldl (fun s j =>
            match l.at_ j, t.laneOf h.frame h.group j with
            | some b, some x => s.groupDone t x 0 (groupResult b j l)
            | _, _ => s) s

/-! ## ELECT (R30, R194) -/

def State.settleElect (s : State) (id f : Nat) : State :=
  match s.team? id with
  | none => s
  | some t =>
    let live := t.living f
    if live.isEmpty || !live.all (fun h => h.waitsAt == .elect) then s
    else
      let low := (live.map (·.rank)).min?.getD 0
      live.foldl (fun s h => s.modThread id h.lrank fun x =>
        x.release 0 [.pred x.parkArg (h.rank == low)] (s.clock t.die t.core) (s.gtime t.die)) s

/-! ## TCALL (R38 to R41, R46, R366) -/

/-- The index of the largest remainder not yet served, lower index first. -/
def pickLargest (rs : List (Nat × Nat)) : Nat :=
  (rs.foldl (fun best e => match best with
    | none => some e
    | some b => if b.2 < e.2 then some e else some b) none).elim 0 (·.1)

/-- The largest-remainder step of R40: `left` units to the largest fractions. -/
def handOut (us : List Nat) (rs : List (Nat × Nat)) : Nat → List Nat
  | 0 => us
  | n + 1 =>
    let k := pickLargest rs
    handOut (setAt us k (· + 1)) (rs.filter fun e => e.1 != k) n

/-- The repair step of R40: a callee with weight and no unit takes one from the largest, ties to the highest index. -/
def repairUnits (ws : List Nat) : Nat → List Nat → List Nat
  | 0, us => us
  | n + 1, us =>
    match (List.range 4).find? fun i => decide (0 < ws.getD i 0) && us.getD i 0 == 0 with
    | none => us
    | some i =>
      let j := (List.range 4).foldl (fun b k => if us.getD b 0 ≤ us.getD k 0 then k else b) 0
      repairUnits ws n (setAt (setAt us j (· - 1)) i (· + 1))

/-- The unit counts of R40. -/
def callUnits (ws : List Nat) (g live : Nat) : List Nat :=
  let u := (live + g - 1) / g
  let w := ws.foldl (· + ·) 0
  if w = 0 then [0, 0, 0, 0] else
  let us := ws.map fun x => u * x / w
  let left := u - us.foldl (· + ·) 0
  let us := handOut us ((List.range 4).map fun i => (i, u * ws.getD i 0 % w)) left
  if (ws.filter (0 < ·)).length ≤ u then repairUnits ws 4 us else us

/-- The callees that run: index, first position and size (R41). -/
def callRanges (us : List Nat) (g live : Nat) : List (Nat × Nat × Nat) :=
  (List.range 4).filterMap fun i =>
    let start := ((us.take i).map (· * g)).foldl (· + ·) 0
    let size := min (us.getD i 0 * g) (live - start)
    if size = 0 then none else some (i, start, size)

/-- Granules of the pool of a core (R46). -/
def poolSize : Nat := 1024

/-- The forks that a team holds: those of its live sub-frames, and those that a call of its has reserved (R46). -/
def Team.forks (t : Team) : Nat :=
  (t.frames.filter fun f => f.status != .gone && f.parent.isSome).length
    + ((t.frames.filterMap (·.call)).map fun c => if c.reserved then c.callees.length else 0).foldl (· + ·) 0

/-- Granules that a core's resident teams hold. -/
def State.poolUsed (s : State) (die core : Nat) : Nat :=
  ((s.teams.filter fun t => t.die == die && t.core == core && (t.standing == .resident || t.standing == .saving)).map
    fun t => 16 * t.forks).foldl (· + ·) 0

/-- The call that an entry of a core's queue stands for. -/
def State.callOf (s : State) (e : Nat × Nat) : Option Call := (s.team? e.1).bind fun t => (t.frame e.2).call

/-- A reservation is met if no earlier one of the core waits and the pool has its granules (R46). -/
def State.reserve (s : State) (die core : Nat) (e : Nat × Nat) : State :=
  match s.core? die core, s.callOf e with
  | some c, some call =>
    let earlier := c.forkQ.takeWhile (· != e)
    if call.reserved || earlier.any (fun x => match s.callOf x with | some k => !k.reserved | none => false)
        || decide (poolSize < s.poolUsed die core + 16 * call.callees.length) then s
    else s.modFrame e.1 e.2 fun f => { f with call := some { call with reserved := true } }
  | _, _ => s

/-- A fault of a frame: every group of it ends, each with its own record (R363). -/
def State.frameFault (s : State) (id f cls : Nat) : State :=
  match s.team? id with
  | none => s
  | some t => (t.living f).foldl (fun s h =>
      match s.thread? id h.lrank with
      | some x => if x.exited then s else s.illegal t h cls
      | none => s) s

/-- Completes the rendezvous of a TCALL: the frame's uniform writes are complete (R39), the operands are read, the threads divided, and the reservation asked for;
or the frame's fault is taken (R186, R363). -/
def State.settleTcall (s : State) (id f : Nat) : State :=
  let ready : Bool := match s.team? id with
    | none => false
    | some t =>
      let live := t.living f
      !(live.isEmpty || (t.frame f).call.isSome || !live.all (fun h => h.waitsAt == .tcall && !s.accessing id h.lrank))
  let s := if ready then s.publishAll id else s
  match s.team? id with
  | none => s
  | some t =>
    let live := sortBy (fun (x y : Thread) => decide (x.rank ≤ y.rank)) (t.living f)
    let fr := t.frame f
    if !ready then s
    else
      let (sw, se, g32, mask) := fr.tcOps
      let ws := (List.range 4).map fun i => (t.uget f sw).toNat / 256 ^ i % 256
      let g := if g32 then 32 else 1
      let us := callUnits ws g live.length
      let rs := callRanges us g live.length
      let here := match live.head? with | some h => packetOf h.pc | none => 0
      let apart := fr.tcApart || live.any fun h => packetOf h.pc != here
      let h := maxOf 0 (live.map (·.fh))
      let callees := rs.map fun r =>
        ({ idx := r.1, start := r.2.1, size := r.2.2,
           entry := here + ((t.uget f (se + r.1)).signExtend 56) * 16#56 } : Callee)
      let lsize := match s.desc? t with | some d => d.lsize | none => 0
      if t.uniBad s.dev.badSram f (sw :: (List.range 4).map (se + ·)) then s.teamAction t live.head? 0x0203 0 0
      else if ws.all (· == 0) || decide (8 ≤ fr.depth) || decide (poolSize < 16 * (t.forks + rs.length)) then s.frameFault id f 0x0103
      else if apart || live.any fun h => pushOverflows h lsize then s.frameFault id f 0x0102
      else
        let s := { s with nextId := s.nextId + 1 }.modFrame id f fun fr =>
          { fr with call := some { seq := s.nextId, h := h, ranks := live.map fun (x : Thread) => x.lrank, callees := callees, marker := here + 16#56, reserved := false }, callH := h, rmask := mask,
                    resume := here + 16#56 }
        (s.modCore t.die t.core fun c => { c with forkQ := c.forkQ ++ [(id, f)] }).reserve t.die t.core (id, f)

/-! ## Barrier arrivals (R120, R190, R192) -/

/-- A barrier nobody has arrived at. -/
def Barrier.fresh : Barrier := { count := 0, phase := false, h := 0, relH := 0, at_ := 0, who := 0, since := 0, told := false }

/-- One arrival counted. -/
def Barrier.arrive (b : Barrier) (who fh clock : Nat) (at_ : BitVec 56) : Barrier :=
  if b.count = 0 then { b with count := 1, h := fh, at_ := at_, who := who, since := clock, told := false }
  else { b with count := b.count + 1, h := max b.h fh }

/-- The arrivals of a thread whose earlier accesses are done. -/
def State.settleArrivals (s : State) (id r : Nat) : State :=
  match s.team? id with
  | none => s
  | some t =>
    match t.thread? r with
    | none => s
    | some h =>
      let done := h.arrivals.filter fun a => !a.ops.any fun k => (s.op? k).isSome
      if done.isEmpty then s else
      let s := done.foldl (fun s a => s.modFrame id h.frame fun f =>
        { f with bars := setAt f.bars a.bar fun b => b.arrive r h.fh (s.clock t.die t.core) a.at_ }) s
      s.modThread id r fun h => { h with arrivals := h.arrivals.filter fun a => a.ops.any fun k => (s.op? k).isSome }

/-- A team arrives at its cluster or grid barrier when every living thread of its launch frame has parked there and
its accesses are done (R192, R193). -/
def State.settleWide (s : State) (id : Nat) : State :=
  match s.team? id with
  | none => s
  | some t =>
    let live := t.living 0
    let all := fun (p : Park) => !live.isEmpty && live.length == (t.threads.filter fun h => !h.exited).length
      && live.all fun h => h.waitsAt == p && !s.accessing id h.lrank
    let h := maxOf 0 (live.map (·.fh))
    let at_ := match live.head? with | some h => (packetOf h.parkAt).toNat | none => 0
    if all .cbar && !t.arrC then
      s.modTeam id fun t => { t with arrC := true, wideH := h, wideAt := at_ }
    else if all .gbar && !t.arrG then
      s.modTeam id fun t => { t with arrG := true, wideH := h, wideAt := at_ }
    else s

/-! ## The bow (R152) -/

/-- The next team index above `k`, wrapping, that has not exited: unplaced indexes count. -/
def State.nextBow (s : State) (l : Launch) (k : Nat) : Nat :=
  let n := l.desc.nteams
  let live := fun i => !(s.teams.any fun t => t.launch == l.id && t.teamId == i && t.standing == .ended)
  let order := (s.teams.filter fun t => t.launch == l.id && live t.teamId).map (·.teamId)
  let order := if l.nextTeam < n then order ++ [l.nextTeam] else order
  let above := order.filter (k < ·)
  match above with
  | x :: t => t.foldl min x
  | [] => match order with | x :: t => t.foldl min x | [] => k

/-- The bow leaves its holder with the time `t` (R152). -/
def State.passBow (s : State) (t : Team) (time : Nat) : State :=
  match s.launch? t.launch with
  | none => s
  | some l =>
    if l.desc.det && l.bow.holder == t.teamId && !l.bow.moving then
      let k := s.nextBow l t.teamId
      s.modLaunch t.launch fun l => { l with bow := { l.bow with holder := k, moving := true, next := max l.bow.next time, prev := t.id, mark := s.nextId } }
    else s

/-- Whether a team holds the bow. -/
def State.hasBow (s : State) (t : Team) : Bool :=
  match s.launch? t.launch with
  | some l => l.desc.det && l.bow.holder == t.teamId && !l.bow.moving
  | none => false

/-! ## Permits (R142) -/

/-- A team gives up its permit or its wait; a free permit goes to the team that has waited longest. -/
def Core.dropTeam (c : Core) (id : Nat) : Core :=
  let held := c.permits.contains id
  let permits := c.permits.filter (· != id)
  let waiters := c.waiters.filter (· != id)
  let c := { c with victims := c.victims.filter fun v => v.1 != id }
  match held, waiters with
  | true, w :: rest => { c with permits := permits ++ [w], waiters := rest }
  | _, _ => { c with permits := permits, waiters := waiters }

/-! ## The end of a team (R55, R189) -/

/-- The copy tags of a team as numbers. -/
def tagList (m : BitVec 64) : List Nat := (List.range 64).filter m.getLsbD

/-- The team ends when it has no living thread, no uncompleted command and none on its way to acceptance (R55; a notify write may still
follow, R127): its slot, its allocations and its tags
are freed, and the bow moves on. -/
def State.settleEnd (s : State) (id : Nat) : State :=
  match s.team? id with
  | none => s
  | some t =>
    if t.standing == .ended || !t.threads.all (·.exited)
        || !t.frames.all (fun f => f.cnt.none)
        || s.ops.any (fun o => o.team == id && o.body.sends) then s
    else
      let old := s
      let s := s.passBow t (maxOf 0 (t.threads.map (·.fh)))
      let s := s.modCore t.die t.core fun c =>
        { (c.dropTeam id) with
            tagrdy := c.tagrdy &&& ~~~ t.tags
            tagCnt := c.tagCnt.filter fun e => !t.tags.getLsbD e.1
            forkQ := c.forkQ.filter fun e => e.1 != id }
      old.newlyReady (s.modTeam id fun t =>
        { t with standing := .ended, frames := [], scratch := [], opbuf := [], acc := [], win := [], handles := [], tags := 0,
                 trdy := 0, pends := [] }) t.die t.core

/-- Brings a team up to date; of a saved team only its end can come about (R48). -/
def State.settle (s : State) (id : Nat) : State :=
  match s.team? id with
  | none => s
  | some t =>
    if t.standing == .saved then s.settleEnd id else
    let ranks := t.threads.map (·.lrank)
    let s := ranks.foldl (fun s r => s.settleArrivals id r) s
    let s := ranks.foldl (fun s r => s.settleGroup id r) s
    let frames := List.range t.frames.length
    let s := frames.foldl (fun s f => s.settleElect id f) s
    let s := frames.foldl (fun s f => s.settleTcall id f) s
    (s.settleWide id).settleEnd id

end Sys2Proof.Machine
end

