-- ==== Sys2Proof/Machine/MemEvents.lean ====
section
/-!
DEFINITION. Machine/MemEvents.lean: the steps of accesses in flight: what may be performed (R112 to R119), stores,
atomics and RED at their homes (R107, R116, R129), fills (R104, R115, R117), the completions of loads and of tracked
operations (R159), the ends of stalling waits (R118, R119, R125, R126), and the steps of L1, walker and HBM.
-/

namespace Sys2Proof.Machine

open Sys2Proof

/-! ## What may be performed -/

def OpBody.isWrite (b : OpBody) : Bool :=
  match b with
  | .store _ _ _ _ => true
  | .atomic _ _ _ _ _ _ _ => true
  | .red _ _ _ => true
  | .accWrite _ _ _ => true
  | .handle _ _ => true
  | b => b.sends

/-- Whether an operation moves accumulator entries or writes a handle's record, held back by an acquire (R275, R272). -/
def OpBody.moves (b : OpBody) : Bool :=
  match b with | .accRead _ _ _ => true | .accWrite _ _ _ => true | .handle _ _ => true | _ => false

/-- Whether an earlier operation of the same thread holds back a later one whatever the addresses (R118, R119). -/
def OpBody.bars (e : OpBody) (write : Bool) : Bool :=
  match e with
  | .fence k => k != 2 || write
  | .load _ _ _ _ acq _ _ => acq
  | .atomic _ _ _ _ _ acq gate => acq || (gate && write)
  | .atomicDone _ _ _ acq _ _ => acq
  | .store _ _ gate _ => gate && write
  | .go _ gate _ _ _ => gate && write
  | .push _ _ gate _ _ _ => gate && write
  | _ => false

/-- Whether a load reads through its core's L1. -/
def OpBody.throughL1 (b : OpBody) : Bool :=
  match b with | .load _ _ _ a _ _ _ => a.space == .hbm && a.attr.cached | _ => false

def OpBody.acquires (b : OpBody) : Bool :=
  match b with | .load _ _ _ _ acq _ _ => acq | .atomic _ _ _ _ _ acq _ => acq | _ => false

/-- Whether a store writes a window whose bytes a GO before it has still to latch (R263). -/
def sendsFirst (e o : Op) : Bool :=
  match e.body, o.body.pending? with
  | .go c _ _ _ _, some a => a.space == .window o.team c && decide (a.bytes.headD 0 < 0x40)
  | _, _ => false

/-- Whether the access of an operation is to memory that its core's L1 holds: there alone the stores of a core's threads come in one order
from their issue on; which of several threads' stores a byte of a scratchpad keeps is left to the order in which they are performed (R102,
R104; log entry 22). -/
def OpBody.inCache (b : OpBody) : Bool := match b.pending? with | some a => a.space == .hbm && a.attr.cached | none => false

/-- Whether the operation `e`, issued before `o` on the same core, must be performed before `o` (R112). -/
def opWaits (e o : Op) : Bool :=
  let meet := match e.body.pending?, o.body.pending? with | some x, some y => x.meets y | _, _ => false
  if e.team = o.team ∧ e.lrank = o.lrank then
    (o.body.isWrite && sendsFirst e o) || e.body.bars o.body.isWrite || (meet && !(e.body.inL1 && o.body.throughL1 && !o.body.acquires))
      || (e.body.moves && o.body.moves)
  else meet && e.body.inCache && e.body.isWrite && (o.body.isWrite || (o.body.acquires && e.body.inL1))

/-- The operations issued before one. -/
def State.before (s : State) (o : Op) : List Op := s.ops.takeWhile fun e => e.id != o.id

/-- A store or atomic to a BOW page (R99, R152). -/
def OpBody.bowed (b : OpBody) : Bool :=
  match b with
  | .store a _ _ _ => a.attr.bow
  | .atomic _ a _ _ _ _ _ => a.attr.bow
  | .red _ a _ => a.attr.bow && !a.attr.red
  | _ => false

/-- Whether an access waits for the bow: its team does not hold it, and did not issue it before a pass under way
(R152). -/
def State.bowWaits (s : State) (o : Op) : Bool :=
  o.body.bowed && match s.team? o.team with
    | none => false
    | some t => s.isDet t && !s.hasBow t && match s.launch? t.launch with
      | some l => !(l.bow.moving && l.bow.prev == t.id && decide (o.id < l.bow.mark))
      | none => true

/-- A scratchpad of another team that is saved: the access waits for the restore (R32). -/
def State.away (s : State) (own : Nat) (a : Access) : Bool :=
  match a.space with
  | .scratch id => id != own && match s.team? id with | some t => t.standing == .saved | none => false
  | _ => false

/-- Whether an access may be performed now. -/
def State.mayPerform (s : State) (o : Op) : Bool :=
  !s.bowWaits o && !(match o.body.pending? with | some a => s.away o.team a | none => false) && !(s.before o).any fun e => s.sameCore e.team o.team && opWaits e o

/-! ## Write times -/

/-- A write's t enters the completion time of its launch (R136). -/
def State.noteT (s : State) (team t : Nat) : State :=
  match s.team? team with | some x => s.modLaunch x.launch fun l => { l with tl := max l.tl t } | none => s

/-- The t of a write to a BOW page enters the T of the bow (R152). -/
def State.noteBow (s : State) (o : Op) (t : Nat) : State :=
  match s.team? o.team with
  | some x => if o.body.bowed && s.isDet x then s.modLaunch x.launch fun l => { l with bow := { l.bow with next := max l.bow.next t } } else s
  | none => s

/-- An L1 drops copies whose stamp lies above its core's GTIME plus 2; `va` is the address of the access that finds one (R388). -/
def State.stampCheck (s : State) (t : Team) (va : Nat) (lines : List Nat) : State :=
  match s.core? t.die t.core with
  | none => s
  | some c =>
    let bad := c.l1.filter fun l => lines.contains l.line && decide (s.gtime t.die + 2 < l.stamp)
    bad.foldl (fun s l => (s.modCore t.die t.core fun c => { c with l1 := c.l1.filter fun x => x.line != l.line }).leaseReport t.die t.core
      t.ctx va) s

/-- The home grants a line's lease and records it, from a time to the scope's length after it (R104, R115); CORE-scope lines take none. -/
def State.grantLease (s : State) (ctx scope line g : Nat) : State :=
  if scope = 0 then s
  else let m := s.lineMeta line; s.setLine { m with lease := max m.lease (g + s.leaseLen ctx scope) }

/-- The home's reply to a store: the lease of each line that the store allocated, recorded at the home whether or not the L1 still holds the
line; and in the L1's copy the lease and stamp where it has none yet, and w (R104, R115, R116). -/
def State.storeReply (s : State) (t : Team) (a : Access) (allocated : List Nat) (time : Nat) : State :=
  if a.space != .hbm || !a.attr.cached then s else
  (a.bytes.map lineOf).dedup.foldl (fun s line =>
    let g := s.gtime (homeDie (128 * line))
    let stop := g + s.leaseLen t.ctx a.attr.scope
    let granted := allocated.contains line
    let s := if granted then s.grantLease t.ctx a.attr.scope line g else s
    let f := fun (x : L1Line) =>
      let fresh := granted && x.lease == some 0
      { x with lease := if fresh then some stop else x.lease, stamp := if fresh then g else x.stamp, w := max x.w time }
    s.modCore t.die t.core fun c => { c with l1 := mapIf (fun x => x.line == line) f c.l1 }) s

/-! ## Atomics (R242) -/

/-- The value that an atomic writes. -/
def atomNew (f : Nat) (old x y : Dword) : Dword :=
  let a := old.extractLsb' 0 32
  let b := x.extractLsb' 0 32
  let w : Word → Dword := fun r => r.zeroExtend 64
  match f with
  | 0 => w (a + b)
  | 1 => w (if b.slt a then b else a)
  | 2 => w (if a.slt b then b else a)
  | 3 => w (if b.ult a then b else a)
  | 4 => w (if a.ult b then b else a)
  | 5 => w (a &&& b)
  | 6 => w (a ||| b)
  | 7 => w (a ^^^ b)
  | 8 => w b
  | 9 => if a = b then y else old
  | 10 => old + x
  | 11 => if old.ult x then x else old
  | 12 => x
  | _ => if old = x then y else old

/-! ## Failures found at the place an access reaches -/

/-- A remote scratchpad whose team has ended: an illegal local address (R92, R383). -/
def State.gone (s : State) (a : Access) : Bool :=
  match a.space with
  | .scratch id => (match s.team? id with | some t => t.standing == .ended | none => true)
  | _ => false

/-- The thread of an operation takes a failure of its access. -/
def State.opFails (s : State) (o : Op) (r : Res) : State :=
  match s.team? o.team with
  | none => s
  | some t => match t.thread? o.lrank with | some h => s.failAccess t h r | none => s

/-- A thread's read of an uncorrectable granule ends its team (R386); that of a thread which has ended is dropped (R362). -/
def State.opPoisoned (s : State) (o : Op) (va : Nat) : State :=
  match s.team? o.team, s.thread? o.team o.lrank with
  | some t, some h => if h.exited then s else s.teamAction t (some h) 0x0203 va 0
  | _, _ => s

/-- Whether an access meets an uncorrectable granule of HBM or of a scratchpad (R385, R386). -/
def State.isPoisoned (s : State) (a : Access) : Bool :=
  match a.space with
  | .hbm => s.poisoned a.bytes
  | .scratch id => a.bytes.any fun p => s.dev.badSram.contains (.scratch id (p / 32))
  | .window _ _ => false

/-! ## Performing writes -/

/-- The words that the core's unperformed atomics and REDs touch stay invalid in its copies, whatever brought them (R408, R112). -/
def State.shun (s : State) (t : Team) : State :=
  (s.ops.filter fun e => s.sameCore e.team t.id).foldl (fun s e => match e.body with
    | .atomic _ a _ _ _ _ _ => s.l1Drop t a
    | .red _ a _ => if a.attr.red then s else s.l1Drop t a
    | _ => s) s

/-- The t of a write in a team's core (R261, R275), the record of a handle, and whether an entry of the accumulator memory is uncorrectable. -/
def State.coreT (s : State) (t : Team) : Nat := s.gtime t.die + 1
def Team.handle (t : Team) (k : Nat) : List Byte := getBytes t.handles (32 * k) 32
def State.accBad (s : State) (team e n : Nat) : Bool := (List.range n).any fun i => s.dev.badSram.contains (.acc team ((e + i) / 8))

/-- What a thread's write of accumulator entries makes of an entry (R274). -/
def accNew (how : Nat) (old x : Word) : Word := match how with | 1 => fadd32 old x | 2 => old + x | _ => x

/-- Accumulator entries written, one write each, with their t (R275). -/
def State.accPut (s : State) (t : Team) (how e : Nat) (xs : List Word) : State × Nat :=
  let put := fun (m : Cells 32) (i : Word × Nat) => cput m (e + i.2) (accNew how (cget m (e + i.2)) i.1)
  (s.modTeam t.id fun t => { t with acc := xs.zipIdx.foldl put t.acc }, s.coreT t)

/-- The commands that a thread has sent before operation `n` and that are not yet accepted keep the record of a handle which it is about to
replace (R272). -/
def State.keepRecord (s : State) (t : Team) (r k n : Nat) : State :=
  let add := fun (recs : List (Nat × List Byte)) => if recs.any (·.1 == k) then recs else (k, t.handle k) :: recs
  let keep := fun (b : OpBody) => match b with
    | .go c g m recs sc => .go c g m (add recs) sc
    | .push c p g cmd recs sc => .push c p g cmd (add recs) sc
    | b => b
  { s with ops := mapIf (fun o => o.team == t.id && o.lrank == r && decide (o.id < n)) (fun o => { o with body := keep o.body }) s.ops }

/-- A handle's record replaced by a thread, in program order after its commands before operation `n`. -/
def State.putRecord (s : State) (t : Team) (r k n : Nat) (bytes : List Byte) : State :=
  (s.keepRecord t r k n).modTeam t.id fun t => { t with handles := putBytes t.handles (32 * k) bytes }

/-- A store is performed (R116, R104): one that was kept out of its core's L1 enters it now. A write of accumulator entries or of a handle's
record that an acquire held back is performed in the core (R119, R272, R275). -/
def State.storeAtHome (s : State) (k : Nat) : State :=
  match s.op? k with
  | none => s
  | some o =>
    match o.body, s.team? o.team with
    | .store a data false l1, some t =>
      if !s.mayPerform o then s
      else if s.gone a then ((s.opFails o (.bad 2 a.va)).endOp o).settle o.team
      else
        let lines := l1.getD (s.l1Allocates t a)
        let s := if l1.isSome then s else (s.l1Store t a data).shun t
        let q := (s.leaseChecks t.ctx a).writeSpace a data
        (((q.1.storeReply t a lines q.2).noteT o.team q.2).noteBow o q.2).setBody k (.written q.2)
    | .accWrite how e xs, some t =>
      if !s.mayPerform o then s
      else if t.standing == .ended then (s.endOp o).settle o.team
      else if how != 0 && s.accBad t.id e xs.length then ((s.opPoisoned o 0).endOp o).settle o.team
      else
        let q := s.accPut t how e xs
        (q.1.noteT o.team q.2).setBody k (.written q.2)
    | .handle h bytes, some t =>
      if !s.mayPerform o then s
      else if t.standing == .ended then (s.endOp o).settle o.team
      else ((s.putRecord t o.lrank h o.id bytes).endOp o).settle o.team
    | _, _ => s

/-- An atomic, or a RED on a page with RED = 0 or in scratchpad, is performed (R244). -/
def State.atomicAtHome (s : State) (k : Nat) : State :=
  match s.op? k with
  | none => s
  | some o =>
    if !s.mayPerform o then s else
    let own := fun (s : State) (a : Access) => match s.team? o.team with | some t => s.leaseChecks t.ctx a | none => s
    match o.body with
    | .atomic f a x y dest acq false =>
      if s.gone a then ((s.opFails o (.bad 2 a.va)).endOp o).settle o.team
      else if s.isPoisoned a then ((s.opPoisoned o a.va).endOp o).settle o.team
      else
        let r := (own s a).readSpace a
        let old := BitVec.ofNat 64 (leNat r.2.1)
        let q := r.1.writeSpace a (toLe a.bytes.length (atomNew f old x y).toNat)
        ((q.1.noteT o.team q.2).noteBow o q.2).setBody k (.atomicDone dest (decide (10 ≤ f)) old acq r.2.2 q.2)
    | .red rop a x =>
      if a.space == .hbm && a.attr.red then s
      else if s.gone a then ((s.opFails o (.bad 2 a.va)).endOp o).settle o.team
      else if s.isPoisoned a then ((s.opPoisoned o a.va).endOp o).settle o.team
      else
        let r := (own s a).readSpace a
        let old := BitVec.ofNat 64 (leNat r.2.1)
        let q := r.1.writeSpace a (toLe a.bytes.length (redCombine rop old x).toNat)
        ((q.1.noteT o.team q.2).noteBow o q.2).setBody k (.written q.2)
    | _ => s

/-- A RED on a RED page combines in the L2 of its die (R129). -/
def State.redAtDieL2 (s : State) (k : Nat) : State :=
  match s.op? k with
  | none => s
  | some o =>
    match o.body, s.team? o.team with
    | .red rop a x, some t =>
      if a.space == .hbm && a.attr.red && s.mayPerform o then
        let q := s.redAt t.ctx t.die rop a x
        (q.1.noteT o.team q.2).setBody k (.written q.2)
      else s
    | _, _ => s

/-! ## Fills (R104, R115, R117, R408) -/

/-- Whether a pending write of the core keeps a fill of a line from its answer: an atomic or RED issued before it
(R408), or a store whose bytes have left the L1. -/
def State.fillWaits (s : State) (t : Team) (o : Op) (line : Nat) : Bool :=
  let copy := (s.core? t.die t.core).bind fun c => c.l1.find? fun l => l.line == line && l.present (s.gtime t.die)
  let on := fun (a : Access) => a.space == .hbm && a.bytes.any fun p => lineOf p == line
  let early := (s.before o).any fun e => s.sameCore e.team o.team && match e.body with
    | .atomic _ a _ _ _ _ _ => on a
    | .red _ a _ => on a
    | _ => false
  let lost := s.ops.any fun e => s.sameCore e.team o.team && match e.body with
    | .store a _ _ (some _) => on a && a.bytes.any fun p => lineOf p == line &&
        match copy with | some l => (l.word? (p / 4 % 32)).isNone | none => true
    | _ => false
  early || lost

/-- The words of a line that pending stores of the core wrote. -/
def State.keptWords (s : State) (t : Team) (line : Nat) : List Nat :=
  (s.ops.filter fun e => s.sameCore e.team t.id).flatMap fun e => match e.body with
    | .store a _ _ (some _) => if a.space == .hbm then (a.bytes.filter fun p => lineOf p == line).map fun p => p / 4 % 32 else []
    | _ => []

/-- One line filled: the home's words, but for the kept ones; the lease and stamp of this grant (R104). A word in an
uncorrectable granule stays invalid. A copy whose lease has ended is none (R115): its line was missed (R141). -/
def State.fillLine (s : State) (t : Team) (scope va line : Nat) (out : List Nat) : State :=
  let base := 128 * line
  let s := s.leaseCheck t.ctx scope va base
  let r := s.readHome ((List.range 128).map (base + ·))
  let s := r.1
  let kept := s.keptWords t line
  let old := (s.core? t.die t.core).bind fun c => c.l1.find? fun l => l.line == line && l.present (s.gtime t.die)
  let words := (List.range 32).filterMap fun i =>
    if kept.contains i then (old.bind fun l => l.word? i).map fun w => (i, w)
    else if s.poisoned ((List.range 4).map fun j => base + 4 * i + j) then none
    else some (i, BitVec.ofNat 32 (leNat ((r.2.1.drop (4 * i)).take 4)))
  let g := s.gtime (homeDie base)
  let stop := g + s.leaseLen t.ctx scope
  let l : L1Line := { line := line, words := words, lease := if scope = 0 then none else some stop, stamp := g, w := (s.lineMeta line).w,
                      scope := scope, team := t.id }
  (s.grantLease t.ctx scope line g).modCore t.die t.core fun c =>
    let c := if old.isNone then c.missed t.id line else c
    let r := c.putLine l (out.filter fun x => x % l1Sets c.split == line % l1Sets c.split)
    r.1.evict t.id r.2

/-- The bytes of an access from the lines just filled. -/
def State.filled (s : State) (t : Team) (a : Access) : Option (List Byte × Nat) :=
  match s.core? t.die t.core with
  | none => none
  | some c =>
    let got := a.bytes.map fun p => (c.l1.find? fun l => l.line == lineOf p).bind fun l => (l.byte? p).map fun b => (b, l.w)
    if got.all Option.isSome then
      let got := got.filterMap id
      some (got.map (·.1), maxOf 0 (got.map (·.2)))
    else none

/-- The fill of an operation's lines arrives: a load takes its bytes from it, and a prefetch ends (R104, R246). -/
def State.l1Fill (s : State) (k : Nat) (out : List Nat) : State :=
  match s.op? k with
  | none => s
  | some o =>
    match s.team? o.team with
    | none => s
    | some t =>
      let lines := fun (a : Access) => (a.bytes.map lineOf).dedup
      match o.body with
      | .load kind d st a acq none i =>
        if !(a.space == .hbm && a.attr.cached) || !s.mayPerform o || (lines a).any (s.fillWaits t o) then s
        else if s.isPoisoned a then (s.opPoisoned o a.va).settle o.team
        else
          let s := (lines a).foldl (fun s l => s.fillLine t a.attr.scope a.va l out) s
          let got := s.filled t a
          ((s.stampCheck t a.va (lines a)).shun t).setBody k (.load kind d st a acq got i)
      | .prefetch a l2 =>
        if (lines a).any (s.fillWaits t o) then s
        else
          let s := if l2 then s else ((lines a).foldl (fun s l => s.fillLine t a.attr.scope a.va l out) s).shun t
          s.endOp o
      | _ => s

/-! ## Completions (R159) -/

/-- The resume point of a thread: its next slot while it is in a bundle, and its next packet otherwise (R370). -/
def State.resumeOf (s : State) (team r : Nat) (pc : BitVec 56) : BitVec 56 :=
  match (s.bundle.toList ++ s.others).find? fun b => b.team == team && b.ranks.contains r with
  | some b => (match nextSlot b.words b.slot with | some k => resumeAt (packetOf b.pc) k | none => packetOf b.pc + 16)
  | none => pc

/-- What a command window answers at 0x40 and 0x44 (R261). -/
def State.windowWords (s : State) (t : Team) (h : Thread) (c : Nat) : List Byte :=
  let queued := (s.cmds.filter fun x => x.die == t.die && x.core == t.core && x.cls == c && x.state == .queued).length
  let n := (t.frame h.frame).cnt
  let now := match c with | 0 => n.copy | 1 => n.matC | 2 => n.attn | 3 => n.coll | _ => n.launch
  toLe 4 (Config.queueRoom c - queued) ++ toLe 4 (now + (if c = 1 then 256 * n.matO else 0))

/-- The bytes of a load with w, where it may be performed now: a fill's answer, a copy in L1, or the place itself. -/
def State.loaded (s : State) (t : Team) (h : Thread) (o : Op) (a : Access) (got : Option (List Byte × Nat)) :
    Option (State × List Byte × Nat) :=
  match got with
  | some g => some (s, g.1, g.2)
  | none =>
    if !s.mayPerform o then none
    else if a.space == .hbm && a.attr.cached then
      let s := s.stampCheck t a.va (a.bytes.map lineOf).dedup
      (s.l1Read? t h.rh a).map fun g => (s, g.1, g.2)
    else
      match a.space with
      | .window _ c =>
        let off := a.bytes.headD 0
        if 0x40 ≤ off then some (s, ((s.windowWords t h c).drop (off - 0x40)).take a.bytes.length, s.gtime t.die + 1)
        else some (s.readSpace a)
      | _ => some (s.readChecked t.ctx a)

/-- The trap that a load meets at completion: precision exhausted at its own slot (R80), or a window overrun at the
thread's next point (R59, R247). -/
def State.loadTraps (s : State) (t : Team) (h : Thread) (o : Op) (cause : Nat) (i : TrapInfo) : State :=
  let i := { i with cause := cause, resume := if cause = 1 then i.resume else s.resumeOf t.id h.lrank h.pc }
  ((s.endOp o).trap t.id h.lrank i).settle t.id

/-- Whether a write is of one of these registers. -/
def Wr.of (regs : List Nat) (w : Wr) : Bool :=
  match w with | .reg i _ => regs.contains i | .half0 i _ => regs.contains i | .half1 i _ => regs.contains i | .pred _ _ => false

/-- The end of a load: its writes, XUF, w, and its flag; or, while `part` names registers, the writes of those alone, since each register of a
pending result is old or new by itself (R68). An ended thread has no registers left to write (R189). -/
def State.loadEnds (s : State) (o : Op) (ws : List Wr) (xuf : Bool) (acq : Bool) (w : Nat) (part : List Nat := []) : State :=
  if !part.isEmpty then s.modThread o.team o.lrank fun h => if h.exited then h else h.writes (ws.filter (Wr.of part))
  else ((s.modThread o.team o.lrank fun h =>
    { (if h.exited then h else h.writes ws) with prec := if xuf then h.prec ||| 0x1000 else h.prec, rh := if acq then max h.rh w else h.rh }).endOp o).settle o.team

/-- The writes of a plain load of `n` bytes (R67, R238, R239). -/
def plainWrites (kind : LoadKind) (d : Nat) (bs : List Byte) : List Wr :=
  match kind with
  | .half0 => [.half0 d (BitVec.ofNat 16 (leNat bs))]
  | .half1 => [.half1 d (BitVec.ofNat 16 (leNat bs))]
  | _ => wrWords d (wordsOf bs)

/-- The advance of a stream form's pair past `n` words from `va` (R248). -/
def streamWrites (st : Option Nat) (va n : Nat) : List Wr :=
  match st with | some p => wrPair p (BitVec.ofNat 64 ((va + 4 * n) % 2 ^ 56)) | none => []

/-- An element longer than what was read of it, `ws`, is read again as a whole where it is atomic, and otherwise its missing words are read
(R114, R249); each takes an entry of the request table, for which it waits (R106). -/
def State.readMore (s : State) (t : Team) (o : Op) (va : Nat) (ws : List Word) (kind : LoadKind) (d : Nat) (st : Option Nat) (i : TrapInfo)
    (as : List Access) : State :=
  let whole := wholeElement va as.length
  let more := if whole then as else as.drop ws.length
  if s.tableFull t.die t.core (sectorsOf (more.filterMap fun a => if a.space == .hbm then some a.va else none)) then s
  else match as with
    | [] => s
    | a :: rest =>
      if whole then s.setBody o.id (.load kind d st (a.joined rest) false none i)
      else (s.setBody o.id (.gather kind d st va (ws.map some ++ more.map fun _ => none) i)).wordLoads t o.lrank o.id i
        ((as.zipIdx).drop ws.length)

/-- An XF element has arrived (R247, R248). An element whose header has grown since it was checked is resolved anew; where a word of it then
does not translate, the load stays and the team is saved with it (log entry 85). -/
def State.xfArrives (s : State) (t : Team) (h : Thread) (o : Op) (va : Nat) (ws : List Word) : LoadKind → Nat → Option Nat →
    TrapInfo → List Nat → State
  | kind, d, st, i, part =>
    let n := xfLen (ws.getD 0 0)
    if ws.length < n then
      match s.resolveWords t va 0 n with
      | (s, .ok as) => s.readMore t o va ws kind d st i as
      | (s, .fail (.xlate va det)) => s.retry t h [(va, det)] va det
      | (s, .fail r) => ((s.failAccess t h r).endOp o).settle t.id
    else
      let ws := ws.take n
      match kind with
      | .xfRound prec =>
        let x := xfWrite prec (xfVal ws)
        if h.nreg < d + x.words.length then s.loadTraps t h o 3 i
        else if x.exhausted && precX prec then s.loadTraps t h o 1 i
        else s.loadEnds o (wrWords d x.words ++ streamWrites st va n) x.xuf false 0 part
      | _ =>
        if h.nreg < d + n then s.loadTraps t h o 3 i
        else s.loadEnds o (wrWords d ws ++ streamWrites st va n) false false 0 part

/-- A word of a gathered element comes in. -/
def State.fillWord (s : State) (g i : Nat) (w : Word) : State :=
  match s.op? g with
  | some o =>
    match o.body with
    | .gather kind d st va ws info => s.setBody g (.gather kind d st va (setAt ws i fun _ => some w) info)
    | _ => s
  | none => s

/-- A load's data arrives, or the last word of an element gathered word by word has come; while `part` names registers, only those are written, and the load keeps what it read (R68, R159). -/
def State.loadCompletion (s : State) (k : Nat) (part : List Nat) : State :=
  match s.op? k with
  | none => s
  | some o =>
    match o.body, s.team? o.team, s.thread? o.team o.lrank with
    | .gather kind d st va ws i, some t, some h =>
      if ws.all Option.isSome then s.xfArrives t h o va (ws.filterMap id) kind d st i part else s
    | .load kind d st a acq got i, some t, some h =>
      if got.isNone && s.gone a then ((s.opFails o (.bad 2 a.va)).endOp o).settle o.team else
      match s.loaded t h o a got with
      | none => s
      | some (s1, bs, w) =>
        if got.isNone && !(a.attr.cached && a.space == .hbm) && s.isPoisoned a then (s.opPoisoned o a.va).settle o.team
        else
          let s1 := if part.isEmpty then s1 else s1.setBody k (.load kind d st a acq (some (bs, w)) i)
          match kind with
          | .xf => s1.xfArrives t h o a.va (wordsOf bs) kind d st i part
          | .xfRound _ => s1.xfArrives t h o a.va (wordsOf bs) kind d st i part
          | .word g j => ((s1.fillWord g j (BitVec.ofNat 32 (leNat bs))).endOp o).settle o.team
          | .fill => ((s1.modThread o.team o.lrank fun h => { h with rstack := BitVec.ofNat 64 (leNat bs) :: h.rstack }).endOp o).settle o.team
          | _ => s1.loadEnds o (plainWrites kind d bs) false acq w part
    | _, _, _ => s

/-- The thread's accesses issued before an operation. -/
def State.earlier (s : State) (o : Op) : List Op := (s.before o).filter fun e => e.team == o.team && e.lrank == o.lrank

/-- Whether a PUSH of the thread issued before an operation has not sent its command or given it up yet: later commands and waits of the
thread come after it (R124, R125). -/
def State.pushing (s : State) (o : Op) : Bool := (s.earlier o).any fun e => match e.body with | .push _ _ _ _ _ _ => true | _ => false

/-- The largest Tc of the commands counted against tags of a core (R126). -/
def Core.tagsTc (c : Core) (tags : List Nat) : Nat :=
  maxOf 0 ((c.tagCnt.filter fun e => tags.contains e.1).map fun e => e.2.2)

/-- A uniform write completes (R28); or a tracked result lands: its writes and XUF, or the trap it found (R80); an atomic's old value with
its t; or the lowest ready tag of an FFR, once its acquire may end (R126, R270); or a read of accumulator entries that an acquire held back is performed (R119, R275). While `part` names registers, a result writes those alone
(R68). -/
def State.trackedCompletion (s : State) (k : Nat) (part : List Nat) : State :=
  match s.op? k with
  | none => s
  | some o =>
    match o.body with
    | .result ws xuf => s.loadEnds o ws xuf false 0 part
    | .uniform _ _ _ _ => (s.publish o.team fun e => e.id == o.id).settle o.team
    | .trapping i => ((s.endOp o).trap o.team o.lrank i).settle o.team
    | .accRead d e n =>
      match s.team? o.team with
      | some t =>
        if !s.mayPerform o then s
        else if s.accBad t.id e n then (s.opPoisoned o 0).settle o.team
        else
          let ws := (List.range n).map fun i => Wr.reg (d + i) (cget t.acc (e + i))
          if part.isEmpty then s.loadEnds o ws false false 0 else (s.setBody k (.result ws false)).loadEnds o ws false false 0 part
      | none => s
    | .atomicDone d wide old acq w t =>
      let ws := if wide then wrPair d old else [Wr.reg d (old.extractLsb' 0 32)]
      if !part.isEmpty then s.loadEnds o ws false acq w part
      else (s.modThread o.team o.lrank fun h => { h with fh := max h.fh t }).loadEnds o ws false acq w
    | .ffr d mask pc =>
      match s.team? o.team, s.thread? o.team o.lrank with
      | some t, some h =>
        match s.core? t.die t.core with
        | none => s
        | some c =>
          let ready := tagList (mask &&& c.tagrdy)
          let j := ready.headD 64
          let hz := c.tagsTc (ready.take 1)
          if s.pushing o then s
          else if mask &&& ~~~t.tags ≠ 0 then ((s.endOp o).illegal t { h with pc := pc } 0x0102).settle t.id
          else if j < 64 ∧ s.gtime t.die < hz + 2 then s
          else (s.modThread o.team o.lrank fun h => h.acquire hz).loadEnds o [.reg d (BitVec.ofNat 32 j)] false false 0
      | _, _ => s
    | _ => s

/-- A write's t returns to its thread (R116). -/
def State.writeReturn (s : State) (k : Nat) : State :=
  match s.op? k with
  | none => s
  | some o =>
    match o.body with
    | .written t => ((s.modThread o.team o.lrank fun h => { h with fh := max h.fh t }).endOp o).settle o.team
    | _ => s

/-! ## Steps of L1, the homes and the host -/

/-- A copy whose lease has ended becomes invalid (R115). -/
def State.leaseExpiry (s : State) (die core line : Nat) : State :=
  s.modCore die core fun c =>
    { c with l1 := c.l1.filter fun l => !(l.line == line && l.lease.any (fun e => decide (0 < e ∧ e ≤ s.gtime die))) }

/-- A host write over CXL.cache to a line of its home, which leaves a copy with the host (R121); the audit region takes none (R352). -/
def State.hostWrite (s : State) (pa : Nat) (data : List Byte) : State :=
  let pas := (List.range data.length).map (pa + ·)
  if pa < auditEnd ∨ hbmSize < pa + data.length then s
  else
    (s.merge pas).putHome pas data true fun a => s.gtime (homeDie a) + 1

/-- A walk of its own accord, as any access would make it (R95, R97). -/
def State.pageWalk (s : State) (die core ctx va : Nat) : State :=
  match s.ctx? ctx with
  | none => s
  | some c => if c.inWindow va 1 then (s.translate die (some core) c (c.windowAddr va) 0).1 else s

/-- Ticks of an hour, in which 256 corrected errors of a granule are borne (R400). -/
def hour : Nat := 3600000000000

/-- One more corrected error of a granule: the counts that are left, and whether more than 256 have come within an hour, which starts the count
anew (R385, R400). -/
def State.counted [BEq α] (s : State) (counts : List (α × List Nat)) (g : α) : List (α × List Nat) × Bool :=
  let now := s.gtime bridge0
  let old := match counts.find? fun e => e.1 == g with | some e => e.2 | none => []
  let times := now :: old.filter fun x => decide (now < x + hour)
  let full := decide (256 < times.length)
  ((if full then [] else [(g, times)]) ++ counts.filter fun e => e.1 != g, full)

/-- An error of a granule of a core is corrected and counted; CORR has no physical address to give there (R385, R400; log entry 107). -/
def State.correctedIn (s : State) (die core : Nat) (g : Granule) : State :=
  let r := s.counted s.dev.correctedIn (die, core, g)
  let s := { s with dev := { s.dev with correctedIn := r.1 } }
  if r.2 then s.deviceRecord 0x000F 0 die core else s

/-- An error of a granule of HBM is corrected and counted; when more than 256 come within an hour the granule raises CORR (R385, R400). -/
def State.correctedAt (s : State) (pa : Nat) : State :=
  if hbmSize ≤ pa then s else
  let g := pa / 32
  let (counts, full) := s.counted s.dev.corrected g
  let s := { s with dev := { s.dev with
    corrected := counts
    worn := if full && !s.dev.worn.contains g then s.dev.worn ++ [g] else s.dev.worn } }
  if full then s.deviceRecord 0x000F pa (homeDie pa) 0 else s

/-- A granule of HBM that raised CORR, or that becomes uncorrectable; its row is spared, or its 64 KiB retired (R404). -/
def State.hbmSpare (s : State) (pa : Nat) (corr spare : Bool) : State :=
  if hbmSize ≤ pa ∨ (corr ∧ !s.dev.worn.contains (pa / 32)) then s else
  let die := homeDie pa
  let s := if corr then { s with dev := { s.dev with worn := s.dev.worn.filter (· != pa / 32) } }
    else { s with dev := { s.dev with badGranules := if s.dev.badGranules.contains (pa / 32) then s.dev.badGranules
                                                      else s.dev.badGranules ++ [pa / 32] } }
  if spare then (s.deviceRecord 0x0006 pa die 0).note 8 0xFFFF
  else
    let s := { s with dev := { s.dev with retiredHbm := if s.dev.retiredHbm.contains (pa / 65536) then s.dev.retiredHbm
                                                        else s.dev.retiredHbm ++ [pa / 65536] } }
    s.deviceRecord 0x0007 pa die 0

/-! ## The lost-locality detector (R141, R142) -/

/-- Permits withdrawn down to `p`, longest held first. -/
def Core.withdraw (c : Core) (p clock : Nat) : Core :=
  let n := c.permits.length - p
  let out := c.permits.take n
  { c with permitP := p, permits := c.permits.drop n, waiters := c.waiters ++ out,
           lastTurn := if c.waiters.isEmpty && !out.isEmpty then clock else c.lastTurn }

/-- Free permits taken by the teams that have waited longest. -/
def Core.grant (c : Core) : Core :=
  let n := c.permitP - c.permits.length
  { c with permits := c.permits ++ c.waiters.take n, waiters := c.waiters.drop n }

/-- The end of a window of 1,024 core clocks. -/
def State.localityWindow (s : State) (die core : Nat) : State :=
  let now := s.clock die core
  s.modCore die core fun c =>
    if now < c.winAt + 1024 then c
    else
      let d := if 32 ≤ c.reref then { (c.withdraw (max 1 (c.permitP / 2)) now) with lastHeavy := now } else c
      { d with reref := 0, winAt := c.winAt + 1024 }

/-- 4,096 clocks without a heavy window. -/
def State.permitIncrease (s : State) (die core : Nat) : State :=
  let now := s.clock die core
  s.newlyReady (s.modCore die core fun c =>
    if now < max c.lastHeavy c.lastRise + 4096 then c
    else ({ c with permitP := min 32 (c.permitP + 1), lastRise := now }).grant) die core

/-- The permit held longest moves to the team that has waited longest. -/
def State.permitRotation (s : State) (die core : Nat) : State :=
  let now := s.clock die core
  s.newlyReady (s.modCore die core fun c =>
    match c.permits, c.waiters with
    | p :: ps, w :: ws => if now < c.lastTurn + 4096 then c else { c with permits := ps ++ [w], waiters := ws ++ [p], lastTurn := now }
    | _, _ => c) die core

/-! ## Stalling waits and release parts (R118, R119, R125, R126) -/

/-- Whether the wait of FENCE and of every release part has ended (R118). -/
def State.released (s : State) (o : Op) (t : Team) (h : Thread) : Bool :=
  !((s.earlier o).any fun e => e.body.unreturned) && decide (h.fh + 2 ≤ s.gtime t.die)

/-- The counter of a class, complete step or operands-consumed step (R125). -/
def Counters.of (c : Counters) (cls : Nat) (cons : Bool) : Nat :=
  match cls with | 0 => c.copy | 1 => if cons then c.matO else c.matC | 2 => c.attn | 3 => c.coll | _ => c.launch

end Sys2Proof.Machine
end

