-- ==== Sys2Proof/Machine/Engine.lean ====
section
/-!
DEFINITION. Machine/Engine.lean: what every engine command shares: acceptance (R110, R262), the checks made before any
access (R389, R390), the addresses of an engine (R94, R92, R268), how a command ends, fails or waits (R379, R382, R383,
R386), and its units of work.
-/

namespace Sys2Proof.Machine

open Sys2Proof

/-! ## Commands -/

def Cmd.opc (c : Cmd) : Nat := fieldLe c.bytes 0 1
def Cmd.st (c : Cmd) : Bool := fieldLe c.bytes 1 1 % 2 == 1
def Cmd.nf (c : Cmd) : Bool := fieldLe c.bytes 1 1 / 2 % 2 == 1
def Cmd.tag (c : Cmd) : Nat := fieldLe c.bytes 2 1
def Cmd.staddr (c : Cmd) : Nat := fieldLe c.bytes 8 8 % 2 ^ 56
/-- An unsigned and a signed field of the body. -/
def Cmd.u (c : Cmd) (off n : Nat) : Nat := fieldLe c.bytes off n
def Cmd.s32 (c : Cmd) (off : Nat) : Int := sx 32 (fieldLe c.bytes off 4)
/-- An address field of the body, whatever its command: its low 56 bits, the others being dropped (log entry 81). -/
def Cmd.addr (c : Cmd) (off : Nat) : Nat := fieldLe c.bytes off 8 % 2 ^ 56

/-- The opcodes of a class (R260). -/
def classOps (cls : Nat) : List Nat :=
  match cls with
  | 0 => [1, 2, 3, 4, 5, 6]
  | 1 => [0x10, 0x11]
  | 2 => [0x20, 0x21, 0x22, 0x23, 0x24, 0x25]
  | 3 => [0x30]
  | _ => [0x40]

/-- The FLAGS bits that an opcode defines (R266, R294). -/
def flagMask (opc : Nat) : Nat := if opc = 0x20 then 31 else 3

/-- The first field at fault: a listed field (offset, length, fault), or a byte not shown, reserved, that is not zero (R276). -/
def firstFault (bytes : List Byte) (fs : List (Nat × Nat × Bool)) : Option Nat :=
  let covered := fun i => fs.find? fun f => decide (f.1 ≤ i ∧ i < f.1 + f.2.1)
  (List.range 64).findSome? fun i =>
    match covered i with
    | some f => if f.1 = i ∧ f.2.2 then some i else none
    | none => if fieldLe bytes i 1 = 0 then none else some i

/-- The fields of the header (R266). An OPC that does not belong to the class of the window is the field at fault, whatever CLASS says (log entry
108). -/
def Cmd.header (c : Cmd) : List (Nat × Nat × Bool) :=
  [(0, 1, !(classOps c.cls).contains c.opc), (1, 1, (fieldLe c.bytes 1 1) % (flagMask c.opc + 1) != fieldLe c.bytes 1 1),
   (2, 1, decide (64 ≤ c.tag ∧ c.tag < 255)), (3, 1, fieldLe c.bytes 3 1 != c.cls), (4, 4, fieldLe c.bytes 4 4 != 0), (8, 8, false)]

/-! ## Acceptance (R110, R262) -/

/-- The handles that a command names (R273). -/
def handlesOf (bytes : List Byte) : List Nat :=
  match fieldLe bytes 0 1 with
  | 5 => [fieldLe bytes 28 1 % 16]
  | 0x10 => [fieldLe bytes 16 1 % 16, fieldLe bytes 17 1 % 16]
  | 0x11 => [fieldLe bytes 16 1 % 16, fieldLe bytes 16 1 / 16, fieldLe bytes 17 1 % 16]
  | _ => []

/-- The counters of a class changed. -/
def Counters.bump (c : Counters) (cls : Nat) (f : Nat → Nat) : Counters :=
  match cls with
  | 0 => { c with copy := f c.copy }
  | 1 => { c with matC := f c.matC, matO := f c.matO }
  | 2 => { c with attn := f c.attn }
  | 3 => { c with coll := f c.coll }
  | _ => { c with launch := f c.launch }

/-- Whether a command of a class can be accepted (R262): a free queue entry, and a counter below 255. -/
def State.canAccept (s : State) (t : Team) (frame cls : Nat) : Bool :=
  let queued := (s.cmds.filter fun c => c.die == t.die && c.core == t.core && c.cls == cls && c.state == .queued).length
  let n := (t.frame frame).cnt
  decide (queued < Config.queueRoom cls ∧ n.of cls false < 255 ∧ (cls = 1 → n.of cls true < 255))

/-- Whether another team owns a tag (R110). -/
def State.tagTaken (s : State) (t : Team) (j : Nat) : Bool :=
  s.teams.any fun x => x.id != t.id && x.die == t.die && x.core == t.core && x.standing != .ended && x.tags.getLsbD j

/-- A tag counts one more command (R110). -/
def State.takeTag (s : State) (t : Team) (j : Nat) : State :=
  let bit := 1#64 <<< j
  let s := s.modTeam t.id fun t => { t with tags := t.tags ||| bit, trdy := t.trdy &&& ~~~bit }
  s.modCore t.die t.core fun c =>
    let old := match c.tagCnt.find? (fun e => e.1 == j) with | some e => e.2 | none => (0, 0)
    { c with tagrdy := c.tagrdy &&& ~~~bit, tagCnt := (j, old.1 + 1, old.2) :: c.tagCnt.filter fun e => e.1 != j }

/-- The record that a command latches for a handle: the one its thread has replaced since it sent the command, or the present one (R272). -/
def Team.latched (t : Team) (recs : List (Nat × List Byte)) (k : Nat) : List Byte :=
  match recs.find? fun e => e.1 == k with | some e => e.2 | none => t.handle k

/-- A command is accepted: latched with its records, counted, its tag busy (R262). -/
def State.accept (s : State) (t : Team) (h : Thread) (cls : Nat) (bytes : List Byte) (recs : List (Nat × List Byte)) (scales : List (Nat × Word)) :
    State :=
  let tag := fieldLe bytes 2 1
  let tagged := decide (tag < 64) && !s.tagTaken t tag
  let c : Cmd :=
    { id := s.nextId, team := t.id, frame := h.frame, lrank := h.lrank, die := t.die, core := t.core, cls := cls,
      bytes := bytes, recs := (handlesOf bytes).map fun k => (k, t.latched recs k), scales := scales, state := .queued, code := 0,
      detail := 0, count := 0, tc := 0, stBad := false, at_ := s.gtime t.die, consumed := false, tagged := tagged,
      units := [], fault := 0, mended := [], scrubbed := [], outs := none, claimed := false, attn := none, coll := none, notify := false }
  let s := { s with cmds := s.cmds ++ [c], nextId := s.nextId + 1 }
  let s := s.modFrame t.id h.frame fun f => { f with cnt := f.cnt.bump cls (· + 1) }
  if tagged then s.takeTag t tag else s

/-! ## How a command ends its body (R389, R390) -/

/-- The body is over with a code; the status word comes later. -/
def State.cmdEnds (s : State) (k code detail count : Nat) : State :=
  s.modCmd k fun c => { c with state := .performed, code := code, detail := detail, count := count }

/-- The record of a command. -/
def Cmd.record (c : Cmd) (t : Team) (cls action addr detail : Nat) : Rec :=
  { die := c.die, cls := cls, action := action, ctx := t.ctx, team := t.teamId, core := c.core, addr := addr, detail := detail }

/-- A command error: of class 0x0301, or, for an accumulator entry beyond the allocation, of class 0x0202 with sub-cause 4 (R383, R389). -/
def State.cmdError (s : State) (c : Cmd) (t : Team) (code detail count : Nat) : State :=
  let s := if code = 0x0103 then s.record (c.record t 0x0202 2 0 4) (bitMEM ||| bitENG) else s.record (c.record t 0x0301 2 c.staddr code) bitENG
  s.cmdEnds c.id code detail count

/-- The engine code of a sub-cause (R383). -/
def subCode (sub : Nat) : Nat := match sub with | 1 => 0x0110 | 2 => 0x0113 | _ => 0x0112

/-- A window, address or alignment failure of a command. -/
def State.cmdAddr (s : State) (c : Cmd) (t : Team) (sub va off count : Nat) : State :=
  (s.record (c.record t 0x0202 2 va sub) (bitMEM ||| bitENG)).cmdEnds c.id (subCode sub) off count

/-- The fault detail of an engine's address (R379). -/
def engineDetail (detail : Nat) : Nat := 64 + detail / 4 * 4 + 3

/-- A translation fault of a command: a record, and the wait for RESOLVE (R379, R382). A LAUNCH keeps how long it has
waited for room, since the limit of R282 does not run meanwhile. -/
def State.cmdWaits (s : State) (c : Cmd) (t : Team) (va detail off phase : Nat) : State :=
  (s.record (c.record t 0x0201 0 c.staddr (engineDetail detail)) 0).modCmd c.id fun c =>
    { c with state := .waiting va phase, detail := if phase = 0 then off else c.detail, fault := engineDetail detail,
             at_ := if c.cls = 4 then s.gtime c.die - c.at_ else c.at_ }

/-- An uncorrectable read of a command (R386). -/
def State.cmdPoisoned (s : State) (c : Cmd) (t : Team) (va count : Nat) : State :=
  ((s.cmdEnds c.id 0x0120 0 count).teamAction t none 0x0203 va 0).settle t.id

/-- A read of a page table that a command's address needs is uncorrectable: the context stops, and the command with CODE UCE (R386; log
entry 75). -/
def State.cmdTable (s : State) (c : Cmd) (t : Team) (va count : Nat) : State :=
  (s.cmdEnds c.id 0x0120 0 count).stopAction (c.record t 0x0203 7 va 0)

/-- What a unit of work comes to: done with the t of its write, a failure with the body offset of the address field,
or another code. -/
inductive UnitRes where
  | done (s : State) (t : Nat)
  | bad (sub va off : Nat)
  | xlate (va detail off : Nat)
  | poison (va : Nat)
  | table (va : Nat)
  | code (code detail : Nat)
  /-- a remote scratchpad whose team is saved: the unit waits for its restore (R32) -/
  | held
  deriving DecidableEq, Repr

/-- Whether a failure is a wait: for RESOLVE, or for a restore. -/
def UnitRes.waits (r : UnitRes) : Bool := match r with | .xlate _ _ _ => true | .held => true | _ => false

/-- A command takes the failure of a unit. -/
def State.cmdFails (s : State) (c : Cmd) (t : Team) (r : UnitRes) (count : Nat) : State :=
  match r with
  | .done s _ => s
  | .bad sub va off => s.cmdAddr c t sub va off count
  | .xlate va d off => (s.cmdWaits c t va d off 0).modCmd c.id fun c => { c with count := count }
  | .poison va => s.cmdPoisoned c t va count
  | .table va => s.cmdTable c t va count
  | .code code d => s.cmdError c t code d count
  | .held => s

/-! ## The accesses of an engine (R92, R94, R261, R268) -/

/-- Where `n` bytes at an address of a command are; `need` is 0 to read and 1 to write, and `align` the alignment. -/
def State.engineRes (s : State) (c : Cmd) (t : Team) (a n need align : Nat) : State × Res :=
  let a := a % 2 ^ 56
  if a % align ≠ 0 then (s, .bad 3 a)
  else if isLocal a then
    (s, match s.localRes t a n (need == 0) with
      | .ok x => (match x.space with
        | .window _ _ => if x.bytes.headD 0 + n ≤ 0x40 then .ok x else .bad 2 a
        | _ => .ok x)
      | r => r)
  else match s.ctx? t.ctx with
    | some x => s.global c.die none x a n need 3
    | none => (s, .bad 1 a)

/-- A read of a command: its bytes and w. -/
inductive ReadRes where
  | ok (s : State) (bytes : List Byte) (w : Nat)
  | fail (r : UnitRes)
  deriving DecidableEq, Repr

/-- A failed address as a unit's failure at the address field `off`. -/
def Res.unit (r : Res) (off : Nat) : UnitRes :=
  match r with
  | .ok _ => .code 0 0
  | .bad sub va => .bad sub va off
  | .xlate va d => .xlate va d off
  | .data va => .table va
  | .poison va => .poison va

def State.engineRead (s : State) (c : Cmd) (t : Team) (a n align off : Nat) : ReadRes :=
  match s.engineRes c t a n 0 align with
  | (s, .ok x) =>
    if s.away t.id x then .fail .held
    else if s.isPoisoned x then .fail (.poison x.va)
    else let r := s.readChecked t.ctx x; .ok r.1 r.2.1 r.2.2
  | (_, r) => .fail (r.unit off)

/-- Bytes that may cross pages, read one by one. -/
def State.engineBytes (s : State) (c : Cmd) (t : Team) (a off : Nat) : Nat → ReadRes
  | 0 => .ok s [] 0
  | n + 1 =>
    match s.engineRead c t a 1 1 off with
    | .fail r => .fail r
    | .ok s b w =>
      match State.engineBytes s c t (a + 1) off n with
      | .fail r => .fail r
      | .ok s bs w' => .ok s (b ++ bs) (max w w')

/-- Words read in ascending order, each on its own (R114). -/
def State.engineWords (s : State) (c : Cmd) (t : Team) (a off : Nat) : Nat → ReadRes
  | 0 => .ok s [] 0
  | n + 1 =>
    match s.engineRead c t a 4 4 off with
    | .fail r => .fail r
    | .ok s b w =>
      match State.engineWords s c t (a + 4) off n with
      | .fail r => .fail r
      | .ok s bs w' => .ok s (b ++ bs) (max w w')

/-- The words that a command writes into an uncorrectable granule make it readable again once they cover it (R386; log entry 76). -/
def State.mend (s : State) (c : Cmd) (x : Access) : State :=
  if x.space != .hbm || !x.bytes.any (fun a => s.dev.badGranules.contains (a / 32)) then s else
  let done := match s.cmd? c.id with | some d => d.mended ++ x.bytes | none => x.bytes
  (s.modCmd c.id fun d => { d with mended := done }).cure done

/-- The same in an array of the core, whose granules `p` names by number; `at_` are the bytes written. -/
def State.scrub (s : State) (c : Cmd) (p : Nat → Sram) (at_ : List Nat) : State :=
  if !at_.any (fun b => s.dev.badSram.contains (p (b / 32))) then s else
  let new := at_.map fun b => (p (b / 32), b % 32)
  let done := match s.cmd? c.id with | some d => d.scrubbed ++ new | none => new
  let s := s.modCmd c.id fun d => { d with scrubbed := done }
  { s with dev := { s.dev with badSram := s.dev.badSram.filter fun g => !(List.range 32).all fun i => done.contains (g, i) } }

/-- The bytes that an accumulator entry takes. -/
def accBytes (e : Nat) : List Nat := [4 * e, 4 * e + 1, 4 * e + 2, 4 * e + 3]

/-- The granules that a resolved write of a command makes readable again. -/
def State.rewritten (s : State) (c : Cmd) (x : Access) : State :=
  match x.space with
  | .scratch id => s.scrub c (.scratch id) x.bytes
  | _ => s.mend c x

def State.engineWrite (s : State) (c : Cmd) (t : Team) (a align off : Nat) (data : List Byte) : UnitRes :=
  match s.engineRes c t a data.length 1 align with
  | (s, .ok x) => if s.away t.id x then .held else let q := ((s.rewritten c x).leaseChecks t.ctx x).writeSpace x data; .done q.1 q.2
  | (_, r) => r.unit off

/-- A read and write of one place in one step, as an atomic at the home or a RED (R244, R129, R277). -/
def State.engineCombine (s : State) (c : Cmd) (t : Team) (a n rop off : Nat) (x : Dword) : UnitRes :=
  match s.engineRes c t a n 1 n with
  | (s, .ok p) =>
    if p.space == .hbm && p.attr.red && rop < 11 then
      let q := s.redAt t.ctx c.die rop p x; .done q.1 q.2
    else if s.away t.id p then .held
    else if s.isPoisoned p then .poison p.va
    else
      let r := (s.leaseChecks t.ctx p).readSpace p
      let old := BitVec.ofNat 64 (leNat r.2.1)
      let new := if rop < 11 then redCombine rop old x else old + x
      let q := r.1.writeSpace p (toLe n new.toNat); .done q.1 q.2
  | (_, r) => r.unit off

/-! ## Checks before any access (R390) -/

/-- The fault of STADDR that is found before any access: a sub-cause of R383. -/
def State.staddrBad (s : State) (c : Cmd) (t : Team) : Option Nat :=
  if !(c.st || c.nf) then none
  else if c.staddr % 16 ≠ 0 then some 3
  else
    let a := if c.st then c.staddr else c.staddr + 8
    let n := if c.st && c.nf then 16 else 8
    if isLocal a then (match s.localRes t a n false with | .ok _ => none | .bad sub _ => some sub | _ => some 2)
    else match s.ctx? t.ctx with
      | some x => if x.inWindow a n then none else some 1
      | none => some 1

/-- What is found before any access: STADDR, then FIELD, then TAGOWN, then the codes that the opcode adds in their
order (R390). -/
inductive Pre where
  | clear
  | staddr (sub : Nat)
  | code (code detail : Nat)
  deriving DecidableEq, Repr

def State.precheck (s : State) (c : Cmd) (t : Team) (body : List (Nat × Nat × Bool)) (more : List (Option (Nat × Nat))) : Pre :=
  match s.staddrBad c t with
  | some sub => .staddr sub
  | none =>
    match firstFault c.bytes (c.header ++ body) with
    | some off => .code 0x0101 off
    | none =>
      if c.tag < 64 ∧ !c.tagged then .code 0x0104 c.tag
      else match more.findSome? id with
        | some (code, detail) => .code code detail
        | none => .clear

/-- A command whose checks fail ends with their code; its STADDR fault keeps the status word from being written. -/
def State.preFails (s : State) (c : Cmd) (t : Team) (p : Pre) : State :=
  match p with
  | .clear => s
  | .code code detail => s.cmdError c t code detail 0
  | .staddr sub => (s.cmdAddr c t sub c.staddr 8 0).modCmd c.id fun c => { c with stBad := true }

/-! ## Units of work -/

/-- The units that a step performs, in their order: those outstanding that `some_` names, or, where it names none, all of them ascending (R2,
R277, R390). -/
def unitOrder (n : Nat) (before some_ : List Nat) : List Nat :=
  let todo := (List.range n).filter fun i => !before.contains i
  let part := some_.dedup.filter todo.contains
  if part.isEmpty then todo else part

/-- Performs units in order until one fails. -/
def runUnits (f : Nat → State → UnitRes) : List Nat → State → List Nat → Nat → State × List Nat × Nat × Option UnitRes
  | [], s, done, t => (s, done, t, none)
  | i :: rest, s, done, t =>
    match f i s with
    | .done s w => runUnits f rest s (i :: done) (max t w)
    | r => (s, done, t, some r)

/-- A command whose body is `n` units: a step performs those that `some_` names, or all that are left, and stops at a failing one; the body is
over once every unit is performed. `weigh` is what a unit counts. -/
def State.runCmd (s : State) (c : Cmd) (t : Team) (n : Nat) (some_ : List Nat) (f : Nat → State → UnitRes) (weigh : Nat → Nat)
    (total : Nat) : State :=
  let (s, units, tc, fail) := runUnits f (unitOrder n c.units some_) s c.units c.tc
  let s := s.modCmd c.id fun c => { c with units := units, tc := tc, state := .running }
  match fail with
  | none => if n ≤ units.length then s.cmdEnds c.id 0 0 total else s
  | some r => s.cmdFails c t r ((units.map weigh).foldl (· + ·) 0)

/-- A command that the engine may start or go on with: not waiting, and, for the matrix class, after every earlier
matrix command of its team (R124). -/
def State.startable (s : State) (k : Nat) : Option (Cmd × Team) :=
  match s.cmd? k with
  | none => none
  | some c =>
    match s.team? c.team with
    | none => none
    | some t =>
      let early := s.cmds.any fun d => d.id < c.id && d.team == c.team && d.cls == 1 && c.cls == 1
        && !(d.state == .performed || d.state == .completed)
      if (c.state == .queued || c.state == .running) && !early then some (c, t) else none

/-- Starts a command of opcode `opc`: its checks on the first start, then its body. -/
def State.startCmd (s : State) (k opc : Nat) (body : Cmd → Team → List (Nat × Nat × Bool))
    (more : Cmd → Team → List (Option (Nat × Nat))) (run : State → Cmd → Team → State) : State :=
  match s.startable k with
  | none => s
  | some (c, t) =>
    if c.opc ≠ opc then s
    else if c.state == .running then run s c t
    else match s.precheck c t (body c t) (more c t) with
      | .clear => run (s.modCmd k fun c => { c with state := .running }) { c with state := .running } t
      | p => s.preFails c t p

end Sys2Proof.Machine
end

