-- ==== Sys2Proof/Machine/Copy.lean ====
section
/-!
DEFINITION. Machine/Copy.lean: tile-handle records (R271) and the copy commands that stay within the package (R276,
R277): COPY, COPYND, FILL, OSBLOAD and ACCMOVE. COPYRED, which may cross packages, stands in Machine/Collective.lean.
-/

namespace Sys2Proof.Machine

open Sys2Proof

/-! ## Tile handles (R271) -/

/-- The fields of a reservation record. -/
structure TileRec where
  off  : Nat
  len  : Nat
  nl   : Nat
  kt   : Nat
  lstr : Nat
  fmt  : Nat
  scl  : Nat
  sp   : Nat
  deriving DecidableEq, Repr

def tileRec (bs : List Byte) : TileRec :=
  { off := fieldLe bs 0 4, len := fieldLe bs 4 4, nl := fieldLe bs 8 2, kt := fieldLe bs 10 2, lstr := fieldLe bs 12 4,
    fmt := fieldLe bs 16 1, scl := fieldLe bs 17 1, sp := fieldLe bs 18 1 }

/-- Formats that come in blocks of 32 with scales (R76). -/
def TileRec.blocked (r : TileRec) : Bool := decide (3 ≤ r.fmt ∧ r.fmt ≤ 6)

/-- Bytes of a unit's elements, and of the whole unit (R86, R271). -/
def TileRec.unitElems (r : TileRec) : Nat := (if r.fmt = 6 then 24 else 32) / (if r.sp = 1 then 2 else 1)
def TileRec.unitBytes (r : TileRec) : Nat := r.unitElems + (if r.scl = 1 then 1 else 0)

/-- LB, the bytes in a line. -/
def TileRec.lb (r : TileRec) : Nat :=
  if r.blocked then r.kt / 32 * r.unitBytes
  else if r.fmt = 0x10 then r.kt / 8
  else (if r.fmt = 8 then r.kt else 2 * r.kt) / (if r.sp = 1 then 2 else 1)

/-- Whether a record passes R271 in an allocation of `oa` bytes. -/
def recordOk (bs : List Byte) (oa : Nat) : Bool :=
  let r := tileRec bs
  (bs.drop 19).all (· == 0)
    && decide (r.off % 32 = 0 ∧ r.len % 32 = 0 ∧ 32 ≤ r.len ∧ r.off + r.len ≤ oa ∧ 1 ≤ r.nl ∧ r.nl ≤ 256 ∧ 8 ≤ r.kt ∧ r.kt ≤ 4096)
    && r.kt % (if r.blocked then 32 else 8) == 0
    && [1, 2, 3, 4, 5, 6, 8, 0x10].contains r.fmt
    && decide (r.scl ≤ 2 ∧ r.sp ≤ 1) && (r.scl == 0 || r.blocked) && (r.sp == 0 || r.fmt != 0x10)
    && decide (r.lstr % 4 = 0 ∧ r.lb ≤ r.lstr ∧ (r.nl - 1) * r.lstr + r.lb ≤ r.len)

/-- The operand-buffer bytes and accumulator entries of a team (R108, R109). -/
def State.oaOf (s : State) (t : Team) : Nat := match s.desc? t with | some d => d.oak * 1024 | none => 0
def State.accOf (s : State) (t : Team) : Nat := match s.desc? t with | some d => d.acck * 1024 | none => 0

/-- A latched record, if its handle is reserved. -/
def Cmd.tile? (c : Cmd) (oa k : Nat) : Option TileRec :=
  match c.recs.find? fun r => r.1 == k with
  | some r => if recordOk r.2 oa then some (tileRec r.2) else none
  | none => none

/-! ## Bodies -/

/-- A word copied from one address to another. -/
def copyWord (c : Cmd) (t : Team) (src dst so dof : Nat) (s : State) : UnitRes :=
  match s.engineRead c t src 4 4 so with
  | .fail r => r
  | .ok s bs _ => s.engineWrite c t dst 4 dof bs

/-- COPY (R277). -/
def State.copy (s : State) (k : Nat) (some_ : List Nat) : State :=
  s.startCmd k 1
    (fun c _ => [(16, 8, false), (24, 8, false), (32, 8, decide (c.u 32 8 % 4 ≠ 0 ∨ 2 ^ 32 < c.u 32 8))])
    (fun _ _ => [])
    fun s c t => s.runCmd c t (c.u 32 8 / 4) some_ (fun i => copyWord c t (c.addr 16 + 4 * i) (c.addr 24 + 4 * i) 16 24)
      (fun _ => 4) (c.u 32 8)

/-- An address with a signed offset, modulo 2^56 (R91). -/
def addrPlus (a : Nat) (d : Int) : Nat := (((a : Int) + d) % (2 ^ 56 : Nat)).toNat

/-- COPYND (R277): word `i` counts along a row, then rows along N1, then along N2. -/
def State.copynd (s : State) (k : Nat) (some_ : List Nat) : State :=
  s.startCmd k 2
    (fun c _ => [(16, 8, false), (24, 8, false), (32, 4, c.u 32 4 % 4 != 0), (36, 2, c.u 36 2 == 0), (38, 2, c.u 38 2 == 0),
      (40, 4, c.u 40 4 % 4 != 0), (44, 4, c.u 44 4 % 4 != 0), (48, 4, c.u 48 4 % 4 != 0), (52, 4, c.u 52 4 % 4 != 0)])
    (fun _ _ => [])
    fun s c t =>
      let w := c.u 32 4 / 4
      let n1 := c.u 36 2
      let at_ := fun (base : Nat) (s1 s2 : Int) (i : Nat) =>
        addrPlus base (4 * (i % w : Nat) + (i / w % n1 : Nat) * s1 + (i / w / n1 : Nat) * s2)
      s.runCmd c t (w * n1 * c.u 38 2) some_
        (fun i => copyWord c t (at_ (c.addr 16) (c.s32 40) (c.s32 44) i) (at_ (c.addr 24) (c.s32 48) (c.s32 52) i) 16 24)
        (fun _ => 4) (c.u 32 4 * n1 * c.u 38 2)

/-- FILL (R277). -/
def State.fill (s : State) (k : Nat) (some_ : List Nat) : State :=
  s.startCmd k 4
    (fun c _ => [(16, 8, false), (24, 8, decide (c.u 24 8 % 4 ≠ 0 ∨ 2 ^ 32 < c.u 24 8)), (32, 4, false)])
    (fun _ _ => [])
    fun s c t => s.runCmd c t (c.u 24 8 / 4) some_
      (fun i s => s.engineWrite c t (c.addr 16 + 4 * i) 4 16 (toLe 4 (c.u 32 4))) (fun _ => 4) (c.u 24 8)

/-- The lines of an OSBLOAD. -/
def Cmd.lines (c : Cmd) (r : TileRec) : Nat := if c.u 34 2 = 0 then r.nl - c.u 32 2 else c.u 34 2

/-- OSBLOAD (R277): unit `i` is up to four bytes of a line. -/
def State.osbload (s : State) (k : Nat) (some_ : List Nat) : State :=
  s.startCmd k 5
    (fun c _ => [(16, 8, false), (24, 4, false), (28, 1, decide (16 ≤ c.u 28 1)), (32, 2, false), (34, 2, false)])
    (fun c t => [match c.tile? (s.oaOf t) (c.u 28 1 % 16) with
      | some r => if r.nl < c.u 32 2 + c.u 34 2 ∨ (c.u 34 2 = 0 ∧ r.nl ≤ c.u 32 2) then some (0x0102, c.u 28 1 % 16) else none
      | none => some (0x0102, c.u 28 1 % 16)])
    fun s c t =>
      match c.tile? (s.oaOf t) (c.u 28 1 % 16) with
      | none => s
      | some r =>
        let per := (r.lb + 3) / 4
        let size := fun i => min 4 (r.lb - 4 * (i % per))
        s.runCmd c t (per * c.lines r) some_
          (fun i s =>
            match s.engineBytes c t (addrPlus (c.addr 16) ((i / per : Nat) * c.s32 24 + 4 * (i % per : Nat))) 16 (size i) with
            | .fail r => r
            | .ok s bs _ =>
              let off := r.off + (c.u 32 2 + i / per) * r.lstr + 4 * (i % per)
              .done ((s.scrub c (.opbuf t.id) ((List.range (size i)).map (off + ·))).modTeam t.id fun t =>
                { t with opbuf := putBytes t.opbuf off bs }) (s.coreT t))
          size (c.lines r * r.lb)

/-- The memory format of ACCMOVE's CVT. -/
def cvtFmt (cvt : Nat) : Fmt := if cvt = 1 then bf16 else fp16

/-- ACCMOVE (R277): unit `i` is entry `i`. A CNT that is no multiple of ROWLEN is reported as CNT (log entry 108). -/
def State.accmove (s : State) (k : Nat) (some_ : List Nat) : State :=
  let rowlen := fun (c : Cmd) => if c.u 36 4 = 0 then c.u 28 4 else c.u 36 4
  let size := fun (c : Cmd) => if c.u 33 1 = 0 then 4 else 2
  s.startCmd k 6
    (fun c _ => [(16, 8, false), (24, 4, false), (28, 4, c.u 28 4 % rowlen c != 0 && rowlen c != 0), (32, 1, decide (1 < c.u 32 1)),
      (33, 1, decide (2 < c.u 33 1)), (36, 4, false), (40, 4, c.u 40 4 % size c != 0)])
    (fun c t => [if s.accOf t < c.u 24 4 + c.u 28 4 then some (0x0103, 0) else none])
    fun s c t =>
      let n := size c
      let at_ := fun i => addrPlus (c.addr 16) ((i / rowlen c : Nat) * c.s32 40 + (i % rowlen c * n : Nat))
      s.runCmd c t (c.u 28 4) some_
        (fun i s =>
          if c.u 32 1 = 0 then
            let x := match s.team? t.id with | some t => cget t.acc (c.u 24 4 + i) | none => 0
            if s.accBad t.id (c.u 24 4 + i) 1 then .poison 0
            else s.engineWrite c t (at_ i) n 16 (if n = 4 then toLe 4 x.toNat else toLe 2 ((cvtFmt (c.u 33 1)).enc .rne false (decF32 x)))
          else
            match s.engineRead c t (at_ i) n n 16 with
            | .fail r => r
            | .ok s bs _ =>
              let x : Word := if n = 4 then BitVec.ofNat 32 (leNat bs) else encF32 ((cvtFmt (c.u 33 1)).dec (leNat bs))
              .done ((s.scrub c (.acc t.id) (accBytes (c.u 24 4 + i))).modTeam t.id fun t => { t with acc := cput t.acc (c.u 24 4 + i) x })
                (s.coreT t))
        (fun _ => 1) (c.u 28 4)

end Sys2Proof.Machine
end

