-- ==== Sys2Proof/Machine/Matrix.lean ====
section
/-!
DEFINITION. Machine/Matrix.lean: MMA and MMAS (R86 to R90, R278 to R281). The operands are read in one step, and the
entries are written in that step or in later ones.
-/

namespace Sys2Proof.Machine

open Sys2Proof

/-- The value of an element of a floating-point tile format (R271). -/
def tileVal (fmt x : Nat) : Val :=
  match fmt with
  | 1 => fp16.dec x
  | 2 => bf16.dec x
  | 3 => decE4m3 x
  | 4 => e5m2.dec x
  | 5 => decT8 x
  | _ => decT6 x

/-- The code of the `q`-th stored element of a line that starts at `base` (R86, R271). -/
def tileCode (osb : Cells 8) (r : TileRec) (base q : Nat) : Nat :=
  if r.blocked then
    let per := if r.sp = 1 then 16 else 32
    let unit := base + q / per * r.unitBytes
    if r.fmt = 6 then leNat (getBytes osb unit r.unitElems) / 64 ^ (q % per) % 64 else (cget osb (unit + q % per)).toNat
  else if r.fmt = 8 then (cget osb (base + q)).toNat
  else leNat (getBytes osb (base + 2 * q) 2)

/-- The E8M0 scale of position `p` of a line, where the handle or the command gives one (R86, R87). -/
def tileScale (osb : Cells 8) (r : TileRec) (base p : Nat) (compat : Nat → Nat) : Option Nat :=
  if r.scl = 1 then some (cget osb (base + p / 32 * r.unitBytes + r.unitElems)).toNat
  else if r.scl = 2 then some (compat (p / 32))
  else none

/-- The positions of a metadata nibble (R280). -/
def metaNibble (osb : Cells 8) (m : TileRec) (line g : Nat) : Nat :=
  (cget osb (m.off + line * m.lstr + g / 2)).toNat / (if g % 2 = 0 then 1 else 16) % 16

/-- The stored index of position `p` of a compressed line; none is an implied zero (R280). -/
def sparseIndex (nib p : Nat) : Option Nat :=
  let g := p / 4
  if p % 4 = nib % 4 then some (2 * g) else if p % 4 = nib / 4 then some (2 * g + 1) else none

/-- The stored index of position `p` of line `line`. -/
def denseIndex (osb : Cells 8) (md : Option TileRec) (line p : Nat) : Option Nat :=
  match md with
  | none => some p
  | some m => sparseIndex (metaNibble osb m line (p / 4)) p

/-- A scale applied to an element (R76). -/
def scaled (x : Val) (e : Option Nat) : Val := match e with | some e => x.mul (decE8m0 e) | none => x

/-- The floating-point element at position `p` of line `line`. -/
def fpElem (osb : Cells 8) (r : TileRec) (md : Option TileRec) (line p : Nat) (compat : Nat → Nat) : Val :=
  let base := r.off + line * r.lstr
  scaled (match denseIndex osb md line p with | some q => tileVal r.fmt (tileCode osb r base q) | none => .fin false 0 0)
    (tileScale osb r base p compat)

/-- The integer element at position `p` of line `line` (R89). -/
def intElem (osb : Cells 8) (r : TileRec) (md : Option TileRec) (line p : Nat) (signed : Bool) : Int :=
  match denseIndex osb md line p with
  | some q => let x := tileCode osb r (r.off + line * r.lstr) q; if signed then sx 8 x else (x : Int)
  | none => 0

/-- The exact sum of products over positions `lo` to `hi − 1` (R88). -/
def dot (a b : Nat → Val) (lo hi : Nat) : Val :=
  (List.range (hi - lo)).foldl (fun x i => x.add .rne ((a (lo + i)).mul (b (lo + i)))) (.fin false 0 0)

/-- One chunk: a single rounding, and +0 for a zero (R88). -/
def chunkStep (acc : Word) (sum : Val) : Word :=
  let v := (decF32 acc).add .rne sum
  let r := encF32 v
  if r = 0x80000000 then 0 else r

/-- An output element of a floating-point product (R88). -/
def fpOut (len k : Nat) (acc : Word) (a b : Nat → Val) : Word :=
  (List.range ((k + len - 1) / len)).foldl (fun acc c => chunkStep acc (dot a b (c * len) (min ((c + 1) * len) k))) acc

/-- An output element of an integer product (R89). -/
def intOut (k : Nat) (acc : Word) (a b : Nat → Int) : Word :=
  (List.range k).foldl (fun acc i => acc + BitVec.ofInt 32 (a i * b i)) acc

/-! ## Fields and checks -/

def Cmd.m (c : Cmd) : Nat := c.u 18 2
def Cmd.n (c : Cmd) : Nat := c.u 20 2
def Cmd.k (c : Cmd) : Nat := c.u 22 2
def Cmd.sparse (c : Cmd) : Bool := c.opc == 0x11
def Cmd.ha (c : Cmd) : Nat := c.u 16 1 % 16
def Cmd.hm (c : Cmd) : Nat := c.u 16 1 / 16
def Cmd.hb (c : Cmd) : Nat := c.u 17 1 % 16
def Cmd.ctl (c : Cmd) (i : Nat) : Bool := c.u 44 4 / 2 ^ i % 2 == 1

/-- The record of A, B or the metadata. -/
def State.tileA (s : State) (c : Cmd) (t : Team) : Option TileRec := c.tile? (s.oaOf t) c.ha
def State.tileB (s : State) (c : Cmd) (t : Team) : Option TileRec := c.tile? (s.oaOf t) c.hb
def State.tileM (s : State) (c : Cmd) (t : Team) : Option TileRec := if c.sparse then c.tile? (s.oaOf t) c.hm else none

def hasFmt (r : Option TileRec) (f : Nat) : Bool := match r with | some r => r.fmt == f | none => false
def hasScl (r : Option TileRec) (f : Nat) : Bool := match r with | some r => r.scl == f | none => false

/-- The fields of a matrix command (R278, R279). A sign bit for an operand whose handle is not reserved or holds metadata is a bad field: it is
found before the handle is (log entry 108). -/
def State.mmaFields (s : State) (c : Cmd) (t : Team) : List (Nat × Nat × Bool) :=
  let a := s.tileA c t
  let b := s.tileB c t
  let stray := fun (r : Option TileRec) (off : Nat) => c.u off 1 != 0 && !hasScl r 2
  [(16, 1, c.hm != 0 && !c.sparse), (17, 1, decide (16 ≤ c.u 17 1)), (18, 2, decide (c.m < 1 ∨ 256 < c.m)),
   (20, 2, decide (c.n < 1 ∨ 256 < c.n)), (22, 2, decide (c.k < 1 ∨ 4096 < c.k) || (c.sparse && c.k % 4 != 0)), (24, 2, false), (26, 2, false),
   (28, 2, c.u 28 2 % 32 != 0), (30, 2, c.u 30 2 != 0), (32, 4, false), (36, 4, false), (40, 2, decide (c.u 40 2 < c.n)),
   (42, 2, decide (c.u 42 2 < c.n)),
   (44, 4, decide (8 ≤ c.u 44 4) || (c.ctl 1 && !hasFmt a 8) || (c.ctl 2 && !hasFmt b 8)),
   (48, 1, stray a 48), (49, 1, stray a 49), (50, 1, stray b 50), (51, 1, stray b 51), (52, 12, c.u 52 12 != 0)]

/-- Whether A's, the metadata's and B's handles suit the command (R279, R280, R390). -/
def suitsA (c : Cmd) (r : Option TileRec) : Bool :=
  match r with
  | some r => r.fmt != 0x10 && r.sp == (if c.sparse then 1 else 0) && decide (c.u 24 2 + c.m ≤ r.nl ∧ c.u 28 2 + c.k ≤ r.kt)
  | none => false
def suitsM (c : Cmd) (r : Option TileRec) : Bool :=
  !c.sparse || match r with
  | some r => r.fmt == 0x10 && decide (c.u 24 2 + c.m ≤ r.nl ∧ c.u 28 2 + c.k ≤ r.kt)
  | none => false
def suitsB (c : Cmd) (a r : Option TileRec) : Bool :=
  match r with
  | some r => r.fmt != 0x10 && r.sp == 0 && decide (c.u 26 2 + c.n ≤ r.nl ∧ c.u 28 2 + c.k ≤ r.kt) && (hasFmt a 8 == (r.fmt == 8))
  | none => false

/-- A compatibility selector that breaks R87: too many lines, too few bytes, registers beyond the allocation, or a
reserved bit. -/
def scaleBad (c : Cmd) (nreg : Nat) (r : Option TileRec) (lines off : Nat) : Bool :=
  let sel := c.u (off + 1) 1
  hasScl r 2 && (decide (32 < lines) || decide (4 * (sel / 4 % 8 + 1) < sel % 4 + (c.k + 31) / 32)
    || decide (nreg < c.u off 1 + sel / 4 % 8 + 1) || decide (32 ≤ sel))

/-- The first metadata line with a nibble whose p0 ≥ p1 (R280). -/
def State.metaBad (s : State) (c : Cmd) (t : Team) : Option Nat :=
  match s.tileM c t with
  | none => none
  | some m =>
    (List.range c.m).findSome? fun i =>
      let line := c.u 24 2 + i
      if (List.range (c.k / 4)).any fun j =>
        let nib := metaNibble t.opbuf m line (c.u 28 2 / 4 + j)
        decide (nib / 4 ≤ nib % 4)
      then some line else none

/-- What a matrix command checks after its fields and tag, in the order of R390. -/
def State.mmaChecks (s : State) (c : Cmd) (t : Team) : List (Option (Nat × Nat)) :=
  let a := s.tileA c t
  let b := s.tileB c t
  let nreg := match s.desc? t with | some d => d.nreg | none => 0
  let last := fun (base ld : Nat) => base + (c.m - 1) * ld + c.n
  [if suitsA c a then none else some (0x0102, c.ha), if suitsM c (s.tileM c t) then none else some (0x0102, c.hm),
   if suitsB c a b then none else some (0x0102, c.hb),
   if scaleBad c nreg a c.m 48 then some (0x0105, 0) else none, if scaleBad c nreg b c.n 50 then some (0x0105, 1) else none,
   (s.metaBad c t).map fun l => (0x0106, l),
   if (!c.ctl 0 && s.accOf t < last (c.u 32 4) (c.u 40 2)) || s.accOf t < last (c.u 36 4) (c.u 42 2) then some (0x0103, 0) else none]

/-- The compatibility scale byte of line `i` for K block `k` of the command (R87). -/
def Cmd.scaleByte (c : Cmd) (off i k : Nat) : Nat :=
  let t := c.u (off + 1) 1 % 4 + k
  match c.scales.find? fun e => e.1 == 64 * i + (c.u off 1 + t / 4) with
  | some e => e.2.toNat / 256 ^ (t % 4) % 256
  | none => 0x7F

/-- D[i][j] (R279). -/
def mmaOut (c : Cmd) (t : Team) (a b : TileRec) (md : Option TileRec) (i j : Nat) : Word :=
  let k0 := c.u 28 2
  let acc := if c.ctl 0 then 0 else cget t.acc (c.u 32 4 + i * c.u 40 2 + j)
  if a.fmt = 8 then
    intOut c.k acc (fun k => intElem t.opbuf a md (c.u 24 2 + i) (k0 + k) (c.ctl 1))
      (fun k => intElem t.opbuf b none (c.u 26 2 + j) (k0 + k) (c.ctl 2))
  else
    fpOut (if a.blocked && b.blocked then 32 else 16) c.k acc
      (fun k => fpElem t.opbuf a md (c.u 24 2 + i) (k0 + k) fun blk => c.scaleByte 48 i (blk - k0 / 32))
      (fun k => fpElem t.opbuf b none (c.u 26 2 + j) (k0 + k) fun blk => c.scaleByte 50 j (blk - k0 / 32))

/-- The entries of D with their values, from the operands and the entries as they stand. -/
def mmaOuts (c : Cmd) (t : Team) (a b : TileRec) (md : Option TileRec) : List (Nat × Word) :=
  (List.range c.m).flatMap fun i => (List.range c.n).map fun j => (c.u 36 4 + i * c.u 42 2 + j, mmaOut c t a b md i j)

/-- Whether lines of an operand lie in an uncorrectable granule of the operand buffer; a command reads the lines that it names whole (R386;
log entry 88). -/
def State.linesBad (s : State) (team : Nat) (r : TileRec) (first n : Nat) : Bool :=
  (List.range n).any fun i =>
    let lo := r.off + (first + i) * r.lstr
    s.dev.badSram.any fun g => match g with | .opbuf id k => id == team && decide (lo / 32 ≤ k ∧ 32 * k < lo + r.lb) | _ => false

/-- Whether a matrix command reads an uncorrectable granule. -/
def State.mmaBad (s : State) (c : Cmd) (t : Team) (a b : TileRec) (md : Option TileRec) : Bool :=
  !s.dev.badSram.isEmpty
    && (s.linesBad t.id a (c.u 24 2) c.m || s.linesBad t.id b (c.u 26 2) c.n
        || (match md with | some m => s.linesBad t.id m (c.u 24 2) c.m | none => false)
        || (!c.ctl 0 && (List.range c.m).any fun i => s.accBad t.id (c.u 32 4 + i * c.u 40 2) c.n))

/-- From this number on a part of a matrix command names words of its operand buffer that it reads ahead of the others. -/
def readAhead : Nat := 2 ^ 20

/-- The words of the operand buffer that hold some lines of an operand. -/
def TileRec.wordsIn (r : TileRec) (first n : Nat) : List Nat :=
  ((List.range n).flatMap fun i =>
    let lo := r.off + (first + i) * r.lstr
    (List.range (r.lb / 4 + 1)).map (lo / 4 + ·)).dedup

/-- What a matrix command has read once it has read some words more: every word is read once, those of the metadata as they are checked
(R128, R280). -/
def Cmd.reads (c : Cmd) (t : Team) (md : Option TileRec) (ws : List Nat) : List (Nat × Word) :=
  let take := fun (ws : List Nat) => ws.map fun w => (w, BitVec.ofNat 32 (leNat (getBytes t.opbuf (4 * w) 4)))
  let old := c.early.getD (match md with | some m => take (m.wordsIn (c.u 24 2) c.m) | none => [])
  old ++ take (ws.filter fun w => !old.any (·.1 == w))

/-- The operand buffer as a matrix command sees it: the words that it has read as they were then. -/
def Cmd.seen (c : Cmd) (t : Team) : Team :=
  match c.early with
  | none => t
  | some l => { t with opbuf := l.foldl (fun m e => putBytes m (4 * e.1) (toLe 4 e.2.toNat)) t.opbuf }

/-- A matrix command reads every operand word once and then writes each entry once (R279, R281). A step that names operand words reads those
ahead (R128; log entry 88); the first other step reads what is left and computes the entries, and a step writes the entries that `some_` names,
or all that are left. -/
def State.mmaRun (s : State) (c : Cmd) (t : Team) (some_ : List Nat) : State :=
  match s.tileA c t, s.tileB c t with
  | some a, some b =>
    if c.outs.isNone && s.mmaBad c t a b (s.tileM c t) then s.cmdPoisoned c t 0 0 else
    let ahead := (some_.filter (readAhead ≤ ·)).map (· - readAhead)
    if c.outs.isNone && !ahead.isEmpty then s.modCmd c.id fun x => { x with early := some (c.reads t (s.tileM c t) ahead) } else
    let left := c.outs.getD (mmaOuts c (c.seen t) a b (s.tileM c t))
    let now := if some_.isEmpty then left else left.filter fun e => some_.contains e.1
    let rest := if some_.isEmpty then [] else left.filter fun e => !some_.contains e.1
    let s := s.scrub c (.acc t.id) (now.flatMap fun e => accBytes e.1)
    let s := s.modTeam t.id fun t => { t with acc := now.foldl (fun m e => cput m e.1 e.2) t.acc }
    let s := s.modCmd c.id fun x => { x with tc := max x.tc (s.coreT t), outs := some rest }
    if rest.isEmpty then s.cmdEnds c.id 0 0 (c.m * c.n) else s
  | _, _ => s

/-- MMA and MMAS by opcode. -/
def State.mma (s : State) (k opc : Nat) (some_ : List Nat) : State :=
  s.startCmd k opc s.mmaFields s.mmaChecks fun s c t => s.mmaRun c t some_

end Sys2Proof.Machine
end

