-- ==== Sys2Proof/Machine/Commands.lean ====
section
/-!
DEFINITION. Machine/Commands.lean: the ends of stalling waits and release parts (R118, R119, R122, R125, R126), the way
of a command from GO to its notify counter (R122 to R127, R261 to R267, R281), and a saved team's frame as commands
and restores reach it (R145, R147).
-/

namespace Sys2Proof.Machine

open Sys2Proof

/-! ## The context frame of a team (R147) -/

/-- FS of a launch descriptor. -/
def Desc.frameSize (d : Desc) : Nat :=
  (0x11740 + d.tsize * (384 + 4 * d.nreg) + d.sak * 1024 + d.oak * 1024 + 4 * (d.acck * 1024) + 4095) / 4096 * 4096

/-- The virtual address of a team's frame. -/
def State.frameBase (s : State) (t : Team) : Nat :=
  match s.desc? t with | some d => (d.frames + t.teamId * d.frameSize) % 2 ^ 56 | none => 0

/-- Bytes at virtual addresses as the dispatcher or a save reads and writes them, byte by byte through the die TLB. -/
def State.devRes (s : State) (die ctx va need : Nat) : Nat → State × Res
  | 0 => (s, .ok { space := .hbm, bytes := [], va := va, attr := noAttr })
  | n + 1 =>
    let q := match s.ctx? ctx with
      | some c => if isLocal va then (s, Res.bad 2 va) else s.global die none c va 1 need 3
      | none => (s, .bad 1 va)
    match q with
    | (s, .ok a) => match State.devRes s die ctx (va + 1) need n with
      | (s, .ok b) => (s, .ok { a with bytes := a.bytes ++ b.bytes })
      | r => r
    | r => r

/-- An access of the dispatcher, or of a save or restore, that does not translate: a record, and the wait for RESOLVE
(R379, R381). -/
def State.devWaits (s : State) (die ctx va detail : Nat) : State :=
  match s.ctx? ctx with
  | none => s
  | some c =>
    if c.dispWait.any (·.1 == va) then s
    else (s.record { die := die, cls := 0x0201, action := 0, ctx := ctx, addr := va, detail := 128 + detail } 0).modCtx ctx
      fun c => { c with dispWait := c.dispWait ++ [(va, 128 + detail)] }

/-- `n` bytes that must start at a multiple of `align`, as the dispatcher or a save reaches them; a failure waits for
RESOLVE or stops the context (R381, R383, R386). -/
def State.devAccess (s : State) (die ctx va need align n : Nat) : State × Option Access :=
  let stop := fun (s : State) (cls va sub : Nat) =>
    (s.stopAction { die := die, cls := cls, action := 7, ctx := ctx, addr := va, detail := sub }, none)
  let va := va % 2 ^ 56
  let waits := match s.ctx? ctx with | some c => c.dispWait.any fun w => decide (va ≤ w.1 ∧ w.1 < va + n) | none => false
  if va % align ≠ 0 then stop s 0x0202 va 3 else if waits then (s, none) else
  match s.devRes die ctx va need n with
  | (s, .ok a) => (s, some a)
  | (s, .xlate v d) => (s.devWaits die ctx v d, none)
  | (s, .bad sub v) => stop s 0x0202 v sub
  | (s, .data v) => stop s 0x0203 v 0
  | (s, .poison v) => stop s 0x0203 v 0

/-- Bytes read with acquire at their homes, with their write time; an uncorrectable one stops the context (R386). -/
def State.devGet (s : State) (die ctx va align n : Nat) : State × Option (List Byte × Nat) :=
  match s.devAccess die ctx va 0 align n with
  | (s, some a) =>
    if s.poisoned a.bytes then (s.stopAction { die := die, cls := 0x0203, action := 7, ctx := ctx, addr := va }, none)
    else let r := s.homeRead ctx a; (r.1, some r.2)
  | (s, none) => (s, none)

/-- Bytes of a saved image replaced, or read; none while their page does not translate, and none of an uncorrectable granule, which stops the
context (R386, R394). -/
def State.imageWrite (s : State) (t : Team) (off : Nat) (bs : List Byte) : State × Bool :=
  match s.devAccess t.die t.ctx (s.frameBase t + off) 1 1 bs.length with
  | (s, some a) => ((s.homeWrite t.ctx a bs).1, true)
  | (s, none) => (s, false)

def State.imageRead (s : State) (t : Team) (off n : Nat) : State × Option (List Byte) :=
  match s.devAccess t.die t.ctx (s.frameBase t + off) 0 1 n with
  | (s, some a) =>
    if s.poisoned a.bytes then
      (s.stopAction { die := t.die, cls := 0x0203, action := 7, ctx := t.ctx, team := t.teamId, addr := (s.frameBase t + off) % 2 ^ 56 }, none)
    else let r := s.homeRead t.ctx a; (r.1, some r.2.1)
  | (s, none) => (s, none)

/-- The place of a frame-table entry (R147, R149). -/
def entryOff (i : Nat) : Nat := 0x300 + 64 * i

/-! ## Stalling waits and release parts -/

/-- The end of an operation's wait. -/
def State.waitOver (s : State) (o : Op) : State := (s.endOp o).settle o.team

/-- The wait of a stalling instruction or of a release part ends once its conditions hold. -/
def State.stallingWaitEnd (s : State) (k : Nat) : State :=
  match s.op? k with
  | none => s
  | some o =>
    match s.team? o.team, s.thread? o.team o.lrank with
    | some t, some h =>
      let g := s.gtime t.die
      let late := s.pushing o
      let horizon := fun (s : State) => s.modThread t.id h.lrank fun x => { x with rh := max x.rh (g + 3) }
      match o.body with
      | .fence 0 => if s.released o t h then (horizon s).waitOver o else s
      | .fence 1 => if (s.earlier o).any fun e => e.body.isLoad then s else (horizon s).waitOver o
      | .fence _ => if s.released o t h then s.waitOver o else s
      | .store a d true l1 => if s.released o t h then s.setBody k (.store a d false l1) else s
      | .atomic f a x y d acq true => if s.released o t h then s.setBody k (.atomic f a x y d acq false) else s
      | .go c true sent b sc => if s.released o t h && !late then s.setBody k (.go c false sent b sc) else s
      | .push cls pd true cmd recs sc =>
        if s.released o t h && !late then
          let ok := s.canAccept t o.frame cls
          let s := if ok then s.accept t { h with frame := o.frame } cls cmd recs sc else s
          (s.modThread t.id h.lrank fun x => x.write (.pred pd ok)).waitOver o
        else s
      | .waitc cls cons n =>
        let f := t.frame h.frame
        if late || decide (n < f.cnt.of cls cons) then s
        else if cons then s.waitOver o
        else
          let hz := f.tcs.getD cls 0
          if g < hz + 2 then s else (s.modThread t.id h.lrank fun x => x.acquire hz).waitOver o
      | .waitTags all mask =>
        match s.core? t.die t.core with
        | none => s
        | some c =>
          let ready := mask &&& c.tagrdy
          let hz := c.tagsTc (tagList ready)
          if late then s
          else if mask &&& ~~~t.tags ≠ 0 then ((s.endOp o).illegal t { h with pc := packetOf h.pc - 16#56 } 0x0102).settle t.id
          else if (if all then ready == mask else ready != 0) && decide (hz + 2 ≤ g) then
            (s.modThread t.id h.lrank fun x => x.acquire hz).waitOver o
          else s
      | _ => s
    | _, _ => s

/-! ## GO, acceptance and completion -/

/-- A GO whose release has ended sends its window, once its thread is not stopped (R376); the compatibility scales are read (R87, R122, R261). -/
def State.commandGo (s : State) (k : Nat) : State :=
  match s.op? k with
  | none => s
  | some o =>
    match o.body, s.team? o.team, s.thread? o.team o.lrank with
    | .go cls false false recs _, some t, some h =>
      if s.mayPerform o && !h.stopped then s.setBody k (.go cls false true recs (scaleRegs t h (t.window cls))) else s
    | _, _, _ => s

/-- A sent command is accepted when its class has room (R262), and the store to GO has its t (R261). -/
def State.commandAcceptance (s : State) (k : Nat) : State :=
  match s.op? k with
  | none => s
  | some o =>
    match o.body, s.team? o.team, s.thread? o.team o.lrank with
    | .go cls _ true recs sc, some t, some h =>
      if s.canAccept t o.frame cls && !h.stopped then
        ((s.accept t { h with frame := o.frame } cls (t.window cls) recs sc).modThread t.id h.lrank fun x => { x with fh := max x.fh (s.gtime t.die + 1) }).waitOver o
      else s
    | _, _, _ => s

/-- Whether every earlier command of the same team and class has reached a step (R124). -/
def State.inOrder (s : State) (c : Cmd) (p : Cmd → Bool) : Bool :=
  s.cmds.all fun d => decide (c.id ≤ d.id) || d.team != c.team || d.cls != c.cls || p d

/-- A matrix command's operands have been read (R281). -/
def State.operandsConsumed (s : State) (k : Nat) : State :=
  match s.cmd? k with
  | none => s
  | some c =>
    if c.cls = 1 ∧ (c.state == .performed || c.outs.isSome) ∧ !c.consumed ∧ s.inOrder c (·.consumed) then
      (s.modCmd k fun c => { c with consumed := true }).modFrame c.team c.frame fun f =>
        { f with cnt := { f.cnt with matO := f.cnt.matO - 1 } }
    else s

/-- The 8 bytes of a status word (R267, R391). -/
def Cmd.status (c : Cmd) : List Byte :=
  let big := decide (2 ^ 32 ≤ c.count)
  toLe 2 (if big && c.code == 0 then 1 else c.code) ++ toLe 2 c.detail ++ toLe 4 (if big then 2 ^ 32 - 1 else c.count)

/-- A command completed against its tag (R110). -/
def State.tagDone (s : State) (c : Cmd) (tc : Nat) : State :=
  if !c.tagged then s else
  let j := c.tag
  let bit := 1#64 <<< j
  let old := match (s.core? c.die c.core).bind fun k => k.tagCnt.find? fun e => e.1 == j with | some e => e.2 | none => (1, 0)
  let left := old.1 - 1
  let s := s.modCore c.die c.core fun k =>
    { k with tagrdy := if left = 0 then k.tagrdy ||| bit else k.tagrdy,
             tagCnt := (j, left, max old.2 tc) :: k.tagCnt.filter fun e => e.1 != j }
  if left = 0 then s.modTeam c.team fun t => { t with trdy := t.trdy ||| bit } else s

/-- The frame's counter of a class falls (R123). -/
def Frame.commandDone (f : Frame) (cls tc : Nat) : Frame :=
  let cnt := match cls with
    | 1 => { f.cnt with matC := f.cnt.matC - 1 }
    | _ => f.cnt.bump cls (· - 1)
  { f with cnt := cnt, tcs := setAt f.tcs cls (max tc), cmdH := max f.cmdH tc }

/-- The counter and TAGRDY steps of a command whose team is saved, applied to the image (R145). -/
def State.imageDone (s : State) (t : Team) (c : Cmd) : State × Bool :=
  let off := entryOff c.frame + 24 + (match c.cls with | 0 => 0 | 1 => 1 | 2 => 3 | 3 => 4 | _ => 5)
  match s.imageRead t off 1 with
  | (s, none) => (s, false)
  | (s, some b) =>
    match s.imageWrite t off (toLe 1 (leNat b - 1)), s.team? t.id with
    | (s, true), some t => s.imageWrite t 40 (toLe 8 (t.trdy &&& t.tags).toNat)
    | (s, _), _ => (s, false)

/-- Everything that changes when a command completes. -/
def State.commandEnds (s : State) (c : Cmd) (t : Team) (tc : Nat) : State :=
  let s := (s.noteT t.id tc).tagDone c tc
  let s := s.modFrame t.id c.frame fun f => f.commandDone c.cls tc
  let s := if c.nf && !c.stBad then s.modCmd c.id fun c => { c with state := .completed, tc := tc, notify := true }
    else { s with cmds := s.cmds.filter fun d => d.id != c.id }
  s.settle t.id

/-- The completion of a performed command; that of a saved team's changes the image too, and waits while the image's
page does not translate. -/
def State.commandCloses (s : State) (c : Cmd) (t : Team) (tc : Nat) : State :=
  if t.standing == .saved then
    match s.devAccess t.die t.ctx (s.frameBase t) 1 1 (entryOff (c.frame + 1)) with
    | (s, none) => s
    | (s, some _) => ((s.commandEnds c t tc).imageDone t c).1
  else s.commandEnds c t tc

/-- A command whose opcode its class does not have is found as it would start (R389). -/
def State.badOpcode (s : State) (c : Cmd) (t : Team) : State :=
  if c.state == .queued && !(classOps c.cls).contains c.opc then s.preFails c t (s.precheck c t [] []) else s

/-- The record of a status word or notify counter whose address fails as it is written, which shows STADDR (R390); a data error in a page table
stops the context (R386). -/
def State.statusFails (s : State) (c : Cmd) (t : Team) (r : UnitRes) : State :=
  match r with
  | .bad sub _ _ => s.record (c.record t 0x0202 2 c.staddr sub) (bitMEM ||| bitENG)
  | .table va => s.stopAction (c.record t 0x0203 7 va 0)
  | _ => s

/-- The die whose time a write of a command waits for: the home of its location (R127, R313). -/
def State.cmdHome (s : State) (c : Cmd) (t : Team) (a : Nat) : Nat :=
  match (s.engineRes c t a 8 1 8).2 with
  | .ok x => if x.space == .hbm then homeDie (x.bytes.headD 0) else t.die
  | _ => t.die

/-- The completion of a performed command (R123, R267). -/
def State.commandCompletion (s : State) (k : Nat) : State :=
  match s.cmd? k with
  | none => s
  | some c =>
    match s.team? c.team with
    | none => s
    | some t =>
      let s := s.badOpcode c t
      match s.cmd? k with
      | none => s
      | some c =>
        if c.state != .performed || !s.inOrder c (·.state == .completed) || (c.cls == 1 && !c.consumed)
            || (c.cls == 3 && decide (s.gtime (s.cmdHome c t c.staddr) < c.tc + 2)) then s
        else if c.st && !c.stBad then
          match s.engineWrite c t c.staddr 8 8 c.status with
          | .done s w => s.commandCloses c t (max c.tc w)
          | .xlate va d off => s.cmdWaits c t va d off 1
          | .held => s
          | r => (s.statusFails c t r).commandCloses { c with stBad := true } t c.tc
        else s.commandCloses c t c.tc

/-- The notify counter of a completed command rises once its home's GTIME allows it (R127, R267). -/
def State.notifyRelease (s : State) (k : Nat) : State :=
  match s.cmd? k with
  | none => s
  | some c =>
    match s.team? c.team with
    | none => s
    | some t =>
      let gone := fun (s : State) =>
        let s := ({ s with cmds := s.cmds.filter fun d => d.id != k }).settle t.id
        if (s.launch? t.launch).isSome || s.cmds.any (fun d => d.team == t.id) then s
        else { s with teams := s.teams.filter fun x => x.id != t.id }
      if c.state != .completed || !c.notify then s
      else if s.gtime (s.cmdHome c t (c.staddr + 8)) < c.tc + 2 then s
        else match s.engineCombine c t (c.staddr + 8) 8 255 8 1 with
          | .done s w => gone (s.noteT t.id w)
          | .xlate va d off => s.cmdWaits c t va d off 2
          | .poison va => gone (s.teamAction t none 0x0203 va 0)
          | .held => s
          | r => gone (s.statusFails c t r)

end Sys2Proof.Machine
end

