-- ==== Sys2Proof/Machine/GroupInstr.lean ====
section
/-!
DEFINITION. Machine/GroupInstr.lean: majors 0x2C to 0x31, the group-wide operations (R250 to R258, R364). A word makes
the arrivals of its lanes; `settle` completes the rendezvous (Machine/Rendezvous.lean).
-/

namespace Sys2Proof.Machine

open Sys2Proof

/-- The reserved bits of a parameter word, and a `k` above 32 (R253, R257). -/
def paramBad (op : GroupOp) (param : Word) : Bool :=
  match op with
  | .topk => fld param 6 2 != 0 || fld param 11 21 != 0 || decide (32 < param.toNat % 64)
  | .pluck _ => fld param 5 3 != 0 || fld param 11 21 != 0
  | _ => false

/-- A conflict of R364 between a lane's arrival and the pending rendezvous of its group. -/
def Team.conflicts (t : Team) (h : Thread) (a : GroupArrival) : Bool :=
  let lane := h.rank % 32
  !a.mask.getLsbD lane ||
    t.threads.any fun x => x.frame == h.frame && x.group == h.group && !x.exited && x.lrank != h.lrank &&
      match x.garr with
      | some b => !a.same b && (b.mask.getLsbD lane || a.mask.getLsbD (x.rank % 32))
      | none => false

/-- A group-wide word: each executing lane arrives, or its group ends (R250, R251, R364). `p` names the forms with a
parameter word. -/
def State.groupWord (s : State) (g : BitVec 3) (op : GroupOp) (p : Bool) (d a sb : Nat) : State :=
  let s1 := s.lanes g fun s t h w =>
    let flag := s.slotFlag
    let arr : GroupArrival :=
      { op := op, packet := s.here, mask := w.u sb, param := if p then w.u (sb + 1) else 0, d := d, a0 := w.rd a, a1 := w.rd (a + 1),
        dOld := w.rd d, flag := flag }
    if s.slotNow ≠ 1 ∨ (p ∧ sb % 2 = 1) ∨ paramBad op arr.param ∨ t.conflicts h arr then s.illegal t h 0x0102
    else
      let clock := s.clock t.die t.core
      let here := s.here
      ((s.holdNext t.id h.lrank).raise t.id h.lrank flag).modThread t.id h.lrank fun h =>
        { h with garr := some arr, park := .group, parkAt := here, parkClock := clock, parkTold := false }
  match s.bundle with
  | some b => s1.settle b.team
  | none => s1

/-- PLUCK_AT (R253): takes a value from the lane named in vd. -/
def execPluckAt (_c : BitVec 1) (g : BitVec 3) (d : BitVec 6) (a : BitVec 6) (u : BitVec 8) (s : State) : Out :=
  .next (s.groupWord g (.pluck 0) true d.toNat a.toNat u.toNat)

/-- PLUCK_BELOW (R253): takes a value from lane j − l. -/
def execPluckBelow (_c : BitVec 1) (g : BitVec 3) (d : BitVec 6) (a : BitVec 6) (u : BitVec 8) (s : State) : Out :=
  .next (s.groupWord g (.pluck 1) true d.toNat a.toNat u.toNat)

/-- PLUCK_ABOVE (R253): takes a value from lane j + l. -/
def execPluckAbove (_c : BitVec 1) (g : BitVec 3) (d : BitVec 6) (a : BitVec 6) (u : BitVec 8) (s : State) : Out :=
  .next (s.groupWord g (.pluck 2) true d.toNat a.toNat u.toNat)

/-- PLUCK_FLIP (R253): takes a value from lane j XOR l. -/
def execPluckFlip (_c : BitVec 1) (g : BitVec 3) (d : BitVec 6) (a : BitVec 6) (u : BitVec 8) (s : State) : Out :=
  .next (s.groupWord g (.pluck 3) true d.toNat a.toNat u.toNat)

/-- POLL_ALL (R254): 1 if every member contribution is true. -/
def execPollAll (_c : BitVec 1) (g : BitVec 3) (d : BitVec 6) (a : BitVec 6) (u : BitVec 8) (s : State) : Out :=
  .next (s.groupWord g (.poll 0) false d.toNat a.toNat u.toNat)

/-- POLL_ANY (R254): 1 if any member contribution is true. -/
def execPollAny (_c : BitVec 1) (g : BitVec 3) (d : BitVec 6) (a : BitVec 6) (u : BitVec 8) (s : State) : Out :=
  .next (s.groupWord g (.poll 1) false d.toNat a.toNat u.toNat)

/-- POLL_MASK (R254): ballot mask of true contributions. -/
def execPollMask (_c : BitVec 1) (g : BitVec 3) (d : BitVec 6) (a : BitVec 6) (u : BitVec 8) (s : State) : Out :=
  .next (s.groupWord g (.poll 2) false d.toNat a.toNat u.toNat)

/-- POLL_SAME (R254): mask of lanes holding the same value. -/
def execPollSame (_c : BitVec 1) (g : BitVec 3) (d : BitVec 6) (a : BitVec 6) (u : BitVec 8) (s : State) : Out :=
  .next (s.groupWord g (.poll 3) false d.toNat a.toNat u.toNat)

/-- GRED_ADD_I32 (R255): group integer sum. -/
def execGredAddI32 (_c : BitVec 1) (g : BitVec 3) (d : BitVec 6) (a : BitVec 6) (u : BitVec 8) (s : State) : Out :=
  .next (s.groupWord g (.gredI 0) false d.toNat a.toNat u.toNat)

/-- GRED_MIN_I32 (R255): group signed minimum. -/
def execGredMinI32 (_c : BitVec 1) (g : BitVec 3) (d : BitVec 6) (a : BitVec 6) (u : BitVec 8) (s : State) : Out :=
  .next (s.groupWord g (.gredI 1) false d.toNat a.toNat u.toNat)

/-- GRED_MAX_I32 (R255): group signed maximum. -/
def execGredMaxI32 (_c : BitVec 1) (g : BitVec 3) (d : BitVec 6) (a : BitVec 6) (u : BitVec 8) (s : State) : Out :=
  .next (s.groupWord g (.gredI 2) false d.toNat a.toNat u.toNat)

/-- GRED_MAXI_N32 (R255): group unsigned maximum with index. -/
def execGredMaxiN32 (_c : BitVec 1) (g : BitVec 3) (d : BitVec 6) (a : BitVec 6) (u : BitVec 8) (s : State) : Out :=
  .next (s.groupWord g (.gredI 3) false d.toNat a.toNat u.toNat)

/-- GRED_ADD_F32 (R255): group FP32 sum by a fixed tree. -/
def execGredAddF32 (_c : BitVec 1) (g : BitVec 3) (d : BitVec 6) (a : BitVec 6) (u : BitVec 8) (s : State) : Out :=
  .next (s.groupWord g (.gredF 0) false d.toNat a.toNat u.toNat)

/-- GRED_MIN_F32 (R255): group FP32 minimum. -/
def execGredMinF32 (_c : BitVec 1) (g : BitVec 3) (d : BitVec 6) (a : BitVec 6) (u : BitVec 8) (s : State) : Out :=
  .next (s.groupWord g (.gredF 1) false d.toNat a.toNat u.toNat)

/-- GRED_MAX_F32 (R255): group FP32 maximum. -/
def execGredMaxF32 (_c : BitVec 1) (g : BitVec 3) (d : BitVec 6) (a : BitVec 6) (u : BitVec 8) (s : State) : Out :=
  .next (s.groupWord g (.gredF 2) false d.toNat a.toNat u.toNat)

/-- GRED_MAXI_F32 (R255): group FP32 maximum with index. -/
def execGredMaxiF32 (_c : BitVec 1) (g : BitVec 3) (d : BitVec 6) (a : BitVec 6) (u : BitVec 8) (s : State) : Out :=
  .next (s.groupWord g (.gredF 3) false d.toNat a.toNat u.toNat)

/-- GSCAN_ADD_I32 (R256): inclusive group prefix sum. -/
def execGscanAddI32 (_c : BitVec 1) (g : BitVec 3) (d : BitVec 6) (a : BitVec 6) (u : BitVec 8) (s : State) : Out :=
  .next (s.groupWord g (.gscan 0) false d.toNat a.toNat u.toNat)

/-- GSCAN_ADD_X_I32 (R256): exclusive group prefix sum. -/
def execGscanAddXI32 (_c : BitVec 1) (g : BitVec 3) (d : BitVec 6) (a : BitVec 6) (u : BitVec 8) (s : State) : Out :=
  .next (s.groupWord g (.gscan 1) false d.toNat a.toNat u.toNat)

/-- GSCAN_MAX_I32 (R256): inclusive group prefix maximum. -/
def execGscanMaxI32 (_c : BitVec 1) (g : BitVec 3) (d : BitVec 6) (a : BitVec 6) (u : BitVec 8) (s : State) : Out :=
  .next (s.groupWord g (.gscan 2) false d.toNat a.toNat u.toNat)

/-- GCOMPACT (R256): compaction positions and total of true lanes. -/
def execGcompact (_c : BitVec 1) (g : BitVec 3) (d : BitVec 6) (a : BitVec 6) (u : BitVec 8) (s : State) : Out :=
  .next (s.groupWord g (.gscan 3) false d.toNat a.toNat u.toNat)

/-- TOPK (R257): sorts member key-index pairs and hands the top k out in lane order. -/
def execTopk (_c : BitVec 1) (g : BitVec 3) (d : BitVec 6) (a : BitVec 6) (u : BitVec 8) (s : State) : Out :=
  .next (s.groupWord g .topk true d.toNat a.toNat u.toNat)

/-- GSYNC (R258): group synchronisation point over member lanes. -/
def execGsync (_c : BitVec 1) (g : BitVec 3) (u : BitVec 8) (s : State) : Out :=
  .next (s.groupWord g .gsync false 0 0 u.toNat)

end Sys2Proof.Machine
end

