-- ==== Sys2Proof/Machine/EngineInstr.lean ====
section
/-!
DEFINITION. Machine/EngineInstr.lean: majors 0x32 to 0x36: PUSH, tile handles, accumulator moves, WAITC and the tag
waits (R265, R269 to R275).
-/

namespace Sys2Proof.Machine

open Sys2Proof

/-- PUSH in each executing thread: its command is read at issue, and with it, all together, the registers of its compatibility scales, whose
bytes R87 lets be read at any moment before it is latched (log entry 100); then its release part begins (R265). -/
def State.pushes (s : State) (g : BitVec 3) (pd cls sb : Nat) : State :=
  s.lanes g fun s t h w =>
    let cmd := bytesOf ((List.range 16).map fun i => w.u (sb + i))
    s.track t.id h.lrank s.chained (.push cls pd true cmd [] (scaleRegs t h cmd))

/-- The failures of an access to an accumulator entry or a handle (R383, sub-causes 4 and 5): no address is recorded (log entry 84). -/
def useFail (sub : Nat) : Fail := .mem (.bad sub 0)

/-- Whether what a thread issued before holds back an access that it issues now (R118, R119), accumulator moves and record writes that are held
back themselves among it: such an access is performed later (log entry 38). -/
def State.heldBack (s : State) (t : Team) (h : Thread) (write : Bool) : Bool :=
  s.ops.any fun o => o.team == t.id && o.lrank == h.lrank && (o.body.bars write || o.body.moves)

/-- A read of `n` entries; the 128-bit form asks for a multiple of 4 in its register and its entry (R274, R283). -/
def State.accReads (s : State) (g : BitVec 3) (d a n : Nat) : State :=
  s.faultLanes g fun s t h w =>
    let e := (w.rd a).toNat
    if e % n ≠ 0 ∨ d % n ≠ 0 then (s, some .illegal)
    else if s.accOf t < e + n then (s, some (useFail 4))
    else if s.accBad t.id e n then (s, some (.mem (.poison 0)))
    else (s.track t.id h.lrank false (if s.heldBack t h false then .accRead d e n
      else .result ((List.range n).map fun i => .reg (d + i) (cget t.acc (e + i))) false), none)

/-- A write of `n` entries, `how` saying what each becomes (`accNew`); an accumulating form reads its entries. Its t raises FH (R275). -/
def State.accWrites (s : State) (g : BitVec 3) (a b n how : Nat) : State :=
  s.faultLanes g fun s t h w =>
    let e := (w.rd a).toNat
    let xs := (List.range n).map fun i => w.rd (b + i)
    if e % n ≠ 0 ∨ b % n ≠ 0 then (s, some .illegal)
    else if s.accOf t < e + n then (s, some (useFail 4))
    else if how != 0 && s.accBad t.id e n then (s, some (.mem (.poison 0)))
    else if s.heldBack t h true then (s.addOp t.id h.lrank none .none (.accWrite how e xs), none)
    else
      let q := s.accPut t how e xs
      ((q.1.modThread t.id h.lrank fun h => { h with fh := max h.fh q.2 }).noteT t.id q.2, none)

/-- A handle's record replaced by its thread, now or, behind an acquire, later (R119, R272). -/
def State.setRecord (s : State) (t : Team) (h : Thread) (k : Nat) (bytes : List Byte) : State :=
  if s.heldBack t h true then s.addOp t.id h.lrank none .none (.handle k bytes) else s.putRecord t h.lrank k s.nextId bytes

/-- OBRES: a record that passes R271 replaces the handle's (R272). -/
def State.reserves (s : State) (g : BitVec 3) (k sb : Nat) : State :=
  s.faultLanes g fun s t h w =>
    let bytes := bytesOf ((List.range 8).map fun i => w.u (sb + i))
    if recordOk bytes (s.oaOf t) then (s.setRecord t h k bytes, none)
    else (s, some (useFail 5))

/-- OBREL: the handle's record becomes zeros (R272). -/
def State.releases (s : State) (g : BitVec 3) (k : Nat) : State :=
  s.lanes g fun s t h _ => s.setRecord t h k (zeroBytes 32)

/-- The mask of a tag instruction; none for a use that R283 forbids. Whether the team owns the tags is known once the thread's
earlier PUSHes are over. -/
def State.tagMask (s : State) (t : Team) (h : Thread) (w : View) (sb : Nat) (any : Bool) : Option (BitVec 64) :=
  let m := w.upair sb
  let late := s.ops.any fun o => o.team == t.id && o.lrank == h.lrank && match o.body with | .push _ _ _ _ _ _ => true | _ => false
  if sb % 2 = 1 ∨ (any ∧ m = 0) ∨ (!late ∧ m &&& ~~~t.tags ≠ 0) then none else some m

/-- WAITANY and WAITALL (R126, R270). -/
def State.tagWaits (s : State) (g : BitVec 3) (all : Bool) (sb : Nat) : State :=
  s.lanes g fun s t h w =>
    match s.tagMask t h w sb (!all) with
    | none => s.illegal t h 0x0102
    | some m => s.addOp t.id h.lrank none .packet (.waitTags all m)

/-- FFR: a tracked look for the lowest ready tag of the mask (R126, R270). -/
def State.findTag (s : State) (g : BitVec 3) (d sb : Nat) : State :=
  s.lanes g fun s t h w =>
    match s.tagMask t h w sb false with
    | some m => s.track t.id h.lrank false (.ffr d m h.pc)
    | none => s.illegal t h 0x0102

/-- PUSH (R265): sends a command from sixteen uniform registers if it can be accepted now, reporting success in a predicate. -/
def execPush (_c : BitVec 1) (g : BitVec 3) (p : BitVec 3) (l : BitVec 3) (u : BitVec 8) (s : State) : Out :=
  .next (s.pushes g p.toNat l.toNat u.toNat)

/-- OBRES (R272): checks and writes a tile-handle reservation record from uniform registers. -/
def execObres (_c : BitVec 1) (g : BitVec 3) (k : BitVec 4) (u : BitVec 8) (s : State) : Out :=
  .next (s.reserves g k.toNat u.toNat)

/-- OBREL (R272): clears a tile handle. -/
def execObrel (_c : BitVec 1) (g : BitVec 3) (k : BitVec 4) (s : State) : Out :=
  .next (s.releases g k.toNat)

/-- ACCRD (R274): reads an accumulator entry. -/
def execAccrd (_c : BitVec 1) (g : BitVec 3) (d : BitVec 6) (a : BitVec 6) (s : State) : Out :=
  .next (s.accReads g d.toNat a.toNat 1)

/-- ACCWR (R274): writes an accumulator entry. -/
def execAccwr (_c : BitVec 1) (g : BitVec 3) (a : BitVec 6) (b : BitVec 6) (s : State) : Out :=
  .next (s.accWrites g a.toNat b.toNat 1 0)

/-- ACCRD_128 (R274): reads four accumulator entries. -/
def execAccrd128 (_c : BitVec 1) (g : BitVec 3) (d : BitVec 6) (a : BitVec 6) (s : State) : Out :=
  .next (s.accReads g d.toNat a.toNat 4)

/-- ACCWR_128 (R274): writes four accumulator entries. -/
def execAccwr128 (_c : BitVec 1) (g : BitVec 3) (a : BitVec 6) (b : BitVec 6) (s : State) : Out :=
  .next (s.accWrites g a.toNat b.toNat 4 0)

/-- ACCADD_F32 (R274): adds FP32 into an accumulator entry indivisibly. -/
def execAccaddF32 (_c : BitVec 1) (g : BitVec 3) (a : BitVec 6) (b : BitVec 6) (s : State) : Out :=
  .next (s.accWrites g a.toNat b.toNat 1 1)

/-- ACCADD_I32 (R274): adds I32 into an accumulator entry indivisibly. -/
def execAccaddI32 (_c : BitVec 1) (g : BitVec 3) (a : BitVec 6) (b : BitVec 6) (s : State) : Out :=
  .next (s.accWrites g a.toNat b.toNat 1 2)

/-- WAITC (R125): waits until at most n commands of a class remain incomplete and acquires their writes. -/
def execWaitc (g : BitVec 3) (l : BitVec 3) (n : BitVec 8) (s : State) : Out :=
  .next (s.stall g (.waitc l.toNat false n.toNat))

/-- WAITC_CONS (R125): waits until at most n matrix commands remain short of operands consumed. -/
def execWaitcCons (g : BitVec 3) (n : BitVec 8) (s : State) : Out :=
  .next (s.stall g (.waitc 1 true n.toNat))

/-- WAITANY (R126): waits until one masked tag is ready and acquires its commands' writes. -/
def execWaitany (g : BitVec 3) (u : BitVec 8) (s : State) : Out :=
  .next (s.tagWaits g false u.toNat)

/-- WAITALL (R126): waits until every masked tag is ready. -/
def execWaitall (g : BitVec 3) (u : BitVec 8) (s : State) : Out :=
  .next (s.tagWaits g true u.toNat)

/-- FFR (R270): returns the lowest ready masked tag, or 64. -/
def execFfr (_c : BitVec 1) (g : BitVec 3) (d : BitVec 6) (u : BitVec 8) (s : State) : Out :=
  .next (s.findTag g d.toNat u.toNat)

end Sys2Proof.Machine
end

