-- ==== Sys2Proof/Machine/ControlInstr.lean ====
section
/-!
DEFINITION. Machine/ControlInstr.lean: majors 0x38 to 0x3E: branches, calls, team calls, barriers, ELECT, the bow, keys,
breaks, traps, yielding and the system register moves (R180 to R201).
-/

namespace Sys2Proof.Machine

open Sys2Proof

/-! ## Control transfer -/

/-- A thread has issued its packet and goes to an address, ready from now (R139); a trap that waits for its entry resumes there (R370). -/
def State.goTo (s : State) (t : Team) (h : Thread) (pc : BitVec 56) : State :=
  (s.leave t.id h.lrank).modThread t.id h.lrank fun h =>
    { h with pc := pc, cont := false, snap := none, trap := h.trap.map (fun i => { i with resume := pc }), readyAt := s.clock t.die t.core }

/-- Acts in every thread of the bundle in turn, then brings the team up to date. -/
def State.eachLane (s : State) (f : State → Team → Thread → View → State) : State :=
  match s.bundle with
  | some b => (s.lanes 7 f).settle b.team
  | none => s

/-- The same for a word that may fail in a thread. -/
def State.eachFault (s : State) (f : State → Team → Thread → View → State × Option Fail) : State :=
  match s.bundle with
  | some b => (s.faultLanes 7 f).settle b.team
  | none => s

/-- A packet count from the packet in progress (R181). -/
def State.target (s : State) (off : BitVec 21) : BitVec 56 := s.here + off.signExtend 56 * 16#56

/-- The packet after the one in progress. -/
def State.after (s : State) : BitVec 56 := s.here + 16#56

/-- The outcome of a push or a pop of a thread, or its failure. -/
def State.stacked (s : State) (r : StackRes) (f : State → State) : State × Option Fail :=
  match r with
  | .ok s => (f s, none)
  | .illegal => (s, some .illegal)
  | .mem s r => (s, some (.mem r))

/-- BRA: each thread by its own predicate; where the bundle splits, the threads on the named path are marked (R140,
R181). -/
def State.branch (s : State) (p : Nat) (hint : Bool) (off : BitVec 21) : State :=
  match s.current with
  | none => s
  | some (b, t) =>
    let taken := fun (h : Thread) => (t.view h).pred p
    let here := t.threads.filter fun h => b.ranks.contains h.lrank && !h.exited
    let split := here.any taken && here.any fun h => !taken h
    s.eachLane fun s t h w =>
      let go := w.pred p
      (s.goTo t h (if go then s.target off else s.after)).modThread t.id h.lrank fun h =>
        { h with hintMark := split && go == hint }

/-- CALL and CALLX: the return address is pushed (R185); an address out of line is an illegal use. -/
def State.calls (s : State) (dest : View → BitVec 56) : State :=
  s.eachFault fun s t h w =>
    if (dest w).toNat % 16 ≠ 0 then (s, some .illegal)
    else
      let back := s.after
      s.stacked (s.push t h back false) fun s => s.goTo t h (dest w)

/-- BRX (R182). -/
def State.jumps (s : State) (dest : View → BitVec 56) : State :=
  s.eachFault fun s t h w => if (dest w).toNat % 16 ≠ 0 then (s, some .illegal) else (s.goTo t h (dest w), none)

/-- RET (R185). -/
def State.rets (s : State) : State :=
  s.eachFault fun s t h _ =>
    match returnTarget h with
    | none => (s, some .illegal)
    | some a => s.stacked (s.pop t h) fun s => s.goTo t h a

/-- A 56-bit address pair (R91). -/
def View.dest (w : View) (a : Nat) : BitVec 56 := BitVec.ofNat 56 (w.addr a)

/-! ## Parking -/

/-- A thread parks, to go on at `pc` (R35); its watchdog runs from now, in core clocks or, at a cluster or grid barrier,
in ticks (R365). -/
def State.park (s : State) (t : Team) (h : Thread) (p : Park) (phase : Bool) (arg : Nat) (pc : BitVec 56) : State :=
  let clock := if p == .cbar || p == .gbar then s.gtime t.die else s.clock t.die t.core
  let here := s.here
  (s.goTo t h pc).modThread t.id h.lrank fun h =>
    { h with park := p, parkPhase := phase, parkArg := arg, parkAt := here, parkClock := clock, parkTold := false }

/-- TCALL: the thread parks at its packet; the first arrival fixes the operands, and an arrival at another packet is noted, to be found an
illegal use at the rendezvous (R186, R187, R363). -/
def State.teamCall (s : State) (sw se : Nat) (g32 : Bool) (mask : Word) : State :=
  s.eachLane fun s t h _ =>
    let first := !(t.living h.frame).any fun x => x.waitsAt == .tcall
    let here := s.here
    (s.park t h .tcall false 0 here).modFrame t.id h.frame fun f =>
      if first then { f with tcOps := (sw, se, g32, mask), tcAt := here, tcApart := false } else { f with tcApart := f.tcApart || f.tcAt != here }

/-- TRET (R188); in a launch frame an illegal use. -/
def State.teamReturn (s : State) : State :=
  s.eachLane fun s t h _ => if h.frame = 0 then s.illegal t h 0x0102 else s.park t h .tret false 0 s.here

/-- EXIT (R189). -/
def State.exits (s : State) : State := s.eachLane fun s t h _ => s.exitThread t.id h.lrank

/-- The accesses whose completion an arrival waits for (R120). -/
def State.outstanding (s : State) (team r : Nat) : List Nat :=
  (s.ops.filter fun o => o.team == team && o.lrank == r && o.body.unreturned).map (·.id)

/-- The arrival of a thread at a team barrier (R190). -/
def State.arrives (s : State) (t : Team) (h : Thread) (k : Nat) : State :=
  let ops := s.outstanding t.id h.lrank
  let here := s.here
  s.modThread t.id h.lrank fun h => { h with arrivals := h.arrivals ++ [{ bar := k, ops := ops, at_ := here }] }

/-- A barrier of a frame. -/
def Frame.bar (f : Frame) (k : Nat) : Barrier := f.bars.getD k Barrier.fresh

/-- TUTTI.ARV (R190). -/
def State.tuttiArv (s : State) (k pd : Nat) : State :=
  s.eachLane fun s t h _ =>
    let phase := ((t.frame h.frame).bar k).phase
    ((s.arrives t h k).goTo t h s.after).modThread t.id h.lrank fun h => h.write (.pred pd phase)

/-- TUTTI.WAIT (R190): a phase that has turned releases the thread at once. -/
def State.tuttiWait (s : State) (k p : Nat) : State :=
  s.eachLane fun s t h w =>
    let b := (t.frame h.frame).bar k
    if b.phase = w.pred p then s.park t h (.bar k) b.phase 0 s.after
    else (s.goTo t h s.after).modThread t.id h.lrank fun h => h.acquire b.relH

/-- TUTTI: the arrival and the wait of its own phase (R190). -/
def State.tutti (s : State) (k : Nat) : State :=
  s.eachLane fun s t h _ =>
    let phase := ((t.frame h.frame).bar k).phase
    (s.arrives t h k).park t h (.bar k) phase 0 s.after

/-- CBAR (R192) and GBAR (R193): legal in a launch frame, GBAR in an ENSEMBLE launch. -/
def State.wideBar (s : State) (grid : Bool) : State :=
  s.eachLane fun s t h _ =>
    if h.frame ≠ 0 then s.illegal t h 0x0103
    else if grid && !(match s.desc? t with | some d => d.ens | none => false) then s.illegal t h 0x0102
    else s.park t h (if grid then .gbar else .cbar) (if grid then t.phaseG else t.phaseC) 0 s.after

/-- ELECT (R194). -/
def State.elects (s : State) (pd : Nat) : State := s.eachLane fun s t h _ => s.park t h .elect false pd s.after

/-! ## The bow and the key -/

/-- The T that came with the bow of a team's launch. -/
def State.bowT (s : State) (t : Team) : Nat := match s.launch? t.launch with | some l => l.bow.t | none => 0

/-- BOWWAIT (R195). -/
def State.bowWait (s : State) : State :=
  s.eachLane fun s t h _ =>
    if !s.isDet t then s.goTo t h s.after
    else if s.hasBow t then
      let time := s.bowT t
      (s.goTo t h s.after).modThread t.id h.lrank fun h => h.acquire time
    else s.park t h .bowwait false 0 s.after

/-- BOWPASS (R195). -/
def State.bowPass (s : State) : State := s.eachLane fun s t h _ => (s.passBow t h.fh).goTo t h s.after

/-- SETKEY (R196). -/
def State.setKey (s : State) (f : View → Byte) : State :=
  s.eachLane fun s t h w => (s.goTo t h s.after).modThread t.id h.lrank fun h => { h with akey := f w }

/-! ## Breaks, traps and yielding (R197) -/

/-- A software trap of cause 4 or 5, entered at the next packet boundary (R369, R370). -/
def State.softTrap (s : State) (t : Team) (h : Thread) (cause : Nat) : State :=
  let i : TrapInfo := { s.trapAt cause s.slotNow with resume := s.after }
  s.trap t.id h.lrank i

/-- BRK (R375). -/
def State.breaks (s : State) : State :=
  s.eachLane fun s t h _ =>
    if s.debugMode t = 0 then s.softTrap t h 5
    else
      let here := s.here
      (s.goTo t h s.after).debugStop t h.lrank 5 here

/-- TRAP. -/
def State.traps (s : State) : State := s.eachLane fun s t h _ => s.softTrap t h 4

/-- YIELD: the thread waits for `n` core clocks; its next issue carries the mark (R161). -/
def State.yields (s : State) (n : Nat) : State :=
  s.eachLane fun s t h _ =>
    let clock := s.clock t.die t.core
    (s.goTo t h s.after).modThread t.id h.lrank fun h =>
      { h with yieldAt := if n = 0 then none else some (clock + n), yieldMark := decide (n = 0) }

/-! ## System registers (R63 to R66, R198 to R201) -/

/-- A 64-bit system register: FH, RH, GTIME or TAGRDY by the number of its low half. -/
def State.wideReg (s : State) (t : Team) (w : View) (n : Nat) : Dword :=
  match n with
  | 0x02 => BitVec.ofNat 64 w.fh
  | 0x04 => BitVec.ofNat 64 w.rh
  | 0x0C => BitVec.ofNat 64 (s.gtime t.die)
  | _ => match s.core? t.die t.core with | some c => c.tagrdy | none => 0

/-- The low half's number for either half of a 64-bit register. -/
def lowOf (n : Nat) : Option Nat :=
  match n with
  | 0x02 => some 0x02
  | 0x03 => some 0x02
  | 0x04 => some 0x04
  | 0x05 => some 0x04
  | 0x0C => some 0x0C
  | 0x0D => some 0x0C
  | 0x0F => some 0x0F
  | 0x10 => some 0x0F
  | _ => none

/-- The shadow of a register by the number of its low half, and its replacement. -/
def Thread.shadow (h : Thread) (low : Nat) : Option Word :=
  match low with | 0x02 => h.shFh | 0x04 => h.shRh | 0x0C => h.shGtime | _ => h.shTagrdy
def Thread.setShadow (h : Thread) (low : Nat) (x : Option Word) : Thread :=
  match low with
  | 0x02 => { h with shFh := x }
  | 0x04 => { h with shRh := x }
  | 0x0C => { h with shGtime := x }
  | _ => { h with shTagrdy := x }

/-- A 32-bit system register as a thread sees it. -/
def State.plainReg (s : State) (t : Team) (h : Thread) (w : View) (n : Nat) : Word :=
  let d := s.desc? t
  match n with
  | 0x00 => w.prec
  | 0x01 => tstatOf (match d with | some d => d.ens | none => false) (match d with | some d => d.det | none => false) t.mrgc (t.frame h.frame)
  | 0x06 => BitVec.ofNat 32 h.rank
  | 0x07 => BitVec.ofNat 32 (t.frame h.frame).nrank
  | 0x08 => BitVec.ofNat 32 t.teamId
  | 0x09 => BitVec.ofNat 32 (match d with | some d => d.nteams | none => 0)
  | 0x0A => BitVec.ofNat 32 (16 * t.cluster + t.pos)
  | 0x0B => BitVec.ofNat 32 t.core
  | 0x0E => w.akey.zeroExtend 32
  | _ => BitVec.ofNat 32 h.nreg

/-- A read of a system register: its value, and the thread with its shadow latched or used (R66, R200). -/
def State.readReg (s : State) (t : Team) (h : Thread) (w : View) (n : Nat) : Word × Thread :=
  match lowOf n with
  | none => (s.plainReg t h w n, h)
  | some low =>
    let x := s.wideReg t w low
    let hi := x.extractLsb' 32 32
    if n = low then (x.extractLsb' 0 32, h.setShadow low (some hi))
    else (match h.shadow low with | some y => y | none => hi, h.setShadow low none)

/-- MFSR to a vector register (R198). -/
def State.mfsrV (s : State) (g : BitVec 3) (d n : Nat) : State :=
  s.lanes g fun s t h w =>
    let r := s.readReg t h w n
    s.modThread t.id h.lrank fun _ => r.2.write (.reg d r.1)

/-- MFSR to a uniform register: the value of the lowest-ranked thread; every shadow of the bundle latches or is used (R198, R200), each
thread's its own (log entry 72). -/
def State.mfsrU (s : State) (d n : Nat) : State :=
  match s.current with
  | none => s
  | some (b, t) =>
    match lowest b t with
    | none => s
    | some low =>
      let x := (s.readReg t low (t.view low) n).1
      (s.lanes 7 fun s t h w => let r := s.readReg t h w n; s.modThread t.id h.lrank fun _ => r.2).sendUniform b low [(d, x)]

/-- A write of a system register in each thread (R199): PREC by R64, MRGC by W1C, and no other. -/
def State.mtsr (s : State) (n : Nat) (f : View → Word) : State :=
  match n with
  | 0x00 => s.precTo 7 fun w => precWrite w.mode (f w)
  | 0x01 => s.lanes 7 fun s t _ w => if (f w).getLsbD 8 then s.modTeam t.id fun t => { t with mrgc := false } else s
  | _ => s

/-- BRA (R181): branches per thread when a predicate is 1. -/
def execBra (p : BitVec 3) (h : BitVec 1) (t : BitVec 21) (s : State) : Out :=
  .next (s.branch p.toNat (h == 1) t)

/-- CALL (R185): pushes the return address and branches. -/
def execCall (t : BitVec 21) (s : State) : Out :=
  .next (s.calls fun _ => s.target t)

/-- RET (R185): pops a return-stack entry and jumps to it. -/
def execRet  (s : State) : Out :=
  .next s.rets

/-- TCALL (R186): team-collective call dividing the frame's threads among up to four sub-teams. -/
def execTcall (w : BitVec 8) (e : BitVec 8) (g : BitVec 1) (lit : BitVec 32) (s : State) : Out :=
  .next (s.teamCall w.toNat e.toNat (g == 1) lit)

/-- TRET (R188): parks the thread until its frame's join. -/
def execTret  (s : State) : Out :=
  .next s.teamReturn

/-- EXIT (R189): ends the thread, possibly releasing barriers and ending the team. -/
def execExit  (s : State) : Out :=
  .next s.exits

/-- BRX (R182): branches each thread to the address in its register pair. -/
def execBrx (a : BitVec 6) (s : State) : Out :=
  .next (s.jumps fun w => w.dest a.toNat)

/-- CALLX (R185): pushes the return address and jumps to a register address. -/
def execCallx (a : BitVec 6) (s : State) : Out :=
  .next (s.calls fun w => w.dest a.toNat)

/-- TUTTI (R190): arrives at a team barrier and waits for its release. -/
def execTutti (b : BitVec 2) (s : State) : Out :=
  .next (s.tutti b.toNat)

/-- TUTTI_ARV (R190): arrives at a team barrier, recording its phase. -/
def execTuttiArv (b : BitVec 2) (p : BitVec 3) (s : State) : Out :=
  .next (s.tuttiArv b.toNat p.toNat)

/-- TUTTI_WAIT (R190): waits for a team barrier's phase to change. -/
def execTuttiWait (b : BitVec 2) (p : BitVec 3) (s : State) : Out :=
  .next (s.tuttiWait b.toNat p.toNat)

/-- CBAR (R192): cluster barrier over every team of the cluster. -/
def execCbar  (s : State) : Out :=
  .next (s.wideBar false)

/-- GBAR (R193): grid barrier over every team of an ENSEMBLE launch. -/
def execGbar  (s : State) : Out :=
  .next (s.wideBar true)

/-- ELECT (R30): team-collective election of the lowest-ranked arriving thread. -/
def execElect (p : BitVec 3) (s : State) : Out :=
  .next (s.elects p.toNat)

/-- BOWWAIT (R195): parks until the team holds the bow, then acquires. -/
def execBowwait  (s : State) : Out :=
  .next s.bowWait

/-- BOWPASS (R195): passes the bow to the next team. -/
def execBowpass  (s : State) : Out :=
  .next s.bowPass

/-- SETKEY_IMM (R196): sets the affinity key from an immediate. -/
def execSetkeyImm (k : BitVec 8) (s : State) : Out :=
  .next (s.setKey fun _ => k)

/-- SETKEY_REG (R196): sets the affinity key from a register. -/
def execSetkeyReg (a : BitVec 6) (s : State) : Out :=
  .next (s.setKey fun w => (w.rd a.toNat).extractLsb' 0 8)

/-- BRK (R197): raises a breakpoint event. -/
def execBrk (_k : BitVec 16) (s : State) : Out :=
  .next s.breaks

/-- TRAP (R197): raises a software trap. -/
def execTrap (_k : BitVec 16) (s : State) : Out :=
  .next s.traps

/-- YIELD (R197): waits n core clocks and marks the thread to yield at its next issue. -/
def execYield (n : BitVec 10) (s : State) : Out :=
  .next (s.yields n.toNat)

/-- MFSR_V (R198): reads a system register into a vector register, latching high-half shadows. -/
def execMfsrV (_c : BitVec 1) (d : BitVec 6) (n : BitVec 8) (s : State) : Out :=
  .next (s.mfsrV 7 d.toNat n.toNat)

/-- MFSR_U (R198): reads a system register into a uniform register. -/
def execMfsrU (_c : BitVec 1) (d : BitVec 8) (n : BitVec 8) (s : State) : Out :=
  .next (s.mfsrU d.toNat n.toNat)

/-- MTSR_V (R199): writes a system register from a vector register. -/
def execMtsrV (_c : BitVec 1) (a : BitVec 6) (n : BitVec 8) (s : State) : Out :=
  .next (s.mtsr n.toNat fun w => w.rd a.toNat)

/-- MTSR_U (R199): writes a system register from a uniform register in every thread of the bundle. -/
def execMtsrU (_c : BitVec 1) (n : BitVec 8) (u : BitVec 8) (s : State) : Out :=
  .next (s.mtsr n.toNat fun w => w.u u.toNat)

end Sys2Proof.Machine
end

