-- ==== Sys2Proof/Machine/Sched.lean ====
section
/-!
DEFINITION. Machine/Sched.lean: choosing and issuing a bundle (R26, R139, R140, R142, R154 to R161, R170, R374), what
follows each of its words (R160, R370, R377, R409), and the steps that release parked threads: trap entry, forks,
joins, barriers, the bow, and the watchdogs (R46, R49 to R54, R120, R152, R184 to R193, R264, R365, R369).
-/

namespace Sys2Proof.Machine

open Sys2Proof

/-! ## Candidates (R26, R139) -/

/-- A pair of frame and PC with its ready threads and its packet. -/
structure Cand where
  team    : Team
  frame   : Nat
  pc      : BitVec 56
  threads : List Thread
  packet  : State × Fetch

/-- The pairs that threads stand at; a thread that a debugger steps is a pair of its own (R377). -/
def pairsOf (hs : List Thread) : List (Nat × BitVec 56 × Option Nat) :=
  (hs.map fun h => (h.frame, h.pc, if h.stepOne then some h.lrank else none)).dedup

def State.candidates (s : State) (die core course : Nat) : List Cand :=
  (s.teams.filter fun t => t.die == die && t.core == core).flatMap fun t =>
    let able := t.threads.filter fun h => h.course == course && s.couldIssue t h
    (pairsOf able).filterMap fun p =>
      let packet := s.fetch t (packetOf p.2.1).toNat
      let own := able.filter fun h => h.frame == p.1 && h.pc == p.2.1 && (if h.stepOne then some h.lrank else none) == p.2.2
      let ready := match packet.2 with
        | .ok ws => own.filter fun h => flagsClear h ws && (match nextSlot ws (pcSlot h.pc) with | some k => !s.lacks t h ws k | none => true)
        | _ => own
      if ready.isEmpty then none else some { team := t, frame := p.1, pc := p.2.1, threads := ready, packet := packet }

/-- The order of R139 as numbers compared in turn; a yield mark puts a candidate after those not aged (R161). -/
def State.rankOf (s : State) (c : Cand) : List Nat :=
  let clock := s.clock c.team.die c.team.core
  let since := (c.threads.map (·.readyAt)).min?.getD 0
  let aged := c.threads.any fun h => h.aged || decide (h.readyAt + 1024 ≤ clock)
  let prio := match s.launch? c.team.launch with | some l => l.prio | none => 0
  [if aged then 0 else 1, if aged then since else 0, if !aged && c.threads.all (·.yieldMark) then 1 else 0, 3 - prio,
   if c.threads.any (·.hintMark) then 0 else 1, since, (c.threads.map (·.lrank)).min?.getD 0, c.team.slot]

def lexLt : List Nat → List Nat → Bool
  | x :: xs, y :: ys => decide (x < y) || (x == y && lexLt xs ys)
  | _, _ => false

/-- The first candidate of the picker. -/
def State.best (s : State) (die core course : Nat) : Option Cand :=
  (s.candidates die core course).foldl (fun best c => match best with
    | none => some c
    | some b => if lexLt (s.rankOf c) (s.rankOf b) then some c else some b) none

/-- At most 32 of the threads: first those of the key of the oldest, then the others, lowest ranks first (R26). Of several that became ready
in one core clock, the lowest rank counts as the oldest (log entry 73). -/
def formBundle (hs : List Thread) : List Thread :=
  let byRank := sortBy (fun (x y : Thread) => decide (x.rank ≤ y.rank)) hs
  let oldest := byRank.foldl (fun (m : Option Thread) h => match m with
    | none => some h
    | some x => if h.readyAt < x.readyAt then some h else some x) none
  let key := match oldest with | some h => h.akey | none => 0
  let order := (byRank.filter fun h => h.akey == key) ++ byRank.filter fun h => h.akey != key
  sortBy (fun (x y : Thread) => decide (x.rank ≤ y.rank)) (order.take 32)

/-! ## Issue and what follows each word -/

/-- A debugged step has reached its boundary, past the trap entry that it brought about: the thread stops again with event 7, or, where its
packet parked it, with event 8 once it is released (R377). -/
def State.stepEnds (s : State) (team r : Nat) : State :=
  match s.team? team, s.thread? team r with
  | some t, some h =>
    if h.exited || !(h.stepOne && h.stepRun) || h.trap.isSome then s
    else if h.park != .none then
      ((s.debugEvent t r 8 h.pc).modThread team r fun h => { h with stopNext := true, stepOne := false, stepRun := false }).stepOver team r 2
    else if h.cont then s
    else
      ((s.debugEvent t r 7 h.pc).modThread team r fun h =>
        { h.halt (s.clock t.die t.core) (s.gtime t.die) with stepRun := false }).stepOver team r 0
  | _, _ => s

/-- The bundle in progress comes to a slot. -/
def State.enterSlot (s : State) (b : Bundle) (k : Nat) : State := { s with bundle := some { b with slot := k } }

/-- Whether the bundle in progress is at the second word of a chained pair, which issues in the clock of the first (R160). -/
def State.atPartner (s : State) : Bool :=
  match s.bundle with
  | some b => decide (1 < b.slot) && isInstr b.words (b.slot - 1) && chainBit (slotWord b.words (b.slot - 1))
  | none => false

/-- The threads of a bundle that cannot issue the words of its slot: their team lacks a load permit, or no entry of the request table is left for
their sectors, which those of lower rank take first (R35, R106, R142). -/
def State.mustWait (s : State) (t : Team) (b : Bundle) : List Nat :=
  let step := fun (acc : List Nat × List Nat) (r : Nat) => match t.thread? r with
    | none => acc
    | some h =>
      let need := (acc.1 ++ s.sectorsAt t h b.words b.slot).dedup
      if s.wantsPermit t h b.words b.slot || s.tableFull t.die t.core need then (acc.1, acc.2 ++ [r])
      else (need, acc.2)
  (b.ranks.foldl step ([], [])).2

/-- The vector and uniform registers that a word reads as it issues, in a thread that executes it. -/
def readsOf (v : View) (w lit : Word) : List Dest :=
  let f := fnOf w
  let r := fun (n lo : Nat) => vDest (fld w lo 6).toNat n
  let u := fun (n lo : Nat) => (List.range n).map fun i => Dest.s ((fld w lo 8).toNat + i)
  let win := fun (lo : Nat) => vDest (fld w lo 6).toNat (v.win (fld w lo 6).toNat).length
  let ab := r 1 10 ++ r 1 4
  match majorOf w with
  | 0x00 => if f = 13 ∨ f = 14 then r 2 10 ++ r 2 4 else if f = 15 then ab ++ r 1 16 else ab
  | 0x01 => if f = 4 then r 1 10 else ab
  | 0x02 => if 3 ≤ f ∧ f ≤ 6 then r 1 10 else if f = 2 then ab ++ r 1 16 else ab
  | 0x03 => r 1 10 ++ u 1 2
  | 0x09 => if f % 8 = 2 ∨ f % 8 = 3 then r 2 13 ++ r 2 7 else r 1 13 ++ r 1 7
  | 0x0A => if f = 1 then r 2 10 else if 2 ≤ f ∧ f ≤ 6 then [] else if f = 8 then ab else r 1 10
  | 0x0B => []
  | 0x0C => u 1 6 ++ [.s (fld w 0 6).toNat]
  | 0x0D => u 1 6
  | 0x0E => match gOf w with | 0 => u 1 8 | 1 => r 1 8 | 2 => u 2 8 | _ => r 2 8
  | 0x0F => if gOf w = 0 then [] else u 1 6
  | 0x10 => if 3 ≤ f then ab ++ r 1 16 else ab
  | 0x11 => if f = 2 ∨ f = 3 then r 1 10 else ab
  | 0x12 => if f = 3 ∨ f = 4 then r 1 10 else if f = 5 then ab ++ r 1 16 else ab
  | 0x13 => if f = 3 ∨ f = 4 then r 1 10 else if f = 5 then ab ++ r 1 16 else ab
  | 0x14 => r 1 10 ++ u 1 2 ++ if f % 4 = 2 then r 1 16 else []
  | 0x16 => r 1 13 ++ r 1 7
  | 0x17 => r (if 14 ≤ f then 2 else 1) 10
  | 0x19 => ab
  | 0x1B => if f % 8 = 2 then ab ++ r 1 16 else ab
  | 0x1C => win 10 ++ (if f = 5 ∨ f = 6 ∨ f = 7 then [] else win 4) ++ if f = 4 then win 16 else []
  | 0x1D => if f ≤ 2 then r 1 10 else if f ≤ 4 then r 2 10 else win 10
  | 0x1E => win 13 ++ win 7
  | 0x1F => if xopOf w = 4 then r 1 10 else []
  | 0x20 => r 2 10
  | 0x21 => r 2 10 ++ if f = 1 ∨ f = 2 ∨ f = 5 ∨ f = 6 then win 16 else []
  | 0x22 => r 2 10
  | 0x23 => r 2 10 ++ r 1 16
  | 0x24 => r 2 10
  | 0x25 => r 2 10 ++ r 2 16
  | 0x26 => r 2 10
  | 0x27 => r 2 10 ++ r 4 16
  | 0x28 => r 2 10 ++ if f = 4 ∨ f = 5 ∨ f = 6 ∨ f = 9 then r 1 16 else if f = 10 then r 2 16 else if f = 12 then r 4 16 else []
  | 0x29 => u 2 2 ++ r 1 10 ++ if f % 4 = 1 then r 1 16 else if f % 4 = 3 then r 2 16 else []
  | 0x2A =>
    let g := if f = 14 then lit.toNat % 16 else f
    r 2 10 ++ if f = 15 then r (redWidth (fld w 16 6).toNat / 4) 4 else if g ≤ 8 then r 1 4 else if g ≤ 12 then r 2 4 else r 4 4
  | 0x2B => if 3 ≤ xopOf w then r 2 10 else []
  | 0x2C => u 2 2 ++ r 1 10 ++ if f % 4 = 0 then r 1 16 else []
  | 0x2E => u 1 2 ++ r (if f % 4 = 3 then 2 else 1) 10
  | 0x2F => u 1 2 ++ r (if f % 4 = 3 then 2 else 1) 10
  | 0x31 => if f % 4 = 0 then u 2 2 ++ r 2 10 else u 1 2
  | 0x32 => u 16 8
  | 0x33 => if (fld w 20 2).toNat = 0 then u 8 8 else []
  | 0x34 => r 1 10 ++ if f = 0 ∨ f = 2 then [] else r (if f = 3 then 4 else 1) 4
  | 0x35 => []
  | 0x36 => u 2 6
  | 0x3A => if 4 ≤ gOf w then r 2 16 else []
  | 0x3C => if gOf w = 4 then r 1 10 else []
  | 0x3E => match gOf w with | 2 => r 1 10 | 3 => u 1 6 | _ => []
  | m => if 0x2D ≤ m ∧ m ≤ 0x30 then u 1 2 ++ r 1 10 else if 0x38 ≤ m then [] else r 1 10

/-- Whether a thread of a bundle executes its word. -/
def executes (v : View) (w : Word) : Bool :=
  (0x0C ≤ majorOf w && majorOf w ≤ 0x0F) || 0x38 ≤ majorOf w || v.pred (gOf w)

/-- The registers that a word writes whole: the forms that write one half of a register leave a granule as it was (R385, R386). -/
def wholeDests (w lit : Word) : List Dest :=
  let half : Bool := match majorOf w with
    | 0x0A => decide (9 ≤ fnOf w)
    | 0x18 => true
    | 0x19 => true
    | 0x28 => fnOf w == 2 || fnOf w == 3
    | _ => false
  if half then [] else destsOf w lit

/-- The granule of the register files that a register of a thread is in: a uniform register's is in the frame that holds it (R45, R385). -/
def granuleOf (t : Team) (h : Thread) (holds : Bool) (d : Dest) : Option Sram :=
  match d with
  | .v i => some (.reg t.id h.lrank i)
  | .s j => some (.uni t.id (if holds then t.holder 8 h.frame (j / 16) else h.frame) j)
  | _ => none

/-- The registers of the threads that a word is about to act on: an uncorrectable one that it reads ends the team; those that it writes whole
are good again, from its issue on (R386; log entry 89). -/
def State.sramReads (s : State) (b : Bundle) : State :=
  match s.team? b.team with
  | none => s
  | some t =>
    let w := slotWord b.words b.slot
    let lit := (slotLit b.words b.slot).getD 0
    let acting := (b.ranks.filterMap t.thread?).filter fun h => executes (t.view h) w
    let granules := fun (h : Thread) (holds : Bool) (ds : List Dest) => ds.filterMap (granuleOf t h holds)
    match acting.find? fun h => (granules h true (readsOf (t.view h) w lit)).any s.dev.badSram.contains with
    | some h => s.teamAction t (some h) 0x0203 0 0
    | none =>
      let good := acting.flatMap fun h => granules h false (wholeDests w lit)
      { s with dev := { s.dev with badSram := s.dev.badSram.filter fun g => !good.contains g } }

/-- The word of a slot begins to issue: threads of a group that failed have come to their end (R361), the uniform writes that its threads issued before are complete (R160), threads that must wait leave,
and before the first word of a chained pair the others keep what both words read. -/
def State.slotBegins (s : State) (b : Bundle) : State :=
  let s := (({ s with issues := s.issues + 1 }).reap b.team).publish b.team (byRanks b.ranks)
  let b := { s.bundle.getD b with acting := true }
  let s := { s with bundle := some b }
  let s := if s.dev.badSram.isEmpty then s else s.sramReads b
  if s.atPartner then s else
  match s.team? b.team with
  | none => s
  | some t =>
    let s := (s.mustWait t b).foldl (fun s r => (s.leave b.team r).modThread b.team r fun h =>
      { h with pc := resumeAt (packetOf b.pc) b.slot, cont := true, snap := none }) s
    if chainBit (slotWord b.words b.slot) then
      let ranks := match s.bundle with | some b => b.ranks | none => []
      s.modTeam b.team fun t =>
        { t with threads := mapIf (fun h => ranks.contains h.lrank && h.snap.isNone) (fun h => { h with snap := some (t.viewOf h) }) t.threads }
    else s

/-- Whether a word of a bundle's packet has trapped a thread of its course (R362). -/
def State.trapped (s : State) (b : Bundle) : Bool :=
  match s.team? b.team with
  | some t => t.threads.any fun h => h.course == b.course && match h.trap with | some i => i.packet == packetOf b.pc | none => false
  | none => false

/-- The failures of a bundle's packet, at its end: the records of the strongest are written, and a translation fault beside a stronger one has
not begun a save (R362; log entry 99). -/
def State.endFailures (s : State) (b : Bundle) : State :=
  let top := max b.top (if s.trapped b then 1 else 0)
  let s := match b.kept with
    | some (standing, faults, may) => if top = 0 then s else s.modTeam b.team fun t =>
        { t with standing := if t.standing = .saving then standing else t.standing, faults := faults, mayResume := may }
    | none => s
  (b.recs.filter fun r => r.strength == top).foldl (fun s r => s.recordBytes r.ctx r.bytes r.bits) s

/-- The bundle has issued its packet: its threads stand at the next one. -/
def State.endBundle (s : State) (b : Bundle) : State :=
  let clock := s.clock b.die b.core
  let next := packetOf b.pc + 16#56
  let s := ({ s with bundle := none }).endFailures b
  let s := s.modTeam b.team fun t =>
    { t with threads := mapIf (fun h => b.ranks.contains h.lrank) (fun h => { h with pc := next, cont := false, snap := none, readyAt := clock }) t.threads }
  match s.team? b.team with
  | none => s
  | some t => (t.threads.filter fun h => h.stepOne).foldl (fun s h => s.stepEnds b.team h.lrank) s

/-- After the word of the current slot: a chained word goes on to its partner; otherwise the threads that trapped, or
that a chained word holds, leave, and the others go on to the next slot or end the packet (R160, R370, R409). -/
def State.advanced (s : State) : State :=
  match s.bundle.map fun b => { b with acting := false } with
  | none => s
  | some b =>
    let s := { s with bundle := some b }
    if chainBit (slotWord b.words b.slot) then
      if b.ranks.isEmpty then s.endBundle b else { s with bundle := some { b with slot := b.slot + 1 } }
    else
      let paired := decide (1 < b.slot) && isInstr b.words (b.slot - 1) && chainBit (slotWord b.words (b.slot - 1))
      let next := nextSlot b.words (b.slot + 1)
      let on := match next with | some k => resumeAt (packetOf b.pc) k | none => packetOf b.pc + 16#56
      let s := s.modTeam b.team fun t =>
        { t with threads := mapIf (fun h => b.ranks.contains h.lrank) (fun h => { h with snap := none }) t.threads }
      let s := b.ranks.foldl (fun s r =>
        match s.thread? b.team r with
        | none => s
        | some h =>
          match h.trap with
          | some i => (s.leave b.team r).modThread b.team r fun h => { h with pc := i.resume, cont := false }
          | none =>
            if paired && s.slotHeld b.team r then
              (s.leave b.team r).modThread b.team r fun h => { h with pc := on, cont := next.isSome }
            else s) s
      match s.bundle, next with
      | some b, some k => if b.ranks.isEmpty then s.endBundle b else s.enterSlot b k
      | some b, none => s.endBundle b
      | none, _ => s

/-- A word's aftermath, and what it brings about in its team: rendezvous that its threads' ends complete, the end of the team (R189). -/
def State.advance (s : State) : State :=
  match s.bundle with
  | none => s
  | some b => (s.advanced.reap b.team).settle b.team

/-- The breakpoint that a thread meets at a packet (R374). -/
def State.breaksAt (s : State) (t : Team) (h : Thread) (pc : BitVec 56) : Bool :=
  s.debugMode t != 0 && h.skipBp != some pc && !h.cont &&
    match s.core? t.die t.core with | some c => c.bps.any fun b => b.2.1 == t.ctx && b.2.2 == pc.toNat | none => false

/-- A bundle that may issue its packet begins. -/
def State.beginBundle (s : State) (t : Team) (c : Cand) (hs : List Thread) (ws : List Word) (course : Nat) : State :=
  let ranks := hs.map (·.lrank)
  let issued := fun (h : Thread) =>
    { h with hintMark := false, yieldMark := yieldBit ws, aged := false, skipBp := if h.skipBp == some (packetOf c.pc) then none else h.skipBp,
             stepRun := h.stepOne,
             sinceOpen := if h.openWin.isEmpty then h.sinceOpen else h.sinceOpen + 1 }
  let s := s.modTeam t.id fun t => { t with threads := mapIf (fun h => ranks.contains h.lrank) issued t.threads }
  let b : Bundle := { team := t.id, frame := c.frame, die := t.die, core := t.core, course := course, ranks := ranks, pc := c.pc, words := ws,
                      slot := 0 }
  let s := { s with others := s.others ++ s.bundle.toList, bundle := none }
  match nextSlot ws (pcSlot c.pc) with
  | some k => s.enterSlot b k
  | none => s.endBundle b

/-- PACKET_ISSUE: the picker of a course chooses a pair, and its packet issues or takes its fault (R160, R170, R374,
R380, R383). -/
def State.packetIssue (s : State) (die core course : Nat) : State :=
  if (s.bundle.toList ++ s.others).any fun b => b.die == die && b.core == core && b.course == course then s else
  match s.best die core course with
  | none => s
  | some c =>
    let t := c.team
    let hs := formBundle c.threads
    let low := (sortBy (fun (x y : Thread) => decide (x.lrank ≤ y.lrank)) hs).head?
    match c.packet with
    | (s, .fail (.xlate va d)) =>
      -- the PC stays at the packet, with slot 0, but for a thread inside the packet
      let s := hs.foldl (fun s h => s.modThread t.id h.lrank fun h => { h with pc := if h.cont then h.pc else packetOf h.pc }) s
      let s := match low with | some h => s.retry t h [(va, d)] va d | none => s
      -- a packet that cannot be fetched is none that a STEP issues
      hs.foldl (fun s h => s.stepFails t.id h.lrank 1) s
    | (s, .fail (.data va)) =>
      (match low with | some h => s.stopAction (recOf t h 0x0203 7 va 0) | none => s)
    | (s, .fail r) => (hs.foldl (fun s h => s.failAccess t h r) s).settle t.id
    | (s, .poison va) => (s.teamAction t low 0x0203 va 0).settle t.id
    | (s, .ok ws) =>
      let hit := hs.filter fun h => s.breaksAt t h (packetOf c.pc)
      let go := hs.filter fun h => !s.breaksAt t h (packetOf c.pc)
      let met := fun (h : Thread) => { h with skipBp := some (packetOf c.pc) }
      let s := hit.foldl (fun s h => (s.debugStop t h.lrank 6 (packetOf c.pc)).modThread t.id h.lrank met) s
      if go.isEmpty then s
      else match packetClass ws ((hs.map (·.nreg)).headD 0) (s.isDet t) with
        | some cls => (go.foldl (fun s h => s.illegal t h cls) s).settle t.id
        | none => s.beginBundle t c go ws course

/-- The courses of the device, in the order of cores and courses. -/
def State.courses (s : State) : List (Nat × Nat × Nat) := s.cores.flatMap fun c => (List.range 4).map fun k => (c.die, c.num, k)

/-- Whether a bundle is a course's. -/
def Bundle.on (b : Bundle) (p : Nat × Nat × Nat) : Bool := b.die == p.1 && b.core == p.2.1 && b.course == p.2.2

/-- The next course, from `place` on, that has a bundle in progress or a candidate, with its number: each course comes to its issue once in
every core clock (R26, R36). -/
def State.nextCourse (s : State) : Option ((Nat × Nat × Nat) × Nat) :=
  (s.courses.zipIdx.drop s.place).find? fun p => (s.bundle.toList ++ s.others).any (·.on p.1) || (s.best p.1.1 p.1.2.1 p.1.2.2).isSome

/-- The bundle in progress of a course becomes the current one. -/
def State.turnTo (s : State) (p : Nat × Nat × Nat) : State :=
  let all := s.bundle.toList ++ s.others
  match all.find? (·.on p) with
  | some b => { s with bundle := some b, others := all.eraseP (·.on p) }
  | none => { s with bundle := none, others := all }

/-! ## Aging, yielding, traps -/

/-- A thread ready for 1,024 core clocks becomes aged (R139). -/
def State.threadAging (s : State) (team r : Nat) : State :=
  match s.team? team, s.thread? team r with
  | some t, some h =>
    if s.ready t h && decide (h.readyAt + 1024 ≤ s.clock t.die t.core) then s.modThread team r fun h => { h with aged := true } else s
  | _, _ => s

/-- A yield's clocks run out (R197). -/
def State.yieldExpiry (s : State) (team r : Nat) : State :=
  match s.team? team, s.thread? team r with
  | some t, some h =>
    match h.yieldAt with
    | some e =>
      let clock := s.clock t.die t.core
      if e ≤ clock then s.modThread team r fun h => { h with yieldAt := none, yieldMark := true, readyAt := clock } else s
    | none => s
  | _, _ => s

/-- Whether an operation must complete before a trap entry (R369). -/
def OpBody.completes (b : OpBody) : Bool :=
  match b with
  | .result _ _ => true
  | .trapping _ => true
  | .accRead _ _ _ => true
  | .ffr _ _ _ => true
  | .push _ _ _ _ _ _ => true
  | b => b.isLoad

/-- What a trap entry is to a STEP: its boundary, also where a store of it did not translate and the entry stays pending (R377). -/
def State.trapStepEnds (s : State) (team r : Nat) : State :=
  match s.team? team, s.thread? team r with
  | some t, some h =>
    if h.trap.isSome && h.stepOne && h.stepRun && t.standing != .resident then (s.debugEvent t r 7 h.pc).stepFails team r 0 else s.stepEnds team r
  | _, _ => s

/-- TRAP_ENTRY (R369). A thread with an open window enters its trap while its team's save waits for it (R264). -/
def State.trapEntry (s : State) (team r : Nat) : State :=
  match s.team? team, s.thread? team r with
  | some t, some h =>
    match h.trap with
    | some i =>
      let inBundle := (s.bundle.toList ++ s.others).any fun b => b.team == team && b.ranks.contains r
      let pending := s.ops.any fun o => o.team == team && o.lrank == r && (o.hold != .none || o.body.completes)
      let away := t.standing != .resident && !(t.standing == .saving && !h.openWin.isEmpty)
      if h.exited || h.stopped || inBundle || h.flags != 0 || pending || h.garr.isSome || h.park != .none || away
          || s.tableFull t.die t.core (s.trapSectors t h) then s
      else
        let s := s.publish team (byRanks [r])
        match s.team? team with
        | some t => ((s.takeTrap t h i).trapStepEnds team r).settle team
        | none => s
    | none => s
  | _, _ => s

/-! ## Team calls (R42 to R54, R184, R186, R188) -/

/-- Four barriers that nobody has arrived at. -/
def freshBars : List Barrier := [Barrier.fresh, Barrier.fresh, Barrier.fresh, Barrier.fresh]

/-- A sub-team frame of a call (R43, R44). -/
def subFrame (parent depth : Nat) (c : Callee) : Frame :=
  { Frame.empty with parent := some parent, depth := depth + 1, callee := c.idx, nrank := c.size, status := .running, bars := freshBars }

/-- The first free entry of the frame table above the launch frame. -/
def Team.freeFrame (t : Team) : Nat :=
  ((List.range t.frames.length).find? fun i => 0 < i && (t.frame i).status == .gone && !t.threads.any (·.frame == i)).getD t.frames.length

def Team.putFrame (t : Team) (i : Nat) (f : Frame) : Team :=
  if i < t.frames.length then { t with frames := setAt t.frames i fun _ => f } else { t with frames := t.frames ++ [f] }

/-- The join-marker push of a thread in its sub-team frame (R186), with its failure; one that does not translate, or that finds no entry of the
request table for its spill, stays pending. -/
def State.pushMarker (s : State) (team r : Nat) (marker : BitVec 56) : State × List (Nat × Fail) :=
  match s.team? team, s.thread? team r with
  | some t, some h =>
    let pend := fun (s : State) (b : Bool) => s.modThread team r fun h => { h with pmk := b }
    if h.exited then (s, [])
    else if s.tableFull t.die t.core (sectorsOf (s.spillOf t h).toList) then (pend s true, [])
    else match s.push t h marker true with
      | .ok s => (pend s false, [])
      | .illegal => (s, [(r, .illegal)])
      | .mem s (.xlate va d) => (pend s true, [(r, .mem (.xlate va d))])
      | .mem s e => (s, [(r, .mem e)])
  | _, _ => (s, [])

/-- The join-marker pushes of threads, each with its marker, and then the strongest of the failures that they meet (R186, R362). -/
def State.pushMarkers (s : State) (team : Nat) (ms : List (Nat × BitVec 56)) : State :=
  let r := ms.foldl (fun (r : State × List (Nat × Fail)) e => let q := r.1.pushMarker team e.1 e.2; (q.1, r.2 ++ q.2)) (s, [])
  r.1.takeFailures team r.2

/-- The threads of a team whose join-marker push is pending, with their markers (R150, R186). -/
def Team.markers (t : Team) : List (Nat × BitVec 56) :=
  (t.threads.filter fun h => h.pmk && !h.exited).filterMap fun h => (t.frame h.frame).parent.map fun p => (h.lrank, (t.frame p).resume)

/-- The threads of a callee begin: those of its range that still live stand in its frame (R41, R49); their join markers are still to be pushed. -/
def State.beginCallee (s : State) (team parent : Nat) (call : Call) (c : Callee) : State :=
  match s.team? team with
  | none => s
  | some t =>
    let i := t.freeFrame
    let s := s.modTeam team fun t => t.putFrame i (subFrame parent (t.frame parent).depth c)
    (((call.ranks.drop c.start).take c.size).zipIdx).foldl (fun s e => s.modThread team e.1 fun h =>
        if h.exited then h else
        { h.release call.h [] (s.clock t.die t.core) (s.gtime t.die) with
            frame := i, rank := e.2, pc := c.entry, cont := false, snap := none, pmk := true,
            trap := h.trap.map fun i => { i with resume := c.entry } }) s

/-- FORK_RESERVATION: the waiting requests of a core are met in order as the pool has their granules, and the first
call with its forks begins, no earlier than H + 2 (R46, R49); join markers that wait for an entry of the request table are pushed first. -/
def State.forkReservation (s : State) (die core : Nat) : State :=
  let queue := match s.core? die core with | some c => c.forkQ | none => []
  let s := (s.teams.filter fun t => t.die == die && t.core == core && t.standing == .resident).foldl (fun s t => s.pushMarkers t.id t.markers) s
  let s := queue.foldl (fun s e => s.reserve die core e) s
  let due := fun (e : Nat × Nat) => match s.team? e.1, s.callOf e with
    | some t, some call => t.standing == .resident && call.reserved && decide (call.h + 2 ≤ s.gtime die)
    | _, _ => false
  match queue.find? due with
  | none => s
  | some e =>
    match s.team? e.1, s.callOf e with
    | some _, some call =>
      let s := s.modCore die core fun c => { c with forkQ := c.forkQ.filter (· != e) }
      let s := s.modFrame e.1 e.2 fun fr => { fr with call := none, status := .waitingJoin }
      let s := call.callees.foldl (fun s c => s.beginCallee e.1 e.2 call c) s
      (s.pushMarkers e.1 ((call.ranks.filter fun r => match s.thread? e.1 r with | some h => h.pmk | none => false).map fun r =>
        (r, call.marker))).settle e.1
    | _, _ => s

/-- The sub-team frames of a frame, by callee index. -/
def Team.subs (t : Team) (f : Nat) : List Nat :=
  sortBy (fun a b => decide ((t.frame a).callee ≤ (t.frame b).callee))
    ((List.range t.frames.length).filter fun i => (t.frame i).parent == some f && (t.frame i).status != .gone)

/-- Whether a sub-team is complete (R52), its threads' accesses with it, and the acceptance of its commands (R44, R54, R120). -/
def State.subDone (s : State) (t : Team) (i : Nat) : Bool :=
  (t.frame i).status == .running && (t.frame i).cnt.none && (t.living i).all (fun h => h.waitsAt == .tret)
    && ((t.threads.filter fun h => h.frame == i).all fun h => !s.accessing t.id h.lrank)
    && !s.ops.any fun o => o.team == t.id && o.frame == i && o.body.sends

/-- Discards entries down to the join marker, reading spilled ones (R188, R367, R386); none where the stack empties first, or where entries that
software wrote to memory give no marker within 130 (log entry 74). -/
def State.unwind (s : State) (t : Team) (h : Thread) : Nat → List Dword → State × Option (Sum (BitVec 56 × List Dword) Res)
  | 0, _ => (s, none)
  | n + 1, st =>
    match st.getLast? with
    | none => (s, none)
    | some e =>
      let left := st.dropLast
      let filled : State × Sum (List Dword) Res :=
        if left.isEmpty && decide (1 < entryD e) then
          match s.resolve t ((s.localArea t h).1 + 8 * (entryD e - 2)) 8 0 false with
          | (s, .ok a) =>
            if a.space == .hbm && s.poisoned a.bytes then (s, .inr (.poison a.va))
            else let r := s.readChecked t.ctx a; (r.1, .inl [BitVec.ofNat 64 (leNat r.2.1)])
          | (s, r) => (s, .inr r)
        else (s, .inl left)
      match filled with
      | (s, .inr r) => (s, some (.inr r))
      | (s, .inl left) => if entryM e then (s, some (.inl (entryAddr e, left))) else s.unwind t h n left

/-- A thread's rank in a frame: its place among the threads that the frame was created with (R24, R52). -/
def Team.rankIn (t : Team) (f : Nat) (h : Thread) : Nat :=
  (t.threads.filter fun x => t.within f x && decide (x.lrank < h.lrank)).length

/-- What a join comes to in its threads so far, and the threads whose stacks failed, with how: without a join marker the use is illegal
(R367). -/
structure JoinSoFar where
  s    : State
  lost : List (Nat × Fail)
  deriving DecidableEq, Repr

/-- The join of one thread: back in the parent frame after its marker, where a trap that waits for its entry resumes (R370); a thread without one
stands there too, and its group ends once all have come (R367). -/
def JoinSoFar.thread (r : JoinSoFar) (t : Team) (f hz : Nat) (h : Thread) : JoinSoFar :=
  let back := fun (s : State) (g : Thread → Thread) =>
    s.modThread t.id h.lrank fun x =>
      g { x.release hz [] (s.clock t.die t.core) (s.gtime t.die) with frame := f, rank := t.rankIn f h, cont := false }
  match r.s.unwind t h 130 h.rstack with
  | (s, some (.inl (pc, st))) =>
    { r with s := back s fun x => { x with pc := pc, rstack := st, trap := x.trap.map fun i => { i with resume := pc } } }
  | (s, some (.inr e)) => { s := back s id, lost := r.lost ++ [(h.lrank, .mem e)] }
  | (s, none) => { s := back s id, lost := r.lost ++ [(h.lrank, .illegal)] }

/-- Whether a join needs fills for which its core's request table has no entry (R106, R188). -/
def State.joinLacks (s : State) (t : Team) (hs : List Thread) : Bool :=
  (hs.any fun h => !h.exited && !h.rstack.any entryM && !h.rstack.isEmpty) && decide (s.freeRequests t.die t.core = 0)

/-- The result registers that the parent takes (R53). -/
def Team.mergeResults (t : Team) (f : Nat) (subs : List Nat) : Team :=
  (List.range 32).foldl (fun u j =>
    if !(t.frame f).rmask.getLsbD j then u else
    match subs.filter fun i => (t.frame i).wrote.getLsbD j with
    | [] => u
    | i :: rest => { (u.uput f j (t.uget i j)) with mrgc := u.mrgc || !rest.isEmpty }) t

/-- JOIN: the sub-teams of a call are complete, their uniform writes with them (R52 to R54). The times of their commands' writes count in the
parent frame from then on, so that an outer join covers them where no thread came back. -/
def State.join (s0 : State) (team f : Nat) : State :=
  let s := s0.publishAll team
  match s.team? team with
  | none => s0
  | some t =>
    let subs := t.subs f
    let all := t.threads.filter fun h => subs.contains h.frame
    let hz := maxOf (t.frame f).callH (all.map (·.fh) ++ subs.map fun i => (t.frame i).cmdH)
    if (t.frame f).status != .waitingJoin || !subs.all (s.subDone t) || t.standing != .resident || decide (s.gtime t.die < hz + 2)
        || s.joinLacks t all then s0
    else
      let r := (all.filter fun h => !h.exited).foldl (fun (r : JoinSoFar) h => r.thread t f hz h) { s := s, lost := [] }
      if r.lost.any fun e => e.2.missed then
        -- a fill that does not translate: nothing of the join happens but the action of the strongest failure, and it is tried again (R362, R367)
        let stays := fun (x : Thread) => match t.thread? x.lrank with
          | some o => if x.exited || !subs.contains o.frame then x else { o with dieAt := x.dieAt }
          | none => x
        ((r.s.takeFailures team r.lost).modTeam team fun u => { u with threads := u.threads.map stays }).settle team
      else
        let s := r.s.modTeam team fun u =>
          let u := { u with threads := mapIf (fun h => h.exited && subs.contains h.frame) (fun h => { h with frame := f, rank := t.rankIn f h }) u.threads }
          let u := u.mergeResults f subs
          let gone := fun (fr : Frame) => { Frame.empty with callH := fr.callH }
          let u := subs.foldl (fun u i => u.modFrame i gone) u
          u.modFrame f fun fr =>
            { fr with status := .running, resume := 0, rmask := 0, cmdH := maxOf fr.cmdH (subs.map fun i => (t.frame i).cmdH) }
        (s.takeFailures team r.lost).settle team

/-! ## Barriers (R120, R190 to R193, R258) -/

/-- Threads parked somewhere in a team are released with the acquire of R120. -/
def Team.freed (t : Team) (clock time hz : Nat) (p : Thread → Bool) : Team :=
  { t with threads := mapIf p (fun h => h.release hz [] clock time) t.threads }

/-- The release of a team barrier, once every living thread of its frame, and of the sub-teams that a call has made of it, has arrived (R47,
R190, R191); the frame's uniform writes are complete then (R29). A saved team's waits for the restore (R48). -/
def State.releaseTeam (s : State) (team f k : Nat) : State :=
  match s.team? team with
  | none => s
  | some t =>
    let b := (t.frame f).bar k
    if t.standing = .saved ∨ b.count = 0 ∨ b.count < (t.members f).length ∨ s.gtime t.die < b.h + 2 then s
    else
      let clock := s.clock t.die t.core
      (s.publishAll team).modTeam team fun t =>
        (t.modFrame f fun fr =>
          let turned := fun (b : Barrier) => { b with phase := !b.phase, count := 0, relH := b.h, h := 0, told := false }
          { fr with bars := setAt fr.bars k turned }).freed clock (s.gtime t.die) b.h
          fun h => !h.exited && h.frame == f && h.waitsAt == .bar k && h.parkPhase == b.phase

/-- The teams of a cluster or a grid. -/
def State.peers (s : State) (t : Team) (grid : Bool) : List Team :=
  s.teams.filter fun x => x.launch == t.launch && (grid || x.cluster == t.cluster)

/-- The release of a cluster or grid barrier (R192, R193); a saved team's arrival waits for its restore. -/
def State.releaseWide (s : State) (team : Nat) (grid : Bool) : State :=
  match s.team? team with
  | none => s
  | some t =>
    let ps := s.peers t grid
    let live := ps.filter fun x => x.standing != .ended
    let arrived := fun (x : Team) => x.standing == .resident && (if grid then x.arrG else x.arrC)
    let hz := maxOf 0 (live.map (·.wideH))
    let whole := !grid || match s.launch? t.launch with | some l => decide (l.desc.nteams ≤ l.nextTeam) | none => false
    if live.isEmpty || !live.all arrived || !whole || live.any fun x => decide (s.gtime x.die < hz + 2) then s
    else
      live.foldl (fun s x =>
        let clock := s.clock x.die x.core
        s.modTeam x.id fun x =>
          let x := if grid then { x with arrG := false, phaseG := !x.phaseG, toldG := false }
            else { x with arrC := false, phaseC := !x.phaseC, toldC := false }
          x.freed clock (s.gtime x.die) hz fun h => !h.exited && h.waitsAt == (if grid then Park.gbar else Park.cbar)) s

/-- The release of a GSYNC (R258): the rendezvous of the lane of rank `r` of a frame. -/
def State.releaseSync (s : State) (team f r : Nat) : State :=
  match s.team? team with
  | none => s
  | some t =>
    match t.laneOf f (r / 32) (r % 32) with
    | none => s
    | some h =>
      match h.garr with
      | none => s
      | some a =>
        let mem := (List.range 32).filterMap fun j => if a.mask.getLsbD j then t.laneOf f h.group j else none
        let hz := maxOf 0 (mem.map (·.fh))
        let settled := mem.all fun x => !(s.outstanding team x.lrank).any fun _ => true
        if a.op != .gsync || !t.groupFull h a || !settled || decide (s.gtime t.die < hz + 2) then s
        else (mem.foldl (fun s x => s.groupDone t x hz []) s)

/-- BARRIER_RELEASE: kind 0 team, 1 cluster, 2 grid, 3 GSYNC. -/
def State.barrierRelease (s : State) (kind team f k : Nat) : State :=
  match kind with
  | 0 => s.releaseTeam team f k
  | 1 => s.releaseWide team false
  | 2 => s.releaseWide team true
  | _ => s.releaseSync team f k

/-! ## The bow (R152) -/

/-- BOW_ARRIVAL. -/
def State.bowArrival (s : State) (launch : Nat) : State :=
  match s.launch? launch with
  | none => s
  | some l =>
    let waits := s.ops.any fun o => o.team == l.bow.prev && decide (o.id < l.bow.mark) && o.body.bowed
    let ended := fun (k : Nat) => s.teams.any fun t => t.launch == launch && t.teamId == k && t.standing == .ended
    let k := if ended l.bow.holder then s.nextBow l l.bow.holder else l.bow.holder
    match s.teams.find? fun t => t.launch == launch && t.teamId == k && t.standing == .resident with
    | none => s
    | some t =>
      if !l.bow.moving || waits || decide (s.gtime t.die < l.bow.next + 2) then s
      else
        let hz := l.bow.next
        let clock := s.clock t.die t.core
        (s.modLaunch launch fun l => { l with bow := { l.bow with holder := k, moving := false, t := hz, next := 0 } }).modTeam t.id fun t =>
          t.freed clock (s.gtime t.die) hz fun h => !h.exited && h.waitsAt == .bowwait

/-! ## Watchdogs (R365) -/

/-- The PARK code of R150. -/
def parkCode (p : Park) : Nat :=
  match p with
  | .none => 0
  | .bar k => 1 + k
  | .cbar => 5
  | .gbar => 6
  | .tcall => 7
  | .tret => 8
  | .elect => 9
  | .group => 10
  | .bowwait => 11

/-- The stall record of a rendezvous whose first arrival was at `addr`. -/
def State.stallRecord (s : State) (t : Team) (h : Thread) (addr : Nat) (p : Park) : State :=
  s.record (recOf t h 0x0104 3 addr (parkCode p)) bitSTALL

/-- The first barrier of a frame, or of a frame above it, that has been open past the limit, with its frame and number; a phase that
TUTTI.ARV opened counts as any other. -/
def State.overdueBar (s : State) (t : Team) (h : Thread) : Option (Nat × Nat × Barrier) :=
  let clock := s.clock t.die t.core
  (t.ancestors 8 h.frame).findSome? fun f => (List.range 4).findSome? fun k =>
    let b := (t.frame f).bar k
    if 0 < b.count ∧ !b.told ∧ b.since + 2 ^ 24 ≤ clock ∧ (t.members f).all (fun x => !x.stopped) then some (f, k, b) else none

/-- RENDEZVOUS_WATCHDOG: a rendezvous that a living thread takes part in has been open past its limit, while none of its participants was stopped
or away (R365). -/
def State.watchdog (s : State) (team r : Nat) : State :=
  match s.team? team, s.thread? team r with
  | some t, some h =>
    let clock := s.clock t.die t.core
    -- the arrivals `ms` of a rendezvous in which the threads `all` take part
    let among := fun (all ms : List Thread) =>
      match ms.find? fun x => x.parkClock == (ms.map (·.parkClock)).min?.getD 0 with
      | none => s
      | some x =>
        if all.any (·.stopped) || x.parkTold || decide (clock < x.parkClock + 2 ^ 24) then s
        else
          let ids := ms.map (·.lrank)
          (s.stallRecord t x (packetOf x.parkAt).toNat h.park).modTeam team fun t =>
            { t with threads := mapIf (fun y => ids.contains y.lrank) (fun y => { y with parkTold := true }) t.threads }
    let wide := fun (grid : Bool) =>
      let ps := s.wideMates t grid
      let hs := ps.flatMap fun x => (x.threads.filter fun y => !y.exited && y.waitsAt == h.park).map fun y => (x, y)
      match hs.find? fun x => x.2.parkClock == (hs.map (·.2.parkClock)).min?.getD 0 with
      | none => s
      | some (u, x) =>
        if ps.any (fun p => p.standing != .resident || (if grid then p.toldG else p.toldC) || p.threads.any (·.stopped)) || decide (s.gtime t.die < x.parkClock + 2 ^ 26) then s
        else ps.foldl (fun s p => s.modTeam p.id fun p => if grid then { p with toldG := true } else { p with toldC := true }) (s.stallRecord u x (packetOf x.parkAt).toNat h.park)
    if h.exited || t.standing != .resident then s else
    match s.overdueBar t h with
    | some (f, k, b) =>
      (s.record { recOf t h 0x0104 3 (packetOf b.at_).toNat (1 + k) with lrank := b.who } bitSTALL).modFrame team f fun fr =>
        { fr with bars := setAt fr.bars k fun b => { b with told := true } }
    | none =>
      let own := t.living h.frame
      match h.waitsAt with
      | .cbar => wide false
      | .gbar => wide true
      | .tcall => if (t.frame h.frame).call.isSome then s else among own (own.filter fun x => x.waitsAt == .tcall)
      | .elect => among own (own.filter fun x => x.waitsAt == .elect)
      | .group =>
        match h.garr with
        | some a =>
          let lanes := own.filter fun x => x.group == h.group && a.mask.getLsbD (x.rank % 32)
          among lanes (lanes.filter fun x => match x.garr with | some b => a.same b | none => false)
        | none => s
      | _ => s
  | _, _ => s

/-- OPEN_WINDOW_LIMIT: a thread that has issued 256 packets since it opened a window lets a save begin; the window is
lost (R264). -/
def State.openWindowLimit (s : State) (team r : Nat) : State :=
  match s.team? team, s.thread? team r with
  | some t, some h =>
    if t.standing == .saving && !h.openWin.isEmpty && decide (256 ≤ h.sinceOpen) then
      s.modTeam team fun t =>
        { t with win := cdrop (fun a => h.openWin.contains (a / 256)) t.win,
                 threads := mapIf (fun x => x.lrank == r) (fun x => { x with openWin := [] }) t.threads }
    else s
  | _, _ => s

end Sys2Proof.Machine
end

