-- ==== Sys2Proof/Machine/Place.lean ====
section
/-!
DEFINITION. Machine/Place.lean: where a team or a cluster fits (R16, R25, R31, R100, R108, R137), and what its coming
does to its core (R100, R105, R141, R142).
-/

namespace Sys2Proof.Machine

open Sys2Proof

/-- What the teams resident on a core take of it: its slots, its split when it holds a team, the bytes and entries
allocated, and the threads and registers of each course. -/
structure CoreLoad where
  die     : Nat
  num     : Nat
  slots   : List Nat
  split   : Option Nat
  sa      : Nat
  oa      : Nat
  acc     : Nat
  courses : List (Nat × Nat)
  deriving DecidableEq, Repr

/-- The course that a thread is homed on when its team takes a slot (R25). -/
def courseOf (slot r : Nat) : Nat := (r / 32 + slot) % 4

/-- Threads, by launch rank, on a course when their team takes a slot. -/
def share (ranks : List Nat) (slot course : Nat) : Nat := (ranks.filter fun r => courseOf slot r == course).length

/-- The launch ranks of a team that has just been placed, and those of a team's living threads: an ended one has no registers (R189). -/
def Desc.ranks (d : Desc) : List Nat := List.range d.tsize
def Team.ranks (t : Team) : List Nat := (t.threads.filter fun h => !h.exited).map (·.lrank)

/-- The load of a core with one more team, of the threads `ranks`. -/
def CoreLoad.add (c : CoreLoad) (d : Desc) (ranks : List Nat) (slot : Nat) : CoreLoad :=
  { c with
    slots := c.slots ++ [slot]
    split := some d.split
    sa := c.sa + d.sak * 1024
    oa := c.oa + d.oak * 1024
    acc := c.acc + d.acck * 1024
    courses := c.courses.zipIdx.map fun e => (e.1.1 + share ranks slot e.2, e.1.2 + share ranks slot e.2 * d.nreg) }

/-- A core that holds no team. -/
def CoreLoad.empty (die num : Nat) : CoreLoad :=
  { die := die, num := num, slots := [], split := none, sa := 0, oa := 0, acc := 0, courses := [(0, 0), (0, 0), (0, 0), (0, 0)] }

/-- Whether a load is within every limit of R15, R16, R25, R100 and R108. -/
def CoreLoad.within (c : CoreLoad) : Bool :=
  decide (c.sa ≤ c.split.getD 0 * 65536 ∧ c.oa ≤ 131072 ∧ c.acc ≤ 65536)
    && c.courses.all fun e => decide (e.1 ≤ 512 ∧ e.2 ≤ 16384)

/-- The slot that a team would take on a core, if it fits. -/
def CoreLoad.slotFor (c : CoreLoad) (d : Desc) (ranks : List Nat) : Option Nat :=
  match (List.range 32).find? fun k => !c.slots.contains k with
  | none => none
  | some k => if (c.split.isNone || c.split == some d.split) && (c.add d ranks k).within then some k else none

/-- Whether a team takes up its core. -/
def Team.resides (t : Team) : Bool := t.standing == .resident || t.standing == .saving

/-- The load of a core as it stands. -/
def State.coreLoad (s : State) (die num : Nat) : CoreLoad :=
  (s.teams.filter fun t => t.resides && t.die == die && t.core == num).foldl
    (fun c t => match s.desc? t with | some d => c.add d t.ranks t.slot | none => c) (CoreLoad.empty die num)

/-- The cores of a context that have not been retired, in the order of R137. -/
def State.ownCores (s : State) (ctx : Nat) : List (Nat × Nat) :=
  match s.ctx? ctx with
  | none => []
  | some c => (sortBy (fun (x y : Nat × Nat) => decide (256 * x.1 + x.2 ≤ 256 * y.1 + y.2)) c.cores).filter fun p =>
    match s.core? p.1 p.2 with | some k => !k.retired | none => false

/-- Those that take teams: a core under repair does not for the time being (R356). -/
def State.openCores (s : State) (ctx : Nat) : List (Nat × Nat) :=
  (s.ownCores ctx).filter fun p => match s.core? p.1 p.2 with | some k => !k.closed | none => false

def State.coreLoads (s : State) (ctx : Nat) : List CoreLoad := (s.openCores ctx).map fun p => s.coreLoad p.1 p.2

/-- The die, core and slot of each team of a cluster whose rectangle has its corner on a core, if it is free (R31). -/
def placeAt (loads : List CoreLoad) (d : Desc) (corner : CoreLoad) : Option (List (Nat × Nat × Nat)) :=
  let row := corner.num / 16
  let col := corner.num % 16
  if 16 < row + d.shapeH ∨ 16 < col + d.shapeW then none
  else
    let cells := (List.range (d.shapeW * d.shapeH)).map fun p =>
      let num := (row + p / d.shapeW) * 16 + col + p % d.shapeW
      (loads.find? fun c => c.die == corner.die && c.num == num).bind fun c => (c.slotFor d d.ranks).map fun k => (c.die, c.num, k)
    if cells.all Option.isSome then some (cells.filterMap id) else none

/-- The first free rectangle (R137). -/
def placeCluster (loads : List CoreLoad) (d : Desc) : Option (List (Nat × Nat × Nat)) := loads.findSome? (placeAt loads d)

/-- The loads once a cluster has been placed. -/
def addCluster (loads : List CoreLoad) (d : Desc) (ps : List (Nat × Nat × Nat)) : List CoreLoad :=
  loads.map fun c => match ps.find? fun p => p.1 == c.die && p.2.1 == c.num with | some p => c.add d d.ranks p.2.2 | none => c

/-- Places `n` clusters one after another. -/
def placeClusters (d : Desc) : Nat → List CoreLoad → Option (List (List (Nat × Nat × Nat)))
  | 0, _ => some []
  | n + 1, loads =>
    match placeCluster loads d with
    | none => none
    | some ps => (placeClusters d n (addCluster loads d ps)).map fun r => ps :: r

/-- What a team's coming does to a core: the split and its L1 (R100), the lines that the first team of a launch drops
(R105), the detector at a core's first team (R141), and the permit (R142). -/
def State.seat (s : State) (die num id launch split : Nat) : State :=
  let here := s.teams.filter fun t => t.die == die && t.core == num && t.id != id
  let first := !here.any fun t => t.launch == launch
  let empty := !here.any (·.resides)
  let clock := s.clock die num
  s.modCore die num fun c =>
    let c := if empty then { c with permitP := 32, permits := [], waiters := [], reref := 0, winAt := clock, lastHeavy := clock, lastRise := clock }
      else c
    let c := if empty && c.split != split then { c with split := split, l1 := [] } else c
    let c := if first then { c with l1 := c.l1.filter fun l => l.scope != 0, icache := [] } else c
    if c.permits.length < c.permitP then { c with permits := c.permits ++ [id] }
    else { c with waiters := c.waiters ++ [id], lastTurn := if c.waiters.isEmpty then clock else c.lastTurn }

end Sys2Proof.Machine
end

