-- ==== Sys2Proof/Machine/Save.lean ====
section
/-!
DEFINITION. Machine/Save.lean: taking a team off its core and putting it back (R48, R143 to R150, R251, R264, R394), and
a debugger's copies of a team's image (R378).
-/

namespace Sys2Proof.Machine

open Sys2Proof

/-! ## When a save may begin (R144, R264) -/

/-- The address fields of each opcode's body (R276, R282, R292, R294, R315). -/
def addrFields (opc : Nat) : List Nat :=
  match opc with
  | 1 => [16, 24]
  | 2 => [16, 24]
  | 3 => [16, 24]
  | 4 => [16]
  | 0x20 => [24, 32, 48, 56]
  | 0x21 => [24, 32, 40]
  | 0x22 => [24]
  | 0x23 => [24, 40]
  | 0x24 => [24]
  | 0x25 => [24]
  | 0x30 => [16, 32, 40]
  | 0x40 => [24]
  | _ => []

/-- The addresses that a command names: its body's, its STADDR where it writes there, and a CPROG's arguments. -/
def State.cmdAddrs (s : State) (c : Cmd) (t : Team) : List Nat :=
  let args := match c.opc with
    | 0x30 => (match s.engineBytes c t (c.addr 40) 40 64 with | .ok _ bs _ => (List.range 8).map fun i => fieldLe bs (8 * i) 8 % 2 ^ 56 | .fail _ => [])
    | _ => []
  (addrFields c.opc).map c.addr ++ (if c.st || c.nf then [c.staddr] else []) ++ args

/-- Whether a command reaches the scratchpad, the operand buffer or the accumulator entries of its team. -/
def State.touchesCore (s : State) (c : Cmd) (t : Team) : Bool := [5, 6, 0x10, 0x11].contains c.opc || (s.cmdAddrs c t).any isLocal

/-- Whether a local address is that of a cluster mate's scratchpad, at a position of the cluster (R92). -/
def clusterAddr (q a : Nat) : Bool := isLocal a && a % 2 ^ 48 / 2 ^ 32 == 1 && a % 2 ^ 32 / 2 ^ 20 == q

/-- Whether a command of a cluster mate may reach a team's scratchpad (R144): it names an address there, or it strides from another
scratchpad of the cluster. -/
def State.touchesMate (s : State) (c : Cmd) (t : Team) : Bool :=
  match s.team? c.team with
  | none => false
  | some x =>
    x.id != t.id && x.launch == t.launch && x.cluster == t.cluster
      && (s.cmdAddrs c x).any fun a => clusterAddr t.pos a || ([2, 5, 6].contains c.opc && isLocal a && a % 2 ^ 48 / 2 ^ 32 == 1)

/-- Operations that a save withdraws or records: stalled waits, prefetches, and global loads. -/
def OpBody.leftBehind (b : OpBody) : Bool :=
  match b with
  | .fence _ => true
  | .waitc _ _ _ => true
  | .waitTags _ _ => true
  | .prefetch _ _ => true
  | .load kind _ _ a _ _ _ => a.space == .hbm && kind != .fill
  | .gather _ _ _ va _ _ => !isLocal va
  | _ => false

/-- A stalled wait, whose packet issues again on restore (R160). -/
def OpBody.stalls (b : OpBody) : Bool :=
  match b with
  | .fence _ => true
  | .waitc _ _ _ => true
  | .waitTags _ _ => true
  | _ => false

/-- Whether the stores of a thread's trap entry translate (R369). -/
def State.trapResolves (s : State) (t : Team) (h : Thread) : Bool :=
  let area := s.localArea t h
  ((if 16 ≤ area.2 then [(area.1 + area.2 - 16, 16)] else []) ++ (s.spillOf t h).toList.map fun a => (a, 8)).all fun e =>
    match (s.resolve t e.1 e.2 1 false).2 with | .xlate _ _ => false | _ => true

/-- Whether a thread goes on towards its GO by itself: it is neither parked, nor stopped, nor waiting on a completion flag, nor at a packet
that cannot be fetched or a trap that cannot be entered, nor behind a join marker that is still to be pushed (R264). -/
def State.goesOn (s : State) (t : Team) (h : Thread) : Bool :=
  !h.stopped && h.park == .none && !h.pmk && (if h.trap.isSome then h.flags == 0 && s.trapResolves t h
    else match (s.fetch t (packetOf h.pc).toNat).2 with | .ok ws => flagsClear h ws | _ => false)

/-- Whether nothing holds back the save of a team. -/
def State.saveReady (s : State) (t : Team) : Bool :=
  let ops := s.ops.filter fun o => o.team == t.id
  !((s.bundle.toList ++ s.others).any fun b => b.team == t.id)
    && ops.all (fun o => o.body.leftBehind)
    && t.threads.all (fun h => h.exited ||
        (!(h.cont && h.park != .group) && !(!h.openWin.isEmpty && s.goesOn t h)
          && !(h.trap.isSome && ops.any fun o => o.lrank == h.lrank && o.body.isLoad)
          && !(match h.garr with | some a => a.op == .gsync && t.groupFull h a | none => false)))
    && s.cmds.all fun c => if c.team = t.id then !s.touchesCore c t else !s.touchesMate c t

/-! ## What a save leaves of the threads -/

/-- KIND of a PEND entry (R150). -/
def pendKind (k : LoadKind) (acq : Bool) : Nat :=
  match k with
  | .plain _ => if acq then 1 else 0
  | .xf => 2
  | .half0 => 3
  | .half1 => 4
  | .xfRound _ => 5
  | .fill => 0
  | .word _ _ => 0

def LoadKind.width (k : LoadKind) : Nat := match k with | .plain n => n | .half0 => 2 | .half1 => 2 | .fill => 8 | _ => 0

/-- The abandoned loads of a team (R144, R150). -/
def State.pendsOf (s : State) (t : Team) : List Pend :=
  let pend := fun (o : Op) (kind : LoadKind) (d : Nat) (st : Option Nat) (va : Nat) (acq : Bool) (i : TrapInfo) =>
    ({ op := o.id, lrank := o.lrank, flag := o.flag, va := va, dest := d, kind := pendKind kind acq, width := kind.width,
       stream := (match st with | some p => 64 + p | none => 0),
       lprec := (match kind with | .xfRound p => p | _ => 0), acq := acq, info := i } : Pend)
  (s.ops.filter fun o => o.team == t.id).filterMap fun o =>
    match o.body with
    | .load (.word _ _) _ _ _ _ _ _ => none
    | .load kind d st a acq _ i => if a.space == .hbm && kind != .fill then some (pend o kind d st a.va acq i) else none
    | .gather kind d st va _ i => some (pend o kind d st va false i)
    | _ => none

/-- A thread as a save leaves it: an incomplete rendezvous is withdrawn, and its packet issues again (R251); a stalled thread stands at its
packet again (R160); a release that a stop holds takes place. -/
def State.settledThread (s : State) (t : Team) (h : Thread) : Thread :=
  let stalled := s.ops.any fun o => o.team == t.id && o.lrank == h.lrank && o.body.stalls
  let h := { h.takeDue h.readyAt (s.gtime t.die) with openWin := [], snap := none }
  match h.garr with
  | some a =>
    { h with pc := a.packet, cont := false, garr := none,
             flags := match a.flag with | some f => h.flags &&& ~~~(1#12 <<< f) | none => h.flags }
  | none => if stalled then { h with pc := packetOf h.pc - 16#56, cont := false } else h

/-! ## The image (R147 to R150) -/

/-- Exactly `n` bytes of a list, zeros after its end. -/
def padTo (n : Nat) (bs : List Byte) : List Byte := (bs ++ zeroBytes (n - bs.length)).take n

def bitIf (b : Bool) (n : Nat) : Nat := if b then n else 0

/-- The header (R148). -/
def State.headerBytes (s : State) (t : Team) (d : Desc) : List Byte :=
  let bow := match s.launch? t.launch with | some l => d.det && l.bow.holder == t.teamId && !l.bow.moving | none => false
  let forkw := ((t.frames.filterMap (·.call)).map fun c => if c.reserved then 0 else 16 * c.callees.length).foldl (· + ·) 0
  padTo 256 (toLe 4 1 ++ toLe 4 t.teamId ++ toLe 4 (16 * t.cluster + t.pos) ++ toLe 2 d.tsize ++ toLe 1 d.nreg
    ++ toLe 1 (t.frames.filter fun f => f.status != .gone).length ++ toLe 4 (d.sak * 1024) ++ toLe 4 (d.oak * 1024) ++ toLe 4 (d.acck * 1024)
    ++ toLe 4 (t.core + 256 * t.die + bitIf d.pin (2 ^ 31)) ++ toLe 8 t.tags.toNat ++ toLe 8 (t.trdy &&& t.tags).toNat
    ++ toLe 4 (bitIf t.mrgc 256) ++ toLe 4 (bitIf t.arrC 1 + bitIf t.phaseC 2 + bitIf t.arrG 4 + bitIf t.phaseG 8)
    ++ toLe 4 forkw ++ toLe 4 (bitIf bow 1))

/-- A frame-table entry (R149). -/
def State.frameBytes (s : State) (t : Team) (i : Nat) : List Byte :=
  let f := t.frame i
  let state := match f.status with
    | .waitingJoin => 1
    | .running => if 0 < i && s.subDone t i then 2 else 0
    | .complete => 2
    | .gone => 0
  if f.status == .gone then zeroBytes 64 else
  padTo 64 (toLe 8 (if f.status == .waitingJoin then f.resume.toNat else 0) ++ toLe 1 f.depth ++ toLe 1 f.callee
    ++ toLe 1 (f.parent.getD 0xFF) ++ toLe 1 state ++ toLe 2 f.nrank ++ toLe 2 (if i = 0 then 0xFFFF else f.gran.toNat)
    ++ toLe 4 f.rmask.toNat ++ toLe 4 f.wrote.toNat ++ toLe 1 f.cnt.copy ++ toLe 1 f.cnt.matC ++ toLe 1 f.cnt.matO
    ++ toLe 1 f.cnt.attn ++ toLe 1 f.cnt.coll ++ toLe 1 f.cnt.launch ++ toLe 2 0
    ++ f.bars.flatMap fun b => toLe 4 (b.count + bitIf b.phase 2048))

/-- Sixteen uniform registers of a frame's own file. -/
def Frame.granuleBytes (f : Frame) (g : Nat) : List Byte :=
  (List.range 16).flatMap fun j => toLe 4 (cget f.uni (16 * g + j)).toNat

/-- TSTATE of a thread (R150). -/
def Thread.tstate (h : Thread) : Nat := if h.exited then 2 else if h.stopped then 3 else if h.park != .none then 1 else 0

/-- A PEND entry (R150). -/
def Pend.bytes (p : Pend) : List Byte :=
  toLe 7 p.va ++ [1] ++ toLe 1 p.dest ++ toLe 1 p.kind ++ toLe 1 p.width ++ toLe 1 p.stream ++ toLe 4 p.lprec.toNat

/-- A thread record (R150). -/
def Thread.bytes (h : Thread) (nreg : Nat) (pends : List Pend) : List Byte :=
  let sh := [h.shFh, h.shRh, h.shGtime, h.shTagrdy]
  let pend := fun (k : Nat) => match h.trap with
    | some i => if k = 0 then padTo 16 i.bytes else zeroBytes 16
    | none => match pends.find? fun p => p.lrank == h.lrank && p.flag == some k with
      | some p => p.bytes
      | none => zeroBytes 16
  toLe 8 h.pc.toNat ++ toLe 1 h.tstate ++ toLe 1 (parkCode h.park) ++ toLe 2 h.lrank ++ toLe 4 h.frame ++ toLe 4 h.prec.toNat
    ++ toLe 1 (h.preds.toNat % 128) ++ toLe 1 h.akey.toNat ++ toLe 2 h.flags.toNat ++ toLe 8 h.fh ++ toLe 8 h.rh
    ++ sh.flatMap (fun x => toLe 4 (x.getD 0).toNat) ++ toLe 1 h.rstack.length
    ++ toLe 1 ((sh.zipIdx.map fun e => bitIf e.1.isSome (2 ^ e.2)).foldl (· + ·) 0)
    ++ toLe 1 (bitIf h.pmk 1 + bitIf h.trap.isSome 2) ++ zeroBytes 5
    ++ padTo 128 (h.rstack.flatMap fun e => toLe 8 e.toNat) ++ (List.range 12).flatMap pend
    ++ (List.range nreg).flatMap fun i => toLe 4 (h.rd i).toNat

/-- The whole image of a team, FS bytes (R147). -/
def State.image (s : State) (t : Team) (d : Desc) (pends : List Pend) : List Byte :=
  let table := padTo (65 * 64) ((List.range t.frames.length).flatMap fun i => s.frameBytes t i)
  let uni := (List.range 16).flatMap fun g => (t.frame 0).granuleBytes g
  let forks := padTo 65536 ((List.range t.frames.length).flatMap fun i =>
    if i = 0 then [] else (List.range 16).flatMap fun g => if (t.frame i).gran.getLsbD g then (t.frame i).granuleBytes g else [])
  let threads := (sortBy (fun (x y : Thread) => decide (x.lrank ≤ y.lrank)) t.threads).flatMap fun h => h.bytes d.nreg pends
  padTo d.frameSize (s.headerBytes t d ++ getBytes t.handles 0 512 ++ table ++ uni ++ forks ++ threads
    ++ getBytes t.scratch 0 (d.sak * 1024) ++ getBytes t.opbuf 0 (d.oak * 1024)
    ++ (List.range (d.acck * 1024)).flatMap fun i => toLe 4 (cget t.acc i).toNat)

/-! ## TEAM_SAVE -/

/-- Whether a granule of a core's arrays is one that the image of a team holds: a save reads it (R386). -/
def Team.owns (t : Team) (g : Sram) : Bool :=
  match g with
  | .reg id r i => id == t.id && match t.thread? r with | some h => !h.exited && decide (i < h.nreg) | none => false
  | .uni id f _ => id == t.id && (t.frame f).status != .gone
  | .scratch id _ => id == t.id
  | .opbuf id _ => id == t.id
  | .acc id _ => id == t.id

/-- TEAM_SAVE: a team whose save was asked for is written to its context frame and leaves its core (R144); a frame that
does not translate keeps it waiting (R394), and in a stopped context no frame is written (R358). A data error of what the image holds is a STOP, as one of the frame is (R394). -/
def State.teamSave (s : State) (team : Nat) : State :=
  match s.team? team with
  | none => s
  | some t =>
    match s.desc? t with
    | none => s
    | some d =>
      let stopped := match s.ctx? t.ctx with | some c => c.stopped | none => true
      if t.standing != .saving || stopped || !s.saveReady t then s
      else if s.dev.badSram.any t.owns then
        s.stopAction { die := t.die, cls := 0x0203, action := 7, ctx := t.ctx, team := t.teamId, core := t.core }
      else
        let pends := s.pendsOf t
        let u := { t with threads := t.threads.map (s.settledThread t), win := [], pends := pends, standing := .saved,
                          savedClock := s.clock t.die t.core, savedTime := s.gtime t.die }
        match s.devAccess t.die t.ctx (s.frameBase t) 1 4096 d.frameSize with
        | (s, none) => s
        | (s, some a) =>
          let s := (s.homeWrite t.ctx a (s.image u d pends)).1
          let s := { s with ops := s.ops.filter fun o => o.team != team }
          let s := s.modTeam team fun _ => u
          s.newlyReady (s.modCore t.die t.core fun c => { (c.dropTeam team) with forkQ := c.forkQ.filter fun e => e.1 != team }) t.die t.core

/-! ## TEAM_RESTORE -/

/-- PARK of a record; a withdrawn rendezvous is issued again (R150, R251). -/
def parkOf (code : Nat) : Park :=
  match code with
  | 1 => .bar 0
  | 2 => .bar 1
  | 3 => .bar 2
  | 4 => .bar 3
  | 5 => .cbar
  | 6 => .gbar
  | 7 => .tcall
  | 8 => .tret
  | 9 => .elect
  | 11 => .bowwait
  | _ => .none

/-- Words of an image as a table. -/
def tableOf (ws : List Word) (base : Nat) : Cells 32 := (ws.zipIdx.foldl (fun m e => cput m (base + e.2) e.1) ([] : Cells 32))
def byteTable (bs : List Byte) : Cells 8 := putBytes [] 0 bs

/-- A frame with the values of its entry (R149); `shift` carries a core clock from before the save to the core that it comes to (R365). -/
def Frame.restored (f : Frame) (e : List Byte) (shift : Nat → Nat) : Frame :=
  if f.status == .gone then f else
  let parent := fieldLe e 10 1
  { f with
    resume := if fieldLe e 11 1 = 1 then BitVec.ofNat 56 (fieldLe e 0 8) else f.resume
    depth := fieldLe e 8 1
    callee := fieldLe e 9 1
    parent := if parent = 0xFF then none else some parent
    status := if fieldLe e 11 1 = 1 then .waitingJoin else .running
    nrank := fieldLe e 12 2
    gran := BitVec.ofNat 16 (fieldLe e 14 2)
    rmask := BitVec.ofNat 32 (fieldLe e 16 4)
    wrote := BitVec.ofNat 32 (fieldLe e 20 4)
    cnt := ⟨fieldLe e 24 1, fieldLe e 25 1, fieldLe e 26 1, fieldLe e 27 1, fieldLe e 28 1, fieldLe e 29 1⟩
    bars := f.bars.zipIdx.map fun b =>
      let w := fieldLe e (32 + 4 * b.2) 4
      { b.1 with count := w % 2048, phase := w / 2048 % 2 == 1, since := shift b.1.since } }

/-- The forks' own registers, unpacked in ascending granule order from where the entries before left off. -/
def unpackForks (bs : List Byte) : List Frame → Nat → List Frame
  | [], _ => []
  | f :: rest, off =>
    let gs := (List.range 16).filter f.gran.getLsbD
    let uni := gs.zipIdx.foldl (fun m e =>
      ((wordsOf ((bs.drop (off + 64 * e.2)).take 64)).zipIdx.foldl (fun m w => cput m (16 * e.1 + w.2) w.1) m)) ([] : Cells 32)
    { f with uni := uni } :: unpackForks bs rest (off + 64 * gs.length)

/-- A thread with the values of its record (R150). -/
def Thread.restored (h : Thread) (e : List Byte) (nreg slot : Nat) (bars : Nat → Nat → Bool) (clock : Nat) (shift : Nat → Nat) : Thread :=
  let tstate := fieldLe e 8 1
  let park := parkOf (fieldLe e 9 1)
  let pc := BitVec.ofNat 56 (fieldLe e 0 7)
  let frame := fieldLe e 12 4
  let sh := fun i => if fieldLe e 57 1 / 2 ^ i % 2 = 1 then some (BitVec.ofNat 32 (fieldLe e (40 + 4 * i) 4)) else none
  let rec_ := (e.drop 192).take 16
  { h with
    course := courseOf slot h.lrank
    pc := pc
    cont := false
    exited := h.exited || tstate == 2
    stopped := tstate == 3
    park := if h.exited || tstate == 2 then .none else park
    parkPhase := (match park with | .bar k => bars frame k | _ => h.parkPhase)
    parkClock := (match park with | .cbar => h.parkClock | .gbar => h.parkClock | _ => shift h.parkClock)
    stopClock := shift h.stopClock
    frame := frame
    prec := precLoad h.prec (BitVec.ofNat 32 (fieldLe e 16 4))
    preds := BitVec.ofNat 8 (fieldLe e 20 1 % 128)
    akey := BitVec.ofNat 8 (fieldLe e 21 1)
    flags := BitVec.ofNat 12 (fieldLe e 22 2)
    fh := fieldLe e 24 8
    rh := fieldLe e 32 8
    shFh := sh 0
    shRh := sh 1
    shGtime := sh 2
    shTagrdy := sh 3
    rstack := (List.range (fieldLe e 56 1)).map fun i => BitVec.ofNat 64 (fieldLe e (64 + 8 * i) 8)
    pmk := fieldLe e 58 1 % 2 == 1
    trap := if fieldLe e 58 1 / 2 % 2 = 1 then
        some { cause := fieldLe rec_ 0 2, slot := fieldLe rec_ 2 1, word := BitVec.ofNat 32 (fieldLe rec_ 4 4),
               packet := BitVec.ofNat 56 (fieldLe rec_ 8 8), resume := pc }
      else none
    v := tableOf (wordsOf ((e.drop 384).take (4 * nreg))) 0
    yieldAt := none
    yieldMark := false
    hintMark := false
    aged := false
    readyAt := clock
    openWin := []
    sinceOpen := 0
    dieAt := none }

/-- The loads to reissue: the record's valid entries, and those that no entry of it could hold. -/
def Team.pendsRestored (t : Team) (h : Thread) (e : List Byte) : List Pend :=
  let listed := (List.range 12).filterMap fun k =>
    let p := (e.drop (192 + 16 * k)).take 16
    let old := t.pends.find? fun q => q.lrank == h.lrank && q.flag == some k
    if fieldLe e 58 1 / 2 % 2 = 0 ∧ fieldLe p 7 1 = 1 then
      some { op := (match old with | some q => q.op | none => 0), lrank := h.lrank, flag := some k, va := fieldLe p 0 7, dest := fieldLe p 8 1, kind := fieldLe p 9 1, width := fieldLe p 10 1,
             stream := fieldLe p 11 1, lprec := BitVec.ofNat 32 (fieldLe p 12 4), acq := fieldLe p 9 1 == 1,
             info := match old with | some q => q.info | none => { cause := 1, slot := 0, word := 0, packet := packetOf h.pc, resume := h.pc } }
    else none
  let extra := (t.pends.filter fun q => q.lrank == h.lrank).filter fun q => match q.flag with
    | none => true
    | some k => match t.pends.find? fun p => p.lrank == h.lrank && p.flag == some k with | some p => p != q | none => false
  listed ++ extra

/-- The kind of load that a PEND entry reissues. -/
def Pend.loadKind (p : Pend) : LoadKind :=
  match p.kind with
  | 2 => .xf
  | 3 => .half0
  | 4 => .half1
  | 5 => .xfRound p.lprec
  | _ => .plain p.width

/-- Where the bytes of a reissued load are. -/
def State.pendRes (s : State) (t : Team) (p : Pend) : State × Res :=
  match p.kind with
  | 2 => s.resolve t p.va 4 0 false
  | 5 => s.resolve t p.va 4 0 false
  | _ => s.resolve t p.va p.width 0 false

/-- A team with the values of its image (R146). Its threads are homed anew by the slot that it takes, as R25 homes those of a team
(log entry 78). -/
def State.fromImage (s : State) (t : Team) (d : Desc) (img : List Byte) (die core slot : Nat) : Team :=
  let clock := s.clock die core
  let shift := fun (c : Nat) => c + clock - t.savedClock
  let frames := t.frames.zipIdx.map fun f => f.1.restored ((img.drop (entryOff f.2)).take 64) shift
  let frames := match frames with
    | [] => []
    | f :: rest => { f with uni := tableOf (wordsOf ((img.drop 0x1340).take 1024)) 0, gran := 0xFFFF, parent := none }
        :: unpackForks ((img.drop 0x1740).take 65536) rest 0
  let phase := fun f k => (((frames.getD f Frame.empty).bars.getD k Barrier.fresh).phase)
  let size := 384 + 4 * d.nreg
  let recAt := fun r => (img.drop (0x11740 + r * size)).take size
  let after := 0x11740 + d.tsize * size
  let wide := fieldLe img 52 4
  { t with
    die := die
    core := core
    slot := slot
    standing := .resident
    frames := frames
    threads := t.threads.map fun h => h.restored (recAt h.lrank) d.nreg slot phase clock shift
    handles := byteTable ((img.drop 0x100).take 512)
    scratch := byteTable ((img.drop after).take (d.sak * 1024))
    opbuf := byteTable ((img.drop (after + d.sak * 1024)).take (d.oak * 1024))
    acc := tableOf (wordsOf ((img.drop (after + d.sak * 1024 + d.oak * 1024)).take (4096 * d.acck))) 0
    win := []
    tags := BitVec.ofNat 64 (fieldLe img 32 8)
    trdy := BitVec.ofNat 64 (fieldLe img 40 8)
    mrgc := fieldLe img 48 4 / 256 % 2 == 1
    arrC := wide % 2 == 1
    phaseC := wide / 2 % 2 == 1
    arrG := wide / 4 % 2 == 1
    phaseG := wide / 8 % 2 == 1
    pends := t.threads.flatMap fun h => if h.exited then [] else t.pendsRestored h (recAt h.lrank)
    faults := []
    mayResume := false
    home := false }

/-- Whether a saved team may come back: its faults, if any, have been resolved (R381). -/
def State.eligible (s : State) (t : Team) : Bool :=
  t.standing == .saved && (t.faults.isEmpty || t.mayResume) && match s.ctx? t.ctx with | some c => !c.stopped | none => false

/-- Where a saved team goes: its old core if it is part of a cluster of several teams (log entry 101), owns a tag, is pinned or was saved by a repair (R356), else the first that fits
(R146), with room in the fork pool for its forks (R46). -/
def State.restorePlace (s : State) (t : Team) (d : Desc) : Option (Nat × Nat × Nat) :=
  let home := decide (1 < d.shapeW * d.shapeH) || t.tags != 0 || d.pin || t.home
  ((s.coreLoads t.ctx).filter fun c => (!home || (c.die == t.die && c.num == t.core))
      && decide (s.poolUsed c.die c.num + 16 * t.forks ≤ poolSize)).findSome? fun c =>
    (c.slotFor d t.ranks).map fun k => (c.die, c.num, k)

/-- A recorded load issues again; an arrival that waits for it waits for the new operation (R190). -/
def State.reissue (s : State) (t : Team) (p : Pend) : State :=
  match s.pendRes t p, t.thread? p.lrank with
  | (s, .ok a), some _ =>
    let st := if 64 ≤ p.stream then some (p.stream % 64) else none
    let renew := fun (h : Thread) =>
      { h with arrivals := h.arrivals.map fun x => { x with ops := x.ops.map fun k => if k = p.op then s.nextId else k } }
    (s.modThread t.id p.lrank renew).addOp t.id p.lrank p.flag (holdOf false p.flag) (.load p.loadKind p.dest st a p.acq none p.info)
  | (s, _), _ => s

/-- Waiting fork requests in the order in which their rendezvous were complete (R46). -/
def State.inTurn (s : State) (q : List (Nat × Nat)) : List (Nat × Nat) :=
  let seq := fun (e : Nat × Nat) => match s.callOf e with | some c => c.seq | none => 0
  sortBy (fun a b => decide (seq a ≤ seq b)) q

/-- One team put back; whether it came back. -/
def State.restoreOne (s : State) (team : Nat) : State × Bool :=
  match s.team? team with
  | none => (s, false)
  | some t =>
    match s.desc? t with
    | none => (s, false)
    | some d =>
      if !s.eligible t then (s, false) else
      match s.restorePlace t d with
      | none => (s, false)
      | some (die, core, slot) =>
        match s.devAccess t.die t.ctx (s.frameBase t) 0 4096 d.frameSize with
        | (s, none) => (s, false)
        | (s, some a) =>
          if s.poisoned a.bytes then ((s.teamAction t none 0x0203 (s.frameBase t) 0).settle team, false)
          else
            let r := s.homeRead t.ctx a
            let s := r.1
            let u := s.fromImage t d r.2.1 die core slot
            let hz := maxOf 0 (u.threads.map (·.fh))
            let fs := u.pends.filterMap fun p => match (s.pendRes u p).2 with | .ok _ => none | e => some (p.lrank, Fail.mem e)
            let need := (u.pends.filterMap fun p => match (s.pendRes u p).2 with | .ok a => if a.space == .hbm then some a.va else none | _ => none)
            if s.gtime die < hz + 2 || s.tableFull die core (sectorsOf need) then (s, false)
            else if !fs.isEmpty then (((s.modTeam team fun t => { t with faults := [] }).takeFailures team
              (sortBy (fun x y => decide (x.1 ≤ y.1)) fs)).settle team, false)
            else
                let s := (s.modTeam team fun _ => u).seat die core team t.launch d.split
                let s := u.pends.foldl (fun s p => s.reissue u p) s
                let s := s.modTeam team fun t => { t with pends := [] }
                let waiting := (List.range u.frames.length).filter fun i => (u.frame i).call.isSome
                let s := s.modCore die core fun c => { c with forkQ := s.inTurn (c.forkQ ++ waiting.map fun i => (team, i)) }
                let s := s.pushMarkers team u.markers
                let s := match s.team? team with | some u => s.ranWide u none t.savedTime | none => s
                (s.settle team, true)

/-- TEAM_RESTORE (R146); the saved teams of an ENSEMBLE launch that may come back do so together (R34). -/
def State.teamRestore (s : State) (team : Nat) : State :=
  match s.team? team with
  | none => s
  | some t =>
    match s.desc? t with
    | none => s
    | some d =>
      let mates := if d.ens then (s.teams.filter fun x => x.launch == t.launch && s.eligible x).map (·.id) else [team]
      if d.ens && s.teams.any fun x => x.launch == t.launch && x.standing == .saving && x.faults.isEmpty then s
      else
        let r := mates.foldl (fun (r : State × Bool) id => if r.2 then r.1.restoreOne id else r) (s, true)
        if r.2 || mates.length ≤ 1 then r.1
        else
          -- one of them cannot come yet: none comes; a record or an action that its attempt made stands
          let moved := fun (t : Team) => match r.1.team? t.id with | some u => u.standing == .resident | none => false
          if s.teams.any fun t => mates.contains t.id && moved t then s else r.1

/-! ## A debugger's images (R378) -/

/-- Whether no thread of a team is ready or waiting. -/
def Team.quiet (t : Team) : Bool := t.threads.all fun h => h.exited || h.stopped || h.park != .none

/-- The PC of a thread for a debugger: a lane parked at a group rendezvous stands at the packet of it (R150, R251). -/
def Thread.shownPc (h : Thread) : BitVec 56 := match h.garr with | some a => a.packet | none => h.pc

/-- DUMP: the image at a physical address, nothing freed. -/
def State.dumpTeam (s : State) (t : Team) (d : Desc) (pa : Nat) : State :=
  s.devWrite pa (s.image { t with threads := t.threads.map fun h => { h with pc := h.shownPc } } d (s.pendsOf t))

/-- LOAD: PC, PREC, PRED, AKEY and the vector registers of every thread, from an image at a physical address; none where
a PC is no packet address. The PC that a thread stands at already leaves it where it is in its packet; a new one is also where a trap that
waits for its entry resumes (R370). -/
def State.loadTeam (s : State) (t : Team) (d : Desc) (pa : Nat) : Option State :=
  let size := 384 + 4 * d.nreg
  let r := s.readHome ((List.range (d.tsize * size)).map (pa + 0x11740 + ·))
  let recAt := fun i => (r.2.1.drop (i * size)).take size
  if t.threads.any fun h => !h.exited && fieldLe (recAt h.lrank) 0 8 % 16 != 0 then none
  else
    let copy := fun (h : Thread) =>
      if h.exited then h else
      let e := recAt h.lrank
      let pc := BitVec.ofNat 56 (fieldLe e 0 7)
      let h := if h.garr.isSome ∧ pc = h.shownPc then h
        else { h with pc := pc, cont := false, snap := none, trap := h.trap.map fun i => { i with resume := pc } }
      { h with prec := precLoad h.prec (BitVec.ofNat 32 (fieldLe e 16 4)),
               preds := BitVec.ofNat 8 (fieldLe e 20 1 % 128), akey := BitVec.ofNat 8 (fieldLe e 21 1),
               v := tableOf (wordsOf ((e.drop 384).take (4 * d.nreg))) 0 }
    some (r.1.modTeam t.id fun t => { t with threads := t.threads.map copy })

end Sys2Proof.Machine
end

