-- ==== Sys2Proof/Machine/Launch.lean ====
section
/-!
DEFINITION. Machine/Launch.lean: launch queues, descriptors, dependences, placement and completion (R130 to R138), and the
LAUNCH command (R282).
-/

namespace Sys2Proof.Machine

open Sys2Proof

/-! ## Queues (R130, R131) -/

/-- A queue that no doorbell has reached. -/
def Queue.fresh (num : Nat) : Queue :=
  { num := num, tail := 0, next := 0, headW := 0, open_ := false, told := false, ring := 0, logn := 0, prio := 0, headwb := 0,
    pend := none, taken := none, met := none }

def Context.queue (c : Context) (q : Nat) : Queue := (c.queues.find? fun x => x.num == q).getD (Queue.fresh q)

/-- Whether a ring has no room for another descriptor (R282). -/
def Queue.full (y : Queue) : Bool := decide (2 ^ y.logn ≤ (y.tail - y.headW).toNat)

/-- A queue after a change; `freed` takes the time at which a full ring comes to have room. -/
def State.setQueue (s : State) (x y : Queue) : Queue := if x.full && !y.full then { y with freed := s.gtime bridge0 } else y

def State.modQueue (s : State) (ctx q : Nat) (f : Queue → Queue) : State :=
  s.modCtx ctx fun c => { c with queues := s.setQueue (c.queue q) (f (c.queue q)) :: c.queues.filter fun x => x.num != q }

/-- The address of a queue-table entry. -/
def Context.entryAddr (c : Context) (q : Nat) : Nat := c.qtab + 32 * q

/-- Whether a queue-table entry is unfit for use (R131). -/
def entryUnfit (e : List Byte) : Bool :=
  fieldLe e 10 1 / 2 != 0 || fieldLe e 11 5 != 0 || fieldLe e 24 8 != 0 || fieldLe e 0 8 % 128 != 0 || decide (16 < fieldLe e 8 1)

/-- A queue-table entry as it has been read afresh: whether its queue may be used, and the queue so set. A PRIO above 3 is taken as it stands
(log entry 80). -/
def State.useEntry (s : State) (ctx q : Nat) (e : List Byte) : State × Bool :=
  match s.ctx? ctx with
  | none => (s, false)
  | some c =>
    let shut := fun (s : State) => s.modQueue ctx q fun x => { x with open_ := false }
    if entryUnfit e then
      let s := if (c.queue q).told then s
        else s.record { die := bridge0, cls := 0x0401, action := 3, ctx := ctx, addr := c.entryAddr q } bitLNCH
      ((shut s).modQueue ctx q fun x => { x with told := true }, false)
    else if fieldLe e 10 1 % 2 = 0 then (shut s, false)
    else
      (s.modQueue ctx q fun x =>
        { x with open_ := true, told := false, ring := fieldLe e 0 8 % 2 ^ 56, logn := fieldLe e 8 1, prio := fieldLe e 9 1,
                 headwb := fieldLe e 16 8 % 2 ^ 56 }, true)

/-- LAUNCH_DOORBELL (R131): the queue-table entry is read afresh and the tail set; a doorbell to a disabled queue is
ignored. -/
def State.launchDoorbell (s : State) (ctx q : Nat) (tail : BitVec 32) : State :=
  match s.ctx? ctx with
  | none => s
  | some c =>
    if c.stopped || decide (64 ≤ q) then s
    else
      match s.devGet bridge0 ctx (c.entryAddr q) 8 32 with
      | (s, none) => s.modQueue ctx q fun x => { x with pend := some tail }
      | (s, some (e, _)) =>
        match s.useEntry ctx q e with
        | (s, true) => s.modQueue ctx q fun x => { x with tail := tail, pend := none }
        | (s, false) => s.modQueue ctx q fun x => { x with pend := none }

/-- A doorbell whose queue-table read waited is tried again. -/
def State.refreshQueue (s : State) (ctx q : Nat) : State :=
  match s.ctx? ctx with
  | none => s
  | some c => match (c.queue q).pend with | some tail => s.launchDoorbell ctx q tail | none => s

/-! ## Descriptors (R132, R133) -/

/-- The fields of a descriptor; its addresses are the low 56 bits of their fields (log entry 81). -/
def descOf (addr : Nat) (b : List Byte) : Desc :=
  { addr := addr, entry := fieldLe b 0 8 % 2 ^ 56, nteams := fieldLe b 8 4, tsize := fieldLe b 12 2, shapeW := fieldLe b 14 1 % 16,
    shapeH := fieldLe b 14 1 / 16, nreg := fieldLe b 15 1, split := fieldLe b 16 2, sak := fieldLe b 18 2, oak := fieldLe b 20 2,
    acck := fieldLe b 22 2, uinit := fieldLe b 24 8 % 2 ^ 56, ucnt := fieldLe b 32 2, det := fieldLe b 34 1 % 2 == 1,
    ens := fieldLe b 34 1 / 2 % 2 == 1, pin := fieldLe b 34 1 / 4 % 2 == 1, resv := fieldLe b 34 1 / 8 + fieldLe b 35 5 + fieldLe b 100 28,
    dep0 := fieldLe b 40 8 % 2 ^ 56, val0 := fieldLe b 48 8, dep1 := fieldLe b 56 8 % 2 ^ 56, val1 := fieldLe b 64 8,
    done := fieldLe b 72 8 % 2 ^ 56, frames := fieldLe b 80 8 % 2 ^ 56, loc := fieldLe b 88 8 % 2 ^ 56, lsize := fieldLe b 96 4 }

/-- Whether every field lies in its values (R132), and the cluster shape divides NTEAMS (R31). -/
def Desc.valid (d : Desc) : Bool :=
  d.entry % 16 == 0 && decide (1 ≤ d.nteams ∧ d.nteams ≤ 2 ^ 24) && decide (1 ≤ d.tsize ∧ d.tsize ≤ 1024)
    && decide (1 ≤ d.shapeW ∧ 1 ≤ d.shapeH ∧ d.shapeW * d.shapeH ≤ 12) && d.nreg % 8 == 0 && decide (8 ≤ d.nreg ∧ d.nreg ≤ 64)
    && decide (d.split ≤ 7 ∧ d.sak ≤ 448 ∧ d.sak ≤ 64 * d.split ∧ d.oak ≤ 128 ∧ d.acck ≤ 64 ∧ d.ucnt ≤ 256)
    && d.resv == 0 && d.frames % 4096 == 0 && d.lsize % 128 == 0 && d.nteams % (d.shapeW * d.shapeH) == 0

/-- Clusters of a launch. -/
def Desc.clusters (d : Desc) : Nat := d.nteams / (d.shapeW * d.shapeH)

/-- Whether a launch can be run at all: its fields, the features that it names (R348), a team on an empty core (R16), and,
for an ENSEMBLE, all its teams on the empty cores of the context (R34). -/
def State.launchable (s : State) (c : Context) (d : Desc) : Bool :=
  d.valid && (!d.det || s.dev.accept.getLsbD 0) && (!d.ens || s.dev.accept.getLsbD 1)
    && ((CoreLoad.empty 0 0).slotFor d d.ranks).isSome
    && (!d.ens || (placeClusters d d.clusters ((s.ownCores c.num).map fun p => CoreLoad.empty p.1 p.2)).isSome)

/-- Whether a launch still has teams to place. -/
def Launch.dispatching (l : Launch) : Bool := !l.done && decide (l.nextTeam < l.desc.nteams)

/-! ## Starting (R131, R133, R134, R135) -/

/-- The next announced descriptor of an open queue, taken as a whole. -/
def State.takeDesc (s : State) (ctx q : Nat) : State :=
  let s := s.refreshQueue ctx q
  match s.ctx? ctx with
  | none => s
  | some c =>
    let x := c.queue q
    if c.stopped || !x.open_ || x.taken.isSome || x.tail == x.next then s
    else
      match s.devGet bridge0 ctx (x.ring + 128 * (x.next.toNat % 2 ^ x.logn)) 128 128 with
      | (s, some (b, _)) => s.modQueue ctx q fun x => { x with taken := some b }
      | (s, none) => s

/-- A dependence counter read with acquire: its write time if it has reached its threshold. -/
def State.depHolds (s : State) (ctx addr val : Nat) : State × Option Nat :=
  if addr = 0 then (s, some 0)
  else
    match s.devGet bridge0 ctx addr 8 8 with
    | (s, some (b, w)) => (s, if val ≤ leNat b then some w else none)
    | (s, none) => (s, none)

/-- The address of the descriptor in hand. -/
def Queue.descAddr (x : Queue) : Nat := (x.ring + 128 * (x.next.toNat % 2 ^ x.logn)) % 2 ^ 56

/-- DEPENDENCE_RECHECK (R134): the counters of the descriptor at the head of a queue are read. -/
def State.dependenceRecheck (s : State) (ctx q : Nat) : State :=
  let s := s.takeDesc ctx q
  match s.ctx? ctx with
  | none => s
  | some c =>
    let x := c.queue q
    match x.taken, x.met with
    | some b, none =>
      let d := descOf x.descAddr b
      if c.stopped || !s.launchable c d then s else
      match s.depHolds ctx d.dep0 d.val0 with
      | (s, none) => s
      | (s, some w0) =>
        match s.depHolds ctx d.dep1 d.val1 with
        | (s, none) => s
        | (s, some w1) => s.modQueue ctx q fun x => { x with met := some (max w0 w1) }
    | _, _ => s

/-- The place of a queue's head count, if it has one. -/
def State.headPlace (s : State) (ctx : Nat) (x : Queue) : State × Option (Option Access) :=
  if x.headwb = 0 then (s, some none)
  else
    match s.devAccess bridge0 ctx x.headwb 1 4 4 with
    | (s, some a) => (s, some (some a))
    | (s, none) => (s, none)

/-- The head count of a queue passes its descriptor. -/
def State.headPasses (s : State) (ctx q : Nat) (x : Queue) (place : Option Access) : State :=
  let k := x.next + 1
  let s := match place with | some a => (s.homeWrite ctx a (toLe 4 k.toNat)).1 | none => s
  s.modQueue ctx q fun x => { x with next := k, headW := k, taken := none, met := none }

/-- A bow that starts with team 0 (R152). -/
def Bow.fresh : Bow := { holder := 0, moving := false, t := 0, next := 0, prev := 0, mark := 0 }

/-- The initial uniform words, read once (R135). -/
def State.uniformWords (s : State) (ctx : Nat) (d : Desc) : State × Option (List Word) :=
  if d.ucnt = 0 then (s, some [])
  else
    match s.devGet bridge0 ctx d.uinit 4 (4 * d.ucnt) with
    | (s, some (b, _)) => (s, some (wordsOf b))
    | (s, none) => (s, none)

/-- LAUNCH_START: a launch whose dependences hold starts, or fails (R133, R134). -/
def State.launchStart (s : State) (ctx q : Nat) : State :=
  let s := s.dependenceRecheck ctx q
  match s.ctx? ctx with
  | none => s
  | some c =>
    let x := c.queue q
    let behind := s.launches.any fun l => l.ctx == ctx && l.queue == q && l.dispatching
    match x.taken with
    | none => s
    | some b =>
      if c.stopped || behind then s else
      let d := descOf x.descAddr b
      match s.headPlace ctx x with
      | (s, none) => s
      | (s, some place) =>
        if !s.launchable c d then
          (s.record { die := bridge0, cls := 0x0401, action := 6, ctx := ctx, addr := x.descAddr } bitLNCH).headPasses ctx q x place
        else
          match x.met with
          | none => s
          | some w =>
            match s.uniformWords ctx d with
            | (s, none) => s
            | (s, some ws) =>
              let any := d.dep0 != 0 || d.dep1 != 0
              let l : Launch :=
                { id := s.nextId, ctx := ctx, queue := q, k := x.next.toNat, prio := x.prio, desc := d, uwords := ws, nextTeam := 0,
                  minIssue := if any then w + 2 else 0, bow := Bow.fresh, tl := 0, headDone := true, done := false }
              ({ s with launches := s.launches ++ [l], nextId := s.nextId + 1 }).headPasses ctx q x place

/-! ## Placement (R135, R137, R138) -/

/-- A thread as a launch creates it (R23, R25). -/
def Thread.fresh (d : Desc) (slot clock r : Nat) : Thread :=
  { lrank := r, rank := r, frame := 0, course := courseOf slot r, nreg := d.nreg, pc := BitVec.ofNat 56 d.entry, cont := false,
    snap := none, rstack := [], v := [], preds := 0, flags := 0, prec := 0x2D, fh := 0, rh := 0, akey := 0, shFh := none, shRh := none,
    shGtime := none, shTagrdy := none, exited := false, stopped := false, stopNext := false, stopClock := 0, stopTime := 0, due := none, park := .none, parkPhase := false, parkArg := 0, parkAt := 0,
    parkClock := 0, parkTold := false, arrivals := [], garr := none, yieldAt := none, yieldMark := false, hintMark := false, aged := false,
    readyAt := clock, trap := none, pmk := false, skipBp := none, stepOne := false, stepRun := false, openWin := [], sinceOpen := 0, dieAt := none }

/-- The launch frame of a team, with the initial uniform words (R57, R135). -/
def Frame.fresh (d : Desc) (ws : List Word) : Frame :=
  { Frame.empty with depth := 1, nrank := d.tsize, status := .running, uni := tableOf ws 0, gran := 0xFFFF, bars := freshBars }

/-- A team as it is placed: every allocation reads as zero (R57, R101, R108). -/
def Team.fresh (id : Nat) (l : Launch) (index die core slot clock : Nat) : Team :=
  let d := l.desc
  let n := d.shapeW * d.shapeH
  { id := id, ctx := l.ctx, launch := l.id, teamId := index, cluster := index / n, pos := index % n, die := die, core := core, slot := slot,
    standing := .resident, threads := (List.range d.tsize).map (Thread.fresh d slot clock), frames := [Frame.fresh d l.uwords], scratch := [],
    opbuf := [], acc := [], win := [], handles := [], mrgc := false, tags := 0, trdy := 0, arrC := false, phaseC := false, arrG := false,
    phaseG := false, wideH := 0, wideAt := 0, toldC := false, toldG := false, pends := [], faults := [], mayResume := false, home := false, savedClock := 0, savedTime := 0 }

/-- One team placed on a core and slot. -/
def State.placeTeam (s : State) (l : Launch) (index : Nat) (p : Nat × Nat × Nat) : State :=
  let id := s.nextId
  let t := Team.fresh id l index p.1 p.2.1 p.2.2 (s.clock p.1 p.2.1)
  ({ s with nextId := id + 1 }.seat p.1 p.2.1 id l.id l.desc.split).modLaunch l.id (fun l => { l with nextTeam := index + 1 })
    |> fun s => { s with teams := s.teams ++ [t] }

/-- A cluster placed; its teams follow position order (R31). -/
def State.placeRect (s : State) (l : Launch) (first : Nat) (ps : List (Nat × Nat × Nat)) : State :=
  ps.zipIdx.foldl (fun s e => s.placeTeam l (first + e.2) e.1) s

/-- What a launch could place now: its next cluster, or, for an ENSEMBLE, every one (R34). -/
def State.placeable (s : State) (l : Launch) : Option (List (List (Nat × Nat × Nat))) :=
  let loads := s.coreLoads l.ctx
  if l.desc.ens then placeClusters l.desc l.desc.clusters loads else (placeCluster loads l.desc).map fun p => [p]

/-- TEAM_PLACEMENT: the dispatching launch of a queue places its next team or cluster, unless one that goes before it
could (R137, R138). -/
def State.teamPlacement (s : State) (ctx q : Nat) : State :=
  match s.ctx? ctx, s.launches.find? fun l => l.ctx == ctx && l.queue == q && l.dispatching with
  | some c, some l =>
    let before := s.launches.filter fun m => m.ctx == ctx && m.dispatching && m.id != l.id
      && (decide (l.prio < m.prio) || (m.prio == l.prio && decide (m.id < l.id)))
    if c.stopped || before.any (fun m => (s.placeable m).isSome) then s
    else
      match s.placeable l with
      | none => s
      | some cs =>
        cs.zipIdx.foldl (fun s e => s.placeRect l (l.nextTeam + e.2 * (l.desc.shapeW * l.desc.shapeH)) e.1) s
  | _, _ => s

/-! ## Completion (R19, R136) -/

/-- LAUNCH_COMPLETION: every team has ended, with its accesses and commands and their notify writes, whose times count in Tl (R18, R267); DONE
rises, no earlier than Tl + 2. -/
def State.launchCompletion (s : State) (launch : Nat) : State :=
  match s.launch? launch with
  | none => s
  | some l =>
    let mine := s.teams.filter fun t => t.launch == launch
    let ids := mine.map (·.id)
    let over_ := !l.dispatching && mine.all (fun t => t.standing == .ended) && !s.ops.any (fun o => ids.contains o.team)
      && !s.cmds.any (fun c => ids.contains c.team)
    if !over_ || (match s.ctx? l.ctx with | some c => c.stopped | none => true) then s
    else
      let gone := fun (s : State) =>
        { s with launches := s.launches.filter fun x => x.id != launch,
                 teams := s.teams.filter fun t => t.launch != launch }
      if l.desc.done = 0 then gone s
      else
        match s.devAccess bridge0 l.ctx l.desc.done 1 8 8 with
        | (s, none) => s
        | (s, some a) =>
          if s.poisoned a.bytes then s.stopAction { die := bridge0, cls := 0x0203, action := 7, ctx := l.ctx, addr := a.va }
          else if s.gtime (homeDie (a.bytes.headD 0)) < l.tl + 2 then s
          else
            let r := s.homeRead l.ctx a
            gone (r.1.homeWrite l.ctx a (toLe 8 (leNat r.2.1 + 1))).1

/-! ## LAUNCH (R282) -/

/-- A read and a write of a LAUNCH, whose addresses are global ones (R282; log entry 79). -/
def State.launchRead (s : State) (c : Cmd) (t : Team) (a n align off : Nat) : ReadRes :=
  if isLocal (a % 2 ^ 56) then .fail (.bad 2 (a % 2 ^ 56) off) else s.engineRead c t a n align off

def State.launchWrite (s : State) (c : Cmd) (t : Team) (a align off : Nat) (data : List Byte) : UnitRes :=
  if isLocal (a % 2 ^ 56) then .bad 2 (a % 2 ^ 56) off else s.engineWrite c t a align off data

/-- Goes on with the queue of a LAUNCH, its table entry read: a queue out of use ends the command. A doorbell that the queue received before
takes effect before. -/
def State.launchQueue (s : State) (c : Cmd) (t : Team) (go : State → Queue → State) : State :=
  let q := c.u 16 1
  match s.ctx? t.ctx with
  | none => s
  | some x =>
    match s.launchRead c t (x.entryAddr q) 32 8 16 with
    | .fail r => s.cmdFails c t r 0
    | .ok s e _ =>
      let s := s.refreshQueue t.ctx q
      if (match s.ctx? t.ctx with | some x => (x.queue q).pend.isSome | none => false) then s else
      match s.useEntry t.ctx q e with
      | (s, false) => s.cmdError c t 0x0101 16 0
      | (s, true) => match s.ctx? t.ctx with | some x => go s (x.queue q) | none => s

/-- Whether the wait of a LAUNCH for room is over without any: 2^26 ticks from its acceptance have passed, and the ring is full or has had
room only since. -/
def State.roomLate (s : State) (c : Cmd) (y : Queue) : Bool :=
  decide (c.at_ + 2 ^ 26 ≤ s.gtime c.die) && (y.full || decide (c.at_ + 2 ^ 26 ≤ y.freed))

/-- LAUNCH: the dispatcher takes the descriptor into the ring, or the command waits for room. The tail is the one that the queue has when
there is room, doorbells of the wait included (log entry 102). -/
def State.launchCmd (s : State) (k : Nat) : State :=
  s.startCmd k 0x40 (fun c _ => [(16, 1, decide (64 ≤ c.u 16 1)), (24, 8, false)]) (fun _ _ => [])
    fun s c t =>
      s.launchQueue c t fun s y =>
        if y.full || s.roomLate c y then s
        else
          match s.launchRead c t (c.addr 24) 128 128 24 with
          | .fail r => s.cmdFails c t r 0
          | .ok s b _ =>
            match s.launchWrite c t (y.ring + 128 * (y.tail.toNat % 2 ^ y.logn)) 128 16 b with
            | .done s w =>
              ((s.modQueue t.ctx (c.u 16 1) fun z => { z with tail := y.tail + 1 }).modCmd k fun c => { c with tc := max c.tc w }).cmdEnds k 0 0
                y.tail.toNat
            | r => s.cmdFails c t r 0

/-- LAUNCH_QFULL_TIMEOUT: a LAUNCH that has passed its checks, and found no room within 2^26 ticks, ends. -/
def State.launchTimeout (s : State) (k : Nat) : State :=
  match s.startable k with
  | none => s
  | some (c, t) =>
    if c.opc = 0x40 ∧ c.cls = 4 ∧ c.state = .running ∧ c.at_ + 2 ^ 26 ≤ s.gtime c.die then
      s.launchQueue c t fun s y => if s.roomLate c y then s.cmdError c t 0x0107 (c.u 16 1) 0 else s
    else s

end Sys2Proof.Machine
end

