-- ==== Sys2Proof/Machine/Attention.lean ====
section
/-!
DEFINITION. Machine/Attention.lean: the key cache and its maintenance commands (R284 to R293), and ATTN (R294 to R308,
R392).
-/

namespace Sys2Proof.Machine

open Sys2Proof

/-! ## Accesses of the sequencer -/

/-- What stops a step of the sequencer: a failed access, a block that is not stable, or a stale bound (R302). -/
inductive AttnStop where
  | fault (r : UnitRes)
  | unstable
  | stale (s : State)
  deriving DecidableEq, Repr

/-- `n` words read from an address in an address field of the command. -/
def State.seqWords (s : State) (c : Cmd) (t : Team) (a off n : Nat) : Except AttnStop (State × (List Word)) :=
  match s.engineWords c t a off n with
  | .ok s bs _ => .ok (s, wordsOf bs)
  | .fail r => .error (.fault r)

/-- Whether words at an address may all be written. -/
def State.writable (s : State) (c : Cmd) (t : Team) (a off : Nat) : Nat → Except AttnStop Unit
  | 0 => .ok ()
  | n + 1 =>
    match s.engineRes c t a 4 1 4 with
    | (_, .ok x) => if s.away t.id x then .error (.fault .held) else s.writable c t (a + 4) off n
    | (_, r) => .error (.fault (r.unit off))

/-- Words written, each whole, once all of them are known to be writable; the number is the largest t. -/
def State.seqPut (s : State) (c : Cmd) (t : Team) (a off : Nat) (ws : List Word) : Except AttnStop (State × Nat) :=
  match s.writable c t a off ws.length with
  | .error e => .error e
  | .ok () =>
    .ok (ws.zipIdx.foldl (fun r e =>
      match r.1.engineWrite c t (a + 4 * e.2) 4 off (toLe 4 e.1.toNat) with
      | .done s w => (s, max r.2 w)
      | _ => r) (s, 0))

/-- A failure that an aligned address field has at once. -/
def needAlign (a align off : Nat) : Except AttnStop Unit := if a % align = 0 then .ok () else .error (.fault (.bad 3 a off))

/-! ## Geometry and elements (R284 to R287) -/

/-- A cache geometry (R284, R285). -/
structure Geom where
  d  : Nat
  nk : Nat
  kf : Nat
  vf : Nat
  deriving DecidableEq, Repr

def geomOf (cg : Nat) : Geom := { d := 16 * 2 ^ (cg % 16), nk := 2 ^ (cg / 16 % 16), kf := cg / 256 % 16, vf := cg / 4096 % 16 }

/-- Whether a geometry word breaks R284; only ATTN has query rows. -/
def geomBad (cg : Nat) (attn : Bool) : Bool :=
  decide (4 < cg % 16 ∨ 8 < cg / 16 % 16 ∨ cg / 256 % 16 < 2 ∨ 5 < cg / 256 % 16 ∨ cg / 4096 % 16 < 2 ∨ 5 < cg / 4096 % 16 ∨ 2 ^ 20 ≤ cg)
    || (!attn && cg / 65536 % 16 != 0)

def elemSize (f : Nat) : Nat := if f = 2 then 2 else 1
def Geom.env (g : Geom) : Nat := (16 + 5 * g.d + 31) / 32 * 32
def Geom.keyAt (g : Geom) (i : Nat) : Nat := g.env + i * g.d * elemSize g.kf
def Geom.valueAt (g : Geom) (i : Nat) : Nat := g.env + g.nk * g.d * elemSize g.kf + i * g.d * elemSize g.vf

/-- The decoded value of an element (R287). -/
def elemVal (f scale code : Nat) : Val :=
  if f = 2 then bf16.dec code
  else (if f = 3 then decE4m3 code else if f = 4 then e5m2.dec code else decT8 code).mul (decE8m0 scale)

/-- The code of a real in a format under a scale (R287). -/
def quantise (f scale : Nat) (x : Val) : Nat :=
  if f = 2 then bf16.enc .rne true x
  else
    let y := x.mul (.fin false 1 (127 - (scale : Int)))
    if f = 3 then encE4m3 y else if f = 4 then encE5m2 true y else encT8 y

/-- The codes of a row of `d` elements, and a row of codes as words. -/
def rowCodes (f d : Nat) (ws : List Word) : List Nat :=
  (List.range d).map fun i => fieldLe (bytesOf ws) (i * elemSize f) (elemSize f)
def rowWords (f : Nat) (codes : List Nat) : List Word := wordsOf (codes.flatMap fun x => toLe (elemSize f) x)

/-- Words in a row. -/
def Geom.rowLen (g : Geom) (f : Nat) : Nat := g.d * elemSize f / 4

/-! ## The envelope (R286, R288) -/

/-- An envelope record. -/
structure Envelope where
  ver : Nat
  n   : Nat
  bv  : Bool
  ksc : Nat
  vsc : Nat
  lk  : Nat
  lo  : List Nat
  hi  : List Nat
  rho : List Nat
  deriving DecidableEq, Repr

def envOf (g : Geom) (ws : List Word) : Envelope :=
  let b := bytesOf ws
  { ver := fieldLe b 0 2, n := fieldLe b 2 2, bv := fieldLe b 4 1 % 2 == 1, ksc := fieldLe b 5 1, vsc := fieldLe b 6 1, lk := fieldLe b 7 1,
    lo := (List.range g.d).map fun i => fieldLe b (16 + 2 * i) 2
    hi := (List.range g.d).map fun i => fieldLe b (16 + 2 * g.d + 2 * i) 2
    rho := (List.range (g.d / 2)).map fun i => fieldLe b (16 + 4 * g.d + 2 * i) 2 }

/-- Words 0 and 1, and the words of the bounds. -/
def Envelope.word0 (e : Envelope) : Word := BitVec.ofNat 32 (e.ver % 65536 + 65536 * e.n)
def Envelope.word1 (e : Envelope) : Word := BitVec.ofNat 32 (bitIf e.bv 1 + 256 * e.ksc + 65536 * e.vsc + 16777216 * e.lk)
def Envelope.bounds (e : Envelope) : List Word := wordsOf ((e.lo ++ e.hi ++ e.rho).flatMap fun x => toLe 2 x)

def bfUp (x : Val) : Nat := bf16.enc .rup false x
def bfDown (x : Val) : Nat := bf16.enc .rdn false x

/-- The bounds of one key: LO, HI and RHO (R288). -/
def boundsOf (k : List Val) : List Nat × List Nat × List Nat :=
  (k.map fun x => if x.isNan then bf16.signBit true + bf16.infBits else bfDown x, k.map fun x => if x.isNan then bf16.infBits else bfUp x,
   (List.range (k.length / 2)).map fun j =>
     let x := k.getD (2 * j) .nan
     let y := k.getD (2 * j + 1) .nan
     if x.isNan || y.isNan then bf16.infBits else bfUp ((x.mul x).add .rne (y.mul y)).sqrt)

/-- Bounds that cover a key as well. -/
def widen (e : Envelope) (k : List Val) : Envelope :=
  let b := boundsOf k
  let low := fun (x y : Nat) => if (bf16.dec y).below (bf16.dec x) then y else x
  let high := fun (x y : Nat) => if (bf16.dec x).below (bf16.dec y) then y else x
  { e with lo := e.lo.zipWith low b.1, hi := e.hi.zipWith high b.2.1, rho := e.rho.zipWith high b.2.2 }

/-- env(n): the bounds of the first keys (R288). -/
def envFor (g : Geom) (e : Envelope) (keys : List (List Val)) : Envelope :=
  match keys with
  | [] => { e with bv := false, lo := List.replicate g.d 0, hi := List.replicate g.d 0, rho := List.replicate (g.d / 2) 0 }
  | k :: rest => let b := boundsOf k; rest.foldl widen { e with bv := true, lo := b.1, hi := b.2.1, rho := b.2.2 }

/-! ## Bound arithmetic (R289, R290) -/

def bnd (v : Val) : Word := BitVec.ofNat 32 (fp32.enc .rup false v)

def bAdd (x y : Word) : Word :=
  match decF32 x, decF32 y with
  | .inf a, .inf b => if a == b then x else 0
  | v, w => bnd (v.add .rup w)
def bNeg (x : Word) : Word := encF32 (decF32 x).neg
def bSub (x y : Word) : Word := bAdd x (bNeg y)
def bMul (x y : Word) : Word :=
  let v := decF32 x
  let w := decF32 y
  if v.isNan || w.isNan then 0x7FC00000 else if v.isZero || w.isZero then 0 else bnd (v.mul w)
def bDiv (x y : Word) : Word :=
  match decF32 x, decF32 y with
  | .nan, _ => 0x7FC00000
  | _, .nan => 0x7FC00000
  | .inf _, .inf _ => 0x7F800000
  | v, w => if v.isZero then 0 else if w.isZero then 0x7F800000 else bnd (v.div w)
def bSqrt (x : Word) : Word := bnd (decF32 x).sqrt
def bMax (x y : Word) : Word := encF32 ((decF32 x).max (decF32 y))
def bMin (x y : Word) : Word := encF32 ((decF32 x).min (decF32 y))

/-- A BF16 code as FP32. -/
def widenBf (x : Nat) : Word := BitVec.ofNat 32 (65536 * x)

/-- b[q] of a block for a query row (R290); NaN excludes nothing. -/
def boundFor (g : Geom) (c : Word) (e : Envelope) (q : List Nat) : Word :=
  if e.n = 0 then 0xFF800000 else
  let qv := fun i => widenBf (q.getD i 0)
  let box := (List.range g.d).foldl (fun b i =>
    bAdd b (bMax (bMul (qv i) (widenBf (e.lo.getD i 0))) (bMul (qv i) (widenBf (e.hi.getD i 0))))) 0
  let rad := (List.range (g.d / 2)).foldl (fun b j =>
    bAdd b (bMul (bSqrt (bAdd (bMul (qv (2 * j)) (qv (2 * j))) (bMul (qv (2 * j + 1)) (qv (2 * j + 1))))) (widenBf (e.rho.getD j 0)))) 0
  let b := bMul c (if e.bv then bMin box rad else rad)
  if (decF32 b).isNan then 0x7F800000 else b

/-- U of a block. -/
def blockBound (g : Geom) (c : Word) (e : Envelope) (qs : List (List Nat)) : Word :=
  qs.foldl (fun u q => bMax u (boundFor g c e q)) 0xFF800000

/-! ## Maintenance (R291 to R293) -/

def Cmd.geom (c : Cmd) : Geom := geomOf (c.u 16 4)

/-- The body fields that all maintenance commands check, and each one's own. -/
def maintFields (c : Cmd) (more : List (Nat × Nat × Bool)) : List (Nat × Nat × Bool) :=
  (16, 4, geomBad (c.u 16 4) false) :: (24, 8, false) :: more

/-- Rows of a block, as codes. -/
def State.rows (s : State) (c : Cmd) (t : Team) (blk off : Nat) (g : Geom) (keys : Bool) : Nat → Except AttnStop (State × (List (List Nat)))
  | 0 => .ok (s, [])
  | n + 1 => do
    let (s, rest) ← s.rows c t blk off g keys n
    let f := if keys then g.kf else g.vf
    let (s, ws) ← s.seqWords c t (blk + if keys then g.keyAt n else g.valueAt n) off (g.rowLen f)
    pure (s, rest ++ [rowCodes f g.d ws])

/-- Rows written. -/
def State.putRows (s : State) (c : Cmd) (t : Team) (blk off : Nat) (g : Geom) (keys : Bool) (rows : List (List Nat)) (tc : Nat) : Except AttnStop (State × Nat) :=
  s.seqPut c t (blk + if keys then g.keyAt 0 else g.valueAt 0) off (rows.flatMap fun r => rowWords (if keys then g.kf else g.vf) r)
    |>.map fun r => (r.1, max tc r.2)

/-- The envelope as read. -/
def State.readEnv (s : State) (c : Cmd) (t : Team) (blk off : Nat) (g : Geom) : Except AttnStop (State × Envelope) :=
  (s.seqWords c t blk off (g.env / 4)).map fun r => (r.1, envOf g r.2)

/-- The writes of an envelope but for its first word. -/
def State.putEnv (s : State) (c : Cmd) (t : Team) (blk off : Nat) (e : Envelope) (tc : Nat) : Except AttnStop (State × Nat) := do
  let (s, a) ← s.seqPut c t (blk + 4) off [e.word1]
  let (s, b) ← s.seqPut c t (blk + 16) off e.bounds
  pure (s, max tc (max a b))

/-- VER made odd before any other write. -/
def State.verOdd (s : State) (c : Cmd) (t : Team) (blk : Nat) (e : Envelope) : Except AttnStop (State × Nat) :=
  s.seqPut c t blk 24 [{ e with ver := e.ver + 1 }.word0]

/-- What a command's writes before its closing write come to: the word that the closing write puts, if there is one,
with the count, the largest t, and whether the block was full. -/
structure Closing where
  word  : Option Word
  count : Nat
  t     : Nat
  full  : Bool

/-- All positions of a block decoded and encoded anew, its envelope computed, with VER odd meanwhile (R293). -/
def State.rewrite (s : State) (c : Cmd) (t : Team) (blk : Nat) (g : Geom) (e : Envelope) (f : Envelope → Envelope)
    (key : Envelope → List Val → List Val) (values : Bool) : Except AttnStop (State × Closing) := do
  let (s, kc) ← s.rows c t blk 24 g true e.n
  let (s, vc) ← if values then s.rows c t blk 24 g false e.n else pure (s, [])
  let e' := f e
  let codes := kc.map fun r => ((key e (r.map (elemVal g.kf e.ksc))).map (quantise g.kf e'.ksc))
  let vcodes := vc.map fun r => (r.map (elemVal g.vf e.vsc)).map (quantise g.vf e'.vsc)
  let e' := envFor g e' (codes.map fun r => r.map (elemVal g.kf e'.ksc))
  let (s, t0) ← s.verOdd c t blk e
  let (s, t1) ← s.putRows c t blk 24 g true codes t0
  let (s, t2) ← s.putRows c t blk 24 g false vcodes t1
  let (s, t3) ← s.putEnv c t blk 24 e' t2
  pure (s, { word := some { e' with ver := e.ver + 2 }.word0, count := e.n, t := t3, full := false })

/-- One key rotated by KROT (R293). -/
def rotated (delta : Int) (freq : List Word) (k : List Val) : List Val :=
  (List.range (k.length / 2)).flatMap fun j =>
    let phi := encF32 ((Val.ofInt delta).mul (decF32 (freq.getD j 0)))
    let co := decF32 (encF32 (decF32 phi).cos)
    let si := decF32 (encF32 (decF32 phi).sin)
    let x := k.getD (2 * j) .nan
    let y := k.getD (2 * j + 1) .nan
    [decF32 (encF32 ((x.mul co).sub .rne (y.mul si))), decF32 (encF32 ((x.mul si).add .rne (y.mul co)))]

/-- KAPP between claim and closing write. -/
def State.kappBody (s : State) (c : Cmd) (t : Team) (blk : Nat) (g : Geom) (e : Envelope) : Except AttnStop (State × Closing) := do
  if e.n = g.nk then pure (s, { word := none, count := e.n, t := 0, full := true })
  else
    let (s, kw) ← s.seqWords c t (c.addr 32) 32 g.d
    let (s, vw) ← s.seqWords c t (c.addr 40) 40 g.d
    let e := if e.n = 0 then { e with ksc := if g.kf = 2 then 0x7F else c.u 48 1, vsc := if g.vf = 2 then 0x7F else c.u 49 1 } else e
    let key := kw.map fun x => quantise g.kf e.ksc (decF32 x)
    let value := vw.map fun x => quantise g.vf e.vsc (decF32 x)
    let k := key.map (elemVal g.kf e.ksc)
    let e' := if e.n = 0 then envFor g e [k] else widen e k
    let (s, t0) ← s.seqPut c t (blk + g.keyAt e.n) 24 (rowWords g.kf key)
    let (s, t1) ← s.seqPut c t (blk + g.valueAt e.n) 24 (rowWords g.vf value)
    let (s, t2) ← s.putEnv c t blk 24 e' (max t0 t1)
    pure (s, { word := some { e' with n := e.n + 1 }.word0, count := e.n + 1, t := t2, full := false })

/-- KREQ, KROT, KSUM and KTRUNC alike. -/
def State.kreqBody (s : State) (c : Cmd) (t : Team) (blk : Nat) (g : Geom) (e : Envelope) : Except AttnStop (State × Closing) :=
  let pick := fun (f old new : Nat) => if f = 2 then 0x7F else if new = 0xFF then old else new
  s.rewrite c t blk g e (fun e => { e with ksc := pick g.kf e.ksc (c.u 32 1), vsc := pick g.vf e.vsc (c.u 33 1) }) (fun _ k => k) true

def State.krotBody (s : State) (c : Cmd) (t : Team) (blk : Nat) (g : Geom) (e : Envelope) : Except AttnStop (State × Closing) := do
  let (s, freq) ← s.seqWords c t (c.addr 40) 40 (g.d / 2)
  s.rewrite c t blk g e id (fun _ k => rotated (c.s32 32) freq k) false

def State.ksumBody (s : State) (c : Cmd) (t : Team) (blk : Nat) (g : Geom) (e : Envelope) : Except AttnStop (State × Closing) := do
  let (s, kc) ← s.rows c t blk 24 g true e.n
  let e' := envFor g e (kc.map fun r => r.map (elemVal g.kf e.ksc))
  let (s, t0) ← s.verOdd c t blk e
  let (s, t1) ← s.putEnv c t blk 24 e' t0
  pure (s, { word := some { e with ver := e.ver + 2 }.word0, count := e.n, t := t1, full := false })

def State.ktruncBody (s : State) (c : Cmd) (_t : Team) (_blk : Nat) (_g : Geom) (e : Envelope) : Except AttnStop (State × Closing) :=
  let n := c.u 32 2
  .ok (s, if n < e.n then { word := some { e with ver := e.ver + 2, n := n }.word0, count := n, t := 0, full := false }
    else { word := none, count := e.n, t := 0, full := false })

/-- The claim of a block: LK from 0 to 1 (R291); whether it was free, and the t of the claim. A block that lies at a local address is worked on
in the scratchpad there (log entry 109). -/
def State.claim (s : State) (c : Cmd) (t : Team) (blk : Nat) : Except AttnStop (State × (Option Nat)) := do
  needAlign blk 128 24
  let (s, ws) ← s.seqWords c t (blk + 4) 24 1
  let w := ws.headD 0
  if 2 ^ 24 ≤ w.toNat then pure (s, none)
  else
    let (s, w) ← s.seqPut c t (blk + 4) 24 [w + 0x01000000]
    pure (s, some w)

/-- LK := 0 and the end of the command's body. -/
def State.unclaim (s : State) (c : Cmd) (t : Team) (blk code count tc : Nat) : State :=
  match s.seqWords c t (blk + 4) 24 1 with
  | .error (.fault r) => s.cmdFails c t r 0
  | .error _ => s
  | .ok (s, ws) =>
    match s.seqPut c t (blk + 4) 24 [(ws.headD 0) &&& 0x00FFFFFF] with
    | .error (.fault r) => s.cmdFails c t r 0
    | .error _ => s
    | .ok (s, w) => (s.modCmd c.id fun c => { c with tc := max tc w }).cmdEnds c.id code 0 count

/-- A maintenance command goes on: it claims its block and makes every write but the last ones, or, that done, makes its
closing write no earlier than T + 2 and lets go of its block (R291). `count` holds the count meanwhile, `scales` the word
of the closing write. -/
def State.maintRun (body : State → Cmd → Team → Nat → Geom → Envelope → Except AttnStop (State × Closing)) (s : State) (c : Cmd) (t : Team) : State :=
  let blk := c.addr 24
  let fails := fun (s : State) (e : AttnStop) => match e with | .fault r => s.cmdFails c t r 0 | _ => s
  if c.consumed then
    -- the closing write and the release
    match s.engineRes c t blk 4 1 4 with
    | (s, .ok a) =>
      if s.gtime (if a.space == .hbm then homeDie (a.bytes.headD 0) else t.die) < c.tc + 2 then s
      else
        match s.seqPut c t blk 24 [((c.scales.head?).map (·.2)).getD 0] with
        | .ok (s, w) => s.unclaim c t blk 0 c.count (max c.tc w)
        | .error e => fails s e
    | (_, r) => s.cmdFails c t (r.unit 24) 0
  else
    let step1 : Except AttnStop (State × (Option Nat)) := if c.claimed then .ok (s, some c.tc) else s.claim c t blk
    match step1 with
    | .error e => fails s e
    | .ok (s, none) => s
    | .ok (s, some t0) =>
      let s := s.modCmd c.id fun c => { c with claimed := true, tc := max c.tc t0 }
      let body' : Except AttnStop (State × Closing) := do
        let (s, e) ← s.readEnv c t blk 24 c.geom
        body s c t blk c.geom e
      match body' with
      | .error e => fails s e
      | .ok (s, r) =>
        match r.word with
        | none => s.unclaim c t blk (if r.full then 0x0203 else 0) r.count t0
        | some w => s.modCmd c.id fun c => { c with consumed := true, count := r.count, tc := max t0 r.t, scales := [(0, w)] }

/-- Starts a maintenance command; the time of its first try is kept for BUSY. -/
def State.maintain (s : State) (k opc : Nat) (more : Cmd → List (Nat × Nat × Bool))
    (body : State → Cmd → Team → Nat → Geom → Envelope → Except AttnStop (State × Closing)) : State :=
  let s := match s.cmd? k with
    | some c => if c.state == CmdState.queued then s.modCmd k fun c => { c with at_ := s.gtime c.die } else s
    | none => s
  s.startCmd k opc (fun c _ => maintFields c (more c)) (fun _ _ => []) (State.maintRun body)

def State.kapp (s : State) (k : Nat) : State :=
  s.maintain k 0x21 (fun c => [(32, 8, false), (40, 8, false), (48, 1, c.u 48 1 == 255), (49, 1, c.u 49 1 == 255)]) State.kappBody
def State.kreq (s : State) (k : Nat) : State := s.maintain k 0x22 (fun _ => [(32, 1, false), (33, 1, false)]) State.kreqBody
def State.krot (s : State) (k : Nat) : State := s.maintain k 0x23 (fun _ => [(32, 4, false), (40, 8, false)]) State.krotBody
def State.ksum (s : State) (k : Nat) : State := s.maintain k 0x24 (fun _ => []) State.ksumBody
def State.ktrunc (s : State) (k : Nat) : State := s.maintain k 0x25 (fun _ => [(32, 2, false)]) State.ktruncBody

/-- BLOCK_CLAIM_RETRY: the claim is tried again (R291). -/
def State.claimRetry (s : State) (k : Nat) : State :=
  match s.cmd? k with
  | some c =>
    if c.claimed || c.state != .running then s
    else match c.opc with
      | 0x21 => s.kapp k
      | 0x22 => s.kreq k
      | 0x23 => s.krot k
      | 0x24 => s.ksum k
      | 0x25 => s.ktrunc k
      | _ => s
  | none => s

/-- MAINTENANCE_BUSY: a block that could not be claimed within 2^24 ticks (R392). -/
def State.maintenanceBusy (s : State) (k : Nat) : State :=
  match s.cmd? k with
  | some c =>
    match s.team? c.team with
    | some t =>
      if c.state == .running && c.cls == 2 && decide (0x21 ≤ c.opc ∧ c.opc ≤ 0x25) && !c.claimed && decide (c.at_ + 2 ^ 24 ≤ s.gtime c.die) then
        s.cmdError c t 0x0205 0 0
      else s
    | none => s
  | none => s

/-! ## ATTN: its operands and cursor (R294, R295, R303) -/

def Cmd.nq (c : Cmd) : Nat := c.u 16 4 / 65536 % 16 + 1
def Cmd.nb (c : Cmd) : Nat := c.u 20 4
def Cmd.scaleC (c : Cmd) : Word := BitVec.ofNat 32 (c.u 40 4)
def Cmd.tol (c : Cmd) : Word := BitVec.ofNat 32 (c.u 44 4)
def Cmd.rsm (c : Cmd) : Bool := fieldLe c.bytes 1 1 / 4 % 2 == 1
def Cmd.pol (c : Cmd) : Bool := fieldLe c.bytes 1 1 / 8 % 2 == 1
def Cmd.obf (c : Cmd) : Bool := fieldLe c.bytes 1 1 / 16 % 2 == 1

/-- The body fields of ATTN (R294, R392). -/
def attnFields (c : Cmd) : List (Nat × Nat × Bool) :=
  let cv := decF32 c.scaleC
  let tv := decF32 c.tol
  [(16, 4, geomBad (c.u 16 4) true), (20, 4, decide (65536 < c.nb)), (24, 8, false), (32, 8, false),
   (40, 4, cv.isNan || cv.isZero || cv.isNeg || (match cv with | .inf _ => true | _ => false)), (44, 4, tv.isNan || (tv.isNeg && !tv.isZero)),
   (48, 8, false), (56, 8, false)]

/-- The cursor's header (R303). -/
def cursorHead (c : Cmd) (st : AttnState) : List Byte :=
  padTo 64 (toLe 1 st.phase ++ toLe 1 c.nq ++ toLe 2 0 ++ toLe 4 c.nb ++ toLe 4 st.k ++ toLe 4 st.bdone ++ toLe 4 st.u0.toNat
    ++ toLe 4 st.tol.toNat ++ toLe 4 (c.u 16 4) ++ toLe 4 (c.u 40 4) ++ toLe 8 (c.addr 24) ++ toLe 8 (c.addr 48))

/-- The cursor's words after its header. -/
def cursorBody (st : AttnState) : List Word :=
  (List.range st.m.length).flatMap (fun q => [st.m.getD q 0, st.l.getD q 0, st.r.getD q 0]) ++ st.o.flatMap id

/-- The cursor is written. -/
def State.putCursor (s : State) (c : Cmd) (t : Team) (st : AttnState) : Except AttnStop (State × Nat) := do
  needAlign (c.addr 56) 64 56
  s.seqPut c t (c.addr 56) 56 (wordsOf (cursorHead c st) ++ cursorBody st)

/-- The state that ATTN starts with. -/
def attnStart (c : Cmd) (q : List (List Nat)) : AttnState :=
  let n := c.nq
  { phase := 1, k := 0, bdone := 0, u0 := 0xFF800000, tol := c.tol, q := q, m := List.replicate n 0xFF800000, l := List.replicate n 0,
    r := List.replicate n 0x7F800000, o := List.replicate n (List.replicate c.geom.d 0), pos := 0, tries := 0, since := 0 }

/-- The query rows. -/
def State.queries (s : State) (c : Cmd) (t : Team) : Nat → Except AttnStop (State × (List (List Nat)))
  | 0 => .ok (s, [])
  | n + 1 => do
    let (s, rest) ← s.queries c t n
    let (s, ws) ← s.seqWords c t (c.addr 32 + 2 * c.geom.d * n) 32 (c.geom.d / 2)
    pure (s, rest ++ [rowCodes 2 c.geom.d ws])

/-! ## Faults and halts (R302, R306, R392) -/

/-- Whether the fault policy is RETURN; without feature 6 it always is (R348). -/
def State.returns (s : State) (c : Cmd) : Bool := c.pol || !s.dev.accept.getLsbD 6

def Cmd.keep (s : State) (c : Cmd) (st : AttnState) : State := s.modCmd c.id fun c => { c with attn := some st }

/-- The phase that a cursor shows for a fault or an unstable block, and the state to go on from: a recapture is redone
from K (R306). -/
def AttnState.discarded (st : AttnState) : AttnState :=
  if st.phase = 3 then { st with pos := st.k } else st

/-- A failed access of ATTN: the cursor is written, and the command waits or completes by its policy (R306, R392); a failure
of another class ends it. -/
def State.attnFault (s : State) (c : Cmd) (t : Team) (st : AttnState) (r : UnitRes) : State :=
  match r with
  | .xlate va d off =>
    let st := st.discarded
    let s := Cmd.keep s c st
    match s.putCursor c t st with
    | .ok (s, w) =>
      let s := s.modCmd c.id fun c => { c with tc := max c.tc w }
      if s.returns c then
        ((s.record (c.record t 0x0201 0 c.staddr (64 + d / 4 * 4 + 3)) 0).cmdEnds c.id 0x0202 st.phase st.k)
      else s.cmdWaits c t va d off 0
    | .error (.fault (.xlate va d off)) =>
      if s.returns c then
        (s.record (c.record t 0x0201 0 c.staddr (64 + d / 4 * 4 + 3)) 0).cmdError c t 0x0111 off st.k
      else s.cmdWaits c t va d off 0
    | .error (.fault r) => s.cmdFails c t r st.k
    | .error _ => s
  | r => s.cmdFails c t r st.k

/-- ATTN halts with its cursor written. -/
def State.attnHalts (s : State) (c : Cmd) (t : Team) (st : AttnState) (finish : State → State) : State :=
  match s.putCursor c t st with
  | .ok (s, w) => finish ((Cmd.keep s c st).modCmd c.id fun c => { c with tc := max c.tc w })
  | .error (.fault r) => s.attnFault c t st r
  | .error _ => s

/-- What a step of ATTN stopped at. -/
def State.attnStops (s : State) (c : Cmd) (t : Team) (st : AttnState) (e : AttnStop) : State :=
  match e with
  | .fault r => s.attnFault c t st r
  | .unstable => Cmd.keep s c { st with tries := st.tries + 1, since := if st.tries = 0 then s.gtime c.die else st.since }
  | .stale s => s.attnHalts c t { st with phase := 3 } fun s => s.cmdEnds c.id 0x0201 (st.k % 65536) st.k

/-! ## Phase B and phase S (R298) -/

/-- The address of the block that a list entry names. -/
def State.listEntry (s : State) (c : Cmd) (t : Team) (i : Nat) : Except AttnStop (State × Nat) := do
  needAlign (c.addr 24) 8 24
  let (s, ws) ← s.seqWords c t (c.addr 24 + 8 * i) 24 2
  let blk := fieldLe (bytesOf ws) 0 8 % 2 ^ 56
  needAlign blk 128 24
  pure (s, blk)

/-- A work entry: U, S, IDX, CN and CV (R295). -/
structure WorkEntry where
  u   : Word
  sum : Word
  idx : Nat
  cn  : Nat
  cv  : Nat
  deriving DecidableEq, Repr

def WorkEntry.words (e : WorkEntry) : List Word := [e.u, e.sum, BitVec.ofNat 32 e.idx, BitVec.ofNat 32 (e.cn + 65536 * e.cv)]

def State.workEntry (s : State) (c : Cmd) (t : Team) (k : Nat) : Except AttnStop (State × WorkEntry) := do
  needAlign (c.addr 48) 16 48
  let (s, ws) ← s.seqWords c t (c.addr 48 + 16 * k) 48 4
  let b := bytesOf ws
  pure (s, { u := ws.getD 0 0, sum := ws.getD 1 0, idx := fieldLe b 8 4, cn := fieldLe b 12 2, cv := fieldLe b 14 2 })

def State.putEntry (s : State) (c : Cmd) (t : Team) (k : Nat) (e : WorkEntry) : Except AttnStop (State × Nat) := do
  needAlign (c.addr 48) 16 48
  s.seqPut c t (c.addr 48 + 16 * k) 48 e.words

/-- A stable envelope (R297); a block that is held, or whose VER is odd, gives none (R392; log entry 58). -/
def State.stableEnv (s : State) (c : Cmd) (t : Team) (blk : Nat) : Except AttnStop (State × Envelope) := do
  let (s, e) ← s.readEnv c t blk 24 c.geom
  if e.ver % 2 = 1 || e.lk == 1 then .error .unstable else pure (s, e)

/-- The first two words of an envelope that is stable, with no bounds: what a visit needs where the version has not moved (R300). -/
def State.stableHead (s : State) (c : Cmd) (t : Team) (blk : Nat) : Except AttnStop (State × Envelope) := do
  let (s, ws) ← s.seqWords c t blk 24 2
  let e := envOf c.geom ws
  if e.ver % 2 = 1 || e.lk == 1 then .error .unstable else pure (s, e)

/-- The capture of one entry. -/
def State.capture (s : State) (c : Cmd) (t : Team) (st : AttnState) : Except AttnStop (State × Nat) := do
  let (s, idx) ← if st.phase = 1 then pure (s, st.pos) else (s.workEntry c t st.pos).map fun r => (r.1, r.2.idx)
  let (s, blk) ← s.listEntry c t idx
  let (s, e) ← s.stableEnv c t blk
  s.putEntry c t st.pos { u := blockBound c.geom c.scaleC e st.q, sum := 0, idx := idx, cn := e.n, cv := e.ver }

/-- All work entries from `k` on. -/
def State.workEntries (s : State) (c : Cmd) (t : Team) (k : Nat) : Nat → Except AttnStop (State × (List WorkEntry))
  | 0 => .ok (s, [])
  | n + 1 => do
    let (s, rest) ← s.workEntries c t k n
    let (s, e) ← s.workEntry c t (k + n)
    pure (s, rest ++ [e])

/-- The order of phase S: falling U, then rising IDX. -/
def WorkEntry.before (x y : WorkEntry) : Bool :=
  match (decF32 x.u).cmp (decF32 y.u) with
  | some .gt => true
  | some .lt => false
  | _ => decide (x.idx ≤ y.idx)

/-- The sums of phase S, from the last entry back. -/
def sums (u0 : Word) : List WorkEntry → List WorkEntry
  | [] => []
  | e :: rest =>
    let rest := sums u0 rest
    let next := match rest with | r :: _ => r.sum | [] => 0
    let term := if e.cn = 0 then 0 else bMul (bnd (Val.ofInt e.cn)) (expu (bSub e.u u0))
    { e with sum := bAdd next term } :: rest

/-- Phase S over the entries from `k` on, against `u0`, or against the first entry's U. -/
def State.phaseS (s : State) (c : Cmd) (t : Team) (k : Nat) (u0 : Option Word) : Except AttnStop (State × (Word × Nat)) := do
  let (s, es) ← s.workEntries c t k (c.nb - k)
  let es := sortBy (fun x y => x.before y) es
  let u := u0.getD ((es.head?.map (·.u)).getD 0xFF800000)
  let (s, w) ← s.seqPut c t (c.addr 48 + 16 * k) 48 ((sums u es).flatMap (·.words))
  pure (s, (u, w))

/-- Captures entries from where the state stands, one after another, as far as they go. -/
def State.captures (c : Cmd) (t : Team) : Nat → State → AttnState → State × AttnState × Option AttnStop
  | 0, s, st => (s, st, none)
  | n + 1, s, st =>
    if c.nb ≤ st.pos then (s, st, none)
    else
      match s.capture c t st with
      | .error e => (s, st, some e)
      | .ok (s, w) =>
        let st := { st with pos := st.pos + 1, bdone := if st.phase = 1 then st.pos + 1 else st.bdone, tries := 0 }
        State.captures c t n (s.modCmd c.id fun c => { c with tc := max c.tc w }) st

/-! ## Finishing (R301) -/

/-- Where the outputs start after OUT. -/
def Cmd.outAt (c : Cmd) : Nat := (64 + 12 * c.nq + 4 * c.geom.d * c.nq + 63) / 64 * 64

/-- An output element. -/
def outElem (obf : Bool) (o l : Word) : Nat :=
  let v := if (decF32 l).isZero then .fin false 0 0 else (decF32 o).div (decF32 l)
  if obf then bf16.enc .rne false v else (encF32 v).toNat

/-- The outputs as words. -/
def outputs (obf : Bool) (st : AttnState) : List Word :=
  wordsOf ((List.range st.o.length).flatMap fun q => (st.o.getD q []).flatMap fun o => toLe (if obf then 2 else 4) (outElem obf o (st.l.getD q 0)))

/-- The outputs, then the cursor, then the end of the body. -/
def State.attnFinish (s : State) (c : Cmd) (t : Team) (st : AttnState) : State :=
  let st := { st with phase := 4 }
  match (do needAlign (c.addr 56) 64 56; s.seqPut c t (c.addr 56 + c.outAt) 56 (outputs c.obf st)) with
  | .error (.fault r) => s.attnFault c t st r
  | .error _ => s
  | .ok (s, w) => (s.modCmd c.id fun c => { c with tc := max c.tc w }).attnHalts c t st fun s => s.cmdEnds c.id 0 0 st.k

/-- Every capture is done: phase S, and phase V begins, or ends where there is no block. -/
def State.attnSorted (s : State) (c : Cmd) (t : Team) (st : AttnState) : State :=
  let fresh := st.phase == 1 || st.k == 0
  match s.phaseS c t (if fresh then 0 else st.k) (if fresh then none else some st.u0) with
  | .error (.fault r) => s.attnFault c t st r
  | .error _ => s
  | .ok (s, (u, w)) =>
    let s := s.modCmd c.id fun c => { c with tc := max c.tc w }
    let st := { st with phase := 2, u0 := u, bdone := c.nb }
    if c.nb = 0 then s.attnFinish c t { st with r := st.r.map fun _ => 0 } else Cmd.keep s c st

/-- Phase B and phase S as far as they go. -/
def State.attnCapture (s : State) (c : Cmd) (t : Team) (st : AttnState) : State :=
  match State.captures c t (c.nb - st.pos) s st with
  | (s, st, none) => s.attnSorted c t st
  | (s, st, some e) => (Cmd.keep s c st).attnStops c t st e

/-! ## Starting and resuming (R305, R392) -/

/-- A cursor as a resumption reads it: its state, or CURSOR. -/
def State.readCursor (s : State) (c : Cmd) (t : Team) : Except AttnStop (State × (Option AttnState)) := do
  needAlign (c.addr 56) 64 56
  let d := c.geom.d
  let (s, hw) ← s.seqWords c t (c.addr 56) 56 16
  let b := bytesOf hw
  let phase := fieldLe b 0 1
  let k := fieldLe b 8 4
  let bdone := fieldLe b 12 4
  if fieldLe b 24 4 ≠ c.u 16 4 ∨ fieldLe b 4 4 ≠ c.nb ∨ fieldLe b 32 8 ≠ c.addr 24 ∨ fieldLe b 40 8 ≠ c.addr 48 ∨ fieldLe b 28 4 ≠ c.u 40 4
      ∨ phase = 0 ∨ 4 < phase ∨ c.nb < k ∨ c.nb < bdone ∨ (bdone < c.nb ∧ phase ≠ 1) then pure (s, none)
  else
    let (s, ws) ← s.seqWords c t (c.addr 56 + 64) 56 (3 * c.nq + d * c.nq)
    let part := fun i => (List.range c.nq).map fun q => ws.getD (3 * q + i) 0
    let o := (List.range c.nq).map fun q => (ws.drop (3 * c.nq + d * q)).take d
    pure (s, some { attnStart c [] with phase := phase, k := k, bdone := bdone, u0 := BitVec.ofNat 32 (fieldLe b 16 4), m := part 0, l := part 1,
                                        r := part 2, o := o })

/-- ATTN goes on from a state. -/
def State.attnGoes (s : State) (c : Cmd) (t : Team) (st : AttnState) : State :=
  match st.phase with
  | 1 => s.attnCapture c t st
  | 3 => s.attnCapture c t st
  | 4 => s.attnFinish c t st
  | _ => s

/-- Where a resumption starts from its cursor's PHASE (R305). -/
def AttnState.resumed (st : AttnState) (nb : Nat) : AttnState :=
  match st.phase with
  | 1 => { st with pos := st.bdone, k := 0 }
  | 3 => if st.k = 0 then { st with phase := 1, bdone := 0, pos := 0 } else { st with pos := st.k }
  | 4 => if st.k < nb then { st with phase := 2 } else st
  | _ => st

/-- ATTN starts: its queries are read, and the cursor that it resumes. -/
def State.attnBegin (s : State) (c : Cmd) (t : Team) : State :=
  let first : Except AttnStop (State × (Option AttnState)) := do
    let (s, st) ← if c.rsm then s.readCursor c t else pure (s, some (attnStart c []))
    match st with
    | none => pure (s, none)
    | some st =>
      let (s, q) ← s.queries c t c.nq
      pure (s, some { st with q := q })
  match first with
  | .error (.fault r) =>
    (match r, c.rsm with
      | .xlate va d off, true =>
        if !s.returns c then s.cmdWaits c t va d off 0
        else (match off, s.readCursor c t with
          | 32, .ok (s, some st) => s.attnFault c t st r
          | _, _ => (s.record (c.record t 0x0201 0 c.staddr (64 + d / 4 * 4 + 3)) 0).cmdError c t 0x0111 off 0)
      | r, false => (s.attnFault c t (attnStart c []) r).modCmd c.id fun c => { c with attn := none }
      | r, true => s.cmdFails c t r 0)
  | .error _ => s
  | .ok (s, none) => s.cmdError c t 0x0206 0 0
  | .ok (s, some st) =>
    let st := if c.rsm then { st with tol := c.tol }.resumed c.nb else st
    (Cmd.keep s c st).attnGoes c t st

/-- ATTN: phases B and S. -/
def State.attn (s : State) (k : Nat) : State :=
  s.startCmd k 0x20 (fun c _ => attnFields c) (fun _ _ => []) fun s c t =>
    match c.attn with
    | none => s.attnBegin c t
    | some st => s.attnGoes c t st

/-! ## Visits (R299, R300) -/

/-- R_q before visit k (R299). -/
def restOf (sum u0 m l : Word) : Word :=
  if (decF32 sum).isZero then 0 else bDiv (bMul sum (expu (bSub u0 m))) l

/-- One query through one block (R300). -/
def visitQuery (g : Geom) (c : Word) (q : List Nat) (keys values : List (List Val)) (m l : Word) (o : List Word) : Word × Word × List Word :=
  let qv := fun i => bf16.dec (q.getD i 0)
  let scores := keys.map fun key => encF32 ((decF32 c).mul (decF32 (fpOut 16 g.d 0 qv fun i => key.getD i .nan)))
  let top := scores.foldl (fun x y => encF32 ((decF32 x).max (decF32 y))) m
  let a := if (decF32 m).cmp (decF32 top) == some .eq then 0x3F800000 else expn (encF32 ((decF32 m).sub .rne (decF32 top)))
  let mul := fun (x y : Word) => encF32 ((decF32 x).mul (decF32 y))
  let start := (mul l a, o.map fun x => mul x a)
  let r := (scores.zip values).foldl (fun (r : Word × List Word) e =>
    let w := expn (encF32 ((decF32 e.1).sub .rne (decF32 top)))
    (encF32 ((decF32 r.1).add .rne (decF32 w)),
     r.2.zipWith (fun x v => encF32 ((decF32 x).add .rne ((decF32 w).mul (decF32 (encF32 v))))) e.2)) start
  (top, r.1, r.2)

/-- The state after a visit. -/
def AttnState.visited (st : AttnState) (g : Geom) (c : Word) (keys values : List (List Val)) : AttnState :=
  let rs := (List.range st.q.length).map fun q =>
    visitQuery g c (st.q.getD q []) keys values (st.m.getD q 0) (st.l.getD q 0) (st.o.getD q [])
  { st with m := rs.map (·.1), l := rs.map (·.2.1), o := rs.map (·.2.2), k := st.k + 1, tries := 0 }

/-- A visit's reads: the rebound where the version has moved, then the keys and values (R300). -/
def State.visitReads (s : State) (c : Cmd) (t : Team) (st : AttnState) (e : WorkEntry) : Except AttnStop (State × (List (List Val) × List (List Val))) := do
  let (s, blk) ← s.listEntry c t e.idx
  let (s, head) ← s.stableHead c t blk
  let moved := head.ver != e.cv
  let (s, env) ← if moved then s.stableEnv c t blk else pure (s, head)
  let above := (decF32 (blockBound c.geom c.scaleC env st.q)).cmp (decF32 e.u) == some .gt
  if moved && above then .error (.stale s)
  else
    let cn := if moved then min e.cn env.n else e.cn
    let (s, w) ← if moved then s.putEntry c t st.k { e with cv := env.ver, cn := cn } else pure (s, 0)
    let s := s.modCmd c.id fun c => { c with tc := max c.tc w }
    let (s, kc) ← s.rows c t blk 24 c.geom true cn
    let (s, vc) ← s.rows c t blk 24 c.geom false cn
    pure (s, (kc.map fun r => r.map (elemVal c.geom.kf env.ksc), vc.map fun r => r.map (elemVal c.geom.vf env.vsc)))

/-- The halting test, then the visit of block k, and the finish after the last one. -/
def State.attnVisitRun (s : State) (c : Cmd) (t : Team) (st : AttnState) : State :=
  match s.workEntry c t st.k with
  | .error e => s.attnStops c t st e
  | .ok (s, e) =>
    let r := (List.range st.q.length).map fun q => restOf e.sum st.u0 (st.m.getD q 0) (st.l.getD q 0)
    let st := if st.k = 0 then st else { st with r := r }
    let low := fun (x : Word) => match (decF32 x).cmp (decF32 st.tol) with | some .gt => false | none => false | _ => true
    if 0 < st.k ∧ r.all low then s.attnFinish c t st
    else
      match s.visitReads c t st e with
      | .error e => (Cmd.keep s c st).attnStops c t st e
      | .ok (s, rows) =>
        let st := st.visited c.geom c.scaleC rows.1 rows.2
        if c.nb ≤ st.k then s.attnFinish c t { st with r := st.r.map fun _ => 0 } else Cmd.keep s c st

/-- ATTN_VISIT. -/
def State.attnVisit (s : State) (k : Nat) : State :=
  match s.startable k with
  | none => s
  | some (c, t) =>
    match c.attn with
    | some st => if c.opc = 0x20 ∧ c.state == .running ∧ st.phase = 2 then
        (if c.nb ≤ st.k then s.attnFinish c t st else s.attnVisitRun c t st) else s
    | none => s

/-- ATTN_PARK_RESUME: the page that a parked ATTN waits for is present, and it goes on (R306). -/
def State.attnParkResume (s : State) (k : Nat) : State :=
  match s.cmd? k with
  | none => s
  | some c =>
    match c.state, s.team? c.team with
    | .waiting va 0, some t =>
      if c.opc ≠ 0x20 then s
      else
        let need := if c.detail = 48 ∨ c.detail = 56 then 1 else 0
        match s.engineRes c t va 1 need 1 with
        | (s, .xlate _ _) => s
        | (s, _) => s.modCmd k fun c => { c with state := .running }
    | _, _ => s

/-- ATTN_UNSTABLE: a stable read has failed 256 times or for 2^20 ticks (R392). -/
def State.attnUnstable (s : State) (k : Nat) : State :=
  match s.startable k with
  | none => s
  | some (c, t) =>
    match c.attn with
    | some st =>
      if c.opc = 0x20 ∧ 0 < st.tries ∧ (256 ≤ st.tries ∨ st.since + 2 ^ 20 ≤ s.gtime c.die) then
        let at_ : Nat := if st.phase = 1 then st.pos
          else match s.workEntry c t (if st.phase = 3 then st.pos else st.k) with | .ok (_, e) => e.idx | .error _ => 0
        s.attnHalts c t st.discarded fun s => s.cmdError c t 0x0204 at_ st.k
      else s
    | none => s

end Sys2Proof.Machine
end

