-- ==== Sys2Proof/Machine/Collective.lean ====
section
/-!
DEFINITION. Machine/Collective.lean: the fabric as one package sees it (R310 to R313), COPYRED (R277, R314), and CPROG with
its steps (R315 to R322, R393).
-/

namespace Sys2Proof.Machine

open Sys2Proof

/-! ## Packages and transfers (R310 to R313, R403) -/

/-- The package rank of a context: the one it is bound to, or 0 (R310). -/
def State.ownRank (s : State) (ctx : Nat) : Nat :=
  match s.ctx? ctx with | some c => if c.job = 0 then 0 else c.prank | none => 0

/-- Whether a context can reach another package: it is bound to a job, and a link that is up leads there (R310, R403). -/
def State.reaches (s : State) (ctx pkg : Nat) : Bool :=
  match s.ctx? ctx with
  | some c => c.job != 0 && s.dev.links.any fun l => decide (l.1 < 24 ∧ 0 < l.2) && Config.leads l.1 c.job pkg
  | none => false

/-- The home of a peer address, translated at a bridge die through the bound context (R310); an address that fails is a PEER failure, and a
page table that cannot be read one of its own (R386, R393). -/
def State.peerRes (s : State) (ctx va n : Nat) : Except UnitRes (State × Access) :=
  let va := va % 2 ^ 56
  if isLocal va ∨ va % n ≠ 0 then .error (.code 0x0305 0)
  else match s.ctx? ctx with
    | none => .error (.code 0x0305 0)
    | some c => match s.global bridge0 none c va n 1 3 with
      | (s, .ok a) => .ok (s, a)
      | (_, .data va) => .error (.table va)
      | (_, _) => .error (.code 0x0305 0)

/-- The same, of an access that reads there, which an uncorrectable granule stops (R386). -/
def State.peerReads (s : State) (ctx va n : Nat) : Except UnitRes (State × Access) :=
  match s.peerRes ctx va n with
  | .ok (s, a) => if s.poisoned a.bytes then .error (.poison a.va) else .ok (s, a)
  | .error r => .error r

/-- The words of a plain write, each at its home, where the granules that it covers become readable; none where a word's address fails. -/
def State.peerWords (s : State) (ctx va : Nat) (done : List Nat) : List Word → Except UnitRes (State × Nat)
  | [] => .ok (s.cure done, 0)
  | w :: rest =>
    match s.peerRes ctx va 4 with
    | .error r => .error r
    | .ok (s, a) =>
      let q := s.homeWrite ctx a (toLe 4 w.toNat)
      (q.1.peerWords ctx (va + 4) (done ++ a.bytes) rest).map fun r => (r.1, max q.2 r.2)

/-- The rop of R245 that an OP byte of R276 or a type and operation of R320 name: add, min, max of I32, N32 or FP32. -/
def combineRop (type fn : Nat) : Nat :=
  match type with
  | 0 => fn
  | 1 => if fn = 0 then 0 else 2 + fn
  | _ => 8 + fn

/-- An add of a 64-bit natural at its home. -/
def State.peerAdd (s : State) (ctx va x : Nat) : Except UnitRes (State × Nat) :=
  (s.peerReads ctx va 8).map fun p =>
    let r := p.1.homeRead ctx p.2
    r.1.homeWrite ctx p.2 (toLe 8 (leNat r.2.1 + x))

/-- One combination at its home: as an atomic, or as a RED on a RED page (R277, R314). -/
def State.peerCombine (s : State) (ctx va op : Nat) (x : Word) : Except UnitRes (State × Nat) :=
  match s.peerRes ctx va 4 with
  | .error r => .error r
  | .ok (s, a) =>
    let rop := combineRop (op / 16) (op % 16)
    let pa := a.bytes.headD 0
    if a.attr.red then .ok (s.redAt ctx (homeDie pa) rop a (x.zeroExtend 64))
    else if s.poisoned a.bytes then .error (.poison a.va)
    else
      let r := s.homeRead ctx a
      .ok (r.1.homeWrite ctx a (toLe 4 (redCombine rop (BitVec.ofNat 64 (leNat r.2.1)) (x.zeroExtend 64)).toNat))

/-- What a refused reservation answers. -/
def fullRow : Nat := 2 ^ 64 - 1

/-- A reservation of rows in an area (R322), with the row and the t of USED's write, or 1 where USED is not written; `fixed` is the row that
software chose, plus 1, or 0. -/
def State.peerReserve (s : State) (ctx va nr fixed : Nat) : Except UnitRes (State × Nat × Nat) := do
  let (s, cap) ← s.peerReads ctx va 8
  let (s, bs, _) := s.homeRead ctx cap
  let limit := leNat bs
  if fixed ≠ 0 then pure (s, if limit < fixed - 1 + nr then fullRow else fixed - 1, 1)
  else
    let (s, used) ← s.peerReads ctx (va + 8) 8
    let (s, bs, _) := s.homeRead ctx used
    let row := leNat bs
    if row + nr ≤ limit then
      let q := s.homeWrite ctx used (toLe 8 (row + nr))
      pure (q.1, row, q.2)
    else pure (s, fullRow, 1)

/-- Whether a RELEASE of a context is under way (R351). -/
def State.releasing (s : State) (ctx : Nat) : Bool := match s.dev.mark with | some m => m.1 == [3, ctx] | none => false

/-- The context that serves a rank of a job: the one bound to it, until its RELEASE begins (R310, R351). -/
def State.peerCtx (s : State) (job rank : Nat) : Option Nat :=
  (s.contexts.find? fun c => c.job != 0 && c.job == job && c.prank == rank && !s.releasing c.num).map (·.num)

/-- The die at whose GTIME a release write to a peer address waits. -/
def State.peerHome (s : State) (ctx va : Nat) : Nat := match s.peerRes ctx va 4 with | .ok (_, a) => homeDie (a.bytes.headD 0) | .error _ => bridge0

/-- What a failed transfer does at its package, beside its answer: a page table that cannot be read stops the context, and an uncorrectable
granule is recorded in the context's ring, with no team of this package to end (R386; log entry 103). -/
def State.peerFails (s : State) (ctx : Nat) : UnitRes → State
  | .table va => s.stopAction { die := bridge0, cls := 0x0203, action := 7, ctx := ctx, addr := va }
  | .poison va => s.record { die := s.peerHome ctx va, cls := 0x0203, action := 5, ctx := ctx, addr := va } bitUCE
  | _ => s

/-- FABRIC_WRITE_ARRIVAL: a transfer to this package is performed and acknowledged; a release write waits for its time
(R312, R313). -/
def State.fabricArrival (s : State) (m : FabricMsg) : State :=
  let ctx := s.peerCtx m.job m.dst
  let answer := fun (s : State) (t : Nat) (data : List Byte) =>
    { s with outbox := s.outbox ++ [{ job := m.job, src := m.dst, dst := m.src, cmd := m.cmd, seq := m.seq, kind := .ack, va := 0, data := data, t := t }] }
  match ctx with
  | none => if m.kind == .ack then s else answer s 0 []
  | some c =>
    let done := fun (r : Except UnitRes (State × Nat)) => match r with | .ok (s1, t) => answer s1 t [] | .error r => answer (s.peerFails c r) 0 []
    let early := decide (s.gtime (s.peerHome c m.va) < m.t + 2)
    match m.kind with
    | .write => done (s.peerWords c m.va [] (wordsOf m.data))
    | .releaseWrite => if early then s else done (s.peerWords c m.va [] (wordsOf m.data))
    | .releaseAdd => if early then s else done (s.peerAdd c m.va (leNat m.data))
    | .combine op => done (s.peerCombine c m.va op.toNat (BitVec.ofNat 32 (leNat m.data)))
    | .reserve =>
      (match s.peerReserve c m.va (fieldLe m.data 0 8) (fieldLe m.data 8 8) with
        | .ok (s1, row, t) => answer s1 t (toLe 8 row)
        | .error r => answer (s.peerFails c r) 0 [])
    | .ack => s

/-! ## A program's state (R317 to R319) -/

/-- What a step comes to when it does not go on: a failed access, a code of R393, a wait of R319, or a release write that R313 holds, which is
no such wait. -/
inductive CollStop where
  | fault (r : UnitRes)
  | code (code detail : Nat)
  | waits
  | held
  deriving DecidableEq, Repr

def CollState.fresh : CollState :=
  { step := 0, q := [0, 0, 0, 0], loops := [⟨false, 0, 0, 0⟩, ⟨false, 0, 0, 0⟩], chans := [], steps := 0, fulls := 0, seq := 0, unacked := [],
    ackT := [], since := none, wait := .none, ending := none }

/-- A step is over and the next one is known. -/
def CollState.go (st : CollState) (next : Nat) : CollState := { st with step := next, steps := st.steps + 1, since := none, wait := .none }

def CollState.ackTime (st : CollState) (pkg : Nat) : Nat := ((st.ackT.find? fun e => e.1 == pkg).map (·.2)).getD 0

/-- A package's write has come back with its t. -/
def CollState.acked (st : CollState) (pkg t : Nat) : CollState :=
  { st with ackT := (pkg, max t (st.ackTime pkg)) :: st.ackT.filter fun e => e.1 != pkg }

def Cmd.chunk (c : Cmd) : Nat := c.u 48 4
def Cmd.nstep (c : Cmd) : Nat := c.u 52 2
def Cmd.tmo (c : Cmd) : Nat := c.u 54 2
def Cmd.nsl (c : Cmd) : Nat := c.u 56 1
def Cmd.rank (c : Cmd) : Nat := c.u 24 4
def Cmd.size (c : Cmd) : Nat := c.u 28 4

/-- Bytes that a program reads on its own package, as an access of the command. -/
def State.collRead (s : State) (c : Cmd) (t : Team) (a n align off : Nat) : Except CollStop (State × List Byte) :=
  match s.engineRead c t a n align off with
  | .ok s bs _ => .ok (s, bs)
  | .fail r => .error (.fault r)

def State.collWords (s : State) (c : Cmd) (t : Team) (a off n : Nat) : Except CollStop (State × List Word) :=
  match s.engineWords c t a off n with
  | .ok s bs _ => .ok (s, wordsOf bs)
  | .fail r => .error (.fault r)

/-- Words that it writes there, once all are known to be writable; a later release write to the own package waits for their t (R313). -/
def State.collPut (s : State) (c : Cmd) (t : Team) (st : CollState) (a off : Nat) (ws : List Word) : Except CollStop (State × CollState) :=
  match s.seqPut c t a off ws with
  | .ok (s, w) => .ok (s.modCmd c.id fun c => { c with tc := max c.tc w }, st.acked (s.ownRank t.ctx) w)
  | .error (.fault r) => .error (.fault r)
  | .error _ => .error .waits

/-- The rank table's entry: package and offset (R316). -/
def State.rankEntry (s : State) (c : Cmd) (t : Team) (r : Nat) : Except CollStop (State × Nat × Nat) :=
  (s.collRead c t (c.addr 32 + 8 * r) 8 8 32).map fun x => (x.1, fieldLe x.2 0 2, fieldLe x.2 4 4)

/-- A failed peer operation at the own package, as the step's failure: PEER where the address fails. -/
def peerStop (st : CollState) : UnitRes → CollStop
  | .code c _ => .code c st.step
  | r => .fault r

/-- A transfer of a program to a package: performed at once on its own package, else sent; none of it happens where no link
leads (R393). -/
def State.transfer (s : State) (c : Cmd) (t : Team) (st : CollState) (pkg va : Nat) (kind : FabricKind) (data : List Byte) :
    Except CollStop (State × CollState) :=
  let own := s.ownRank t.ctx
  if pkg = own then
    let r := match kind with
      | .releaseAdd => s.peerAdd t.ctx va (leNat data)
      | _ => s.peerWords t.ctx va [] (wordsOf data)
    match r with
    | .error r => .error (peerStop st r)
    | .ok (s, w) => .ok (s.modCmd c.id fun c => { c with tc := max c.tc w }, st.acked pkg w)
  else if !s.reaches t.ctx pkg then .error (.code 0x0305 st.step)
  else
    let job := match s.ctx? t.ctx with | some x => x.job | none => 0
    let m : FabricMsg := { job := job, src := own, dst := pkg, cmd := c.id, seq := st.seq, kind := kind, va := va % 2 ^ 56, data := data, t := st.ackTime pkg }
    .ok ({ s with outbox := s.outbox ++ [m] }, { st with seq := st.seq + 1, unacked := st.unacked ++ [(st.seq, pkg, st.step)] })

/-- Whether a release write may be sent to a package: everything before it there has been acknowledged, and on the own
package its time has come (R313). -/
def State.mayRelease (s : State) (t : Team) (st : CollState) (pkg va : Nat) : Bool :=
  !(st.unacked.any fun e => e.2.1 == pkg) && (pkg != s.ownRank t.ctx || decide (st.ackTime pkg + 2 ≤ s.gtime (s.peerHome t.ctx va)))

/-- An argument (R316). -/
def argOf (args : List Byte) (k : Nat) : Nat := fieldLe args (8 * k) 8 % 2 ^ 56

/-- The region of a channel in the slot area of a rank that is displaced by `boff` (R319). -/
def Cmd.region (c : Cmd) (args : List Byte) (boff ch : Nat) : Nat := argOf args 7 + boff + ch * (128 + c.nsl * c.chunk)

/-- The counts of a channel: those that the program has read as it started, or else read now. -/
def State.channel (s : State) (c : Cmd) (t : Team) (args : List Byte) (st : CollState) (ch : Nat) : Except CollStop (State × CollState × Nat × Nat) :=
  match st.chans.find? fun e => e.1 == ch with
  | some e => .ok (s, st, e.2.1, e.2.2)
  | none => do
    let (s, _, boff) ← s.rankEntry c t c.rank
    let (s, a) ← s.collRead c t (c.region args boff ch + 16) 8 8 40
    let (s, b) ← s.collRead c t (c.region args boff ch + 24) 8 8 40
    pure (s, { st with chans := st.chans ++ [(ch, leNat a, leNat b)] }, leNat a, leNat b)

def CollState.setChan (st : CollState) (ch sent taken : Nat) : CollState :=
  { st with chans := mapIf (fun e => e.1 == ch) (fun _ => (ch, sent, taken)) st.chans }

/-! ## The end of a program (R317, R393) -/

/-- SENT and TAKEN written back (R319). -/
def State.writeBack (s : State) (c : Cmd) (t : Team) (args : List Byte) (boff : Nat) (st : CollState) : List (Nat × Nat × Nat) → Except CollStop State
  | [] => .ok s
  | e :: rest => do
    let r ← s.collPut c t st (c.region args boff e.1 + 16) 40 (wordsOf (toLe 8 e.2.1 ++ toLe 8 e.2.2))
    r.1.writeBack c t args boff st rest

/-- The command of a program that has ended: with the error record of a code of R393; a failed access has had its own. -/
def State.collOver (s : State) (c : Cmd) (t : Team) (st : CollState) (code detail : Nat) : State :=
  if code = 0 then s.cmdEnds c.id 0 (min st.fulls 65535) st.steps
  else if 0x0301 ≤ code then s.cmdError c t code detail st.steps
  else s.cmdEnds c.id code detail st.steps

/-- A program that ends completes once its remote writes are acknowledged and SENT and TAKEN are written back (R317, R319, R393). -/
def State.collClose (s : State) (k : Nat) : State :=
  match s.cmd? k with
  | none => s
  | some c =>
    match s.team? c.team, c.coll with
    | some t, some st =>
      match st.ending with
      | none => s
      | some (code, detail) =>
        if !st.unacked.isEmpty || c.state != .running then s
        else
          let back : Except CollStop State := do
            if st.chans.isEmpty then pure s
            else
              let (s, args) ← s.collRead c t (c.addr 40) 64 64 40
              let (s, _, boff) ← s.rankEntry c t c.rank
              s.writeBack c t args boff st st.chans
          match back with
          | .error (.fault r) => if code = 0 || r.waits then s.cmdFails c t r st.steps else s.collOver c t st code detail
          | .error _ => s
          | .ok s => s.collOver c t st code detail
    | _, _ => s

def State.collEnds (s : State) (c : Cmd) (st : CollState) (code detail : Nat) : State :=
  (s.modCmd c.id fun c => { c with coll := some { st with ending := some (code, detail), wait := .none } }).collClose c.id

/-- A program whose access has failed for good, or whose wait RESOLVE ends with XLATE; one that had ended keeps its code. -/
def State.collStops (s : State) (c : Cmd) (st : CollState) (code detail : Nat) : State :=
  match st.ending with
  | some (0, _) => s.cmdEnds c.id code detail st.steps
  | some (own, x) => (match s.team? c.team with | some t => s.collOver c t st own x | none => s)
  | none => (s.modCmd c.id fun c => { c with state := .running }).collEnds c st code detail

/-- A program takes the failure of an access: it waits, or it ends with the access's code, and not before SENT and TAKEN are written back
(R319, R393). -/
def State.collFails (s : State) (c : Cmd) (t : Team) (st : CollState) (r : UnitRes) : State :=
  let s := s.cmdFails c t r st.steps
  match s.cmd? c.id with
  | some d => if d.state == .performed then s.collStops d st d.code d.detail else s
  | none => s

/-! ## Steps (R318) -/

/-- Fields of a step. -/
abbrev StepBytes := List Byte
def StepBytes.op (b : StepBytes) : Nat := fieldLe b 0 1
def StepBytes.bits (b : StepBytes) (i lo n : Nat) : Nat := fieldLe b i 1 / 2 ^ lo % 2 ^ n
def StepBytes.q (b : StepBytes) : Nat := b.bits 1 3 2
def StepBytes.c (b : StepBytes) : Nat := b.bits 1 0 3
def StepBytes.x (b : StepBytes) : Nat := b.bits 2 3 3
def StepBytes.b (b : StepBytes) : Nat := b.bits 2 0 3
def StepBytes.flag (b : StepBytes) : Bool := b.bits 3 6 1 == 1
def StepBytes.x2 (b : StepBytes) : Nat := b.bits 3 3 3
def StepBytes.b2 (b : StepBytes) : Nat := b.bits 3 0 3
def StepBytes.off (b : StepBytes) : Int := sx 32 (fieldLe b 4 4)
def StepBytes.len (b : StepBytes) : Nat := fieldLe b 8 4
def StepBytes.val (b : StepBytes) : Nat := fieldLe b 8 8
def StepBytes.fn (b : StepBytes) : Nat := fieldLe b 12 1
def StepBytes.ovf (b : StepBytes) : Nat := fieldLe b 14 2
def StepBytes.nr (b : StepBytes) : Nat := b.fn + 256 * fieldLe b 13 1

/-- Whether a step breaks the layout of R318 or a limit of its own (R320, R322). -/
def StepBytes.bad (b : StepBytes) (chunk : Nat) : Bool :=
  let zero := fun (i n : Nat) => fieldLe b i n == 0
  let noQ := b.q == 0
  let noC := b.c == 0
  let noX := b.x == 0 && b.b == 0
  let noX2 := b.x2 == 0 && b.b2 == 0
  let noFlag := !b.flag
  let lenOk := b.len % 4 == 0 && decide (b.len ≤ chunk)
  let offOk := fieldLe b 4 4 % 4 == 0
  let fixedOk := b.bits 1 5 3 == 0 && b.bits 2 6 2 == 0 && b.bits 3 7 1 == 0 && offOk
  let ok := match b.op with
    | 1 => lenOk && noX2 && noFlag && zero 12 4
    | 2 => lenOk && noX2 && noFlag && zero 12 4
    | 3 => lenOk && noX2 && noFlag && decide (b.fn % 16 ≤ 3 ∧ b.fn / 16 ≤ 2) && decide (fieldLe b 13 1 < 128) && zero 14 2
    | 4 => lenOk && noQ && noC && noFlag && zero 12 4
    | 5 => noQ && noC && noX2 && noFlag
    | 6 => noC && noX2 && noFlag
    | 7 => decide (b.c ≤ 1) && noQ && noX && noX2 && noFlag && zero 4 4 && decide (b.fn ≤ 1) && zero 13 3
    | 8 => decide (b.c ≤ 1) && noQ && noX && noX2 && noFlag && zero 4 12
    | 9 => noC && b.b == 0 && b.b2 == 0 && zero 4 4 && decide (b.fn ≤ 2) && zero 13 3
    | 10 => noC && b.x2 == 0 && lenOk && decide (1 ≤ b.nr)
    | 11 => noQ && noC && noX && noX2 && noFlag && zero 4 12
    | _ => false
  !(fixedOk && ok)

/-- The length of a step in bytes. -/
def StepBytes.bytes (b : StepBytes) (chunk : Nat) : Nat := if b.len = 0 then chunk else b.len

/-- An index source (R317). -/
def CollState.source (st : CollState) (rank i : Nat) : Nat :=
  match i with
  | 0 => 0
  | 5 => (st.loops.getD 0 ⟨false, 0, 0, 0⟩).value
  | 6 => (st.loops.getD 1 ⟨false, 0, 0, 0⟩).value
  | 7 => rank
  | i => st.q.getD (i - 1) 0

/-- The buffer address of a step, through an argument and an index source (R318). -/
def CollState.address (st : CollState) (c : Cmd) (args : List Byte) (b : StepBytes) (arg src : Nat) : Nat :=
  addrPlus (argOf args arg) (((st.source c.rank src * c.chunk : Nat) : Int) + b.off)

/-- What a step needs: the command, the team, the program's state, the step's bytes and the arguments. -/
structure StepEnv where
  c    : Cmd
  t    : Team
  st   : CollState
  b    : StepBytes
  args : List Byte

def StepEnv.addr (e : StepEnv) : Nat := e.st.address e.c e.args e.b e.b.b e.b.x

abbrev StepRes := Except CollStop (State × CollState)

/-- A step of operation `op` runs where the program stands at one (R317, R318, R393). -/
def State.stepEvent (s : State) (k op : Nat) (run : State → StepEnv → StepRes) : State :=
  match s.startable k with
  | none => s
  | some (c, t) =>
    match c.coll with
    | none => s
    | some st =>
      if c.opc ≠ 0x30 ∨ st.ending.isSome ∨ st.wait = .start ∨ c.state != .running then s
      else if c.nstep ≤ st.step then s.collEnds c st 0x0302 st.step
      else
        let env : Except CollStop (State × StepEnv) := do
          let (s, b) ← s.collRead c t (c.addr 16 + 16 * st.step) 16 16 16
          let (s, args) ← s.collRead c t (c.addr 40) 64 64 40
          pure (s, { c := c, t := t, st := st, b := b, args := args })
        match env with
        | .error (.fault r) => s.collFails c t st r
        | .error _ => s
        | .ok (s, e) =>
          if StepBytes.bad e.b c.chunk then s.collEnds c st 0x0303 st.step
          else if StepBytes.op e.b ≠ op then s
          else match run s e with
            | .error (.fault r) => s.collFails c t st r
            | .error (.code code detail) => s.collEnds c st code detail
            | .error .waits => s.modCmd k fun c => { c with coll := some { st with since := some (st.since.getD (s.gtime c.die)) } }
            | .error .held => s.modCmd k fun c => { c with coll := some { st with since := none } }
            | .ok (s, st) =>
              let s := s.modCmd k fun c => { c with coll := some st }
              if st.ending.isSome then s.collClose k
              else if c.nstep ≤ st.step then s.collEnds c st 0x0302 st.step
              else s

/-- The peer that a register names, if it names a rank. -/
def CollState.peer (st : CollState) (size q : Nat) : Option Nat :=
  let r := st.q.getD q 0
  if r < size then some r else none

/-! ## The slot protocol (R319, R320) -/

/-- The sending of bytes, up to the release write of TAIL. -/
def State.sendBytes (s : State) (e : StepEnv) (st : CollState) (ch rank : Nat) (data : List Byte) : StepRes := do
  let (s, st, sent, _) ← s.channel e.c e.t e.args st ch
  let (s, _, own) ← s.rankEntry e.c e.t e.c.rank
  let (s, rh) ← s.collRead e.c e.t (e.c.region e.args own ch + 8) 8 8 40
  let rhead := leNat rh
  if sent < rhead then .error (.code 0x0304 ch)
  else if e.c.nsl ≤ sent - rhead then .error .waits
  else
    let (s, pkg, boff) ← s.rankEntry e.c e.t rank
    let slot := e.c.region e.args boff ch + 128 + sent % e.c.nsl * e.c.chunk
    let (s, st) ← s.transfer e.c e.t st pkg slot .write data
    pure (s, { st with wait := .tail ch rank (sent + 1), since := none })

/-- The release write of TAIL that ends a send. -/
def State.sendTail (s : State) (e : StepEnv) (ch rank n : Nat) : StepRes := do
  let (s, pkg, boff) ← s.rankEntry e.c e.t rank
  let tail := e.c.region e.args boff ch
  if !s.mayRelease e.t e.st pkg tail then .ok (s, e.st)
  else
    let (s, st) ← s.transfer e.c e.t e.st pkg tail .releaseWrite (toLe 8 n)
    pure (s, { st with chans := mapIf (fun x => x.1 == ch) (fun x => (ch, n, x.2.2)) st.chans }.go (st.step + 1))

/-- The bytes of the next slot of a channel, with the notice to its sender. -/
def State.receive (s : State) (e : StepEnv) (ch rank len : Nat) : Except CollStop (State × CollState × List Byte) := do
  let (s, st, sent, taken) ← s.channel e.c e.t e.args e.st ch
  let (s, _, own) ← s.rankEntry e.c e.t e.c.rank
  let base := e.c.region e.args own ch
  let (s, tl) ← s.collRead e.c e.t base 8 8 40
  let tail := leNat tl
  let (s, pkg, boff) ← s.rankEntry e.c e.t rank
  let notice := e.c.region e.args boff ch + 8
  if taken < tail ∧ e.c.nsl < tail - taken then .error (.code 0x0304 ch)
  else if tail ≤ taken then .error .waits
  else if !s.mayRelease e.t st pkg notice then .error .held
  else
    let (s, ws) ← s.collWords e.c e.t (base + 128 + taken % e.c.nsl * e.c.chunk) 40 (len / 4)
    let (s, st) ← s.transfer e.c e.t st pkg notice .releaseWrite (toLe 8 (taken + 1))
    pure (s, st.setChan ch sent (taken + 1), bytesOf ws)

def State.collSend (s : State) (k : Nat) : State := s.stepEvent k 1 fun s e =>
  match e.st.peer e.c.size (StepBytes.q e.b), e.st.wait with
  | none, _ => .ok (s, e.st.go (e.st.step + 1))
  | some _, .tail ch rank n => s.sendTail e ch rank n
  | some r, _ => do
    let (s, ws) ← s.collWords e.c e.t e.addr 40 (StepBytes.bytes e.b e.c.chunk / 4)
    s.sendBytes e e.st (StepBytes.c e.b) r (bytesOf ws)

def State.collRecv (s : State) (k : Nat) : State := s.stepEvent k 2 fun s e =>
  match e.st.peer e.c.size (StepBytes.q e.b) with
  | none => .ok (s, e.st.go (e.st.step + 1))
  | some r => do
    let len := StepBytes.bytes e.b e.c.chunk
    match s.writable e.c e.t e.addr 40 (len / 4) with
    | .error (.fault f) => .error (.fault f)
    | _ =>
      let (s, st, bs) ← s.receive e (StepBytes.c e.b) r len
      let (s, st) ← s.collPut e.c e.t st e.addr 40 (wordsOf bs)
      pure (s, st.go (st.step + 1))

/-- One element of RRS (R320). -/
def combineElem (fn : Nat) (x y : Word) : Word :=
  if fn % 16 = 3 then y else (redCombine (combineRop (fn / 16) (fn % 16)) (x.zeroExtend 64) (y.zeroExtend 64)).extractLsb' 0 32

def State.collRrs (s : State) (k : Nat) : State := s.stepEvent k 3 fun s e =>
  let nsend := StepBytes.bits e.b 13 6 1 == 1
  let keep := StepBytes.bits e.b 13 5 1 == 1
  let q2 := e.st.peer e.c.size (StepBytes.bits e.b 13 3 2)
  let len := StepBytes.bytes e.b e.c.chunk
  match e.st.peer e.c.size (StepBytes.q e.b), e.st.wait with
  | none, _ => .ok (s, e.st.go (e.st.step + 1))
  | some _, .tail ch rank n => s.sendTail e ch rank n
  | some _, .sendOn z => (match q2 with
    | some r => s.sendBytes e e.st (StepBytes.bits e.b 13 0 3) r z
    | none => .ok (s, e.st.go (e.st.step + 1)))
  | some r, _ => do
    match if keep then s.writable e.c e.t e.addr 40 (len / 4) else .ok () with
    | .error (.fault f) => .error (.fault f)
    | _ =>
      let (s, old) ← if StepBytes.fn e.b % 16 = 3 then pure (s, []) else s.collWords e.c e.t e.addr 40 (len / 4)
      let (s, st, bs) ← s.receive e (StepBytes.c e.b) r len
      let y := wordsOf bs
      let z := if StepBytes.fn e.b % 16 = 3 then y else old.zipWith (combineElem (StepBytes.fn e.b)) y
      let (s, st) ← if keep then s.collPut e.c e.t st e.addr 40 z else pure (s, st)
      if nsend || q2.isNone then pure (s, st.go (st.step + 1)) else pure (s, { st with wait := .sendOn (bytesOf z), since := none })

/-! ## The other steps (R320) -/

def State.collCopy (s : State) (k : Nat) : State := s.stepEvent k 4 fun s e => do
  let (s, ws) ← s.collWords e.c e.t e.addr 40 (StepBytes.bytes e.b e.c.chunk / 4)
  let (s, st) ← s.collPut e.c e.t e.st (e.st.address e.c e.args e.b (StepBytes.b2 e.b) (StepBytes.x2 e.b)) 40 ws
  pure (s, st.go (st.step + 1))

def State.collWait (s : State) (k : Nat) : State := s.stepEvent k 5 fun s e => do
  let (s, _, boff) ← s.rankEntry e.c e.t e.c.rank
  let (s, bs) ← s.collRead e.c e.t (e.addr + boff) 8 8 40
  if leNat bs < StepBytes.val e.b then .error .waits else pure (s, e.st.go (e.st.step + 1))

def State.collNotify (s : State) (k : Nat) : State := s.stepEvent k 6 fun s e =>
  match e.st.peer e.c.size (StepBytes.q e.b) with
  | none => .ok (s, e.st.go (e.st.step + 1))
  | some r => do
    let (s, pkg, boff) ← s.rankEntry e.c e.t r
    if !s.mayRelease e.t e.st pkg (e.addr + boff) then .ok (s, e.st)
    else
      let (s, st) ← s.transfer e.c e.t e.st pkg (e.addr + boff) .releaseAdd (toLe 8 (StepBytes.val e.b))
      pure (s, st.go (st.step + 1))

/-- The step after the ENDLOOP that pairs with a LOOP at `i`; NSTEP where none does. -/
def State.loopEnd (s : State) (c : Cmd) (t : Team) (ctr : Nat) : Nat → Nat → Except CollStop Nat
  | 0, _ => .ok c.nstep
  | n + 1, i =>
    if c.nstep ≤ i then .ok c.nstep
    else do
      let (_, b) ← s.collRead c t (c.addr 16 + 16 * i) 16 16 16
      if StepBytes.op b = 8 ∧ StepBytes.c b = ctr then pure (i + 1)
      else if StepBytes.op b = 7 ∧ StepBytes.c b = ctr then pure c.nstep
      else s.loopEnd c t ctr n (i + 1)

def State.collLoop (s : State) (k : Nat) : State := s.stepEvent k 7 fun s e => do
  let ctr := StepBytes.c e.b
  let n : Int := sx 32 (StepBytes.len e.b) + if StepBytes.fn e.b = 1 then (e.c.size : Int) else 0
  if (e.st.loops.getD ctr ⟨false, 0, 0, 0⟩).active then .error (.code 0x0303 e.st.step)
  else if n ≤ 0 then
    let next ← s.loopEnd e.c e.t ctr e.c.nstep (e.st.step + 1)
    pure (s, { e.st with loops := setAt e.st.loops ctr fun _ => ⟨false, 0, 0, 0⟩ }.go next)
  else pure (s, { e.st with loops := setAt e.st.loops ctr fun _ => ⟨true, 0, n.toNat, e.st.step⟩ }.go (e.st.step + 1))

def State.collEndloop (s : State) (k : Nat) : State := s.stepEvent k 8 fun s e =>
  let ctr := StepBytes.c e.b
  let l := e.st.loops.getD ctr ⟨false, 0, 0, 0⟩
  if !l.active then .error (.code 0x0303 e.st.step)
  else
    let v := l.value + 1
    if v < l.count then .ok (s, { e.st with loops := setAt e.st.loops ctr fun _ => { l with value := v } }.go (l.start + 1))
    else .ok (s, { e.st with loops := setAt e.st.loops ctr fun _ => { l with value := v, active := false } }.go (e.st.step + 1))

/-- The rank that PEER computes (R320); a negated source enters XOR as 32 bits in two's complement (log entry 92). -/
def peerValue (fn size s1 s2 k : Nat) (neg : Bool) : Nat :=
  let sk := sx 32 k
  let m := fun (x : Int) => (x % (size : Int)).toNat
  match fn with
  | 0 => m ((s1 : Int) + (if neg then -(s2 : Int) else (s2 : Int)) + sk)
  | 1 => s1 ^^^ (if neg then (2 ^ 32 - s2) % 2 ^ 32 else s2) ^^^ k
  | _ => m ((size : Int) - 1 - (s1 : Int) + sk)

def State.collPeer (s : State) (k : Nat) : State := s.stepEvent k 9 fun s e =>
  let v := peerValue (StepBytes.fn e.b) e.c.size (e.st.source e.c.rank (StepBytes.x e.b)) (e.st.source e.c.rank (StepBytes.x2 e.b))
    (StepBytes.len e.b) (StepBytes.flag e.b)
  .ok (s, { e.st with q := setAt e.st.q (StepBytes.q e.b) fun _ => v }.go (e.st.step + 1))

/-! ## PUTR (R321, R322) -/

/-- The row area of a rank: its package and address. -/
def State.rowArea (s : State) (e : StepEnv) (r : Nat) : Except CollStop (State × Nat × Nat) :=
  (s.rankEntry e.c e.t r).map fun x => (x.1, x.2.1, argOf e.args (StepBytes.b2 e.b) + x.2.2)

/-- The row that software chose, plus 1; 0 for a reservation by arrival. -/
def State.fixedRow (s : State) (e : StepEnv) (r : Nat) : Except CollStop (State × Nat) :=
  if StepBytes.flag e.b then (s.collRead e.c e.t (argOf e.args 6 + 4 * r) 4 4 40).map fun x => (x.1, leNat x.2 + 1) else .ok (s, 0)

/-- Rows granted: they are written, and DONE is counted later; or FULL. -/
def State.rowsGranted (s : State) (e : StepEnv) (pkg va row : Nat) : StepRes :=
  let len := StepBytes.bytes e.b e.c.chunk
  let nr := StepBytes.nr e.b
  if row = fullRow then .ok (s, { e.st with fulls := e.st.fulls + 1 }.go (StepBytes.ovf e.b))
  else do
    let (s, ws) ← s.collWords e.c e.t e.addr 40 (nr * len / 4)
    let (s, st) ← s.transfer e.c e.t e.st pkg (va + 64 + row * len) .write (bytesOf ws)
    pure (s, { st with wait := .rows pkg va nr })

def State.collPutr (s : State) (k : Nat) : State := s.stepEvent k 10 fun s e =>
  if !StepBytes.flag e.b && s.isDet e.t then .error (.code 0x0303 e.st.step)
  else match e.st.peer e.c.size (StepBytes.q e.b), e.st.wait with
  | none, _ => .ok (s, e.st.go (e.st.step + 1))
  | some _, .rows pkg va nr =>
    if !s.mayRelease e.t e.st pkg (va + 16) then .ok (s, e.st)
    else do
      let (s, st) ← s.transfer e.c e.t e.st pkg (va + 16) .releaseAdd (toLe 8 nr)
      pure (s, st.go (st.step + 1))
  | some _, .reserve _ _ => .ok (s, e.st)
  | some r, _ => do
    let (s, pkg, va) ← s.rowArea e r
    if pkg = s.ownRank e.t.ctx then pure (s, { e.st with wait := .reserve pkg va })
    else
      let (s, fixed) ← s.fixedRow e r
      let (s, st) ← s.transfer e.c e.t e.st pkg va .reserve (toLe 8 (StepBytes.nr e.b) ++ toLe 8 fixed)
      pure (s, { st with wait := .reserve pkg va })

/-- PUTR_RESERVE: the request is performed at the home of USED, here for the own package, and elsewhere with `row` and `t` as the
answer that came back; a `t` of 0 tells of a failed address. Rows are written after the reservation (R312, R313). -/
def State.putrReserve (s : State) (k row t : Nat) : State := s.stepEvent k 10 fun s e =>
  match e.st.peer e.c.size (StepBytes.q e.b), e.st.wait with
  | some r, .reserve pkg va =>
    if pkg = s.ownRank e.t.ctx then do
      let (s, fixed) ← s.fixedRow e r
      match s.peerReserve e.t.ctx va (StepBytes.nr e.b) fixed with
      | .error r => .error (peerStop e.st r)
      | .ok (s, row, t) => (s.modCmd k fun c => { c with tc := max c.tc t }).rowsGranted { e with st := e.st.acked pkg t } pkg va row
    else
      -- the reservation's own answer is the last transfer sent
      let st := { e.st.acked pkg t with unacked := e.st.unacked.filter fun x => x.1 + 1 != e.st.seq }
      let now := s.gtime e.c.die + 1
      if !e.st.unacked.any (fun x => x.1 + 1 == e.st.seq) then .ok (s, e.st)
      else if t = 0 then .ok (s, { st with ending := some (0x0305, st.step), wait := .none })
      else (s.modCmd k fun c => { c with tc := max c.tc now }).rowsGranted { e with st := st } pkg va row
  | _, _ => .ok (s, e.st)

/-- END: the program is over (R317). -/
def State.collEnd (s : State) (k : Nat) : State := s.stepEvent k 11 fun s e =>
  .ok (s, { e.st.go (e.st.step + 1) with ending := some (0, 0) })

/-! ## CPROG, its waits and its acknowledgements -/

/-- The body fields of CPROG (R315). -/
def cprogFields (c : Cmd) : List (Nat × Nat × Bool) :=
  [(16, 8, false), (24, 4, decide (c.size ≤ c.rank)), (28, 4, decide (c.size < 1 ∨ 65536 < c.size)), (32, 8, false), (40, 8, false),
   (48, 4, decide (c.chunk % 64 ≠ 0 ∨ c.chunk < 64 ∨ 2 ^ 24 < c.chunk)), (52, 2, decide (c.nstep < 1 ∨ 4096 < c.nstep)), (54, 2, false),
   (56, 1, decide (c.nsl < 1 ∨ 16 < c.nsl))]

/-- Programs that a collective engine is serving. -/
def State.served (s : State) (engine : Nat) : Nat := (s.cmds.filter fun c => c.cls == 3 && c.die / 2 == engine && c.coll.isSome && c.state != .performed && c.state != .completed).length

/-- The channels that the step at `i` names, where the step can be read: those of SEND, RECV and RRS (R318). -/
def State.stepChannels (s : State) (c : Cmd) (t : Team) (i : Nat) : List Nat :=
  match s.collRead c t (c.addr 16 + 16 * i) 16 16 16 with
  | .error _ => []
  | .ok (_, b) =>
    let on := StepBytes.c b
    match StepBytes.op b with
    | 1 => [on]
    | 2 => [on]
    | 3 => if StepBytes.bits b 13 6 1 == 1 then [on] else [on, StepBytes.bits b 13 0 3]
    | _ => []

/-- The counts of some channels. -/
def State.readChannels (s : State) (c : Cmd) (t : Team) (args : List Byte) (st : CollState) : List Nat → Except CollStop (State × CollState)
  | [] => .ok (s, st)
  | ch :: rest => do
    let (s, st, _, _) ← s.channel c t args st ch
    s.readChannels c t args st rest

/-- A program begins with the counts of its own channels, those that its steps name (R319; log entry 93). -/
def State.collStart (s : State) (c : Cmd) (t : Team) (st : CollState) : State :=
  let chs := ((List.range c.nstep).flatMap (s.stepChannels c t)).dedup
  let counts : Except CollStop (State × CollState) := do
    if chs.isEmpty then pure (s, st)
    else
      let (s, args) ← s.collRead c t (c.addr 40) 64 64 40
      s.readChannels c t args st chs
  match counts with
  | .error (.fault r) => (s.modCmd c.id fun c => { c with coll := some st }).collFails c t st r
  | .error _ => s
  | .ok (s, st) => s.modCmd c.id fun c => { c with coll := some { st with wait := .none } }

/-- CPROG: an engine takes the program up where it serves fewer than 16 (R315), or goes on with its start or its end. -/
def State.cprog (s : State) (k : Nat) : State :=
  match s.cmd? k with
  | none => s
  | some c =>
    if c.state == .queued && decide (16 ≤ s.served (c.die / 2)) then s
    else s.startCmd k 0x30 (fun c _ => cprogFields c) (fun _ _ => []) fun s c t =>
      match c.coll with
      | some st => if st.wait = .start ∧ st.ending = none then s.collStart c t st else s.collClose k
      | none => s.collStart c t { CollState.fresh with wait := .start }

/-- The operation of the step at which a program stands. -/
def State.stepOp (s : State) (c : Cmd) (t : Team) (st : CollState) : Option Nat :=
  match s.collRead c t (c.addr 16 + 16 * st.step) 16 16 16 with
  | .ok (_, b) => some (StepBytes.op b)
  | .error _ => none

/-- SLOT_HEADER_REREAD: a waiting program reads its headers again, and goes on if it may (R319). A step that cannot be read
fails as the step does. -/
def State.slotReread (s : State) (k : Nat) : State :=
  match s.startable k with
  | none => s
  | some (c, t) =>
    match c.coll with
    | none => s
    | some st =>
      if st.since.isNone then s
      else match s.stepOp c t st with
        | none => s.collSend k
        | some 1 => s.collSend k
        | some 2 => s.collRecv k
        | some 3 => s.collRrs k
        | some _ => s

/-- CPROG_TIMEOUT (R393). -/
def State.cprogTimeout (s : State) (k : Nat) : State :=
  match s.startable k with
  | none => s
  | some (c, _) =>
    match c.coll with
    | some st => (match st.since with
      | some g => if st.ending.isNone ∧ c.tmo ≠ 0 ∧ g + 1024 * c.tmo < s.gtime c.die then s.collEnds c st 0x0301 st.step else s
      | none => s)
    | none => s

/-- An acknowledgement of a COPYRED: it completes with the last, and with PEER where one told of a failure; its COUNT leaves those elements out
(R314, R390, R403). -/
def State.copyredAck (s : State) (c : Cmd) (st : CollState) (failed : Bool) : State :=
  match s.team? c.team with
  | none => s
  | some t =>
    let st := if failed then { st with ending := some (0x0305, 44) } else st
    let s := s.modCmd c.id fun c => { c with coll := some st }
    if !st.unacked.isEmpty then s
    else match st.ending with
      | some _ => s.cmdError c t 0x0305 44 (4 * (st.steps - st.fulls))
      | none => s.cmdEnds c.id 0 0 (c.u 32 8)

/-- FABRIC_ACK: the t of a transfer comes back, or 0 where its address failed (R312, R393). -/
def State.fabricAck (s : State) (k seq value : Nat) : State :=
  match s.cmd? k with
  | none => s
  | some c =>
    match c.coll with
    | none => s
    | some st =>
      match st.unacked.find? fun e => e.1 == seq with
      | none => s
      | some (_, pkg, step) =>
        let now := s.gtime c.die + 1
        let failed := decide (value = 0)
        let st := { st.acked pkg value with unacked := st.unacked.filter fun e => e.1 != seq, fulls := if failed && c.opc == 3 then st.fulls + 1 else st.fulls }
        let s := s.modCmd k fun c => { c with coll := some st, tc := max c.tc now }
        if c.opc = 3 then s.copyredAck c st failed
        else if !failed then s.collClose k
        else match st.ending with
          | none => s.collEnds c st 0x0305 step
          | some (0, _) => s.collEnds c st 0x0305 step
          | some _ => s.collClose k

/-! ## COPYRED (R276, R277, R314) -/

/-- The body fields of COPYRED; an FP32 add is refused in a DET launch. -/
def State.copyredFields (s : State) (c : Cmd) (t : Team) : List (Nat × Nat × Bool) :=
  let op := c.u 40 1
  [(16, 8, false), (24, 8, false), (32, 8, decide (c.u 32 8 % 4 ≠ 0 ∨ 2 ^ 32 < c.u 32 8)),
   (40, 1, decide (2 < op % 16 ∨ 2 < op / 16) || (op == 0x20 && s.isDet t)), (41, 1, decide (1 < c.u 41 1)), (44, 4, c.u 41 1 == 0 && c.u 44 4 != 0)]

/-- One element combined within the package. -/
def copyredWord (c : Cmd) (t : Team) (i : Nat) (s : State) : UnitRes :=
  match s.engineRead c t (c.addr 16 + 4 * i) 4 4 16 with
  | .fail r => r
  | .ok s bs _ => s.engineCombine c t (c.addr 24 + 4 * i) 4 (combineRop (c.u 40 1 / 16) (c.u 40 1 % 16)) 24 (BitVec.ofNat 64 (leNat bs))

/-- One element combined at the own package as a peer. -/
def copyredOwn (c : Cmd) (t : Team) (i : Nat) (s : State) : UnitRes :=
  match s.engineRead c t (c.addr 16 + 4 * i) 4 4 16 with
  | .fail r => r
  | .ok s bs _ => match s.peerCombine t.ctx (c.addr 24 + 4 * i) (c.u 40 1) (BitVec.ofNat 32 (leNat bs)) with
    | .ok (s, w) => .done s w
    | .error (.code _ _) => .code 0x0305 44
    | .error r => r

/-- The elements of a COPYRED to another package, sent one by one. -/
def State.copyredSend (s : State) (c : Cmd) (t : Team) : State :=
  let n := c.u 32 8 / 4
  match s.engineWords c t (c.addr 16) 16 n with
  | .fail r => s.cmdFails c t r 0
  | .ok s bs _ =>
    let own := s.ownRank t.ctx
    let job := match s.ctx? t.ctx with | some x => x.job | none => 0
    let ms : List FabricMsg := (wordsOf bs).zipIdx.map fun e =>
      { job := job, src := own, dst := c.u 44 4, cmd := c.id, seq := e.2, kind := .combine (BitVec.ofNat 8 (c.u 40 1)), va := (c.addr 24 + 4 * e.2) % 2 ^ 56,
        data := toLe 4 e.1.toNat, t := 0 }
    let st := { CollState.fresh with unacked := (List.range n).map fun i => (i, c.u 44 4, 0), steps := n, seq := n }
    let s := ({ s with outbox := s.outbox ++ ms }).modCmd c.id fun c => { c with coll := some st }
    if n = 0 then s.cmdEnds c.id 0 0 0 else s

def State.copyred (s : State) (k : Nat) (done : List Nat) : State :=
  s.startCmd k 3 (fun c t => s.copyredFields c t) (fun _ _ => []) fun s c t =>
    let n := c.u 32 8 / 4
    if c.u 41 1 = 0 then s.runCmd c t n done (copyredWord c t) (fun _ => 4) (c.u 32 8)
    else if c.coll.isSome then s
    else if c.u 44 4 = s.ownRank t.ctx then s.runCmd c t n done (copyredOwn c t) (fun _ => 4) (c.u 32 8)
    else if !s.reaches t.ctx (c.u 44 4) then s.cmdError c t 0x0305 44 0
    else s.copyredSend c t

end Sys2Proof.Machine
end

