-- ==== Sys2Proof/Machine/Mgmt.lean ====
section
/-!
DEFINITION. Machine/Mgmt.lean: starts, the measurement registers, feature negotiation, the management ring with its commands,
contexts, repair, and the debugger's commands (R345 to R353, R356, R360, R372 to R378, R381, R384, R401, R402).
-/

namespace Sys2Proof.Machine

open Sys2Proof

def State.modDev (s : State) (f : Device → Device) : State := { s with dev := f s.dev }

/-! ## Starts (R345, R346, R401) -/

/-- A digest of 512 bits as bytes, and back. -/
def bytes512 (x : BitVec 512) : List Byte := toLe 64 x.toNat
def of512 (bs : List Byte) : BitVec 512 := BitVec.ofNat 512 (leNat bs)

/-- A measurement register extended with a digest (R346). -/
def extended (m d : BitVec 512) : BitVec 512 := of512 (shake256 (bytes512 m ++ bytes512 d))

def State.extendMeas (s : State) (i : Nat) (d : BitVec 512) : State :=
  s.modDev fun v => { v with meas := setAt v.meas i fun m => extended m d }

/-- The stages that a start measures, in the order of MEAS0 to MEAS3. -/
def stagesOf (r : StartReport) : List (BitVec 512 × Bool) := [r.security, r.management, r.microcode, r.fused]

/-- The stages from register `i` on, each measured and then verified; the register of the first that fails (R346). -/
def State.runStages (s : State) (i : Nat) : List (BitVec 512 × Bool) → State × Option Nat
  | [] => (s, none)
  | (d, ok) :: rest =>
    let s := s.extendMeas i d
    if ok then s.runStages (i + 1) rest else (s, some i)

/-- Fabric links with their lanes, and host modules from 0x100 (R12, R17). -/
def allLinks : List (Nat × Nat) := (List.range 24).map (fun k => (k, 4)) ++ (List.range 4).map fun k => (0x100 + k, 64)

/-- Spares that repairs under way have taken are free again where a start ends those repairs. -/
def Device.freeSpares (v : Device) : List Nat :=
  let taken := (v.repairs.filter (·.2.2)).map (·.1) ++ match v.mark with | some m => (if m.1.headD 0 = 9 then [m.1.getD 1 0] else []) | none => []
  taken.foldl (fun l d => setAt l d (· + 1)) v.spares

/-- Step 1: no context, no thread, no command, and every memory of the cores clear; the registers of the ring and of the
measurements at 0. -/
def State.wiped (s : State) : State :=
  { s with
    bundle := none
    others := []
    contexts := []
    launches := []
    teams := []
    cores := []
    dtlb := []
    ops := []
    cmds := []
    lines := []
    partials := []
    outbox := []
    dev := { s.dev with
      meas := measReset
      accept := 0
      mring := 0
      mlogn := 0
      mtail := 0
      mhead := 0
      ring := none
      ovf := false
      clearing := [(0xFFFF, auditEnd, hbmSize - auditEnd)]
      stepping := none
      mark := none
      spares := s.dev.freeSpares
      repairs := []
      releases := []
      badSram := [] } }

/-- The log as a cold start opens it: from its mirror if that verifies, else past the last entry that does, with LOGFAIL
first; entries that the root of trust held follow (R345, R407). -/
def State.openAudit (s : State) (mirrorOk : Bool) (verified : Nat) : State :=
  let a := s.dev.audit
  let held := a.pending
  let s := s.modDev fun v => { v with audit := { a with pending := [], frozen := false } }
  let s :=
    if a.seq = 0 then s
    else if mirrorOk then (if a.frozen then s.deviceRecord 0x000D (a.seq - 1) 0 0 else s)
    else
      let opened := fun (v : Device) =>
        { v with audit := { v.audit with entries := v.audit.entries.filter fun e => decide (e.seq ≤ verified), seq := verified + 1, link := [],
                                         mark := min v.audit.mark (verified + 1) } }
      (s.modDev opened).deviceRecord 0x000D verified 0 0
  s.flushAudit held

/-- A start that ends early (R401). -/
def State.startFails (s : State) : State := s.modDev fun v => { v with phase := .failed }

/-- Records of the stacks that fail training. -/
def State.trainFails (s : State) (ks : List Nat) : State := ks.foldl (fun s k => s.deviceRecord 0x0002 k 0 0) s

/-- Self-test and spare map: a spare takes the number of a core that fails, or the core is retired (R401, R402). -/
def State.spareMap (s : State) (bad : List (Nat × Nat)) : State :=
  let one := fun (v : Device) (c : Nat × Nat) =>
    if v.spares.getD c.1 0 = 0 then { v with retiredCores := v.retiredCores ++ [c] } else { v with spares := setAt v.spares c.1 (· - 1) }
  s.modDev fun v => bad.foldl one { v with trained := true, retiredCores := [], spares := List.replicate Config.dies Config.sparesPerDie }

/-- The records of the cores that failed. -/
def State.testRecords (s : State) (bad : List (Nat × Nat)) : State :=
  bad.foldl (fun s c =>
    let s := s.deviceRecord 0x0003 0 c.1 c.2
    if s.dev.retiredCores.contains c then s.deviceRecord 0x0008 0 c.1 c.2 else s) s

/-- Links and modules trained; each that fails is recorded (R401). -/
def State.trainLinks (s : State) (links modules : List Nat) : State :=
  let down := links ++ modules.map (0x100 + ·)
  let s := s.modDev fun v => { v with links := allLinks.map fun l => if down.contains l.1 then (l.1, 0) else l }
  down.foldl (fun s l => s.deviceRecord 0x0005 l 0 0) s

/-- Whether no host module works. -/
def Device.noHost (v : Device) : Bool := (v.links.filter fun l => decide (0x100 ≤ l.1)).all fun l => l.2 == 0

/-- Steps 6 to 8: links, the START entry, and the wait for FEATURE. -/
def State.startEnds (s : State) (r : StartReport) : State :=
  let s := s.trainLinks r.linksFail r.modulesFail
  if s.dev.noHost then s.modDev fun v => { v with phase := .dead }
  else (s.note 1 0xFFFF).modDev fun v => { v with phase := .negotiating }

/-- A cold start (R345): the stages, training, self-test, the log, and then the links; where a step fails, only the log is opened before its
record (R401). -/
def State.coldStart (s : State) (r : StartReport) : State :=
  let full := fun (c : GroupClock) =>
    { c with value := c.now s.units, since := s.units, rate := 16, cap := 16, droop := 0, droopAt := 0 }
  let s := { s.wiped with clocks := s.clocks.map full, mem := cdrop (fun a => decide (auditEnd ≤ a)) s.mem }
  let s := s.modDev fun v => { v with trained := false }
  match s.runStages 0 (stagesOf r) with
  | (s, some i) => ((s.openAudit r.mirrorOk r.verified).deviceRecord 0x0001 i 0 0).startFails
  | (s, none) =>
    if r.stacksFail ≠ [] then ((s.openAudit r.mirrorOk r.verified).trainFails r.stacksFail).startFails
    else (((s.spareMap r.coresFail).openAudit r.mirrorOk r.verified).testRecords r.coresFail).startEnds r

/-- A warm start: the training, the spare map and the log are kept, unless they fail their check (R345, R401). -/
def State.warmStart (s : State) (r : StartReport) : State :=
  let s := { s.wiped with mem := cdrop (fun a => decide (auditEnd ≤ a)) s.mem }
  match s.runStages 0 (stagesOf r) with
  | (s, some i) => (s.deviceRecord 0x0001 i 0 0).startFails
  | (s, none) =>
    if r.savedBad || !s.dev.trained || r.stacksFail ≠ [] then
      let s := s.modDev fun v => { v with trained := false }
      if r.stacksAgain ≠ [] then (s.trainFails r.stacksAgain).startFails
      else ((s.spareMap r.coresFail).testRecords r.coresFail).startEnds r
    else s.startEnds r

/-- A copy of the time base and a clock of a core group as power brings them. -/
def TimeBase.fresh (units : Nat) : TimeBase := { value := 0, since := units, rate := 1, span := 0 }
def GroupClock.fresh (units k : Nat) : GroupClock :=
  { die := k / 16, group := k % 16, value := 0, since := units, rate := 16, cap := 16, droop := 0, droopAt := 0 }

/-- POWER_ON: nothing of an earlier run is left, and a cold start follows. -/
def State.powerOn (s : State) (r : StartReport) : State :=
  let s := { s with
    times := List.replicate 10 (TimeBase.fresh s.units)
    clocks := (List.range 128).map (GroupClock.fresh s.units)
    mem := []
    dev := { s.dev with audit := Device.reset.audit } }
  s.coldStart r

def State.coldReset (s : State) (r : StartReport) : State := if s.dev.phase = .off then s else s.coldStart r

/-- A warm reset; once the supplies were shed only a cold start follows (R406). -/
def State.warmReset (s : State) (r : StartReport) : State :=
  if s.dev.phase = .off ∨ s.dev.phase = .shed then s else s.warmStart r

/-- MEMORY_CLEAR_DONE: a range has been zeroed, but for retired granules; a context's is recorded, and is free again (R345,
R351, R404). -/
def State.memoryClearDone (s : State) (k : Nat) : State :=
  match s.dev.clearing[k]? with
  | none => s
  | some (ctx, base, len) =>
    let inside := fun (a : Nat) => decide (base ≤ a ∧ a < base + len) && !s.dev.retiredHbm.contains (a / 65536)
    let s := { s with
      mem := cdrop inside s.mem
      dev := { s.dev with clearing := s.dev.clearing.eraseIdx k, badGranules := s.dev.badGranules.filter fun g => !inside (32 * g) } }
    if ctx = 0xFFFF then s else s.note 5 ctx

/-! ## The management ring (R349) -/

/-- Whether the host reaches the device: the device has power, and a host module works (R403), or the start failed before it trained them
(R401; log entry 104). -/
def Device.hosted (v : Device) : Bool := v.phase == .failed || (!(v.phase == .off || v.phase == .dead || v.phase == .shed) && !v.noHost)

/-- What the host does, when it reaches the device. -/
def State.fromHost (s : State) (f : State → State) : State := if s.dev.hosted then f s else s

def State.managementDoorbell (s : State) (tail : BitVec 32) : State :=
  s.fromHost fun s => s.modDev fun v => { v with mtail := tail }

/-- The queue whose doorbell a register is: 0x0010'0000 + 0x1000·c + 8·q (R131). -/
def doorbellOf (offset : Nat) : Option (Nat × Nat) :=
  let c := (offset - 0x100000) / 0x1000
  let q := (offset - 0x100000) % 0x1000 / 8
  if 0x100000 ≤ offset ∧ offset % 8 = 0 ∧ c < 32 ∧ q < 64 then some (c, q) else none

/-- A write to a register of the CXL.io space: the management doorbell; MRING or MLOGN, ignored while a command is unperformed; or a
dispatcher's doorbell. No other register has an effect (R8, R131, R349). -/
def State.registerWrite (s : State) (offset : Nat) (value : BitVec 64) : State :=
  if !s.dev.hosted then s else
  let fixed := decide (s.dev.mhead ≠ s.dev.mtail) || s.dev.stepping.isSome
  match offset with
  | 0x1000 => s.managementDoorbell (value.setWidth 32)
  | 0x1008 => if fixed then s else s.modDev fun v => { v with mring := value }
  | 0x1010 => if fixed then s else s.modDev fun v => { v with mlogn := value &&& 0xF }
  | _ => match doorbellOf offset with
    | some (c, q) => s.launchDoorbell c q (value.setWidth 32)
    | none => s

/-- The 64 bytes of the command at the head of the ring: command k lies at MRING + 64·(k mod 2^LOGN) (R349). -/
def State.headBytes (s : State) : List Byte :=
  getBytes s.hostMem (s.dev.mring.toNat + 64 * (s.dev.mhead.toNat % 2 ^ s.dev.mlogn.toNat)) 64

/-- Byte 0 holds the code of a command, and bytes 8 to 15 the address of its reply (R360; log entry 14). -/
def State.headCode (s : State) : Nat := fieldLe s.headBytes 0 1
def State.replyTo (s : State) : Nat := fieldLe s.headBytes 8 8

/-- Whether a step names the command at the head of the ring: the address of its reply, and its fields, each with its first byte and its
width (log entry 14). -/
def State.named (s : State) (reply : Nat) (fields : List (Nat × Nat × Nat)) : Bool :=
  s.replyTo == reply && fields.all fun f => fieldLe s.headBytes f.1 f.2.1 == f.2.2

/-- What a step does that names the command at the head of the ring; one that names another does nothing. -/
def State.ifNamed (s : State) (reply : Nat) (fields : List (Nat × Nat × Nat)) (f : State → State) : State :=
  if s.named reply fields then f s else s

/-- The end of the command at the head of the ring. -/
def State.performed (s : State) (code : Nat) (detail : List Byte) : State :=
  (s.reply s.replyTo code detail).modDev fun v => { v with mhead := v.mhead + 1, mark := none }

def State.refuse (s : State) : State := s.performed 1 []

/-- When a command is performed: always, from step 8 on, or once the start is complete. -/
inductive CmdTime where
  | always
  | early
  | running
  deriving DecidableEq, Repr

/-- Whether a code names no command (R349, R360, R372, R381). -/
def noCommand (code : Nat) : Bool := code == 0 || decide (0x0C < code)

/-- Whether the ring waits for a STEP: not while its team is away, which a command may have to bring back (R377, R381; log entry 91). -/
def State.stepBusy (s : State) : Bool :=
  match s.dev.stepping with
  | some (a, _, _) => (match s.team? a with | some t => t.standing == .resident | none => true)
  | none => false

/-- Performs the command at the head of the ring, which `key` names by its code and operands, if the device is as far as that; else it is
refused (R345, R401). A command that has begun goes on before any other. A code that names no command is refused (log entry 90). -/
def State.command (s : State) (when_ : CmdTime) (key : List Nat) (f : State → State) : State :=
  let busy := s.dev.mhead == s.dev.mtail || s.stepBusy || !s.dev.hosted
    || match s.dev.mark with | some m => m.1 != key | none => false
  if busy then s
  else if s.headCode ≠ key.headD 0 then (if noCommand s.headCode then s.refuse else s)
  else
    match s.dev.phase with
    | .running => f s
    | .negotiating => if when_ = .running then s.refuse else f s
    | .failed => if when_ = .always then f s else s.refuse
    | _ => s

/-- The first step of a command that takes several marks its beginning; `first` says whether this is it. -/
def State.begin_ (s : State) (key : List Nat) : State × Nat × Bool :=
  match s.dev.mark with
  | some m => (s, m.2, false)
  | none => ({ s with nextId := s.nextId + 1, dev := { s.dev with mark := some (key, s.nextId) } }, s.nextId, true)

/-! ## FEATURE, FWLOAD, ATTEST and the log (R346, R347, R352, R353, R402) -/

/-- Retired cores by die, four bits each, and the accepted features (R347, R402). -/
def Device.featureDetail (v : Device) : List Byte :=
  let count := fun (d : Nat) => min 15 (v.retiredCores.filter fun c => c.1 == d).length
  toLe 4 (((List.range 8).map fun d => count d * 16 ^ d).foldl (· + ·) 0) ++ toLe 10 v.accept.toNat

/-- FEATURE: ACCEPT is set by the first, and then fixed until the next start; it waits for the memory to be zeroed. -/
def State.feature (s : State) (request : BitVec 128) : State :=
  s.command .early [1] fun s =>
    if s.dev.clearing.any (·.1 == 0xFFFF) then s
    else if !s.dev.audit.roomy then s.refuse
    else
      let s := if s.dev.phase = .negotiating then s.modDev fun v => { v with accept := Config.offer &&& request, phase := .running } else s
      let s := s.note 7 0xFFFF
      s.performed 0 s.dev.featureDetail

/-- FWLOAD: the image is measured into the lowest of MEAS4 to MEAS7 that it names, and loaded if its signature verifies (R346, R401). -/
def State.fwload (s : State) (regs : List Nat) (digest : BitVec 512) (sigOk : Bool) : State :=
  s.command .running [6] fun s =>
    match ([4, 5, 6, 7].filter regs.contains).head? with
    | none => s.refuse
    | some reg =>
      if !s.dev.audit.roomy || regs.any (fun i => decide (i < 4 ∨ 7 < i)) then s.refuse
      else
        let s := s.extendMeas reg digest
        if sigOk then (s.note 6 0xFFFF).performed 0 []
        else (s.deviceRecord 0x0001 reg 0 0).refuse

/-- SEQ and LINK of the newest entry. -/
def Audit.newest (a : Audit) : List Byte := toLe 8 (a.seq - 1) ++ padTo 32 a.link

/-- A reply of code 0 with the bytes that a command returns beyond it after it in host memory. -/
def State.answers (s : State) (bs : List Byte) : State :=
  let s' := s.performed 0 []
  { s' with hostMem := putBytes s'.hostMem (s.replyTo + 16) bs }

/-- A signature of 3,309 bytes (R353). -/
def signature (m : List Byte) : List Byte := padTo 3309 (Config.sign m)

def State.attest (s : State) (nonce : BitVec 256) : State :=
  s.command .always [7] fun s => s.answers (signature (toLe 32 nonce.toNat ++ s.dev.meas.flatMap bytes512 ++ s.dev.audit.newest))

def State.logsign (s : State) : State :=
  s.command .running [8] fun s => s.answers (signature s.dev.audit.newest)

/-- LOGREAD returns entries from the read mark on, and moves it; entries that waited for room are appended. -/
def State.logread (s : State) (count : Nat) : State :=
  s.command .always [8] fun s =>
    let a := s.dev.audit
    let es := (a.entries.filter fun e => decide (a.mark ≤ e.seq)).take count
    let bs := es.flatMap fun e => e.head ++ padTo 32 e.link
    let s := s.modDev fun v => { v with audit := { a with mark := a.mark + es.length, pending := [] } }
    (s.flushAudit a.pending).answers bs

/-! ## Contexts (R93, R348, R350, R351) -/

/-- The context record that CREATE names (R350); reserved fields are read as 0 (R8). -/
def contextOf (b : List Byte) : Context :=
  { num := fieldLe b 0 1, lcl := fieldLe b 4 1, ldie := fieldLe b 5 1, lpkg := fieldLe b 6 1,
    heapBase := fieldLe b 8 8 % 2 ^ 56 / 65536 * 65536, heapLim := fieldLe b 16 8 % 2 ^ 48 / 65536 * 65536,
    heapOff := fieldLe b 24 8 % 2 ^ 48 / 65536 * 65536, ptBase := fieldLe b 32 8 % 2 ^ 48 / 4096 * 4096, qtab := fieldLe b 40 8 % 2 ^ 56,
    job := fieldLe b 48 4, prank := fieldLe b 52 2,
    cores := (List.range 8).flatMap fun d => ((List.range 256).filter fun j => fieldLe b (64 + 32 * d + j / 8) 1 / 2 ^ (j % 8) % 2 == 1).map
      fun j => (d, j),
    ranges := ((List.range 16).map fun i => (fieldLe b (320 + 16 * i) 8, fieldLe b (328 + 16 * i) 8)).filter fun r => decide (0 < r.2),
    cestat := 0, ring := none, stopped := false, dbgMode := 0, dbgArea := 0, dbgCount := 0, queues := [], dispWait := [] }

/-- Whether two ranges of bytes overlap. -/
def overlaps (a b : Nat × Nat) : Bool := decide (a.1 < b.1 + b.2 ∧ b.1 < a.1 + a.2)

/-- Whether CREATE may perform a record (R93, R348, R350, R402, R404). -/
def State.creatable (s : State) (c : Context) : Bool :=
  decide (c.num ≤ 31) && (s.ctx? c.num).isNone
    && decide (4 ≤ c.lcl ∧ c.lcl ≤ c.ldie ∧ c.ldie ≤ c.lpkg ∧ c.lpkg ≤ 12)
    && c.cores.all (fun k => !(s.contexts.any fun x => x.cores.contains k) && !s.dev.retiredCores.contains k)
    && c.ranges.all (fun r => r.1 % 65536 == 0 && r.2 % 65536 == 0 && !overlaps r (0, auditEnd)
        && !(s.contexts.any fun x => x.ranges.any (overlaps r)) && !(s.dev.clearing.any fun k => overlaps r k.2)
        && !(s.dev.retiredHbm.any fun g => overlaps r (65536 * g, 65536)))
    && decide (c.heapBase + c.heapLim ≤ 0xFF000000000000) && s.dev.audit.roomy && (c.job == 0 || s.dev.accept.getLsbD 4)

/-- A core as a context finds it: scrubbed (R351). -/
def Core.fresh (die num : Nat) : Core :=
  { die := die, num := num, split := 0, retired := false, closed := false, tlb := [], l1 := [], icache := [], tagrdy := 0, tagCnt := [],
    forkQ := [], permitP := 32, permits := [], waiters := [], victims := [], reref := 0, lastHeavy := 0, lastRise := 0, lastTurn := 0,
    winAt := 0, bps := [] }

/-- CREATE. A core that still awaits a repair accepts no team before it (R356, R405). -/
def State.create (s : State) (record : List Byte) : State :=
  s.command .running [2] fun s =>
    let c := contextOf record
    if !s.creatable c then s.refuse
    else
      let fresh := fun (k : Nat × Nat) => { Core.fresh k.1 k.2 with closed := s.dev.repairs.any fun r => (r.1, r.2.1) == k }
      (({ s with contexts := s.contexts ++ [c], cores := s.cores ++ c.cores.map fresh }).note 2 c.num).performed 0 []

/-- Whether a thread of a context is inside a packet. -/
def State.issuing (s : State) (ctx : Nat) : Bool := s.teams.any fun t => t.ctx == ctx && t.threads.any fun h => !h.exited && s.inPacket t.id h

/-- Everything of a context gone, its cores scrubbed, its ranges with the memory-clear engines (R351, steps 2 to 7). -/
def State.discardContext (s : State) (c : Context) : State :=
  let mine := (s.teams.filter fun t => t.ctx == c.num).map (·.id)
  let inside := fun (a : Nat) => c.ranges.any fun r => decide (r.1 ≤ a ∧ a < r.1 + r.2)
  let s := { s with
    contexts := s.contexts.filter fun x => x.num != c.num
    launches := s.launches.filter fun l => l.ctx != c.num
    teams := s.teams.filter fun t => t.ctx != c.num
    ops := s.ops.filter fun o => !mine.contains o.team
    cmds := s.cmds.filter fun k => !mine.contains k.team
    cores := s.cores.filter fun k => !c.cores.contains (k.die, k.num)
    dtlb := s.dtlb.filter fun e => e.2.ctx != c.num
    lines := s.lines.filter fun l => !inside (128 * l.line)
    partials := s.partials.filter fun p => !inside p.pa
    dev := { s.dev with clearing := s.dev.clearing ++ c.ranges.map fun (r : Nat × Nat) => (c.num, r.1, r.2) } }
  let s := match s.dev.stepping with | some (a, r, _) => (if mine.contains a then s.stepOver a r 1 else s) | none => s
  (s.note 3 c.num).note 4 c.num

/-- Whether RELEASE is refused for the log: while an entry waits, or, the log being frozen, while 1,024 do (R352, R407; log entry 105). -/
def Audit.full (a : Audit) : Bool := if a.frozen then decide (auditKept ≤ a.pending.length) else !a.pending.isEmpty

/-- RELEASE: the dispatcher stops taking descriptors at once, and peer accesses fail from then on; the rest follows when no thread of the
context is inside a packet. -/
def State.release (s : State) (ctx : Nat) : State :=
  s.command .running [3, ctx] fun s =>
    match s.ctx? ctx with
    | none => s.refuse
    | some c =>
      if s.dev.mark.isNone && s.dev.audit.full then s.refuse
      else
        let s := (s.begin_ [3, ctx]).1
        let s := s.modCtx ctx fun c => { c with stopped := true, queues := c.queues.map fun q => { q with open_ := false } }
        if s.issuing ctx then s else (s.discardContext c).performed 0 []

/-! ## SWITCH, PREEMPT (R143) -/

/-- The resident teams that `p` names begin to be saved. -/
def State.saveTeams (s : State) (p : Team → Bool) : State :=
  { s with teams := mapIf (fun t => p t && t.standing == .resident) (fun t => { t with standing := .saving }) s.teams }

/-- A command that saves teams: it begins the saves, and is done when they are, or when one waits for RESOLVE. -/
def State.saveCommand (s : State) (key : List Nat) (ctx : Nat) (p : Team → Bool) : State :=
  match s.ctx? ctx with
  | none => s.refuse
  | some c =>
    let b := s.begin_ key
    let s := if b.2.2 && !c.stopped then b.1.saveTeams p else b.1
    if !c.stopped && (s.teams.any fun t => p t && t.standing == .saving) && c.dispWait.isEmpty then s else s.performed 0 []

def State.switch (s : State) (ctx : Nat) : State :=
  s.command .running [4, 0, ctx] fun s => s.saveCommand [4, 0, ctx] ctx fun t => t.ctx == ctx

/-- PREEMPT saves the teams of launch `k` of a queue. -/
def State.preempt (s : State) (ctx queue k : Nat) : State :=
  s.command .running [4, 1, ctx, queue, k] fun s =>
    let ls := (s.launches.filter fun l => l.ctx == ctx && l.queue == queue && l.k == k).map (·.id)
    s.saveCommand [4, 1, ctx, queue, k] ctx fun t => ls.contains t.launch

/-! ## INVALIDATE (R384) -/

/-- Whether INVALIDATE drops an entry: of the context, in the range, and of the size that LVL covers. -/
def Context.drops (c : Context) (lvl base len : Nat) (e : TlbEntry) : Bool :=
  let start := c.windowAddr base
  let near := decide ((e.wa + 2 ^ 48 - start) % 2 ^ 48 < len) || decide ((start + 2 ^ 48 - e.wa) % 2 ^ 48 < e.size)
  e.ctx == c.num && (len == 0 || near) && match lvl with | 1 => e.size == 65536 | 2 => e.size != 65536 | _ => true

/-- Whether an operation is an access that has been translated and is not yet performed. -/
def OpBody.accesses (b : OpBody) : Bool :=
  match b with
  | .load _ _ _ _ _ _ _ => true
  | .gather _ _ _ _ _ _ => true
  | .store _ _ _ _ => true
  | .atomic _ _ _ _ _ _ _ => true
  | .atomicDone _ _ _ _ _ _ => true
  | .red _ _ _ => true
  | .written _ => true
  | .prefetch _ _ => true
  | _ => false

/-- Whether an access in flight may have used a translation: a local one has used none. -/
def Op.translated (o : Op) : Bool := o.body.accesses && match o.body.access? with | some a => a.space == .hbm | none => true

/-- INVALIDATE, laid out as RESOLVE with LVL in byte 17: the entries are dropped; the reply waits for the accesses that came before. -/
def State.invalidate (s : State) : State :=
  let b := s.headBytes
  let (ctx, lvl, base, len) := (fieldLe b 16 1, fieldLe b 17 1, fieldLe b 24 8, fieldLe b 32 8)
  s.command .running [5] fun s =>
    match s.ctx? ctx with
    | none => s.refuse
    | some c =>
      if base % 65536 ≠ 0 ∨ len % 65536 ≠ 0 then s.refuse
      else
        let b := s.begin_ [5]
        let s := b.1
        let s := if b.2.2 then
            { s with dtlb := s.dtlb.filter fun e => !c.drops lvl base len e.2,
                     cores := s.cores.map fun k => { k with tlb := k.tlb.filter fun e => !c.drops lvl base len e } }
          else s
        let mine := fun (id : Nat) => match s.team? id with | some t => t.ctx == ctx | none => false
        if s.ops.any fun o => decide (o.id < b.2.1) && o.translated && mine o.team then s else s.performed 0 []

/-! ## REPAIR (R356, R405) -/

/-- A core stops accepting teams, and its resident teams begin to be saved, and with them the other teams of their ENSEMBLE launches (R34,
R143). -/
def State.repairBegins (s : State) (die core : Nat) : State :=
  let s := s.modCore die core fun c => { c with closed := true }
  let here := fun (t : Team) => t.die == die && t.core == core
  let whole := fun (t : Team) => (match s.desc? t with | some d => d.ens | none => false) && s.teams.any fun x => x.launch == t.launch && here x && x.resides
  let leaving := fun (t : Team) => { t with standing := .saving, home := t.home || here t }
  { s with teams := mapIf (fun t => t.standing == .resident && (here t || whole t)) leaving s.teams }

/-- A spare of a die is set aside for a repair; whether there was one. -/
def State.takeSpare (s : State) (die : Nat) : State × Bool :=
  if s.dev.spares.getD die 0 = 0 then (s, false) else (s.modDev fun v => { v with spares := setAt v.spares die (· - 1) }, true)

/-- Whether a team of a core cannot be saved before the ring goes on: its context has stopped, or a frame's address waits for RESOLVE
(R358, R394). -/
def State.kept (s : State) (die core : Nat) : Bool :=
  s.teams.any fun t => t.die == die && t.core == core && t.resides
    && match s.ctx? t.ctx with | some c => c.stopped || !c.dispWait.isEmpty | none => false

/-- The management controller begins a repair of its own accord, with a spare where one is left (R405). -/
def State.repairStarts (s : State) (die core : Nat) : State :=
  if s.dev.repairs.any (fun k => k.1 == die && k.2.1 == core) || s.dev.retiredCores.contains (die, core) || decide (8 ≤ die ∨ 256 ≤ core) then s
  else
    let (s, spare) := s.takeSpare die
    (s.repairBegins die core).modDev fun v => { v with repairs := v.repairs ++ [(die, core, spare)] }

/-- Whether no team is left on a core. -/
def State.vacant (s : State) (die core : Nat) : Bool := !s.teams.any fun t => t.die == die && t.core == core && t.resides

/-- A spare takes a core's number and place, with its TLB and its TAGRDY bits; its L1 begins empty. -/
def State.repairEnds (s : State) (die core : Nat) : State :=
  (s.modCore die core fun c => { c with closed := false, l1 := [], icache := [] }).note 8 0xFFFF

/-- A core without a spare is retired: its saved teams go elsewhere, or, where they may not, take a TEAM action (R405). -/
def State.retireCore (s : State) (die core : Nat) : State :=
  let there := s.teams.filter fun t => t.die == die && t.core == core && t.standing == .saved
  let s := there.foldl (fun s t =>
    match s.desc? t with
    | none => s
    | some d =>
      if decide (1 < d.shapeW * d.shapeH) || d.pin || t.tags != 0 then (s.teamAction t none 0x0501 0 0x0008).settle t.id
      else s.modTeam t.id fun t => { t with home := false }) s
  let s := s.modCore die core fun c => { c with closed := true, retired := true }
  (s.modDev fun v => { v with retiredCores := v.retiredCores ++ [(die, core)] }).deviceRecord 0x0008 0 die core

/-- REPAIR. A repair that the management controller began of its own accord goes on without a command, and so does one that must leave the
ring to a RESOLVE or a RELEASE, which is answered then (R349, R356; log entry 106). -/
def State.repair (s : State) (die core : Nat) : State :=
  match s.dev.repairs.find? fun k => k.1 == die && k.2.1 == core with
  | some k =>
    if !s.vacant die core then s
    else
      let s := s.modDev fun v => { v with repairs := v.repairs.erase k }
      if k.2.2 then s.repairEnds die core else s.retireCore die core
  | none =>
    s.command .running [9, die, core] fun s =>
      if !s.dev.accept.getLsbD 5 || s.dev.retiredCores.contains (die, core) || decide (8 ≤ die ∨ 256 ≤ core)
          || (s.dev.mark.isNone && decide (s.dev.spares.getD die 0 = 0)) then s.refuse
      else
        let b := s.begin_ [9, die, core]
        let s := if b.2.2 then (b.1.takeSpare die).1.repairBegins die core else b.1
        if s.vacant die core then (s.repairEnds die core).performed 0 []
        else if s.kept die core then (s.modDev fun v => { v with repairs := v.repairs ++ [(die, core, true)] }).performed 0 []
        else s

/-! ## ERRCTL (R359, R360) -/

/-- The ring that ERRCTL leaves. -/
def ringAfter (old : Option Ring) (logn ring consw prodw : Nat) : Option Ring :=
  if logn = 0 then old else some { base := ring, logn := logn, consw := consw, prodw := prodw, k := 0 }

def State.errctl (s : State) : State :=
  let b := s.headBytes
  let (ctx, logn, ring, consw, prodw) := (fieldLe b 16 1, fieldLe b 17 1, fieldLe b 24 8, fieldLe b 32 8, fieldLe b 40 8)
  let clr : Word := BitVec.ofNat 32 (fieldLe b 48 4)
  s.command .running [0x0A] fun s =>
    if logn ≠ 0 ∧ ¬(4 ≤ logn ∧ logn ≤ 16 ∧ ring % 4096 = 0) then s.refuse
    else if ctx = 0xFF then
      let old := if s.dev.ovf then bitOVF else 0
      (s.modDev fun v => { v with ring := ringAfter v.ring logn ring consw prodw, ovf := v.ovf && !clr.getLsbD 10 }).performed 0 (toLe 4 old.toNat)
    else
      match s.ctx? ctx with
      | none => s.refuse
      | some c =>
        (s.modCtx ctx fun c => { c with ring := ringAfter c.ring logn ring consw prodw, cestat := c.cestat &&& ~~~clr }).performed 0
          (toLe 4 c.cestat.toNat)

/-! ## RESOLVE (R381) -/

/-- Whether an address lies in a range; a length of 0 means every address. -/
def inRange (base len va : Nat) : Bool := len == 0 || decide (base ≤ va ∧ va < base + len)

/-- OUT 0: teams may come back, commands go on, and the dispatcher's reads are made again. -/
def State.resolveRetry (s : State) (ctx base len : Nat) : State :=
  let mine := fun (id : Nat) => match s.team? id with | some t => t.ctx == ctx | none => false
  let on := fun (c : Cmd) =>
    match c.state with
    | .waiting va ph =>
      if inRange base len va then
        { c with state := (match ph with | 0 => .running | 1 => .performed | _ => .completed),
                 at_ := if c.cls = 4 then s.gtime c.die - c.at_ else c.at_ }
      else c
    | _ => c
  let s := { s with
    teams := mapIf (fun t => t.ctx == ctx && t.faults.any fun e => inRange base len e.1) (fun t => { t with mayResume := true }) s.teams
    cmds := mapIf (fun c => mine c.team) on s.cmds }
  s.modCtx ctx fun c => { c with dispWait := c.dispWait.filter fun w => !inRange base len w.1 }

/-- OUT 1 for a command that waits: its body completes with XLATE; a status word or a counter that does not translate is not written. -/
def State.resolveFailCmd (s : State) (c : Cmd) (ph : Nat) : State :=
  let count := match c.attn with | some a => a.k | none => c.count
  match ph with
  | 0 => (match c.coll with
    | some st => s.collStops c st 0x0111 c.detail
    | none => s.cmdEnds c.id 0x0111 c.detail count)
  | 1 => s.modCmd c.id fun c => { c with state := .performed, stBad := true }
  | _ => { s with cmds := s.cmds.filter fun d => d.id != c.id }

/-- The commands of a team that wait on an address of the range, each with its phase. -/
def State.waiters (s : State) (t : Team) (base len : Nat) : List (Cmd × Nat) :=
  s.cmds.filterMap fun c => match c.state with
    | .waiting va ph => if c.team = t.id ∧ inRange base len va then some (c, ph) else none
    | _ => none

/-- OUT 1 for a team: its commands that wait end, and it takes one TEAM action, recorded for an address of its own that failed, or else for
the first of the commands (R362, R379). -/
def State.resolveFailTeam (s : State) (t : Team) (base len : Nat) : State :=
  let ws := s.waiters t base len
  let s := ws.foldl (fun s w => s.resolveFailCmd w.1 w.2) s
  match t.faults.find? (fun e => t.standing != .ended && inRange base len e.1), ws.head? with
  | some e, _ => (s.teamAction t none 0x0201 e.1 e.2).settle t.id
  | none, some w => (s.teamAction t none 0x0201 w.1.staddr w.1.fault).settle t.id
  | none, none => s

def State.resolveFail (s : State) (ctx base len : Nat) : State :=
  let s := (s.teams.filter fun t => t.ctx == ctx).foldl (fun s t => s.resolveFailTeam t base len) s
  match s.ctx? ctx with
  | none => s
  | some c =>
    match c.dispWait.find? fun w => inRange base len w.1 with
    | none => s
    | some w =>
      (s.modCtx ctx fun c => { c with dispWait := c.dispWait.filter fun w => !inRange base len w.1 }).stopAction
        { die := 0, cls := 0x0201, action := 7, ctx := ctx, addr := w.1, detail := w.2 }

def State.resolve_ (s : State) : State :=
  let b := s.headBytes
  let (ctx, out, base, len) := (fieldLe b 16 1, fieldLe b 17 1, fieldLe b 24 8, fieldLe b 32 8)
  s.command .running [0x0C] fun s =>
    match s.ctx? ctx with
    | none => s.refuse
    | some _ =>
      if base % 65536 ≠ 0 ∨ len % 65536 ≠ 0 then s.refuse
      else match out with
        | 0 => (s.resolveRetry ctx base len).performed 0 []
        | 1 => (s.resolveFail ctx base len).performed 0 []
        | _ => s.refuse

/-! ## DEBUG (R372 to R378) -/

/-- The fields of a DEBUG command (R372). -/
structure DebugCmd where
  op     : Nat
  ctx    : Nat
  mode   : Nat
  bp     : Nat
  die    : Nat
  core   : Nat
  addr   : Nat
  teamId : Nat
  lrank  : Nat
  deriving DecidableEq, Repr

def debugFields (b : List Byte) : DebugCmd :=
  { op := fieldLe b 16 1, ctx := fieldLe b 17 1, mode := fieldLe b 18 1, bp := fieldLe b 19 1, die := fieldLe b 20 1 % 8, core := fieldLe b 21 1,
    addr := fieldLe b 24 8, teamId := fieldLe b 32 4, lrank := fieldLe b 36 2 }

/-- Performs the debug command of operation `op` at the head of the ring on its context; a reserved operation is refused. -/
def State.debug (s : State) (op : Nat) (f : State → Context → DebugCmd → State) : State :=
  s.command .running [0x0B] fun s =>
    let d := debugFields s.headBytes
    if d.op ≠ op then (if d.op = 0 ∨ 8 < d.op then s.refuse else s)
    else match s.ctx? d.ctx with | some c => f s c d | none => s.refuse

def State.debugSetMode (s : State) : State :=
  s.debug 1 fun s _ d =>
    if 2 < d.mode ∨ d.addr % 4096 ≠ 0 then s.refuse
    else (s.modCtx d.ctx fun c => { c with dbgMode := d.mode, dbgArea := d.addr, dbgCount := 0 }).performed 0 []

/-- A breakpoint set on a core of the context, or cleared. -/
def State.setbp (s : State) : State :=
  s.debug 2 fun s c d =>
    if 3 < d.bp ∨ !c.cores.contains (d.die, d.core) ∨ d.addr % 16 ≠ 0 then s.refuse
    else (s.modCore d.die d.core fun k => { k with bps := (d.bp, d.ctx, d.addr % 2 ^ 56) :: k.bps.filter fun b => b.1 != d.bp }).performed 0 []

def State.clrbp (s : State) : State :=
  s.debug 3 fun s c d =>
    if 3 < d.bp ∨ !c.cores.contains (d.die, d.core) then s.refuse
    else (s.modCore d.die d.core fun k => { k with bps := k.bps.filter fun b => b.1 != d.bp }).performed 0 []

/-- The resident team that a debug command names. -/
def State.debugTeam? (s : State) (d : DebugCmd) : Option Team :=
  s.teams.find? fun t => t.ctx == d.ctx && t.teamId == d.teamId && t.resides

/-- Whether LRANK names a thread of a team: one, or all. -/
def names (lrank : Nat) (h : Thread) : Bool := !h.exited && (lrank == 0xFFFF || h.lrank == lrank)

/-- Performs a debug command on the threads of a resident team that it names; refused where it names none. -/
def State.debugThreads (s : State) (op : Nat) (f : State → Context → Team → Nat → State) : State :=
  s.debug op fun s c d =>
    match s.debugTeam? d with
    | none => s.refuse
    | some t => if t.threads.any (names d.lrank) then (f s c t d.lrank).performed 0 [] else s.refuse

/-- STOP: the threads stop at their packet boundary, with no event; in TEAM mode the whole team does. -/
def State.debugStopCmd (s : State) : State :=
  s.debugThreads 4 fun s c t r =>
    let r := if c.dbgMode = 2 then 0xFFFF else r
    s.modTeam t.id fun t' => { t' with threads := mapIf (names r) (fun h => h.halt (s.clock t.die t.core) (s.gtime t.die)) t'.threads }

/-- A stopped thread goes on: the watchdogs that it held back run again, and it is ready, or parked, or takes the release that was held
(R376). -/
def State.goOn (s : State) (t : Team) (r : Nat) : State :=
  let clock := s.clock t.die t.core
  (s.ranAgain t.id r).modThread t.id r fun h =>
    let h := { h with stopNext := false }
    if h.stopped then { h with stopped := false, readyAt := clock, aged := false }.takeDue clock (s.gtime t.die) else h

/-- RESUME: the threads are ready again, or stay parked. -/
def State.debugResume (s : State) : State :=
  s.debugThreads 5 fun s _ t r => ((t.threads.filter (names r)).foldl (fun s h => s.goOn t h.lrank) s).settle t.id

/-- STEP: a stopped thread issues one packet by itself; the reply follows when it is done. It is refused where the thread is not stopped at a
packet boundary, is parked, or may not issue (log entry 91). -/
def State.debugStep (s : State) : State :=
  s.debug 6 fun s c d =>
    match s.debugTeam? d with
    | none => s.refuse
    | some t =>
      match t.thread? d.lrank with
      | none => s.refuse
      | some h =>
        if s.dev.stepping.isSome || h.exited || !h.stopped || h.waitsAt != .none || t.standing != .resident || c.stopped || s.inPacket t.id h then s.refuse
        else
          let go := fun (h : Thread) => { h with stepOne := true, stepRun := false }
          { (s.goOn t d.lrank).modThread t.id d.lrank go with
            dev := { s.dev with stepping := some (t.id, d.lrank, s.replyTo), mhead := s.dev.mhead + 1 } }

/-- DUMP and LOAD: refused while a thread of the team is ready or waiting, or has not come to its packet boundary. -/
def State.image? (s : State) (d : DebugCmd) : Option (Team × Desc) :=
  match s.debugTeam? d with
  | none => none
  | some t => if t.quiet && !t.threads.any (fun h => !h.exited && s.inPacket t.id h) then (s.desc? t).map fun d => (t, d) else none

def State.dump (s : State) : State :=
  s.debug 7 fun s _ d =>
    match s.image? d with
    | none => s.refuse
    | some (t, x) => (s.dumpTeam t x d.addr).performed 0 []

/-- The first address of some bytes that lies in an uncorrectable or retired granule. -/
def State.badIn (s : State) (pa n : Nat) : Option Nat :=
  let spans := s.dev.badGranules.map (fun g => (32 * g, 32)) ++ s.dev.retiredHbm.map fun g => (65536 * g, 65536)
  (spans.filter fun r => decide (r.1 < pa + n ∧ pa < r.1 + r.2)).map (fun r => max pa r.1) |>.min?

def State.debugLoad (s : State) : State :=
  s.debug 8 fun s _ d =>
    match s.image? d with
    | none => s.refuse
    | some (t, x) =>
      match s.badIn (d.addr + 0x11740) (x.tsize * (384 + 4 * x.nreg)) with
      | some a => (s.dataRecord a).refuse
      | none => match s.loadTeam t x d.addr with
        | none => s.refuse
        | some s => s.performed 0 []

end Sys2Proof.Machine
end

