-- ==== Sys2Proof/Machine/DeviceEvents.lean ====
section
/-!
DEFINITION. Machine/DeviceEvents.lean: links, the time base, the monitors and the integrity of the audit log (R311, R354, R355,
R387, R403, R405 to R407).
-/

namespace Sys2Proof.Machine

open Sys2Proof

/-! ## Links (R311, R403) -/

/-- Lanes of a link that are left. -/
def Device.lanesOf (v : Device) (link : Nat) : Nat := match v.links.find? fun l => l.1 == link with | some l => l.2 | none => 0

def State.setLanes (s : State) (link lanes : Nat) : State :=
  s.modDev fun v => { v with links := mapIf (fun l => l.1 == link) (fun l => (l.1, lanes)) v.links }

/-- LANE: the link is retrained on the lanes that remain. -/
def State.laneLost (s : State) (link lanes : Nat) : State :=
  if lanes = 0 ∨ s.dev.lanesOf link ≤ lanes then s
  else ((s.setLanes link lanes).deviceRecord 0x0004 (link + 65536 * lanes) 0 0).note 8 0xFFFF

/-- The transfers of a command that no link can carry any more fail at their package. -/
def State.cutOff (s : State) (c : Cmd) : State :=
  match s.team? c.team, c.coll with
  | some t, some st => (st.unacked.filter fun e => !s.reaches t.ctx e.2.1).foldl (fun s e => s.fabricAck c.id e.1 0) s
  | _, _ => s

/-- LINKDOWN: no lane is left. Transfers that are not acknowledged go over another link, or fail where none leads to their package. -/
def State.linkDown (s : State) (link : Nat) : State :=
  if s.dev.lanesOf link = 0 then s
  else
    let s := (s.setLanes link 0).deviceRecord 0x0005 link 0 0
    s.cmds.foldl (fun s c => s.cutOff c) s

/-- A damaged flit is sent again, in order: nothing that the transfers do changes. -/
def State.damagedFlit (s : State) (_link : Nat) : State := s

/-! ## The time base (R111, R387) -/

/-- A STOP action for every context that `p` names. -/
def State.stopAll (s : State) (p : Context → Bool) (die cls detail : Nat) : State :=
  ((s.contexts.filter p).map (·.num)).foldl (fun s c => s.stopAction { die := die, cls := cls, action := 7, ctx := c, detail := detail }) s

/-- A lead in ticks, signed, as 64 bits. -/
def leadBits (lead : Int) : Nat := (lead % (2 ^ 64 : Int)).toNat

/-- The copy of a die stands `lead` ticks from that of bridge die 0: a copy that ran ahead holds more, and where it fell behind
time has passed that it did not count. -/
def State.drift (s : State) (die : Nat) (lead : Int) : State :=
  let own := s.gtime die
  let apart : Int := (own : Int) - lead - (s.gtime bridge0 : Int)
  let units := s.units + apart.toNat * Config.unitsPerTick
  let value := if 0 ≤ apart then own else ((s.gtime bridge0 : Int) + lead).toNat
  let set_ := fun (b : TimeBase) => { b with value := value, since := units, rate := 1, span := 0 }
  if die = bridge0 then s else { s with units := units, times := setAt s.times die set_ }

/-- Whether the copy of a die stands within 2 ticks of every other (R111). -/
def State.inStep (s : State) (die : Nat) : Bool :=
  (List.range s.times.length).all fun k => decide (s.gtime k ≤ s.gtime die + 2 ∧ s.gtime die ≤ s.gtime k + 2)

/-- TIME_BASE_COMPARE: a copy that leads by 2 counts at half rate until it leads by 1; one that trails, at double rate; one that
is lost, or cannot be held within 2 ticks of every other, stops the contexts with a core on its die (log entry 94). -/
def State.timeBaseCompare (s : State) (die : Nat) (lead : Int) (lost : Bool) : State :=
  if lost || decide (2 < lead ∨ lead < -2) || !(s.drift die lead).inStep die then
    (s.stopAll (fun c => c.cores.any fun k => k.1 == die) die 0x0204 0).deviceRecord 0x000E (leadBits lead) die 0
  else
    let s := s.drift die lead
    let held := fun (rate ticks : Nat) (b : TimeBase) => { b with rate := rate, span := ticks * Config.unitsPerTick }
    if 2 ≤ lead then ({ s with times := setAt s.times die (held 0 2) }).deviceRecord 0x000E (leadBits lead) die 0
    else if lead < 0 then ({ s with times := setAt s.times die (held 2 (-lead).toNat) }).deviceRecord 0x000E (leadBits lead) die 0
    else s

/-! ## Monitors (R354, R405, R406) -/

/-- A clock of a core group set to a rate in sixteenths, with what it has counted. -/
def GroupClock.setRate (c : GroupClock) (units rate : Nat) : GroupClock := { c with value := c.now units, since := units, rate := rate }

def State.modGroup (s : State) (die group : Nat) (f : GroupClock → GroupClock) : State :=
  { s with clocks := mapIf (fun c => c.die == die && c.group == group) f s.clocks }

/-- The rate that the thermal sensor asks for; the temperature is in sixteenths of a degree. -/
def thermalRate (rate cap temp : Nat) : Nat :=
  if 95 * 16 < temp then max 4 (rate - 1) else if temp < 90 * 16 then max rate (min cap (rate + 1)) else rate

/-- The thermal part of a reading: one sixteenth down above 95 °C, up below 90 °C; above 105 °C at one quarter everything stops. -/
def State.thermal (s : State) (die group temp : Nat) : State :=
  match s.group? die group with
  | none => s
  | some c =>
    if 105 * 16 < temp ∧ c.rate ≤ 4 then
      ((s.deviceRecord 0x000A temp die 0).stopAll (fun _ => true) die 0x0501 0x000A).modDev fun v => { v with phase := .shed }
    else
      let rate := thermalRate c.rate (c.cap - c.droop) temp
      if rate = c.rate then s
      else (s.modGroup die group fun c => c.setRate s.units rate).deviceRecord 0x0009 (rate % 16) die 0

/-- A droop: four sixteenths down, at most to one quarter, for 1 ms. -/
def State.drooped (s : State) (die group : Nat) : State :=
  let lower := fun (c : GroupClock) =>
    let by_ := min 4 (c.rate - 4)
    { (c.setRate s.units (c.rate - by_)) with droop := c.droop + by_, droopAt := s.gtime die + 1000000 }
  (s.modGroup die group lower).deviceRecord 0x000B 0 die 0

/-- A process margin below its limit: the clock is capped, and the core is repaired or retired (R405). -/
def State.processLow (s : State) (die group core : Nat) : State :=
  ((s.modGroup die group fun c => { c with cap := min c.cap c.rate }).deviceRecord 0x000C 0 die core).repairStarts die core

/-- MONITOR_READING: the readings of a core group, each acted on in turn. -/
def State.monitorReading (s : State) (die group temp : Nat) (droop : Bool) (proc : Option Nat) : State :=
  let s := s.thermal die group temp
  let s := if droop then s.drooped die group else s
  match proc with
  | some core => if coreGroup core = group ∧ core < 256 then s.processLow die group core else s
  | none => s

/-- DROOP_RESTORE: what the droop took is given back once its millisecond is over. -/
def State.droopRestore (s : State) (die group : Nat) : State :=
  match s.group? die group with
  | none => s
  | some c =>
    if c.droop = 0 ∨ s.gtime die < c.droopAt then s
    else s.modGroup die group fun c => { (c.setRate s.units (min c.cap (c.rate + c.droop))) with droop := 0 }

/-! ## The audit chain (R407) -/

/-- Whether a granule of HBM holds a part of an entry's mirror. -/
def Device.mirrors (v : Device) (g : Nat) : Bool := v.audit.entries.any fun e => e.seq % auditRoom == g / 2

/-- The mirror as the SRAM copy gives it; its granules are written whole (R386). -/
def State.rewriteMirror (s : State) : State :=
  { s with
    mem := s.dev.audit.entries.foldl (fun m e => putBytes m (64 * (e.seq % auditRoom)) (e.head ++ padTo 32 e.link)) s.mem
    dev := { s.dev with badGranules := s.dev.badGranules.filter fun g => !s.dev.mirrors g } }

/-- AUDIT_CHAIN_CHECK: a mirror that differs, or that cannot be read, is rewritten; an uncorrectable SRAM copy freezes the log. -/
def State.auditChainCheck (s : State) (mirrorOk sramOk : Bool) : State :=
  if !sramOk then s.modDev fun v => { v with audit := { v.audit with frozen := true } }
  else match s.dev.badGranules.find? s.dev.mirrors with
    | some g => (s.rewriteMirror.dataRecord (32 * g)).deviceRecord 0x000D (s.dev.audit.seq - 1) 0 0
    | none => if mirrorOk then s else s.rewriteMirror.deviceRecord 0x000D (s.dev.audit.seq - 1) 0 0

/-! ## What comes from outside (R349, R352, R385) -/

/-- A translation that the TLB of a die, or of one of its cores, drops: another page has taken its place (R97). -/
def State.tlbDrop (s : State) (die : Nat) (core : Option Nat) (ctx wa : Nat) : State :=
  match core with
  | some k => s.modCore die k fun c => { c with tlb := c.tlb.filter fun e => !e.covers ctx wa }
  | none => { s with dtlb := s.dtlb.filter fun e => !(e.1 == die && e.2.covers ctx wa) }

/-- What befalls the device comes about: an error in an array or in a core's control state, a note of the firmware's, a dropped translation, or a
write of the host's in its own memory. -/
def State.befalls (s : State) (e : Outside) : State :=
  match e with
  | .corrected pa => s.correctedAt pa
  | .correctedIn die core g => s.correctedIn die core g
  | .control die core => s.repairStarts die core
  | .tlb die core ctx wa => s.tlbDrop die core ctx wa
  | .sram p => if s.dev.badSram.contains p then s else s.modDev fun v => { v with badSram := v.badSram ++ [p] }
  | .l1 die core line => s.modCore die core fun c => { c with l1 := c.l1.filter fun l => l.line != line }
  | .icache die core line => s.modCore die core fun c => { c with icache := c.icache.filter fun l => l.1 != line }
  | .note ctx detail => if s.dev.audit.roomFor 9 && s.dev.audit.pending.isEmpty then s.audit 9 ctx detail else s
  | .host addr data => { s with hostMem := putBytes s.hostMem addr data }

end Sys2Proof.Machine
end

