-- ==== Sys2Proof/Machine/EventInstr.lean ====
section
/-!
DEFINITION. Machine/EventInstr.lean: the meanings of the rows of the opcode table that have no instruction word: the steps of the
device, its engines, its host and its surroundings. Each is one call of the operation that describes it; a step whose conditions do
not hold leaves the state as it is (log entry 3).
-/

namespace Sys2Proof.Machine

open Sys2Proof

/-- R345. Power-on starts a cold start: boot ROM, measured firmware stages, HBM training, self-test, audit log, link training, START entry, then waiting for FEATURE. -/
def execPowerOn (r : StartReport) (s : State) : Out := .next (s.powerOn r)

/-- R345. A driver-commanded cold reset runs the full cold-start sequence and destroys every context. -/
def execColdReset (r : StartReport) (s : State) : Out := .next (s.coldReset r)

/-- R345. A driver-commanded warm reset restarts the device, reusing the saved HBM training and spare map and keeping the audit log. -/
def execWarmReset (r : StartReport) (s : State) : Out := .next (s.warmReset r)

/-- R351. A memory-clear engine finishes zeroing a range, which then becomes free and is recorded by a CLEAR audit entry. -/
def execMemoryClearDone (k : Nat) (s : State) : Out := .next (s.memoryClearDone k)

/-- R349. A tail count written to the management doorbell makes the device take and perform management commands from the ring in order. -/
def execManagementDoorbell (tail : BitVec 32) (s : State) : Out := .next (s.managementDoorbell tail)

/-- R349. A write to a CXL.io register without behaviour of its own, such as MRING or MLOGN, sets it unless a command is unperformed. -/
def execRegisterWrite (offset : Nat) (value : BitVec 64) (s : State) : Out := .next (s.registerWrite offset value)

/-- R347. Management command that fixes ACCEPT as offer AND request and completes the last start step. -/
def execFeature (reply : Nat) (request : BitVec 128) (s : State) : Out := .next (s.ifNamed reply [] fun s => s.feature request)

/-- R350. Management command that creates a context from a 576-byte record, or is refused with no change. -/
def execCreate (reply : Nat) (rec : List (BitVec 8)) (s : State) : Out := .next (s.ifNamed reply [] fun s => s.create rec)

/-- R351. Management command that stops and discards a context's teams, drains its commands, scrubs its cores, invalidates its entries and hands its ranges to clearing. -/
def execRelease (reply : Nat) (ctx : Nat) (s : State) : Out := .next (s.ifNamed reply [] fun s => s.release ctx)

/-- R143. Management command that saves every team of a context to its context frame. -/
def execSwitch (reply : Nat) (ctx : Nat) (s : State) : Out := .next (s.ifNamed reply [] fun s => s.switch ctx)

/-- R143. Management command that saves all teams of a launch. -/
def execPreempt (reply : Nat) (ctx : Nat) (queue : Nat) (k : Nat) (s : State) : Out := .next (s.ifNamed reply [] fun s => s.preempt ctx queue k)

/-- R384. Management command that drops TLB and walker entries of a range, waits for accesses that used them, then replies. -/
def execInvalidate (reply : Nat) (ctx : Nat) (lvl : Nat) (base : Nat) (len : Nat) (s : State) : Out :=
  .next (s.ifNamed reply [(16, 1, ctx), (17, 1, lvl), (24, 8, base), (32, 8, len)] State.invalidate)

/-- R346. Management command that measures, verifies and loads a firmware stage into MEAS4 to MEAS7. -/
def execFwload (reply : Nat) (regs : List Nat) (digest : BitVec 512) (sigOk : Bool) (s : State) : Out :=
  .next (s.ifNamed reply [] fun s => s.fwload regs digest sigOk)

/-- R353. Management command that returns a signature over a host nonce, the measurement registers and the newest audit entry. -/
def execAttest (reply : Nat) (nonce : BitVec 256) (s : State) : Out := .next (s.ifNamed reply [] fun s => s.attest nonce)

/-- R352. Management command that returns audit entries and advances the driver's read mark, letting pending entries be appended. -/
def execLogread (reply : Nat) (count : Nat) (s : State) : Out := .next (s.ifNamed reply [] fun s => s.logread count)

/-- R353. Management command that returns a signature over SEQ and LINK of the newest audit entry. -/
def execLogsign (reply : Nat) (s : State) : Out := .next (s.ifNamed reply [] State.logsign)

/-- R356. Management command that migrates a core's teams onto a spare core with the same logical number. -/
def execRepair (reply : Nat) (die : Nat) (core : Nat) (s : State) : Out :=
  .next (if (s.dev.repairs.find? fun k => k.1 == die && k.2.1 == core).isSome then s.repair die core else s.ifNamed reply [] fun s => s.repair die core)

/-- R360. Management command that sets a context's or the device's error ring and clears CESTAT bits, replying with the old CESTAT. -/
def execErrctl (reply : Nat) (ctx : Nat) (logn : Nat) (ring : Nat) (consw : Nat) (prodw : Nat) (clr : Nat) (s : State) : Out :=
  .next (s.ifNamed reply [(16, 1, ctx), (17, 1, logn), (24, 8, ring), (32, 8, consw), (40, 8, prodw), (48, 4, clr)] State.errctl)

/-- R381. Management command that releases or fails the teams, commands and dispatcher reads waiting on translation faults in a range. -/
def execResolve (reply : Nat) (ctx : Nat) (out : Nat) (base : Nat) (len : Nat) (s : State) : Out :=
  .next (s.ifNamed reply [(16, 1, ctx), (17, 1, out), (24, 8, base), (32, 8, len)] State.resolve_)

/-- R372. DEBUG operation that sets a context's debug mode and event area. -/
def execDebugMode (reply : Nat) (ctx : Nat) (mode : Nat) (addr : Nat) (s : State) : Out :=
  .next (s.ifNamed reply [(17, 1, ctx), (18, 1, mode), (24, 8, addr)] State.debugSetMode)

/-- R374. DEBUG operation that sets a hardware breakpoint on a packet address of a core. -/
def execSetbp (reply : Nat) (ctx : Nat) (bp : Nat) (die : Nat) (core : Nat) (addr : Nat) (s : State) : Out :=
  .next (s.ifNamed reply [(17, 1, ctx), (19, 1, bp), (20, 1, die), (21, 1, core), (24, 8, addr)] State.setbp)

/-- R372. DEBUG operation that clears a hardware breakpoint. -/
def execClrbp (reply : Nat) (ctx : Nat) (bp : Nat) (die : Nat) (core : Nat) (s : State) : Out :=
  .next (s.ifNamed reply [(17, 1, ctx), (19, 1, bp), (20, 1, die), (21, 1, core)] State.clrbp)

/-- R376. DEBUG operation that stops the named threads as a breakpoint would, without an event. -/
def execDebugStop (reply : Nat) (ctx : Nat) (teamId : Nat) (lrank : Nat) (s : State) : Out :=
  .next (s.ifNamed reply [(17, 1, ctx), (32, 4, teamId), (36, 2, lrank)] State.debugStopCmd)

/-- R376. DEBUG operation that makes stopped threads ready again or leaves them parked. -/
def execDebugResume (reply : Nat) (ctx : Nat) (teamId : Nat) (lrank : Nat) (s : State) : Out :=
  .next (s.ifNamed reply [(17, 1, ctx), (32, 4, teamId), (36, 2, lrank)] State.debugResume)

/-- R377. DEBUG operation that issues one packet of a stopped thread in a bundle of its own and stops it again. -/
def execDebugStep (reply : Nat) (ctx : Nat) (teamId : Nat) (lrank : Nat) (s : State) : Out :=
  .next (s.ifNamed reply [(17, 1, ctx), (32, 4, teamId), (36, 2, lrank)] State.debugStep)

/-- R378. DEBUG operation that writes a team's image in context-frame layout without freeing anything. -/
def execDump (reply : Nat) (ctx : Nat) (addr : Nat) (teamId : Nat) (s : State) : Out :=
  .next (s.ifNamed reply [(17, 1, ctx), (24, 8, addr), (32, 4, teamId)] State.dump)

/-- R378. DEBUG operation that copies PC, PREC, PRED, AKEY and vector registers back into a stopped team. -/
def execDebugLoad (reply : Nat) (ctx : Nat) (addr : Nat) (teamId : Nat) (s : State) : Out :=
  .next (s.ifNamed reply [(17, 1, ctx), (24, 8, addr), (32, 4, teamId)] State.debugLoad)

/-- R131. A tail count written to a queue doorbell makes the dispatcher read the queue-table entry and take announced descriptors in order. -/
def execLaunchDoorbell (ctx : Nat) (queue : Nat) (tail : BitVec 32) (s : State) : Out := .next (s.fromHost fun s => s.launchDoorbell ctx queue tail)

/-- R134. A launch starts when both dependence counters reach their thresholds, its uniform words are read and its head count is written. -/
def execLaunchStart (ctx : Nat) (queue : Nat) (s : State) : Out := .next (s.launchStart ctx queue)

/-- R134. The dispatcher rereads dependence counters at least every 1,024 ticks and on every completion-event write. -/
def execDependenceRecheck (ctx : Nat) (queue : Nat) (s : State) : Out := .next (s.dependenceRecheck ctx queue)

/-- R137. When a core or rectangle has room, the dispatcher places the next team or cluster, assigns its slot, homes its threads and writes its initial uniforms. -/
def execTeamPlacement (ctx : Nat) (queue : Nat) (s : State) : Out := .next (s.teamPlacement ctx queue)

/-- R136. When all teams have exited and all their commands completed, the dispatcher increments the DONE counter as a release write. -/
def execLaunchCompletion (launch : Nat) (s : State) : Out := .next (s.launchCompletion launch)

/-- R160. A course's picker chooses a (frame, PC) pair and issues its packet as a bundle, after checking the whole packet for legality. -/
def execPacketIssue (die : Nat) (core : Nat) (course : Nat) (s : State) : Out := .next (s.packetIssue die core course)

/-- R139. A thread ready for 1,024 core clocks becomes aged and takes precedence at the picker. -/
def execThreadAging (team : Nat) (lrank : Nat) (s : State) : Out := .next (s.threadAging team lrank)

/-- R197. A yield's count of core clocks runs out and the thread becomes ready with the yield mark. -/
def execYieldExpiry (team : Nat) (lrank : Nat) (s : State) : Out := .next (s.yieldExpiry team lrank)

/-- R159. A load's data arrives, its destination is written and its completion flag clears when all tracked instructions are done. -/
def execLoadCompletion (part : Part) (s : State) : Out := .next (s.loadCompletion part.id part.items)

/-- R159. A tracked special-function, XF or accumulator-read operation writes its destination and its flag clears. -/
def execTrackedOpCompletion (part : Part) (s : State) : Out := .next (s.trackedCompletion part.id part.items)

/-- R116. A write's completion time t returns to the issuing thread, which raises FH to it. -/
def execWriteCompletionReturn (op : Nat) (s : State) : Out := .next (s.writeReturn op)

/-- R116. A store arrives at its line's home L2 and is performed with t past every unexpired lease. -/
def execStoreAtHome (op : Nat) (s : State) : Out := .next (s.storeAtHome op)

/-- R244. An atomic or RED on a RED=0 page is performed at the home L2 after any partial merge. -/
def execAtomicAtHome (op : Nat) (s : State) : Out := .next (s.atomicAtHome op)

/-- R129. A RED on a RED page combines into the issuing die's private partial value. -/
def execRedAtDieL2 (op : Nat) (s : State) : Out := .next (s.redAtDieL2 op)

/-- R104. A fill reply arrives at L1 and merges into the line under its lease and stamp. -/
def execL1Fill (op : Nat) (evicted : List Nat) (s : State) : Out := .next (s.l1Fill op evicted)

/-- R115. An L1 copy's lease end passes and the whole line becomes invalid. -/
def execLeaseExpiry (die : Nat) (core : Nat) (line : Nat) (s : State) : Out := .next (s.leaseExpiry die core line)

/-- R121. A host write over CXL.cache is placed in a SYSTEM-scope location's order at the home. -/
def execHostCxlWrite (pa : Nat) (data : List (BitVec 8)) (s : State) : Out := .next (s.fromHost fun s => s.hostWrite pa data)

/-- R95. A die TLB miss walks the three-level page table in HBM and returns a translation or a fault. -/
def execPageWalk (die : Nat) (core : Nat) (ctx : Nat) (va : Nat) (s : State) : Out := .next (s.pageWalk die core ctx va)

/-- R404. The HBM controller spares a failing row or pseudo-channel, copying readable data, or retires the granule. -/
def execHbmSpare (pa : Nat) (corr : Bool) (spareLeft : Bool) (s : State) : Out := .next (s.hbmSpare pa corr spareLeft)

/-- R141. At the end of a 1,024-clock window with 32 re-references the permit count P is halved. -/
def execLocalityWindowEnd (die : Nat) (core : Nat) (s : State) : Out := .next (s.localityWindow die core)

/-- R141. After 4,096 clocks without a heavy window, P rises by one and a waiting team takes the free permit. -/
def execPermitIncrease (die : Nat) (core : Nat) (s : State) : Out := .next (s.permitIncrease die core)

/-- R142. Every 4,096 core clocks while a team waits, the longest-held load permit moves to the longest-waiting team. -/
def execPermitRotation (die : Nat) (core : Nat) (s : State) : Out := .next (s.permitRotation die core)

/-- R46. A parked TCALL's fork reservation is met from the core pool in rendezvous order and the sub-teams begin. -/
def execForkReservation (die : Nat) (core : Nat) (s : State) : Out := .next (s.forkReservation die core)

/-- R54. When all sub-teams are complete, the join merges result registers, returns forks and releases the parent no earlier than GTIME ≥ H + 2. -/
def execJoin (team : Nat) (frame : Nat) (s : State) : Out := .next (s.join team frame)

/-- R120. A team, cluster or grid barrier releases its participants no earlier than GTIME ≥ H + 2, raising their FH and RH. -/
def execBarrierRelease (kind : Nat) (team : Nat) (frame : Nat) (bar : Nat) (s : State) : Out := .next (s.barrierRelease kind team frame bar)

/-- R152. The bow arrives at the next team after its holder's BOW-page writes have returned t, no earlier than GTIME ≥ T + 2. -/
def execBowArrival (launch : Nat) (s : State) : Out := .next (s.bowArrival launch)

/-- R365. A rendezvous open past its limit writes one stall record and keeps waiting. -/
def execRendezvousWatchdog (team : Nat) (lrank : Nat) (s : State) : Out := .next (s.watchdog team lrank)

/-- R369. After all flags clear, a trapping thread writes its trap record, pushes its resume point and jumps to its vector. -/
def execTrapEntry (team : Nat) (lrank : Nat) (s : State) : Out := .next (s.trapEntry team lrank)

/-- R144. A team stops issuing, waits for its writes and core-local commands, records abandoned loads and writes its context frame. -/
def execTeamSave (team : Nat) (s : State) : Out := .next (s.teamSave team)

/-- R264. A thread with an open command window that issues 256 packets without GO lets the pending save begin, losing the window. -/
def execOpenWindowLimit (team : Nat) (lrank : Nat) (s : State) : Out := .next (s.openWindowLimit team lrank)

/-- R146. A saved team is placed back on a core, its frame restored and its recorded loads reissued. -/
def execTeamRestore (team : Nat) (s : State) : Out := .next (s.teamRestore team)

/-- R261. A store to a command window's GO offset sends the window as a command, acting as a release. -/
def execCommandGo (op : Nat) (s : State) : Out := .next (s.commandGo op)

/-- R262. When queue room and counter limits allow, the command is latched with its handles, counters rise and its tag becomes busy. -/
def execCommandAcceptance (op : Nat) (s : State) : Out := .next (s.commandAcceptance op)

/-- R123. An engine command's writes are all performed, its status word is written, and its counter, tag and TAGRDY change. -/
def execCommandCompletion (cmd : Nat) (s : State) : Out := .next (s.commandCompletion cmd)

/-- R127. A command's notify counter is incremented at its home once GTIME ≥ Tc + 2. -/
def execNotifyRelease (cmd : Nat) (s : State) : Out := .next (s.notifyRelease cmd)

/-- R281. A matrix command finishes reading its operand-buffer words and lowers its operands-consumed counter. -/
def execMmaOperandsConsumed (cmd : Nat) (s : State) : Out := .next (s.operandsConsumed cmd)

/-- R277. Copy command that copies LEN bytes from SRC to DST. -/
def execCopy (cmd : Nat) (done : List Nat) (s : State) : Out := .next (s.copy cmd done)

/-- R277. Copy command that copies a strided three-dimensional block of rows. -/
def execCopynd (cmd : Nat) (done : List Nat) (s : State) : Out := .next (s.copynd cmd done)

/-- R277. Copy command that combines source elements into the destination by add, min or max, locally or on a peer package. -/
def execCopyred (cmd : Nat) (done : List Nat) (s : State) : Out := .next (s.copyred cmd done)

/-- R277. Copy command that writes VALUE to each word of a range. -/
def execFill (cmd : Nat) (done : List Nat) (s : State) : Out := .next (s.fill cmd done)

/-- R277. Copy command that loads lines of a tile handle's operand-buffer range from memory. -/
def execOsbload (cmd : Nat) (done : List Nat) (s : State) : Out := .next (s.osbload cmd done)

/-- R277. Copy command that moves accumulator entries to or from memory, with optional conversion. -/
def execAccmove (cmd : Nat) (done : List Nat) (s : State) : Out := .next (s.accmove cmd done)

/-- R279. Matrix command that multiplies A and B tiles into accumulator entries with exact chunked rounding. -/
def execMma (part : Part) (s : State) : Out := .next (s.mma part.id 0x10 part.items)

/-- R280. Matrix command like MMA with a 2:4-compressed A operand and its metadata. -/
def execMmas (part : Part) (s : State) : Out := .next (s.mma part.id 0x11 part.items)

/-- R282. Launch command that appends a descriptor to a queue of its own context when the ring has room. -/
def execLaunch (cmd : Nat) (s : State) : Out := .next (s.launchCmd cmd)

/-- R282. A LAUNCH that gained no ring room within 2^26 ticks completes with QFULL. -/
def execLaunchQfullTimeout (cmd : Nat) (s : State) : Out := .next (s.launchTimeout cmd)

/-- R298. Attention command that captures block bounds, sorts them and begins bounded visits, or resumes from a cursor. -/
def execAttn (cmd : Nat) (s : State) : Out := .next (s.attn cmd)

/-- R300. The sequencer visits the next sorted block, reading keys and values stably and updating each query's softmax state. -/
def execAttnVisit (cmd : Nat) (s : State) : Out := .next (s.attnVisit cmd)

/-- R306. A parked ATTN continues by itself once the faulting page is present. -/
def execAttnParkResume (cmd : Nat) (s : State) : Out := .next (s.attnParkResume cmd)

/-- R392. A stable read that has not succeeded within 256 attempts or 2^20 ticks halts ATTN with UNSTABLE. -/
def execAttnUnstable (cmd : Nat) (s : State) : Out := .next (s.attnUnstable cmd)

/-- R293. Maintenance command that appends a quantised key and value to a block and widens its envelope. -/
def execKapp (cmd : Nat) (s : State) : Out := .next (s.kapp cmd)

/-- R293. Maintenance command that requantises a block's keys and values with new scales and recomputes its envelope. -/
def execKreq (cmd : Nat) (s : State) : Out := .next (s.kreq cmd)

/-- R293. Maintenance command that rotates a block's key channel pairs by position-dependent angles. -/
def execKrot (cmd : Nat) (s : State) : Out := .next (s.krot cmd)

/-- R293. Maintenance command that recomputes a block's envelope. -/
def execKsum (cmd : Nat) (s : State) : Out := .next (s.ksum cmd)

/-- R293. Maintenance command that truncates a block's key count. -/
def execKtrunc (cmd : Nat) (s : State) : Out := .next (s.ktrunc cmd)

/-- R291. A maintenance command finding its block held retries the claim within 64 ticks. -/
def execBlockClaimRetry (cmd : Nat) (s : State) : Out := .next (s.claimRetry cmd)

/-- R392. A maintenance command that cannot claim its block within 2^24 ticks completes with BUSY. -/
def execMaintenanceBusy (cmd : Nat) (s : State) : Out := .next (s.maintenanceBusy cmd)

/-- R315. Collective command that starts a step program on a collective engine. -/
def execCprog (cmd : Nat) (s : State) : Out := .next (s.cprog cmd)

/-- R319. Collective step that writes a chunk into a peer's slot once a slot is free, then releases its TAIL. -/
def execSend (cmd : Nat) (s : State) : Out := .next (s.collSend cmd)

/-- R320. Collective step that takes a chunk from its own slot once TAIL advances and sends the slot-release notice. -/
def execRecv (cmd : Nat) (s : State) : Out := .next (s.collRecv cmd)

/-- R320. Collective step that receives a chunk, combines it with a local one, optionally keeps it and sends it on. -/
def execRrs (cmd : Nat) (s : State) : Out := .next (s.collRrs cmd)

/-- R320. Collective step that copies L bytes between local buffers. -/
def execCprogCopy (cmd : Nat) (s : State) : Out := .next (s.collCopy cmd)

/-- R320. Collective step that acquire-reads a symmetric counter until it reaches VAL. -/
def execCprogWait (cmd : Nat) (s : State) : Out := .next (s.collWait cmd)

/-- R320. Collective step that release-adds VAL to a symmetric counter on a peer. -/
def execNotify (cmd : Nat) (s : State) : Out := .next (s.collNotify cmd)

/-- R320. Collective step that starts a counted loop or skips it. -/
def execLoop (cmd : Nat) (s : State) : Out := .next (s.collLoop cmd)

/-- R320. Collective step that advances a loop counter and branches back while below the count. -/
def execEndloop (cmd : Nat) (s : State) : Out := .next (s.collEndloop cmd)

/-- R320. Collective step that computes a peer register by add, xor or mirror modulo SIZE. -/
def execPeer (cmd : Nat) (s : State) : Out := .next (s.collPeer cmd)

/-- R322. Collective step that reserves rows in a peer's row area and writes them, or takes OVF on FULL. -/
def execPutr (cmd : Nat) (s : State) : Out := .next (s.collPutr cmd)

/-- R317. Collective step that ends the program; the command completes after remote acknowledgements. -/
def execEndStep (cmd : Nat) (s : State) : Out := .next (s.collEnd cmd)

/-- R322. A PUTR's fetch-add request is performed at the home of USED, granting rows or FULL. -/
def execPutrReserve (cmd : Nat) (got : Nat × Nat) (s : State) : Out := .next (s.putrReserve cmd got.1 got.2)

/-- R319. A waiting program rereads its slot header words at least every 256 ticks or when a write arrives. -/
def execSlotHeaderReread (cmd : Nat) (s : State) : Out := .next (s.slotReread cmd)

/-- R393. A collective wait longer than TMO·1,024 ticks ends the program with TIMEOUT. -/
def execCprogTimeout (cmd : Nat) (s : State) : Out := .next (s.cprogTimeout cmd)

/-- R312. A fabric write is performed at its home in the destination package and acknowledged with its t. -/
def execFabricWriteArrival (msg : FabricMsg) (s : State) : Out := .next (s.fabricArrival msg)

/-- R312. An acknowledgement arrives at the issuing engine, giving the write's completion time. -/
def execFabricAck (cmd : Nat) (seq : Nat) (value : Nat) (s : State) : Out := .next (s.fabricAck cmd seq value)

/-- R403. A fabric or UCIe lane is lost; the link retrains on the remaining lanes and LANE is recorded. -/
def execLane (link : Nat) (lanes : Nat) (s : State) : Out := .next (s.laneLost link lanes)

/-- R403. A link or module loses its last lane; unacknowledged flits go over another link or accesses fail with PEER. -/
def execLinkdown (link : Nat) (s : State) : Out := .next (s.linkDown link)

/-- R387. Every 256 ticks each die's GTIME is compared with bridge die 0 and corrected in rate, or contexts are stopped. -/
def execTimeBaseCompare (die : Nat) (lead : Int) (lost : Bool) (s : State) : Out := .next (s.timeBaseCompare die lead lost)

/-- R406. Every 10 µs the management controller reads thermal, droop and process monitors and throttles, raises or stops. -/
def execMonitorReading (die : Nat) (group : Nat) (temp : Nat) (droop : Bool) (proc : Option Nat) (s : State) : Out :=
  .next (s.monitorReading die group temp droop proc)

/-- R406. One millisecond after a droop trip the lowered clock is restored. -/
def execDroopRestore (die : Nat) (group : Nat) (s : State) : Out := .next (s.droopRestore die group)

/-- R407. Once a minute the SRAM audit chain is checked against its HBM mirror, rewriting the mirror on mismatch. -/
def execAuditChainCheck (mirrorOk : Bool) (sramOk : Bool) (s : State) : Out := .next (s.auditChainCheck mirrorOk sramOk)

/-- R118. The wait of a stalling instruction, or the release part of ST.REL, a GO store or PUSH, ends once its conditions hold and GTIME reaches FH + 2 or H + 2; the instruction then sets FH and RH, and the thread's held-back accesses and next packet may go. -/
def execStallingWaitEnd (op : Nat) (s : State) : Out := .next (s.stallingWaitEnd op)

/-- R311. A fabric link receives a flit that arrives damaged and sends it again, keeping its flits in order. -/
def execDamagedFlit (link : Nat) (s : State) : Out := .next (s.damagedFlit link)

end Sys2Proof.Machine
end

