-- ==== Sys2Proof/Machine/Dispatch.lean ====
section
/-!
DEFINITION. Machine/Dispatch.lean: the meaning of every instruction word and of every other step of the opcode table.
-/

namespace Sys2Proof.Machine

open Sys2Proof

def exec (i : Instr) (s : State) : Host.Outcome State Fault Refusal :=
  match i with
  | .powerOn r => Sys2Proof.Machine.execPowerOn r s
  | .coldReset r => Sys2Proof.Machine.execColdReset r s
  | .warmReset r => Sys2Proof.Machine.execWarmReset r s
  | .memoryClearDone k => Sys2Proof.Machine.execMemoryClearDone k s
  | .managementDoorbell tail => Sys2Proof.Machine.execManagementDoorbell tail s
  | .registerWrite offset value => Sys2Proof.Machine.execRegisterWrite offset value s
  | .feature reply request => Sys2Proof.Machine.execFeature reply request s
  | .create reply rec => Sys2Proof.Machine.execCreate reply rec s
  | .release reply ctx => Sys2Proof.Machine.execRelease reply ctx s
  | .switch reply ctx => Sys2Proof.Machine.execSwitch reply ctx s
  | .preempt reply ctx queue k => Sys2Proof.Machine.execPreempt reply ctx queue k s
  | .invalidate reply ctx lvl base len => Sys2Proof.Machine.execInvalidate reply ctx lvl base len s
  | .fwload reply regs digest sigOk => Sys2Proof.Machine.execFwload reply regs digest sigOk s
  | .attest reply nonce => Sys2Proof.Machine.execAttest reply nonce s
  | .logread reply count => Sys2Proof.Machine.execLogread reply count s
  | .logsign reply => Sys2Proof.Machine.execLogsign reply s
  | .repair reply die core => Sys2Proof.Machine.execRepair reply die core s
  | .errctl reply ctx logn ring consw prodw clr => Sys2Proof.Machine.execErrctl reply ctx logn ring consw prodw clr s
  | .resolve reply ctx out base len => Sys2Proof.Machine.execResolve reply ctx out base len s
  | .debugMode reply ctx mode addr => Sys2Proof.Machine.execDebugMode reply ctx mode addr s
  | .setbp reply ctx bp die core addr => Sys2Proof.Machine.execSetbp reply ctx bp die core addr s
  | .clrbp reply ctx bp die core => Sys2Proof.Machine.execClrbp reply ctx bp die core s
  | .debugStop reply ctx teamId lrank => Sys2Proof.Machine.execDebugStop reply ctx teamId lrank s
  | .debugResume reply ctx teamId lrank => Sys2Proof.Machine.execDebugResume reply ctx teamId lrank s
  | .debugStep reply ctx teamId lrank => Sys2Proof.Machine.execDebugStep reply ctx teamId lrank s
  | .dump reply ctx addr teamId => Sys2Proof.Machine.execDump reply ctx addr teamId s
  | .debugLoad reply ctx addr teamId => Sys2Proof.Machine.execDebugLoad reply ctx addr teamId s
  | .launchDoorbell ctx queue tail => Sys2Proof.Machine.execLaunchDoorbell ctx queue tail s
  | .launchStart ctx queue => Sys2Proof.Machine.execLaunchStart ctx queue s
  | .dependenceRecheck ctx queue => Sys2Proof.Machine.execDependenceRecheck ctx queue s
  | .teamPlacement ctx queue => Sys2Proof.Machine.execTeamPlacement ctx queue s
  | .launchCompletion launch => Sys2Proof.Machine.execLaunchCompletion launch s
  | .packetIssue die core course => Sys2Proof.Machine.execPacketIssue die core course s
  | .threadAging team lrank => Sys2Proof.Machine.execThreadAging team lrank s
  | .yieldExpiry team lrank => Sys2Proof.Machine.execYieldExpiry team lrank s
  | .loadCompletion part => Sys2Proof.Machine.execLoadCompletion part s
  | .trackedOpCompletion part => Sys2Proof.Machine.execTrackedOpCompletion part s
  | .writeCompletionReturn op => Sys2Proof.Machine.execWriteCompletionReturn op s
  | .storeAtHome op => Sys2Proof.Machine.execStoreAtHome op s
  | .atomicAtHome op => Sys2Proof.Machine.execAtomicAtHome op s
  | .redAtDieL2 op => Sys2Proof.Machine.execRedAtDieL2 op s
  | .l1Fill op evicted => Sys2Proof.Machine.execL1Fill op evicted s
  | .leaseExpiry die core line => Sys2Proof.Machine.execLeaseExpiry die core line s
  | .hostCxlWrite pa data => Sys2Proof.Machine.execHostCxlWrite pa data s
  | .pageWalk die core ctx va => Sys2Proof.Machine.execPageWalk die core ctx va s
  | .hbmSpare pa corr spareLeft => Sys2Proof.Machine.execHbmSpare pa corr spareLeft s
  | .localityWindowEnd die core => Sys2Proof.Machine.execLocalityWindowEnd die core s
  | .permitIncrease die core => Sys2Proof.Machine.execPermitIncrease die core s
  | .permitRotation die core => Sys2Proof.Machine.execPermitRotation die core s
  | .forkReservation die core => Sys2Proof.Machine.execForkReservation die core s
  | .join team frame => Sys2Proof.Machine.execJoin team frame s
  | .barrierRelease kind team frame bar => Sys2Proof.Machine.execBarrierRelease kind team frame bar s
  | .bowArrival launch => Sys2Proof.Machine.execBowArrival launch s
  | .rendezvousWatchdog team lrank => Sys2Proof.Machine.execRendezvousWatchdog team lrank s
  | .trapEntry team lrank => Sys2Proof.Machine.execTrapEntry team lrank s
  | .teamSave team => Sys2Proof.Machine.execTeamSave team s
  | .openWindowLimit team lrank => Sys2Proof.Machine.execOpenWindowLimit team lrank s
  | .teamRestore team => Sys2Proof.Machine.execTeamRestore team s
  | .commandGo op => Sys2Proof.Machine.execCommandGo op s
  | .commandAcceptance op => Sys2Proof.Machine.execCommandAcceptance op s
  | .commandCompletion cmd => Sys2Proof.Machine.execCommandCompletion cmd s
  | .notifyRelease cmd => Sys2Proof.Machine.execNotifyRelease cmd s
  | .mmaOperandsConsumed cmd => Sys2Proof.Machine.execMmaOperandsConsumed cmd s
  | .copy cmd done => Sys2Proof.Machine.execCopy cmd done s
  | .copynd cmd done => Sys2Proof.Machine.execCopynd cmd done s
  | .copyred cmd done => Sys2Proof.Machine.execCopyred cmd done s
  | .fill cmd done => Sys2Proof.Machine.execFill cmd done s
  | .osbload cmd done => Sys2Proof.Machine.execOsbload cmd done s
  | .accmove cmd done => Sys2Proof.Machine.execAccmove cmd done s
  | .mma part => Sys2Proof.Machine.execMma part s
  | .mmas part => Sys2Proof.Machine.execMmas part s
  | .launch cmd => Sys2Proof.Machine.execLaunch cmd s
  | .launchQfullTimeout cmd => Sys2Proof.Machine.execLaunchQfullTimeout cmd s
  | .attn cmd => Sys2Proof.Machine.execAttn cmd s
  | .attnVisit cmd => Sys2Proof.Machine.execAttnVisit cmd s
  | .attnParkResume cmd => Sys2Proof.Machine.execAttnParkResume cmd s
  | .attnUnstable cmd => Sys2Proof.Machine.execAttnUnstable cmd s
  | .kapp cmd => Sys2Proof.Machine.execKapp cmd s
  | .kreq cmd => Sys2Proof.Machine.execKreq cmd s
  | .krot cmd => Sys2Proof.Machine.execKrot cmd s
  | .ksum cmd => Sys2Proof.Machine.execKsum cmd s
  | .ktrunc cmd => Sys2Proof.Machine.execKtrunc cmd s
  | .blockClaimRetry cmd => Sys2Proof.Machine.execBlockClaimRetry cmd s
  | .maintenanceBusy cmd => Sys2Proof.Machine.execMaintenanceBusy cmd s
  | .cprog cmd => Sys2Proof.Machine.execCprog cmd s
  | .send cmd => Sys2Proof.Machine.execSend cmd s
  | .recv cmd => Sys2Proof.Machine.execRecv cmd s
  | .rrs cmd => Sys2Proof.Machine.execRrs cmd s
  | .cprogCopy cmd => Sys2Proof.Machine.execCprogCopy cmd s
  | .cprogWait cmd => Sys2Proof.Machine.execCprogWait cmd s
  | .notify cmd => Sys2Proof.Machine.execNotify cmd s
  | .loop cmd => Sys2Proof.Machine.execLoop cmd s
  | .endloop cmd => Sys2Proof.Machine.execEndloop cmd s
  | .peer cmd => Sys2Proof.Machine.execPeer cmd s
  | .putr cmd => Sys2Proof.Machine.execPutr cmd s
  | .endStep cmd => Sys2Proof.Machine.execEndStep cmd s
  | .putrReserve cmd got => Sys2Proof.Machine.execPutrReserve cmd got s
  | .slotHeaderReread cmd => Sys2Proof.Machine.execSlotHeaderReread cmd s
  | .cprogTimeout cmd => Sys2Proof.Machine.execCprogTimeout cmd s
  | .fabricWriteArrival msg => Sys2Proof.Machine.execFabricWriteArrival msg s
  | .fabricAck cmd seq value => Sys2Proof.Machine.execFabricAck cmd seq value s
  | .lane link lanes => Sys2Proof.Machine.execLane link lanes s
  | .linkdown link => Sys2Proof.Machine.execLinkdown link s
  | .timeBaseCompare die lead lost => Sys2Proof.Machine.execTimeBaseCompare die lead lost s
  | .monitorReading die group temp droop proc => Sys2Proof.Machine.execMonitorReading die group temp droop proc s
  | .droopRestore die group => Sys2Proof.Machine.execDroopRestore die group s
  | .auditChainCheck mirrorOk sramOk => Sys2Proof.Machine.execAuditChainCheck mirrorOk sramOk s
  | .iadd c g d a b => Sys2Proof.Machine.execIadd c g d a b s
  | .isub c g d a b => Sys2Proof.Machine.execIsub c g d a b s
  | .imul c g d a b => Sys2Proof.Machine.execImul c g d a b s
  | .imulhiI32 c g d a b => Sys2Proof.Machine.execImulhiI32 c g d a b s
  | .imulhiN32 c g d a b => Sys2Proof.Machine.execImulhiN32 c g d a b s
  | .iminI32 c g d a b => Sys2Proof.Machine.execIminI32 c g d a b s
  | .iminN32 c g d a b => Sys2Proof.Machine.execIminN32 c g d a b s
  | .imaxI32 c g d a b => Sys2Proof.Machine.execImaxI32 c g d a b s
  | .imaxN32 c g d a b => Sys2Proof.Machine.execImaxN32 c g d a b s
  | .iaddSatI32 c g d a b => Sys2Proof.Machine.execIaddSatI32 c g d a b s
  | .iaddSatN32 c g d a b => Sys2Proof.Machine.execIaddSatN32 c g d a b s
  | .isubSatI32 c g d a b => Sys2Proof.Machine.execIsubSatI32 c g d a b s
  | .isubSatN32 c g d a b => Sys2Proof.Machine.execIsubSatN32 c g d a b s
  | .iaddI64 c g d a b => Sys2Proof.Machine.execIaddI64 c g d a b s
  | .isubI64 c g d a b => Sys2Proof.Machine.execIsubI64 c g d a b s
  | .imad c g d a b => Sys2Proof.Machine.execImad c g d a b s
  | .and c g d a b => Sys2Proof.Machine.execAnd c g d a b s
  | .or c g d a b => Sys2Proof.Machine.execOr c g d a b s
  | .xor c g d a b => Sys2Proof.Machine.execXor c g d a b s
  | .andn c g d a b => Sys2Proof.Machine.execAndn c g d a b s
  | .not c g d a => Sys2Proof.Machine.execNot c g d a s
  | .shl c g d a b => Sys2Proof.Machine.execShl c g d a b s
  | .shr c g d a b => Sys2Proof.Machine.execShr c g d a b s
  | .sar c g d a b => Sys2Proof.Machine.execSar c g d a b s
  | .rotl c g d a b => Sys2Proof.Machine.execRotl c g d a b s
  | .rotr c g d a b => Sys2Proof.Machine.execRotr c g d a b s
  | .bitgetN32 c g d a b => Sys2Proof.Machine.execBitgetN32 c g d a b s
  | .bitgetI32 c g d a b => Sys2Proof.Machine.execBitgetI32 c g d a b s
  | .bitins c g d a b => Sys2Proof.Machine.execBitins c g d a b s
  | .popc c g d a => Sys2Proof.Machine.execPopc c g d a s
  | .clz c g d a => Sys2Proof.Machine.execClz c g d a s
  | .ctz c g d a => Sys2Proof.Machine.execCtz c g d a s
  | .brev c g d a => Sys2Proof.Machine.execBrev c g d a s
  | .sel c g d a b q => Sys2Proof.Machine.execSel c g d a b q s
  | .iaddUniform c g d a u => Sys2Proof.Machine.execIaddUniform c g d a u s
  | .isubUniform c g d a u => Sys2Proof.Machine.execIsubUniform c g d a u s
  | .imulUniform c g d a u => Sys2Proof.Machine.execImulUniform c g d a u s
  | .andUniform c g d a u => Sys2Proof.Machine.execAndUniform c g d a u s
  | .iaddImm c g d a im lit => Sys2Proof.Machine.execIaddImm c g d a im lit s
  | .andImm c g d a im lit => Sys2Proof.Machine.execAndImm c g d a im lit s
  | .orImm c g d a im lit => Sys2Proof.Machine.execOrImm c g d a im lit s
  | .xorImm c g d a im lit => Sys2Proof.Machine.execXorImm c g d a im lit s
  | .shlImm c g d a im lit => Sys2Proof.Machine.execShlImm c g d a im lit s
  | .icmp c g p a b k f => Sys2Proof.Machine.execIcmp c g p a b k f s
  | .mov c g d a => Sys2Proof.Machine.execMov c g d a s
  | .mov64 c g d a => Sys2Proof.Machine.execMov64 c g d a s
  | .pand c g d a b => Sys2Proof.Machine.execPand c g d a b s
  | .por c g d a b => Sys2Proof.Machine.execPor c g d a b s
  | .pxor c g d a b => Sys2Proof.Machine.execPxor c g d a b s
  | .pandn c g d a b => Sys2Proof.Machine.execPandn c g d a b s
  | .pmov c g d a => Sys2Proof.Machine.execPmov c g d a s
  | .ptst c g d a => Sys2Proof.Machine.execPtst c g d a s
  | .rand c g d a b => Sys2Proof.Machine.execRand c g d a b s
  | .movH0 c g d a => Sys2Proof.Machine.execMovH0 c g d a s
  | .movH1 c g d a => Sys2Proof.Machine.execMovH1 c g d a s
  | .movImm c g d im lit => Sys2Proof.Machine.execMovImm c g d im lit s
  | .uadd c d a b => Sys2Proof.Machine.execUadd c d a b s
  | .usub c d a b => Sys2Proof.Machine.execUsub c d a b s
  | .umul c d a b => Sys2Proof.Machine.execUmul c d a b s
  | .uand c d a b => Sys2Proof.Machine.execUand c d a b s
  | .uor c d a b => Sys2Proof.Machine.execUor c d a b s
  | .uxor c d a b => Sys2Proof.Machine.execUxor c d a b s
  | .ushl c d a b => Sys2Proof.Machine.execUshl c d a b s
  | .ushr c d a b => Sys2Proof.Machine.execUshr c d a b s
  | .uaddImm c d a im lit => Sys2Proof.Machine.execUaddImm c d a im lit s
  | .usubImm c d a im lit => Sys2Proof.Machine.execUsubImm c d a im lit s
  | .umulImm c d a im lit => Sys2Proof.Machine.execUmulImm c d a im lit s
  | .uandImm c d a im lit => Sys2Proof.Machine.execUandImm c d a im lit s
  | .uorImm c d a im lit => Sys2Proof.Machine.execUorImm c d a im lit s
  | .uxorImm c d a im lit => Sys2Proof.Machine.execUxorImm c d a im lit s
  | .ushlImm c d a im lit => Sys2Proof.Machine.execUshlImm c d a im lit s
  | .ushrImm c d a im lit => Sys2Proof.Machine.execUshrImm c d a im lit s
  | .movVFromS c d u => Sys2Proof.Machine.execMovVFromS c d u s
  | .movSFromV c d a => Sys2Proof.Machine.execMovSFromV c d a s
  | .mov64VFromS c d u => Sys2Proof.Machine.execMov64VFromS c d u s
  | .mov64SFromV c d a => Sys2Proof.Machine.execMov64SFromV c d a s
  | .movUniformImm c d im lit => Sys2Proof.Machine.execMovUniformImm c d im lit s
  | .ucmp c u p a im lit => Sys2Proof.Machine.execUcmp c u p a im lit s
  | .faddF32 c g d a b => Sys2Proof.Machine.execFaddF32 c g d a b s
  | .fsubF32 c g d a b => Sys2Proof.Machine.execFsubF32 c g d a b s
  | .fmulF32 c g d a b => Sys2Proof.Machine.execFmulF32 c g d a b s
  | .ffmaF32 c g d a b => Sys2Proof.Machine.execFfmaF32 c g d a b s
  | .ffmsF32 c g d a b => Sys2Proof.Machine.execFfmsF32 c g d a b s
  | .fnmaF32 c g d a b => Sys2Proof.Machine.execFnmaF32 c g d a b s
  | .fminF32 c g d a b => Sys2Proof.Machine.execFminF32 c g d a b s
  | .fmaxF32 c g d a b => Sys2Proof.Machine.execFmaxF32 c g d a b s
  | .fabsF32 c g d a => Sys2Proof.Machine.execFabsF32 c g d a s
  | .fnegF32 c g d a => Sys2Proof.Machine.execFnegF32 c g d a s
  | .fcopysignF32 c g d a b => Sys2Proof.Machine.execFcopysignF32 c g d a b s
  | .fminNumF32 c g d a b => Sys2Proof.Machine.execFminNumF32 c g d a b s
  | .fmaxNumF32 c g d a b => Sys2Proof.Machine.execFmaxNumF32 c g d a b s
  | .faddF16 c y g d a b => Sys2Proof.Machine.execFaddF16 c y g d a b s
  | .fsubF16 c y g d a b => Sys2Proof.Machine.execFsubF16 c y g d a b s
  | .fmulF16 c y g d a b => Sys2Proof.Machine.execFmulF16 c y g d a b s
  | .fabsF16 c y g d a => Sys2Proof.Machine.execFabsF16 c y g d a s
  | .fnegF16 c y g d a => Sys2Proof.Machine.execFnegF16 c y g d a s
  | .fdot2F16 c y g d a b => Sys2Proof.Machine.execFdot2F16 c y g d a b s
  | .faddF32Uniform c g d a u => Sys2Proof.Machine.execFaddF32Uniform c g d a u s
  | .fmulF32Uniform c g d a u => Sys2Proof.Machine.execFmulF32Uniform c g d a u s
  | .ffmaF32Uniform c g d a u => Sys2Proof.Machine.execFfmaF32Uniform c g d a u s
  | .fsubF32Uniform c g d a u => Sys2Proof.Machine.execFsubF32Uniform c g d a u s
  | .fmulF32Imm c g d a im lit => Sys2Proof.Machine.execFmulF32Imm c g d a im lit s
  | .fcmp c g p a b k f => Sys2Proof.Machine.execFcmp c g p a b k f s
  | .fclass c g p a b f => Sys2Proof.Machine.execFclass c g p a b f s
  | .frndF32 c g d a r => Sys2Proof.Machine.execFrndF32 c g d a r s
  | .cvtToF32 c g d a r e f => Sys2Proof.Machine.execCvtToF32 c g d a r e f s
  | .cvtFromF32 c g d a r z e f => Sys2Proof.Machine.execCvtFromF32 c g d a r z e f s
  | .cvtPk c g d a b h f => Sys2Proof.Machine.execCvtPk c g d a b h f s
  | .frcpF32 c g d a => Sys2Proof.Machine.execFrcpF32 c g d a s
  | .frsqF32 c g d a => Sys2Proof.Machine.execFrsqF32 c g d a s
  | .fsqrtF32 c g d a => Sys2Proof.Machine.execFsqrtF32 c g d a s
  | .fexp2F32 c g d a => Sys2Proof.Machine.execFexp2F32 c g d a s
  | .flog2F32 c g d a => Sys2Proof.Machine.execFlog2F32 c g d a s
  | .ftanhF32 c g d a => Sys2Proof.Machine.execFtanhF32 c g d a s
  | .fsinF32 c g d a => Sys2Proof.Machine.execFsinF32 c g d a s
  | .fcosF32 c g d a => Sys2Proof.Machine.execFcosF32 c g d a s
  | .fminF16 c g d a b y => Sys2Proof.Machine.execFminF16 c g d a b y s
  | .fmaxF16 c g d a b y => Sys2Proof.Machine.execFmaxF16 c g d a b y s
  | .ffmaF16 c g d a b y => Sys2Proof.Machine.execFfmaF16 c g d a b y s
  | .xadd c g d a b => Sys2Proof.Machine.execXadd c g d a b s
  | .xsub c g d a b => Sys2Proof.Machine.execXsub c g d a b s
  | .xmul c g d a b => Sys2Proof.Machine.execXmul c g d a b s
  | .xdiv c g d a b => Sys2Proof.Machine.execXdiv c g d a b s
  | .xfma c g d a b => Sys2Proof.Machine.execXfma c g d a b s
  | .xsqrt c g d a => Sys2Proof.Machine.execXsqrt c g d a s
  | .xneg c g d a => Sys2Proof.Machine.execXneg c g d a s
  | .xabs c g d a => Sys2Proof.Machine.execXabs c g d a s
  | .xmin c g d a b => Sys2Proof.Machine.execXmin c g d a b s
  | .xmax c g d a b => Sys2Proof.Machine.execXmax c g d a b s
  | .xcvtXfF32 c g d a => Sys2Proof.Machine.execXcvtXfF32 c g d a s
  | .xcvtXfI32 c g d a => Sys2Proof.Machine.execXcvtXfI32 c g d a s
  | .xcvtXfN32 c g d a => Sys2Proof.Machine.execXcvtXfN32 c g d a s
  | .xcvtXfI64 c g d a => Sys2Proof.Machine.execXcvtXfI64 c g d a s
  | .xcvtXfN64 c g d a => Sys2Proof.Machine.execXcvtXfN64 c g d a s
  | .xcvtF32Xf c g d a r z => Sys2Proof.Machine.execXcvtF32Xf c g d a r z s
  | .xcvtI32Xf c g d a r => Sys2Proof.Machine.execXcvtI32Xf c g d a r s
  | .xcvtN32Xf c g d a r => Sys2Proof.Machine.execXcvtN32Xf c g d a r s
  | .xcvtI64Xf c g d a r => Sys2Proof.Machine.execXcvtI64Xf c g d a r s
  | .xcvtN64Xf c g d a r => Sys2Proof.Machine.execXcvtN64Xf c g d a r s
  | .xrnd c g d a => Sys2Proof.Machine.execXrnd c g d a s
  | .xrint c g d a => Sys2Proof.Machine.execXrint c g d a s
  | .xcmp c g p a b k => Sys2Proof.Machine.execXcmp c g p a b k s
  | .setp c g n => Sys2Proof.Machine.execSetp c g n s
  | .setrm c g m => Sys2Proof.Machine.execSetrm c g m s
  | .setx c g x => Sys2Proof.Machine.execSetx c g x s
  | .addp c g k => Sys2Proof.Machine.execAddp c g k s
  | .setpReg c g a => Sys2Proof.Machine.execSetpReg c g a s
  | .clrxuf c g => Sys2Proof.Machine.execClrxuf c g s
  | .xld c g d a o lit => Sys2Proof.Machine.execXld c g d a o lit s
  | .xldR c g d a => Sys2Proof.Machine.execXldR c g d a s
  | .xst c g d a => Sys2Proof.Machine.execXst c g d a s
  | .xstMin c g d a => Sys2Proof.Machine.execXstMin c g d a s
  | .xlds c g d a => Sys2Proof.Machine.execXlds c g d a s
  | .xldsR c g d a => Sys2Proof.Machine.execXldsR c g d a s
  | .xsts c g d a => Sys2Proof.Machine.execXsts c g d a s
  | .xstsMin c g d a => Sys2Proof.Machine.execXstsMin c g d a s
  | .ld32 c g d a o lit => Sys2Proof.Machine.execLd32 c g d a o lit s
  | .st32 c g d a o lit => Sys2Proof.Machine.execSt32 c g d a o lit s
  | .ld64 c g d a o lit => Sys2Proof.Machine.execLd64 c g d a o lit s
  | .st64 c g d a o lit => Sys2Proof.Machine.execSt64 c g d a o lit s
  | .ld128 c g d a o lit => Sys2Proof.Machine.execLd128 c g d a o lit s
  | .st128 c g d a o lit => Sys2Proof.Machine.execSt128 c g d a o lit s
  | .ldN8 c g d a => Sys2Proof.Machine.execLdN8 c g d a s
  | .ldN16 c g d a => Sys2Proof.Machine.execLdN16 c g d a s
  | .ldN16H0 c g d a => Sys2Proof.Machine.execLdN16H0 c g d a s
  | .ldN16H1 c g d a => Sys2Proof.Machine.execLdN16H1 c g d a s
  | .stN8 c g d a => Sys2Proof.Machine.execStN8 c g d a s
  | .stN16 c g d a => Sys2Proof.Machine.execStN16 c g d a s
  | .stN16H1 c g d a => Sys2Proof.Machine.execStN16H1 c g d a s
  | .ldAcq32 c g d a => Sys2Proof.Machine.execLdAcq32 c g d a s
  | .ldAcq64 c g d a => Sys2Proof.Machine.execLdAcq64 c g d a s
  | .stRel32 c g d a => Sys2Proof.Machine.execStRel32 c g d a s
  | .stRel64 c g d a => Sys2Proof.Machine.execStRel64 c g d a s
  | .ldAcq128 c g d a => Sys2Proof.Machine.execLdAcq128 c g d a s
  | .stRel128 c g d a => Sys2Proof.Machine.execStRel128 c g d a s
  | .ldUniformBase c g d a u => Sys2Proof.Machine.execLdUniformBase c g d a u s
  | .stUniformBase c g d a u => Sys2Proof.Machine.execStUniformBase c g d a u s
  | .ld64UniformBase c g d a u => Sys2Proof.Machine.execLd64UniformBase c g d a u s
  | .st64UniformBase c g d a u => Sys2Proof.Machine.execSt64UniformBase c g d a u s
  | .atomAddI32 c g d a b => Sys2Proof.Machine.execAtomAddI32 c g d a b s
  | .atomMinI32 c g d a b => Sys2Proof.Machine.execAtomMinI32 c g d a b s
  | .atomMaxI32 c g d a b => Sys2Proof.Machine.execAtomMaxI32 c g d a b s
  | .atomMinN32 c g d a b => Sys2Proof.Machine.execAtomMinN32 c g d a b s
  | .atomMaxN32 c g d a b => Sys2Proof.Machine.execAtomMaxN32 c g d a b s
  | .atomAnd c g d a b => Sys2Proof.Machine.execAtomAnd c g d a b s
  | .atomOr c g d a b => Sys2Proof.Machine.execAtomOr c g d a b s
  | .atomXor c g d a b => Sys2Proof.Machine.execAtomXor c g d a b s
  | .atomExch c g d a b => Sys2Proof.Machine.execAtomExch c g d a b s
  | .atomCas c g d a b => Sys2Proof.Machine.execAtomCas c g d a b s
  | .atomAddI64 c g d a b => Sys2Proof.Machine.execAtomAddI64 c g d a b s
  | .atomMaxN64 c g d a b => Sys2Proof.Machine.execAtomMaxN64 c g d a b s
  | .atomExch64 c g d a b => Sys2Proof.Machine.execAtomExch64 c g d a b s
  | .atomCas64 c g d a b => Sys2Proof.Machine.execAtomCas64 c g d a b s
  | .atomOrdered c g d a b lit => Sys2Proof.Machine.execAtomOrdered c g d a b lit s
  | .red c g r a b => Sys2Proof.Machine.execRed c g r a b s
  | .fence g => Sys2Proof.Machine.execFence g s
  | .fenceAcq g => Sys2Proof.Machine.execFenceAcq g s
  | .fenceRel g => Sys2Proof.Machine.execFenceRel g s
  | .prefetch c g a o lit => Sys2Proof.Machine.execPrefetch c g a o lit s
  | .prefetchL2 c g a o lit => Sys2Proof.Machine.execPrefetchL2 c g a o lit s
  | .pluckAt c g d a u => Sys2Proof.Machine.execPluckAt c g d a u s
  | .pluckBelow c g d a u => Sys2Proof.Machine.execPluckBelow c g d a u s
  | .pluckAbove c g d a u => Sys2Proof.Machine.execPluckAbove c g d a u s
  | .pluckFlip c g d a u => Sys2Proof.Machine.execPluckFlip c g d a u s
  | .pollAll c g d a u => Sys2Proof.Machine.execPollAll c g d a u s
  | .pollAny c g d a u => Sys2Proof.Machine.execPollAny c g d a u s
  | .pollMask c g d a u => Sys2Proof.Machine.execPollMask c g d a u s
  | .pollSame c g d a u => Sys2Proof.Machine.execPollSame c g d a u s
  | .gredAddI32 c g d a u => Sys2Proof.Machine.execGredAddI32 c g d a u s
  | .gredMinI32 c g d a u => Sys2Proof.Machine.execGredMinI32 c g d a u s
  | .gredMaxI32 c g d a u => Sys2Proof.Machine.execGredMaxI32 c g d a u s
  | .gredMaxiN32 c g d a u => Sys2Proof.Machine.execGredMaxiN32 c g d a u s
  | .gredAddF32 c g d a u => Sys2Proof.Machine.execGredAddF32 c g d a u s
  | .gredMinF32 c g d a u => Sys2Proof.Machine.execGredMinF32 c g d a u s
  | .gredMaxF32 c g d a u => Sys2Proof.Machine.execGredMaxF32 c g d a u s
  | .gredMaxiF32 c g d a u => Sys2Proof.Machine.execGredMaxiF32 c g d a u s
  | .gscanAddI32 c g d a u => Sys2Proof.Machine.execGscanAddI32 c g d a u s
  | .gscanAddXI32 c g d a u => Sys2Proof.Machine.execGscanAddXI32 c g d a u s
  | .gscanMaxI32 c g d a u => Sys2Proof.Machine.execGscanMaxI32 c g d a u s
  | .gcompact c g d a u => Sys2Proof.Machine.execGcompact c g d a u s
  | .topk c g d a u => Sys2Proof.Machine.execTopk c g d a u s
  | .gsync c g u => Sys2Proof.Machine.execGsync c g u s
  | .push c g p l u => Sys2Proof.Machine.execPush c g p l u s
  | .obres c g k u => Sys2Proof.Machine.execObres c g k u s
  | .obrel c g k => Sys2Proof.Machine.execObrel c g k s
  | .accrd c g d a => Sys2Proof.Machine.execAccrd c g d a s
  | .accwr c g a b => Sys2Proof.Machine.execAccwr c g a b s
  | .accrd128 c g d a => Sys2Proof.Machine.execAccrd128 c g d a s
  | .accwr128 c g a b => Sys2Proof.Machine.execAccwr128 c g a b s
  | .accaddF32 c g a b => Sys2Proof.Machine.execAccaddF32 c g a b s
  | .accaddI32 c g a b => Sys2Proof.Machine.execAccaddI32 c g a b s
  | .waitc g l n => Sys2Proof.Machine.execWaitc g l n s
  | .waitcCons g n => Sys2Proof.Machine.execWaitcCons g n s
  | .waitany g u => Sys2Proof.Machine.execWaitany g u s
  | .waitall g u => Sys2Proof.Machine.execWaitall g u s
  | .ffr c g d u => Sys2Proof.Machine.execFfr c g d u s
  | .bra p h t => Sys2Proof.Machine.execBra p h t s
  | .call t => Sys2Proof.Machine.execCall t s
  | .ret => Sys2Proof.Machine.execRet s
  | .tcall w e g lit => Sys2Proof.Machine.execTcall w e g lit s
  | .tret => Sys2Proof.Machine.execTret s
  | .exit => Sys2Proof.Machine.execExit s
  | .brx a => Sys2Proof.Machine.execBrx a s
  | .callx a => Sys2Proof.Machine.execCallx a s
  | .tutti b => Sys2Proof.Machine.execTutti b s
  | .tuttiArv b p => Sys2Proof.Machine.execTuttiArv b p s
  | .tuttiWait b p => Sys2Proof.Machine.execTuttiWait b p s
  | .cbar => Sys2Proof.Machine.execCbar s
  | .gbar => Sys2Proof.Machine.execGbar s
  | .elect p => Sys2Proof.Machine.execElect p s
  | .bowwait => Sys2Proof.Machine.execBowwait s
  | .bowpass => Sys2Proof.Machine.execBowpass s
  | .setkeyImm k => Sys2Proof.Machine.execSetkeyImm k s
  | .setkeyReg a => Sys2Proof.Machine.execSetkeyReg a s
  | .brk k => Sys2Proof.Machine.execBrk k s
  | .trap k => Sys2Proof.Machine.execTrap k s
  | .yield n => Sys2Proof.Machine.execYield n s
  | .mfsrV c d n => Sys2Proof.Machine.execMfsrV c d n s
  | .mfsrU c d n => Sys2Proof.Machine.execMfsrU c d n s
  | .mtsrV c a n => Sys2Proof.Machine.execMtsrV c a n s
  | .mtsrU c n u => Sys2Proof.Machine.execMtsrU c n u s
  | .stallingWaitEnd op => Sys2Proof.Machine.execStallingWaitEnd op s
  | .damagedFlit link => Sys2Proof.Machine.execDamagedFlit link s

end Sys2Proof.Machine
end

