-- ==== Sys2Proof/Machine/Step.lean ====
section
/-!
DEFINITION. Machine/Step.lean: one step of the device. The agenda says what comes next: time, another course, or a step of the
device or its surroundings. With an empty agenda every course issues a word in each core clock, and then one of the device's own steps takes place (log
entry 2).
-/

namespace Sys2Proof.Machine

open Sys2Proof

/-- Core clocks of 1.9 GHz that pass; release writes of the device whose time has come are performed. -/
def State.pass (s : State) (clocks : Nat) : State := ({ s with units := s.units + clocks * Config.unitsPerClock }).releasesDue

/-- The bundle in progress number `k` of the other courses goes on. -/
def State.swapTo (s : State) (k : Nat) : State :=
  match s.others[k]? with
  | none => s
  | some b => { s with bundle := some b, others := s.others.eraseIdx k ++ s.bundle.toList }

/-- The word of the current slot begins, is executed by the threads that need not wait, and what follows it comes about (R160). -/
noncomputable def State.runSlot (s : State) (b : Bundle) : Host.Outcome State Fault Refusal :=
  match decodeWord (slotWord b.words b.slot) (slotLit b.words b.slot) with
  | .error _ => .fault .slotNotDecoded
  | .ok i =>
    match exec i (s.slotBegins b) with
    | .next t => .next t.advance
    | .fault f => .fault f
    | .refused r => .refused r

/-- The steps that an operation in flight may take. -/
noncomputable def opSteps (k : Nat) : List Instr :=
  [.storeAtHome k, .atomicAtHome k, .redAtDieL2 k, .l1Fill k [], .loadCompletion ⟨k, []⟩, .trackedOpCompletion ⟨k, []⟩, .writeCompletionReturn k,
   .stallingWaitEnd k, .commandGo k, .commandAcceptance k]

/-- The steps that a command may take, its body by its opcode. -/
noncomputable def cmdSteps (c : Cmd) : List Instr :=
  let k := c.id
  let body : List Instr :=
    match c.opc with
    | 1 => [.copy k []]
    | 2 => [.copynd k []]
    | 3 => [.copyred k []]
    | 4 => [.fill k []]
    | 5 => [.osbload k []]
    | 6 => [.accmove k []]
    | 0x10 => [.mma ⟨k, []⟩]
    | 0x11 => [.mmas ⟨k, []⟩]
    | 0x20 => [.attn k, .attnVisit k, .attnUnstable k]
    | 0x21 => [.kapp k]
    | 0x22 => [.kreq k]
    | 0x23 => [.krot k]
    | 0x24 => [.ksum k]
    | 0x25 => [.ktrunc k]
    | 0x30 => [.cprog k, .send k, .recv k, .rrs k, .cprogCopy k, .cprogWait k, .notify k, .loop k, .endloop k, .peer k, .putr k, .endStep k]
    | 0x40 => [.launch k, .launchQfullTimeout k]
    | _ => []
  body ++ [.mmaOperandsConsumed k, .commandCompletion k, .notifyRelease k, .blockClaimRetry k, .maintenanceBusy k, .attnParkResume k, .slotHeaderReread k,
    .cprogTimeout k]

/-- The steps of a team and its threads. -/
noncomputable def teamSteps (t : Team) : List Instr :=
  (t.threads.flatMap fun h => [.trapEntry t.id h.lrank, .yieldExpiry t.id h.lrank, .barrierRelease 3 t.id h.frame h.rank, .openWindowLimit t.id h.lrank,
      .rendezvousWatchdog t.id h.lrank])
    ++ ((List.range t.frames.length).flatMap fun f =>
        .join t.id f :: (List.range 4).map fun b => .barrierRelease 0 t.id f b)
    ++ [.barrierRelease 1 t.id 0 0, .barrierRelease 2 t.id 0 0, .teamSave t.id, .teamRestore t.id]

/-- The steps of the device's own that may be due. -/
noncomputable def State.pendingSteps (s : State) : List Instr :=
  (s.ops.flatMap fun o => opSteps o.id) ++ (s.cmds.flatMap cmdSteps) ++ s.teams.flatMap teamSteps
    ++ (s.cores.flatMap fun c => [.forkReservation c.die c.num, .localityWindowEnd c.die c.num, .permitIncrease c.die c.num,
          .permitRotation c.die c.num]) ++ (s.launches.map fun l => .bowArrival l.id)
    ++ (s.launches.map fun l => .launchCompletion l.id)
    ++ s.contexts.flatMap fun c => c.queues.flatMap fun q => [.launchStart c.num q.num, .dependenceRecheck c.num q.num, .teamPlacement c.num q.num]

/-- Whether a step changes the state. -/
noncomputable def State.changes (s : State) (i : Instr) : Bool :=
  match exec i s with
  | .next t => decide (t ≠ s)
  | _ => false

/-- The first of the device's own steps that does something, where the search begins at another one in every core clock, so that none is
passed for ever. -/
noncomputable def State.ownStep (s : State) : Option Instr :=
  let steps := s.pendingSteps
  let k := s.units / Config.unitsPerClock % steps.length
  (steps.drop k ++ steps.take k).find? s.changes

/-- With nothing on the agenda: the next course of this core clock goes on with its bundle, or issues a packet; a chained word leaves the turn to
its partner (R160). Once every course has had its turn, a core clock passes and one of the device's own steps takes place. -/
noncomputable def State.default_ (s : State) : Host.Outcome State Fault Refusal :=
  match s.nextCourse with
  | some (c, k) =>
    let s := s.turnTo c
    match s.bundle with
    | some b => State.runSlot { s with place := if chainBit (slotWord b.words b.slot) then k else k + 1 } b
    | none =>
      let m := s.packetIssue c.1 c.2.1 c.2.2
      match m.bundle with
      | some b => State.runSlot { m with place := if chainBit (slotWord b.words b.slot) then k else k + 1 } b
      | none => .next { m with place := k + 1 }
  | none =>
    let s := { s.pass 1 with place := 0 }
    match s.ownStep with
    | some i => exec i s
    | none => .next s

/-- One step of the device. -/
noncomputable def step (s : State) : Host.Outcome State Fault Refusal :=
  match s.agenda with
  | [] => s.default_
  | a :: rest =>
    let s := a.outside.foldl State.befalls (({ s with agenda := rest }).pass a.clocks)
    let s := match a.swap with | some k => s.swapTo k | none => s
    match a.what with
    | some i => if (encode i).isEmpty then exec i s else .refused .notAnEvent
    | none => s.default_

/-! ## A machine with one instruction to run -/

/-- The packet of one instruction word: in slot 1, with a literal of zeros after it where it takes one, and nothing else. -/
def packetFor (w : Word) : List Word :=
  match rowOf w none with
  | .error .missingLiteral => [0x09000000, w, 0, 0]
  | _ => [0x0A000000, w, 0, 0]

/-- The launch, the context and the core that stand for the load of a program (log entry 4): one team of one thread with 64
registers, a 32 MiB page at virtual address 0, and the packet at 0x1000. -/
def fetchDesc : Desc :=
  { addr := 0, entry := 0x1000, nteams := 1, tsize := 1, shapeW := 1, shapeH := 1, nreg := 64, split := 1, sak := 64, oak := 128, acck := 64,
    uinit := 0, ucnt := 0, det := false, ens := false, pin := false, resv := 0, dep0 := 0, val0 := 0, dep1 := 0, val1 := 0, done := 0,
    frames := 0x100000, loc := 0x80000, lsize := 1024 }

def fetchLaunch : Launch :=
  { id := 0, ctx := 0, queue := 0, k := 0, prio := 0, desc := fetchDesc, uwords := [], nextTeam := 1, minIssue := 0, bow := Bow.fresh, tl := 0,
    headDone := true, done := false }

def fetchContext : Context :=
  { num := 0, lcl := 4, ldie := 4, lpkg := 4, heapBase := 0, heapLim := 0x2000000, heapOff := 0, ptBase := 0x12000000, qtab := 0x40000, job := 0,
    prank := 0, cores := [(0, 0)], ranges := [(0x10000000, 0x4000000)], cestat := 0, ring := none, stopped := false, dbgMode := 0,
    dbgArea := 0, dbgCount := 0, queues := [], dispWait := [] }

/-- Its page tables: a level-1 entry, and a 32 MiB leaf of DIE scope that permits writes and fetches (R96). -/
def fetchTables : Cells 8 :=
  putBytes (putBytes [] 0x12000000 (toLe 8 0x12020001)) 0x12020000 (toLe 8 0x100000B3)

/-- A machine whose next step fetches and runs one instruction. -/
def State.withFetchWord (s : State) (_nbits w : Nat) : State :=
  { s with
    place := 0
    agenda := []
    bundle := none
    others := []
    contexts := [fetchContext]
    launches := [fetchLaunch]
    teams := [Team.fresh 0 fetchLaunch 0 0 0 0 0]
    cores := [{ Core.fresh 0 0 with split := 1, permits := [0] }]
    dtlb := []
    ops := []
    cmds := []
    nextId := 1
    mem := putBytes fetchTables 0x10001000 (bytesOf (packetFor (BitVec.ofNat 32 w)))
    lines := []
    partials := []
    dev := { s.dev with phase := .running, accept := Config.offer, badGranules := [], retiredHbm := [], releases := [], badSram := [] } }

end Sys2Proof.Machine
end

