-- ==== Sys2Proof/Safety.lean ====
section
/-!
DEFINITION. Safety.lean: the terms in which claims about the machine are stated: which threads execute a word, what a thread, a team
and the device look like after it, and what a good memory is. Nothing here runs; the machine is Machine/Step.lean.
-/

namespace Sys2Proof.Machine

open Sys2Proof

/-! ## Who executes a word -/

/-- The bundle in progress and its team. -/
def State.Issues (s : State) (b : Bundle) (t : Team) : Prop := s.bundle = some b ∧ s.team? b.team = some t

/-- A thread of the bundle executes a word whose guard is `g` (R67, R165). -/
def Bundle.Executes (b : Bundle) (t : Team) (g : BitVec 3) (h : Thread) : Prop :=
  h.lrank ∈ b.ranks ∧ (t.view h).pred g.toNat = true

/-! ## What becomes of a thread's registers -/

/-- `h'` is `h` with the word `x` in register `d`: no other register and nothing else of the thread differs. -/
def Thread.Sets (h h' : Thread) (d : Nat) (x : Word) : Prop :=
  (∀ i, h'.rd i = if i = d then x else h.rd i) ∧ { h' with v := h.v } = h

/-- The same with a 64-bit value in the pair at `d` (R58). -/
def Thread.SetsPair (h h' : Thread) (d : Nat) (x : Dword) : Prop :=
  (∀ i, h'.rd i = if i = d then x.extractLsb' 0 32 else if i = d + 1 then x.extractLsb' 32 32 else h.rd i) ∧ { h' with v := h.v } = h

/-- `h'` is `h` with predicate `p` set to `x`; p7 stays 1 (R61). -/
def Thread.SetsPred (h h' : Thread) (p : Nat) (x : Bool) : Prop :=
  (∀ q, q < 8 → predOf h'.preds q = if q = p ∧ p < 7 then x else predOf h.preds q) ∧ { h' with preds := h.preds } = h

/-- The registers of a run of words hold them, and nothing else of the thread differs. -/
def Thread.SetsRun (h h' : Thread) (d : Nat) (xs : List Word) : Prop :=
  (∀ i, h'.rd i = if d ≤ i ∧ i < d + xs.length then xs.getD (i - d) 0 else h.rd i) ∧ { h' with v := h.v } = h

/-! ## What becomes of the device -/

/-- Nothing but the team `id` differs. -/
def State.OnlyTeam (s s' : State) (id : Nat) : Prop :=
  { s' with teams := s.teams } = s ∧ ∀ j, j ≠ id → s'.team? j = s.team? j

/-- Every thread of the bundle's team, by its launch rank, becomes what `R` says, and nothing else differs: no other team, no byte of
any memory, no frame, no access in flight. -/
def State.ByThread (s s' : State) (b : Bundle) (t : Team) (R : Thread → Thread → Prop) : Prop :=
  s.OnlyTeam s' b.team ∧ ∃ t', s'.team? b.team = some t' ∧ { t' with threads := t.threads } = t ∧
    ∀ r, match t.thread? r with
      | none => t'.thread? r = none
      | some h => ∃ h', t'.thread? r = some h' ∧ R h h'

/-- Instruction `i` completes whenever a bundle executes it, and its effect is `R` in each thread that executes it and none elsewhere;
`R` is given what the thread's word reads. -/
def PerThread (i : Instr) (g : BitVec 3) (R : View → Thread → Thread → Prop) : Prop :=
  ∀ (s : State) (b : Bundle) (t : Team), s.Issues b t →
    ∃ s', exec i s = .next s' ∧
      s.ByThread s' b t fun h h' => (b.Executes t g h → R (t.view h) h h') ∧ (¬ b.Executes t g h → h' = h)

/-- A word that puts a value into one register, one pair or one predicate. -/
def Yields (i : Instr) (g : BitVec 3) (d : Nat) (x : View → Word) : Prop := PerThread i g fun w h h' => h.Sets h' d (x w)
def YieldsPair (i : Instr) (g : BitVec 3) (d : Nat) (x : View → Dword) : Prop := PerThread i g fun w h h' => h.SetsPair h' d (x w)
def YieldsPred (i : Instr) (g : BitVec 3) (p : Nat) (x : View → Bool) : Prop := PerThread i g fun w h h' => h.SetsPred h' p (x w)

/-- The same where the rule says what holds of the value. -/
def YieldsSuch (i : Instr) (g : BitVec 3) (d : Nat) (P : View → Word → Prop) : Prop :=
  PerThread i g fun w h h' => ∃ x, P w x ∧ h.Sets h' d x

/-! ## Uniform registers -/

/-- `t'` is `t` with the listed uniform registers written in frame `f` as that frame reads its file (R45): every other register of the
file reads as before, every other frame's own file is as it was, and no thread differs. -/
def Team.USets (t t' : Team) (f : Nat) (ws : List (Nat × Word)) : Prop :=
  (∀ j, j < 256 → t'.uget f j = match ws.find? fun e => e.1 == j with | some e => e.2 | none => t.uget f j) ∧
    (∀ i, i ≠ f → t'.frame i = t.frame i) ∧
    (∃ uni gran wrote, t'.frame f = { t.frame f with uni := uni, gran := gran, wrote := wrote }) ∧ { t' with frames := t.frames } = t

/-! ## Words that act in one thread after another -/

/-- What a bundle's threads do in turn, ascending in rank (R67): `P` relates the state before a thread's turn, its team and the thread
to the state after. A thread that has left the team or has ended takes no part. -/
def InTurn (P : State → Team → Thread → State → Prop) (team : Nat) : List Nat → State → State → Prop
  | [], s, s' => s' = s
  | r :: rest, s, s' => ∃ m,
      (match s.team? team with
        | none => m = s
        | some t => match t.thread? r with
          | none => m = s
          | some h => (h.exited = true → m = s) ∧ (h.exited = false → P s t h m)) ∧
      InTurn P team rest m s'

/-- The turn of a thread under a guard: a thread whose guard is 0 does nothing. -/
def Guarded (g : BitVec 3) (P : State → Team → Thread → View → State → Prop) (s : State) (t : Team) (h : Thread) (m : State) : Prop :=
  ((t.view h).pred g.toNat = true → P s t h (t.view h) m) ∧ ((t.view h).pred g.toNat = false → m = s)

/-- Instruction `i` completes whenever a bundle executes it, and its effect is `P` in each executing thread in turn. -/
def EachThread (i : Instr) (g : BitVec 3) (P : State → Team → Thread → View → State → Prop) : Prop :=
  ∀ (s : State) (b : Bundle) (t : Team), s.Issues b t →
    ∃ s', exec i s = .next s' ∧ InTurn (Guarded g P) b.team b.ranks s s'

/-- The same for a word after which the rendezvous of the team are brought up to date (R190, R250). -/
def EachThreadThenSettled (i : Instr) (g : BitVec 3) (P : State → Team → Thread → View → State → Prop) : Prop :=
  ∀ (s : State) (b : Bundle) (t : Team), s.Issues b t →
    ∃ m, exec i s = .next (m.settle b.team) ∧ InTurn (Guarded g P) b.team b.ranks s m

/-- The same for a word that may fail in a thread (R380, R383): `P` also says whether it fails there, and the failures are listed with
the threads' launch ranks, in turn. -/
def InTurnF (P : State → Team → Thread → State → Option Fail → Prop) (team : Nat) : List Nat → State → State → List (Nat × Fail) → Prop
  | [], s, s', fs => s' = s ∧ fs = []
  | r :: rest, s, s', fs => ∃ m f gs, fs = (f.toList.map fun e => (r, e)) ++ gs ∧
      (match s.team? team with
        | none => m = s ∧ f = none
        | some t => match t.thread? r with
          | none => m = s ∧ f = none
          | some h => (h.exited = true → m = s ∧ f = none) ∧ (h.exited = false → P s t h m f)) ∧
      InTurnF P team rest m s' gs

def GuardedF (g : BitVec 3) (P : State → Team → Thread → View → State → Option Fail → Prop) (s : State) (t : Team) (h : Thread) (m : State)
    (f : Option Fail) : Prop :=
  ((t.view h).pred g.toNat = true → P s t h (t.view h) m f) ∧ ((t.view h).pred g.toNat = false → m = s ∧ f = none)

/-- Instruction `i` completes whenever a bundle executes it: it acts in each executing thread in turn, and then the failures that it met
take their action (`State.failures`, of which Obligations.AddressRules speaks). -/
def MayFail (i : Instr) (g : BitVec 3) (P : State → Team → Thread → View → State → Option Fail → Prop) : Prop :=
  ∀ (s : State) (b : Bundle) (t : Team), s.Issues b t →
    ∃ m fs, exec i s = .next (m.failures b.team fs) ∧ InTurnF (GuardedF g P) b.team b.ranks s m fs

def MayFailThenSettled (i : Instr) (g : BitVec 3) (P : State → Team → Thread → View → State → Option Fail → Prop) : Prop :=
  ∀ (s : State) (b : Bundle) (t : Team), s.Issues b t →
    ∃ m fs, exec i s = .next ((m.failures b.team fs).settle b.team) ∧ InTurnF (GuardedF g P) b.team b.ranks s m fs

/-- A thread in its turn becomes what `R` says, and no other thread or team differs; what else of the device differs is not said. -/
def State.ThreadOnly (s m : State) (t : Team) (h : Thread) (R : Thread → Prop) : Prop :=
  (∀ j, j ≠ t.id → m.team? j = s.team? j) ∧ ∃ t', m.team? t.id = some t' ∧ { t' with threads := t.threads } = t ∧
    (∀ r, r ≠ h.lrank → t'.thread? r = t.thread? r) ∧ ∃ h', t'.thread? h.lrank = some h' ∧ R h'

/-- Nothing of the device differs but that thread. -/
def State.Turns (s m : State) (t : Team) (h : Thread) (R : Thread → Prop) : Prop :=
  { m with teams := s.teams } = s ∧ s.ThreadOnly m t h R

/-- `m` is `s` with one more access, result or wait in flight for a thread, last in issue order (R112); no byte of any memory, no frame
and no register differs. -/
def State.Sends (s m : State) (t : Team) (h : Thread) (flag : Option Nat) (hold : Hold) (body : OpBody) : Prop :=
  m.ops = s.ops ++ [{ id := s.nextId, team := t.id, lrank := h.lrank, flag := flag, hold := hold, issue := s.issues, sectors := body.sectors,
                      frame := h.frame, body := body }] ∧
    m.nextId = s.nextId + 1 ∧ { m with ops := s.ops, nextId := s.nextId, teams := s.teams } = s

/-- A tracked word begins in a thread (R157, R158, R409): its flag sets; without a flag the operation holds the thread's next packet, and
when `slot` says so the slot after its chained pair as well. -/
def State.Tracks (s m : State) (t : Team) (h : Thread) (slot : Bool) (body : OpBody) : Prop :=
  s.Sends m t h s.slotFlag (if slot = true then .slot else if s.slotFlag = none then .packet else .none) body ∧
    s.ThreadOnly m t h fun h' => h' = match s.slotFlag with
      | some f => { h with flags := h.flags ||| (1#12 <<< f) }
      | none => h

/-- An access that needs no flag is put in flight: no team differs. -/
def State.SendsQuiet (s m : State) (t : Team) (h : Thread) (hold : Hold) (body : OpBody) : Prop :=
  s.Sends m t h none hold body ∧ m.teams = s.teams

/-- Instruction `i` completes whenever a bundle with a living lowest-ranked thread executes it: the write of the listed uniform registers,
from what that thread's word reads, is on its way, once for the bundle; nothing else differs (R28). What its completion does is in
Obligations.TrackedResults. -/
def PerBundle (i : Instr) (ws : View → List (Nat × Word)) : Prop :=
  ∀ (s : State) (b : Bundle) (t : Team) (h : Thread), s.Issues b t → lowest b t = some h →
    ∃ s', exec i s = .next s' ∧ s.SendsQuiet s' t h .none (.uniform b.frame b.course b.ranks (ws (t.view h)))

/-- The address of an access has been checked and translated (R91 to R97, R237): `s1` differs from `s` in the translation buffers alone. -/
def State.Resolves (s s1 : State) (t : Team) (a n need : Nat) (win : Bool) (r : Res) : Prop :=
  s.resolve t a n need win = (s1, r) ∧ { s1 with dtlb := s.dtlb, cores := s.cores } = s

/-! ## Formats (R162 to R164) -/

/-- A word of a format: C, major and G above the body. -/
def formX (major : Nat) (c : BitVec 1) (g body : Nat) : Word := BitVec.ofNat 32 (c.toNat * 2 ^ 31 + major * 2 ^ 25 + g * 2 ^ 22 + body)

def formV3 (major : Nat) (c : BitVec 1) (g : BitVec 3) (d a b : BitVec 6) (fn : Nat) : Word :=
  formX major c g.toNat (d.toNat * 2 ^ 16 + a.toNat * 2 ^ 10 + b.toNat * 2 ^ 4 + fn)
def formVS (major : Nat) (c : BitVec 1) (g : BitVec 3) (d a : BitVec 6) (sb : BitVec 8) (fn : Nat) : Word :=
  formX major c g.toNat (d.toNat * 2 ^ 16 + a.toNat * 2 ^ 10 + sb.toNat * 2 ^ 2 + fn)
def formVI (major : Nat) (c : BitVec 1) (g : BitVec 3) (d a : BitVec 6) (i : BitVec 10) : Word :=
  formX major c g.toNat (d.toNat * 2 ^ 16 + a.toNat * 2 ^ 10 + i.toNat)
def formP (major : Nat) (c : BitVec 1) (g p : BitVec 3) (a b : BitVec 6) (cmp : BitVec 4) (fn : BitVec 3) : Word :=
  formX major c g.toNat (p.toNat * 2 ^ 19 + a.toNat * 2 ^ 13 + b.toNat * 2 ^ 7 + cmp.toNat * 2 ^ 3 + fn.toNat)
def formU3 (major : Nat) (c : BitVec 1) (ufn : Nat) (d a : BitVec 8) (b : BitVec 6) : Word :=
  formX major c ufn (d.toNat * 2 ^ 14 + a.toNat * 2 ^ 6 + b.toNat)
def formUI (major : Nat) (c : BitVec 1) (ufn : Nat) (d a : BitVec 8) (i : BitVec 6) : Word :=
  formX major c ufn (d.toNat * 2 ^ 14 + a.toNat * 2 ^ 6 + i.toNat)

/-- The literal slot that an escape asks for. -/
def escaped (esc : Bool) (lit : Word) : List Word := if esc then [lit] else []

/-- The value of imm10 and of imm6 (R164). -/
def imm10Of (i : BitVec 10) (lit : Word) : Word := if i = 0x200#10 then lit else BitVec.ofInt 32 i.toInt
def imm6ValueOf (i : BitVec 6) (lit : Word) : Word := if i = 0x20#6 then lit else BitVec.ofInt 32 i.toInt

/-- Position and length of a bit field by its control word (R206). -/
def fieldPosOf (b : Word) : Nat := b.toNat % 32
def fieldLenOf (b : Word) : Nat := min (b.toNat / 2 ^ 8 % 2 ^ 6) 32

/-- One round of the mixing function on 32-bit naturals (R210). -/
def mixStep (k x b : Nat) : Nat :=
  let x := (x + b + k) % 2 ^ 32
  let x := x ^^^ (x / 2 ^ 16)
  let x := x * 0x5D2BA7C3 % 2 ^ 32
  let x := x ^^^ (x / 2 ^ 15)
  let x := x * 0x2C1F6B95 % 2 ^ 32
  x ^^^ (x / 2 ^ 16)

/-! ## Values -/

/-- The number that a finite value is. -/
def Val.num : Val → Option ℚ
  | .fin s m e => some ((if s then -1 else 1) * (m : ℚ) * (2 : ℚ) ^ e)
  | _ => none

/-- A value that stands for an exact one which may have more places than any format: it compares with every number of at most `bits` bits as
the exact one does, of which `ord` is the comparison, so that every rounding to fewer places is that of the exact value (R9). -/
def Val.StandsFor (v : Val) (bits : Nat) (ord : ℚ → Ordering) : Prop :=
  ∃ r, v.num = some r ∧ ∀ n j : ℤ, |n| < 2 ^ bits → compare r ((n : ℚ) * (2 : ℚ) ^ j) = ord ((n : ℚ) * (2 : ℚ) ^ j)

/-- How the square root of `x`, and its reciprocal, compare with a number. -/
def rootOrd (x d : ℚ) : Ordering := if d < 0 then .gt else compare x (d * d)
def rootRecipOrd (x d : ℚ) : Ordering := if d ≤ 0 then .gt else compare 1 (x * (d * d))

/-- The word `w` of a format of `n` words holds the number nearest to `x`, and an even word where two lie as near. -/
def Nearest (dec : Nat → Val) (n : Nat) (x : ℚ) (w : Nat) : Prop :=
  w < n ∧ ∃ r, (dec w).num = some r ∧
    ∀ u y, u < n → (dec u).num = some y → |r - x| ≤ |y - x| ∧ (|r - x| = |y - x| → y ≠ r → w % 2 = 0)

/-- The word `w` of a format of `n` words holds the least of its numbers that `above` holds of, as rounding up gives it: an infinity where there
is none. `GreatestBelow` is likewise what rounding down gives (R9). -/
def LeastAbove (dec : Nat → Val) (n : Nat) (above : ℚ → Prop) (w : Nat) : Prop :=
  w < n ∧ (dec w).isNan = false ∧ ∀ u y, u < n → (dec u).num = some y → (above y ↔ (dec u).cmp (dec w) ≠ some .lt)
def GreatestBelow (dec : Nat → Val) (n : Nat) (below : ℚ → Prop) (w : Nat) : Prop :=
  w < n ∧ (dec w).isNan = false ∧ ∀ u y, u < n → (dec u).num = some y → (below y ↔ (dec u).cmp (dec w) ≠ some .gt)

/-- FP32 words as a format. -/
def fp32Word (n : Nat) : Val := decF32 (BitVec.ofNat 32 n)

/-- `r` is `x` rounded in a mode (R9, R64) to a multiple of `u`, `k` of them in magnitude. -/
def RoundsBy (rm : Nat) (x r u : ℚ) (k : Nat) : Prop :=
  |r| = k * u ∧ |r - x| < u ∧ 0 ≤ r * x ∧
    match rm with
    | 0 => 2 * |r - x| ≤ u ∧ (2 * |r - x| = u → k % 2 = 0)
    | 1 => |r| ≤ |x|
    | 2 => x ≤ r
    | 3 => r ≤ x
    | _ => r = x ∨ k % 2 = 1

/-- The value at position `i` of level `k` of a combining tree (R153, R255): two neighbours of the level below, the lower on the left. -/
def treeAt {α : Type} (f : α → α → α) (x : Nat → α) : Nat → Nat → α
  | 0, i => x i
  | k + 1, i => f (treeAt f x k i) (treeAt f x k (i + 2 ^ k))

/-- The class of a word of an IEEE format with `eb` exponent and `fb` fraction bits (R222). -/
def classByFields (eb fb x : Nat) : Nat :=
  let s := x / 2 ^ (eb + fb) % 2
  let e := x / 2 ^ fb % 2 ^ eb
  let m := x % 2 ^ fb
  if e = 2 ^ eb - 1 then (if m ≠ 0 then 8 else if s = 1 then 0 else 7)
  else if e = 0 then (if m = 0 then (if s = 1 then 3 else 4) else if s = 1 then 2 else 5)
  else if s = 1 then 1 else 6

/-- The half that a half-register operand of a compare names. -/
def cmpBits (f : Nat) (x : Word) : Nat := if f = 0 then x.toNat else if f % 2 = 1 then (x.extractLsb' 0 16).toNat else (x.extractLsb' 16 16).toNat

/-- FP32 zeros and infinities by sign. -/
def signedZero (neg : Bool) : Word := if neg then 0x80000000 else 0
def signedInf (neg : Bool) : Word := if neg then 0xFF800000 else 0x7F800000

/-! ## XF words (R229, R234) -/

/-- What an XF word does in a thread: `srcs` are its source windows, `dst` its destination window where it has one, `x` whether it is of
majors 0x1C and 0x1D; `ws`, `xuf` and `ex` are the writes, the XUF and the exhaustion of its result. -/
def XfTurn (x : Bool) (srcs : List Nat) (dst : Option Nat) (ws : View → List Wr) (xuf ex : View → Bool) (s : State) (t : Team) (h : Thread)
    (w : View) (m : State) : Prop :=
  let past := (∃ b ∈ srcs, h.nreg < b + xfLen (w.rd b)) ∨ (∃ d ∈ dst, h.nreg < d + xfWords (precP w.prec))
  (past → s.Turns m t h fun h' => ∃ i, h' = { h with trap := some i } ∧ i.cause = 3 ∧ i.packet = s.here) ∧
    (¬ past → ∃ s1 b, s.Tracks s1 t h (x && precX w.mode) b ∧
      ((ex w = true ∧ precX w.mode = true → ∃ i, b = .trapping i ∧ i.cause = 1 ∧ i.packet = s.here) ∧
        (¬ (ex w = true ∧ precX w.mode = true) → b = .result (ws w) (xuf w))) ∧
      m = if x && precX w.mode then s1.holdNext t.id h.lrank else s1)

/-- An XF word whose result is the value `f`, written to the window at `d` by PREC as read (R79). -/
def XfResult (srcs : List Nat) (d : Nat) (f : View → Val) : State → Team → Thread → View → State → Prop :=
  XfTurn true srcs (some d) (fun w => wrWords d (xfWrite w.mode (f w)).words) (fun w => (xfWrite w.mode (f w)).xuf)
    fun w => (xfWrite w.mode (f w)).exhausted

/-- A word that gives PREC a new P, RM and X, or traps where R64 rejects them. -/
def PrecTurn (f : View → Int × Nat × Bool) (s : State) (t : Team) (h : Thread) (w : View) (m : State) : Prop :=
  let new := f w
  (1 ≤ new.1 ∧ new.1 ≤ 237 ∧ new.2.1 ≤ 4 → s.Turns m t h fun h' => ∃ p, h' = { h with prec := p } ∧ precP p = new.1 ∧ precRM p = new.2.1 ∧
    precX p = new.2.2 ∧ precXUF p = precXUF w.mode) ∧
    (¬ (1 ≤ new.1 ∧ new.1 ≤ 237 ∧ new.2.1 ≤ 4) → s.Turns m t h fun h' => ∃ i, h' = { h with trap := some i } ∧ i.cause = 2 ∧ i.packet = s.here)

/-! ## Accesses that a word puts in flight (R112, R236 to R249) -/

/-- A store begins in a thread: last in issue order and not yet performed. Its bytes may stand in its core's L1 already, unless it
releases, and it then keeps which lines it allocated there; no byte of any memory, no team and no frame differs (R104, R112, R237). -/
def State.SendsStore (s m : State) (t : Team) (h : Thread) (hold : Hold) (a : Access) (data : List Byte) (gate : Bool) : Prop :=
  ∃ l1, (gate = true → l1 = none) ∧ (l1 = none → m.cores = s.cores) ∧ (∀ ls, l1 = some ls → ls = s.l1Allocates t a) ∧
    m.ops = s.ops ++ [{ id := s.nextId, team := t.id, lrank := h.lrank, flag := none, hold := hold, issue := s.issues,
                        sectors := OpBody.sectors (.store a data gate l1), frame := h.frame, body := .store a data gate l1 }] ∧
    m.nextId = s.nextId + 1 ∧ { m with ops := s.ops, nextId := s.nextId, cores := s.cores } = s

/-- The words of an XF element read, or stored, one access each, in turn (R114, R249). -/
def State.SendsAll (t : Team) (h : Thread) : List OpBody → State → State → Prop
  | [], s, m => m = s
  | b :: rest, s, m => ∃ s1, s.SendsQuiet s1 t h .none b ∧ State.SendsAll t h rest s1 m
def State.SendsStores (t : Team) (h : Thread) : List (Access × Word) → State → State → Prop
  | [], s, m => m = s
  | e :: rest, s, m => ∃ s1, s.SendsStore s1 t h .none e.1 (bytesOf [e.2]) false ∧ State.SendsStores t h rest s1 m

/-- A tracked XF read begins: one access where the element is atomic as a whole, which at most four words at a multiple of 16 are, else one
for each of its words beside the operation that gathers them (R114, R249). -/
def State.ReadsElement (s m : State) (t : Team) (h : Thread) (hold : Bool) (kind : LoadKind) (d : Nat) (stream : Option Nat) (va : Nat)
    (a : Access) (rest : List Access) (i : TrapInfo) : Prop :=
  (rest.length < 4 ∧ va % 16 = 0 → s.Tracks m t h hold (.load kind d stream (a.joined rest) false none i)) ∧
    (¬ (rest.length < 4 ∧ va % 16 = 0) → ∃ s1, s.Tracks s1 t h hold (.gather kind d stream va ((a :: rest).map fun _ => none) i) ∧
      State.SendsAll t h ((a :: rest).zipIdx.map fun e => .load (.word s.nextId e.2) 0 none e.1 false none i) s1 m)

/-- The stores of an XF element, likewise. -/
def State.WritesElement (s m : State) (t : Team) (h : Thread) (va : Nat) (a : Access) (rest : List Access) (ws : List Word) : Prop :=
  (rest.length < 4 ∧ va % 16 = 0 → s.SendsStore m t h .none (a.joined rest) (bytesOf ws) false) ∧
    (¬ (rest.length < 4 ∧ va % 16 = 0) → State.SendsStores t h ((a :: rest).zip ws) s m)

/-- The M address of R236: a pair plus a signed offset, modulo 2^56. -/
def View.offsetAddr (w : View) (a : Nat) (o : BitVec 10) (lit : Word) : Nat :=
  (((w.pair a).toNat + (imm10Of o lit).toInt : Int) % (2 ^ 56 : Int)).toNat

/-- The address at a uniform base: a uniform pair plus an unsigned index, modulo 2^56 (R236, R240). -/
def View.indexAddr (w : View) (u a : Nat) : Nat := ((w.upair u).toNat + (w.rd a).toNat) % 2 ^ 56

/-- What a load does in a thread: it begins, tracked, at the place that its address leads to, or the word fails there. -/
def LoadTurn (addr : View → Nat) (n : Nat) (kind : LoadKind) (d : Nat) (acq : Bool) (s : State) (t : Team) (h : Thread) (w : View) (m : State)
    (f : Option Fail) : Prop :=
  ∃ s1 r, s.Resolves s1 t (addr w) n 0 true r ∧
    match r.windowed with
    | .ok a => f = none ∧ ∃ i, s1.Tracks m t h (acq && s.chained) (.load kind d none a acq none i) ∧ i.packet = s.here
    | q => m = s1 ∧ f = some (.mem q)

/-- What a store does: it begins with the bytes that the word reads at issue. In a command window (R261) a store below 0x40 opens the
window, a store to GO starts a command in its release part, closes the window and holds the thread's next packet, and a store at 0x44 is a
store that opens none. -/
def StoreTurn (addr : View → Nat) (n : Nat) (data : View → List Byte) (rel : Bool) (s : State) (t : Team) (h : Thread) (w : View) (m : State)
    (f : Option Fail) : Prop :=
  ∃ s1 r, s.Resolves s1 t (addr w) n 1 true r ∧
    match r.windowed with
    | .ok a =>
      f = none ∧
      let hold := if rel = true ∧ s.chained = true then Hold.slot else Hold.none
      (match a.space with
        | .window _ c =>
          (a.bytes.headD 0 ≠ 0x40 → a.bytes.headD 0 ≠ 0x44 →
            ∃ s2, s1.Turns s2 t h (fun h' => h' = h.openWindow c) ∧ s2.SendsStore m t h hold a (data w) rel) ∧
          (a.bytes.headD 0 = 0x40 →
            ∃ s2, s1.Turns s2 t h (fun h' => h' = { h with openWin := h.openWin.filter (· ≠ c), sinceOpen := 0 }) ∧
              s2.SendsQuiet m t h (if s.chained then .slot else .packet) (.go c true false [] [])) ∧
          (a.bytes.headD 0 = 0x44 → s1.SendsStore m t h hold a (data w) rel)
        | _ => s1.SendsStore m t h hold a (data w) rel)
    | q => m = s1 ∧ f = some (.mem q)

/-- What an XF load does (R247 to R249): every word that the header in memory names is resolved before anything is read. -/
def XfLoadTurn (addr : View → Nat) (kind : View → LoadKind) (d : Nat) (stream : Option Nat) (x : Bool) (s : State) (t : Team) (h : Thread)
    (w : View) (m : State) (f : Option Fail) : Prop :=
  ∃ s1 r1, s.Resolves s1 t (addr w) 4 0 false r1 ∧
    match r1 with
    | .ok a0 =>
      (∃ s2 r2, s.resolveWords t (addr w) 0 (xfLen (s.peek t h.rh a0)) = (s2, r2) ∧ { s2 with dtlb := s.dtlb, cores := s.cores } = s ∧
        match r2 with
        | .ok as =>
          f = none ∧
          let hold := x && precX w.mode
          ∃ a rest i s3, as = a :: rest ∧ s2.ReadsElement s3 t h hold (kind w) d stream (addr w % 2 ^ 56) a rest i ∧ i.packet = s.here ∧
            m = if hold then s3.holdNext t.id h.lrank else s3
        | .fail q => m = s2 ∧ f = some (.mem q))
    | q => m = s1 ∧ f = some (.mem q)

/-- What an XF store does: a window past the allocation traps with cause 3, a rounding that exhausts its precision with cause 1 where
PREC.X is set; else the words are stored, XUF is set, and a stream form advances its pair (R80, R248, R249). -/
def XfStoreTurn (d a : Nat) (stream : Bool) (out : View → XfOut) (s : State) (t : Team) (h : Thread) (w : View) (m : State) (f : Option Fail) :
    Prop :=
  if h.nreg < d + xfLen (w.rd d) then
    f = none ∧ s.Turns m t h fun h' => ∃ i, h' = { h with trap := some i } ∧ i.cause = 3 ∧ i.packet = s.here
  else if (out w).exhausted = true ∧ precX w.mode = true then f = none ∧ ∃ i, m = s.trap t.id h.lrank i ∧ i.cause = 1 ∧ i.packet = s.here
  else
    ∃ s1 r, s.resolveWords t (w.addr a) 1 (out w).words.length = (s1, r) ∧ { s1 with dtlb := s.dtlb, cores := s.cores } = s ∧
      match r with
      | .ok as => f = none ∧ ∃ a' rest s2, as = a' :: rest ∧ s1.WritesElement s2 t h (w.addr a) a' rest (out w).words ∧ s2.Turns m t h fun h' =>
          h'.prec = (if (out w).xuf then h.prec ||| 0x1000 else h.prec) ∧
          (stream = false → h' = { h with prec := h'.prec }) ∧
          (stream = true → ({ h with prec := h'.prec }).SetsPair h' a (BitVec.ofNat 64 ((w.addr a + 4 * (out w).words.length) % 2 ^ 56)))
      | .fail q => m = s1 ∧ f = some (.mem q)

/-- What an atomic does (R242, R243): a tracked access whose operands are read at issue; the words of its core's copy become invalid. -/
def AtomicTurn (fn d a b : Nat) (acq rel : Bool) (s : State) (t : Team) (h : Thread) (w : View) (m : State) (f : Option Fail) : Prop :=
  ∃ s1 r, s.Resolves s1 t (w.addr a) (if fn ≤ 9 then 4 else 8) 1 false r ∧
    match r with
    | .ok acc =>
      f = none ∧ ∃ x y, (fn ≤ 9 → x.toNat = (w.rd b).toNat ∧ y.toNat = (w.rd (b + 1)).toNat) ∧ (10 ≤ fn → x = w.pair b ∧ y = w.pair (b + 2)) ∧
        (s1.l1Drop t acc).Tracks m t h ((acq || rel) && s.chained) (.atomic fn acc x y d acq rel)
    | q => m = s1 ∧ f = some (.mem q)

/-- What a RED does (R244, R245): it is complete for the thread at issue. -/
def RedTurn (rop a b : Nat) (s : State) (t : Team) (h : Thread) (w : View) (m : State) (f : Option Fail) : Prop :=
  let wide := 5 ≤ rop ∧ rop ≤ 7
  ∃ s1 r, s.Resolves s1 t (w.addr a) (if wide then 8 else 4) 1 false r ∧
    match r with
    | .ok acc =>
      f = none ∧ ∃ x, x.toNat = (if wide then (w.pair b).toNat else (w.rd b).toNat) ∧
        (if acc.attr.red then s1 else s1.l1Drop t acc).SendsQuiet m t h .none (.red rop acc x)
    | q => m = s1 ∧ f = some (.mem q)

/-- What a prefetch does (R246): nothing that a program can fault on. Only for an address that translates to a page that an L1 holds is
an access put in flight. -/
def PrefetchTurn (addr : View → Nat) (l2 : Bool) (s : State) (t : Team) (h : Thread) (w : View) (m : State) : Prop :=
  { m with ops := s.ops, nextId := s.nextId, dtlb := s.dtlb, cores := s.cores } = s ∧
    (isLocal (addr w) = true → m = s) ∧
    ∀ c, s.ctx? t.ctx = some c → isLocal (addr w) = false →
      match s.global t.die (some t.core) c (addr w) 1 0 0 with
      | (s1, .ok a) => (a.attr.scope ≤ 3 ∧ a.attr.red = false → s1.SendsQuiet m t h .none (.prefetch a l2)) ∧
          (¬ (a.attr.scope ≤ 3 ∧ a.attr.red = false) → m = s1)
      | (s1, _) => m = s1

/-! ## Rendezvous, engine words and control transfer -/

/-- A thread leaves the bundles in progress and becomes what `R` says; nothing else of the device differs. -/
def State.Leaves (s m : State) (t : Team) (h : Thread) (R : Thread → Prop) : Prop :=
  m.bundle = s.bundle.map (·.without t.id h.lrank) ∧ m.others = s.others.map (·.without t.id h.lrank) ∧
    { m with bundle := s.bundle, others := s.others, teams := s.teams } = s ∧ s.ThreadOnly m t h R

/-- The thread as a transfer of control to `pc` leaves it, counting its age from now (R139); a trap that waits for its entry will resume
there (R370). -/
def State.onward (s : State) (t : Team) (h : Thread) (pc : BitVec 56) : Thread :=
  { h with pc := pc, cont := false, snap := none, trap := h.trap.map (fun i => { i with resume := pc }), readyAt := s.clock t.die t.core }

/-- The packet that lies a signed count of packets from the one in progress (R181). -/
def State.packetBy (s : State) (off : BitVec 21) : BitVec 56 := BitVec.ofInt 56 ((s.here.toNat : Int) + 16 * off.toInt)

/-- The thread that parks at the packet in progress, to go on at `pc`. -/
def State.Parks (s m : State) (t : Team) (h : Thread) (p : Park) (pc : BitVec 56) (R : Thread → Prop) : Prop :=
  s.Leaves m t h fun h' => h'.park = p ∧ h'.pc = pc ∧ h'.parkAt = s.here ∧ h'.v = h.v ∧ h'.preds = h.preds ∧ h'.flags = h.flags ∧ h'.fh = h.fh ∧
    h'.rh = h.rh ∧ h'.rstack = h.rstack ∧ R h'

/-- What a group-wide word does in a lane (R250, R251, R364): it arrives, with what it read, its flag set, and parks; a conflicting or
malformed arrival ends the lane's group instead. -/
def GroupTurn (op : GroupOp) (p : Bool) (d a u : Nat) (s : State) (t : Team) (h : Thread) (w : View) (m : State) : Prop :=
  let arr : GroupArrival :=
    { op := op, packet := s.here, mask := w.u u, param := if p then w.u (u + 1) else 0, d := d, a0 := w.rd a, a1 := w.rd (a + 1), dOld := w.rd d,
      flag := s.slotFlag }
  if s.slotNow ≠ 1 ∨ (p ∧ u % 2 = 1) ∨ paramBad op arr.param ∨ t.conflicts h arr then m = s.groupAction t h 0x0102 (packetOf h.pc).toNat 0
  else s.Leaves m t h fun h' => h'.garr = some arr ∧ h'.park = .group ∧ h'.v = h.v ∧ h'.preds = h.preds ∧
    h'.flags = (match s.slotFlag with | some f => h.flags ||| (1#12 <<< f) | none => h.flags)

/-- A command as the sixteen uniform registers from `u` hold it (R265). -/
def View.commandBytes (w : View) (u n : Nat) : List Byte := (List.range n).flatMap fun i => toLe 4 (w.u (u + i)).toNat

/-- The handle records that a command on its way keeps, and the same command with others (R272). -/
def OpBody.kept (b : OpBody) : Option (List (Nat × List Byte)) :=
  match b with | .go _ _ _ recs _ => some recs | .push _ _ _ _ recs _ => some recs | _ => none
def OpBody.keeping (b : OpBody) (recs : List (Nat × List Byte)) : OpBody :=
  match b with | .go c g n _ sc => .go c g n recs sc | .push c p g cmd _ sc => .push c p g cmd recs sc | b => b

/-- Whether what a thread issued before holds back an access that it issues now, a write where `write` says so: an acquire, a fence or, for a
write, a release part that has not ended (R118, R119), or an accumulator move or a handle's record that is held back itself. -/
def State.HeldBack (s : State) (t : Team) (h : Thread) (write : Bool) : Prop :=
  ∃ o ∈ s.ops, o.team = t.id ∧ o.lrank = h.lrank ∧
    match o.body with
    | .load _ _ _ _ acq _ _ => acq = true
    | .atomic _ _ _ _ _ acq gate => acq = true ∨ (gate = true ∧ write = true)
    | .atomicDone _ _ _ acq _ _ => acq = true
    | .fence k => k ≠ 2 ∨ write = true
    | .store _ _ gate _ => gate = true ∧ write = true
    | .go _ gate _ _ _ => gate = true ∧ write = true
    | .push _ _ gate _ _ _ => gate = true ∧ write = true
    | .accRead _ _ _ => True
    | .accWrite _ _ _ => True
    | .handle _ _ => True
    | _ => False

/-- A handle's record is replaced: handle `k` of the team holds it, the commands that the thread `r` sent before operation `n` and has on their
way keep the record that they were sent with, and nothing else differs (R272, R273). -/
def State.HandleIs (s m : State) (t : Team) (r k n : Nat) (bytes : List Byte) : Prop :=
  { m with teams := s.teams, ops := s.ops } = s ∧ (∀ j, j ≠ t.id → m.team? j = s.team? j) ∧
    (∃ t', m.team? t.id = some t' ∧ { t' with handles := t.handles } = t ∧ getBytes t'.handles (32 * k) 32 = bytes ∧
      ∀ a, a < 32 * k ∨ 32 * k + 32 ≤ a → cget t'.handles a = cget t.handles a) ∧
    List.Forall₂ (fun o o' : Op => (¬ (o.team = t.id ∧ o.lrank = r ∧ o.id < n) ∨ o.body.kept = none → o' = o) ∧
      ∀ recs, o.team = t.id → o.lrank = r → o.id < n → o.body.kept = some recs →
        o' = { o with body := o.body.keeping (if recs.any (fun e => e.1 == k) then recs else (k, getBytes t.handles (32 * k) 32) :: recs) })
      s.ops m.ops

/-- What an operand-buffer word does with a record: it is replaced at once, or, behind an acquire, put in flight (R119, R272; log entry 38). -/
def State.HandleSet (s m : State) (t : Team) (h : Thread) (k : Nat) (bytes : List Byte) : Prop :=
  (¬ s.HeldBack t h true → s.HandleIs m t h.lrank k s.nextId bytes) ∧ (s.HeldBack t h true → s.SendsQuiet m t h .none (.handle k bytes))

/-- Whether entries of a team's accumulators lie in an uncorrectable granule of eight (R385, R386). -/
def State.AccPoisoned (s : State) (t : Team) (e n : Nat) : Prop := ∃ i, i < n ∧ Sram.acc t.id ((e + i) / 8) ∈ s.dev.badSram

/-- A read of `n` accumulator entries (R274): tracked, each register taking the entry as it stands at issue, or, where what the thread issued
before holds it back, as it stands when it is performed (R119, R275; log entry 38); an index or a register out of line is an illegal use, an
index beyond the allocation sub-cause 4 of R383, and an uncorrectable entry a read of R386. -/
def AccReadTurn (d a n : Nat) (s : State) (t : Team) (h : Thread) (w : View) (m : State) (f : Option Fail) : Prop :=
  let e := (w.rd a).toNat
  let lined := e % n = 0 ∧ d % n = 0
  (¬ lined → m = s ∧ f = some .illegal) ∧
    (lined → s.accOf t < e + n → m = s ∧ f = some (.mem (.bad 4 0))) ∧
    (lined → e + n ≤ s.accOf t → s.AccPoisoned t e n → m = s ∧ f = some (.mem (.poison 0))) ∧
    (lined → e + n ≤ s.accOf t → ¬ s.AccPoisoned t e n → f = none ∧
      (¬ s.HeldBack t h false → s.Tracks m t h false (.result ((List.range n).map fun i => .reg (d + i) (cget t.acc (e + i))) false)) ∧
      (s.HeldBack t h false → s.Tracks m t h false (.accRead d e n)))

/-- A write of `n` accumulator entries (R274, R275), `how` naming it: each entry becomes `new` of its value and its register, one write each; no
other entry, register or byte differs, and the write's time, one tick after the core's GTIME, raises the thread's FH. Where what the thread
issued before holds the write back, it is put in flight with its registers' values (R119; log entry 38). A form that adds reads its entries. -/
def AccWriteTurn (a b n how : Nat) (new : Word → Word → Word) (s : State) (t : Team) (h : Thread) (w : View) (m : State)
    (f : Option Fail) : Prop :=
  let e := (w.rd a).toNat
  let lined := e % n = 0 ∧ b % n = 0
  let poisoned := how ≠ 0 ∧ s.AccPoisoned t e n
  (¬ lined → m = s ∧ f = some .illegal) ∧
    (lined → s.accOf t < e + n → m = s ∧ f = some (.mem (.bad 4 0))) ∧
    (lined → e + n ≤ s.accOf t → poisoned → m = s ∧ f = some (.mem (.poison 0))) ∧
    (lined → e + n ≤ s.accOf t → ¬ poisoned → s.HeldBack t h true →
      f = none ∧ s.SendsQuiet m t h .none (.accWrite how e ((List.range n).map fun i => w.rd (b + i)))) ∧
    (lined → e + n ≤ s.accOf t → ¬ poisoned → ¬ s.HeldBack t h true →
      f = none ∧ { m with teams := s.teams, launches := s.launches } = s ∧ (∀ j, j ≠ t.id → m.team? j = s.team? j) ∧
      ∃ t', m.team? t.id = some t' ∧ { t' with acc := t.acc, threads := t.threads } = t ∧
        (∀ i, cget t'.acc i = if e ≤ i ∧ i < e + n then new (cget t.acc i) (w.rd (b + (i - e))) else cget t.acc i) ∧
        (∀ r, r ≠ h.lrank → t'.thread? r = t.thread? r) ∧ t'.thread? h.lrank = some { h with fh := max h.fh (s.gtime t.die + 1) })

/-- What a tag wait or a look for a ready tag does (R126, R270, R283): an odd pair, an empty mask where one tag is awaited, or a tag of
another team ends the group; else its wait begins. -/
def TagTurn (any : Bool) (u : Nat) (start : BitVec 64 → State → Prop) (s : State) (t : Team) (h : Thread) (w : View) (m : State) : Prop :=
  let mask := w.upair u
  let pushing := ∃ o ∈ s.ops, o.team = t.id ∧ o.lrank = h.lrank ∧ ∃ c p g b r sc, o.body = .push c p g b r sc
  let bad := u % 2 = 1 ∨ (any = true ∧ mask = 0) ∨ (¬ pushing ∧ mask &&& ~~~t.tags ≠ 0)
  (bad → m = s.groupAction t h 0x0102 (packetOf h.pc).toNat 0) ∧ (¬ bad → start mask m)

/-- What a call to `dest` does in a thread (R184, R185): an address out of line, or a stack with no room, is an illegal use; else the
address of the next packet is pushed with its depth, the oldest of sixteen entries stored to the thread's spill area first, and the
thread goes to `dest`. -/
def CallTurn (dest : State → View → BitVec 56) (s : State) (t : Team) (h : Thread) (w : View) (m : State) (f : Option Fail) : Prop :=
  let entry : Dword := BitVec.ofNat 64 (h.nextDepth * 2 ^ 56 + (s.here + 16#56).toNat)
  let area := s.localArea t h
  let pushed := fun (st : List Dword) (h' : Thread) => h' = { s.onward t h (dest s w) with rstack := st ++ [entry] }
  let full := 127 < h.nextDepth ∨ (16 ≤ h.rstack.length ∧ area.2 < 8 * entryD (h.rstack.getD 0 0))
  if (dest s w).toNat % 16 ≠ 0 ∨ full then m = s ∧ f = some .illegal
  else if h.rstack.length < 16 then f = none ∧ s.Leaves m t h (pushed h.rstack)
  else
    ∃ s1 r, s.Resolves s1 t (((area.1 + 8 * entryD (h.rstack.getD 0 0) : Nat) - 8 : Int) % (2 ^ 56 : Int)).toNat 8 1 false r ∧
      match r with
      | .ok a => f = none ∧ ∃ s2, s1.SendsStore s2 t h .packet a (toLe 8 (h.rstack.getD 0 0).toNat) false ∧ s2.Leaves m t h (pushed h.rstack.tail)
      | q => m = s1 ∧ f = some (.mem q)

/-- What a return does (R185, R363): an empty stack, a join marker or an address out of line is an illegal use and leaves the stack; else
the newest entry is removed, an emptied stack being filled again by a load, and the thread goes to its address. -/
def ReturnTurn (s : State) (t : Team) (h : Thread) (_w : View) (m : State) (f : Option Fail) : Prop :=
  match h.rstack.getLast? with
  | none => m = s ∧ f = some .illegal
  | some e =>
    let popped := fun (h' : Thread) => h' = { s.onward t h (entryAddr e) with rstack := h.rstack.dropLast }
    if entryM e = true ∨ (entryAddr e).toNat % 4 ≠ 0 then m = s ∧ f = some .illegal
    else if h.rstack.length = 1 ∧ 1 < entryD e then
      ∃ s1 r, s.Resolves s1 t ((s.localArea t h).1 + 8 * (entryD e - 2)) 8 0 false r ∧
        match r with
        | .ok a => f = none ∧ ∃ s2 i, s1.SendsQuiet s2 t h .packet (.load .fill 0 none a false none i) ∧ s2.Leaves m t h popped
        | q => m = s1 ∧ f = some (.mem q)
    else f = none ∧ s.Leaves m t h popped

/-- The accesses of a thread that an arrival waits for (R120). -/
def State.Outstanding (s : State) (t : Team) (h : Thread) (ids : List Nat) : Prop :=
  ids = (s.ops.filter fun o => o.team == t.id && o.lrank == h.lrank && o.body.unreturned).map (·.id)

/-- A thread that arrives at barrier `k` of its frame and becomes what `R` says. -/
def State.ArrivesThen (s m : State) (t : Team) (h : Thread) (k : Nat) (R : Thread → Prop) : Prop :=
  s.Leaves m t h fun h' => (∃ ids, s.Outstanding t h ids ∧ h'.arrivals = h.arrivals ++ [{ bar := k, ops := ids, at_ := s.here }]) ∧ R h'

/-- The value of a system register of 32 bits as a thread sees it (R63 to R65). -/
def State.sysValue (s : State) (t : Team) (h : Thread) (w : View) (n : Nat) : Word :=
  let d := s.desc? t
  let flag := fun (b : Bool) (k : Nat) => if b then 2 ^ k else 0
  let f := t.frame h.frame
  if n = 0x00 then w.prec
  else if n = 0x01 then
    BitVec.ofNat 32 (f.depth % 16 + f.callee % 4 * 2 ^ 4 + flag t.mrgc 8 + flag (d.elim false (·.det)) 9 + flag (d.elim false (·.ens)) 10)
  else if n = 0x06 then BitVec.ofNat 32 h.rank
  else if n = 0x07 then BitVec.ofNat 32 f.nrank
  else if n = 0x08 then BitVec.ofNat 32 t.teamId
  else if n = 0x09 then BitVec.ofNat 32 (d.elim 0 (·.nteams))
  else if n = 0x0A then BitVec.ofNat 32 (t.cluster * 2 ^ 4 + t.pos)
  else if n = 0x0B then BitVec.ofNat 32 t.core
  else if n = 0x0E then BitVec.ofNat 32 w.akey.toNat
  else BitVec.ofNat 32 h.nreg

/-- The value of one of 64 bits by the number of its low half (R63, R66). -/
def State.sysWide (s : State) (t : Team) (w : View) (n : Nat) : Dword :=
  if n = 0x02 then BitVec.ofNat 64 w.fh
  else if n = 0x04 then BitVec.ofNat 64 w.rh
  else if n = 0x0C then BitVec.ofNat 64 (s.gtime t.die)
  else ((s.core? t.die t.core).map (·.tagrdy)).getD 0

/-- A thread's read of system register `n` gives `x` and leaves `h'` (R66, R200): the low half of a wide register latches the high
half, a high half takes what was latched and uses it up, and any other read changes nothing. -/
def State.SysRead (s : State) (t : Team) (h : Thread) (w : View) (n : Nat) (x : Word) (h' : Thread) : Prop :=
  let low := fun (k : Nat) => x = (s.sysWide t w k).extractLsb' 0 32
  let high := fun (k : Nat) (sh : Option Word) => x = sh.getD ((s.sysWide t w k).extractLsb' 32 32)
  let latched := fun (k : Nat) => some ((s.sysWide t w k).extractLsb' 32 32)
  if n = 0x02 then low 0x02 ∧ h' = { h with shFh := latched 0x02 }
  else if n = 0x03 then high 0x02 h.shFh ∧ h' = { h with shFh := none }
  else if n = 0x04 then low 0x04 ∧ h' = { h with shRh := latched 0x04 }
  else if n = 0x05 then high 0x04 h.shRh ∧ h' = { h with shRh := none }
  else if n = 0x0C then low 0x0C ∧ h' = { h with shGtime := latched 0x0C }
  else if n = 0x0D then high 0x0C h.shGtime ∧ h' = { h with shGtime := none }
  else if n = 0x0F then low 0x0F ∧ h' = { h with shTagrdy := latched 0x0F }
  else if n = 0x10 then high 0x0F h.shTagrdy ∧ h' = { h with shTagrdy := none }
  else x = s.sysValue t h w n ∧ h' = h

/-- A write of PREC as a whole (R64): its P, RM and X as written, XUF cleared where the written bit is 1; a value that R64 rejects
traps, with cause 2, and changes nothing. -/
def PrecWriteTurn (f : View → Word) (s : State) (t : Team) (h : Thread) (w : View) (m : State) : Prop :=
  let p := (f w).toNat % 2 ^ 8
  let rm := (f w).toNat / 2 ^ 8 % 2 ^ 3
  let good := 1 ≤ p ∧ p ≤ 237 ∧ rm ≤ 4
  (good → s.Turns m t h fun h' => ∃ new, h' = { h with prec := new } ∧ precP new = p ∧ precRM new = rm ∧ precX new = (f w).getLsbD 11 ∧
    precXUF new = (precXUF w.mode && !(f w).getLsbD 12)) ∧
    (¬ good → s.Turns m t h fun h' => ∃ i, h' = { h with trap := some i } ∧ i.cause = 2 ∧ i.packet = s.here)

/-- A write of TSTAT (R65, R199): the team's MRGC is cleared where its bit is 1, and nothing else changes. -/
def MergedClearTurn (f : View → Word) (s : State) (t : Team) (_h : Thread) (w : View) (m : State) : Prop :=
  ((f w).getLsbD 8 = true → s.OnlyTeam m t.id ∧ m.team? t.id = some { t with mrgc := false }) ∧ ((f w).getLsbD 8 = false → m = s)

/-! ## Accesses in flight and their ends (R112 to R119, R129, R159) -/

/-- An access or result in flight, with its team and its thread. -/
def State.InFlight (s : State) (o : Op) (t : Team) (h : Thread) : Prop :=
  s.op? o.id = some o ∧ s.team? o.team = some t ∧ t.thread? o.lrank = some h

/-- Nothing differs but that some threads count their age anew, from a core clock, and are not aged (R139). -/
def State.Ages (s m : State) : Prop :=
  { m with teams := s.teams } = s ∧ ∀ j, match s.team? j with
    | none => m.team? j = none
    | some t => ∃ t', m.team? j = some t' ∧ { t' with threads := t.threads } = t ∧ ∀ r, match t.thread? r with
      | none => t'.thread? r = none
      | some h => t'.thread? r = some h ∨ ∃ clock, t'.thread? r = some { h with readyAt := clock, aged := false }

/-- The operation is no longer in flight, and its thread becomes what `R` says; its flag is clear unless another operation of the thread
has it in flight too (R159). Threads that become ready so count their age anew; no byte, no frame and no other thread differs otherwise. -/
def State.OpEnds (s m : State) (t : Team) (h : Thread) (o : Op) (R : Thread → Prop) : Prop :=
  ∃ m0 : State, m0.Ages m ∧ m0.ops = s.ops.filter (fun x => x.id != o.id) ∧ { m0 with ops := s.ops, teams := s.teams } = s ∧
    s.ThreadOnly m0 t h fun h' => R { h' with flags := h.flags } ∧
      ∀ f, f < 12 → (h'.flags.getLsbD f = true ↔ h.flags.getLsbD f = true ∧
        ¬ (o.flag = some f ∧ ∀ x ∈ m0.ops, x.team = t.id → x.lrank = h.lrank → x.flag ≠ some f))

/-- The uniform writes of a frame complete with the operation `o` (R28): it is no longer in flight, the registers hold its values, and
nothing else of the device differs. -/
def State.UniformLands (s m : State) (t : Team) (o : Op) (f : Nat) (ws : List (Nat × Word)) : Prop :=
  m.ops = s.ops.filter (fun x => x.id != o.id) ∧ { m with ops := s.ops, teams := s.teams } = s ∧ (∀ j, j ≠ t.id → m.team? j = s.team? j) ∧
    ∃ t', m.team? t.id = some t' ∧ t.USets t' f ws

/-- The operation stands with the body `b`. -/
def State.OpBecomes (m : State) (o : Op) (b : OpBody) : Prop := m.op? o.id = some { o with body := b }

/-- No partial value of a RED page stands at these bytes (R129). -/
def State.NoPartial (s : State) (pas : List Nat) : Prop := ∀ p ∈ s.partials, p.touches pas = false

/-- The bytes at the place that an access reaches, with the time that a read of them carries (R116). -/
def State.Holds (s : State) (a : Access) (bs : List Byte) (w : Nat) : Prop :=
  match a.space with
  | .hbm => s.NoPartial a.bytes ∧ s.poisoned a.bytes = false ∧ bs = getAt s.mem a.bytes ∧
      w = maxOf 0 (a.bytes.map fun p => (s.lineMeta (lineOf p)).w)
  | .scratch id => (∀ p ∈ a.bytes, Sram.scratch id (p / 32) ∉ s.dev.badSram) ∧
      ∃ u, s.team? id = some u ∧ u.standing ≠ .ended ∧ bs = getAt u.scratch a.bytes ∧ w = s.gtime u.die + 1
  | .window id c => a.bytes.headD 0 < 0x40 ∧
      ∃ u, s.team? id = some u ∧ bs = getAt u.win (a.bytes.map (256 * c + ·)) ∧ w = s.gtime u.die + 1

/-- The bytes at the place that an access reaches are written at time `time`, and no other byte of any memory differs: on each line of a
home one tick past the home's GTIME and past every lease that it has granted on the line, and no copy is left with the host; in a scratchpad
or a command window, whose first 64 bytes alone are kept, one tick past its core's GTIME (R116, R121, R261). -/
def State.Puts (s m : State) (a : Access) (data : List Byte) (time : Nat) : Prop :=
  m.hostMem = s.hostMem ∧
  match a.space with
  | .hbm => m.mem = putAt s.mem a.bytes data ∧ m.teams = s.teams ∧
      let lineT := fun (p : Nat) => max (s.gtime (homeDie p)) (s.lineMeta (lineOf p)).lease + 1
      (∀ p ∈ a.bytes, lineT p ≤ time ∧ lineT p ≤ (m.lineMeta (lineOf p)).w ∧ (m.lineMeta (lineOf p)).host = false) ∧
      (∃ p ∈ a.bytes, time = lineT p)
  | .scratch id => m.mem = s.mem ∧ s.OnlyTeam { s with teams := m.teams } id ∧
      ∃ u, s.team? id = some u ∧ m.team? id = some { u with scratch := putAt u.scratch a.bytes data } ∧ time = s.gtime u.die + 1
  | .window id c => m.mem = s.mem ∧ s.OnlyTeam { s with teams := m.teams } id ∧
      ∃ u, s.team? id = some u ∧ time = s.gtime u.die + 1 ∧
        m.team? id = some (if a.bytes.headD 0 < 0x40 then { u with win := putAt u.win (a.bytes.map (256 * c + ·)) data } else u)

/-- The new value of an atomic (R242), from the old one and its operands as naturals. -/
def atomicValue (f old x y : Nat) : Nat :=
  let sgn := fun (n : Nat) => if n % 2 ^ 32 < 2 ^ 31 then (n % 2 ^ 32 : Int) else (n % 2 ^ 32 : Int) - 2 ^ 32
  let a := old % 2 ^ 32
  let b := x % 2 ^ 32
  match f with
  | 0 => (a + b) % 2 ^ 32
  | 1 => if sgn b < sgn a then b else a
  | 2 => if sgn a < sgn b then b else a
  | 3 => min a b
  | 4 => max a b
  | 5 => a &&& b
  | 6 => a ||| b
  | 7 => a ^^^ b
  | 8 => b
  | 9 => if a = b then y % 2 ^ 32 else a
  | 10 => (old + x) % 2 ^ 64
  | 11 => max old x
  | 12 => x
  | _ => if old = x then y else old

/-- What a RED's combination gives (R245): the integer operations by R242's values, the floating-point ones by FP32 arithmetic. -/
def RedGives (rop : Nat) (old x v : Dword) : Prop :=
  let o := old.toNat
  let a := x.toNat
  let f := fun (op : Val → Val → Val) => v.toNat = (encF32 (op (decF32 (old.extractLsb' 0 32)) (decF32 (x.extractLsb' 0 32)))).toNat
  (rop ≤ 4 → v.toNat = atomicValue rop o a 0) ∧ (rop = 5 → v.toNat = atomicValue 10 o a 0) ∧ (rop = 6 → v.toNat = min o a) ∧
    (rop = 7 → v.toNat = max o a) ∧ (rop = 8 → f (Val.add .rne)) ∧ (rop = 9 → f Val.min) ∧ (rop = 10 → f Val.max)

/-- A load's bytes are there: a fill has brought them, the place itself gives them, or copies in the core's L1 do, each under its lease
and stamped no lower than the thread's RH (R104, R115, R117). -/
def State.Arrives (s : State) (t : Team) (h : Thread) (o : Op) (a : Access) (got : Option (List Byte × Nat)) (bs : List Byte) (w : Nat) : Prop :=
  match got with
  | some g => g = (bs, w)
  | none => s.mayPerform o = true ∧
      if a.space = .hbm ∧ a.attr.cached = true then
        ∃ c, s.core? t.die t.core = some c ∧ (∀ l ∈ c.l1, l.stamp ≤ s.gtime t.die + 2) ∧ s.l1Read? t h.rh a = some (bs, w)
      else s.Holds a bs w

/-- Nothing of the device differs but one core, of which `R` is true. -/
def State.OnlyCore (s m : State) (die core : Nat) (R : Core → Core → Prop) : Prop :=
  { m with cores := s.cores } = s ∧ (∀ d n, ¬ (d = die ∧ n = core) → m.core? d n = s.core? d n) ∧
    match s.core? die core with
    | none => m.core? die core = none
    | some c => ∃ c', m.core? die core = some c' ∧ R c c'

/-- The audit log takes an entry at once, and more than the kept entries are free (R352). -/
def State.LogRoom (s : State) : Prop := s.dev.audit.frozen = false ∧ s.dev.audit.pending = [] ∧ 2 ^ 10 ≤ s.dev.audit.free

/-! ## Commands on their way (R110, R122 to R127, R262, R267) -/

/-- A command of a thread is accepted (R110, R262): last of the commands, latched with the records of the handles that it names (those in
`recs`, which it was sent with, before the present ones, R272), counted once on each counter of its class, and its tag, where no other team
of the core owns that, made busy. Nothing else differs. -/
def State.Accepts (s m : State) (t : Team) (h : Thread) (cls : Nat) (bytes : List Byte) (recs : List (Nat × List Byte))
    (scales : List (Nat × Word)) : Prop :=
  let tag := fieldLe bytes 2 1
  let free := tag < 64 ∧ ∀ x ∈ s.teams, x.id ≠ t.id → x.die = t.die → x.core = t.core → x.standing ≠ .ended → x.tags.getLsbD tag = false
  { m with cmds := s.cmds, nextId := s.nextId, teams := s.teams, cores := s.cores } = s ∧
    (∃ c, m.cmds = s.cmds ++ [c] ∧ c.id = s.nextId ∧ c.team = t.id ∧ c.frame = h.frame ∧ c.cls = cls ∧ c.bytes = bytes ∧ c.scales = scales ∧
      c.state = .queued ∧ c.code = 0 ∧ c.tc = 0 ∧ c.units = [] ∧ c.notify = false ∧ (c.tagged = true ↔ free) ∧
      ∀ k ∈ handlesOf bytes, (k, ((recs.find? fun e => e.1 == k).map (·.2)).getD (getBytes t.handles (32 * k) 32)) ∈ c.recs) ∧
    (∀ j, j ≠ t.id → m.team? j = s.team? j) ∧
    (∃ t', m.team? t.id = some t' ∧ { t' with frames := t.frames, tags := t.tags, trdy := t.trdy } = t ∧
      (∀ k, k ≠ h.frame → t'.frame k = t.frame k) ∧ { t'.frame h.frame with cnt := (t.frame h.frame).cnt } = t.frame h.frame ∧
      (∀ k cons, k ≤ 4 → (t'.frame h.frame).cnt.of k cons = (t.frame h.frame).cnt.of k cons + if k = cls then 1 else 0) ∧
      (free → t'.tags = t.tags ||| (1#64 <<< tag) ∧ t'.trdy.getLsbD tag = false) ∧ (¬ free → t'.tags = t.tags ∧ t'.trdy = t.trdy)) ∧
    ∀ c, s.core? t.die t.core = some c → ∃ c', m.core? t.die t.core = some c' ∧ { c' with tagrdy := c.tagrdy, tagCnt := c.tagCnt } = c ∧
      (¬ free → c' = c) ∧ (free → c'.tagrdy = c.tagrdy &&& ~~~(1#64 <<< tag) ∧
        ∀ n z, c.tagCnt.find? (fun e => e.1 == tag) = some (tag, n, z) → c'.tagCnt.find? (fun e => e.1 == tag) = some (tag, n + 1, z))

/-- A command completes at time `tc` (R110, R123, R125, R281): its counter falls, the latest completion time of its class and of its frame
rise to it, and its tag is ready once no command is counted against it. It leaves, or waits for its notify counter. -/
def State.Completes (s m : State) (c : Cmd) (tc : Nat) : Prop :=
  { m with cmds := s.cmds, teams := s.teams, cores := s.cores, launches := s.launches } = s ∧
    (∀ d, d.id ≠ c.id → (d ∈ m.cmds ↔ d ∈ s.cmds)) ∧
    (c.nf = false ∨ c.stBad = true → ∀ d ∈ m.cmds, d.id ≠ c.id) ∧
    (c.nf = true → c.stBad = false → ∀ d, s.cmd? c.id = some d → m.cmd? c.id = some { d with state := .completed, tc := tc, notify := true }) ∧
    (∀ j, j ≠ c.team → m.team? j = s.team? j) ∧
    (∀ t, s.team? c.team = some t → c.frame < t.frames.length → (t.frame c.frame).tcs.length = 5 →
      ∃ t', m.team? c.team = some t' ∧ { t' with frames := t.frames, trdy := t.trdy } = t ∧ (∀ k, k ≠ c.frame → t'.frame k = t.frame k) ∧
        (∀ k cons, k ≤ 4 → (t'.frame c.frame).cnt.of k cons = (t.frame c.frame).cnt.of k cons - if k = c.cls ∧ (k = 1 → cons = false) then 1 else 0) ∧
        (∀ k, k ≤ 4 → (t'.frame c.frame).tcs.getD k 0 = if k = c.cls then max tc ((t.frame c.frame).tcs.getD k 0) else (t.frame c.frame).tcs.getD k 0) ∧
        (t'.frame c.frame).cmdH = max (t.frame c.frame).cmdH tc) ∧
    (∀ k n z, s.core? c.die c.core = some k → c.tagged = true → k.tagCnt.find? (fun e => e.1 == c.tag) = some (c.tag, n, z) →
      ∃ k', m.core? c.die c.core = some k' ∧ (n ≤ 1 → c.tag < 64 → k'.tagrdy.getLsbD c.tag = true) ∧ (1 < n → k'.tagrdy = k.tagrdy) ∧
        k'.tagCnt.find? (fun e => e.1 == c.tag) = some (c.tag, n - 1, max z tc))

/-! ## The picker (R26, R139, R140, R161) -/

/-- The core clock at which the longest-ready thread of a candidate became ready, and the lowest launch rank of its threads. -/
def Cand.ReadySince (c : Cand) (n : Nat) : Prop := (∃ h ∈ c.threads, h.readyAt = n) ∧ ∀ h ∈ c.threads, n ≤ h.readyAt
def Cand.LowestRank (c : Cand) (n : Nat) : Prop := (∃ h ∈ c.threads, h.lrank = n) ∧ ∀ h ∈ c.threads, n ≤ h.lrank

/-- A candidate of which a thread has been ready for 1,024 core clocks or more (R139), and one whose threads come after every other that is
not aged (R161). -/
def State.AgedCand (s : State) (c : Cand) : Prop :=
  ∃ h ∈ c.threads, h.aged = true ∨ h.readyAt + 1024 ≤ s.clock c.team.die c.team.core
def State.LateCand (s : State) (c : Cand) : Prop := ¬ s.AgedCand c ∧ ∀ h ∈ c.threads, h.yieldMark = true

/-- The launch priority of a candidate, and whether it is on the hinted path (R140). -/
def State.prioOf (s : State) (c : Cand) : Nat := min 3 ((s.launch? c.team.launch).elim 0 (·.prio))
def Cand.Hinted (c : Cand) : Prop := ∃ h ∈ c.threads, h.hintMark = true

/-- Candidate `e` goes before candidate `c` by the first rule of R139, with R161 among them, that separates them; `n` and `m` are the clocks
from which they are ready, and `i` and `j` their lowest launch ranks. -/
def State.GoesBefore (s : State) (e c : Cand) (n m i j : Nat) : Prop :=
  (s.AgedCand e ∧ ¬ s.AgedCand c) ∨ (s.AgedCand e ∧ s.AgedCand c ∧ n < m) ∨
    ((s.AgedCand e ↔ s.AgedCand c) ∧ (s.AgedCand e → n = m) ∧
      ((¬ s.LateCand e ∧ s.LateCand c) ∨
        ((s.LateCand e ↔ s.LateCand c) ∧
          (s.prioOf c < s.prioOf e ∨
            (s.prioOf e = s.prioOf c ∧
              ((e.Hinted ∧ ¬ c.Hinted) ∨
                ((e.Hinted ↔ c.Hinted) ∧ (n < m ∨ (n = m ∧ (i < j ∨ (i = j ∧ e.team.slot < c.team.slot)))))))))))

/-- The threads `hs` of `all` that a picker takes (R26), ascending in rank: all, or 32 of them; first those with the key of the oldest thread,
then the others, and within each the lowest ranks. Of several oldest threads, the lowest rank counts (log entry 73). -/
def Takes (all hs : List Thread) : Prop :=
  ∃ rest o, (hs ++ rest).Perm all ∧ hs.length = min 32 all.length ∧ hs.Pairwise (fun x y => x.rank ≤ y.rank) ∧ o ∈ all ∧
    (∀ h ∈ all, o.readyAt ≤ h.readyAt ∧ (h.readyAt = o.readyAt → o.rank ≤ h.rank)) ∧
    ∀ h ∈ hs, ∀ g ∈ rest, (h.akey = o.akey ∨ g.akey ≠ o.akey) ∧ ((h.akey = o.akey ↔ g.akey = o.akey) → h.rank ≤ g.rank)

/-! ## Threads released together (R120, R152, R190 to R193) -/

/-- The thread as a release with the acquired time `hz`, at a core clock and a GTIME, leaves it: one that a debugger holds stopped keeps its release
until it resumes, and one that a STEP parked stops (R376, R377). -/
def Thread.releasedAt (h : Thread) (clock time hz : Nat) : Thread :=
  if h.stopped = true then { h with due := some ⟨hz, []⟩ }
  else { h with fh := max h.fh hz, rh := max h.rh hz, park := .none, readyAt := clock, aged := false, parkTold := false, due := none,
                stopped := h.stopNext, stopNext := false, stopClock := if h.stopNext then clock else h.stopClock,
                stopTime := if h.stopNext then time else h.stopTime }

/-- The threads of a team that `p` names are released, and every other thread stays as it was. -/
def Team.Frees (t t' : Team) (clock time hz : Nat) (p : Thread → Prop) : Prop :=
  ∀ r, match t.thread? r with
    | none => t'.thread? r = none
    | some h => ∃ h', t'.thread? r = some h' ∧ (p h → h' = h.releasedAt clock time hz) ∧ (¬ p h → h' = h)

/-! ## Engine commands (R266, R276, R389, R390) -/

/-- A command whose header and body the engine accepts before any access: an opcode of its class, FLAGS bits that the opcode defines, a
tag that the command counts against or none, its class, zero in every reserved byte, where `shown` lists the body's fields by offset and
length, and a STADDR that can be written. -/
def State.Fit (s : State) (c : Cmd) (t : Team) (opc : Nat) (shown : List (Nat × Nat)) : Prop :=
  c.opc = opc ∧ opc ∈ classOps c.cls ∧ fieldLe c.bytes 1 1 < (if opc = 0x20 then 32 else 4) ∧ ((c.tag < 64 ∧ c.tagged = true) ∨ c.tag = 255) ∧
    fieldLe c.bytes 3 1 = c.cls ∧ fieldLe c.bytes 4 4 = 0 ∧ s.staddrBad c t = none ∧
    ∀ i, 16 ≤ i → i < 64 → (∀ f ∈ shown, ¬ (f.1 ≤ i ∧ i < f.1 + f.2)) → fieldLe c.bytes i 1 = 0

/-- A command that its engine may begin or go on with: its checks are over, or every one of them holds. -/
def State.MayRun (s : State) (c : Cmd) (t : Team) (opc : Nat) (shown : List (Nat × Nat)) (more : Prop) : Prop :=
  s.startable c.id = some (c, t) ∧ c.opc = opc ∧ (c.state = .queued → s.Fit c t opc shown ∧ more)

/-- The command's body is over with a code, a detail and a count; its status word is still to come. -/
def State.CmdIs (m : State) (c : Cmd) (code detail count : Nat) : Prop :=
  ∃ d, m.cmd? c.id = some d ∧ d.state = .performed ∧ d.code = code ∧ d.detail = detail ∧ d.count = count ∧ d.bytes = c.bytes ∧ d.team = c.team

/-! ## Bodies of engine commands (R276 to R322) -/

/-- The device with the command as its engine has taken it up; a maintenance command keeps the time of its first try. -/
def State.begun (s : State) (c : Cmd) : State := s.modCmd c.id fun x => if c.state = .queued then { x with state := .running } else x
def State.begunAt (s : State) (c : Cmd) : State :=
  s.modCmd c.id fun x => if c.state = .queued then { x with state := .running, at_ := s.gtime c.die } else x

/-- Units of a command's work performed one after another (R277): `P i s m` says that unit `i` takes the device from `s` to `m`. -/
def Performs (P : Nat → State → State → Prop) : List Nat → State → State → Prop
  | [], s, s' => s' = s
  | i :: rest, s, s' => ∃ m, P i s m ∧ Performs P rest m s'

/-- `order` lists, once each, those of a command's `n` units that are still to be performed and that `some_` names, in the order there; or
all that are still to be performed, ascending, where it names none of them (R2, R277). -/
def Cmd.Order (c : Cmd) (n : Nat) (some_ order : List Nat) : Prop :=
  let left := (List.range n).filter fun i => decide (i ∉ c.units)
  ((∀ j ∈ some_, j ∉ left) → order = left) ∧ ((∃ j ∈ some_, j ∈ left) → order = some_.dedup.filter fun i => decide (i ∈ left))

/-- The command's body is over without an error, and nothing but commands differs from `m`. -/
def State.BodyDone (m s' : State) (c : Cmd) (count : Nat) : Prop := s'.CmdIs c 0 0 count ∧ { s' with cmds := m.cmds } = m

/-- A step of a command of `n` units has performed those of `order`: the body is over once none is left; else the command goes on, with them
noted. Nothing but commands differs from `m`. -/
def State.Worked (m s' : State) (c : Cmd) (n : Nat) (order : List Nat) (count : Nat) : Prop :=
  (n ≤ c.units.length + order.length → m.BodyDone s' c count) ∧
    (c.units.length + order.length < n → { s' with cmds := m.cmds } = m ∧
      ∃ d, s'.cmd? c.id = some d ∧ d.state = .running ∧ d.bytes = c.bytes ∧ ∀ i, i ∈ d.units ↔ i ∈ c.units ∨ i ∈ order)

/-- A step of a matrix command writes, of the entries `left` still to be written, those that `some_` names, or all where it names nothing: each
takes its value, no other entry differs, and the body is over once none is left (R2, R281). -/
def State.Multiplies (s s' : State) (c : Cmd) (t : Team) (left : Nat → Option Word) (some_ : List Nat) : Prop :=
  let now := fun (k : Nat) => (left k).isSome = true ∧ (some_ = [] ∨ k ∈ some_)
  s.OnlyTeam { s' with cmds := s.cmds } t.id ∧ (∃ t', s'.team? t.id = some t' ∧ { t' with acc := t.acc } = t ∧
      ∀ k, (now k → some (cget t'.acc k) = left k) ∧ (¬ now k → cget t'.acc k = cget t.acc k)) ∧
    ((∀ k, (left k).isSome = true → now k) → s'.CmdIs c 0 0 (c.m * c.n)) ∧
    ((∃ k, (left k).isSome = true ∧ ¬ now k) → ∃ d rest, s'.cmd? c.id = some d ∧ d.state = .running ∧ d.bytes = c.bytes ∧ d.outs = some rest ∧
      ∀ k x, (k, x) ∈ rest ↔ left k = some x ∧ ¬ now k)

/-- The operand buffer that a matrix command computes from: the words that it has read as it read them, over the buffer as it stands (R128). -/
def Cmd.Sees (c : Cmd) (now seen : Cells 8) : Prop :=
  seen = (c.early.getD []).foldl (fun m e => putBytes m (4 * e.1) (toLe 4 e.2.toNat)) now

/-- A step of a matrix command reads operand words ahead of the others: those that `some_` names, from 2^20 on, and with the first of them the
metadata's, which were checked. A word that it had read stays as it was read, and nothing else differs (R128, R280). -/
def State.ReadsAhead (s s' : State) (c : Cmd) (t : Team) (md : Option TileRec) (some_ : List Nat) : Prop :=
  let now := fun (w : Nat) => BitVec.ofNat 32 (leNat (getBytes t.opbuf (4 * w) 4))
  let had := fun (w : Nat) (x : Word) => (∀ l, c.early = some l → (w, x) ∈ l) ∧
    (c.early = none → x = now w ∧ ∃ m i j, md = some m ∧ i < c.m ∧ j ≤ m.lb / 4 ∧ w = (m.off + (c.u 24 2 + i) * m.lstr) / 4 + j)
  { s' with cmds := s.cmds } = s ∧ ∃ d l, s'.cmd? c.id = some d ∧ d.state = .running ∧ d.bytes = c.bytes ∧ d.outs = none ∧ d.early = some l ∧
    ∀ w x, (w, x) ∈ l ↔ had w x ∨ (2 ^ 20 + w ∈ some_ ∧ (∀ y, ¬ had w y) ∧ x = now w)

/-- The operands of a matrix command suit it (R87, R278, R279, R280): `a`, `b` and `md` are the records of its handles, `nreg` the
registers of a thread and `acc` the entries of the accumulator. -/
def Cmd.MatrixFits (c : Cmd) (t : Team) (acc nreg : Nat) (a b : TileRec) (md : Option TileRec) : Prop :=
  let k0 := c.u 28 2
  let scales := fun (r : TileRec) (lines off : Nat) =>
    let first := c.u (off + 1) 1 % 4
    let regs := c.u (off + 1) 1 / 4 % 8 + 1
    (r.scl ≠ 2 → c.u off 1 = 0 ∧ c.u (off + 1) 1 = 0) ∧
      (r.scl = 2 → lines ≤ 32 ∧ first + (c.k + 31) / 32 ≤ 4 * regs ∧ c.u off 1 + regs ≤ nreg ∧ c.u (off + 1) 1 < 32)
  c.u 17 1 < 16 ∧ 1 ≤ c.m ∧ c.m ≤ 256 ∧ 1 ≤ c.n ∧ c.n ≤ 256 ∧ 1 ≤ c.k ∧ c.k ≤ 4096 ∧ k0 % 32 = 0 ∧ c.n ≤ c.u 40 2 ∧ c.n ≤ c.u 42 2 ∧ c.u 44 4 < 8 ∧
    (c.ctl 1 = true → a.fmt = 8) ∧ (c.ctl 2 = true → b.fmt = 8) ∧ scales a c.m 48 ∧ scales b c.n 50 ∧
    a.fmt ≠ 0x10 ∧ a.sp = (if c.opc = 0x11 then 1 else 0) ∧ c.u 24 2 + c.m ≤ a.nl ∧ k0 + c.k ≤ a.kt ∧
    b.fmt ≠ 0x10 ∧ b.sp = 0 ∧ c.u 26 2 + c.n ≤ b.nl ∧ k0 + c.k ≤ b.kt ∧ (a.fmt = 8 ↔ b.fmt = 8) ∧
    (c.ctl 0 = false → c.u 32 4 + (c.m - 1) * c.u 40 2 + c.n ≤ acc) ∧ c.u 36 4 + (c.m - 1) * c.u 42 2 + c.n ≤ acc ∧
    (c.opc = 0x10 → c.hm = 0 ∧ md = none) ∧
    (c.opc = 0x11 → c.k % 4 = 0 ∧ ∃ m, md = some m ∧ m.fmt = 0x10 ∧ c.u 24 2 + c.m ≤ m.nl ∧ k0 + c.k ≤ m.kt ∧
      ∀ i j, i < c.m → j < c.k / 4 → let nib := metaNibble t.opbuf m (c.u 24 2 + i) (k0 / 4 + j); nib % 4 < nib / 4)

/-! ## Maintenance and attention (R291 to R306) -/

/-- A maintenance command holds its block: it claimed it before, or claims it now, finding LK 0 and writing 1 (R291); then it has read the
envelope. `s2` is the device then and `t0` the time of the claim. -/
def State.HoldsBlock (s : State) (c : Cmd) (t : Team) (s2 : State) (e : Envelope) (t0 : Nat) : Prop :=
  let blk := c.addr 24
  ∃ s1, ((c.claimed = true ∧ s1 = s ∧ t0 = c.tc) ∨
      (c.claimed = false ∧ blk % 128 = 0 ∧ ∃ m w, s.seqWords c t (blk + 4) 24 1 = .ok (m, [w]) ∧ w.toNat < 2 ^ 24 ∧
        m.seqPut c t (blk + 4) 24 [w + 0x01000000] = .ok (s1, t0))) ∧
    (s1.modCmd c.id fun x => { x with claimed := true, tc := max x.tc t0 }).readEnv c t blk 24 c.geom = .ok (s2, e)

/-- Its closing write is prepared: VER and N of word 0 and the count are known, and nothing but the command differs from `m`. -/
def State.Prepared (m s' : State) (c : Cmd) (ver n tc : Nat) : Prop :=
  { s' with cmds := m.cmds } = m ∧ ∃ d, s'.cmd? c.id = some d ∧ d.state = .running ∧ d.claimed = true ∧ d.consumed = true ∧ d.count = n ∧
    d.bytes = c.bytes ∧ d.tc = tc ∧ d.scales = [(0, BitVec.ofNat 32 (ver % 65536 + 65536 * n))]

/-- It lets go of its block: LK is written 0, and its body ends with a code and a count. -/
def State.LetsGo (m s' : State) (c : Cmd) (t : Team) (code count : Nat) : Prop :=
  ∃ m1 w m2 time, m.seqWords c t (c.addr 24 + 4) 24 1 = .ok (m1, [w]) ∧ m1.seqPut c t (c.addr 24 + 4) 24 [w &&& 0x00FFFFFF] = .ok (m2, time) ∧
    s'.CmdIs c code 0 count ∧ { s' with cmds := m2.cmds } = m2

/-- The writes of a command that rewrites a block, before its closing write (R292): VER odd, the key rows, the value rows, the envelope. -/
def State.Rewrites (s m : State) (c : Cmd) (t : Team) (e e' : Envelope) (keys values : List (List Nat)) (tc : Nat) : Prop :=
  let blk := c.addr 24
  ∃ s1 t0 s2 t1 s3 t2, s.verOdd c t blk e = .ok (s1, t0) ∧ s1.putRows c t blk 24 c.geom true keys t0 = .ok (s2, t1) ∧
    s2.putRows c t blk 24 c.geom false values t1 = .ok (s3, t2) ∧ s3.putEnv c t blk 24 e' t2 = .ok (m, tc)

/-- The bounds of R288 hold a list of keys tightly: in each channel the greatest BF16 number not above any key and the least not below any, and
for each pair the least radius that no key passes; a NaN element opens its channel and its pair. -/
def Envelope.Bounds (e : Envelope) (d : Nat) (keys : List (List Val)) : Prop :=
  let at_ := fun (k : List Val) (c : Nat) => k.getD c .nan
  e.lo.length = d ∧ e.hi.length = d ∧ e.rho.length = d / 2 ∧
    (∀ c, c < d → (∀ k ∈ keys, (at_ k c).num ≠ none) →
      GreatestBelow bf16.dec (2 ^ 16) (fun y => ∀ k ∈ keys, ∀ x, (at_ k c).num = some x → y ≤ x) (e.lo.getD c 0) ∧
      LeastAbove bf16.dec (2 ^ 16) (fun y => ∀ k ∈ keys, ∀ x, (at_ k c).num = some x → x ≤ y) (e.hi.getD c 0)) ∧
    (∀ j, j < d / 2 → (∀ k ∈ keys, (at_ k (2 * j)).num ≠ none ∧ (at_ k (2 * j + 1)).num ≠ none) →
      LeastAbove bf16.dec (2 ^ 16) (fun r => 0 ≤ r ∧ ∀ k ∈ keys, ∀ x y, (at_ k (2 * j)).num = some x → (at_ k (2 * j + 1)).num = some y →
        x * x + y * y ≤ r * r) (e.rho.getD j 0)) ∧
    (∀ c, c < d → (∃ k ∈ keys, at_ k c = .nan) → e.lo.getD c 0 = 0xFF80 ∧ e.hi.getD c 0 = 0x7F80) ∧
    ∀ j, j < d / 2 → (∃ k ∈ keys, at_ k (2 * j) = .nan ∨ at_ k (2 * j + 1) = .nan) → e.rho.getD j 0 = 0x7F80

/-- A query's m, l and o after a block (R300), from `m0`, `l0` and `o0`: `score` and `v` are the block's scores and FP32 values, `len` its keys. -/
def QueryVisit (len : Nat) (score : Nat → Word) (v : Nat → Nat → Word) (m0 l0 : Word) (o0 : Nat → Word) (m l : Word) (o : Nat → Word) : Prop :=
  let mul := fun (x y : Word) => encF32 ((decF32 x).mul (decF32 y))
  let minus := fun (x y : Word) => encF32 ((decF32 x).sub .rne (decF32 y))
  ∃ (top sum : Nat → Word) (out : Nat → Nat → Word), top 0 = m0 ∧ m = top len ∧ l = sum len ∧ (∀ ch, o ch = out len ch) ∧
    (∀ i, i < len → top (i + 1) = encF32 ((decF32 (top i)).max (decF32 (score i)))) ∧
    (let a := if (decF32 m0).cmp (decF32 m) = some .eq then 0x3F800000 else expn (minus m0 m)
     sum 0 = mul l0 a ∧ ∀ ch, out 0 ch = mul (o0 ch) a) ∧
    ∀ i, i < len →
      let w := expn (minus (score i) m)
      sum (i + 1) = encF32 ((decF32 (sum i)).add .rne (decF32 w)) ∧
        ∀ ch, out (i + 1) ch = encF32 ((decF32 (out i ch)).add .rne ((decF32 w).mul (decF32 (v i ch))))

/-- ATTN's outputs, and then its cursor, are written (R301). -/
def State.Finishes (s m : State) (c : Cmd) (t : Team) (st : AttnState) : Prop :=
  c.addr 56 % 64 = 0 ∧ ∃ s1 w w', s.seqPut c t (c.addr 56 + c.outAt) 56 (outputs c.obf st) = .ok (s1, w) ∧
    (s1.modCmd c.id fun x => { x with tc := max x.tc w }).putCursor c t { st with phase := 4 } = .ok (m, w')

/-- ATTN goes on with a state of its own, and nothing but the command differs from `m`. -/
def State.AttnIs (m s' : State) (c : Cmd) (st : AttnState) : Prop :=
  { s' with cmds := m.cmds } = m ∧ ∃ d, s'.cmd? c.id = some d ∧ d.attn = some st ∧ d.state = .running ∧ d.bytes = c.bytes

/-! ## Collective programs (R315 to R322) -/

/-- A program stands at a step of operation `op`, whose bytes and whose arguments the engine has read; `s1` is the device then. -/
def State.AtStep (s : State) (c : Cmd) (t : Team) (st : CollState) (op : Nat) (s1 : State) (b : StepBytes) (args : List Byte) : Prop :=
  s.startable c.id = some (c, t) ∧ c.opc = 0x30 ∧ c.state = .running ∧ c.coll = some st ∧ st.ending = none ∧ st.wait ≠ .start ∧
    st.step < c.nstep ∧
    StepBytes.bad b c.chunk = false ∧ StepBytes.op b = op ∧
    ∃ m, s.collRead c t (c.addr 16 + 16 * st.step) 16 16 16 = .ok (m, b) ∧ m.collRead c t (c.addr 40) 64 64 40 = .ok (s1, args)

/-- The program goes on with the state `st`, and nothing but the command differs from `m`. -/
def State.StepLeaves (m s' : State) (c : Cmd) (st : CollState) : Prop :=
  { s' with cmds := m.cmds } = m ∧ ∃ d, s'.cmd? c.id = some d ∧ d.coll = some st ∧ d.state = .running ∧ d.bytes = c.bytes

/-- The rank that a peer register names, or none (R317). -/
def CollState.Names (st : CollState) (c : Cmd) (q : Nat) (r : Nat) : Prop := st.q.getD q 0 = r ∧ r < c.size

/-- The buffer of a step (R318): argument B displaced by the index source X, in chunks, and by OFF. -/
def CollState.bufferAt (st : CollState) (c : Cmd) (args : List Byte) (b : StepBytes) (arg src : Nat) : Nat :=
  (((fieldLe args (8 * arg) 8 % 2 ^ 56 : Nat) + (st.source c.rank src * c.chunk : Nat) + StepBytes.off b : Int) % (2 ^ 56 : Nat)).toNat

/-! ## The management ring and the audit log (R349, R352) -/

/-- The ring waits for no STEP: none is under way, or the team of the one that is was saved (R377; log entry 91). -/
def State.RingFree (s : State) : Prop :=
  ∀ a r p, s.dev.stepping = some (a, r, p) → ∃ t, s.team? a = some t ∧ t.standing ≠ .resident

/-- The management command with this code and these operands may be performed now: the device runs and is reached by its host, the command
stands at the head, and no other that takes several steps is under way. -/
def State.AtHead (s : State) (key : List Nat) : Prop :=
  s.dev.phase = .running ∧ s.dev.hosted = true ∧ s.dev.mhead ≠ s.dev.mtail ∧ s.RingFree ∧ s.headCode = key.headD 0 ∧
    ∀ m, s.dev.mark = some m → m.1 = key

/-- A start has failed, and a command with this code stands at the head (R401). -/
def State.FailedHead (s : State) (code : Nat) : Prop :=
  s.dev.phase = .failed ∧ s.dev.mhead ≠ s.dev.mtail ∧ s.RingFree ∧ s.headCode = code ∧ s.dev.mark = none

/-- It has been performed: the head count is one higher, the reply's 16 bytes, at the address that bytes 8 to 15 of the command give, begin
with the code, and no byte of host memory beyond the reply and the `more` bytes after it differs. -/
def State.Answers (s s' : State) (code more : Nat) : Prop :=
  let addr := s.replyTo
  s'.dev.mhead = s.dev.mhead + 1 ∧ s'.dev.mark = none ∧ cget s'.hostMem addr = BitVec.ofNat 8 code ∧
    cget s'.hostMem (addr + 1) = BitVec.ofNat 8 (code / 256) ∧ ∀ i, i < addr ∨ addr + 16 + more ≤ i → cget s'.hostMem i = cget s.hostMem i

/-- The command is answered at once with a code, and nothing else of the device differs. -/
def State.OnlyAnswers (s s' : State) (code : Nat) : Prop :=
  s.Answers s' code 0 ∧ { s' with hostMem := s.hostMem, dev := { s'.dev with mhead := s.dev.mhead, mark := s.dev.mark } } = s

/-- The device ring, where there is one, can be asked how far it has been read (R386). -/
def State.RingReads (s : State) : Prop := ∀ q, s.dev.ring = some q → s.poisoned ((List.range 8).map (q.consw + ·)) = false

/-- Nothing but the marks from which watchdogs count is different (R365, R376). -/
def State.MarksOnly (s m : State) : Prop :=
  { m with teams := s.teams } = s ∧ ∀ j, match s.team? j with
    | none => m.team? j = none
    | some t => ∃ t', m.team? j = some t' ∧ { t' with threads := t.threads, frames := t.frames } = t ∧
      List.Forall₂ (fun f f' : Frame => { f' with bars := f.bars } = f ∧
        List.Forall₂ (fun b b' : Barrier => { b' with since := b.since } = b) f.bars f'.bars) t.frames t'.frames ∧
      ∀ r, match t.thread? r with
        | none => t'.thread? r = none
        | some h => ∃ clock, t'.thread? r = some { h with parkClock := clock }

/-- The audit log has taken the entries of these types and contexts, in order, at the time of bridge die 0. -/
def State.Logs (s s' : State) (types : List (Nat × Nat)) : Prop :=
  s'.dev.audit.seq = s.dev.audit.seq + types.length ∧ ∀ i, i < types.length →
    ∃ e ∈ s'.dev.audit.entries, e.seq = s.dev.audit.seq + i ∧ (e.type, e.ctx) = types.getD i (0, 0) ∧ e.gtime = s.gtime bridge0

/-! ## Memory -/

/-- The device's and the host's memory are in their one canonical form. -/
def State.MemoriesOk (s : State) : Prop := Memory.wf s.mem = true ∧ Memory.wf s.hostMem = true

end Sys2Proof.Machine
end

