-- ==== Sys2Proof/Certificates/Slice0/Obligations.lean ====
section
/-!
DEFINITION. Obligations.lean: the statements for the provers. Each is a rule of the manual, or a promise that it makes about the whole
machine, in the terms of Safety.lean.
-/

open Sys2Proof Sys2Proof.Machine

/-- For every well-formed instruction that has a word, with every operand at every value that its encoding admits, its encoding is one word, or a word and its literal, and decoding them gives the instruction back; decoding its bytes in front of any others gives the instruction and leaves the others (R162, R163, R164, R168) -/
def Obligations.EncodeDecode : Prop :=
  ∀ i : Instr, i.wf = true → i.isWord = true →
    ((∃ w, encode i = [w] ∧ decodeWord w none = .ok i) ∨ ∃ w l, encode i = [w, l] ∧ decodeWord w (some l) = .ok i) ∧
    ∀ rest : List Byte, decode (encodeBytes i ++ rest) = .ok (i, rest)

/-- Whatever word decodes, with a literal after it or without one, decodes to a well-formed instruction whose encoding is that word and that literal: no two words have one meaning, and every field that must be 0 is checked (R162, R163, R164, R214, R235, R259) -/
def Obligations.DecodeEncode : Prop :=
  ∀ (w : Word) (lit : Option Word) (i : Instr), decodeWord w lit = .ok i →
    i.wf = true ∧ i.isWord = true ∧ encode i = w :: lit.toList

/-- In majors 0x00 to 0x0F the decoder refuses every encoding that R214 calls illegal: the reserved function and compare values, a field listed as 0 that is not 0, and an escape with no literal behind it (R214) -/
def Obligations.ReservedEncodings : Prop :=
  ∀ (w : Word) (lit : Option Word),
    let m := w.toNat / 2 ^ 25 % 64
    let g := w.toNat / 2 ^ 22 % 8
    let fn := w.toNat % 16
    let vb := w.toNat / 2 ^ 4 % 64
    let va := w.toNat / 2 ^ 10 % 64
    let vd := w.toNat / 2 ^ 16 % 64
    ((m = 0x01 ∧ 10 ≤ fn) ∨ (m = 0x02 ∧ fn = 7) ∨ (m = 0x09 ∧ (4 ≤ w.toNat % 8 ∨ 7 ≤ w.toNat / 8 % 16)) ∨ (m = 0x0A ∧ 11 ≤ fn) ∨
      (m = 0x0E ∧ 4 ≤ g) ∨ (m = 0x0F ∧ g = 7) ∨
      (m = 0x01 ∧ fn = 4 ∧ vb ≠ 0) ∨ (m = 0x02 ∧ 3 ≤ fn ∧ fn ≤ 6 ∧ vb ≠ 0) ∨
      (m = 0x0A ∧ fn ∈ [0, 1, 6, 7, 9, 10] ∧ vb ≠ 0) ∨ (m = 0x0A ∧ 2 ≤ fn ∧ fn ≤ 5 ∧ (8 ≤ vd ∨ 8 ≤ va ∨ 8 ≤ vb)) ∨
      (m = 0x0A ∧ fn = 6 ∧ 8 ≤ va) ∨ (m = 0x0A ∧ fn = 7 ∧ 8 ≤ vd) ∨ (m = 0x0B ∧ va ≠ 0) ∨ (m = 0x0E ∧ w.toNat % 256 ≠ 0) ∨
      (m = 0x0F ∧ g = 0 ∧ w.toNat / 2 ^ 6 % 256 ≠ 0) ∨ (m = 0x0F ∧ 1 ≤ g ∧ 8 ≤ w.toNat / 2 ^ 14 % 256) ∨
      (((4 ≤ m ∧ m ≤ 8) ∨ m = 0x0B) ∧ w.toNat % 1024 = 0x200 ∧ lit = none) ∨
      ((m = 0x0D ∨ m = 0x0F) ∧ w.toNat % 64 = 0x20 ∧ lit = none)) →
    ∃ e, decodeWord w lit = .error e

/-- A word of each of several families, put together from the fields of its encoding, decodes to the instruction that it stands for, with its literal where it takes one; a word of an unassigned major does not decode (R162, R163, R168) -/
def Obligations.SampleWords : Prop :=
  decodeWord 0x01C10830 none = .ok (.iadd 0 7 1 2 3) ∧
    decodeWord 0x08C40A00 (some 0xDEADBEEF) = .ok (.iaddImm 0 3 4 2 0x200 0xDEADBEEF) ∧
    decodeWord 0x14410C55 none = .ok (.pandn 0 1 1 3 5) ∧
    decodeWord 0x98320461 none = .ok (.uadd 1 200 17 33) ∧
    decodeWord 0xA1FFFBD0 none = .ok (.faddF32 1 7 63 62 61) ∧
    decodeWord 0x38084180 none = .ok (.xadd 0 0 8 16 24) ∧
    decodeWord 0x45C51BFF none = .ok (.ld32 0 7 5 6 0x3FF 0) ∧
    decodeWord 0x548928B9 none = .ok (.atomCas 0 2 9 10 11) ∧
    decodeWord 0xDB8C37FA none = .ok (.pollMask 1 6 12 13 254) ∧
    decodeWord 0x6B4800FF none = .ok (.waitc 5 1 255) ∧
    decodeWord 0x713FFFFF none = .ok (.bra 4 1 0x1FFFFF) ∧
    decodeWord 0x74424220 (some 0xFFFF) = .ok (.tcall 9 8 1 0xFFFF) ∧
    decodeWord 0x7C1F000D none = .ok (.mfsrV 0 31 13) ∧
    ∃ e, decodeWord 0x6E000000 none = .error e

/-- With nothing on the agenda, the course whose turn it is goes on with its bundle, or issues a packet, and where the current slot decodes to i the step is exec of i there, followed by what comes after a word; the first word of a chained pair leaves the turn to its course. A step of the agenda that is an event lets its clocks pass and what it names come from outside, and is exec of that event. That one slot is a step, and the agenda, are the model’s choice (log entry 2), and so is the order in which the courses come to their issue (log entry 17) (R160, R162) -/
def Obligations.StepRuns : Prop :=
  ∀ (s : State) (i : Instr),
    (∀ (m : State) (b : Bundle) (c : Nat × Nat × Nat) (k : Nat), s.agenda = [] → s.nextCourse = some (c, k) →
      m = (if (s.turnTo c).bundle.isSome then s.turnTo c else (s.turnTo c).packetIssue c.1 c.2.1 c.2.2) → m.bundle = some b →
      decodeWord (slotWord b.words b.slot) (slotLit b.words b.slot) = .ok i →
      step s = match exec i (({ m with place := if (slotWord b.words b.slot).getLsbD 31 then k else k + 1 }).slotBegins b) with
        | .next t => .next t.advance
        | .fault f => .fault f
        | .refused r => .refused r) ∧
    (∀ a rest, s.agenda = a :: rest → a.what = some i → i.isWord = false →
      let s1 := a.outside.foldl State.befalls (({ s with agenda := rest }).pass a.clocks)
      step s = exec i (match a.swap with
        | some k => s1.swapTo k
        | none => s1))

/-- Whatever the instruction and the state, exec answers a next state: no fault and no refusal ends an instruction. That an event whose conditions do not hold answers a next state, the state itself, is the model’s choice (log entry 3) (R1, R162) -/
def Obligations.NothingIsRefused : Prop :=
  ∀ (i : Instr) (s : State), ∃ t, exec i s = .next t

/-- At reset the measurement registers are zero, no memory lists a byte, so that every byte reads 0, both memories are in canonical form, no context, launch, team, access or command exists, and the start has not run. The rules give the start of R345 alone: that every register and record holds 0 or nothing before power comes is the model’s choice (log entry 1), and so is what a byte of HBM (log entry 5) and of host memory (log entry 6) that nothing has written reads as (R345, R346) -/
def Obligations.ResetState : Prop :=
  State.reset.MemoriesOk ∧ State.reset.dev.meas = List.replicate 8 0 ∧ (∀ a, cget State.reset.mem a = 0 ∧ cget State.reset.hostMem a = 0) ∧
    State.reset.dev.phase = .off ∧ State.reset.contexts = [] ∧ State.reset.launches = [] ∧ State.reset.teams = [] ∧ State.reset.ops = [] ∧
    State.reset.cmds = [] ∧ State.reset.bundle = none

/-- For every state whose device and host memory are in canonical form (rising addresses, no entry equal to what an unlisted address reads as), the state after any step has them so (R5, R98) -/
def Obligations.MemoriesStayCanonical : Prop :=
  ∀ s t : State, s.MemoriesOk → step s = .next t → t.MemoriesOk

/-- Whatever the state, an instruction that is no start and no FWLOAD leaves every measurement register as it was: no program, no access, no engine and no other management command changes one (R346) -/
def Obligations.MeasurementsStay : Prop :=
  ∀ (i : Instr) (s t : State), (∀ r, i ≠ .powerOn r ∧ i ≠ .coldReset r ∧ i ≠ .warmReset r) → (∀ reply rs d ok, i ≠ .fwload reply rs d ok) →
    exec i s = .next t → t.dev.meas = s.dev.meas

/-- Every instruction of major 0x00 has the encoding and the effect of R204 in each thread of the bundle whose guard is 1, and changes nothing else: no register but its destination, no predicate, no memory, no other thread or team (R204) -/
def Obligations.IntegerArithmetic : Prop :=
  ∀ (c : BitVec 1) (g : BitVec 3) (d a b : BitVec 6),
    (encode (.iadd c g d a b) = [formV3 0x00 c g d a b 0] ∧ Yields (.iadd c g d a b) g d.toNat fun w => w.rd a.toNat + w.rd b.toNat) ∧
    (encode (.isub c g d a b) = [formV3 0x00 c g d a b 1] ∧ Yields (.isub c g d a b) g d.toNat fun w => w.rd a.toNat - w.rd b.toNat) ∧
    (encode (.imul c g d a b) = [formV3 0x00 c g d a b 2] ∧ Yields (.imul c g d a b) g d.toNat fun w => w.rd a.toNat * w.rd b.toNat) ∧
    (encode (.imulhiI32 c g d a b) = [formV3 0x00 c g d a b 3] ∧ Yields (.imulhiI32 c g d a b) g d.toNat fun w => BitVec.ofInt 32 ((w.rd a.toNat).toInt * (w.rd b.toNat).toInt / 2 ^ 32)) ∧
    (encode (.imulhiN32 c g d a b) = [formV3 0x00 c g d a b 4] ∧ Yields (.imulhiN32 c g d a b) g d.toNat fun w => BitVec.ofNat 32 ((w.rd a.toNat).toNat * (w.rd b.toNat).toNat / 2 ^ 32)) ∧
    (encode (.iminI32 c g d a b) = [formV3 0x00 c g d a b 5] ∧ Yields (.iminI32 c g d a b) g d.toNat fun w => if (w.rd a.toNat).toInt ≤ (w.rd b.toNat).toInt then w.rd a.toNat else w.rd b.toNat) ∧
    (encode (.iminN32 c g d a b) = [formV3 0x00 c g d a b 6] ∧ Yields (.iminN32 c g d a b) g d.toNat fun w => if (w.rd a.toNat).toNat ≤ (w.rd b.toNat).toNat then w.rd a.toNat else w.rd b.toNat) ∧
    (encode (.imaxI32 c g d a b) = [formV3 0x00 c g d a b 7] ∧ Yields (.imaxI32 c g d a b) g d.toNat fun w => if (w.rd a.toNat).toInt ≤ (w.rd b.toNat).toInt then w.rd b.toNat else w.rd a.toNat) ∧
    (encode (.imaxN32 c g d a b) = [formV3 0x00 c g d a b 8] ∧ Yields (.imaxN32 c g d a b) g d.toNat fun w => if (w.rd a.toNat).toNat ≤ (w.rd b.toNat).toNat then w.rd b.toNat else w.rd a.toNat) ∧
    (encode (.iaddSatI32 c g d a b) = [formV3 0x00 c g d a b 9] ∧ Yields (.iaddSatI32 c g d a b) g d.toNat fun w => BitVec.ofInt 32 (max (-2 ^ 31) (min ((w.rd a.toNat).toInt + (w.rd b.toNat).toInt) (2 ^ 31 - 1)))) ∧
    (encode (.iaddSatN32 c g d a b) = [formV3 0x00 c g d a b 10] ∧ Yields (.iaddSatN32 c g d a b) g d.toNat fun w => BitVec.ofInt 32 (max 0 (min (((w.rd a.toNat).toNat : Int) + (w.rd b.toNat).toNat) (2 ^ 32 - 1)))) ∧
    (encode (.isubSatI32 c g d a b) = [formV3 0x00 c g d a b 11] ∧ Yields (.isubSatI32 c g d a b) g d.toNat fun w => BitVec.ofInt 32 (max (-2 ^ 31) (min ((w.rd a.toNat).toInt - (w.rd b.toNat).toInt) (2 ^ 31 - 1)))) ∧
    (encode (.isubSatN32 c g d a b) = [formV3 0x00 c g d a b 12] ∧ Yields (.isubSatN32 c g d a b) g d.toNat fun w => BitVec.ofInt 32 (max 0 (min (((w.rd a.toNat).toNat : Int) - (w.rd b.toNat).toNat) (2 ^ 32 - 1)))) ∧
    (encode (.iaddI64 c g d a b) = [formV3 0x00 c g d a b 13] ∧ YieldsPair (.iaddI64 c g d a b) g d.toNat fun w => w.pair a.toNat + w.pair b.toNat) ∧
    (encode (.isubI64 c g d a b) = [formV3 0x00 c g d a b 14] ∧ YieldsPair (.isubI64 c g d a b) g d.toNat fun w => w.pair a.toNat - w.pair b.toNat) ∧
    (encode (.imad c g d a b) = [formV3 0x00 c g d a b 15] ∧ Yields (.imad c g d a b) g d.toNat fun w => w.rd d.toNat + w.rd a.toNat * w.rd b.toNat)

/-- Every instruction of major 0x01 has the encoding and the effect of R205, bit by bit for the logic and the rotations, in each executing thread, and changes nothing else; a shift count of 32 or more gives 0, and sar counts at most 31 (R205) -/
def Obligations.LogicAndShifts : Prop :=
  ∀ (c : BitVec 1) (g : BitVec 3) (d a b : BitVec 6),
    (encode (.and c g d a b) = [formV3 0x01 c g d a b 0] ∧ YieldsSuch (.and c g d a b) g d.toNat fun w x => ∀ i, i < 32 → x.getLsbD i = ((w.rd a.toNat).getLsbD i && (w.rd b.toNat).getLsbD i)) ∧
    (encode (.or c g d a b) = [formV3 0x01 c g d a b 1] ∧ YieldsSuch (.or c g d a b) g d.toNat fun w x => ∀ i, i < 32 → x.getLsbD i = ((w.rd a.toNat).getLsbD i || (w.rd b.toNat).getLsbD i)) ∧
    (encode (.xor c g d a b) = [formV3 0x01 c g d a b 2] ∧ YieldsSuch (.xor c g d a b) g d.toNat fun w x => ∀ i, i < 32 → x.getLsbD i = ((w.rd a.toNat).getLsbD i != (w.rd b.toNat).getLsbD i)) ∧
    (encode (.andn c g d a b) = [formV3 0x01 c g d a b 3] ∧ YieldsSuch (.andn c g d a b) g d.toNat fun w x => ∀ i, i < 32 → x.getLsbD i = ((w.rd a.toNat).getLsbD i && !(w.rd b.toNat).getLsbD i)) ∧
    (encode (.not c g d a) = [formV3 0x01 c g d a 0 4] ∧ YieldsSuch (.not c g d a) g d.toNat fun w x => ∀ i, i < 32 → x.getLsbD i = !(w.rd a.toNat).getLsbD i) ∧
    (encode (.shl c g d a b) = [formV3 0x01 c g d a b 5] ∧ Yields (.shl c g d a b) g d.toNat fun w => if (w.rd b.toNat).toNat < 32 then BitVec.ofNat 32 ((w.rd a.toNat).toNat * 2 ^ (w.rd b.toNat).toNat) else 0) ∧
    (encode (.shr c g d a b) = [formV3 0x01 c g d a b 6] ∧ Yields (.shr c g d a b) g d.toNat fun w => if (w.rd b.toNat).toNat < 32 then BitVec.ofNat 32 ((w.rd a.toNat).toNat / 2 ^ (w.rd b.toNat).toNat) else 0) ∧
    (encode (.sar c g d a b) = [formV3 0x01 c g d a b 7] ∧ Yields (.sar c g d a b) g d.toNat fun w => BitVec.ofInt 32 ((w.rd a.toNat).toInt / 2 ^ (min (w.rd b.toNat).toNat 31))) ∧
    (encode (.rotl c g d a b) = [formV3 0x01 c g d a b 8] ∧ YieldsSuch (.rotl c g d a b) g d.toNat fun w x => ∀ i, i < 32 → x.getLsbD ((i + (w.rd b.toNat).toNat) % 32) = (w.rd a.toNat).getLsbD i) ∧
    (encode (.rotr c g d a b) = [formV3 0x01 c g d a b 9] ∧ YieldsSuch (.rotr c g d a b) g d.toNat fun w x => ∀ i, i < 32 → x.getLsbD i = (w.rd a.toNat).getLsbD ((i + (w.rd b.toNat).toNat) % 32))

/-- Every instruction of major 0x02 has the encoding and the effect of R206, bit by bit: fields at pos and len of the control word, bits beyond the register read as 0 and dropped, counts of bits and zeros, bit reversal and the choice by a predicate; nothing else changes (R206) -/
def Obligations.BitFields : Prop :=
  ∀ (c : BitVec 1) (g : BitVec 3) (d a b : BitVec 6),
    (encode (.bitgetN32 c g d a b) = [formV3 0x02 c g d a b 0] ∧ YieldsSuch (.bitgetN32 c g d a b) g d.toNat fun w x => ∀ i, i < 32 → x.getLsbD i = (decide (i < fieldLenOf (w.rd b.toNat)) && (w.rd a.toNat).getLsbD (fieldPosOf (w.rd b.toNat) + i))) ∧
    (encode (.bitgetI32 c g d a b) = [formV3 0x02 c g d a b 1] ∧ YieldsSuch (.bitgetI32 c g d a b) g d.toNat fun w x => ∀ i, i < 32 → x.getLsbD i = (decide (0 < fieldLenOf (w.rd b.toNat)) && (w.rd a.toNat).getLsbD (fieldPosOf (w.rd b.toNat) + min i (fieldLenOf (w.rd b.toNat) - 1)))) ∧
    (encode (.bitins c g d a b) = [formV3 0x02 c g d a b 2] ∧ YieldsSuch (.bitins c g d a b) g d.toNat fun w x => ∀ i, i < 32 → x.getLsbD i = if fieldPosOf (w.rd b.toNat) ≤ i ∧ i < fieldPosOf (w.rd b.toNat) + fieldLenOf (w.rd b.toNat) then (w.rd a.toNat).getLsbD (i - fieldPosOf (w.rd b.toNat)) else (w.rd d.toNat).getLsbD i) ∧
    (encode (.popc c g d a) = [formV3 0x02 c g d a 0 3] ∧ YieldsSuch (.popc c g d a) g d.toNat fun w x => x.toNat = ((List.range 32).filter (w.rd a.toNat).getLsbD).length) ∧
    (encode (.clz c g d a) = [formV3 0x02 c g d a 0 4] ∧ YieldsSuch (.clz c g d a) g d.toNat fun w x => x.toNat ≤ 32 ∧ (∀ i, 32 - x.toNat ≤ i → i < 32 → (w.rd a.toNat).getLsbD i = false) ∧ (x.toNat < 32 → (w.rd a.toNat).getLsbD (31 - x.toNat) = true)) ∧
    (encode (.ctz c g d a) = [formV3 0x02 c g d a 0 5] ∧ YieldsSuch (.ctz c g d a) g d.toNat fun w x => x.toNat ≤ 32 ∧ (∀ i, i < x.toNat → (w.rd a.toNat).getLsbD i = false) ∧ (x.toNat < 32 → (w.rd a.toNat).getLsbD x.toNat = true)) ∧
    (encode (.brev c g d a) = [formV3 0x02 c g d a 0 6] ∧ YieldsSuch (.brev c g d a) g d.toNat fun w x => ∀ i, i < 32 → x.getLsbD i = (w.rd a.toNat).getLsbD (31 - i)) ∧
    (∀ q : BitVec 3, encode (.sel c g d a b q) = [formV3 0x02 c g d a b (8 + q.toNat)] ∧ Yields (.sel c g d a b q) g d.toNat fun w => if w.pred q.toNat = true then w.rd a.toNat else w.rd b.toNat)

/-- The forms with a uniform register, a signed 10-bit immediate or the literal behind the escape 0x200 have the encoding and the effect of R207, the shift by a signed count included; nothing else changes (R207) -/
def Obligations.ImmediateForms : Prop :=
  ∀ (c : BitVec 1) (g : BitVec 3) (d a : BitVec 6) (u : BitVec 8) (i : BitVec 10) (lit : Word),
    (encode (.iaddUniform c g d a u) = [formVS 0x03 c g d a u 0] ∧ Yields (.iaddUniform c g d a u) g d.toNat fun w => w.rd a.toNat + w.u u.toNat) ∧
    (encode (.isubUniform c g d a u) = [formVS 0x03 c g d a u 1] ∧ Yields (.isubUniform c g d a u) g d.toNat fun w => w.rd a.toNat - w.u u.toNat) ∧
    (encode (.imulUniform c g d a u) = [formVS 0x03 c g d a u 2] ∧ Yields (.imulUniform c g d a u) g d.toNat fun w => w.rd a.toNat * w.u u.toNat) ∧
    (encode (.andUniform c g d a u) = [formVS 0x03 c g d a u 3] ∧ Yields (.andUniform c g d a u) g d.toNat fun w => w.rd a.toNat &&& w.u u.toNat) ∧
    (encode (.iaddImm c g d a i lit) = formVI 0x04 c g d a i :: escaped (i == 0x200#10) lit ∧ Yields (.iaddImm c g d a i lit) g d.toNat fun w => w.rd a.toNat + imm10Of i lit) ∧
    (encode (.andImm c g d a i lit) = formVI 0x05 c g d a i :: escaped (i == 0x200#10) lit ∧ Yields (.andImm c g d a i lit) g d.toNat fun w => w.rd a.toNat &&& imm10Of i lit) ∧
    (encode (.orImm c g d a i lit) = formVI 0x06 c g d a i :: escaped (i == 0x200#10) lit ∧ Yields (.orImm c g d a i lit) g d.toNat fun w => w.rd a.toNat ||| imm10Of i lit) ∧
    (encode (.xorImm c g d a i lit) = formVI 0x07 c g d a i :: escaped (i == 0x200#10) lit ∧ Yields (.xorImm c g d a i lit) g d.toNat fun w => w.rd a.toNat ^^^ imm10Of i lit) ∧
    (encode (.shlImm c g d a i lit) = formVI 0x08 c g d a i :: escaped (i == 0x200#10) lit ∧ Yields (.shlImm c g d a i lit) g d.toNat fun w =>
      if 0 ≤ (imm10Of i lit).toInt ∧ (imm10Of i lit).toInt < 32 then BitVec.ofNat 32 ((w.rd a.toNat).toNat * 2 ^ (imm10Of i lit).toInt.toNat)
      else if -32 < (imm10Of i lit).toInt ∧ (imm10Of i lit).toInt < 0 then BitVec.ofNat 32 ((w.rd a.toNat).toNat / 2 ^ (-(imm10Of i lit).toInt).toNat) else 0) ∧
    (encode (.movImm c g d i lit) = formVI 0x0B c g d 0 i :: escaped (i == 0x200#10) lit ∧ Yields (.movImm c g d i lit) g d.toNat fun _ => imm10Of i lit)

/-- icmp has the encoding of format P and sets its predicate to the relation of R208 between the operands as its type reads them, 32 or 64 bits, signed or unsigned, or the bit test; a write to p7 is discarded and nothing else changes (R208) -/
def Obligations.IntegerCompare : Prop :=
  ∀ (c : BitVec 1) (g p : BitVec 3) (a b : BitVec 6) (k : BitVec 4) (f : BitVec 3), f.toNat ≤ 3 → k.toNat ≤ 6 →
    encode (.icmp c g p a b k f) = [formP 0x09 c g p a b k f] ∧
    YieldsPred (.icmp c g p a b k f) g p.toNat fun w =>
      let signed := f.toNat % 2 = 0
      let wide := 2 ≤ f.toNat
      let x : Int := if wide then (if signed then (w.pair a.toNat).toInt else (w.pair a.toNat).toNat)
        else if signed then (w.rd a.toNat).toInt else (w.rd a.toNat).toNat
      let y : Int := if wide then (if signed then (w.pair b.toNat).toInt else (w.pair b.toNat).toNat)
        else if signed then (w.rd b.toNat).toInt else (w.rd b.toNat).toNat
      let shared := if wide then w.pair a.toNat &&& w.pair b.toNat ≠ 0 else w.rd a.toNat &&& w.rd b.toNat ≠ 0
      (k = 0 ∧ x = y) ∨ (k = 1 ∧ x ≠ y) ∨ (k = 2 ∧ x < y) ∨ (k = 3 ∧ x ≤ y) ∨ (k = 4 ∧ x > y) ∨ (k = 5 ∧ x ≥ y) ∨ (k = 6 ∧ shared)

/-- The moves, half moves and predicate operations of major 0x0A have the encoding and the effect of R209: a half move keeps the other half of its register, a predicate result of p7 is discarded, and nothing else changes (R209, R61) -/
def Obligations.MovesAndPredicates : Prop :=
  ∀ (c : BitVec 1) (g p q r : BitVec 3) (d a : BitVec 6),
    (encode (.mov c g d a) = [formV3 0x0A c g d a 0 0] ∧ Yields (.mov c g d a) g d.toNat fun w => w.rd a.toNat) ∧
    (encode (.mov64 c g d a) = [formV3 0x0A c g d a 0 1] ∧ YieldsPair (.mov64 c g d a) g d.toNat fun w => w.pair a.toNat) ∧
    (encode (.pand c g p q r) = [formV3 0x0A c g (p.setWidth 6) (q.setWidth 6) (r.setWidth 6) 2] ∧ YieldsPred (.pand c g p q r) g p.toNat fun w => w.pred q.toNat && w.pred r.toNat) ∧
    (encode (.por c g p q r) = [formV3 0x0A c g (p.setWidth 6) (q.setWidth 6) (r.setWidth 6) 3] ∧ YieldsPred (.por c g p q r) g p.toNat fun w => w.pred q.toNat || w.pred r.toNat) ∧
    (encode (.pxor c g p q r) = [formV3 0x0A c g (p.setWidth 6) (q.setWidth 6) (r.setWidth 6) 4] ∧ YieldsPred (.pxor c g p q r) g p.toNat fun w => w.pred q.toNat != w.pred r.toNat) ∧
    (encode (.pandn c g p q r) = [formV3 0x0A c g (p.setWidth 6) (q.setWidth 6) (r.setWidth 6) 5] ∧ YieldsPred (.pandn c g p q r) g p.toNat fun w => w.pred q.toNat && !w.pred r.toNat) ∧
    (encode (.pmov c g d q) = [formV3 0x0A c g d (q.setWidth 6) 0 6] ∧ Yields (.pmov c g d q) g d.toNat fun w => if w.pred q.toNat = true then 1 else 0) ∧
    (encode (.ptst c g p a) = [formV3 0x0A c g (p.setWidth 6) a 0 7] ∧ YieldsPred (.ptst c g p a) g p.toNat fun w => decide (w.rd a.toNat ≠ 0)) ∧
    (encode (.movH0 c g d a) = [formV3 0x0A c g d a 0 9] ∧ PerThread (.movH0 c g d a) g fun w h h' => h.Sets h' d.toNat ((h.rd d.toNat).extractLsb' 16 16 ++ (w.rd a.toNat).extractLsb' 0 16)) ∧
    (encode (.movH1 c g d a) = [formV3 0x0A c g d a 0 10] ∧ PerThread (.movH1 c g d a) g fun w h h' => h.Sets h' d.toNat ((w.rd a.toNat).extractLsb' 0 16 ++ (h.rd d.toNat).extractLsb' 0 16))

/-- rand sets its destination to mix(a, b) computed on 32-bit naturals in two rounds with the constants of R210, reads no state other than its operands, and changes nothing else (R210) -/
def Obligations.RandomWord : Prop :=
  ∀ (c : BitVec 1) (g : BitVec 3) (d a b : BitVec 6),
    encode (.rand c g d a b) = [formV3 0x0A c g d a b 8] ∧
    Yields (.rand c g d a b) g d.toNat fun w => BitVec.ofNat 32 (mixStep 0xC94B70E3 (mixStep 0x6A3D2F15 (w.rd a.toNat).toNat (w.rd b.toNat).toNat) (w.rd b.toNat).toNat)

/-- Every uniform arithmetic instruction, with a uniform register or an immediate as third operand, writes its one uniform register once for the bundle with the value of R211 from the uniform values the bundle reads; every other uniform register of the frame reads as before, and no thread and no memory changes (R211, R28, R45) -/
def Obligations.UniformArithmetic : Prop :=
  ∀ (c : BitVec 1) (d a : BitVec 8) (b i : BitVec 6) (lit : Word),
    (encode (.uadd c d a b) = [formU3 0x0C c 0 d a b] ∧ PerBundle (.uadd c d a b) fun w => [(d.toNat, w.u a.toNat + w.u b.toNat)]) ∧
    (encode (.usub c d a b) = [formU3 0x0C c 1 d a b] ∧ PerBundle (.usub c d a b) fun w => [(d.toNat, w.u a.toNat - w.u b.toNat)]) ∧
    (encode (.umul c d a b) = [formU3 0x0C c 2 d a b] ∧ PerBundle (.umul c d a b) fun w => [(d.toNat, w.u a.toNat * w.u b.toNat)]) ∧
    (encode (.uand c d a b) = [formU3 0x0C c 3 d a b] ∧ PerBundle (.uand c d a b) fun w => [(d.toNat, w.u a.toNat &&& w.u b.toNat)]) ∧
    (encode (.uor c d a b) = [formU3 0x0C c 4 d a b] ∧ PerBundle (.uor c d a b) fun w => [(d.toNat, w.u a.toNat ||| w.u b.toNat)]) ∧
    (encode (.uxor c d a b) = [formU3 0x0C c 5 d a b] ∧ PerBundle (.uxor c d a b) fun w => [(d.toNat, w.u a.toNat ^^^ w.u b.toNat)]) ∧
    (encode (.ushl c d a b) = [formU3 0x0C c 6 d a b] ∧ PerBundle (.ushl c d a b) fun w => [(d.toNat, if (w.u b.toNat).toNat < 32 then BitVec.ofNat 32 ((w.u a.toNat).toNat * 2 ^ (w.u b.toNat).toNat) else 0)]) ∧
    (encode (.ushr c d a b) = [formU3 0x0C c 7 d a b] ∧ PerBundle (.ushr c d a b) fun w => [(d.toNat, if (w.u b.toNat).toNat < 32 then BitVec.ofNat 32 ((w.u a.toNat).toNat / 2 ^ (w.u b.toNat).toNat) else 0)]) ∧
    (encode (.uaddImm c d a i lit) = formUI 0x0D c 0 d a i :: escaped (i == 0x20#6) lit ∧ PerBundle (.uaddImm c d a i lit) fun w => [(d.toNat, w.u a.toNat + imm6ValueOf i lit)]) ∧
    (encode (.usubImm c d a i lit) = formUI 0x0D c 1 d a i :: escaped (i == 0x20#6) lit ∧ PerBundle (.usubImm c d a i lit) fun w => [(d.toNat, w.u a.toNat - imm6ValueOf i lit)]) ∧
    (encode (.umulImm c d a i lit) = formUI 0x0D c 2 d a i :: escaped (i == 0x20#6) lit ∧ PerBundle (.umulImm c d a i lit) fun w => [(d.toNat, w.u a.toNat * imm6ValueOf i lit)]) ∧
    (encode (.uandImm c d a i lit) = formUI 0x0D c 3 d a i :: escaped (i == 0x20#6) lit ∧ PerBundle (.uandImm c d a i lit) fun w => [(d.toNat, w.u a.toNat &&& imm6ValueOf i lit)]) ∧
    (encode (.uorImm c d a i lit) = formUI 0x0D c 4 d a i :: escaped (i == 0x20#6) lit ∧ PerBundle (.uorImm c d a i lit) fun w => [(d.toNat, w.u a.toNat ||| imm6ValueOf i lit)]) ∧
    (encode (.uxorImm c d a i lit) = formUI 0x0D c 5 d a i :: escaped (i == 0x20#6) lit ∧ PerBundle (.uxorImm c d a i lit) fun w => [(d.toNat, w.u a.toNat ^^^ imm6ValueOf i lit)]) ∧
    (encode (.ushlImm c d a i lit) = formUI 0x0D c 6 d a i :: escaped (i == 0x20#6) lit ∧ PerBundle (.ushlImm c d a i lit) fun w => [(d.toNat, if (imm6ValueOf i lit).toNat < 32 then BitVec.ofNat 32 ((w.u a.toNat).toNat * 2 ^ (imm6ValueOf i lit).toNat) else 0)]) ∧
    (encode (.ushrImm c d a i lit) = formUI 0x0D c 7 d a i :: escaped (i == 0x20#6) lit ∧ PerBundle (.ushrImm c d a i lit) fun w => [(d.toNat, if (imm6ValueOf i lit).toNat < 32 then BitVec.ofNat 32 ((w.u a.toNat).toNat / 2 ^ (imm6ValueOf i lit).toNat) else 0)])

/-- A move from the uniform file writes its vector register or pair in every thread of the bundle without a guard; a move to the uniform file takes the register or the even pair of the lowest-ranked thread of the bundle and writes the uniform register or pair once; nothing else changes (R212, R28) -/
def Obligations.UniformMoves : Prop :=
  ∀ (c : BitVec 1) (e : BitVec 6) (u : BitVec 8),
    (encode (.movVFromS c e u) = [formX 0x0E c 0 (e.toNat * 2 ^ 16 + u.toNat * 2 ^ 8)] ∧ Yields (.movVFromS c e u) 7 e.toNat fun w => w.u u.toNat) ∧
    (encode (.movSFromV c u e) = [formX 0x0E c 1 (u.toNat * 2 ^ 14 + e.toNat * 2 ^ 8)] ∧ PerBundle (.movSFromV c u e) fun w => [(u.toNat, w.rd e.toNat)]) ∧
    (encode (.mov64VFromS c e u) = [formX 0x0E c 2 (e.toNat * 2 ^ 16 + u.toNat * 2 ^ 8)] ∧ YieldsPair (.mov64VFromS c e u) 7 e.toNat fun w => pairOf (w.u u.toNat) (w.u (u.toNat + 1))) ∧
    (encode (.mov64SFromV c u e) = [formX 0x0E c 3 (u.toNat * 2 ^ 14 + e.toNat * 2 ^ 8)] ∧ (u.toNat % 2 = 0 → PerBundle (.mov64SFromV c u e) fun w => [(u.toNat, w.rd e.toNat), (u.toNat + 1, w.rd (e.toNat + 1))]))

/-- mov to a uniform register writes the immediate or the literal once for the bundle; a uniform compare writes the relation of R213 between a uniform register and the immediate to its predicate in every thread of the bundle, p7 discarded; nothing else changes (R213, R28) -/
def Obligations.UniformCompare : Prop :=
  ∀ (c : BitVec 1) (p : BitVec 3) (d a : BitVec 8) (i : BitVec 6) (lit : Word),
    (encode (.movUniformImm c d i lit) = formUI 0x0F c 0 d 0 i :: escaped (i == 0x20#6) lit ∧ PerBundle (.movUniformImm c d i lit) fun _ => [(d.toNat, imm6ValueOf i lit)]) ∧
    (∀ k : BitVec 3, 1 ≤ k.toNat → k.toNat ≤ 6 → encode (.ucmp c k p a i lit) = formUI 0x0F c k.toNat (p.setWidth 8) a i :: escaped (i == 0x20#6) lit ∧
      YieldsPred (.ucmp c k p a i lit) 7 p.toNat fun w =>
        let x := w.u a.toNat
        let y := imm6ValueOf i lit
        (k = 1 ∧ x = y) ∨ (k = 2 ∧ x ≠ y) ∨ (k = 3 ∧ x.toInt < y.toInt) ∨ (k = 4 ∧ x.toInt ≥ y.toInt) ∨ (k = 5 ∧ x.toNat < y.toNat) ∨ (k = 6 ∧ x.toNat ≥ y.toNat))

/-- Every FP32 arithmetic instruction has the encoding and the effect of R217 to R219: the exact sum, product or fused value rounded once to nearest even, the minimum and maximum with -0 below +0 and their number-preferring forms bit for bit, the sign operations on bits alone; nothing else changes (R217, R218, R219, R216) -/
def Obligations.SingleArithmetic : Prop :=
  ∀ (c : BitVec 1) (g : BitVec 3) (d a b : BitVec 6) (u : BitVec 8) (i : BitVec 10) (lit : Word),
    (encode (.faddF32 c g d a b) = [formV3 0x10 c g d a b 0] ∧ Yields (.faddF32 c g d a b) g d.toNat fun w => encF32 ((decF32 (w.rd a.toNat)).add .rne (decF32 (w.rd b.toNat)))) ∧
    (encode (.fsubF32 c g d a b) = [formV3 0x10 c g d a b 1] ∧ Yields (.fsubF32 c g d a b) g d.toNat fun w => encF32 ((decF32 (w.rd a.toNat)).add .rne (decF32 (w.rd b.toNat)).neg)) ∧
    (encode (.fmulF32 c g d a b) = [formV3 0x10 c g d a b 2] ∧ Yields (.fmulF32 c g d a b) g d.toNat fun w => encF32 ((decF32 (w.rd a.toNat)).mul (decF32 (w.rd b.toNat)))) ∧
    (encode (.ffmaF32 c g d a b) = [formV3 0x10 c g d a b 3] ∧ Yields (.ffmaF32 c g d a b) g d.toNat fun w => encF32 (((decF32 (w.rd a.toNat)).mul (decF32 (w.rd b.toNat))).add .rne (decF32 (w.rd d.toNat)))) ∧
    (encode (.ffmsF32 c g d a b) = [formV3 0x10 c g d a b 4] ∧ Yields (.ffmsF32 c g d a b) g d.toNat fun w => encF32 (((decF32 (w.rd a.toNat)).mul (decF32 (w.rd b.toNat))).add .rne (decF32 (w.rd d.toNat)).neg)) ∧
    (encode (.fnmaF32 c g d a b) = [formV3 0x10 c g d a b 5] ∧ Yields (.fnmaF32 c g d a b) g d.toNat fun w => encF32 (((decF32 (w.rd a.toNat)).neg.mul (decF32 (w.rd b.toNat))).add .rne (decF32 (w.rd d.toNat)))) ∧
    (encode (.fminF32 c g d a b) = [formV3 0x11 c g d a b 0] ∧ Yields (.fminF32 c g d a b) g d.toNat fun w => if (decF32 (w.rd a.toNat)).isNan = true ∨ (decF32 (w.rd b.toNat)).isNan = true then 0x7FC00000#32 else if (decF32 (w.rd b.toNat)).below (decF32 (w.rd a.toNat)) = true then w.rd b.toNat else w.rd a.toNat) ∧
    (encode (.fmaxF32 c g d a b) = [formV3 0x11 c g d a b 1] ∧ Yields (.fmaxF32 c g d a b) g d.toNat fun w => if (decF32 (w.rd a.toNat)).isNan = true ∨ (decF32 (w.rd b.toNat)).isNan = true then 0x7FC00000#32 else if (decF32 (w.rd a.toNat)).below (decF32 (w.rd b.toNat)) = true then w.rd b.toNat else w.rd a.toNat) ∧
    (encode (.fabsF32 c g d a) = [formV3 0x11 c g d a 0 2] ∧ Yields (.fabsF32 c g d a) g d.toNat fun w => w.rd a.toNat &&& 0x7FFFFFFF) ∧
    (encode (.fnegF32 c g d a) = [formV3 0x11 c g d a 0 3] ∧ Yields (.fnegF32 c g d a) g d.toNat fun w => w.rd a.toNat ^^^ 0x80000000) ∧
    (encode (.fcopysignF32 c g d a b) = [formV3 0x11 c g d a b 4] ∧ Yields (.fcopysignF32 c g d a b) g d.toNat fun w => (w.rd a.toNat &&& 0x7FFFFFFF) ||| (w.rd b.toNat &&& 0x80000000)) ∧
    (encode (.fminNumF32 c g d a b) = [formV3 0x11 c g d a b 5] ∧ Yields (.fminNumF32 c g d a b) g d.toNat fun w => if (decF32 (w.rd a.toNat)).isNan = true ∧ (decF32 (w.rd b.toNat)).isNan = false then w.rd b.toNat else if (decF32 (w.rd a.toNat)).isNan = false ∧ (decF32 (w.rd b.toNat)).isNan = true then w.rd a.toNat else if (decF32 (w.rd a.toNat)).isNan = true ∨ (decF32 (w.rd b.toNat)).isNan = true then 0x7FC00000#32 else if (decF32 (w.rd b.toNat)).below (decF32 (w.rd a.toNat)) = true then w.rd b.toNat else w.rd a.toNat) ∧
    (encode (.fmaxNumF32 c g d a b) = [formV3 0x11 c g d a b 6] ∧ Yields (.fmaxNumF32 c g d a b) g d.toNat fun w => if (decF32 (w.rd a.toNat)).isNan = true ∧ (decF32 (w.rd b.toNat)).isNan = false then w.rd b.toNat else if (decF32 (w.rd a.toNat)).isNan = false ∧ (decF32 (w.rd b.toNat)).isNan = true then w.rd a.toNat else if (decF32 (w.rd a.toNat)).isNan = true ∨ (decF32 (w.rd b.toNat)).isNan = true then 0x7FC00000#32 else if (decF32 (w.rd a.toNat)).below (decF32 (w.rd b.toNat)) = true then w.rd b.toNat else w.rd a.toNat) ∧
    (encode (.faddF32Uniform c g d a u) = [formVS 0x14 c g d a u 0] ∧ Yields (.faddF32Uniform c g d a u) g d.toNat fun w => encF32 ((decF32 (w.rd a.toNat)).add .rne (decF32 (w.u u.toNat)))) ∧
    (encode (.fmulF32Uniform c g d a u) = [formVS 0x14 c g d a u 1] ∧ Yields (.fmulF32Uniform c g d a u) g d.toNat fun w => encF32 ((decF32 (w.rd a.toNat)).mul (decF32 (w.u u.toNat)))) ∧
    (encode (.ffmaF32Uniform c g d a u) = [formVS 0x14 c g d a u 2] ∧ Yields (.ffmaF32Uniform c g d a u) g d.toNat fun w => encF32 (((decF32 (w.rd a.toNat)).mul (decF32 (w.u u.toNat))).add .rne (decF32 (w.rd d.toNat)))) ∧
    (encode (.fsubF32Uniform c g d a u) = [formVS 0x14 c g d a u 3] ∧ Yields (.fsubF32Uniform c g d a u) g d.toNat fun w => encF32 ((decF32 (w.rd a.toNat)).add .rne (decF32 (w.u u.toNat)).neg)) ∧
    (encode (.fmulF32Imm c g d a i lit) = formVI 0x15 c g d a i :: escaped (i == 0x200#10) lit ∧ Yields (.fmulF32Imm c g d a i lit) g d.toNat fun w =>
      encF32 ((decF32 (w.rd a.toNat)).mul (if i = 0x200#10 then decF32 lit else Val.ofInt i.toInt)))

/-- Every packed instruction computes its two halves independently in the format that its encoding names, each with one rounding to nearest even; the dot product adds two exact products to an FP32 register with one rounding; nothing else changes (R220, R221, R216) -/
def Obligations.PackedHalves : Prop :=
  ∀ (c y : BitVec 1) (g : BitVec 3) (d a b : BitVec 6),
    (encode (.faddF16 c y g d a b) = [formV3 (0x12 + y.toNat) c g d a b 0] ∧ YieldsSuch (.faddF16 c y g d a b) g d.toNat fun w x =>
      let f := if y = 0 then fp16 else bf16
      x.extractLsb' 0 16 = BitVec.ofNat 16 (f.enc .rne false ((f.dec ((w.rd a.toNat).extractLsb' 0 16).toNat).add .rne (f.dec ((w.rd b.toNat).extractLsb' 0 16).toNat))) ∧ x.extractLsb' 16 16 = BitVec.ofNat 16 (f.enc .rne false ((f.dec ((w.rd a.toNat).extractLsb' 16 16).toNat).add .rne (f.dec ((w.rd b.toNat).extractLsb' 16 16).toNat)))) ∧
    (encode (.fsubF16 c y g d a b) = [formV3 (0x12 + y.toNat) c g d a b 1] ∧ YieldsSuch (.fsubF16 c y g d a b) g d.toNat fun w x =>
      let f := if y = 0 then fp16 else bf16
      x.extractLsb' 0 16 = BitVec.ofNat 16 (f.enc .rne false ((f.dec ((w.rd a.toNat).extractLsb' 0 16).toNat).add .rne (f.dec ((w.rd b.toNat).extractLsb' 0 16).toNat).neg)) ∧ x.extractLsb' 16 16 = BitVec.ofNat 16 (f.enc .rne false ((f.dec ((w.rd a.toNat).extractLsb' 16 16).toNat).add .rne (f.dec ((w.rd b.toNat).extractLsb' 16 16).toNat).neg))) ∧
    (encode (.fmulF16 c y g d a b) = [formV3 (0x12 + y.toNat) c g d a b 2] ∧ YieldsSuch (.fmulF16 c y g d a b) g d.toNat fun w x =>
      let f := if y = 0 then fp16 else bf16
      x.extractLsb' 0 16 = BitVec.ofNat 16 (f.enc .rne false ((f.dec ((w.rd a.toNat).extractLsb' 0 16).toNat).mul (f.dec ((w.rd b.toNat).extractLsb' 0 16).toNat))) ∧ x.extractLsb' 16 16 = BitVec.ofNat 16 (f.enc .rne false ((f.dec ((w.rd a.toNat).extractLsb' 16 16).toNat).mul (f.dec ((w.rd b.toNat).extractLsb' 16 16).toNat)))) ∧
    (encode (.fabsF16 c y g d a) = [formV3 (0x12 + y.toNat) c g d a 0 3] ∧ Yields (.fabsF16 c y g d a) g d.toNat fun w => w.rd a.toNat &&& 0x7FFF7FFF) ∧
    (encode (.fnegF16 c y g d a) = [formV3 (0x12 + y.toNat) c g d a 0 4] ∧ Yields (.fnegF16 c y g d a) g d.toNat fun w => w.rd a.toNat ^^^ 0x80008000) ∧
    (encode (.fdot2F16 c y g d a b) = [formV3 (0x12 + y.toNat) c g d a b 5] ∧ Yields (.fdot2F16 c y g d a b) g d.toNat fun w =>
      let f := if y = 0 then fp16 else bf16
      encF32 ((((f.dec ((w.rd a.toNat).extractLsb' 0 16).toNat).mul (f.dec ((w.rd b.toNat).extractLsb' 0 16).toNat)).add .rne ((f.dec ((w.rd a.toNat).extractLsb' 16 16).toNat).mul (f.dec ((w.rd b.toNat).extractLsb' 16 16).toNat))).add .rne (decF32 (w.rd d.toNat)))) ∧
    (encode (.fminF16 c g d a b y) = [formV3 0x1B c g d a b (8 * y.toNat + 0)] ∧ YieldsSuch (.fminF16 c g d a b y) g d.toNat fun w x =>
      let f := if y = 0 then fp16 else bf16
      x.extractLsb' 0 16 = BitVec.ofNat 16 (f.enc .rne false ((f.dec ((w.rd a.toNat).extractLsb' 0 16).toNat).min (f.dec ((w.rd b.toNat).extractLsb' 0 16).toNat))) ∧ x.extractLsb' 16 16 = BitVec.ofNat 16 (f.enc .rne false ((f.dec ((w.rd a.toNat).extractLsb' 16 16).toNat).min (f.dec ((w.rd b.toNat).extractLsb' 16 16).toNat)))) ∧
    (encode (.fmaxF16 c g d a b y) = [formV3 0x1B c g d a b (8 * y.toNat + 1)] ∧ YieldsSuch (.fmaxF16 c g d a b y) g d.toNat fun w x =>
      let f := if y = 0 then fp16 else bf16
      x.extractLsb' 0 16 = BitVec.ofNat 16 (f.enc .rne false ((f.dec ((w.rd a.toNat).extractLsb' 0 16).toNat).max (f.dec ((w.rd b.toNat).extractLsb' 0 16).toNat))) ∧ x.extractLsb' 16 16 = BitVec.ofNat 16 (f.enc .rne false ((f.dec ((w.rd a.toNat).extractLsb' 16 16).toNat).max (f.dec ((w.rd b.toNat).extractLsb' 16 16).toNat)))) ∧
    (encode (.ffmaF16 c g d a b y) = [formV3 0x1B c g d a b (8 * y.toNat + 2)] ∧ YieldsSuch (.ffmaF16 c g d a b y) g d.toNat fun w x =>
      let f := if y = 0 then fp16 else bf16
      x.extractLsb' 0 16 = BitVec.ofNat 16 (f.enc .rne false (((f.dec ((w.rd a.toNat).extractLsb' 0 16).toNat).mul (f.dec ((w.rd b.toNat).extractLsb' 0 16).toNat)).add .rne (f.dec ((w.rd d.toNat).extractLsb' 0 16).toNat))) ∧ x.extractLsb' 16 16 = BitVec.ofNat 16 (f.enc .rne false (((f.dec ((w.rd a.toNat).extractLsb' 16 16).toNat).mul (f.dec ((w.rd b.toNat).extractLsb' 16 16).toNat)).add .rne (f.dec ((w.rd d.toNat).extractLsb' 16 16).toNat))))

/-- fcmp sets its predicate to the relation of R222 between the operands in the format that fn names, with NaN unordered and the zeros equal; fclass sets it to the bit of vb that the class of the operand, read from its fields, selects; p7 is discarded and nothing else changes (R222, R61) -/
def Obligations.FloatCompare : Prop :=
  ∀ (c : BitVec 1) (g p : BitVec 3) (a b : BitVec 6) (k : BitVec 4) (f : BitVec 3), f.toNat ≤ 4 →
    let fmt : Fmt := if f.toNat = 0 then fp32 else if f.toNat ≤ 2 then fp16 else bf16
    (k.toNat ≤ 7 → encode (.fcmp c g p a b k f) = [formP 0x16 c g p a b k f] ∧ YieldsPred (.fcmp c g p a b k f) g p.toNat fun w =>
      let o := (fmt.dec (cmpBits f.toNat (w.rd a.toNat))).cmp (fmt.dec (cmpBits f.toNat (w.rd b.toNat)))
      (k = 0 ∧ o = some .eq) ∨ (k = 1 ∧ o ≠ some .eq) ∨ (k = 2 ∧ o = some .lt) ∨ (k = 3 ∧ (o = some .lt ∨ o = some .eq)) ∨
        (k = 4 ∧ o = some .gt) ∨ (k = 5 ∧ (o = some .gt ∨ o = some .eq)) ∨ (k = 6 ∧ o = none) ∨ (k = 7 ∧ o ≠ none)) ∧
    encode (.fclass c g p a b f) = [formP 0x16 c g p a b 8 f] ∧ YieldsPred (.fclass c g p a b f) g p.toNat fun w =>
      (w.rd b.toNat).getLsbD (classByFields fmt.eb fmt.fb (cmpBits f.toNat (w.rd a.toNat)))

/-- A conversion to FP32 rounds the value of its source, byte, half, register or pair, once in the mode that its control names; a conversion from FP32 writes its target format zero-extended, into one half with the other kept, or into a pair; a packed conversion puts two narrow values side by side; nothing else changes (R223, R224, R225, R226, R83) -/
def Obligations.Conversions : Prop :=
  ∀ (c : BitVec 1) (g : BitVec 3) (d a b : BitVec 6) (r : BitVec 3) (z h : BitVec 1) (e : BitVec 2) (f : BitVec 4) (k : BitVec 3), r.toNat ≤ 3 →
    (encode (.frndF32 c g d a r) = [formV3 0x17 c g d a (BitVec.ofNat 6 (8 * r.toNat)) 0] ∧
      Yields (.frndF32 c g d a r) g d.toNat fun w => encF32 ((decF32 (w.rd a.toNat)).rint (modeOf r.toNat))) ∧
    ((Instr.cvtToF32 c g d a r e f).wf = true →
      encode (.cvtToF32 c g d a r e f) = [formV3 0x17 c g d a (BitVec.ofNat 6 (8 * r.toNat + e.toNat)) f.toNat] ∧
      Yields (.cvtToF32 c g d a r e f) g d.toNat fun w =>
        BitVec.ofNat 32 (fp32.enc (modeOf r.toNat) false (srcVal f.toNat e.toNat (w.rd a.toNat) (w.pair a.toNat)))) ∧
    ((Instr.cvtFromF32 c g d a r z e f).wf = true → f.toNat ≤ 13 → e.toNat = 0 →
      Yields (.cvtFromF32 c g d a r z e f) g d.toNat fun w =>
        BitVec.ofNat 32 (dstBits f.toNat (modeOf r.toNat) (z == 1) (decF32 (w.rd a.toNat)))) ∧
    ((Instr.cvtFromF32 c g d a r z e f).wf = true → f.toNat ≤ 13 → 1 ≤ e.toNat →
      PerThread (.cvtFromF32 c g d a r z e f) g fun w h h' =>
        let x := BitVec.ofNat 16 (dstBits f.toNat (modeOf r.toNat) (z == 1) (decF32 (w.rd a.toNat)))
        h.Sets h' d.toNat (if e = 1 then (h.rd d.toNat).extractLsb' 16 16 ++ x else x ++ (h.rd d.toNat).extractLsb' 0 16)) ∧
    ((Instr.cvtFromF32 c g d a r z e f).wf = true → 14 ≤ f.toNat →
      YieldsPair (.cvtFromF32 c g d a r z e f) g d.toNat fun w =>
        BitVec.ofNat 64 (dstBits f.toNat (modeOf r.toNat) (z == 1) (decF32 (w.rd a.toNat)))) ∧
    ((Instr.cvtPk c g d a b h k).wf = true →
      PerThread (.cvtPk c g d a b h k) g fun w t t' =>
        let x := dstBits k.toNat .rne false (decF32 (w.rd a.toNat))
        let y := dstBits k.toNat .rne false (decF32 (w.rd b.toNat))
        let both : BitVec 16 := BitVec.ofNat 16 (x + 256 * y)
        t.Sets t' d.toNat (if k.toNat ≤ 2 then BitVec.ofNat 16 y ++ BitVec.ofNat 16 x
          else if h = 1 then both ++ (t.rd d.toNat).extractLsb' 0 16 else (t.rd d.toNat).extractLsb' 16 16 ++ both))

/-- A conversion to FP32 from FP16, BF16, E4M3, E5M2, T8, T6, E8M0, I8, N8, I16 or N16 gives the very number that its source holds. A byte of E4M3 or E5M2 has the value of its exponent and fraction fields, with no infinity in E4M3; one of T8 or T6 that of its run, its exponent bit and its fraction; one of E8M0 is a power of two. A conversion to one of them gives the nearest number, an even word where two are as near, saturating in E4M3, T8 and T6 and, with .sat, in E5M2, which else overflows to the infinity of its sign; E8M0 takes the power of two at or below the magnitude, within its range (R73, R74, R75, R76, R83, R85) -/
def Obligations.ExactConversions : Prop :=
  (∀ (c : BitVec 1) (g : BitVec 3) (d a : BitVec 6) (e : BitVec 2) (f : BitVec 4),
    (f.toNat = 1 ∨ f.toNat = 2 ∨ f.toNat = 3 ∨ f.toNat = 4 ∨ f.toNat = 5 ∨ f.toNat = 6 ∨ f.toNat = 7 ∨ f.toNat = 8 ∨ f.toNat = 9 ∨ f.toNat = 10 ∨ f.toNat = 11) →
    (Instr.cvtToF32 c g d a 0 e f).wf = true →
    YieldsSuch (.cvtToF32 c g d a 0 e f) g d.toNat fun w x =>
      ∀ q, (srcVal f.toNat e.toNat (w.rd a.toNat) (w.pair a.toNat)).num = some q → (decF32 x).num = some q) ∧
  (∀ (a : Word) (p : Dword) (sel s e m : Nat), sel ≤ 3 → s ≤ 1 →
    let sign : ℚ := (-1) ^ s
    let b := a.toNat / 256 ^ sel % 256
    (b = 128 * s + 8 * e + m → e < 16 → m < 8 →
      (e = 15 ∧ m = 7 → srcVal 3 sel a p = .nan) ∧
      (1 ≤ e → ¬ (e = 15 ∧ m = 7) → (srcVal 3 sel a p).num = some (sign * (2 : ℚ) ^ ((e : ℤ) - 7) * (1 + m / 8))) ∧
      (e = 0 → (srcVal 3 sel a p).num = some (sign * (2 : ℚ) ^ (-6 : ℤ) * (m / 8)))) ∧
    (b = 128 * s + 4 * e + m → e < 32 → m < 4 →
      (e = 31 → srcVal 4 sel a p = if m = 0 then .inf (s == 1) else .nan) ∧
      (1 ≤ e → e ≤ 30 → (srcVal 4 sel a p).num = some (sign * (2 : ℚ) ^ ((e : ℤ) - 15) * (1 + m / 4))) ∧
      (e = 0 → (srcVal 4 sel a p).num = some (sign * (2 : ℚ) ^ (-14 : ℤ) * (m / 4)))) ∧
    ((b = 255 → srcVal 7 sel a p = .nan) ∧ (b ≤ 254 → (srcVal 7 sel a p).num = some ((2 : ℚ) ^ ((b : ℤ) - 127)))) ∧
    (srcVal 5 sel a p = decT8 b ∧ srcVal 6 sel a p = decT6 b)) ∧
  (∀ (s r k e f : Nat), s ≤ 1 → r ≤ 1 → 1 ≤ k → e ≤ 1 →
    let sign : ℚ := (-1) ^ s
    let run : ℤ := if r = 1 then k - 1 else -k
    (k ≤ 5 → f < 2 ^ (5 - k) →
      (decT8 (128 * s + (if r = 1 then (2 ^ k - 1) * 2 ^ (7 - k) else 2 ^ (6 - k)) + e * 2 ^ (5 - k) + f)).num =
        some (sign * (4 : ℚ) ^ run * (2 : ℚ) ^ e * (1 + f / 2 ^ (5 - k)))) ∧
    (k = 6 → (decT8 (128 * s + if r = 1 then 0x7E else 1)).num = some (sign * (4 : ℚ) ^ run)) ∧
    (k ≤ 4 → f < 2 ^ (4 - k) →
      (decT6 (32 * s + (if r = 1 then (2 ^ k - 1) * 2 ^ (5 - k) else 2 ^ (4 - k)) + f)).num = some (sign * (2 : ℚ) ^ run * (1 + f / 2 ^ (4 - k)))) ∧
    (decT8 (128 * s + 0x7F)).num = some (sign * (2 : ℚ) ^ 12) ∧ (decT6 (32 * s + 0x1F)).num = some (sign * (2 : ℚ) ^ 4)) ∧
  (decT8 0 = .fin false 0 0 ∧ decT8 0x80 = .nan ∧ decT6 0 = .fin false 0 0 ∧ decT6 0x20 = .nan) ∧
  (∀ (mode : Mode) (sat : Bool) (v : Val) (x : ℚ), v.num = some x →
    Nearest decE4m3 256 x (dstBits 3 mode sat v) ∧ Nearest decT8 256 x (dstBits 5 mode sat v) ∧ Nearest decT6 64 x (dstBits 6 mode sat v) ∧
    (sat = true ∨ |x| < 61440 → Nearest e5m2.dec 256 x (dstBits 4 mode sat v)) ∧
    (sat = false → 61440 ≤ |x| → e5m2.dec (dstBits 4 mode sat v) = .inf (decide (x < 0))) ∧
    ((2 : ℚ) ^ (-127 : ℤ) ≤ |x| → |x| < (2 : ℚ) ^ 128 → ∃ b : Nat, dstBits 7 mode sat v = b ∧ b ≤ 254 ∧
      (2 : ℚ) ^ ((b : ℤ) - 127) ≤ |x| ∧ |x| < (2 : ℚ) ^ ((b : ℤ) - 126)) ∧
    ((2 : ℚ) ^ 128 ≤ |x| → dstBits 7 mode sat v = 254) ∧ (|x| < (2 : ℚ) ^ (-127 : ℤ) → dstBits 7 mode sat v = 0)) ∧
  (∀ (mode : Mode) (sat n : Bool),
    (dstBits 3 mode sat .nan = 0x7F ∧ dstBits 4 mode sat .nan = 0x7E ∧ dstBits 5 mode sat .nan = 0x80 ∧ dstBits 6 mode sat .nan = 0x20 ∧
      dstBits 7 mode sat .nan = 0xFF) ∧
    (dstBits 3 mode sat (.inf n) = (if n then 0xFE else 0x7E) ∧ dstBits 4 mode sat (.inf n) = (if n then 0xFC else 0x7C) ∧
      dstBits 5 mode sat (.inf n) = (if n then 0xFF else 0x7F) ∧ dstBits 6 mode sat (.inf n) = (if n then 0x3F else 0x1F) ∧
      dstBits 7 mode sat (.inf n) = 0xFF) ∧
    ∀ e, dstBits 3 mode sat (.fin n 0 e) = (if n then 0x80 else 0) ∧ dstBits 4 mode sat (.fin n 0 e) = (if n then 0x80 else 0) ∧
      dstBits 5 mode sat (.fin n 0 e) = 0 ∧ dstBits 6 mode sat (.fin n 0 e) = 0)

/-- Each special function is tracked: at issue it sets its completion flag, or holds the thread without one, and puts in flight the one write of its destination, the FP32 encoding of Val.rcp, Val.rsq, Val.sqrt, Val.exp2, Val.log2, Val.tanh, Val.sin or Val.cos of its source, by which the model evaluates the exact value that R227 rounds once (the model’s choice, log entry 19; Obligations.SpecialValues says what these give); no register, no memory and no other thread changes until it completes (R157, R158) -/
def Obligations.SpecialFunctions : Prop :=
  ∀ (c : BitVec 1) (g : BitVec 3) (d a : BitVec 6),
    (encode (.frcpF32 c g d a) = [formV3 0x1A c g d a 0 0] ∧ EachThread (.frcpF32 c g d a) g fun s t h w m =>
      s.Tracks m t h false (.result [.reg d.toNat (encF32 (Val.rcp (decF32 (w.rd a.toNat))))] false)) ∧
    (encode (.frsqF32 c g d a) = [formV3 0x1A c g d a 0 1] ∧ EachThread (.frsqF32 c g d a) g fun s t h w m =>
      s.Tracks m t h false (.result [.reg d.toNat (encF32 (Val.rsq (decF32 (w.rd a.toNat))))] false)) ∧
    (encode (.fsqrtF32 c g d a) = [formV3 0x1A c g d a 0 2] ∧ EachThread (.fsqrtF32 c g d a) g fun s t h w m =>
      s.Tracks m t h false (.result [.reg d.toNat (encF32 (Val.sqrt (decF32 (w.rd a.toNat))))] false)) ∧
    (encode (.fexp2F32 c g d a) = [formV3 0x1A c g d a 0 3] ∧ EachThread (.fexp2F32 c g d a) g fun s t h w m =>
      s.Tracks m t h false (.result [.reg d.toNat (encF32 (Val.exp2 (decF32 (w.rd a.toNat))))] false)) ∧
    (encode (.flog2F32 c g d a) = [formV3 0x1A c g d a 0 4] ∧ EachThread (.flog2F32 c g d a) g fun s t h w m =>
      s.Tracks m t h false (.result [.reg d.toNat (encF32 (Val.log2 (decF32 (w.rd a.toNat))))] false)) ∧
    (encode (.ftanhF32 c g d a) = [formV3 0x1A c g d a 0 5] ∧ EachThread (.ftanhF32 c g d a) g fun s t h w m =>
      s.Tracks m t h false (.result [.reg d.toNat (encF32 (Val.tanh (decF32 (w.rd a.toNat))))] false)) ∧
    (encode (.fsinF32 c g d a) = [formV3 0x1A c g d a 0 6] ∧ EachThread (.fsinF32 c g d a) g fun s t h w m =>
      s.Tracks m t h false (.result [.reg d.toNat (encF32 (Val.sin (decF32 (w.rd a.toNat))))] false)) ∧
    (encode (.fcosF32 c g d a) = [formV3 0x1A c g d a 0 7] ∧ EachThread (.fcosF32 c g d a) g fun s t h w m =>
      s.Tracks m t h false (.result [.reg d.toNat (encF32 (Val.cos (decF32 (w.rd a.toNat))))] false))

/-- The special functions give the special values of R228: NaN for NaN, the signed zeros and infinities at zeros and infinities, and NaN for the root, the reciprocal root and the logarithm of a number below zero; the reciprocal, the root and the reciprocal root stand for the exact ones, so that they round as those do; a power of two has its exact reciprocal and logarithm, an integer its exact power of two, tanh is 1 from 9.5 on, the powers overflow to the infinity, and the sine and cosine of 1 are those that R227 gives. The bound arithmetic of the attention engine rounds each result up, with its own rules for zeros, infinities and NaN, and its exponentials are 1, 0 and ∞ where R296 says so (R227, R228, R289, R296) -/
def Obligations.SpecialValues : Prop :=
  (∀ x : Word, (decF32 x).isNan = true → Val.rcp (decF32 x) = .nan ∧ Val.rsq (decF32 x) = .nan ∧ Val.sqrt (decF32 x) = .nan ∧ Val.exp2 (decF32 x) = .nan ∧
      Val.log2 (decF32 x) = .nan ∧ Val.tanh (decF32 x) = .nan ∧ Val.sin (decF32 x) = .nan ∧ Val.cos (decF32 x) = .nan) ∧
    (∀ n, encF32 (Val.rcp (decF32 (signedZero n))) = signedInf n ∧ encF32 (Val.rcp (decF32 (signedInf n))) = signedZero n ∧
      encF32 (Val.rsq (decF32 (signedZero n))) = signedInf n ∧ encF32 (Val.sqrt (decF32 (signedZero n))) = signedZero n ∧
      encF32 (Val.log2 (decF32 (signedZero n))) = signedInf true ∧ encF32 (Val.tanh (decF32 (signedZero n))) = signedZero n ∧
      encF32 (Val.tanh (decF32 (signedInf n))) = (if n then 0xBF800000 else 0x3F800000) ∧
      encF32 (Val.sin (decF32 (signedZero n))) = signedZero n ∧ encF32 (Val.sin (decF32 (signedInf n))) = 0x7FC00000 ∧
      encF32 (Val.cos (decF32 (signedZero n))) = 0x3F800000 ∧ encF32 (Val.cos (decF32 (signedInf n))) = 0x7FC00000) ∧
    (∀ m e, m ≠ 0 → Val.rsq (.fin true m e) = .nan ∧ Val.sqrt (.fin true m e) = .nan ∧ Val.log2 (.fin true m e) = .nan) ∧
    encF32 (Val.rsq (.inf false)) = 0 ∧ encF32 (Val.sqrt (.inf false)) = signedInf false ∧ encF32 (Val.exp2 (.inf true)) = 0 ∧
    encF32 (Val.exp2 (.inf false)) = signedInf false ∧ encF32 (Val.log2 (.inf false)) = signedInf false ∧
    (∀ (w : Word) (x : ℚ), (decF32 w).num = some x → x ≠ 0 → (Val.rcp (decF32 w)).StandsFor 200 fun d => compare (1 / x) d) ∧
    (∀ (w : Word) (x : ℚ), (decF32 w).num = some x → 0 < x → (Val.sqrt (decF32 w)).StandsFor 100 (rootOrd x) ∧
      (Val.rsq (decF32 w)).StandsFor 100 (rootRecipOrd x)) ∧
    (∀ (v : Val) (n : Bool) (k : ℤ), v.num = some ((if n then -1 else 1) * (2 : ℚ) ^ k) → -126 ≤ k → k ≤ 126 →
      (decF32 (encF32 (Val.rcp v))).num = some ((if n then -1 else 1) * (2 : ℚ) ^ (-k))) ∧
    (∀ (v : Val) (k : ℤ), v.num = some (k : ℚ) → -149 ≤ k → k ≤ 127 → (Val.exp2 v).num = some ((2 : ℚ) ^ k)) ∧
    (∀ (v : Val) (k : ℤ), v.num = some ((2 : ℚ) ^ k) → (Val.log2 v).num = some (k : ℚ)) ∧
    (∀ (v : Val) (x : ℚ), v.num = some x → (19 / 2 ≤ x → (Val.tanh v).num = some 1) ∧ (x ≤ -19 / 2 → (Val.tanh v).num = some (-1)) ∧
      (128 ≤ x → encF32 (Val.exp2 v) = signedInf false)) ∧
    (encF32 (Val.sin (decF32 0x3F800000)) = 0x3F576AA4 ∧ encF32 (Val.cos (decF32 0x3F800000)) = 0x3F0A5140) ∧
    (∀ (x y : Word) (a b : ℚ), (decF32 x).num = some a → (decF32 y).num = some b →
      let upTo := fun (above : ℚ → Prop) (w : Word) => LeastAbove fp32Word (2 ^ 32) above w.toNat
      upTo (fun d => a + b ≤ d) (bAdd x y) ∧ upTo (fun d => a - b ≤ d) (bSub x y) ∧ upTo (fun d => a * b ≤ d) (bMul x y) ∧
        (b ≠ 0 → upTo (fun d => a / b ≤ d) (bDiv x y)) ∧ (0 ≤ a → upTo (fun d => 0 ≤ d ∧ a ≤ d * d) (bSqrt x))) ∧
    (∀ (x z : Word), (decF32 z).isZero = true → (decF32 x).isNan = false → bMul x z = 0 ∧ bMul z x = 0 ∧ bDiv z x = 0 ∧
      ((decF32 x).isZero = false → bDiv x z = 0x7F800000)) ∧
    (∀ n k, bAdd (signedInf n) (signedInf !n) = 0 ∧ bSub (signedInf n) (signedInf n) = 0 ∧ bDiv (signedInf n) (signedInf k) = 0x7F800000) ∧
    (∀ (x y : Word), (decF32 x).isNan = true ∨ (decF32 y).isNan = true → (decF32 (bAdd x y)).isNan = true ∧ (decF32 (bSub x y)).isNan = true ∧
      (decF32 (bMul x y)).isNan = true ∧ (decF32 (bDiv x y)).isNan = true) ∧
    (∀ n, expn (signedZero n) = 0x3F800000 ∧ expu (signedZero n) = 0x3F800000 ∧ expn (signedInf n) = (if n then 0 else 0x7F800000) ∧
      expu (signedInf n) = if n then 0 else 0x7F800000) ∧
    (∀ (x : Word) (a : ℚ), (decF32 x).num = some a → 89 ≤ a → expn x = 0x7F800000 ∧ expu x = 0x7F800000)

/-- Sum, difference, product, negation, magnitude and comparison of finite values are those of the rational numbers, whatever the rounding mode; a quotient and a root stand for the exact ones, comparing with every number of at most 256 bits as those do; rounding happens only when a result is encoded. The operations that R79 calls invalid give NaN, and a nonzero number over a zero the infinity of its sign (R9, R79, R230) -/
def Obligations.ExactValues : Prop :=
  (∀ (mode : Mode) (x y : Val) (p q : ℚ), x.num = some p → y.num = some q →
    (x.add mode y).num = some (p + q) ∧ (x.sub mode y).num = some (p - q) ∧ (x.mul y).num = some (p * q) ∧ x.neg.num = some (-p) ∧
      x.abs.num = some |p| ∧ x.cmp y = some (compare p q) ∧ (q ≠ 0 → (x.div y).StandsFor 256 fun d => compare (p / q) d) ∧
      (0 < p → x.sqrt.StandsFor 256 (rootOrd p)) ∧ (p < 0 → x.sqrt = .nan)) ∧
  (∀ (mode : Mode) (a b : Bool) (m : Nat) (e f : ℤ),
    ((Val.inf a).add mode (.inf (!a)) = .nan ∧ (Val.inf a).sub mode (.inf a) = .nan ∧ (Val.fin a 0 e).mul (.inf b) = .nan ∧
      (Val.inf b).mul (.fin a 0 e) = .nan ∧ (Val.fin a 0 e).div (.fin b 0 f) = .nan ∧ (Val.inf a).div (.inf b) = .nan ∧
      (Val.inf true).sqrt = .nan) ∧
    (m ≠ 0 → (Val.fin a m e).div (.fin b 0 f) = .inf (a != b)) ∧ (Val.inf a).div (.fin b m f) = .inf (a != b) ∧
    ((Val.fin a m e).div (.inf b)).num = some 0 ∧ (Val.inf false).sqrt = .inf false ∧ (Val.fin a 0 e).sqrt = .fin a 0 0)

/-- Where the encoding of an exact value in FP32 is finite, no FP32 number lies nearer to the value, and where another lies as near, the one chosen has an even fraction; subnormal results included (R9, R71, R216) -/
def Obligations.RoundsToNearestEven : Prop :=
  ∀ (v : Val) (x : ℚ), v.num = some x → ∀ r : ℚ, (decF32 (encF32 v)).num = some r →
    ∀ (u : Word) (y : ℚ), (decF32 u).num = some y → |r - x| ≤ |y - x| ∧ (|r - x| = |y - x| → y ≠ r → (encF32 v).getLsbD 0 = false)

/-- Every FP32 word that is no NaN is the encoding of its value, subnormals and both zeros included; every NaN becomes the canonical NaN; a magnitude of 2^128 or more becomes the infinity of its sign (R71, R72) -/
def Obligations.SingleEncoding : Prop :=
  (∀ x : Word, (decF32 x).isNan = false → encF32 (decF32 x) = x) ∧ (∀ x : Word, (decF32 x).isNan = true → encF32 (decF32 x) = 0x7FC00000) ∧
    (∀ (n : Bool) (m : Nat) (e : Int), 2 ^ 128 ≤ (m : ℚ) * (2 : ℚ) ^ e → encF32 (.fin n m e) = signedInf n)

/-- Every XF instruction that writes a window reads the whole of its source windows at issue; a window past the allocation traps with cause 3 and writes nothing; otherwise the exact value is put in flight as the words, the XUF and the exhaustion that PREC as read at issue gives, a trap of cause 1 in place of the words where PREC.X is set and the result is inexact; while PREC.X is set the thread is held at its next slot (R229, R230, R232, R59, R80) -/
def Obligations.XfArithmetic : Prop :=
  ∀ (c : BitVec 1) (g : BitVec 3) (d a b : BitVec 6),
    (encode (.xadd c g d a b) = [formV3 0x1C c g d a b 0] ∧ EachThread (.xadd c g d a b) g (XfResult [a.toNat, b.toNat] d.toNat fun w => (w.xval a.toNat).add (precMode w.mode) (w.xval b.toNat))) ∧
    (encode (.xsub c g d a b) = [formV3 0x1C c g d a b 1] ∧ EachThread (.xsub c g d a b) g (XfResult [a.toNat, b.toNat] d.toNat fun w => (w.xval a.toNat).sub (precMode w.mode) (w.xval b.toNat))) ∧
    (encode (.xmul c g d a b) = [formV3 0x1C c g d a b 2] ∧ EachThread (.xmul c g d a b) g (XfResult [a.toNat, b.toNat] d.toNat fun w => (w.xval a.toNat).mul (w.xval b.toNat))) ∧
    (encode (.xdiv c g d a b) = [formV3 0x1C c g d a b 3] ∧ EachThread (.xdiv c g d a b) g (XfResult [a.toNat, b.toNat] d.toNat fun w => (w.xval a.toNat).div (w.xval b.toNat))) ∧
    (encode (.xfma c g d a b) = [formV3 0x1C c g d a b 4] ∧ EachThread (.xfma c g d a b) g (XfResult [a.toNat, b.toNat, d.toNat] d.toNat fun w => ((w.xval a.toNat).mul (w.xval b.toNat)).add (precMode w.mode) (w.xval d.toNat))) ∧
    (encode (.xsqrt c g d a) = [formV3 0x1C c g d a 0 5] ∧ EachThread (.xsqrt c g d a) g (XfResult [a.toNat] d.toNat fun w => (w.xval a.toNat).sqrt)) ∧
    (encode (.xneg c g d a) = [formV3 0x1C c g d a 0 6] ∧ EachThread (.xneg c g d a) g (XfResult [a.toNat] d.toNat fun w => (w.xval a.toNat).neg)) ∧
    (encode (.xabs c g d a) = [formV3 0x1C c g d a 0 7] ∧ EachThread (.xabs c g d a) g (XfResult [a.toNat] d.toNat fun w => (w.xval a.toNat).abs)) ∧
    (encode (.xmin c g d a b) = [formV3 0x1C c g d a b 8] ∧ EachThread (.xmin c g d a b) g (XfResult [a.toNat, b.toNat] d.toNat fun w => (w.xval a.toNat).min (w.xval b.toNat))) ∧
    (encode (.xmax c g d a b) = [formV3 0x1C c g d a b 9] ∧ EachThread (.xmax c g d a b) g (XfResult [a.toNat, b.toNat] d.toNat fun w => (w.xval a.toNat).max (w.xval b.toNat))) ∧
    (encode (.xcvtXfF32 c g d a) = [formV3 0x1D c g d a 0 0] ∧ EachThread (.xcvtXfF32 c g d a) g (XfResult [] d.toNat fun w => decF32 (w.rd a.toNat))) ∧
    (encode (.xcvtXfI32 c g d a) = [formV3 0x1D c g d a 0 1] ∧ EachThread (.xcvtXfI32 c g d a) g (XfResult [] d.toNat fun w => Val.ofInt (w.rd a.toNat).toInt)) ∧
    (encode (.xcvtXfN32 c g d a) = [formV3 0x1D c g d a 0 2] ∧ EachThread (.xcvtXfN32 c g d a) g (XfResult [] d.toNat fun w => Val.ofInt (w.rd a.toNat).toNat)) ∧
    (encode (.xcvtXfI64 c g d a) = [formV3 0x1D c g d a 0 3] ∧ EachThread (.xcvtXfI64 c g d a) g (XfResult [] d.toNat fun w => Val.ofInt (w.pair a.toNat).toInt)) ∧
    (encode (.xcvtXfN64 c g d a) = [formV3 0x1D c g d a 0 4] ∧ EachThread (.xcvtXfN64 c g d a) g (XfResult [] d.toNat fun w => Val.ofInt (w.pair a.toNat).toNat)) ∧
    (encode (.xrnd c g d a) = [formV3 0x1D c g d a 0 10] ∧ EachThread (.xrnd c g d a) g (XfResult [a.toNat] d.toNat fun w => w.xval a.toNat)) ∧
    (encode (.xrint c g d a) = [formV3 0x1D c g d a 0 11] ∧ EachThread (.xrint c g d a) g (XfResult [a.toNat] d.toNat fun w => (w.xval a.toNat).rint (precMode w.mode)))

/-- A conversion from XF puts in flight the value of its window, rounded in the mode of its control, saturating for the integers and never exhausted; xcmp puts in flight the relation of the two values exactly as read; a source window past the allocation traps with cause 3 (R229, R232, R233, R59) -/
def Obligations.XfConversionsAndCompare : Prop :=
  ∀ (c z : BitVec 1) (g p r : BitVec 3) (k : BitVec 4) (d a b : BitVec 6),
    (encode (.xcvtF32Xf c g d a r z) = [formV3 0x1D c g d a (BitVec.ofNat 6 (8 * r.toNat + 4 * z.toNat)) 5] ∧ EachThread (.xcvtF32Xf c g d a r z) g
      (XfTurn true [a.toNat] none (fun w => [.reg d.toNat (BitVec.ofNat 32 (fp32.enc (modeOf r.toNat) (z == 1) (w.xval a.toNat)))]) (fun _ => false) fun _ => false)) ∧
    (encode (.xcvtI32Xf c g d a r) = [formV3 0x1D c g d a (BitVec.ofNat 6 (8 * r.toNat)) 6] ∧ EachThread (.xcvtI32Xf c g d a r) g
      (XfTurn true [a.toNat] none (fun w => [.reg d.toNat (BitVec.ofNat 32 (encInt true 32 (modeOf r.toNat) (w.xval a.toNat)))]) (fun _ => false) fun _ => false)) ∧
    (encode (.xcvtN32Xf c g d a r) = [formV3 0x1D c g d a (BitVec.ofNat 6 (8 * r.toNat)) 7] ∧ EachThread (.xcvtN32Xf c g d a r) g
      (XfTurn true [a.toNat] none (fun w => [.reg d.toNat (BitVec.ofNat 32 (encInt false 32 (modeOf r.toNat) (w.xval a.toNat)))]) (fun _ => false) fun _ => false)) ∧
    (encode (.xcvtI64Xf c g d a r) = [formV3 0x1D c g d a (BitVec.ofNat 6 (8 * r.toNat)) 8] ∧ EachThread (.xcvtI64Xf c g d a r) g
      (XfTurn true [a.toNat] none (fun w => [.reg d.toNat ((BitVec.ofNat 64 (encInt true 64 (modeOf r.toNat) (w.xval a.toNat))).extractLsb' 0 32), .reg (d.toNat + 1) ((BitVec.ofNat 64 (encInt true 64 (modeOf r.toNat) (w.xval a.toNat))).extractLsb' 32 32)]) (fun _ => false) fun _ => false)) ∧
    (encode (.xcvtN64Xf c g d a r) = [formV3 0x1D c g d a (BitVec.ofNat 6 (8 * r.toNat)) 9] ∧ EachThread (.xcvtN64Xf c g d a r) g
      (XfTurn true [a.toNat] none (fun w => [.reg d.toNat ((BitVec.ofNat 64 (encInt false 64 (modeOf r.toNat) (w.xval a.toNat))).extractLsb' 0 32), .reg (d.toNat + 1) ((BitVec.ofNat 64 (encInt false 64 (modeOf r.toNat) (w.xval a.toNat))).extractLsb' 32 32)]) (fun _ => false) fun _ => false)) ∧
    (k.toNat ≤ 7 → encode (.xcmp c g p a b k) = [formP 0x1E c g p a b k 0] ∧ EachThread (.xcmp c g p a b k) g
      (XfTurn false [a.toNat, b.toNat] none (fun w =>
        let o := (w.xval a.toNat).cmp (w.xval b.toNat)
        [.pred p.toNat (decide ((k = 0 ∧ o = some .eq) ∨ (k = 1 ∧ o ≠ some .eq) ∨ (k = 2 ∧ o = some .lt) ∨ (k = 3 ∧ (o = some .lt ∨ o = some .eq)) ∨
          (k = 4 ∧ o = some .gt) ∨ (k = 5 ∧ (o = some .gt ∨ o = some .eq)) ∨ (k = 6 ∧ o = none) ∨ (k = 7 ∧ o ≠ none)))]) (fun _ => false) fun _ => false))

/-- Each PREC instruction gives PREC of its thread its new P, RM or X and keeps XUF, or clears XUF; a P outside 1 to 237 or an RM above 4 leaves PREC and takes the precision-limit trap of cause 2; nothing else of the thread and no other thread changes (R234, R64) -/
def Obligations.PrecisionControl : Prop :=
  ∀ (c : BitVec 1) (g : BitVec 3) (n : BitVec 8) (m : BitVec 3) (x : BitVec 1) (k : BitVec 9) (a : BitVec 6),
    (encode (.setp c g n) = [formX 0x1F c g.toNat n.toNat] ∧ EachThread (.setp c g n) g (PrecTurn fun w => (n.toNat, precRM w.mode, precX w.mode))) ∧
    (encode (.setrm c g m) = [formX 0x1F c g.toNat (1 * 2 ^ 19 + m.toNat)] ∧ EachThread (.setrm c g m) g (PrecTurn fun w => (precP w.mode, m.toNat, precX w.mode))) ∧
    (encode (.setx c g x) = [formX 0x1F c g.toNat (2 * 2 ^ 19 + x.toNat)] ∧ EachThread (.setx c g x) g (PrecTurn fun w => (precP w.mode, precRM w.mode, x == 1))) ∧
    (encode (.addp c g k) = [formX 0x1F c g.toNat (3 * 2 ^ 19 + k.toNat)] ∧ EachThread (.addp c g k) g (PrecTurn fun w => ((precP w.mode : Int) + k.toInt, precRM w.mode, precX w.mode))) ∧
    (encode (.setpReg c g a) = [formX 0x1F c g.toNat (4 * 2 ^ 19 + a.toNat * 2 ^ 10)] ∧ EachThread (.setpReg c g a) g (PrecTurn fun w => ((w.rd a.toNat).toNat, precRM w.mode, precX w.mode))) ∧
    (encode (.clrxuf c g) = [formX 0x1F c g.toNat (5 * 2 ^ 19)] ∧ EachThread (.clrxuf c g) g fun s t h w m => s.Turns m t h fun h' => h' = { h with prec := w.mode &&& ~~~(0x1000#32) })

/-- A result is written at the smallest length whose fraction holds P bits; a value that P bits and the exponent range hold is written exactly, without XUF or exhaustion; any other within the range is rounded to P bits in the mode of PREC, and is exhausted exactly where bits were lost; a magnitude beyond the range becomes the infinity or the largest number, as the mode has it; one below it becomes the zero of its sign and sets XUF. NaN is written as the canonical NaN, and an infinity or a zero with its sign (R78, R79, R80) -/
def Obligations.XfWrite : Prop :=
  (∀ (prec : Word) (s : Bool) (m : Nat) (e : Int) (x : ℚ), 1 ≤ precP prec → precP prec ≤ 237 → precRM prec ≤ 4 → m ≠ 0 → (Val.fin s m e).num = some x →
    let o := xfWrite prec (.fin s m e)
    o.words.length = xfLen (o.words.getD 0 0) ∧ precP prec ≤ 13 + 32 * (o.words.length - 1) ∧
      (∀ n, 1 ≤ n → precP prec ≤ 13 + 32 * (n - 1) → o.words.length ≤ n) ∧
      (m.log2 ≤ precP prec → -16382 ≤ (m.log2 : Int) + e → (m.log2 : Int) + e ≤ 16383 →
        o.xuf = false ∧ o.exhausted = false ∧ (xfVal o.words).num = some x) ∧
      (16384 ≤ (m.log2 : Int) + e → precRM prec = 0 → xfVal o.words = .inf s ∧ o.xuf = false ∧ o.exhausted = false) ∧
      ((m.log2 : Int) + e < -16383 → xfVal o.words = .fin s 0 0 ∧ o.xuf = true ∧ o.exhausted = false) ∧
      (-16382 ≤ (m.log2 : Int) + e → (m.log2 : Int) + e ≤ 16382 → ∃ r k, (xfVal o.words).num = some r ∧ o.xuf = false ∧
        RoundsBy (precRM prec) x r ((2 : ℚ) ^ ((m.log2 : ℤ) + e - precP prec)) k ∧ (o.exhausted = true ↔ r ≠ x)) ∧
      (16384 ≤ (m.log2 : Int) + e → o.xuf = false ∧ o.exhausted = false ∧
        (precRM prec = 1 ∨ precRM prec = 4 ∨ (precRM prec = 2 ∧ s = true) ∨ (precRM prec = 3 ∧ s = false) →
          (xfVal o.words).num = some ((if s then -1 else 1) * (2 - (2 : ℚ) ^ (-(precP prec : ℤ))) * (2 : ℚ) ^ 16383)) ∧
        ((precRM prec = 2 ∧ s = false) ∨ (precRM prec = 3 ∧ s = true) → xfVal o.words = .inf s))) ∧
  (∀ (prec : Word), 1 ≤ precP prec → precP prec ≤ 237 →
    (∀ v, (v = .nan ∨ (∃ s, v = .inf s) ∨ ∃ s e, v = .fin s 0 e) →
      let o := xfWrite prec v
      o.words.length = xfLen (o.words.getD 0 0) ∧ precP prec ≤ 13 + 32 * (o.words.length - 1) ∧
      (∀ n, 1 ≤ n → precP prec ≤ 13 + 32 * (n - 1) → o.words.length ≤ n) ∧ o.xuf = false ∧ o.exhausted = false) ∧
    (let n := (xfWrite prec .nan).words; xfVal n = .nan ∧ (n.getD 0 0).getLsbD 28 = false ∧ xfExp (n.getD 0 0) = 0x7FFF ∧ xfFrac n = 2 ^ (13 + 32 * (n.length - 1) - 1)) ∧
    ∀ s, xfVal (xfWrite prec (.inf s)).words = .inf s ∧ ∀ e, xfVal (xfWrite prec (.fin s 0 e)).words = .fin s 0 0)

/-- Every load of R238 to R240, and every acquiring load, completes in each executing thread by putting one tracked access in flight, of its width and kind, at the address that R236 gives modulo 2^56, with its flag set or the thread held; no register, byte or frame changes until the load completes; a load that fails in a thread does nothing there, and the failures of the word then take their action (R236, R238, R239, R240, R157, R158) -/
def Obligations.Loads : Prop :=
  ∀ (c : BitVec 1) (g : BitVec 3) (d a : BitVec 6) (o : BitVec 10) (u : BitVec 8) (lit : Word),
    (MayFail (.ld32 c g d a o lit) g (LoadTurn (fun w => w.offsetAddr a.toNat o lit) 4 (.plain 4) d.toNat false)) ∧
    (MayFail (.ld64 c g d a o lit) g (LoadTurn (fun w => w.offsetAddr a.toNat o lit) 8 (.plain 8) d.toNat false)) ∧
    (MayFail (.ld128 c g d a o lit) g (LoadTurn (fun w => w.offsetAddr a.toNat o lit) 16 (.plain 16) d.toNat false)) ∧
    (MayFail (.ldN8 c g d a) g (LoadTurn (fun w => w.addr a.toNat) 1 (.plain 1) d.toNat false)) ∧
    (MayFail (.ldN16 c g d a) g (LoadTurn (fun w => w.addr a.toNat) 2 (.plain 2) d.toNat false)) ∧
    (MayFail (.ldN16H0 c g d a) g (LoadTurn (fun w => w.addr a.toNat) 2 .half0 d.toNat false)) ∧
    (MayFail (.ldN16H1 c g d a) g (LoadTurn (fun w => w.addr a.toNat) 2 .half1 d.toNat false)) ∧
    (MayFail (.ldAcq32 c g d a) g (LoadTurn (fun w => w.addr a.toNat) 4 (.plain 4) d.toNat true)) ∧
    (MayFail (.ldAcq64 c g d a) g (LoadTurn (fun w => w.addr a.toNat) 8 (.plain 8) d.toNat true)) ∧
    (MayFail (.ldAcq128 c g d a) g (LoadTurn (fun w => w.addr a.toNat) 16 (.plain 16) d.toNat true)) ∧
    (MayFail (.ldUniformBase c g d a u) g (LoadTurn (fun w => w.indexAddr u.toNat a.toNat) 4 (.plain 4) d.toNat false)) ∧
    (MayFail (.ld64UniformBase c g d a u) g (LoadTurn (fun w => w.indexAddr u.toNat a.toNat) 8 (.plain 8) d.toNat false))

/-- Every store of R238 to R240, and every releasing store, completes in each executing thread by putting one store in flight with the little-endian bytes of its registers as the word reads them; no byte of any memory changes until it is performed at its home; in a command window a store below 0x40 opens the window, one to GO begins a command, and one to 0x44 opens nothing; a store that fails in a thread does nothing there (R236, R237, R238, R239, R240, R261) -/
def Obligations.Stores : Prop :=
  ∀ (c : BitVec 1) (g : BitVec 3) (d a : BitVec 6) (o : BitVec 10) (u : BitVec 8) (lit : Word),
    (MayFail (.st32 c g d a o lit) g (StoreTurn (fun w => w.offsetAddr a.toNat o lit) 4 (fun w => toLe 4 (w.rd d.toNat).toNat) false)) ∧
    (MayFail (.st64 c g d a o lit) g (StoreTurn (fun w => w.offsetAddr a.toNat o lit) 8 (fun w => toLe 8 (w.pair d.toNat).toNat) false)) ∧
    (MayFail (.st128 c g d a o lit) g (StoreTurn (fun w => w.offsetAddr a.toNat o lit) 16 (fun w => toLe 8 (w.pair d.toNat).toNat ++ toLe 8 (w.pair (d.toNat + 2)).toNat) false)) ∧
    (MayFail (.stN8 c g d a) g (StoreTurn (fun w => w.addr a.toNat) 1 (fun w => toLe 1 ((w.rd d.toNat).toNat % 2 ^ 8)) false)) ∧
    (MayFail (.stN16 c g d a) g (StoreTurn (fun w => w.addr a.toNat) 2 (fun w => toLe 2 ((w.rd d.toNat).toNat % 2 ^ 16)) false)) ∧
    (MayFail (.stN16H1 c g d a) g (StoreTurn (fun w => w.addr a.toNat) 2 (fun w => toLe 2 ((w.rd d.toNat).toNat / 2 ^ 16)) false)) ∧
    (MayFail (.stRel32 c g d a) g (StoreTurn (fun w => w.addr a.toNat) 4 (fun w => toLe 4 (w.rd d.toNat).toNat) true)) ∧
    (MayFail (.stRel64 c g d a) g (StoreTurn (fun w => w.addr a.toNat) 8 (fun w => toLe 8 (w.pair d.toNat).toNat) true)) ∧
    (MayFail (.stRel128 c g d a) g (StoreTurn (fun w => w.addr a.toNat) 16 (fun w => toLe 8 (w.pair d.toNat).toNat ++ toLe 8 (w.pair (d.toNat + 2)).toNat) true)) ∧
    (MayFail (.stUniformBase c g d a u) g (StoreTurn (fun w => w.indexAddr u.toNat a.toNat) 4 (fun w => toLe 4 (w.rd d.toNat).toNat) false)) ∧
    (MayFail (.st64UniformBase c g d a u) g (StoreTurn (fun w => w.indexAddr u.toNat a.toNat) 8 (fun w => toLe 8 (w.pair d.toNat).toNat) false))

/-- Every XF load puts one tracked load of all the words that the header names in flight, one access where the element is atomic as a whole and else one for each word, after every word has translated; every XF store stores its window, rounded by PREC or at its shortest exact length, as one access where it is atomic as a whole and else word by word, sets XUF, and a stream form advances its address pair past the words; a window past the allocation traps, and so does a rounding that exhausts its precision where PREC.X is set. The shortest length of a value is exact, with the fraction bits of a NaN, and no shorter one is. That a load takes the length that the header has at issue is the model’s choice (log entry 28), and so are how xfMin finds the shortest length (log entry 31) and that the fraction bits of a zero are stored as 0 (log entry 95) (R247, R248, R249, R114, R80, R81, R59) -/
def Obligations.XfElements : Prop :=
  (∀ (c : BitVec 1) (g : BitVec 3) (d a : BitVec 6) (o : BitVec 10) (lit : Word),
    (MayFail (.xld c g d a o lit) g (XfLoadTurn (fun w => w.offsetAddr a.toNat o lit) (fun _ => .xf) d.toNat none false)) ∧
    (MayFail (.xldR c g d a) g (XfLoadTurn (fun w => w.addr a.toNat) (fun w => .xfRound w.mode) d.toNat none true)) ∧
    (MayFail (.xlds c g d a) g (XfLoadTurn (fun w => w.addr a.toNat) (fun _ => .xf) d.toNat (some a.toNat) false)) ∧
    (MayFail (.xldsR c g d a) g (XfLoadTurn (fun w => w.addr a.toNat) (fun w => .xfRound w.mode) d.toNat (some a.toNat) true)) ∧
    (MayFail (.xst c g d a) g (XfStoreTurn d.toNat a.toNat false fun w => xfWrite w.mode (w.xval d.toNat))) ∧
    (MayFail (.xsts c g d a) g (XfStoreTurn d.toNat a.toNat true fun w => xfWrite w.mode (w.xval d.toNat))) ∧
    (MayFail (.xstMin c g d a) g (XfStoreTurn d.toNat a.toNat false fun w => ⟨xfMin (w.win d.toNat), false, false⟩)) ∧
    (MayFail (.xstsMin c g d a) g (XfStoreTurn d.toNat a.toNat true fun w => ⟨xfMin (w.win d.toNat), false, false⟩))) ∧
  (∀ ws : List Word, 1 ≤ ws.length → ws.length ≤ 8 →
    let o := xfMin ws
    o.length = xfLen (o.getD 0 0) ∧ 1 ≤ o.length ∧ o.length ≤ ws.length ∧ (o.getD 0 0).getLsbD 28 = (ws.getD 0 0).getLsbD 28 ∧
      xfExp (o.getD 0 0) = xfExp (ws.getD 0 0) ∧ (xfVal o).num = (xfVal ws).num ∧ (xfVal o).isNan = (xfVal ws).isNan ∧
      (∀ s, xfVal ws = .inf s → xfVal o = .inf s ∧ o.length = 1) ∧ (xfExp (ws.getD 0 0) = 0 → o.length = 1 ∧ xfFrac o = 0) ∧
      (xfExp (ws.getD 0 0) ≠ 0 → xfFrac o * 2 ^ (32 * (ws.length - o.length)) = xfFrac ws ∧
        ∀ n, 1 ≤ n → n ≤ ws.length → 2 ^ (32 * (ws.length - n)) ∣ xfFrac ws → o.length ≤ n))

/-- Every atomic completes in each executing thread by putting one tracked access in flight with its operation, its width and the operands that the word reads at issue, ordered as its literal says, and the words of its core’s L1 copy become invalid; a RED is complete for the thread at issue; no byte changes until the access is performed (R242, R243, R244, R245, R408) -/
def Obligations.AtomicsAndRed : Prop :=
  ∀ (c : BitVec 1) (g : BitVec 3) (d a b : BitVec 6) (lit : Word),
    (MayFail (.atomAddI32 c g d a b) g (AtomicTurn 0 d.toNat a.toNat b.toNat false false)) ∧
    (MayFail (.atomMinI32 c g d a b) g (AtomicTurn 1 d.toNat a.toNat b.toNat false false)) ∧
    (MayFail (.atomMaxI32 c g d a b) g (AtomicTurn 2 d.toNat a.toNat b.toNat false false)) ∧
    (MayFail (.atomMinN32 c g d a b) g (AtomicTurn 3 d.toNat a.toNat b.toNat false false)) ∧
    (MayFail (.atomMaxN32 c g d a b) g (AtomicTurn 4 d.toNat a.toNat b.toNat false false)) ∧
    (MayFail (.atomAnd c g d a b) g (AtomicTurn 5 d.toNat a.toNat b.toNat false false)) ∧
    (MayFail (.atomOr c g d a b) g (AtomicTurn 6 d.toNat a.toNat b.toNat false false)) ∧
    (MayFail (.atomXor c g d a b) g (AtomicTurn 7 d.toNat a.toNat b.toNat false false)) ∧
    (MayFail (.atomExch c g d a b) g (AtomicTurn 8 d.toNat a.toNat b.toNat false false)) ∧
    (MayFail (.atomCas c g d a b) g (AtomicTurn 9 d.toNat a.toNat b.toNat false false)) ∧
    (MayFail (.atomAddI64 c g d a b) g (AtomicTurn 10 d.toNat a.toNat b.toNat false false)) ∧
    (MayFail (.atomMaxN64 c g d a b) g (AtomicTurn 11 d.toNat a.toNat b.toNat false false)) ∧
    (MayFail (.atomExch64 c g d a b) g (AtomicTurn 12 d.toNat a.toNat b.toNat false false)) ∧
    (MayFail (.atomCas64 c g d a b) g (AtomicTurn 13 d.toNat a.toNat b.toNat false false)) ∧
    (MayFail (.atomOrdered c g d a b lit) g (AtomicTurn (lit.toNat % 16) d.toNat a.toNat b.toNat (lit.getLsbD 4) (lit.getLsbD 5))) ∧
    (MayFail (.red c g d a b) g (RedTurn d.toNat a.toNat b.toNat))

/-- Each fence completes in each executing thread by beginning its wait, which holds the thread; a prefetch changes nothing that a program can fault on, whatever its address, and puts a fill in flight exactly where the address translates to a page that an L1 holds (R118, R246) -/
def Obligations.FencesAndPrefetch : Prop :=
  ∀ (c : BitVec 1) (g : BitVec 3) (a : BitVec 6) (o : BitVec 10) (lit : Word),
    (EachThread (.fence g) g fun s t h _ m => s.SendsQuiet m t h .packet (.fence 0)) ∧
    (EachThread (.fenceAcq g) g fun s t h _ m => s.SendsQuiet m t h .packet (.fence 1)) ∧
    (EachThread (.fenceRel g) g fun s t h _ m => s.SendsQuiet m t h .packet (.fence 2)) ∧
    (EachThread (.prefetch c g a o lit) g (PrefetchTurn (fun w => w.offsetAddr a.toNat o lit) false)) ∧
    (EachThread (.prefetchL2 c g a o lit) g (PrefetchTurn (fun w => w.offsetAddr a.toNat o lit) true))

/-- An address that is no multiple of the access width is misaligned; a local address reaches the own scratchpad below its size, the scratchpad at a position of the cluster below that size while its team lives, or a command window where the access may, and is illegal elsewhere; a global address outside the context’s window is a window fault; inside it, the page that the core’s TLB holds gives the physical bytes in order, or a permission fault where the access needs what the page does not grant. Of a command window a load or a store may touch the first 64 bytes at any aligned width, GO with 4 or 8 bytes and the word after it with 4, and every other form there is an illegal local address. Of the failures that one word meets in the threads of a team the strongest action is taken alone: an illegal use or a bad address ends the group with its class, a data error in a table stops the context, an uncorrectable granule ends the team; where every failure is one of translation, the team keeps their addresses in order, begins to be saved, and each such thread goes back to the slot of the word; where a stronger action is taken no address is kept and no save begins. That a translation which the core’s TLB holds is used as it is, is the model’s choice (log entry 67), and so is that the word acts in every thread where it does not fail before the failures take their action (log entry 83) (R91, R92, R94, R96, R97, R237, R261, R362, R380, R383, R386) -/
def Obligations.AddressRules : Prop :=
  (∀ (s : State) (id : Nat), s.failures id [] = s) ∧
  (∀ (s : State) (id r : Nat) (t : Team) (h : Thread), s.team? id = some t → t.thread? r = some h →
    s.failures id [(r, .illegal)] = s.groupAction t h 0x0102 (packetOf h.pc).toNat 0 ∧
    ∀ sub va, s.failures id [(r, .mem (.bad sub va))] = s.groupAction t h 0x0202 va sub ∧
      s.failures id [(r, .mem (.data va))] = s.stopAction (recOf t h 0x0203 7 va 0) ∧
      s.failures id [(r, .mem (.poison va))] = s.teamAction t (some h) 0x0203 va 0) ∧
  (∀ (s : State) (id : Nat) (fs : List (Nat × Fail)) (t : Team), s.team? id = some t → (∃ e ∈ fs, 0 < e.2.strength) →
    ∃ t', (s.failures id fs).team? id = some t' ∧ t'.standing = t.standing ∧ t'.faults = t.faults) ∧
  (∀ (s : State) (id : Nat) (vs : List (Nat × Nat × Nat)) (t : Team), s.team? id = some t → vs ≠ [] →
    (∀ e ∈ vs, ∃ h, t.thread? e.1 = some h ∧ h.exited = false) →
    ∃ t', (s.failures id (vs.map fun e => (e.1, Fail.mem (.xlate e.2.1 e.2.2)))).team? id = some t' ∧
      t'.faults = t.faults ++ vs.map (fun e => e.2) ∧ t'.mayResume = false ∧ t'.standing = (if t.standing = .resident then .saving else t.standing) ∧
      ∀ r h, t.thread? r = some h → t'.thread? r =
        some (if r ∈ vs.map (·.1) then { h with pc := resumeAt s.here s.slotNow, cont := false, snap := none } else h)) ∧
  (∀ a : Access, (∀ id c, a.space ≠ .window id c) → (Res.ok a).windowed = .ok a) ∧
  (∀ r : Res, (∀ a, r ≠ .ok a) → r.windowed = r) ∧
  (∀ (s : State) (t : Team) (a n : Nat), 0 < n → a % n = 0 → a / 2 ^ 32 = 0xFF0002 → a % 2 ^ 32 / 2 ^ 8 ≤ 4 →
    let p := a % 2 ^ 8
    let fits := p + n ≤ 0x40 ∨ (p = 0x40 ∧ (n = 4 ∨ n = 8)) ∨ (p = 0x44 ∧ n = 4)
    (fits → (s.resolve t a n 0 true).2.windowed =
      .ok { space := .window t.id (a % 2 ^ 32 / 2 ^ 8), bytes := (List.range n).map (p + ·), va := a, attr := noAttr }) ∧
    (¬ fits → (s.resolve t a n 0 true).2.windowed = .bad 2 a)) ∧
  ∀ (s : State) (t : Team) (a n need : Nat) (win : Bool), 0 < n → a < 2 ^ 56 →
    let off := a % 2 ^ 48
    let o := off % 2 ^ 32
    let sa := s.scratchSize t
    let run := fun (base : Nat) => (List.range n).map (base + ·)
    (a % n ≠ 0 → s.resolve t a n need win = (s, .bad 3 a)) ∧
    (a % n = 0 → a / 2 ^ 48 = 0xFF →
      (off / 2 ^ 32 = 0 → o + n ≤ sa → s.resolve t a n need win = (s, .ok { space := .scratch t.id, bytes := run o, va := a, attr := noAttr })) ∧
      (off / 2 ^ 32 = 0 → sa < o + n → s.resolve t a n need win = (s, .bad 2 a)) ∧
      (off / 2 ^ 32 = 1 → ∀ m, o % 2 ^ 20 + n ≤ sa → o / 2 ^ 20 < 12 → o / 2 ^ 20 < s.clusterSize t → s.mate? t (o / 2 ^ 20) = some m →
        ∃ at_, s.resolve t a n need win = (s, .ok { space := .scratch m.id, bytes := run (o % 2 ^ 20), va := a, attr := at_ })) ∧
      (off / 2 ^ 32 = 1 → (sa < o % 2 ^ 20 + n ∨ 12 ≤ o / 2 ^ 20 ∨ s.clusterSize t ≤ o / 2 ^ 20 ∨ s.mate? t (o / 2 ^ 20) = none) →
        s.resolve t a n need win = (s, .bad 2 a)) ∧
      (off / 2 ^ 32 = 2 → win = true → o / 2 ^ 8 ≤ 4 → o % 2 ^ 8 + n ≤ 0x48 →
        s.resolve t a n need win = (s, .ok { space := .window t.id (o / 2 ^ 8), bytes := run (o % 2 ^ 8), va := a, attr := noAttr })) ∧
      (off / 2 ^ 32 = 2 → (win = false ∨ 4 < o / 2 ^ 8 ∨ 0x48 < o % 2 ^ 8 + n) → s.resolve t a n need win = (s, .bad 2 a)) ∧
      (3 ≤ off / 2 ^ 32 → s.resolve t a n need win = (s, .bad 2 a))) ∧
    (a % n = 0 → a / 2 ^ 48 ≠ 0xFF → ∀ c, s.ctx? t.ctx = some c →
      ((a < c.heapBase ∨ c.heapBase + c.heapLim < a + n) → s.resolve t a n need win = (s, .bad 1 a)) ∧
      (c.heapBase ≤ a → a + n ≤ c.heapBase + c.heapLim → ∀ k e, s.core? t.die t.core = some k →
        k.tlb.find? (fun e => e.covers c.num ((a + c.heapOff) % 2 ^ 48)) = some e →
        (need = 0 ∨ (need = 1 ∧ e.attr.w = true) → s.resolve t a n need win = (s, .ok
          { space := .hbm, bytes := run (e.pa + ((a + c.heapOff) % 2 ^ 48 - e.wa)), va := a, attr := e.attr })) ∧
        (need = 1 → e.attr.w = false → ∃ lvl, s.resolve t a n need win = (s, .xlate a (32 + 4 * lvl + 1)))))

/-- A walk whose level-1 entry is valid and names a table, and whose level-2 entry is a leaf, gives the 32 MiB page of the leaf; one whose level-2 entry names a table gives the 64 KiB page of the level-3 leaf; an entry that is not valid is a fault of its level; tables and pages lie in the context’s ranges, taken together. That a page or a table must lie wholly in them is the model’s choice (log entry 26), and so is that the level-2 table that a level-1 entry points to need not begin at a multiple of its size (log entry 69) (R95, R96, R98, R350, R379) -/
def Obligations.PageTables : Prop :=
  (∀ (c : Context) (a n : Nat), c.owns a n = true ↔ ∀ b, a ≤ b → b < a + n → ∃ r ∈ c.ranges, r.1 ≤ b ∧ b < r.1 + r.2) ∧
  ∀ (s : State) (c : Context) (wa kind : Nat), wa < 2 ^ 48 → s.dev.badGranules = [] → s.dev.retiredHbm = [] →
    let entry := fun (tab idx : Nat) => leNat (getBytes s.mem (tab + 8 * idx) 8)
    let e1 := entry c.ptBase (wa / 2 ^ 39)
    let place := fun (e : Nat) => e / 2 ^ 16 * 2 ^ 16
    let good := fun (e size : Nat) => e < 2 ^ 48 ∧ e % 2 = 1 ∧ e / 4 % 4 = 0 ∧ e / 2 ^ 11 % 32 = 0 ∧ place e + size ≤ hbmSize ∧ c.owns (place e) size = true
    let leaf := fun (e : Nat) => e / 2 % 2 = 1 ∧ e / 64 % 8 ≤ 3 ∧ e / 2 ^ 9 % 2 = 0
    let attr := fun (e : Nat) => ({ scope := e / 64 % 8, red := false, bow := e / 2 ^ 10 % 2 == 1, w := e / 32 % 2 == 1, x := e / 16 % 2 == 1 } : PageAttr)
    (e1 % 2 = 0 → s.walk c wa kind 3 1 c.ptBase = .fault (4 + kind)) ∧
    (good e1 (2 ^ 17) → e1 / 2 % 2 = 0 →
      let e2 := entry (place e1) (wa / 2 ^ 25 % 2 ^ 14)
      (e2 % 2 = 0 → s.walk c wa kind 3 1 c.ptBase = .fault (8 + kind)) ∧
      (good e2 (2 ^ 25) → leaf e2 → e2 / 2 ^ 16 % 2 ^ 9 = 0 →
        s.walk c wa kind 3 1 c.ptBase = .ok { ctx := c.num, wa := wa / 2 ^ 25 * 2 ^ 25, pa := place e2, size := 2 ^ 25, attr := attr e2 }) ∧
      (good e2 (2 ^ 12) → e2 / 2 % 2 = 0 →
        let e3 := entry (place e2) (wa / 2 ^ 16 % 2 ^ 9)
        (e3 % 2 = 0 → s.walk c wa kind 3 1 c.ptBase = .fault (12 + kind)) ∧
        (good e3 (2 ^ 16) → leaf e3 →
          s.walk c wa kind 3 1 c.ptBase = .ok { ctx := c.num, wa := wa / 2 ^ 16 * 2 ^ 16, pa := place e3, size := 2 ^ 16, attr := attr e3 })))

/-- Every group-wide instruction completes: each executing lane arrives at the rendezvous of its packet, mask and parameter word with what it reads at issue, sets its flag, leaves the bundle and parks, with no register changed; a lane outside its own mask, a conflict, a slot other than the first, an odd P base or a reserved parameter bit ends the group; then the rendezvous of the team are brought up to date (R250, R251, R253, R364) -/
def Obligations.GroupWords : Prop :=
  ∀ (c : BitVec 1) (g : BitVec 3) (d a : BitVec 6) (u : BitVec 8),
    (EachThreadThenSettled (.pluckAt c g d a u) g (GroupTurn (.pluck 0) true d.toNat a.toNat u.toNat)) ∧
    (EachThreadThenSettled (.pluckBelow c g d a u) g (GroupTurn (.pluck 1) true d.toNat a.toNat u.toNat)) ∧
    (EachThreadThenSettled (.pluckAbove c g d a u) g (GroupTurn (.pluck 2) true d.toNat a.toNat u.toNat)) ∧
    (EachThreadThenSettled (.pluckFlip c g d a u) g (GroupTurn (.pluck 3) true d.toNat a.toNat u.toNat)) ∧
    (EachThreadThenSettled (.pollAll c g d a u) g (GroupTurn (.poll 0) false d.toNat a.toNat u.toNat)) ∧
    (EachThreadThenSettled (.pollAny c g d a u) g (GroupTurn (.poll 1) false d.toNat a.toNat u.toNat)) ∧
    (EachThreadThenSettled (.pollMask c g d a u) g (GroupTurn (.poll 2) false d.toNat a.toNat u.toNat)) ∧
    (EachThreadThenSettled (.pollSame c g d a u) g (GroupTurn (.poll 3) false d.toNat a.toNat u.toNat)) ∧
    (EachThreadThenSettled (.gredAddI32 c g d a u) g (GroupTurn (.gredI 0) false d.toNat a.toNat u.toNat)) ∧
    (EachThreadThenSettled (.gredMinI32 c g d a u) g (GroupTurn (.gredI 1) false d.toNat a.toNat u.toNat)) ∧
    (EachThreadThenSettled (.gredMaxI32 c g d a u) g (GroupTurn (.gredI 2) false d.toNat a.toNat u.toNat)) ∧
    (EachThreadThenSettled (.gredMaxiN32 c g d a u) g (GroupTurn (.gredI 3) false d.toNat a.toNat u.toNat)) ∧
    (EachThreadThenSettled (.gredAddF32 c g d a u) g (GroupTurn (.gredF 0) false d.toNat a.toNat u.toNat)) ∧
    (EachThreadThenSettled (.gredMinF32 c g d a u) g (GroupTurn (.gredF 1) false d.toNat a.toNat u.toNat)) ∧
    (EachThreadThenSettled (.gredMaxF32 c g d a u) g (GroupTurn (.gredF 2) false d.toNat a.toNat u.toNat)) ∧
    (EachThreadThenSettled (.gredMaxiF32 c g d a u) g (GroupTurn (.gredF 3) false d.toNat a.toNat u.toNat)) ∧
    (EachThreadThenSettled (.gscanAddI32 c g d a u) g (GroupTurn (.gscan 0) false d.toNat a.toNat u.toNat)) ∧
    (EachThreadThenSettled (.gscanAddXI32 c g d a u) g (GroupTurn (.gscan 1) false d.toNat a.toNat u.toNat)) ∧
    (EachThreadThenSettled (.gscanMaxI32 c g d a u) g (GroupTurn (.gscan 2) false d.toNat a.toNat u.toNat)) ∧
    (EachThreadThenSettled (.gcompact c g d a u) g (GroupTurn (.gscan 3) false d.toNat a.toNat u.toNat)) ∧
    (EachThreadThenSettled (.topk c g d a u) g (GroupTurn (.topk) true d.toNat a.toNat u.toNat)) ∧
    (EachThreadThenSettled (.gsync c g u) g (GroupTurn .gsync false 0 0 u.toNat))

/-- For the lanes of a rendezvous: a poll says whether all or some contributions are nonzero or names those that are; an integer reduction is the wrapping sum, the least or the greatest of the contributions; the floating-point sum is that of the tree, with rounding to nearest even at each node, and the least and the greatest are NaN where a contribution is and else the contribution with none below or above it, −0 below +0; a maxi form gives the greatest value, and of equal ones that with the smallest index, a NaN only where every contribution is; a scan is the sum or the greatest over the lanes up to or before its own; a compaction gives the count of true lanes before, with the total; a pluck takes the value of the lane it names where that is a member that lives, and reports whether it did (R253, R254, R255, R256, R252) -/
def Obligations.GroupResults : Prop :=
  ∀ (l : Lanes) (a : GroupArrival) (j : Nat), l.length = 32 → j < 32 → l.at_ j = some a →
    let val := fun (z : Word) (k : Nat) => (l.at_ k).elim z (·.a0)
    let idx := fun (k : Nat) => (l.at_ k).elim 0 (·.a1)
    let lives := fun (k : Nat) => (l.at_ k).isSome = true
    let nan := fun (x : Word) => (decF32 x).isNan = true
    let under := fun (x y : Word) => (decF32 x).below (decF32 y) = true
    let sum := fun (n : Nat) => ((List.range n).map (val 0)).sum
    let one := fun (op : GroupOp) (x : Word) => groupResult { a with op := op } j l = [.reg a.d x]
    let such := fun (op : GroupOp) (P : Word → Prop) => ∃ x, one op x ∧ P x
    such (.poll 0) (fun x => (x = 0 ∨ x = 1) ∧ (x = 1 ↔ ∀ k, lives k → val 0 k ≠ 0)) ∧
    such (.poll 1) (fun x => (x = 0 ∨ x = 1) ∧ (x = 1 ↔ ∃ k, lives k ∧ val 0 k ≠ 0)) ∧
    such (.poll 2) (fun x => ∀ k, k < 32 → (x.getLsbD k = true ↔ lives k ∧ val 0 k ≠ 0)) ∧
    such (.poll 3) (fun x => ∀ k, k < 32 → (x.getLsbD k = true ↔ lives k ∧ val 0 k = a.a0)) ∧
    one (.gredI 0) (sum 32) ∧
    (∃ k, lives k ∧ groupResult { a with op := .gredI 3 } j l = [.reg a.d (val 0 k), .reg (a.d + 1) (idx k)] ∧
      ∀ m, lives m → (val 0 m).toNat < (val 0 k).toNat ∨ (val 0 m = val 0 k ∧ (idx k).toNat ≤ (idx m).toNat)) ∧
    one (.gredF 0) (treeAt (fun x y => encF32 ((decF32 x).add .rne (decF32 y))) (val 0x80000000) 5 0) ∧
    such (.gredF 1) (fun x => ((∃ k, lives k ∧ nan (val 0 k)) → x = 0x7FC00000) ∧
      ((∀ k, lives k → ¬ nan (val 0 k)) → (∃ k, lives k ∧ val 0 k = x) ∧ ∀ k, lives k → ¬ under (val 0 k) x)) ∧
    such (.gredF 2) (fun x => ((∃ k, lives k ∧ nan (val 0 k)) → x = 0x7FC00000) ∧
      ((∀ k, lives k → ¬ nan (val 0 k)) → (∃ k, lives k ∧ val 0 k = x) ∧ ∀ k, lives k → ¬ under x (val 0 k))) ∧
    (∃ k, lives k ∧ (nan (val 0 k) → ∀ m, lives m → nan (val 0 m)) ∧
      groupResult { a with op := .gredF 3 } j l = [.reg a.d (if (decF32 (val 0 k)).isNan then 0x7FC00000 else val 0 k), .reg (a.d + 1) (idx k)] ∧
      ∀ m, lives m → ¬ under (val 0 k) (val 0 m) ∧
        ((nan (val 0 k) ∨ ¬ nan (val 0 m)) → ¬ under (val 0 m) (val 0 k) → (idx k).toNat ≤ (idx m).toNat)) ∧
    such (.gredI 1) (fun x => (∃ k, lives k ∧ val 0 k = x) ∧ ∀ k, lives k → x.toInt ≤ (val 0 k).toInt) ∧
    such (.gredI 2) (fun x => (∃ k, lives k ∧ val 0 k = x) ∧ ∀ k, lives k → (val 0 k).toInt ≤ x.toInt) ∧
    one (.gscan 0) (sum (j + 1)) ∧
    one (.gscan 1) (sum j) ∧
    such (.gscan 2) (fun x => (∃ k, k ≤ j ∧ lives k ∧ val 0 k = x) ∧ ∀ k, k ≤ j → lives k → (val 0 k).toInt ≤ x.toInt) ∧
    such (.gscan 3) (fun x => x.toNat = ((List.range j).filter (fun k => val 0 k != 0)).length + 2 ^ 16 * ((List.range 32).filter (fun k => val 0 k != 0)).length) ∧
    (∀ fn, fn < 4 →
      let m := a.param.toNat % 32
      let src := if fn = 0 then some (a.dOld.toNat % 32) else if fn = 1 then (if m ≤ j then some (j - m) else none)
        else if fn = 2 then (if j + m < 32 then some (j + m) else none) else some (j ^^^ m)
      ∃ x b, groupResult { a with op := .pluck fn } j l = [.reg a.d x, .pred (a.param.toNat / 2 ^ 8 % 8) b] ∧
        (∀ k ∈ src, a.mask.getLsbD k = true → x = val 0 k ∧ (b = true ↔ lives k)) ∧
        ((∀ k ∈ src, a.mask.getLsbD k = false) → x = a.a0 ∧ b = false)) ∧
    (∃ L : List (Word × Word), L.Perm (((List.range 32).filterMap l.at_).map fun e => (e.a0, e.a1)) ∧
      L.Pairwise (fun x y => y.1.toNat < x.1.toNat ∨ (x.1 = y.1 ∧ x.2.toNat ≤ y.2.toNat)) ∧
      let r := ((List.range j).filterMap l.at_).length
      let e := if r < a.param.toNat % 64 then L.getD r (0, 0xFFFFFFFF) else (0, 0xFFFFFFFF)
      groupResult { a with op := .topk } j l =
        [.reg a.d e.1, .reg (a.d + 1) e.2, .pred (a.param.toNat / 2 ^ 8 % 8) (decide (r < a.param.toNat % 64))])

/-- When every member lane of a group operation has arrived, has ended or does not exist, the rendezvous completes: each arrived lane’s thread takes the writes of its result and is released from its park, or, while a debugger holds it stopped, keeps them until it resumes, and no other thread, no other team and no byte of memory changes (R250, R251, R376) -/
def Obligations.RendezvousCompletes : Prop :=
  ∀ (s : State) (t : Team) (r : Nat) (h : Thread) (a : GroupArrival), s.team? t.id = some t → t.thread? r = some h → h.garr = some a →
    a.op ≠ .gsync → t.groupFull h a = true → (t.threads.map (·.lrank)).Nodup →
    let l := t.lanesOf h a
    ∃ t', s.OnlyTeam (s.settleGroup t.id r) t.id ∧ (s.settleGroup t.id r).team? t.id = some t' ∧ { t' with threads := t.threads } = t ∧
      (∀ j b x, j < 32 → l.at_ j = some b → t.laneOf h.frame h.group j = some x →
        ∃ x', t'.thread? x.lrank = some x' ∧ x'.garr = none ∧ x'.pc = x.pc ∧ x'.exited = x.exited ∧
          (x.stopped = false → x'.v = (x.writes (groupResult b j l)).v ∧ x'.preds = (x.writes (groupResult b j l)).preds ∧ x'.park = .none) ∧
          (x.stopped = true → x'.v = x.v ∧ x'.preds = x.preds ∧ x'.park = x.park ∧ x'.due = some ⟨0, groupResult b j l⟩)) ∧
      (∀ q, (∀ j b x, j < 32 → l.at_ j = some b → t.laneOf h.frame h.group j = some x → x.lrank ≠ q) → t'.thread? q = t.thread? q)

/-- PUSH puts its sixteen uniform words in flight as a command in its release part, tracked; obres writes a record that R271 admits into its handle and fails with sub-cause 5 on one that it does not, and obrel clears the handle, while the commands that the thread has on their way keep the record they were sent with; accrd reads and accwr and accadd write the entries that the register names, in order, within the team’s allocation, each failure taking its action; nothing else changes. Behind an acquire that has not ended these accesses are put in flight; that they are done at issue otherwise is the model’s choice (log entry 38), and so is the address 0 of sub-causes 4 and 5 (log entry 84) and that the scale registers of a PUSH are read at its issue (log entry 100) (R265, R271, R272, R273, R274, R275, R383, R386) -/
def Obligations.EngineWords : Prop :=
  ∀ (c : BitVec 1) (g p l : BitVec 3) (k : BitVec 4) (d a b : BitVec 6) (u : BitVec 8),
    (EachThread (.push c g p l u) g fun s t h w m => ∃ sc, s.Tracks m t h s.chained (.push l.toNat p.toNat true (w.commandBytes u.toNat 16) [] sc)) ∧
    (MayFail (.obres c g k u) g fun s t h w m f =>
      (recordOk (w.commandBytes u.toNat 8) (s.oaOf t) = true → f = none ∧ s.HandleSet m t h k.toNat (w.commandBytes u.toNat 8)) ∧
      (recordOk (w.commandBytes u.toNat 8) (s.oaOf t) = false → m = s ∧ f = some (.mem (.bad 5 0)))) ∧
    (EachThread (.obrel c g k) g fun s t h _ m => s.HandleSet m t h k.toNat (List.replicate 32 0)) ∧
    (MayFail (.accrd c g d a) g (AccReadTurn d.toNat a.toNat 1)) ∧
    (MayFail (.accrd128 c g d a) g (AccReadTurn d.toNat a.toNat 4)) ∧
    (MayFail (.accwr c g a b) g (AccWriteTurn a.toNat b.toNat 1 0 fun _ x => x)) ∧
    (MayFail (.accwr128 c g a b) g (AccWriteTurn a.toNat b.toNat 4 0 fun _ x => x)) ∧
    (MayFail (.accaddF32 c g a b) g (AccWriteTurn a.toNat b.toNat 1 1 fun x y => encF32 ((decF32 x).add .rne (decF32 y)))) ∧
    (MayFail (.accaddI32 c g a b) g (AccWriteTurn a.toNat b.toNat 1 2 fun x y => x + y))

/-- waitc, waitany and waitall complete in each executing thread by beginning a wait that holds the thread; ffr begins a tracked look for the lowest ready tag; an odd mask pair, an empty mask for waitany, or a tag that the team does not own ends the group. That the look at the tags’ owner waits while a PUSH of the thread is on its way is the model’s choice (log entry 35) (R125, R126, R270, R283) -/
def Obligations.EngineWaits : Prop :=
  ∀ (c : BitVec 1) (g l : BitVec 3) (n u : BitVec 8) (d : BitVec 6),
    (EachThread (.waitc g l n) g fun s t h _ m => s.SendsQuiet m t h .packet (.waitc l.toNat false n.toNat)) ∧
    (EachThread (.waitcCons g n) g fun s t h _ m => s.SendsQuiet m t h .packet (.waitc 1 true n.toNat)) ∧
    (EachThread (.waitany g u) g fun s t h w m => TagTurn true u.toNat (fun mask m => s.SendsQuiet m t h .packet (.waitTags false mask)) s t h w m) ∧
    (EachThread (.waitall g u) g fun s t h w m => TagTurn false u.toNat (fun mask m => s.SendsQuiet m t h .packet (.waitTags true mask)) s t h w m) ∧
    (EachThread (.ffr c g d u) g fun s t h w m => TagTurn false u.toNat (fun mask m => ∃ pc, s.Tracks m t h false (.ffr d.toNat mask pc)) s t h w m)

/-- Each control transfer acts in every thread of the bundle: bra goes to the packet that its count names where the predicate is 1 and to the next packet elsewhere; brx goes to a register address; calls push the next packet with its depth, storing the oldest of sixteen entries, and returns pop, filling an emptied stack; exit ends the thread, drops its loads and results and keeps its writes, and its commands on their way too, which is the model’s choice (log entry 35); an address out of line, an overflow or an underflow is an illegal use, whose action ends the group; nothing else changes, but for what a debugger’s stop of the ended thread held back (R181, R182, R183, R184, R185, R189, R363) -/
def Obligations.ControlTransfer : Prop :=
  ∀ (p : BitVec 3) (k : BitVec 1) (off : BitVec 21) (a : BitVec 6),
    (EachThreadThenSettled (.bra p k off) 7 fun s t h w m => s.Leaves m t h fun h' => ∃ mark,
      h' = { s.onward t h (if w.pred p.toNat = true then s.packetBy off else s.here + 16#56) with hintMark := mark }) ∧
    (MayFailThenSettled (.call off) 7 (CallTurn fun s _ => s.packetBy off)) ∧
    (MayFailThenSettled (.callx a) 7 (CallTurn fun _ w => BitVec.ofNat 56 (w.pair a.toNat).toNat)) ∧
    (MayFailThenSettled .ret 7 ReturnTurn) ∧
    (MayFailThenSettled (.brx a) 7 fun s t h w m f =>
      let dest := BitVec.ofNat 56 (w.pair a.toNat).toNat
      (dest.toNat % 16 ≠ 0 → m = s ∧ f = some .illegal) ∧
      (dest.toNat % 16 = 0 → f = none ∧ s.Leaves m t h fun h' => h' = s.onward t h dest)) ∧
    (EachThreadThenSettled .exit 7 fun s t h _ m =>
      m.bundle = s.bundle.map (·.without t.id h.lrank) ∧ m.others = s.others.map (·.without t.id h.lrank) ∧
      (∀ o, o ∈ m.ops ↔ o ∈ s.ops ∧ (¬ (o.team = t.id ∧ o.lrank = h.lrank) ∨ o.body.outlives = true)) ∧
      let ended := fun (h' : Thread) => h'.exited = true ∧ h'.park = .none ∧ h'.flags = 0 ∧ h'.garr = none ∧ h'.v = []
      (∃ t' h', m.team? t.id = some t' ∧ t'.thread? h.lrank = some h' ∧ ended h') ∧
      (h.stopped = false → (∀ x, s.dev.stepping ≠ some (t.id, h.lrank, x)) →
        { m with bundle := s.bundle, others := s.others, teams := s.teams, ops := s.ops } = s ∧ s.ThreadOnly m t h ended))

/-- Each synchronising word acts in every thread of the bundle: tcall parks it at its packet, the first to arrive with the fields of the call, and a later one at another packet noted; tret parks it until the join; a tutti arrives, with the accesses that its arrival waits for, and parks; its arrival form reads the phase and goes on, and its waiting form parks exactly while the phase is the one it holds; cbar, gbar and elect park where they are legal; bowwait parks unless the team holds the bow, and bowpass sends the bow on; nothing else changes (R120, R186, R187, R188, R190, R192, R193, R194, R195) -/
def Obligations.Synchronisation : Prop :=
  ∀ (sw se : BitVec 8) (k : BitVec 1) (mask : Word) (b : BitVec 2) (p : BitVec 3),
    (EachThreadThenSettled (.tcall sw se k mask) 7 fun s t h _ m =>
      let first := ∀ x ∈ t.threads, x.frame = h.frame → x.exited = false → x.waitsAt ≠ .tcall
      ∃ s1, s.Parks s1 t h .tcall s.here (fun _ => True) ∧
        (¬ first → m = s1.modFrame t.id h.frame fun f => { f with tcApart := f.tcApart || f.tcAt != s.here }) ∧
        (first → m = s1.modFrame t.id h.frame fun f => { f with tcOps := (sw.toNat, se.toNat, k == 1, mask), tcAt := s.here, tcApart := false })) ∧
    (EachThreadThenSettled .tret 7 fun s t h _ m =>
      (h.frame = 0 → m = s.groupAction t h 0x0102 (packetOf h.pc).toNat 0) ∧ (h.frame ≠ 0 → s.Parks m t h .tret s.here fun _ => True)) ∧
    (EachThreadThenSettled (.tutti b) 7 fun s t h _ m => s.ArrivesThen m t h b.toNat fun h' =>
      h'.park = .bar b.toNat ∧ h'.parkPhase = ((t.frame h.frame).bar b.toNat).phase ∧ h'.pc = s.here + 16#56 ∧ h'.v = h.v ∧ h'.preds = h.preds) ∧
    (EachThreadThenSettled (.tuttiArv b p) 7 fun s t h _ m => s.ArrivesThen m t h b.toNat fun h' =>
      h'.park = h.park ∧ h'.pc = s.here + 16#56 ∧ h'.v = h.v ∧
      h'.preds = setPred h.preds p.toNat ((t.frame h.frame).bar b.toNat).phase) ∧
    (EachThreadThenSettled (.tuttiWait b p) 7 fun s t h w m =>
      let bar := (t.frame h.frame).bar b.toNat
      (bar.phase = w.pred p.toNat → s.Parks m t h (.bar b.toNat) (s.here + 16#56) fun h' => h'.parkPhase = bar.phase) ∧
      (bar.phase ≠ w.pred p.toNat → s.Leaves m t h fun h' => h' = { s.onward t h (s.here + 16#56) with fh := max h.fh bar.relH, rh := max h.rh bar.relH })) ∧
    (EachThreadThenSettled .cbar 7 fun s t h _ m =>
      (h.frame ≠ 0 → m = s.groupAction t h 0x0103 (packetOf h.pc).toNat 0) ∧
      (h.frame = 0 → s.Parks m t h .cbar (s.here + 16#56) fun h' => h'.parkPhase = t.phaseC)) ∧
    (EachThreadThenSettled .gbar 7 fun s t h _ m =>
      let ens := ∃ d, s.desc? t = some d ∧ d.ens = true
      (h.frame ≠ 0 → m = s.groupAction t h 0x0103 (packetOf h.pc).toNat 0) ∧
      (h.frame = 0 → ¬ ens → m = s.groupAction t h 0x0102 (packetOf h.pc).toNat 0) ∧
      (h.frame = 0 → ens → s.Parks m t h .gbar (s.here + 16#56) fun h' => h'.parkPhase = t.phaseG)) ∧
    (EachThreadThenSettled (.elect p) 7 fun s t h _ m => s.Parks m t h .elect (s.here + 16#56) fun h' => h'.parkArg = p.toNat) ∧
    (EachThreadThenSettled .bowwait 7 fun s t h _ m =>
      (s.isDet t = false → s.Leaves m t h fun h' => h' = s.onward t h (s.here + 16#56)) ∧
      (∀ l, s.launch? t.launch = some l → l.desc.det = true →
        (l.bow.holder = t.teamId ∧ l.bow.moving = false →
          s.Leaves m t h fun h' => h' = { s.onward t h (s.here + 16#56) with fh := max h.fh l.bow.t, rh := max h.rh l.bow.t }) ∧
        (¬ (l.bow.holder = t.teamId ∧ l.bow.moving = false) → s.Parks m t h .bowwait (s.here + 16#56) fun _ => True))) ∧
    (EachThreadThenSettled .bowpass 7 fun s t h _ m =>
      ∃ s1, s1.Leaves m t h (fun h' => h' = s.onward t h (s.here + 16#56)) ∧ { s1 with launches := s.launches } = s ∧
        (∀ l, s.launch? t.launch = some l → l.desc.det = true → l.bow.holder = t.teamId → l.bow.moving = false →
          ∃ l', s1.launch? t.launch = some l' ∧ l'.bow.moving = true ∧ l'.bow.prev = t.id ∧ max l.bow.next h.fh = l'.bow.next) ∧
        (∀ l, s.launch? t.launch = some l → ¬ (l.desc.det = true ∧ l.bow.holder = t.teamId ∧ l.bow.moving = false) → s1 = s))

/-- setkey sets the key; trap and a brk outside a debug mode leave the thread to trap at its packet and resume at the next, and a brk in a debug mode stops it with its event; yield waits the clocks that it names or sets the mark alone; mfsr reads every system register as R63 to R66 give it, with the shadows of the 64-bit ones, mtsr writes PREC by R64 and clears MRGC where its bit is 1, and a write to any other register does nothing. That mfsr to a uniform register latches each thread’s own high half is the model’s choice (log entry 72) (R63, R64, R65, R66, R196, R197, R198, R199, R200) -/
def Obligations.KeysTrapsAndRegisters : Prop :=
  ∀ (c : BitVec 1) (k sr u : BitVec 8) (a d : BitVec 6) (x : BitVec 16) (n : BitVec 10),
    (EachThreadThenSettled (.setkeyImm k) 7 fun s t h _ m => s.Leaves m t h fun h' => h' = { s.onward t h (s.here + 16#56) with akey := k }) ∧
    (EachThreadThenSettled (.setkeyReg a) 7 fun s t h w m => s.Leaves m t h fun h' => h' = { s.onward t h (s.here + 16#56) with akey := BitVec.ofNat 8 (w.rd a.toNat).toNat }) ∧
    (EachThreadThenSettled (.trap x) 7 fun s t h _ m => s.Leaves m t h fun h' => ∃ i,
      h' = { h with pc := s.here + 16#56, cont := false, snap := none, trap := some i } ∧ i.cause = 4 ∧ i.packet = s.here ∧ i.resume = s.here + 16#56) ∧
    (EachThreadThenSettled (.brk x) 7 fun s t h _ m =>
      (s.debugMode t = 0 → s.Leaves m t h fun h' => ∃ i,
        h' = { h with pc := s.here + 16#56, cont := false, snap := none, trap := some i } ∧ i.cause = 5 ∧ i.packet = s.here ∧ i.resume = s.here + 16#56) ∧
      (s.debugMode t ≠ 0 → ∃ s1, s.Leaves s1 t h (fun h' => h' = s.onward t h (s.here + 16#56)) ∧ m = s1.debugStop t h.lrank 5 s.here)) ∧
    (EachThreadThenSettled (.yield n) 7 fun s t h _ m => s.Leaves m t h fun h' => h' = { s.onward t h (s.here + 16#56) with
      yieldAt := (if n = 0 then none else some (s.clock t.die t.core + n.toNat)), yieldMark := decide (n = 0) }) ∧
    (EachThread (.mfsrV c d sr) 7 fun s t h w m => ∃ x h1, s.SysRead t h w sr.toNat x h1 ∧ s.Turns m t h fun h' => h1.Sets h' d.toNat x) ∧
    ((∀ (s : State) (b : Bundle) (t : Team) (low : Thread), s.Issues b t → lowest b t = some low →
      ∃ x h1 m s', s.SysRead t low (t.view low) sr.toNat x h1 ∧
        InTurn (Guarded 7 fun s t h w m => ∃ y h1, s.SysRead t h w sr.toNat y h1 ∧ s.Turns m t h fun h' => h' = h1) b.team b.ranks s m ∧
        exec (.mfsrU c u sr) s = .next s' ∧ m.SendsQuiet s' t low .none (.uniform b.frame b.course b.ranks [(u.toNat, x)]))) ∧
    (EachThread (.mtsrV c a 0) 7 (PrecWriteTurn fun w => w.rd a.toNat)) ∧
    (EachThread (.mtsrU c 0 u) 7 (PrecWriteTurn fun w => w.u u.toNat)) ∧
    (EachThread (.mtsrV c a 1) 7 (MergedClearTurn fun w => w.rd a.toNat)) ∧
    (EachThread (.mtsrU c 1 u) 7 (MergedClearTurn fun w => w.u u.toNat)) ∧
    ((∀ (s : State), 2 ≤ sr.toNat → exec (.mtsrV c a sr) s = .next s ∧ exec (.mtsrU c sr u) s = .next s))

/-- A store that may be performed puts its bytes, and no others, where it reaches; an atomic puts the new value of R242 and keeps the old one for its thread; a RED puts the combination of R245; each takes a write time past the home’s GTIME and every lease granted on its lines, or one tick past the scratchpad’s core. A RED on a RED page changes no byte: it joins or makes its die’s partial value, at one tick past the die’s GTIME. A write of accumulator entries, or of a handle’s record, that an acquire held back is performed in the core. A host write, while a host module works, puts its bytes with the time of R121 and leaves a copy with the host, which a later write of the device recalls; one into the audit region does nothing (R104, R112, R116, R119, R121, R129, R242, R244, R245, R272, R275, R352) -/
def Obligations.WritesAtTheirHomes : Prop :=
  (∀ (s : State) (o : Op) (t : Team) (a : Access), s.op? o.id = some o → s.team? o.team = some t → s.mayPerform o = true → a.bytes ≠ [] →
      (a.space = .hbm → s.NoPartial a.bytes ∧ (1 ≤ a.attr.scope → a.attr.scope ≤ 3 →
        ∀ p ∈ a.bytes, (s.lineMeta (lineOf p)).lease ≤ s.gtime (homeDie p) + s.leaseLen t.ctx a.attr.scope)) →
      (∀ id c, a.space = .window id c → (s.team? id).isSome = true) →
      (∀ id, a.space = .scratch id → ∃ u, s.team? id = some u ∧ u.standing ≠ .ended) →
      (∀ data l1, o.body = .store a data false l1 →
        ∃ s' time, exec (.storeAtHome o.id) s = .next s' ∧ s.Puts s' a data time ∧ s'.OpBecomes o (.written time)) ∧
      (∀ f x y d acq bs w, o.body = .atomic f a x y d acq false → f ≤ 13 → a.bytes.length = (if f ≤ 9 then 4 else 8) → s.Holds a bs w →
        ∃ s' time, exec (.atomicAtHome o.id) s = .next s' ∧
          s.Puts s' a (toLe a.bytes.length (atomicValue f (leNat bs) x.toNat y.toNat)) time ∧
          s'.OpBecomes o (.atomicDone d (decide (10 ≤ f)) (BitVec.ofNat 64 (leNat bs)) acq w time)) ∧
      (∀ rop x bs w, o.body = .red rop a x → rop ≤ 10 → a.bytes.length = redWidth rop → (a.space = .hbm → a.attr.red = false) → s.Holds a bs w →
        ∃ s' time v, exec (.atomicAtHome o.id) s = .next s' ∧ RedGives rop (BitVec.ofNat 64 (leNat bs)) x v ∧
          s.Puts s' a (toLe a.bytes.length v.toNat) time ∧ s'.OpBecomes o (.written time))) ∧
    (∀ (s : State) (o : Op) (t : Team) (h : Thread), s.InFlight o t h → s.mayPerform o = true → t.standing ≠ .ended →
      (∀ how e xs, o.body = .accWrite how e xs → ¬ (how ≠ 0 ∧ s.AccPoisoned t e xs.length) →
        let new := fun (x y : Word) => if how = 1 then encF32 ((decF32 x).add .rne (decF32 y)) else if how = 2 then x + y else y
        ∃ m t', exec (.storeAtHome o.id) s = .next m ∧ m.OpBecomes o (.written (s.gtime t.die + 1)) ∧
          { m with teams := s.teams, launches := s.launches, ops := s.ops } = s ∧ (∀ j, j ≠ t.id → m.team? j = s.team? j) ∧
          m.team? t.id = some t' ∧ { t' with acc := t.acc } = t ∧
          ∀ k, cget t'.acc k = if e ≤ k ∧ k < e + xs.length then new (cget t.acc k) (xs.getD (k - e) 0) else cget t.acc k) ∧
      ∀ k bytes, o.body = .handle k bytes → bytes.length = 32 →
        ∃ s1 t1 m, exec (.storeAtHome o.id) s = .next (m.settle t.id) ∧ s.HandleIs s1 t h.lrank k o.id bytes ∧ s1.team? t.id = some t1 ∧
          s1.OpEnds m t1 h o fun h' => h' = h) ∧
    (∀ (s : State) (o : Op) (t : Team) (a : Access) (rop : Nat) (x : Dword), s.op? o.id = some o → s.team? o.team = some t →
      s.mayPerform o = true → o.body = .red rop a x → a.space = .hbm → a.attr.red = true → rop ≤ 10 →
      let pa := a.bytes.headD 0
      let here := fun (p : Partial) => p.die = t.die ∧ p.pa = pa
      (∀ p ∈ s.partials, p.touches ((List.range (redWidth rop)).map (pa + ·)) = true → p.pa = pa ∧ p.width = redWidth rop ∧ p.rop = rop) →
      ∃ s', exec (.redAtDieL2 o.id) s = .next s' ∧ s'.mem = s.mem ∧ s'.teams = s.teams ∧ s'.OpBecomes o (.written (s.gtime t.die + 1)) ∧
        (∀ p, ¬ here p → (p ∈ s'.partials ↔ p ∈ s.partials)) ∧
        ((∀ p ∈ s.partials, ¬ here p) → ∃ p ∈ s'.partials, here p ∧ p.rop = rop ∧ p.width = redWidth rop ∧ p.value = x) ∧
        (∀ p ∈ s.partials, here p → ∃ v, { p with value := v } ∈ s'.partials ∧ RedGives rop p.value x v)) ∧
    (∀ (s : State) (pa : Nat) (data : List Byte), pa < 2 ^ 28 → exec (.hostCxlWrite pa data) s = .next s) ∧
    (∀ (s : State) (pa : Nat) (data : List Byte), 2 ^ 28 ≤ pa → pa + data.length ≤ hbmSize → s.NoPartial ((List.range data.length).map (pa + ·)) →
      (s.dev.hosted = false → exec (.hostCxlWrite pa data) s = .next s) ∧
      (s.dev.hosted = true → ∃ s', exec (.hostCxlWrite pa data) s = .next s' ∧ { s' with mem := s.mem, lines := s.lines, dev := s.dev } = s ∧
        (∀ i, cget s'.mem i = if pa ≤ i ∧ i < pa + data.length then data.getD (i - pa) 0 else cget s.mem i) ∧
        ∀ i, i < data.length → s.gtime (homeDie (pa + i)) + 1 ≤ (s'.lineMeta (lineOf (pa + i))).w ∧
          (s'.lineMeta (lineOf (pa + i))).host = true))

/-- When a load’s data is there, its registers take the bytes, little-endian, an acquire raises RH to their write time, an XF element that was read as a whole, or word by word, is written as it is or rounded, a stream form moves its pair past the words, a window past the allocation and an exhausted precision trap, and a fill of the return stack restores its entry; a tracked result writes its registers; while registers are named, those alone take their values and the operation stays in flight; a uniform write that its course issued before no other completes in its frame; an atomic returns the old value and raises FH to its time, also to a thread that has ended; FFR returns the lowest ready tag and acquires its commands; a read of accumulator entries that an acquire held back takes them as they stand; a returned write raises FH; then the flag clears by R159. Nothing else changes (R28, R67, R68, R80, R116, R117, R119, R126, R159, R189, R238, R248) -/
def Obligations.Completions : Prop :=
  ∀ (s : State) (o : Op) (t : Team) (h : Thread), s.InFlight o t h →
    let ends := fun (ev : Instr) (R : Thread → Prop) => ∃ m, exec ev s = .next (m.settle t.id) ∧ s.OpEnds m t h o R
    (∀ time, o.body = .written time → ends (.writeCompletionReturn o.id) fun h' => h' = { h with fh := max h.fh time }) ∧
    (∀ d wide old acq w time, o.body = .atomicDone d wide old acq w time → h.exited = true → ends (.trackedOpCompletion ⟨o.id, []⟩) fun h' =>
      h' = { h with fh := max h.fh time, rh := if acq then max h.rh w else h.rh }) ∧
    (∀ f crs rs ws, o.body = .uniform f crs rs ws → f < t.frames.length → (ws.map (·.1)).Nodup → (∀ e ∈ ws, e.1 < 256) →
      (∀ x ∈ s.ops, x.team = o.team → ∀ f' rs' ws', x.body = .uniform f' crs rs' ws' → x = o ∨ o.id < x.id) →
      ∃ m, exec (.trackedOpCompletion ⟨o.id, []⟩) s = .next (m.settle t.id) ∧ s.UniformLands m t o f ws) ∧
    (∀ i, o.body = .trapping i → ∃ s1 t1 h1 m, exec (.trackedOpCompletion ⟨o.id, []⟩) s = .next (m.settle t.id) ∧ s.OpEnds s1 t h o (fun h' => h' = h) ∧
      s1.team? t.id = some t1 ∧ t1.thread? h.lrank = some h1 ∧
      s1.Leaves m t1 h1 fun h' => h' = { h1 with pc := i.resume, cont := false, snap := none, trap := some i }) ∧
    (h.exited = false →
    (∀ ws xuf, o.body = .result ws xuf → ends (.trackedOpCompletion ⟨o.id, []⟩) fun h' =>
      h' = { h.writes ws with prec := if xuf then h.prec ||| 0x1000 else h.prec }) ∧
    (∀ part ws xuf, part ≠ [] → o.body = .result ws xuf → ∃ m, exec (.trackedOpCompletion ⟨o.id, part⟩) s = .next m ∧ s.Turns m t h fun h' =>
      (∀ i, h'.rd i = if i ∈ part then (h.writes ws).rd i else h.rd i) ∧ { h' with v := h.v } = h) ∧
    (∀ part n d st a acq got i bs w, part ≠ [] → o.body = .load (.plain n) d st a acq got i → s.Arrives t h o a got bs w →
      ∃ m, exec (.loadCompletion ⟨o.id, part⟩) s = .next m ∧ m.OpBecomes o (.load (.plain n) d st a acq (some (bs, w)) i) ∧
        s.Turns { m with ops := s.ops } t h fun h' => { h' with v := h.v } = h ∧
          ∀ k, h'.rd k = if k ∈ part ∧ d ≤ k ∧ k < d + (wordsOf bs).length then (wordsOf bs).getD (k - d) 0 else h.rd k) ∧
    (∀ d wide old acq w time, o.body = .atomicDone d wide old acq w time → ends (.trackedOpCompletion ⟨o.id, []⟩) fun h' =>
      ({ h with fh := max h.fh time, rh := if acq then max h.rh w else h.rh }).SetsRun h' d
        (if wide then [old.extractLsb' 0 32, old.extractLsb' 32 32] else [old.extractLsb' 0 32])) ∧
    (∀ d mask pc c, o.body = .ffr d mask pc → s.core? t.die t.core = some c → s.pushing o = false → mask &&& ~~~t.tags = 0 → 2 ≤ s.gtime t.die →
      let ready := fun (j : Nat) => (mask &&& c.tagrdy).getLsbD j = true
      (∀ j, j < 64 → ready j → (∀ k, k < j → ¬ ready k) → c.tagsTc [j] + 2 ≤ s.gtime t.die → ends (.trackedOpCompletion ⟨o.id, []⟩) fun h' =>
        ({ h with fh := max h.fh (c.tagsTc [j]), rh := max h.rh (c.tagsTc [j]) }).Sets h' d (BitVec.ofNat 32 j)) ∧
      (mask &&& c.tagrdy = 0 → ends (.trackedOpCompletion ⟨o.id, []⟩) fun h' => h.Sets h' d 64)) ∧
    let element := fun (kind : LoadKind) (d : Nat) (st : Option Nat) (va : Nat) (ws : List Word) (i : TrapInfo) =>
      let n := xfLen (ws.getD 0 0)
      let advanced := fun (h1 h' : Thread) => match st with
        | none => h' = h1
        | some p => h1.SetsPair h' p (BitVec.ofNat 64 ((va + 4 * n) % 2 ^ 56))
      let traps := fun (cause : Nat) => ∃ s1 t1 h1 m i', exec (.loadCompletion ⟨o.id, []⟩) s = .next (m.settle t.id) ∧
        s.OpEnds s1 t h o (fun h' => h' = h) ∧ s1.team? t.id = some t1 ∧ t1.thread? h.lrank = some h1 ∧ i'.cause = cause ∧ i'.packet = i.packet ∧
        s1.Leaves m t1 h1 fun h' => h' = { h1 with pc := i'.resume, cont := false, snap := none, trap := some i' }
      n ≤ ws.length → match kind with
        | .xf => (d + n ≤ h.nreg → ends (.loadCompletion ⟨o.id, []⟩) fun h' => ∃ h1, h.SetsRun h1 d (ws.take n) ∧ advanced h1 h') ∧
            (h.nreg < d + n → traps 3)
        | .xfRound prec =>
            let x := xfWrite prec (xfVal (ws.take n))
            (d + x.words.length ≤ h.nreg → (x.exhausted && precX prec) = false → ends (.loadCompletion ⟨o.id, []⟩) fun h' =>
              ∃ h1, ({ h with prec := if x.xuf then h.prec ||| 0x1000 else h.prec }).SetsRun h1 d x.words ∧ advanced h1 h') ∧
            (h.nreg < d + x.words.length → traps 3) ∧
            (d + x.words.length ≤ h.nreg → (x.exhausted && precX prec) = true → traps 1)
        | _ => True
    (∀ kind d st va ws i, o.body = .gather kind d st va ws i → (kind = .xf ∨ ∃ prec, kind = .xfRound prec) →
      (none ∈ ws → exec (.loadCompletion ⟨o.id, []⟩) s = .next s) ∧ (none ∉ ws → element kind d st va (ws.filterMap id) i)) ∧
    (∀ d e n, o.body = .accRead d e n → s.mayPerform o = true → ¬ s.AccPoisoned t e n →
      ends (.trackedOpCompletion ⟨o.id, []⟩) fun h' => h.SetsRun h' d ((List.range n).map fun k => cget t.acc (e + k))) ∧
    (∀ kind d st a acq got i bs w, o.body = .load kind d st a acq got i → s.Arrives t h o a got bs w →
      let acquired : Thread := { h with rh := if acq then max h.rh w else h.rh }
      match kind with
      | .plain _ => ends (.loadCompletion ⟨o.id, []⟩) fun h' => acquired.SetsRun h' d (wordsOf bs)
      | .half0 => ends (.loadCompletion ⟨o.id, []⟩) fun h' => acquired.Sets h' d ((h.rd d).extractLsb' 16 16 ++ BitVec.ofNat 16 (leNat bs))
      | .half1 => ends (.loadCompletion ⟨o.id, []⟩) fun h' => acquired.Sets h' d (BitVec.ofNat 16 (leNat bs) ++ (h.rd d).extractLsb' 0 16)
      | .fill => ends (.loadCompletion ⟨o.id, []⟩) fun h' => h' = { h with rstack := BitVec.ofNat 64 (leNat bs) :: h.rstack }
      | .word g j => ∀ og k0 d0 st0 va0 ws0 i0, s.op? g = some og → og.body = .gather k0 d0 st0 va0 ws0 i0 → j < ws0.length →
          ∃ (s1 : State) (ws1 : List (Option Word)) (m : State), exec (.loadCompletion ⟨o.id, []⟩) s = .next (m.settle t.id) ∧ { s1 with ops := s.ops } = s ∧
            s1.OpBecomes og (.gather k0 d0 st0 va0 ws1 i0) ∧ ws1.length = ws0.length ∧
            (∀ q, ws1[q]? = if q = j then some (some (BitVec.ofNat 32 (leNat bs))) else ws0[q]?) ∧ s1.OpEnds m t h o fun h' => h' = h
      | k => element k d st a.va (wordsOf bs) i))

/-- A fill of a load’s line gives the load the home’s bytes with the line’s write time, and, where no atomic or RED of the core to the line is still to be performed, leaves in the L1 a copy with every word of the home, the stamp of the grant and its lease, which the home records; a prefetch into L2 ends without a copy; a copy whose lease has ended becomes invalid, and no other does; a walk puts its translation into both TLBs, or changes nothing where it fails; a granule that fails, or that has raised CORR, is spared, the failing one listed, and its 64 KiB retired when no spare is left. That the grant of a lease and the arrival of its fill are one step is the model’s choice (log entry 21), and so is that a walk fills both TLBs (log entry 67) (R95, R97, R104, R115, R117, R246, R355, R404) -/
def Obligations.LinesAndPages : Prop :=
  (∀ (s : State) (o : Op) (t : Team) (kind : LoadKind) (d : Nat) (st : Option Nat) (a : Access) (acq : Bool) (i : TrapInfo) (c : Core) (line : Nat)
        (out : List Nat), s.op? o.id = some o → s.team? o.team = some t → o.body = .load kind d st a acq none i → a.space = .hbm →
      a.attr.scope ≤ 3 → a.attr.red = false → s.mayPerform o = true → a.bytes ≠ [] → (∀ p ∈ a.bytes, lineOf p = line) →
      let all := (List.range 128).map (128 * line + ·)
      let g := s.gtime (homeDie (128 * line))
      let len := s.leaseLen t.ctx a.attr.scope
      s.NoPartial all → s.poisoned all = false → s.keptWords t line = [] → s.fillWaits t o line = false → s.core? t.die t.core = some c →
      (∀ e ∈ s.ops, s.sameCore e.team t.id = true → ∀ x, ((∃ fn y z d q gate, e.body = .atomic fn x y z d q gate) ∨ ∃ rop y, e.body = .red rop x y) →
        x.space = .hbm → ∀ p ∈ x.bytes, lineOf p ≠ line) →
      (1 ≤ a.attr.scope → (s.lineMeta line).lease ≤ g + len) → g ≤ s.gtime t.die + 2 →
      ∃ s' c' l, exec (.l1Fill o.id out) s = .next s' ∧ s'.mem = s.mem ∧ s'.teams = s.teams ∧
        s'.OpBecomes o (.load kind d st a acq (some (getAt s.mem a.bytes, (s.lineMeta line).w)) i) ∧
        s'.core? t.die t.core = some c' ∧ c'.l1.find? (fun x => x.line == line) = some l ∧ l.stamp = g ∧ l.w = (s.lineMeta line).w ∧
        l.lease = (if a.attr.scope = 0 then none else some (g + len)) ∧ (1 ≤ a.attr.scope → (s'.lineMeta line).lease = g + len) ∧
        ∀ k, k < 32 → l.word? k = some (BitVec.ofNat 32 (leNat (getBytes s.mem (128 * line + 4 * k) 4)))) ∧
    (∀ (s : State) (o : Op) (t : Team) (h : Thread) (a : Access) (out : List Nat), s.InFlight o t h → o.body = .prefetch a true →
      (∀ p ∈ a.bytes, s.fillWaits t o (lineOf p) = false) → ∃ s', exec (.l1Fill o.id out) s = .next s' ∧ s.OpEnds s' t h o fun h' => h' = h) ∧
    (∀ (s : State) (die core line : Nat), ∃ s', exec (.leaseExpiry die core line) s = .next s' ∧
      s.OnlyCore s' die core fun c c' => { c' with l1 := c.l1 } = c ∧
        ∀ l, l ∈ c'.l1 ↔ l ∈ c.l1 ∧ ¬ (l.line = line ∧ ∃ e, l.lease = some e ∧ 0 < e ∧ e ≤ s.gtime die)) ∧
    (∀ (s : State) (die core ctx va : Nat) (c : Context) (k : Core), s.ctx? ctx = some c → c.inWindow va 1 = true → s.core? die core = some k →
      let wa := c.windowAddr va
      (∀ e ∈ k.tlb, e.covers c.num wa = false) → (∀ x ∈ s.dtlb, x.1 = die → x.2.covers c.num wa = false) →
      (∀ e, s.walk c wa 0 3 1 c.ptBase = .ok e → ∃ s' k', exec (.pageWalk die core ctx va) s = .next s' ∧
        { s' with dtlb := s.dtlb, cores := s.cores } = s ∧ (die, e) ∈ s'.dtlb ∧ s'.core? die core = some k' ∧ e ∈ k'.tlb) ∧
      (∀ f, s.walk c wa 0 3 1 c.ptBase = .fault f → exec (.pageWalk die core ctx va) s = .next s)) ∧
    (∀ (s : State) (pa : Nat) (corr spare : Bool), pa < hbmSize →
      (corr = true → pa / 32 ∉ s.dev.worn → exec (.hbmSpare pa corr spare) s = .next s) ∧
      ((corr = true → pa / 32 ∈ s.dev.worn) → ∃ s', exec (.hbmSpare pa corr spare) s = .next s' ∧
        (∀ r, r ∈ s'.dev.retiredHbm ↔ r ∈ s.dev.retiredHbm ∨ (spare = false ∧ r = pa / 2 ^ 16)) ∧
        (∀ g, g ∈ s'.dev.worn ↔ g ∈ s.dev.worn ∧ ¬ (corr = true ∧ g = pa / 32)) ∧
        (s.dev.ring = none → ∀ g, 2 ^ 28 ≤ 32 * g → (g ∈ s'.dev.badGranules ↔ g ∈ s.dev.badGranules ∨ (corr = false ∧ g = pa / 32))) ∧
        (s.LogRoom → s.dev.audit.seq < s'.dev.audit.seq)))

/-- A fence or release part ends once the thread’s earlier accesses are done and GTIME reaches FH + 2, an acquiring one raises RH to GTIME + 3; a counter or tag wait ends once its condition and its horizon hold, acquiring the completion times; a command is accepted when its class has room, with the handle records that it was sent with, raising FH one tick past the core’s GTIME where a GO sent it, completes in order with its status word last, lowers its counters and frees its tag, and its notify counter rises at its home from GTIME Tc + 2; a matrix command lowers its operands-consumed counter once. Until then nothing changes. That WAITANY acquires the commands of every tag that is ready is the model’s choice (log entry 96) (R110, R118, R119, R122, R123, R124, R125, R126, R127, R262, R267, R281) -/
def Obligations.WaitsAndCommands : Prop :=
  (∀ (s : State) (o : Op) (t : Team) (h : Thread), s.InFlight o t h →
      let ev : Instr := .stallingWaitEnd o.id
      let g := s.gtime t.die
      let ends := fun (ev : Instr) (R : Thread → Prop) => ∃ m, exec ev s = .next (m.settle t.id) ∧ s.OpEnds m t h o R
      let returned := ∀ e ∈ s.earlier o, e.body.unreturned = false
      let released := returned ∧ h.fh + 2 ≤ g
      let becomes := fun (ev : Instr) (b : OpBody) => ∃ s', exec ev s = .next s' ∧ { s' with ops := s.ops } = s ∧ s'.OpBecomes o b
      let f := t.frame h.frame
      (o.body = .fence 0 → (released → ends ev fun h' => h' = { h with rh := max h.rh (g + 3) }) ∧ (¬ released → exec ev s = .next s)) ∧
      (o.body = .fence 1 → (∀ e ∈ s.earlier o, e.body.isLoad = false) → ends ev fun h' => h' = { h with rh := max h.rh (g + 3) }) ∧
      (o.body = .fence 2 → (released → ends ev fun h' => h' = h) ∧ (¬ released → exec ev s = .next s)) ∧
      (∀ a data l1, o.body = .store a data true l1 → (released → becomes ev (.store a data false l1)) ∧ (¬ released → exec ev s = .next s)) ∧
      (∀ fn a x y d acq, o.body = .atomic fn a x y d acq true →
        (released → becomes ev (.atomic fn a x y d acq false)) ∧ (¬ released → exec ev s = .next s)) ∧
      (∀ c n b sc, o.body = .go c true n b sc → s.pushing o = false →
        (released → becomes ev (.go c false n b sc)) ∧ (¬ released → exec ev s = .next s)) ∧
      (∀ c b sc, o.body = .go c false false b sc → s.mayPerform o = true → h.stopped = false →
        ∃ sc', becomes (.commandGo o.id) (.go c false true b sc')) ∧
      (∀ c gate b sc, o.body = .go c gate true b sc → c ≤ 4 → o.frame < t.frames.length → s.canAccept t o.frame c = true → h.stopped = false →
        ∃ s1 t1 m, exec (.commandAcceptance o.id) s = .next (m.settle t.id) ∧ s.Accepts s1 t { h with frame := o.frame } c (t.window c) b sc ∧
          s1.team? t.id = some t1 ∧ s1.OpEnds m t1 h o fun h' => h' = { h with fh := max h.fh (g + 1) }) ∧
      (∀ c pd cmd recs sc, o.body = .push c pd true cmd recs sc → c ≤ 4 → pd < 7 → o.frame < t.frames.length → s.pushing o = false → released →
        (s.canAccept t o.frame c = true → ∃ s1 t1 m, exec ev s = .next (m.settle t.id) ∧ s.Accepts s1 t { h with frame := o.frame } c cmd recs sc ∧
          s1.team? t.id = some t1 ∧ s1.OpEnds m t1 h o fun h' => h.SetsPred h' pd true) ∧
        (s.canAccept t o.frame c = false → ends ev fun h' => h.SetsPred h' pd false)) ∧
      (∀ c n, o.body = .waitc c false n → s.pushing o = false → f.cnt.of c false ≤ n → f.tcs.getD c 0 + 2 ≤ g →
        ends ev fun h' => h' = { h with fh := max h.fh (f.tcs.getD c 0), rh := max h.rh (f.tcs.getD c 0) }) ∧
      (∀ n, o.body = .waitc 1 true n → s.pushing o = false → f.cnt.matO ≤ n → ends ev fun h' => h' = h) ∧
      (∀ c cons n, o.body = .waitc c cons n → n < f.cnt.of c cons → exec ev s = .next s) ∧
      (∀ all mask c, o.body = .waitTags all mask → s.core? t.die t.core = some c → s.pushing o = false → mask &&& ~~~t.tags = 0 →
        let ready := mask &&& c.tagrdy
        let hz := c.tagsTc ((List.range 64).filter ready.getLsbD)
        (if all then ready = mask else ready ≠ 0) → hz + 2 ≤ g → ends ev fun h' => h' = { h with fh := max h.fh hz, rh := max h.rh hz })) ∧
    (∀ (s : State) (c : Cmd) (t : Team), s.cmd? c.id = some c → s.team? c.team = some t → c.cls ≤ 4 →
      let turn := (∀ d ∈ s.cmds, d.id < c.id → d.team = c.team → d.cls = c.cls → d.state = .completed) ∧ (c.cls = 1 → c.consumed = true) ∧
        (c.cls = 3 → c.tc + 2 ≤ s.gtime (s.cmdHome c t c.staddr))
      let leased := fun (s : State) (a : Access) => a.space = .hbm → s.NoPartial a.bytes ∧ (1 ≤ a.attr.scope → a.attr.scope ≤ 3 →
        ∀ p ∈ a.bytes, (s.lineMeta (lineOf p)).lease ≤ s.gtime (homeDie p) + s.leaseLen t.ctx a.attr.scope)
      (c.state = .performed → turn → t.standing ≠ .saved → c.st = false →
        ∃ m, exec (.commandCompletion c.id) s = .next (m.settle t.id) ∧ s.Completes m c c.tc) ∧
      (c.state = .performed → turn → t.standing ≠ .saved → c.st = true → c.stBad = false → ∀ s1 a,
        s.engineRes c t c.staddr 8 1 8 = (s1, .ok a) → s1.away t.id a = false → leased s1 a →
        ∃ s2 m time, exec (.commandCompletion c.id) s = .next (m.settle t.id) ∧
          s1.Puts s2 a (toLe 2 (if c.code = 0 ∧ 2 ^ 32 ≤ c.count then 1 else c.code) ++ toLe 2 c.detail ++ toLe 4 (min c.count (2 ^ 32 - 1))) time ∧
          s2.Completes m c (max c.tc time)) ∧
      (c.state ≠ .performed → c.state ≠ .queued → exec (.commandCompletion c.id) s = .next s) ∧
      (c.state = .completed → c.notify = true → (s.launch? t.launch).isSome = true → ∀ s1 a bs w, s.engineRes c t (c.staddr + 8) 8 1 8 = (s1, .ok a) → s1.away t.id a = false →
        s1.Holds a bs w → leased s1 a → bs.length = 8 → c.tc + 2 ≤ s.gtime (if a.space = .hbm then homeDie (a.bytes.headD 0) else t.die) →
        ∃ (s2 m : State) (time : Nat), exec (.notifyRelease c.id) s = .next (m.settle t.id) ∧ s1.Puts s2 a (toLe 8 ((leNat bs + 1) % 2 ^ 64)) time ∧
          { m with cmds := s2.cmds, launches := s2.launches } = s2 ∧ ∀ d, d ∈ m.cmds ↔ d ∈ s.cmds ∧ d.id ≠ c.id) ∧
      (c.cls = 1 → c.state = .performed → c.consumed = false →
        (∀ d ∈ s.cmds, d.id < c.id → d.team = c.team → d.cls = c.cls → d.consumed = true) → c.frame < t.frames.length →
        ∃ s' t', exec (.mmaOperandsConsumed c.id) s = .next s' ∧ { s' with cmds := s.cmds, teams := s.teams } = s ∧
          s'.cmd? c.id = some { c with consumed := true } ∧ s'.team? c.team = some t' ∧ { t' with frames := t.frames } = t ∧
          (∀ k, k ≠ c.frame → t'.frame k = t.frame k) ∧
          ∃ n, t'.frame c.frame = { t.frame c.frame with cnt := { (t.frame c.frame).cnt with matO := n } } ∧ n = (t.frame c.frame).cnt.matO - 1))

/-- When everything that the thread issued before has completed, its uniform writes with it, a trap is entered: the vector is read from the cause’s uniform pair; an uncorrectable register of the pair ends the team; where it is 0 the group ends with the class of the cause, or the thread stops in a debug mode; where it is out of line the group ends; else, with room in the local area, the record of R371 is stored at its end, the resume point is pushed with its depth, a full stack’s oldest entry being stored first, and the thread goes to the handler, ready from then on; the entry waits while its core’s request table has no entry for its stores; a store that does not translate saves the team with the trap pending and nothing stored, and a spill that fails otherwise ends the group with the record stored. No register, predicate, flag or PREC changes, and no other thread (R106, R139, R184, R368, R369, R370, R371, R380, R386) -/
def Obligations.TrapEntry : Prop :=
  ∀ (s0 : State) (t0 : Team) (h : Thread) (i : TrapInfo), s0.team? t0.id = some t0 → t0.thread? h.lrank = some h → h.trap = some i →
    h.exited = false → h.stopped = false → h.stepOne = false → h.flags = 0 → h.garr = none → h.park = .none → t0.standing = .resident →
    (∀ b ∈ s0.bundle.toList ++ s0.others, b.team = t0.id → h.lrank ∉ b.ranks) →
    (∀ o ∈ s0.ops, o.team = t0.id → o.lrank = h.lrank → o.hold = .none ∧ o.body.completes = false) →
    (s0.tableFull t0.die t0.core (s0.trapSectors t0 h) = true → exec (.trapEntry t0.id h.lrank) s0 = .next s0) ∧
    (s0.tableFull t0.die t0.core (s0.trapSectors t0 h) = false →
    let s := s0.publish t0.id (byRanks [h.lrank])
    ∀ t, s.team? t0.id = some t →
    let u := if i.cause = 1 then 248 else if i.cause ≤ 3 then 250 else if i.cause = 4 then 252 else 254
    let vec := BitVec.ofNat 56 ((t.viewOf h).upair u).toNat
    let area := s.localArea t h
    let entry : Dword := BitVec.ofNat 64 (h.nextDepth * 2 ^ 56 + i.resume.toNat)
    let record := toLe 2 i.cause ++ toLe 1 i.slot ++ [0] ++ toLe 4 i.word.toNat ++ toLe 8 i.packet.toNat
    let gives := fun (m : State) => exec (.trapEntry t.id h.lrank) s0 = .next (m.settle t.id)
    let entered := fun (st : List Dword) (h' : Thread) =>
      h' = { h with trap := none, pc := vec, cont := false, rstack := st ++ [entry], readyAt := s.clock t.die t.core, aged := false }
    let bad := t.uniBad s.dev.badSram h.frame [u, u + 1] = true
    let spill := (((area.1 + 8 * entryD (h.rstack.getD 0 0) : Nat) - 8 : Int) % (2 ^ 56 : Int)).toNat
    let pushes := fun (s1 : State) =>
      (h.rstack.length < 16 → ∃ m, gives m ∧ s1.Turns m t h (entered h.rstack)) ∧
      (16 ≤ h.rstack.length → 8 * entryD (h.rstack.getD 0 0) ≤ area.2 →
        (∀ s2 a, s1.Resolves s2 t spill 8 1 false (.ok a) →
          ∃ s3 m, gives m ∧ s2.SendsStore s3 t h .packet a (toLe 8 (h.rstack.getD 0 0).toNat) false ∧ s3.Turns m t h (entered h.rstack.tail)) ∧
        (∀ s2 sub va, s1.Resolves s2 t spill 8 1 false (.bad sub va) → gives (s2.groupAction t h 0x0202 va sub)) ∧
        ∀ s2 va d, s1.Resolves s2 t spill 8 1 false (.xlate va d) → gives (s.retry t h [(va, d)] va d))
    1 ≤ i.cause → i.cause ≤ 5 →
    (bad → gives (s.teamAction t (some h) 0x0203 0 0)) ∧ (¬ bad →
    (vec = 0 → s.debugMode t = 0 → gives (s.groupAction t h (if i.cause ≤ 3 then 0x0105 else 0x0106) i.packet.toNat 0)) ∧
    (vec = 0 → s.debugMode t ≠ 0 → ∃ s1, s.Turns s1 t h (fun h' => h' = { h with trap := none }) ∧ gives (s1.debugStop t h.lrank i.cause i.packet)) ∧
    (vec ≠ 0 → vec.toNat % 16 ≠ 0 → gives (s.groupAction t h 0x0102 i.packet.toNat 0)) ∧
    (vec ≠ 0 → vec.toNat % 16 = 0 → h.nextDepth ≤ 127 →
      (area.2 < 16 → pushes s) ∧
      (16 ≤ area.2 → ∀ s1 r, s.Resolves s1 t (area.1 + area.2 - 16) 16 1 false r →
        match r with
        | .ok a => ∃ s2, s1.SendsStore s2 t h .packet a record false ∧ pushes s2
        | .xlate va d => gives (s1.retry t h [(va, d)] va d)
        | .bad sub va => gives (s1.groupAction t h 0x0202 va sub)
        | _ => True))))

/-- The candidates of a course are the pairs of frame and PC at which its ready threads stand. The picker takes one that no other goes before: an aged one first, and of those the one ready longest; then, after them the yielding, by PRIO, by the hint, by the clock since which it is ready, by the lowest launch rank and by the slot. Its packet issues, at the first instruction slot from its resume slot, in all its threads or in 32 of them: those with the key of the oldest thread first, and the lowest ranks first; they lose their hint and their age, and take the yield mark of the packet. A course with a bundle, or without a candidate, issues nothing more. That the lowest rank counts as the oldest of threads which became ready in one clock is the model’s choice (log entry 73). A thread that has been ready for 1,024 clocks becomes aged, a yield ends with its mark, and the detector halves, raises and rotates the load permits as R141 and R142 say. Each of these steps completes under the conditions stated, and otherwise changes nothing (R26, R139, R141, R142, R160, R161, R197, R370) -/
def Obligations.IssueAndPermits : Prop :=
  (∀ (s : State) (die core course : Nat),
      (∀ c ∈ s.candidates die core course, c.team ∈ s.teams ∧ c.team.die = die ∧ c.team.core = core ∧ c.threads ≠ [] ∧
        c.packet = s.fetch c.team (packetOf c.pc).toNat ∧
        ∀ h ∈ c.threads, h ∈ c.team.threads ∧ h.course = course ∧ h.frame = c.frame ∧ h.pc = c.pc ∧ s.ready c.team h = true) ∧
      (∀ t ∈ s.teams, t.die = die → t.core = core → ∀ h ∈ t.threads, h.course = course → s.ready t h = true →
        ∃ c ∈ s.candidates die core course, c.team = t ∧ h ∈ c.threads) ∧
      (s.candidates die core course ≠ [] → ∃ c, s.best die core course = some c) ∧
      ∀ c, s.best die core course = some c → c ∈ s.candidates die core course ∧
        ∀ e ∈ s.candidates die core course, ∀ n m i j, e.ReadySince n → c.ReadySince m → e.LowestRank i → c.LowestRank j →
          ¬ s.GoesBefore e c n m i j) ∧
    (∀ (s : State) (die core course : Nat) (c : Cand) (s1 : State) (ws : List Word) (k : Nat),
      (∀ b ∈ s.bundle.toList ++ s.others, ¬ (b.die = die ∧ b.core = core ∧ b.course = course)) → s.best die core course = some c →
      c.packet = (s1, .ok ws) → (∀ h ∈ c.threads, packetClass ws h.nreg (s1.isDet c.team) = none) →
      (∀ h ∈ c.threads, s1.breaksAt c.team h (packetOf c.pc) = false) → nextSlot ws (pcSlot c.pc) = some k →
      ∃ s' b hs, exec (.packetIssue die core course) s = .next s' ∧ s'.bundle = some b ∧ s'.others = s.others ++ s.bundle.toList ∧
        b.team = c.team.id ∧ b.frame = c.frame ∧ b.die = die ∧ b.core = core ∧ b.pc = c.pc ∧ b.words = ws ∧ b.slot = k ∧ b.course = course ∧
        b.ranks = hs.map (·.lrank) ∧ Takes c.threads hs ∧
        { s' with bundle := s1.bundle, others := s1.others, teams := s1.teams } = s1 ∧ (∀ q, q ≠ c.team.id → s'.team? q = s1.team? q) ∧
        (s1.team? c.team.id = some c.team → (c.team.threads.map (·.lrank)).Nodup → ∀ h ∈ hs, ∃ h', s'.thread? c.team.id h.lrank = some h' ∧
          h'.hintMark = false ∧ h'.aged = false ∧ h'.yieldMark = (ws.getD 0 0).getLsbD 28 ∧ h'.pc = h.pc ∧ h'.v = h.v ∧ h'.flags = h.flags)) ∧
    (∀ (s : State) (t : Team) (pc : Nat), let m := (s.fetch t pc).1
      m.bundle = s.bundle ∧ m.others = s.others ∧ m.teams = s.teams ∧ m.ops = s.ops ∧ m.cmds = s.cmds ∧ m.launches = s.launches) ∧
    (∀ (s : State) (die core course : Nat) (c : Cand) (s1 : State) (ws : List Word),
      (∀ b ∈ s.bundle.toList ++ s.others, ¬ (b.die = die ∧ b.core = core ∧ b.course = course)) → s.best die core course = some c →
      c.packet = (s1, .ok ws) → (∀ h ∈ c.threads, packetClass ws h.nreg (s1.isDet c.team) = none) →
      (∀ h ∈ c.threads, s1.breaksAt c.team h (packetOf c.pc) = false) → nextSlot ws (pcSlot c.pc) = none →
      ∃ s', exec (.packetIssue die core course) s = .next s' ∧ s'.bundle = none) ∧
    (∀ (s : State) (die core course : Nat),
      ((∃ b ∈ s.bundle.toList ++ s.others, b.die = die ∧ b.core = core ∧ b.course = course) ∨ s.candidates die core course = []) →
      exec (.packetIssue die core course) s = .next s) ∧
    (∀ (s : State) (t : Team) (h : Thread), s.team? t.id = some t → t.thread? h.lrank = some h → s.ready t h = true →
      h.readyAt + 1024 ≤ s.clock t.die t.core →
      ∃ m, exec (.threadAging t.id h.lrank) s = .next m ∧ s.Turns m t h fun h' => h' = { h with aged := true }) ∧
    (∀ (s : State) (t : Team) (h : Thread), s.team? t.id = some t → t.thread? h.lrank = some h →
      (s.ready t h = false ∨ s.clock t.die t.core < h.readyAt + 1024) → exec (.threadAging t.id h.lrank) s = .next s) ∧
    (∀ (s : State) (t : Team) (h : Thread) (e : Nat), s.team? t.id = some t → t.thread? h.lrank = some h → h.yieldAt = some e →
      e ≤ s.clock t.die t.core → ∃ m, exec (.yieldExpiry t.id h.lrank) s = .next m ∧
        s.Turns m t h fun h' => h' = { h with yieldAt := none, yieldMark := true, readyAt := s.clock t.die t.core }) ∧
    (∀ (s : State) (t : Team) (h : Thread) (e : Nat), s.team? t.id = some t → t.thread? h.lrank = some h → h.yieldAt = some e →
      s.clock t.die t.core < e → exec (.yieldExpiry t.id h.lrank) s = .next s) ∧
    (∀ (s : State) (die core : Nat) (c : Core), s.core? die core = some c →
      let now := s.clock die core
      c.winAt + 1024 ≤ now → ∃ s', exec (.localityWindowEnd die core) s = .next s' ∧ s.OnlyCore s' die core fun _ c' =>
        { c' with permitP := c.permitP, permits := c.permits, waiters := c.waiters, reref := c.reref, winAt := c.winAt, lastHeavy := c.lastHeavy,
                  lastTurn := c.lastTurn } = c ∧ c'.reref = 0 ∧ c'.winAt = c.winAt + 1024 ∧
        (c.reref < 32 → c'.permitP = c.permitP ∧ c'.permits = c.permits ∧ c'.waiters = c.waiters ∧ c'.lastHeavy = c.lastHeavy) ∧
        (32 ≤ c.reref → c'.permitP = max 1 (c.permitP / 2) ∧ c'.permits = c.permits.drop (c.permits.length - c'.permitP) ∧
          c'.waiters = c.waiters ++ c.permits.take (c.permits.length - c'.permitP) ∧ c'.lastHeavy = now)) ∧
    (∀ (s : State) (die core : Nat) (c : Core), s.core? die core = some c → max c.lastHeavy c.lastRise + 4096 ≤ s.clock die core →
      ∃ m s', exec (.permitIncrease die core) s = .next s' ∧ m.Ages s' ∧ s.OnlyCore m die core fun _ c' =>
        { c' with permitP := c.permitP, permits := c.permits, waiters := c.waiters, lastRise := c.lastRise } = c ∧
        c'.permitP = min 32 (c.permitP + 1) ∧ c'.permits = c.permits ++ c.waiters.take (c'.permitP - c.permits.length) ∧
        c'.waiters = c.waiters.drop (c'.permitP - c.permits.length) ∧ c'.lastRise = s.clock die core) ∧
    (∀ (s : State) (die core : Nat) (c : Core) (p w : Nat) (ps ws : List Nat), s.core? die core = some c → c.permits = p :: ps → c.waiters = w :: ws →
      c.lastTurn + 4096 ≤ s.clock die core →
      ∃ m s', exec (.permitRotation die core) s = .next s' ∧ m.Ages s' ∧ s.OnlyCore m die core fun _ c' =>
        c' = { c with permits := ps ++ [w], waiters := ws ++ [p], lastTurn := s.clock die core }) ∧
    (∀ (s : State) (die core : Nat) (c : Core), s.core? die core = some c →
      let now := s.clock die core
      let still := fun (i : Instr) => ∃ m s', exec i s = .next s' ∧ m.Ages s' ∧ s.OnlyCore m die core fun _ c' => c' = c
      (now < c.winAt + 1024 → still (.localityWindowEnd die core)) ∧
      (now < max c.lastHeavy c.lastRise + 4096 → still (.permitIncrease die core)) ∧
      (now < c.lastTurn + 4096 ∨ c.permits = [] ∨ c.waiters = [] → still (.permitRotation die core)))

/-- A call whose forks the pool has begins: each callee’s threads, by the positions that the rendezvous gave them, stand at its entry in a new frame, ranked from 0, with the marker pushed and the call’s time acquired; when every sub-team of a call is complete the threads come back behind their markers, where a trap that waits for its entry resumes too, with the join’s time, and the parent takes the result registers of the lowest-numbered callee that wrote each; a full barrier, for which the sub-teams of a call count too, completes its frame’s uniform writes, flips its phase and releases exactly the threads parked at it, with its time, no earlier than that time plus 2, a stopped thread when it resumes; the bow arrives likewise; a rendezvous past its limit is recorded once and keeps waiting; a window kept open past 256 packets is lost. Nothing else changes (R46, R49, R52, R53, R54, R120, R152, R186, R190, R192, R264, R365) -/
def Obligations.ParkedThreadsGoOn : Prop :=
  (∀ (s : State) (t : Team) (f k : Nat), s.team? t.id = some t → f < t.frames.length → k < (t.frame f).bars.length →
      let b := (t.frame f).bar k
      let ev : Instr := .barrierRelease 0 t.id f k
      (0 < b.count → (t.members f).length ≤ b.count → b.h + 2 ≤ s.gtime t.die → t.standing ≠ .saved →
        ∃ s0 t0 s' t', exec ev s = .next s' ∧ s0 = s.publishAll t.id ∧ s0.team? t.id = some t0 ∧ s0.OnlyTeam s' t.id ∧ s'.team? t.id = some t' ∧
          (∀ o ∈ s'.ops, o.team = t.id → o.body.uniform? = none) ∧ { t' with threads := t0.threads, frames := t0.frames } = t0 ∧
          (∀ i, i ≠ f → t'.frame i = t0.frame i) ∧ (∀ j, j ≠ k → (t'.frame f).bar j = (t.frame f).bar j) ∧
          ((t'.frame f).bar k).phase = !b.phase ∧ ((t'.frame f).bar k).count = 0 ∧ ((t'.frame f).bar k).relH = b.h ∧
          t.Frees t' (s.clock t.die t.core) (s.gtime t.die) b.h fun h => h.exited = false ∧ h.frame = f ∧ h.waitsAt = .bar k ∧ h.parkPhase = b.phase) ∧
      (b.count < (t.members f).length ∨ b.count = 0 ∨ s.gtime t.die < b.h + 2 ∨ t.standing = .saved → exec ev s = .next s)) ∧
    (∀ (s : State) (t : Team) (grid : Bool), s.team? t.id = some t → t.standing ≠ .ended → (s.teams.map (·.id)).Nodup →
      let mate := fun (x : Team) => x ∈ s.teams ∧ x.launch = t.launch ∧ (grid = true ∨ x.cluster = t.cluster) ∧ x.standing ≠ .ended
      (∀ x, mate x → x.standing = .resident ∧ (if grid then x.arrG else x.arrC) = true) →
      (grid = true → ∃ l, s.launch? t.launch = some l ∧ l.desc.nteams ≤ l.nextTeam) →
      ∀ hz, (∃ x, mate x ∧ x.wideH = hz) → (∀ x, mate x → x.wideH ≤ hz ∧ hz + 2 ≤ s.gtime x.die) →
      ∃ s', exec (.barrierRelease (if grid then 2 else 1) t.id 0 0) s = .next s' ∧ { s' with teams := s.teams } = s ∧
        (∀ x, x ∈ s.teams → ¬ mate x → s'.team? x.id = some x) ∧
        ∀ x, mate x → ∃ x', s'.team? x.id = some x' ∧
          (grid = true → x'.arrG = false ∧ x'.phaseG = (!x.phaseG)) ∧ (grid = false → x'.arrC = false ∧ x'.phaseC = (!x.phaseC)) ∧
          x.Frees x' (s.clock x.die x.core) (s.gtime x.die) hz fun h => h.exited = false ∧ h.waitsAt = (if grid then .gbar else .cbar)) ∧
    (∀ (s : State) (t : Team) (h : Thread) (a : GroupArrival) (hz : Nat), s.team? t.id = some t → t.laneOf h.frame h.group (h.rank % 32) = some h →
      h.garr = some a → a.op = .gsync → t.groupFull h a = true → (t.threads.map (·.lrank)).Nodup →
      let member := fun (x : Thread) => ∃ j, j < 32 ∧ a.mask.getLsbD j = true ∧ t.laneOf h.frame h.group j = some x
      (∀ x, member x → ∀ o ∈ s.ops, o.team = t.id → o.lrank = x.lrank → o.body.unreturned = false) →
      (∀ x, member x → x.fh ≤ hz) → (∃ x, member x ∧ x.fh = hz) → hz + 2 ≤ s.gtime t.die →
      ∃ s' t', exec (.barrierRelease 3 t.id h.frame h.rank) s = .next s' ∧ s.OnlyTeam s' t.id ∧ s'.team? t.id = some t' ∧
        (∀ x, member x → ∃ x', t'.thread? x.lrank = some x' ∧ x'.garr = none ∧ x'.v = x.v ∧ x'.pc = x.pc ∧
          (x.stopped = false → x'.park = .none ∧ x'.fh = max x.fh hz ∧ x'.rh = max x.rh hz) ∧
          (x.stopped = true → x'.park = x.park ∧ x'.fh = x.fh ∧ x'.rh = x.rh ∧ x'.due = some ⟨hz, []⟩)) ∧
        ∀ x ∈ t.threads, ¬ member x → t'.thread? x.lrank = some x) ∧
    (∀ (s : State) (t : Team) (f : Nat) (c : Core) (call : Call), s.team? t.id = some t → t.standing = .resident → f < t.frames.length →
      s.core? t.die t.core = some c → c.forkQ = [(t.id, f)] → (t.frame f).call = some call → call.h + 2 ≤ s.gtime t.die →
      (call.reserved = true ∨ s.poolUsed t.die t.core + 16 * call.callees.length ≤ 1024) → (t.threads.map (·.lrank)).Nodup →
      call.callees.Pairwise (fun x y => x.start + x.size ≤ y.start) → call.ranks.Nodup →
      (∀ r ∈ call.ranks, ∃ h, t.thread? r = some h ∧ h.rstack.length < 16 ∧ h.nextDepth ≤ 127 ∧ h.stopped = false ∧ h.pmk = false) →
      (∀ x ∈ s.teams, x.die = t.die → x.core = t.core → x.standing = .resident → x.markers = []) →
      ∃ (m : State) (t' : Team), exec (.forkReservation t.die t.core) s = .next (m.settle t.id) ∧ m.mem = s.mem ∧ m.team? t.id = some t' ∧
        (t'.frame f).status = .waitingJoin ∧ (t'.frame f).call = none ∧ (∃ c', m.core? t.die t.core = some c' ∧ c'.forkQ = []) ∧
        (∀ e ∈ call.callees, ∃ i, i ≠ 0 ∧ (t'.frame i).parent = some f ∧ (t'.frame i).callee = e.idx ∧ (t'.frame i).nrank = e.size ∧
          (t'.frame i).depth = (t.frame f).depth + 1 ∧ (t'.frame i).status = .running ∧
          ∀ (p r : Nat) (h : Thread), p < e.size → call.ranks[e.start + p]? = some r → t.thread? r = some h → h.exited = false →
            ∃ h', t'.thread? r = some h' ∧ h'.frame = i ∧ h'.rank = p ∧
            h'.pc = e.entry ∧ h'.park = .none ∧ h'.fh = max h.fh call.h ∧ h'.rh = max h.rh call.h ∧ h'.v = h.v ∧ h'.preds = h.preds ∧
            h'.trap = h.trap.map (fun x => { x with resume := e.entry }) ∧
            h'.rstack = h.rstack ++ [BitVec.ofNat 64 (2 ^ 63 + h.nextDepth * 2 ^ 56 + call.marker.toNat)]) ∧
        ∀ h ∈ t.threads, h.lrank ∉ call.ranks → t'.thread? h.lrank = some h) ∧
    (∀ (s0 s : State) (t : Team) (f hz : Nat), s = s0.publishAll t.id → s.team? t.id = some t → t.standing = .resident → f < t.frames.length →
      (t.frame f).status = .waitingJoin →
      (t.threads.map (·.lrank)).Nodup →
      let sub := fun (i : Nat) => i < t.frames.length ∧ (t.frame i).parent = some f ∧ (t.frame i).status ≠ .gone
      (∀ i, sub i → i ∉ t.ancestors 8 f ∧ s.subDone t i = true) →
      (∀ i j, sub i → sub j → (t.frame i).callee = (t.frame j).callee → i = j) →
      (t.frame f).callH ≤ hz → (∀ i, sub i → (t.frame i).cmdH ≤ hz) → (∀ h ∈ t.threads, sub h.frame → h.fh ≤ hz) →
      (hz = (t.frame f).callH ∨ (∃ i, sub i ∧ (t.frame i).cmdH = hz) ∨ ∃ h ∈ t.threads, sub h.frame ∧ h.fh = hz) → hz + 2 ≤ s.gtime t.die →
      (∀ h ∈ t.threads, sub h.frame → h.exited = false → h.stopped = false ∧ ∃ e, h.rstack.getLast? = some e ∧ entryM e = true ∧ (h.rstack.length = 1 → entryD e ≤ 1)) →
      ∃ (m : State) (t' : Team), exec (.join t.id f) s0 = .next (m.settle t.id) ∧ m.mem = s.mem ∧ m.team? t.id = some t' ∧ (t'.frame f).status = .running ∧
        (∀ i, sub i → (t'.frame i).status = .gone) ∧
        (∀ h ∈ t.threads, sub h.frame → h.exited = false → ∃ e h', h.rstack.getLast? = some e ∧ t'.thread? h.lrank = some h' ∧ h'.frame = f ∧
          h'.rank = t.rankIn f h ∧ h'.pc = entryAddr e ∧ h'.trap = h.trap.map (fun x => { x with resume := entryAddr e }) ∧ h'.rstack = h.rstack.dropLast ∧ h'.park = .none ∧ h'.fh = max h.fh hz ∧ h'.rh = max h.rh hz ∧
          h'.v = h.v ∧ h'.preds = h.preds) ∧
        (∀ h ∈ t.threads, ¬ sub h.frame → t'.thread? h.lrank = some h) ∧
        ∀ j, j < 32 →
          (∀ i, (t.frame f).rmask.getLsbD j = true → sub i → (t.frame i).wrote.getLsbD j = true →
            (∀ k, sub k → (t.frame k).callee < (t.frame i).callee → (t.frame k).wrote.getLsbD j = false) → t'.uget f j = t.uget i j) ∧
          ((t.frame f).rmask.getLsbD j = false ∨ (∀ i, sub i → (t.frame i).wrote.getLsbD j = false) → t'.uget f j = t.uget f j)) ∧
    (∀ (s : State) (l : Launch) (t : Team), s.launch? l.id = some l → l.bow.moving = true → l.bow.next + 2 ≤ s.gtime t.die →
      (∀ o ∈ s.ops, o.team = l.bow.prev → o.id < l.bow.mark → o.body.bowed = false) →
      (∀ x ∈ s.teams, x.launch = l.id → x.teamId = l.bow.holder → x = t) → t ∈ s.teams → t.launch = l.id → t.teamId = l.bow.holder →
      t.standing = .resident → s.team? t.id = some t →
      ∃ s' l' t', exec (.bowArrival l.id) s = .next s' ∧ { s' with teams := s.teams, launches := s.launches } = s ∧ s'.launch? l.id = some l' ∧
        l'.bow.holder = l.bow.holder ∧ l'.bow.moving = false ∧ l'.bow.t = l.bow.next ∧ l'.bow.next = 0 ∧
        (∀ j, j ≠ t.id → s'.team? j = s.team? j) ∧ s'.team? t.id = some t' ∧
        t.Frees t' (s.clock t.die t.core) (s.gtime t.die) l.bow.next fun h => h.exited = false ∧ h.waitsAt = .bowwait) ∧
    (∀ (s : State) (t : Team) (h : Thread) (x : Context), s.team? t.id = some t → t.thread? h.lrank = some h → h.exited = false →
      t.standing = .resident → s.ctx? t.ctx = some x → (∀ f ∈ t.ancestors 8 h.frame, f < t.frames.length ∧ (t.frame f).bars.length = 4) →
      let ev : Instr := .rendezvousWatchdog t.id h.lrank
      let overdue := fun (f k : Nat) => f ∈ t.ancestors 8 h.frame ∧ k < 4 ∧ 0 < ((t.frame f).bar k).count ∧ ((t.frame f).bar k).told = false ∧
        ((t.frame f).bar k).since + 2 ^ 24 ≤ s.clock t.die t.core ∧ ∀ y ∈ t.members f, y.stopped = false
      ((∀ f k, ¬ overdue f k) → (∀ j, j < 4 → h.waitsAt = .bar j → exec ev s = .next s) ∧ (h.waitsAt = .none → exec ev s = .next s)) ∧
      (∀ f k, overdue f k → (∀ f' k', overdue f' k' → f' = f ∧ k' = k) →
        ∃ s' x' t', exec ev s = .next s' ∧ s'.ctx? t.ctx = some x' ∧ x'.cestat.getLsbD 3 = true ∧ s'.team? t.id = some t' ∧
          t'.threads = t.threads ∧ ((t'.frame f).bar k).told = true ∧ ((t'.frame f).bar k).count = ((t.frame f).bar k).count)) ∧
    (∀ (s : State) (t : Team) (h : Thread), s.team? t.id = some t → t.thread? h.lrank = some h → t.standing = .saving → h.openWin ≠ [] →
      (256 ≤ h.sinceOpen → ∃ s' t', exec (.openWindowLimit t.id h.lrank) s = .next s' ∧ s.OnlyTeam s' t.id ∧ s'.team? t.id = some t' ∧
        { t' with win := t.win, threads := t.threads } = t ∧ (∃ h', t'.thread? h.lrank = some h' ∧ h' = { h with openWin := [] }) ∧
        ∀ c ∈ h.openWin, ∀ i, i < 256 → Memory.wf t.win = true → cget t'.win (256 * c + i) = 0) ∧
      (h.sinceOpen < 256 → exec (.openWindowLimit t.id h.lrank) s = .next s))

/-- A team that nothing holds back is written to its context frame, each thread’s record and each scratchpad byte at its place, and leaves its core with nothing in flight; a saved team with a place comes back with the registers of its image; a doorbell sets the tail of the queue that its entry describes, and an unfit entry is reported and the queue shut; a descriptor starts once its dependences hold, or fails with LNCH; the dispatching launch places a cluster with its threads at the entry; a finished launch raises DONE from GTIME Tl + 2 and is gone; a LAUNCH appends its descriptor, or ends with QFULL after 2^26 ticks without room, or with FIELD where its queue is out of use. That a PRIO above 3 is taken as it stands is the model’s choice (log entry 80), and so are the top bytes of the addresses of descriptors and queue entries that are dropped (log entry 81), the course of a restored thread (log entry 78), the LOCAL code of a LAUNCH whose descriptor is at a local address (log entry 79), and the tail that it takes (log entry 102) (R23, R57, R131, R133, R134, R135, R136, R137, R144, R146, R150, R282) -/
def Obligations.SavesAndLaunches : Prop :=
  (∀ (s : State) (t : Team) (d : Desc) (x : Context) (s1 : State) (a : Access), s.team? t.id = some t → s.desc? t = some d → t.standing = .saving →
      s.ctx? t.ctx = some x →
      (x.stopped = true → exec (.teamSave t.id) s = .next s) ∧
      (x.stopped = false → s.saveReady t = true → (∃ g ∈ s.dev.badSram, t.owns g = true) → exec (.teamSave t.id) s =
        .next (s.stopAction { die := t.die, cls := 0x0203, action := 7, ctx := t.ctx, team := t.teamId, core := t.core })) ∧
      (x.stopped = false → (∀ g ∈ s.dev.badSram, t.owns g = false) →
      s.saveReady t = true → s.devAccess t.die t.ctx (s.frameBase t) 1 4096 d.frameSize = (s1, some a) → s1.NoPartial a.bytes → a.bytes.Nodup →
      a.bytes.length = d.frameSize → t.threads.map (·.lrank) = List.range d.tsize → t.frames.length ≤ 65 →
      ∃ (s' m : State) (t' : Team), exec (.teamSave t.id) s = .next s' ∧ m.Ages s' ∧ m.team? t.id = some t' ∧ t'.standing = .saved ∧ t'.win = [] ∧
        (∀ o, o ∈ m.ops ↔ o ∈ s.ops ∧ o.team ≠ t.id) ∧ (∀ j, j ≠ t.id → m.team? j = s.team? j) ∧
        (∀ i, i < d.sak * 1024 →
          cget m.mem (a.bytes.getD (0x11740 + d.tsize * (384 + 4 * d.nreg) + i) 0) = cget t.scratch i) ∧
        ∀ r h', t'.thread? r = some h' → r < d.tsize →
          let rec_ := getAt m.mem ((a.bytes.drop (0x11740 + r * (384 + 4 * d.nreg))).take (384 + 4 * d.nreg))
          fieldLe rec_ 0 8 = h'.pc.toNat ∧ fieldLe rec_ 16 4 = h'.prec.toNat ∧ fieldLe rec_ 22 2 = h'.flags.toNat ∧
            (h'.fh < 2 ^ 64 → fieldLe rec_ 24 8 = h'.fh) ∧ ∀ i, i < d.nreg → fieldLe rec_ (384 + 4 * i) 4 = (h'.rd i).toNat)) ∧
    (∀ (s : State) (t : Team) (d : Desc) (s1 : State) (a : Access) (die core slot : Nat), s.team? t.id = some t → s.desc? t = some d → d.ens = false →
      s.eligible t = true → s.restorePlace t d = some (die, core, slot) → t.pends = [] →
      s.devAccess t.die t.ctx (s.frameBase t) 0 4096 d.frameSize = (s1, some a) → s1.poisoned a.bytes = false → s1.NoPartial a.bytes →
      let img := getAt s1.mem a.bytes
      let rec_ := fun (r : Nat) => (img.drop (0x11740 + r * (384 + 4 * d.nreg))).take (384 + 4 * d.nreg)
      (∀ h ∈ t.threads, fieldLe (rec_ h.lrank) 24 8 + 2 ≤ s1.gtime die ∧ fieldLe (rec_ h.lrank) 58 1 = 0 ∧
        ∀ k, k < 12 → fieldLe (rec_ h.lrank) (199 + 16 * k) 1 = 0) → 2 ≤ s1.gtime die →
      ∃ (m : State) (t' : Team), exec (.teamRestore t.id) s = .next (m.settle t.id) ∧ m.team? t.id = some t' ∧ t'.standing = .resident ∧ t'.die = die ∧ t'.core = core ∧
        t'.slot = slot ∧
        ∀ r h, t.thread? r = some h → ∃ h', t'.thread? r = some h' ∧ h'.pc = BitVec.ofNat 56 (fieldLe (rec_ r) 0 7) ∧
          h'.course = (r / 32 + slot) % 4 ∧ h'.prec = precLoad h.prec (BitVec.ofNat 32 (fieldLe (rec_ r) 16 4)) ∧ h'.flags = BitVec.ofNat 12 (fieldLe (rec_ r) 22 2) ∧ h'.fh = fieldLe (rec_ r) 24 8 ∧
          h'.exited = decide (fieldLe (rec_ r) 8 1 = 2)) ∧
    (∀ (s : State) (c : Context) (q : Nat) (tail : BitVec 32) (s1 : State) (e : List Byte) (w : Nat), s.ctx? c.num = some c → c.stopped = false → q < 64 →
      s.dev.hosted = true → s.devGet bridge0 c.num (c.entryAddr q) 8 32 = (s1, some (e, w)) → s1.ctx? c.num = some c →
      let unfit := 2 ≤ fieldLe e 10 1 ∨ fieldLe e 11 5 ≠ 0 ∨ fieldLe e 24 8 ≠ 0 ∨ fieldLe e 0 8 % 128 ≠ 0 ∨ 16 < fieldLe e 8 1
      ∃ s' c', exec (.launchDoorbell c.num q tail) s = .next s' ∧ s'.ctx? c.num = some c' ∧ s'.launches = s.launches ∧
        (∀ p, p ≠ q → c'.queue p = c.queue p) ∧
        (unfit → (c'.queue q).open_ = false ∧ (c'.queue q).tail = (c.queue q).tail ∧ ((c.queue q).told = false → c'.cestat.getLsbD 8 = true)) ∧
        (¬ unfit → fieldLe e 10 1 = 0 → (c'.queue q).open_ = false ∧ (c'.queue q).tail = (c.queue q).tail) ∧
        (¬ unfit → fieldLe e 10 1 = 1 → (c'.queue q).open_ = true ∧ (c'.queue q).tail = tail ∧ (c'.queue q).ring = fieldLe e 0 8 % 2 ^ 56 ∧
          (c'.queue q).logn = fieldLe e 8 1 ∧ (c'.queue q).prio = fieldLe e 9 1 ∧ (c'.queue q).headwb = fieldLe e 16 8 % 2 ^ 56)) ∧
    (∀ (s : State) (c : Context) (q : Nat) (b : List Byte), s.ctx? c.num = some c → c.stopped = false →
      let x := c.queue q
      let d := descOf x.descAddr b
      x.num = q → x.taken = some b → x.pend = none →
      (x.met = none → s.launchable c d = true → d.dep1 = 0 →
        (d.dep0 = 0 → ∃ s' c', exec (.dependenceRecheck c.num q) s = .next s' ∧ s'.ctx? c.num = some c' ∧ c'.queue q = { x with met := some 0 }) ∧
        (d.dep0 ≠ 0 → ∀ s1 v w, s.devGet bridge0 c.num d.dep0 8 8 = (s1, some (v, w)) → s1.ctx? c.num = some c →
          ∃ s' c', exec (.dependenceRecheck c.num q) s = .next s' ∧ s'.ctx? c.num = some c' ∧
            c'.queue q = if d.val0 ≤ leNat v then { x with met := some w } else x)) ∧
      ((∀ l ∈ s.launches, ¬ (l.ctx = c.num ∧ l.queue = q ∧ l.dispatching = true)) → ∀ s1 place, s.headPlace c.num x = (s1, some place) →
        s1.ctx? c.num = some c → s1.launches = s.launches →
        (s.launchable c d = false → s1.launchable c d = false → ∃ s' c', exec (.launchStart c.num q) s = .next s' ∧ s'.launches = s.launches ∧ s'.ctx? c.num = some c' ∧
          c'.cestat.getLsbD 8 = true ∧ (c'.queue q).next = x.next + 1 ∧ (c'.queue q).taken = none) ∧
        (s1.launchable c d = true → ∀ w s2 ws, x.met = some w → s1.uniformWords c.num d = (s2, some ws) → s2.launches = s.launches →
          s2.ctx? c.num = some c →
          ∃ s' c' l, exec (.launchStart c.num q) s = .next s' ∧ s'.launches = s.launches ++ [l] ∧ l.ctx = c.num ∧ l.queue = q ∧ l.k = x.next.toNat ∧
            l.prio = x.prio ∧ l.desc = d ∧ l.uwords = ws ∧ l.nextTeam = 0 ∧ l.minIssue = (if d.dep0 = 0 ∧ d.dep1 = 0 then 0 else w + 2) ∧
            s'.ctx? c.num = some c' ∧ (c'.queue q).next = x.next + 1 ∧ (c'.queue q).taken = none ∧ (c'.queue q).met = none))) ∧
    (∀ (s : State) (c : Context) (q : Nat) (l : Launch) (ps : List (Nat × Nat × Nat)), s.ctx? c.num = some c → c.stopped = false →
      s.launches.find? (fun l => l.ctx == c.num && l.queue == q && l.dispatching) = some l → s.launch? l.id = some l → l.desc.ens = false →
      (∀ m ∈ s.launches, m.ctx = c.num → m.dispatching = true → m.id ≠ l.id → (l.prio < m.prio ∨ (m.prio = l.prio ∧ m.id < l.id)) →
        s.placeable m = none) →
      l.ctx = c.num → placeCluster (s.coreLoads c.num) l.desc = some ps →
      ∃ s' l' news, exec (.teamPlacement c.num q) s = .next s' ∧ s'.teams = s.teams ++ news ∧ news.length = ps.length ∧ s'.launch? l.id = some l' ∧
        (ps ≠ [] → l'.nextTeam = l.nextTeam + ps.length) ∧ s'.mem = s.mem ∧
        ∀ (k : Nat) (t : Team) (p : Nat × Nat × Nat), news[k]? = some t → ps[k]? = some p →
          t.id = s.nextId + k ∧ t.teamId = l.nextTeam + k ∧ t.launch = l.id ∧ t.ctx = c.num ∧ (t.die, t.core, t.slot) = p ∧ t.standing = .resident ∧
          t.scratch = [] ∧ t.acc = [] ∧ t.handles = [] ∧ t.threads.length = l.desc.tsize ∧ t.frames.length = 1 ∧
          (∀ j, j < l.uwords.length → t.uget 0 j = l.uwords.getD j 0) ∧
          ∀ r, r < l.desc.tsize → ∃ h, t.thread? r = some h ∧ h.rank = r ∧ h.frame = 0 ∧ h.course = (r / 32 + t.slot) % 4 ∧ h.nreg = l.desc.nreg ∧
            h.pc = BitVec.ofNat 56 l.desc.entry ∧ h.prec = 0x2D ∧ h.preds = 0 ∧ h.flags = 0 ∧ h.v = [] ∧ h.fh = 0 ∧ h.rh = 0 ∧ h.exited = false) ∧
    (∀ (s : State) (l : Launch) (c : Context), s.launch? l.id = some l → s.ctx? l.ctx = some c → c.stopped = false → l.dispatching = false →
      (∀ t ∈ s.teams, t.launch = l.id → t.standing = .ended ∧ (∀ o ∈ s.ops, o.team ≠ t.id) ∧ ∀ k ∈ s.cmds, k.team ≠ t.id) →
      let gone := fun (s s' : State) => { s' with launches := s.launches, teams := s.teams } = s ∧ (∀ x, x ∈ s'.launches ↔ x ∈ s.launches ∧ x.id ≠ l.id) ∧
        ∀ t, t ∈ s'.teams ↔ t ∈ s.teams ∧ t.launch ≠ l.id
      (l.desc.done = 0 → ∃ s', exec (.launchCompletion l.id) s = .next s' ∧ gone s s') ∧
      (l.desc.done ≠ 0 → ∀ s1 a bs w, s.devAccess bridge0 l.ctx l.desc.done 1 8 8 = (s1, some a) → a.space = .hbm → a.bytes.length = 8 →
        s1.Holds a bs w → (1 ≤ a.attr.scope → a.attr.scope ≤ 3 →
          ∀ p ∈ a.bytes, (s1.lineMeta (lineOf p)).lease ≤ s1.gtime (homeDie p) + s1.leaseLen l.ctx a.attr.scope) →
        l.tl + 2 ≤ s1.gtime (homeDie (a.bytes.headD 0)) →
        ∃ s2 s' time, exec (.launchCompletion l.id) s = .next s' ∧ s1.Puts s2 a (toLe 8 ((leNat bs + 1) % 2 ^ 64)) time ∧ gone s2 s') ∧
      (l.desc.done ≠ 0 → ∀ s1 a, s.devAccess bridge0 l.ctx l.desc.done 1 8 8 = (s1, some a) → s1.poisoned a.bytes = false →
        s1.gtime (homeDie (a.bytes.headD 0)) < l.tl + 2 → exec (.launchCompletion l.id) s = .next s1)) ∧
    (∀ (s : State) (c : Cmd) (t : Team), s.MayRun c t 0x40 [(16, 1), (24, 8)] (c.u 16 1 < 64) →
      let s0 := s.modCmd c.id fun x => if c.state = .queued then { x with state := .running } else x
      let c0 : Cmd := { c with state := .running }
      ∀ x s1 e w x1 s2 x2, s0.ctx? t.ctx = some x → isLocal (x.entryAddr (c.u 16 1) % 2 ^ 56) = false →
        s0.engineRead c0 t (x.entryAddr (c.u 16 1)) 32 8 16 = .ok s1 e w → s1.ctx? t.ctx = some x1 → (x1.queue (c.u 16 1)).pend = none →
        s1.useEntry t.ctx (c.u 16 1) e = (s2, true) → s2.ctx? t.ctx = some x2 →
        let y := x2.queue (c.u 16 1)
        let late := c.at_ + 2 ^ 26 ≤ s2.gtime c.die ∧ (2 ^ y.logn ≤ (y.tail - y.headW).toNat ∨ c.at_ + 2 ^ 26 ≤ y.freed)
        (2 ^ y.logn ≤ (y.tail - y.headW).toNat ∨ late → exec (.launch c.id) s = .next s2) ∧
        ((y.tail - y.headW).toNat < 2 ^ y.logn → ¬ late → isLocal (c.addr 24 % 2 ^ 56) = true → ∃ s', exec (.launch c.id) s = .next s' ∧
          s'.CmdIs c 0x0113 24 0) ∧
        ((y.tail - y.headW).toNat < 2 ^ y.logn → ¬ late → isLocal (c.addr 24 % 2 ^ 56) = false → isLocal ((y.ring + 128 * (y.tail.toNat % 2 ^ y.logn)) % 2 ^ 56) = false →
          ∀ s3 b w1 s4 time, s2.engineRead c0 t (c.addr 24) 128 128 24 = .ok s3 b w1 →
          s3.engineWrite c0 t (y.ring + 128 * (y.tail.toNat % 2 ^ y.logn)) 128 16 b = .done s4 time → s4.cmd? c.id = some c0 → s4.ctx? t.ctx = some x2 →
          ∃ s' x', exec (.launch c.id) s = .next s' ∧ s'.CmdIs c 0 0 y.tail.toNat ∧ s'.ctx? t.ctx = some x' ∧
            (x'.queue (c.u 16 1)).tail = y.tail + 1 ∧ s'.mem = s4.mem)) ∧
    (∀ (s : State) (c : Cmd) (t : Team), s.startable c.id = some (c, t) → c.opc = 0x40 → c.cls = 4 →
      (c.state = .queued ∨ s.gtime c.die < c.at_ + 2 ^ 26 → exec (.launchQfullTimeout c.id) s = .next s) ∧
      (c.state = .running → c.at_ + 2 ^ 26 ≤ s.gtime c.die → ∀ x s1 e w x1 s2 x2, s.ctx? t.ctx = some x →
        isLocal (x.entryAddr (c.u 16 1) % 2 ^ 56) = false → s.engineRead c t (x.entryAddr (c.u 16 1)) 32 8 16 = .ok s1 e w →
        s1.ctx? t.ctx = some x1 → (x1.queue (c.u 16 1)).pend = none →
        (s1.useEntry t.ctx (c.u 16 1) e = (s2, true) → s2.ctx? t.ctx = some x2 →
          let y := x2.queue (c.u 16 1)
          let late := c.at_ + 2 ^ 26 ≤ s2.gtime c.die ∧ (2 ^ y.logn ≤ (y.tail - y.headW).toNat ∨ c.at_ + 2 ^ 26 ≤ y.freed)
          (late → ∃ s', exec (.launchQfullTimeout c.id) s = .next s' ∧ s'.CmdIs c 0x0107 (c.u 16 1) 0) ∧
          (¬ late → exec (.launchQfullTimeout c.id) s = .next s2)) ∧
        (s1.useEntry t.ctx (c.u 16 1) e = (s2, false) → ∃ s', exec (.launchQfullTimeout c.id) s = .next s' ∧ s'.CmdIs c 0x0101 16 0)))

/-- A copy command whose checks hold performs its units in any order, each once, in one step or over several: COPY a word at SRC + 4i to DST + 4i; COPYND words along rows of LEN bytes with the strides of its two outer dimensions; COPYRED a combination at the destination, at its own package or, element by element, at a peer; FILL the value; OSBLOAD the bytes of a handle’s lines; ACCMOVE entries to or from memory; and ends with code 0 and its COUNT. MMA and MMAS read each operand word once, those that a step names ahead of the others and the rest together (the model’s choice, log entry 88), and write every D[i][j], in one step or over several, and no other entry. That a step names the units that it performs and a combination at the own package is done at once are the model’s choices too (log entries 62 and 61). A product sum is exact, rounded once a chunk; an integer product wraps (R88, R89, R261, R268, R277, R278, R279, R280, R281, R314, R390) -/
def Obligations.EngineBodies : Prop :=
  ((∀ (s : State) (c : Cmd) (t : Team) (some_ order : List Nat) (s1 : State),
      let copies := fun (src dst : Nat → Nat) (i : Nat) (m m' : State) =>
        ∃ m1 bs w time, m.engineRead c t (src i) 4 4 16 = .ok m1 bs w ∧ m1.engineWrite c t (dst i) 4 24 bs = .done m' time
      (s.MayRun c t 1 [(16, 8), (24, 8), (32, 8)] (c.u 32 8 % 4 = 0 ∧ c.u 32 8 ≤ 2 ^ 32) → c.Order (c.u 32 8 / 4) some_ order →
        Performs (copies (fun i => c.addr 16 + 4 * i) fun i => c.addr 24 + 4 * i) order (s.begun c) s1 →
        ∃ s', exec (.copy c.id some_) s = .next s' ∧ s1.Worked s' c (c.u 32 8 / 4) order (c.u 32 8)) ∧
      (s.MayRun c t 2 [(16, 8), (24, 8), (32, 4), (36, 2), (38, 2), (40, 4), (44, 4), (48, 4), (52, 4)]
          (c.u 32 4 % 4 = 0 ∧ c.u 36 2 ≠ 0 ∧ c.u 38 2 ≠ 0 ∧ c.u 40 4 % 4 = 0 ∧ c.u 44 4 % 4 = 0 ∧ c.u 48 4 % 4 = 0 ∧ c.u 52 4 % 4 = 0) →
        let n := c.u 32 4 / 4
        let n1 := c.u 36 2
        let place := fun (base : Nat) (s1 s2 : Int) (i : Nat) =>
          (((base : Int) + (4 * (i % n) : Nat) + (i / n % n1 : Nat) * s1 + (i / n / n1 : Nat) * s2) % (2 ^ 56 : Nat)).toNat
        c.Order (n * n1 * c.u 38 2) some_ order →
        Performs (copies (place (c.addr 16) (c.s32 40) (c.s32 44)) (place (c.addr 24) (c.s32 48) (c.s32 52))) order (s.begun c) s1 →
        ∃ s', exec (.copynd c.id some_) s = .next s' ∧ s1.Worked s' c (n * n1 * c.u 38 2) order (c.u 32 4 * n1 * c.u 38 2)))) ∧
    ((∀ (s : State) (c : Cmd) (t : Team) (some_ order : List Nat) (s1 : State),
      let n := c.u 32 8 / 4
      let op := c.u 40 1
      s.MayRun c t 3 [(16, 8), (24, 8), (32, 8), (40, 1), (41, 1), (44, 4)] (c.u 32 8 % 4 = 0 ∧ c.u 32 8 ≤ 2 ^ 32 ∧ op % 16 ≤ 2 ∧ op / 16 ≤ 2 ∧
          (s.isDet t = true → op ≠ 0x20) ∧ c.u 41 1 ≤ 1 ∧ (c.u 41 1 = 0 → c.u 44 4 = 0)) →
      (c.u 41 1 = 0 → c.Order n some_ order →
        Performs (fun i m m' => ∃ m1 bs w time, m.engineRead c t (c.addr 16 + 4 * i) 4 4 16 = .ok m1 bs w ∧
          m1.engineCombine c t (c.addr 24 + 4 * i) 4 (combineRop (op / 16) (op % 16)) 24 (BitVec.ofNat 64 (leNat bs)) = .done m' time) order (s.begun c) s1 →
        ∃ s', exec (.copyred c.id some_) s = .next s' ∧ s1.Worked s' c n order (c.u 32 8)) ∧
      (c.u 41 1 ≠ 0 → c.coll = none → c.u 44 4 = s.ownRank t.ctx → c.Order n some_ order →
        Performs (fun i m m' => ∃ m1 bs w time, m.engineRead c t (c.addr 16 + 4 * i) 4 4 16 = .ok m1 bs w ∧
          m1.peerCombine t.ctx (c.addr 24 + 4 * i) op (BitVec.ofNat 32 (leNat bs)) = .ok (m', time)) order (s.begun c) s1 →
        ∃ s', exec (.copyred c.id some_) s = .next s' ∧ s1.Worked s' c n order (c.u 32 8)) ∧
      (c.u 41 1 ≠ 0 → c.coll = none → c.u 44 4 ≠ s.ownRank t.ctx → s.reaches t.ctx (c.u 44 4) = true → 0 < n →
        ∀ bs w, (s.begun c).engineWords c t (c.addr 16) 16 n = .ok s1 bs w →
        ∃ s' sent d st, exec (.copyred c.id some_) s = .next s' ∧ { s' with cmds := s1.cmds, outbox := s1.outbox } = s1 ∧
          s'.outbox = s1.outbox ++ sent ∧ sent.length = n ∧ s'.cmd? c.id = some d ∧ d.state = .running ∧ d.coll = some st ∧ st.unacked.length = n ∧
          ∀ (i : Nat) (m : FabricMsg), sent[i]? = some m → m.src = s.ownRank t.ctx ∧ m.dst = c.u 44 4 ∧ m.cmd = c.id ∧ m.seq = i ∧ (i, m.dst, 0) ∈ st.unacked ∧ (∀ x, s.ctx? t.ctx = some x → m.job = x.job) ∧
            m.kind = .combine (BitVec.ofNat 8 op) ∧ m.va = (c.addr 24 + 4 * i) % 2 ^ 56 ∧ leNat m.data = fieldLe bs (4 * i) 4))) ∧
    ((∀ (s : State) (c : Cmd) (t : Team) (some_ order : List Nat) (s1 : State),
      (s.MayRun c t 4 [(16, 8), (24, 8), (32, 4)] (c.u 24 8 % 4 = 0 ∧ c.u 24 8 ≤ 2 ^ 32) → c.Order (c.u 24 8 / 4) some_ order →
        Performs (fun i m m' => ∃ time, m.engineWrite c t (c.addr 16 + 4 * i) 4 16 (toLe 4 (c.u 32 4)) = .done m' time) order (s.begun c) s1 →
        ∃ s', exec (.fill c.id some_) s = .next s' ∧ s1.Worked s' c (c.u 24 8 / 4) order (c.u 24 8)) ∧
      (∀ r, c.tile? (s.oaOf t) (c.u 28 1) = some r → c.u 28 1 < 16 →
        let l0 := c.u 32 2
        let nl := c.u 34 2
        let lines := if nl = 0 then r.nl - l0 else nl
        s.MayRun c t 5 [(16, 8), (24, 4), (28, 1), (32, 2), (34, 2)] (l0 + nl ≤ r.nl ∧ (nl = 0 → l0 < r.nl)) →
        let per := (r.lb + 3) / 4
        c.Order (per * lines) some_ order →
        Performs (fun i m m' => ∃ m1 bs w, m.engineBytes c t (((c.addr 16 : Int) + ((i / per : Nat) * c.s32 24 + (4 * (i % per) : Nat))) % (2 ^ 56 : Nat)).toNat 16
              (min 4 (r.lb - 4 * (i % per))) = .ok m1 bs w ∧
            m' = (m1.scrub c (.opbuf t.id) ((List.range (min 4 (r.lb - 4 * (i % per)))).map (r.off + (l0 + i / per) * r.lstr + 4 * (i % per) + ·))).modTeam t.id
                fun u => { u with opbuf := putBytes u.opbuf (r.off + (l0 + i / per) * r.lstr + 4 * (i % per)) bs }) order (s.begun c) s1 →
        ∃ s', exec (.osbload c.id some_) s = .next s' ∧ s1.Worked s' c (per * lines) order (lines * r.lb)) ∧
      (let n := c.u 28 4
       let a0 := c.u 24 4
       let row := if c.u 36 4 = 0 then n else c.u 36 4
       let size := if c.u 33 1 = 0 then 4 else 2
       let place := fun (i : Nat) => (((c.addr 16 : Int) + ((i / row : Nat) * c.s32 40 + (i % row * size : Nat))) % (2 ^ 56 : Nat)).toNat
       s.MayRun c t 6 [(16, 8), (24, 4), (28, 4), (32, 1), (33, 1), (36, 4), (40, 4)]
          ((row ≠ 0 → n % row = 0) ∧ c.u 32 1 ≤ 1 ∧ c.u 33 1 ≤ 2 ∧ c.u 40 4 % size = 0 ∧ a0 + n ≤ s.accOf t) →
       let out := fun (x : Word) => if c.u 33 1 = 0 then toLe 4 x.toNat else toLe 2 ((if c.u 33 1 = 1 then bf16 else fp16).enc .rne false (decF32 x))
       let into := fun (bs : List Byte) => if c.u 33 1 = 0 then BitVec.ofNat 32 (leNat bs) else encF32 ((if c.u 33 1 = 1 then bf16 else fp16).dec (leNat bs))
       c.Order n some_ order →
       Performs (fun i m m' =>
          (c.u 32 1 = 0 → ∃ u time, m.team? t.id = some u ∧ ¬ m.AccPoisoned u (a0 + i) 1 ∧ m.engineWrite c t (place i) size 16 (out (cget u.acc (a0 + i))) = .done m' time) ∧
          (c.u 32 1 ≠ 0 → ∃ m1 bs w, m.engineRead c t (place i) size size 16 = .ok m1 bs w ∧
            m' = (m1.scrub c (.acc t.id) (accBytes (a0 + i))).modTeam t.id fun u => { u with acc := cput u.acc (a0 + i) (into bs) })) order (s.begun c) s1 →
       ∃ s', exec (.accmove c.id some_) s = .next s' ∧ s1.Worked s' c n order n))) ∧
    ((∀ (s : State) (c : Cmd) (t : Team) (a b : TileRec) (md : Option TileRec) (some_ : List Nat), s.MayRun c t 0x10 [(16, 1), (17, 1), (18, 2), (20, 2), (22, 2), (24, 2), (26, 2), (28, 2), (32, 4), (36, 4), (40, 2), (42, 2), (44, 4), (48, 1), (49, 1), (50, 1), (51, 1)] True →
      s.tileA c t = some a → s.tileB c t = some b → s.tileM c t = md → s.dev.badSram = [] →
      (c.outs = none → c.MatrixFits t (s.accOf t) ((s.desc? t).elim 0 (·.nreg)) a b md →
        ((∀ k ∈ some_, k < 2 ^ 20) → ∀ (op : Cells 8) (left : Nat → Option Word), c.Sees t.opbuf op →
          (∀ k x, left k = some x ↔ ∃ i j, i < c.m ∧ j < c.n ∧ k = c.u 36 4 + i * c.u 42 2 + j ∧ x = mmaOut c { t with opbuf := op } a b md i j) →
          ∃ s', exec (.mma ⟨c.id, some_⟩) s = .next s' ∧ s.Multiplies s' c t left some_) ∧
        ((∃ k ∈ some_, 2 ^ 20 ≤ k) → ∃ s', exec (.mma ⟨c.id, some_⟩) s = .next s' ∧ s.ReadsAhead s' c t md some_)) ∧
      (∀ l, c.outs = some l → c.state = .running → (l.map (·.1)).Nodup →
        ∃ s', exec (.mma ⟨c.id, some_⟩) s = .next s' ∧ s.Multiplies s' c t (fun k => (l.find? fun e => e.1 == k).map (·.2)) some_))) ∧
    ((∀ (s : State) (c : Cmd) (t : Team) (a b : TileRec) (md : Option TileRec) (some_ : List Nat), s.MayRun c t 0x11 [(16, 1), (17, 1), (18, 2), (20, 2), (22, 2), (24, 2), (26, 2), (28, 2), (32, 4), (36, 4), (40, 2), (42, 2), (44, 4), (48, 1), (49, 1), (50, 1), (51, 1)] True →
      s.tileA c t = some a → s.tileB c t = some b → s.tileM c t = md → s.dev.badSram = [] →
      (c.outs = none → c.MatrixFits t (s.accOf t) ((s.desc? t).elim 0 (·.nreg)) a b md →
        ((∀ k ∈ some_, k < 2 ^ 20) → ∀ (op : Cells 8) (left : Nat → Option Word), c.Sees t.opbuf op →
          (∀ k x, left k = some x ↔ ∃ i j, i < c.m ∧ j < c.n ∧ k = c.u 36 4 + i * c.u 42 2 + j ∧ x = mmaOut c { t with opbuf := op } a b md i j) →
          ∃ s', exec (.mmas ⟨c.id, some_⟩) s = .next s' ∧ s.Multiplies s' c t left some_) ∧
        ((∃ k ∈ some_, 2 ^ 20 ≤ k) → ∃ s', exec (.mmas ⟨c.id, some_⟩) s = .next s' ∧ s.ReadsAhead s' c t md some_)) ∧
      (∀ l, c.outs = some l → c.state = .running → (l.map (·.1)).Nodup →
        ∃ s', exec (.mmas ⟨c.id, some_⟩) s = .next s' ∧ s.Multiplies s' c t (fun k => (l.find? fun e => e.1 == k).map (·.2)) some_))) ∧
    ((∀ (a b : Nat → Val) (x y : Nat → ℚ) (lo hi : Nat), (∀ i, lo ≤ i → i < hi → (a i).num = some (x i) ∧ (b i).num = some (y i)) →
      (dot a b lo hi).num = some (∑ i ∈ Finset.Ico lo hi, x i * y i))) ∧
    ((∀ (len n : Nat) (acc : Word) (a b : Nat → Val), 0 < len →
      fpOut len ((n + 1) * len) acc a b = chunkStep (fpOut len (n * len) acc a b) (dot a b (n * len) ((n + 1) * len)))) ∧
    ((∀ (k : Nat) (acc : Word) (a b : Nat → Int), intOut k acc a b = acc + BitVec.ofInt 32 (∑ i ∈ Finset.range k, a i * b i)))

/-- A maintenance command that holds its block writes what its rule says and prepares its closing write: KAPP the quantised key and value and an envelope that covers the key, KREQ every position anew under its new scales, KROT every key rotated, KSUM the envelope, KTRUNC the count; a full block gives FULL; the closing write waits for T + 2 and then frees the block; a held block is tried again, or gives BUSY after 2^24 ticks. ATTN captures and sorts its blocks, visits them one after another, halts by its tolerance or with STALE, and finishes with its outputs and cursor; a parked one goes on when its page is there, and 256 unstable reads end it. An element decodes under its scale and is quantised to the nearest that its format holds; an envelope’s bounds are the tightest BF16 numbers that hold its keys; a rotation rounds each coordinate once; a block’s bound is the largest of its queries’, and a visit moves each query’s maximum, sum and outputs as R300 says. That a maintenance command does its work between claim and closing write in one step, and ATTN a visit, and that a locked block is read again, are the model’s choices (log entries 62 and 58) (R287, R288, R290, R291, R292, R293, R298, R299, R300, R301, R302, R392) -/
def Obligations.AttentionAndMaintenance : Prop :=
  ((∀ (s : State) (c : Cmd) (t : Team) (s2 : State) (e : Envelope) (t0 : Nat),
      s.MayRun c t 0x21 [(16, 4), (24, 8), (32, 8), (40, 8), (48, 1), (49, 1)] (geomBad (c.u 16 4) false = false ∧ c.u 48 1 ≠ 255 ∧ c.u 49 1 ≠ 255) → c.consumed = false → (s.begunAt c).HoldsBlock c t s2 e t0 →
      let g := c.geom
      (e.n = g.nk → ∀ m1 w m2 time, s2.seqWords c t (c.addr 24 + 4) 24 1 = .ok (m1, [w]) → m1.seqPut c t (c.addr 24 + 4) 24 [w &&& 0x00FFFFFF] = .ok (m2, time) →
          ∃ s', exec (.kapp c.id) s = .next s' ∧ s'.CmdIs c 0x0203 0 e.n ∧ { s' with cmds := m2.cmds } = m2) ∧
      (e.n ≠ g.nk → ∀ s3 kw s4 vw s5 t1 s6 t2 m t3, s2.seqWords c t (c.addr 32) 32 g.d = .ok (s3, kw) → s3.seqWords c t (c.addr 40) 40 g.d = .ok (s4, vw) →
        let scale := fun (f old new : Nat) => if e.n = 0 then (if f = 2 then 0x7F else new) else old
        let e1 : Envelope := { e with ksc := scale g.kf e.ksc (c.u 48 1), vsc := scale g.vf e.vsc (c.u 49 1) }
        let key := kw.map fun x => quantise g.kf e1.ksc (decF32 x)
        let k := key.map (elemVal g.kf e1.ksc)
        s4.seqPut c t (c.addr 24 + g.keyAt e.n) 24 (rowWords g.kf key) = .ok (s5, t1) →
        s5.seqPut c t (c.addr 24 + g.valueAt e.n) 24 (rowWords g.vf (vw.map fun x => quantise g.vf e1.vsc (decF32 x))) = .ok (s6, t2) →
        s6.putEnv c t (c.addr 24) 24 (if e.n = 0 then envFor g e1 [k] else widen e1 k) (max t1 t2) = .ok (m, t3) →
        ∃ s', exec (.kapp c.id) s = .next s' ∧ m.Prepared s' c e.ver (e.n + 1) (max t0 t3)))) ∧
    ((∀ (s : State) (c : Cmd) (t : Team) (s2 : State) (e : Envelope) (t0 : Nat),
      s.MayRun c t 0x22 [(16, 4), (24, 8), (32, 1), (33, 1)] (geomBad (c.u 16 4) false = false ∧ True) → c.consumed = false → (s.begunAt c).HoldsBlock c t s2 e t0 →
      let g := c.geom
      ∀ s3 kc s4 vc m t3, s2.rows c t (c.addr 24) 24 g true e.n = .ok (s3, kc) → s3.rows c t (c.addr 24) 24 g false e.n = .ok (s4, vc) →
        let scale := fun (f old new : Nat) => if f = 2 then 0x7F else if new = 0xFF then old else new
        let e1 : Envelope := { e with ksc := scale g.kf e.ksc (c.u 32 1), vsc := scale g.vf e.vsc (c.u 33 1) }
        let anew := fun (f old new : Nat) (r : List Nat) => (r.map (elemVal f old)).map (quantise f new)
        let keys := kc.map (anew g.kf e.ksc e1.ksc)
        s4.Rewrites m c t e (envFor g e1 (keys.map fun r => r.map (elemVal g.kf e1.ksc))) keys (vc.map (anew g.vf e.vsc e1.vsc)) t3 →
        ∃ s', exec (.kreq c.id) s = .next s' ∧ m.Prepared s' c (e.ver + 2) e.n (max t0 t3))) ∧
    ((∀ (s : State) (c : Cmd) (t : Team) (s2 : State) (e : Envelope) (t0 : Nat),
      s.MayRun c t 0x23 [(16, 4), (24, 8), (32, 4), (40, 8)] (geomBad (c.u 16 4) false = false ∧ True) → c.consumed = false → (s.begunAt c).HoldsBlock c t s2 e t0 →
      let g := c.geom
      ∀ s3 freq s4 kc m t3, s2.seqWords c t (c.addr 40) 40 (g.d / 2) = .ok (s3, freq) → s3.rows c t (c.addr 24) 24 g true e.n = .ok (s4, kc) →
        let keys := kc.map fun r => (rotated (c.s32 32) freq (r.map (elemVal g.kf e.ksc))).map (quantise g.kf e.ksc)
        s4.Rewrites m c t e (envFor g e (keys.map fun r => r.map (elemVal g.kf e.ksc))) keys [] t3 →
        ∃ s', exec (.krot c.id) s = .next s' ∧ m.Prepared s' c (e.ver + 2) e.n (max t0 t3))) ∧
    ((∀ (s : State) (c : Cmd) (t : Team) (s2 : State) (e : Envelope) (t0 : Nat),
      s.MayRun c t 0x24 [(16, 4), (24, 8)] (geomBad (c.u 16 4) false = false ∧ True) → c.consumed = false → (s.begunAt c).HoldsBlock c t s2 e t0 →
      let g := c.geom
      ∀ s3 kc m t3, s2.rows c t (c.addr 24) 24 g true e.n = .ok (s3, kc) →
        s3.Rewrites m c t e (envFor g e (kc.map fun r => r.map (elemVal g.kf e.ksc))) [] [] t3 →
        ∃ s', exec (.ksum c.id) s = .next s' ∧ m.Prepared s' c (e.ver + 2) e.n (max t0 t3))) ∧
    ((∀ (s : State) (c : Cmd) (t : Team) (s2 : State) (e : Envelope) (t0 : Nat),
      s.MayRun c t 0x25 [(16, 4), (24, 8), (32, 2)] (geomBad (c.u 16 4) false = false ∧ True) → c.consumed = false → (s.begunAt c).HoldsBlock c t s2 e t0 →
      (c.u 32 2 < e.n → ∃ s', exec (.ktrunc c.id) s = .next s' ∧ s2.Prepared s' c (e.ver + 2) (c.u 32 2) t0) ∧
      (e.n ≤ c.u 32 2 → ∀ m1 w m2 time, s2.seqWords c t (c.addr 24 + 4) 24 1 = .ok (m1, [w]) → m1.seqPut c t (c.addr 24 + 4) 24 [w &&& 0x00FFFFFF] = .ok (m2, time) →
          ∃ s', exec (.ktrunc c.id) s = .next s' ∧ s'.CmdIs c 0 0 e.n ∧ { s' with cmds := m2.cmds } = m2))) ∧
    ((∀ (s : State) (c : Cmd) (t : Team),
      let closes := fun (ev : Instr) (opc : Nat) => s.MayRun c t opc [] True → c.state = .running → c.consumed = true →
        ∀ s1 a w, s.engineRes c t (c.addr 24) 4 1 4 = (s1, .ok a) → c.scales = [(0, w)] →
          let now := s1.gtime (if a.space = .hbm then homeDie (a.bytes.headD 0) else t.die)
          (now < c.tc + 2 → exec ev s = .next s1) ∧
          (c.tc + 2 ≤ now → ∀ s2 time m1 x m2 time', s1.seqPut c t (c.addr 24) 24 [w] = .ok (s2, time) →
            s2.seqWords c t (c.addr 24 + 4) 24 1 = .ok (m1, [x]) → m1.seqPut c t (c.addr 24 + 4) 24 [x &&& 0x00FFFFFF] = .ok (m2, time') →
            ∃ s', exec ev s = .next s' ∧ m2.BodyDone s' c c.count)
      closes (.kapp c.id) 0x21 ∧ closes (.kreq c.id) 0x22 ∧ closes (.krot c.id) 0x23 ∧ closes (.ksum c.id) 0x24 ∧ closes (.ktrunc c.id) 0x25)) ∧
    ((∀ (s : State) (c : Cmd) (t : Team), s.cmd? c.id = some c → s.team? c.team = some t → c.claimed = false → c.state = .running →
      (c.opc = 0x21 → exec (.blockClaimRetry c.id) s = exec (.kapp c.id) s) ∧ (c.opc = 0x22 → exec (.blockClaimRetry c.id) s = exec (.kreq c.id) s) ∧
      (c.opc = 0x23 → exec (.blockClaimRetry c.id) s = exec (.krot c.id) s) ∧ (c.opc = 0x24 → exec (.blockClaimRetry c.id) s = exec (.ksum c.id) s) ∧
      (c.opc = 0x25 → exec (.blockClaimRetry c.id) s = exec (.ktrunc c.id) s) ∧
      (0x21 ≤ c.opc → c.opc ≤ 0x25 → c.cls = 2 →
        (c.at_ + 2 ^ 24 ≤ s.gtime c.die → ∃ s', exec (.maintenanceBusy c.id) s = .next s' ∧ s'.CmdIs c 0x0205 0 0 ∧ s'.teams = s.teams) ∧
        (s.gtime c.die < c.at_ + 2 ^ 24 → exec (.maintenanceBusy c.id) s = .next s) ∧
        (c.addr 24 % 128 = 0 → ∀ m w, s.seqWords c t (c.addr 24 + 4) 24 1 = .ok (m, [w]) → 2 ^ 24 ≤ w.toNat → c.consumed = false →
          exec (.blockClaimRetry c.id) s = .next m)))) ∧
    ((∀ (s : State) (c : Cmd) (t : Team) (s1 : State) (q : List (List Nat)) (s2 : State) (st : AttnState) (s3 : State) (u : Word) (w : Nat),
      s.MayRun c t 0x20 [(16, 4), (20, 4), (24, 8), (32, 8), (40, 4), (44, 4), (48, 8), (56, 8)] (∀ f ∈ attnFields c, f.2.2 = false) →
      c.attn = none → c.rsm = false → (s.begun c).queries c t c.nq = .ok (s1, q) →
      let st0 : AttnState := { attnStart c [] with q := q }
      State.captures c t c.nb (Cmd.keep s1 c st0) st0 = (s2, st, none) → s2.phaseS c t 0 none = .ok (s3, (u, w)) →
      (0 < c.nb → ∃ s', exec (.attn c.id) s = .next s' ∧ s3.AttnIs s' c { st with phase := 2, u0 := u, bdone := c.nb }) ∧
      (c.nb = 0 → ∀ m, (s3.modCmd c.id fun x => { x with tc := max x.tc w }).Finishes m c t { st with phase := 2, u0 := u, bdone := 0, r := st.r.map fun _ => 0 } →
        ∃ s', exec (.attn c.id) s = .next s' ∧ m.BodyDone s' c 0))) ∧
    ((∀ (es : List WorkEntry), (∀ e ∈ es, (decF32 e.u).isNan = false) →
      (sortBy WorkEntry.before es).Perm es ∧
        (sortBy WorkEntry.before es).Pairwise fun x y =>
          (decF32 x.u).cmp (decF32 y.u) = some .gt ∨ ((decF32 x.u).cmp (decF32 y.u) = some .eq ∧ x.idx ≤ y.idx))) ∧
    ((∀ (s : State) (c : Cmd) (t : Team) (st : AttnState) (s1 : State) (e : WorkEntry), s.startable c.id = some (c, t) → c.opc = 0x20 → c.state = .running →
      c.attn = some st → st.phase = 2 → st.k < c.nb → s.workEntry c t st.k = .ok (s1, e) →
      let rest := (List.range st.q.length).map fun i => restOf e.sum st.u0 (st.m.getD i 0) (st.l.getD i 0)
      let st1 := if st.k = 0 then st else { st with r := rest }
      let low := fun (x : Word) => (decF32 x).cmp (decF32 st.tol) = some .lt ∨ (decF32 x).cmp (decF32 st.tol) = some .eq
      (0 < st.k → (∀ x ∈ rest, low x) → ∀ m, s1.Finishes m c t st1 → ∃ s', exec (.attnVisit c.id) s = .next s' ∧ m.BodyDone s' c st.k) ∧
      (st.k = 0 ∨ ¬ (∀ x ∈ rest, low x) → ∀ s2 blk s3 env, s1.listEntry c t e.idx = .ok (s2, blk) → s2.stableHead c t blk = .ok (s3, env) →
        (env.ver = e.cv → ∀ s4 kc s5 vc, s3.rows c t blk 24 c.geom true e.cn = .ok (s4, kc) → s4.rows c t blk 24 c.geom false e.cn = .ok (s5, vc) →
          let st2 := st1.visited c.geom c.scaleC (kc.map fun r => r.map (elemVal c.geom.kf env.ksc)) (vc.map fun r => r.map (elemVal c.geom.vf env.vsc))
          (st.k + 1 < c.nb → ∃ s', exec (.attnVisit c.id) s = .next s' ∧ s5.AttnIs s' c st2) ∧
          (st.k + 1 = c.nb → ∀ m, s5.Finishes m c t { st2 with r := st2.r.map fun _ => 0 } →
            ∃ s', exec (.attnVisit c.id) s = .next s' ∧ m.BodyDone s' c c.nb)) ∧
        (env.ver ≠ e.cv → ∀ s4 anew, s3.stableEnv c t blk = .ok (s4, anew) →
          (decF32 (blockBound c.geom c.scaleC anew st.q)).cmp (decF32 e.u) = some .gt → ∀ m w, s4.putCursor c t { st1 with phase := 3 } = .ok (m, w) →
          ∃ s', exec (.attnVisit c.id) s = .next s' ∧ s'.CmdIs c 0x0201 (st.k % 65536) st.k ∧ s'.teams = m.teams)))) ∧
    ((∀ (f scale : Nat) (v : Val) (x : ℚ), 2 ≤ f → f ≤ 5 → scale < 255 → v.num = some x →
        Nearest (elemVal f 127) (if f = 2 then 2 ^ 16 else 256) (if f = 2 then x else x * (2 : ℚ) ^ (127 - scale : ℤ)) (quantise f scale v)) ∧
      ∀ (f scale code : Nat), 2 ≤ f → f ≤ 5 → scale < 255 →
        (f = 2 → elemVal f scale code = bf16.dec code) ∧ (f ≠ 2 → (elemVal f scale code).num = (elemVal f 127 code).num.map (· * (2 : ℚ) ^ (scale - 127 : ℤ))) ∧
        (f = 3 → (elemVal f 127 code).num = (decE4m3 code).num) ∧ (f = 4 → (elemVal f 127 code).num = (e5m2.dec code).num) ∧
        (f = 5 → (elemVal f 127 code).num = (decT8 code).num)) ∧
    ((∀ (g : Geom) (e : Envelope) (key : List Val) (keys : List (List Val)), (∀ k ∈ key :: keys, k.length = g.d) → g.d % 2 = 0 →
      let e' := envFor g e (key :: keys)
      { e' with lo := e.lo, hi := e.hi, rho := e.rho, bv := e.bv } = e ∧ e'.bv = true ∧ e'.Bounds g.d (key :: keys) ∧
        (∀ more, more.length = g.d → let w := widen e' more
          { w with lo := e'.lo, hi := e'.hi, rho := e'.rho } = e' ∧ w.Bounds g.d (key :: keys ++ [more])) ∧
        envFor g e [] = { e with bv := false, lo := List.replicate g.d 0, hi := List.replicate g.d 0, rho := List.replicate (g.d / 2) 0 })) ∧
    ((∀ (delta : Int) (freq : List Word) (k : List Val) (j : Nat) (x y f : ℚ), 2 * j + 1 < k.length → k.length % 2 = 0 →
      (k.getD (2 * j) .nan).num = some x → (k.getD (2 * j + 1) .nan).num = some y → (decF32 (freq.getD j 0)).num = some f →
      |(delta : ℚ) * f| < (2 : ℚ) ^ 128 - (2 : ℚ) ^ 103 → ∃ phi : Word, Nearest fp32Word (2 ^ 32) (delta * f) phi.toNat ∧
        ∀ co si : ℚ, (decF32 (encF32 (decF32 phi).cos)).num = some co → (decF32 (encF32 (decF32 phi).sin)).num = some si →
          |x * co - y * si| < (2 : ℚ) ^ 128 - (2 : ℚ) ^ 103 → |x * si + y * co| < (2 : ℚ) ^ 128 - (2 : ℚ) ^ 103 →
          ∃ a b : Word, (rotated delta freq k).getD (2 * j) .nan = decF32 a ∧ (rotated delta freq k).getD (2 * j + 1) .nan = decF32 b ∧
            Nearest fp32Word (2 ^ 32) (x * co - y * si) a.toNat ∧ Nearest fp32Word (2 ^ 32) (x * si + y * co) b.toNat)) ∧
    ((∀ (g : Geom) (c : Word) (e : Envelope) (qs : List (List Nat)),
      (e.n = 0 → blockBound g c e qs = 0xFF800000) ∧
      (qs ≠ [] → (∃ q ∈ qs, blockBound g c e qs = blockBound g c e [q]) ∧
        ∀ q ∈ qs, (decF32 (blockBound g c e [q])).cmp (decF32 (blockBound g c e qs)) ≠ some .gt) ∧
      ∀ (q : List Nat) (box rad : Nat → Word), e.n ≠ 0 → box 0 = 0 → rad 0 = 0 →
        let qv := fun (i : Nat) => BitVec.ofNat 32 (65536 * q.getD i 0)
        let bf := fun (l : List Nat) (i : Nat) => BitVec.ofNat 32 (65536 * l.getD i 0)
        (∀ i, i < g.d → box (i + 1) = bAdd (box i) (bMax (bMul (qv i) (bf e.lo i)) (bMul (qv i) (bf e.hi i)))) →
        (∀ j, j < g.d / 2 → rad (j + 1) = bAdd (rad j)
          (bMul (bSqrt (bAdd (bMul (qv (2 * j)) (qv (2 * j))) (bMul (qv (2 * j + 1)) (qv (2 * j + 1))))) (bf e.rho j))) →
        let b := bMul c (if e.bv = true then bMin (box g.d) (rad (g.d / 2)) else rad (g.d / 2))
        blockBound g c e [q] = if (decF32 b).isNan = true then 0x7F800000 else b)) ∧
    ((∀ (st : AttnState) (g : Geom) (c : Word) (keys values : List (List Val)), keys.length = values.length →
      let st' := st.visited g c keys values
      { st' with m := st.m, l := st.l, o := st.o, k := st.k, tries := st.tries } = st ∧ st'.k = st.k + 1 ∧ st'.tries = 0 ∧
        ∀ q, q < st.q.length → (st.o.getD q []).length = g.d → (∀ v ∈ values, v.length = g.d) →
          let dot := fun (i : Nat) => fpOut 16 g.d 0 (fun ch => bf16.dec ((st.q.getD q []).getD ch 0)) fun ch => (keys.getD i []).getD ch .nan
          ∃ o : Nat → Word, st'.o.getD q [] = (List.range g.d).map o ∧
            QueryVisit keys.length (fun i => encF32 ((decF32 c).mul (decF32 (dot i)))) (fun i ch => encF32 ((values.getD i []).getD ch .nan))
              (st.m.getD q 0) (st.l.getD q 0) (fun ch => (st.o.getD q []).getD ch 0) (st'.m.getD q 0) (st'.l.getD q 0) o)) ∧
    ((∀ (s : State) (c : Cmd) (t : Team) (va : Nat), s.cmd? c.id = some c → s.team? c.team = some t → c.opc = 0x20 → c.state = .waiting va 0 →
      let r := s.engineRes c t va 1 (if c.detail = 48 ∨ c.detail = 56 then 1 else 0) 1
      ((∃ x y, r.2 = .xlate x y) → exec (.attnParkResume c.id) s = .next s) ∧
      ((∀ x y, r.2 ≠ .xlate x y) → ∃ s', exec (.attnParkResume c.id) s = .next s' ∧ { s' with cmds := r.1.cmds } = r.1 ∧
        s'.cmd? c.id = some { c with state := .running }))) ∧
    ((∀ (s : State) (c : Cmd) (t : Team) (st : AttnState), s.startable c.id = some (c, t) → c.opc = 0x20 → c.attn = some st → st.phase = 1 →
      (0 < st.tries → (256 ≤ st.tries ∨ st.since + 2 ^ 20 ≤ s.gtime c.die) → ∀ m w, s.putCursor c t st = .ok (m, w) →
        ∃ s', exec (.attnUnstable c.id) s = .next s' ∧ s'.CmdIs c 0x0204 st.pos st.k ∧ s'.teams = m.teams) ∧
      (st.tries < 256 → (st.tries = 0 ∨ s.gtime c.die < st.since + 2 ^ 20) → exec (.attnUnstable c.id) s = .next s)))

/-- A collective engine takes up to 16 programs, each of which begins with the counts of the channels that its steps name; each step does what its rule says: SEND, RECV and RRS by the slot protocol, COPY, WAIT, NOTIFY, LOOP, ENDLOOP, PEER (a negated source of its XOR as 32 bits in two’s complement, the model’s choice of log entry 92) and PUTR with its reservation, and END; a peer register outside the ranks makes a step do nothing, and a step that must wait leaves the device as it is and notes since when. That the channels are those that the steps name is the model’s choice (log entry 93), as are a transfer performed at once at the own package (log entry 61) and an uncorrectable granule recorded in the ring of the peer’s context (log entry 103). A transfer is sent to another package, where its arrival performs and answers it; an acknowledgement raises the times of its package, and the last one ends a COPYRED; a wait beyond TMO ends its program with TIMEOUT (R310, R312, R313, R314, R315, R316, R317, R318, R319, R320, R322, R393) -/
def Obligations.CollectivePrograms : Prop :=
  ((∀ (s : State) (c : Cmd) (t : Team), s.MayRun c t 0x30 [(16, 8), (24, 4), (28, 4), (32, 8), (40, 8), (48, 4), (52, 2), (54, 2), (56, 1)]
        (c.rank < c.size ∧ 1 ≤ c.size ∧ c.size ≤ 65536 ∧ c.chunk % 64 = 0 ∧ 64 ≤ c.chunk ∧ c.chunk ≤ 2 ^ 24 ∧ 1 ≤ c.nstep ∧ c.nstep ≤ 4096 ∧
          1 ≤ c.nsl ∧ c.nsl ≤ 16) → c.coll = none →
      c.state = .queued →
      let chs := ((List.range c.nstep).flatMap ((s.begun c).stepChannels c t)).dedup
      (16 ≤ s.served (c.die / 2) → exec (.cprog c.id) s = .next s) ∧
      (s.served (c.die / 2) < 16 →
        (chs = [] → ∃ s', exec (.cprog c.id) s = .next s' ∧ s.StepLeaves s' c CollState.fresh) ∧
        (chs ≠ [] → ∀ s1 args s2 st, (s.begun c).collRead c t (c.addr 40) 64 64 40 = .ok (s1, args) →
          s1.readChannels c t args { CollState.fresh with wait := .start } chs = .ok (s2, st) →
          ∃ s', exec (.cprog c.id) s = .next s' ∧ s2.StepLeaves s' c { st with wait := .none })))) ∧
    ((∀ (s : State) (c : Cmd) (t : Team) (st : CollState) (s1 : State) (b : StepBytes) (args : List Byte), s.AtStep c t st 1 s1 b args →
      st.step + 1 < c.nstep →
      ((¬ ∃ r, st.Names c (StepBytes.q b) r) → ∃ s', exec (.send c.id) s = .next s' ∧ s1.StepLeaves s' c (st.go (st.step + 1))) ∧
      (∀ ch r n s2 pkg boff, st.wait = .tail ch r n → (∃ r, st.Names c (StepBytes.q b) r) → s1.rankEntry c t r = .ok (s2, pkg, boff) →
        (s2.mayRelease t st pkg (c.region args boff ch) = false → ∃ s', exec (.send c.id) s = .next s' ∧ s2.StepLeaves s' c st) ∧
        (s2.mayRelease t st pkg (c.region args boff ch) = true → ∀ s3 st3, s2.transfer c t st pkg (c.region args boff ch) .releaseWrite (toLe 8 n) = .ok (s3, st3) →
          ∃ s', exec (.send c.id) s = .next s' ∧ s3.StepLeaves s' c
            ({ st3 with chans := st3.chans.map fun (x : Nat × Nat × Nat) => if x.1 = ch then (ch, n, x.2.2) else x }.go (st.step + 1)))) ∧
      ∀ r s2 ws s3 st3 sent taken s4 x own s5 rh, st.Names c (StepBytes.q b) r → (∀ ch r n, st.wait ≠ .tail ch r n) →
        s1.collWords c t (st.bufferAt c args b (StepBytes.b b) (StepBytes.x b)) 40 (StepBytes.bytes b c.chunk / 4) = .ok (s2, ws) →
        let ch := StepBytes.c b
        s2.channel c t args st ch = .ok (s3, st3, sent, taken) → s3.rankEntry c t c.rank = .ok (s4, x, own) →
        s4.collRead c t (c.region args own ch + 8) 8 8 40 = .ok (s5, rh) → leNat rh ≤ sent →
        (c.nsl ≤ sent - leNat rh → ∃ s', exec (.send c.id) s = .next s' ∧ s1.StepLeaves s' c { st with since := some (st.since.getD (s1.gtime c.die)) }) ∧
        (sent - leNat rh < c.nsl → ∀ s6 pkg boff s7 st7, s5.rankEntry c t r = .ok (s6, pkg, boff) →
          s6.transfer c t st3 pkg (c.region args boff ch + 128 + sent % c.nsl * c.chunk) .write (bytesOf ws) = .ok (s7, st7) →
          ∃ s', exec (.send c.id) s = .next s' ∧ s7.StepLeaves s' c { st7 with wait := .tail ch r (sent + 1), since := none }))) ∧
    ((∀ (s : State) (c : Cmd) (t : Team) (st : CollState) (s1 : State) (b : StepBytes) (args : List Byte), s.AtStep c t st 2 s1 b args →
      st.step + 1 < c.nstep →
      ((¬ ∃ r, st.Names c (StepBytes.q b) r) → ∃ s', exec (.recv c.id) s = .next s' ∧ s1.StepLeaves s' c (st.go (st.step + 1))) ∧
      ∀ r s3 st3 sent taken s4 x own s5 tl s6 pkg boff, st.Names c (StepBytes.q b) r →
        let len := StepBytes.bytes b c.chunk
        let ch := StepBytes.c b
        let buffer := st.bufferAt c args b (StepBytes.b b) (StepBytes.x b)
        s1.writable c t buffer 40 (len / 4) = .ok () → s1.channel c t args st ch = .ok (s3, st3, sent, taken) →
        s3.rankEntry c t c.rank = .ok (s4, x, own) → s4.collRead c t (c.region args own ch) 8 8 40 = .ok (s5, tl) → leNat tl - taken ≤ c.nsl →
        s5.rankEntry c t r = .ok (s6, pkg, boff) →
        let notice := c.region args boff ch + 8
        (leNat tl ≤ taken → ∃ s', exec (.recv c.id) s = .next s' ∧ s1.StepLeaves s' c { st with since := some (st.since.getD (s1.gtime c.die)) }) ∧
        (taken < leNat tl → s6.mayRelease t st3 pkg notice = false → ∃ s', exec (.recv c.id) s = .next s' ∧ s1.StepLeaves s' c { st with since := none }) ∧
        (taken < leNat tl → s6.mayRelease t st3 pkg notice = true → ∀ s7 ws s8 st8 s9 st9,
          s6.collWords c t (c.region args own ch + 128 + taken % c.nsl * c.chunk) 40 (len / 4) = .ok (s7, ws) →
          s7.transfer c t st3 pkg notice .releaseWrite (toLe 8 (taken + 1)) = .ok (s8, st8) → s8.collPut c t (st8.setChan ch sent (taken + 1)) buffer 40 ws = .ok (s9, st9) →
          ∃ s', exec (.recv c.id) s = .next s' ∧ s9.StepLeaves s' c (st9.go (st.step + 1))))) ∧
    ((∀ (s : State) (c : Cmd) (t : Team) (st : CollState) (s1 : State) (b : StepBytes) (args : List Byte), s.AtStep c t st 3 s1 b args →
      st.step + 1 < c.nstep →
      ((¬ ∃ r, st.Names c (StepBytes.q b) r) → ∃ s', exec (.rrs c.id) s = .next s' ∧ s1.StepLeaves s' c (st.go (st.step + 1))) ∧
      (∀ ch r n s2 pkg boff, st.wait = .tail ch r n → (∃ r, st.Names c (StepBytes.q b) r) → s1.rankEntry c t r = .ok (s2, pkg, boff) →
        (s2.mayRelease t st pkg (c.region args boff ch) = false → ∃ s', exec (.rrs c.id) s = .next s' ∧ s2.StepLeaves s' c st) ∧
        (s2.mayRelease t st pkg (c.region args boff ch) = true → ∀ s3 st3, s2.transfer c t st pkg (c.region args boff ch) .releaseWrite (toLe 8 n) = .ok (s3, st3) →
          ∃ s', exec (.rrs c.id) s = .next s' ∧ s3.StepLeaves s' c
            ({ st3 with chans := st3.chans.map fun (x : Nat × Nat × Nat) => if x.1 = ch then (ch, n, x.2.2) else x }.go (st.step + 1)))) ∧
      let fn := StepBytes.fn b
      let keep := StepBytes.bits b 13 5 1 = 1
      let onward := fun (r : Nat) => StepBytes.bits b 13 6 1 = 0 ∧ st.Names c (StepBytes.bits b 13 3 2) r
      let e : StepEnv := ⟨c, t, st, b, args⟩
      (∀ z r2 s' st', st.wait = .sendOn z → (∃ r, st.Names c (StepBytes.q b) r) → onward r2 → s1.sendBytes e st (StepBytes.bits b 13 0 3) r2 z = .ok (s', st') →
        ∃ m, exec (.rrs c.id) s = .next m ∧ s'.StepLeaves m c st') ∧
      ∀ r s2 old s3 st3 bs s4 st4, st.Names c (StepBytes.q b) r → st.wait = .none →
        let len := StepBytes.bytes b c.chunk
        let buffer := st.bufferAt c args b (StepBytes.b b) (StepBytes.x b)
        (keep → s1.writable c t buffer 40 (len / 4) = .ok ()) → (fn % 16 = 3 → s2 = s1) →
        (fn % 16 ≠ 3 → s1.collWords c t buffer 40 (len / 4) = .ok (s2, old)) → s2.receive e (StepBytes.c b) r len = .ok (s3, st3, bs) →
        let z := if fn % 16 = 3 then wordsOf bs else old.zipWith (combineElem fn) (wordsOf bs)
        (keep → s3.collPut c t st3 buffer 40 z = .ok (s4, st4)) → (¬ keep → s4 = s3 ∧ st4 = st3) →
        ((∀ r2, ¬ onward r2) → ∃ s', exec (.rrs c.id) s = .next s' ∧ s4.StepLeaves s' c (st4.go (st.step + 1))) ∧
        (∀ r2, onward r2 → ∃ s', exec (.rrs c.id) s = .next s' ∧ s4.StepLeaves s' c { st4 with wait := .sendOn (bytesOf z), since := none }))) ∧
    ((∀ (s : State) (c : Cmd) (t : Team) (st : CollState) (s1 : State) (b : StepBytes) (args : List Byte), s.AtStep c t st 4 s1 b args →
      st.step + 1 < c.nstep →
      ∀ s2 ws s3 st3, s1.collWords c t (st.bufferAt c args b (StepBytes.b b) (StepBytes.x b)) 40 (StepBytes.bytes b c.chunk / 4) = .ok (s2, ws) →
        s2.collPut c t st (st.bufferAt c args b (StepBytes.b2 b) (StepBytes.x2 b)) 40 ws = .ok (s3, st3) →
          ∃ s', exec (.cprogCopy c.id) s = .next s' ∧ s3.StepLeaves s' c (st3.go (st.step + 1)))) ∧
    ((∀ (s : State) (c : Cmd) (t : Team) (st : CollState) (s1 : State) (b : StepBytes) (args : List Byte), s.AtStep c t st 5 s1 b args →
      st.step + 1 < c.nstep →
      ∀ s2 x own s3 bs, s1.rankEntry c t c.rank = .ok (s2, x, own) →
        s2.collRead c t (st.bufferAt c args b (StepBytes.b b) (StepBytes.x b) + own) 8 8 40 = .ok (s3, bs) →
        (StepBytes.val b ≤ leNat bs → ∃ s', exec (.cprogWait c.id) s = .next s' ∧ s3.StepLeaves s' c (st.go (st.step + 1))) ∧
        (leNat bs < StepBytes.val b → ∃ s', exec (.cprogWait c.id) s = .next s' ∧ s1.StepLeaves s' c { st with since := some (st.since.getD (s1.gtime c.die)) }))) ∧
    ((∀ (s : State) (c : Cmd) (t : Team) (st : CollState) (s1 : State) (b : StepBytes) (args : List Byte), s.AtStep c t st 6 s1 b args →
      st.step + 1 < c.nstep →
      ((¬ ∃ r, st.Names c (StepBytes.q b) r) → ∃ s', exec (.notify c.id) s = .next s' ∧ s1.StepLeaves s' c (st.go (st.step + 1))) ∧
      ∀ r s2 pkg boff, st.Names c (StepBytes.q b) r → s1.rankEntry c t r = .ok (s2, pkg, boff) →
        let va := st.bufferAt c args b (StepBytes.b b) (StepBytes.x b) + boff
        (s2.mayRelease t st pkg va = false → ∃ s', exec (.notify c.id) s = .next s' ∧ s2.StepLeaves s' c st) ∧
        (s2.mayRelease t st pkg va = true → ∀ s3 st3, s2.transfer c t st pkg va .releaseAdd (toLe 8 (StepBytes.val b)) = .ok (s3, st3) →
          ∃ s', exec (.notify c.id) s = .next s' ∧ s3.StepLeaves s' c (st3.go (st.step + 1))))) ∧
    ((∀ (s : State) (c : Cmd) (t : Team) (st : CollState) (s1 : State) (b : StepBytes) (args : List Byte), s.AtStep c t st 7 s1 b args →
      st.step + 1 < c.nstep →
      let n : Int := sx 32 (StepBytes.len b) + if StepBytes.fn b = 1 then (c.size : Int) else 0
      (st.loops.getD (StepBytes.c b) ⟨false, 0, 0, 0⟩).active = false →
      (0 < n → ∃ s', exec (.loop c.id) s = .next s' ∧ s1.StepLeaves s' c ({ st with loops := setAt st.loops (StepBytes.c b) fun _ => ⟨true, 0, n.toNat, st.step⟩ }.go (st.step + 1))) ∧
      (n ≤ 0 → ∀ next, s1.loopEnd c t (StepBytes.c b) c.nstep (st.step + 1) = .ok next → next < c.nstep →
        ∃ s', exec (.loop c.id) s = .next s' ∧ s1.StepLeaves s' c ({ st with loops := setAt st.loops (StepBytes.c b) fun _ => ⟨false, 0, 0, 0⟩ }.go next)))) ∧
    ((∀ (s : State) (c : Cmd) (t : Team) (st : CollState) (s1 : State) (b : StepBytes) (args : List Byte), s.AtStep c t st 8 s1 b args →
      st.step + 1 < c.nstep →
      let l := st.loops.getD (StepBytes.c b) ⟨false, 0, 0, 0⟩
      l.active = true →
      (l.value + 1 < l.count → l.start + 1 < c.nstep →
        ∃ s', exec (.endloop c.id) s = .next s' ∧ s1.StepLeaves s' c ({ st with loops := setAt st.loops (StepBytes.c b) fun _ => { l with value := l.value + 1 } }.go (l.start + 1))) ∧
      (l.count ≤ l.value + 1 → ∃ s', exec (.endloop c.id) s = .next s' ∧ s1.StepLeaves s' c
        ({ st with loops := setAt st.loops (StepBytes.c b) fun _ => { l with value := l.value + 1, active := false } }.go (st.step + 1))))) ∧
    ((∀ (s : State) (c : Cmd) (t : Team) (st : CollState) (s1 : State) (b : StepBytes) (args : List Byte), s.AtStep c t st 9 s1 b args →
      st.step + 1 < c.nstep →
      let x := st.source c.rank (StepBytes.x b)
      let y := st.source c.rank (StepBytes.x2 b)
      let k := sx 32 (StepBytes.len b)
      0 < c.size →
      ∃ v : Nat, (∃ s', exec (.peer c.id) s = .next s' ∧ s1.StepLeaves s' c ({ st with q := setAt st.q (StepBytes.q b) fun _ => v }.go (st.step + 1))) ∧
        (StepBytes.fn b = 0 → v < c.size ∧ (c.size : Int) ∣ (v : Int) - (x + (if StepBytes.flag b = true then -(y : Int) else y) + k)) ∧
        (StepBytes.fn b = 1 → v = x ^^^ (if StepBytes.flag b = true then (2 ^ 32 - y) % 2 ^ 32 else y) ^^^ StepBytes.len b) ∧
        (StepBytes.fn b = 2 → v < c.size ∧ (c.size : Int) ∣ (v : Int) - ((c.size : Int) - 1 - x + k)))) ∧
    ((∀ (s : State) (c : Cmd) (t : Team) (st : CollState) (s1 : State) (b : StepBytes) (args : List Byte), s.AtStep c t st 10 s1 b args →
      st.step + 1 < c.nstep →
      (StepBytes.flag b = true ∨ s1.isDet t = false) →
      ((¬ ∃ r, st.Names c (StepBytes.q b) r) → ∃ s', exec (.putr c.id) s = .next s' ∧ s1.StepLeaves s' c (st.go (st.step + 1))) ∧
      (∀ r s2 pkg boff, st.Names c (StepBytes.q b) r → st.wait = .none → s1.rankEntry c t r = .ok (s2, pkg, boff) →
        let area := argOf args (StepBytes.b2 b) + boff
        (pkg = s2.ownRank t.ctx → ∃ s', exec (.putr c.id) s = .next s' ∧ s2.StepLeaves s' c { st with wait := .reserve pkg area }) ∧
        (pkg ≠ s2.ownRank t.ctx → StepBytes.flag b = false → ∀ s3 st3,
          s2.transfer c t st pkg area .reserve (toLe 8 (StepBytes.nr b) ++ toLe 8 0) = .ok (s3, st3) →
          ∃ s', exec (.putr c.id) s = .next s' ∧ s3.StepLeaves s' c { st3 with wait := .reserve pkg area })) ∧
      (∀ pkg va nr, st.wait = .rows pkg va nr → (∃ r, st.Names c (StepBytes.q b) r) →
        (s1.mayRelease t st pkg (va + 16) = false → ∃ s', exec (.putr c.id) s = .next s' ∧ s1.StepLeaves s' c st) ∧
        (s1.mayRelease t st pkg (va + 16) = true → ∀ s3 st3, s1.transfer c t st pkg (va + 16) .releaseAdd (toLe 8 nr) = .ok (s3, st3) →
          ∃ s', exec (.putr c.id) s = .next s' ∧ s3.StepLeaves s' c (st3.go (st3.step + 1)))))) ∧
    ((∀ (s : State) (c : Cmd) (t : Team) (st : CollState) (s1 : State) (b : StepBytes) (args : List Byte), s.AtStep c t st 10 s1 b args →
      st.step + 1 < c.nstep →
      ∀ r pkg va row time, st.Names c (StepBytes.q b) r → st.wait = .reserve pkg va →
        let len := StepBytes.bytes b c.chunk
        let nr := StepBytes.nr b
        let later := fun (m : State) (w : Nat) => m.modCmd c.id fun x => { x with tc := max x.tc w }
        let grants := fun (m : State) (st2 : CollState) (got : Nat) =>
          (got = fullRow → StepBytes.ovf b < c.nstep →
            ∃ s', exec (.putrReserve c.id (row, time)) s = .next s' ∧ m.StepLeaves s' c ({ st2 with fulls := st2.fulls + 1 }.go (StepBytes.ovf b))) ∧
          (got ≠ fullRow → ∀ s3 ws s4 st4,
            m.collWords c t (st.bufferAt c args b (StepBytes.b b) (StepBytes.x b)) 40 (nr * len / 4) = .ok (s3, ws) →
            s3.transfer c t st2 pkg (va + 64 + got * len) .write (bytesOf ws) = .ok (s4, st4) →
            ∃ s', exec (.putrReserve c.id (row, time)) s = .next s' ∧ s4.StepLeaves s' c { st4 with wait := .rows pkg va nr })
        (pkg = s1.ownRank t.ctx → StepBytes.flag b = false → ∀ s2 got w, s1.peerReserve t.ctx va nr 0 = .ok (s2, got, w) →
          grants (later s2 w) (st.acked pkg w) got) ∧
        (pkg ≠ s1.ownRank t.ctx → (∃ x ∈ st.unacked, x.1 + 1 = st.seq) → time ≠ 0 →
          grants (later s1 (s1.gtime c.die + 1)) { st.acked pkg time with unacked := st.unacked.filter fun x => x.1 + 1 != st.seq } row) ∧
        (pkg ≠ s1.ownRank t.ctx → (∃ x ∈ st.unacked, x.1 + 1 = st.seq) → time = 0 → (∀ x ∈ st.unacked, x.1 + 1 = st.seq) → st.chans = [] →
          ∃ s', exec (.putrReserve c.id (row, 0)) s = .next s' ∧ s'.CmdIs c 0x0305 st.step st.steps ∧ { s' with cmds := s1.cmds } = s1) ∧
        (pkg ≠ s1.ownRank t.ctx → (∀ x ∈ st.unacked, x.1 + 1 ≠ st.seq) →
          ∃ s', exec (.putrReserve c.id (row, time)) s = .next s' ∧ s1.StepLeaves s' c st))) ∧
    ((∀ (s : State) (ctx va nr : Nat) (s1 s2 s3 s4 : State) (a1 a2 : Access) (cap used : List Byte) (w1 w2 : Nat), s.peerRes ctx va 8 = .ok (s1, a1) →
      (s1.poisoned a1.bytes = true → ∀ fixed, s.peerReserve ctx va nr fixed = .error (.poison a1.va)) ∧
      (s1.poisoned a1.bytes = false → s1.homeRead ctx a1 = (s2, cap, w1) → ∀ row,
        s.peerReserve ctx va nr (row + 1) = .ok (s2, if leNat cap < row + nr then fullRow else row, 1)) ∧
      (s1.poisoned a1.bytes = false → s1.homeRead ctx a1 = (s2, cap, w1) → s2.peerRes ctx (va + 8) 8 = .ok (s3, a2) →
        (s3.poisoned a2.bytes = true → s.peerReserve ctx va nr 0 = .error (.poison a2.va)) ∧
        (s3.poisoned a2.bytes = false → s3.homeRead ctx a2 = (s4, used, w2) →
          let q := s4.homeWrite ctx a2 (toLe 8 (leNat used + nr))
          (leNat used + nr ≤ leNat cap → s.peerReserve ctx va nr 0 = .ok (q.1, leNat used, q.2)) ∧
          (leNat cap < leNat used + nr → s.peerReserve ctx va nr 0 = .ok (s4, fullRow, 1)))))) ∧
    ((∀ (s s1 : State) (ctx va x : Nat) (op : Nat) (w : Word) (a : Access),
      (s.peerRes ctx va 8 = .ok (s1, a) → (s1.poisoned a.bytes = true → s.peerAdd ctx va x = .error (.poison a.va)) ∧
        (s1.poisoned a.bytes = false → ∀ m bs time, s1.homeRead ctx a = (m, bs, time) → s.peerAdd ctx va x = .ok (m.homeWrite ctx a (toLe 8 (leNat bs + x))))) ∧
      (s.peerRes ctx va 4 = .ok (s1, a) → a.attr.red = false → (s1.poisoned a.bytes = true → s.peerCombine ctx va op w = .error (.poison a.va)) ∧
        (s1.poisoned a.bytes = false → ∀ m bs time, s1.homeRead ctx a = (m, bs, time) →
          s.peerCombine ctx va op w = .ok (m.homeWrite ctx a (toLe 4 (redCombine (combineRop (op / 16) (op % 16)) (BitVec.ofNat 64 (leNat bs)) (w.zeroExtend 64)).toNat))) ∧
        s.peerWords ctx va [] [w] = .ok ((s1.homeWrite ctx a (toLe 4 w.toNat)).1.cure a.bytes, (s1.homeWrite ctx a (toLe 4 w.toNat)).2)))) ∧
    ((∀ (s : State) (c : Cmd) (t : Team) (st : CollState) (s1 : State) (b : StepBytes) (args : List Byte), s.AtStep c t st 11 s1 b args →
      st.unacked = [] → st.chans = [] →
        ∃ s', exec (.endStep c.id) s = .next s' ∧ s'.CmdIs c 0 (min st.fulls 65535) (st.steps + 1) ∧ { s' with cmds := s1.cmds } = s1)) ∧
    ((∀ (s : State) (c : Cmd) (t : Team) (st : CollState), s.startable c.id = some (c, t) → c.coll = some st →
      (st.since = none → exec (.slotHeaderReread c.id) s = .next s) ∧
      (∀ s1 b args, st.since ≠ none →
        (s.AtStep c t st 1 s1 b args → exec (.slotHeaderReread c.id) s = exec (.send c.id) s) ∧
        (s.AtStep c t st 2 s1 b args → exec (.slotHeaderReread c.id) s = exec (.recv c.id) s) ∧
        (s.AtStep c t st 3 s1 b args → exec (.slotHeaderReread c.id) s = exec (.rrs c.id) s)) ∧
      (∀ g, st.since = some g → st.ending = none → c.state = .running →
        (s.gtime c.die ≤ g + 1024 * c.tmo ∨ c.tmo = 0 → exec (.cprogTimeout c.id) s = .next s) ∧
        (g + 1024 * c.tmo < s.gtime c.die → c.tmo ≠ 0 → st.unacked = [] → st.chans = [] →
          ∃ s', exec (.cprogTimeout c.id) s = .next s' ∧ s'.CmdIs c 0x0301 st.step st.steps ∧ s'.teams = s.teams)))) ∧
    ((∀ (s : State) (c : Cmd) (t : Team) (st : CollState) (pkg va : Nat) (kind : FabricKind) (data : List Byte),
      (pkg ≠ s.ownRank t.ctx → s.reaches t.ctx pkg = true → ∃ m st', s.transfer c t st pkg va kind data = .ok (m, st') ∧ { m with outbox := s.outbox } = s ∧
        (∃ msg, m.outbox = s.outbox ++ [msg] ∧ msg.src = s.ownRank t.ctx ∧ msg.dst = pkg ∧ msg.cmd = c.id ∧ msg.kind = kind ∧ msg.va = va % 2 ^ 56 ∧
          msg.data = data ∧ msg.t = st.ackTime pkg ∧ st'.unacked = st.unacked ++ [(msg.seq, pkg, st.step)] ∧ ∀ x, s.ctx? t.ctx = some x → msg.job = x.job) ∧ st'.step = st.step ∧ st'.steps = st.steps) ∧
      (pkg = s.ownRank t.ctx → kind = .write ∨ kind = .releaseWrite → ∀ m w, s.peerWords t.ctx va [] (wordsOf data) = .ok (m, w) →
        ∃ m' st', s.transfer c t st pkg va kind data = .ok (m', st') ∧ { m' with cmds := m.cmds } = m ∧ st'.ackTime pkg = max w (st.ackTime pkg) ∧
          st'.unacked = st.unacked) ∧
      (pkg = s.ownRank t.ctx → kind = .releaseAdd → ∀ m w, s.peerAdd t.ctx va (leNat data) = .ok (m, w) →
        ∃ m' st', s.transfer c t st pkg va kind data = .ok (m', st') ∧ { m' with cmds := m.cmds } = m ∧ st'.ackTime pkg = max w (st.ackTime pkg) ∧
          st'.unacked = st.unacked))) ∧
    ((∀ (s : State) (msg : FabricMsg) (x : Nat) (s1 : State) (a : Access), s.peerCtx msg.job msg.dst = some x → s.peerRes x msg.va 4 = .ok (s1, a) →
      let ev : Instr := .fabricWriteArrival msg
      let answers := fun (m : State) (time : Nat) (data : List Byte) => ∃ s', exec ev s = .next s' ∧ { s' with outbox := m.outbox } = m ∧
        ∃ r, s'.outbox = m.outbox ++ [r] ∧ r.job = msg.job ∧ r.src = msg.dst ∧ r.dst = msg.src ∧ r.cmd = msg.cmd ∧ r.seq = msg.seq ∧ r.kind = .ack ∧ r.t = time ∧ r.data = data
      (msg.kind = .write → ∀ m w, s.peerWords x msg.va [] (wordsOf msg.data) = .ok (m, w) → answers m w []) ∧
      (msg.kind = .releaseWrite ∨ msg.kind = .releaseAdd → s.gtime (homeDie (a.bytes.headD 0)) < msg.t + 2 → exec ev s = .next s) ∧
      (msg.t + 2 ≤ s.gtime (homeDie (a.bytes.headD 0)) →
        (msg.kind = .releaseWrite → ∀ m w, s.peerWords x msg.va [] (wordsOf msg.data) = .ok (m, w) → answers m w []) ∧
        (msg.kind = .releaseAdd → ∀ m w, s.peerAdd x msg.va (leNat msg.data) = .ok (m, w) → answers m w [])) ∧
      (∀ op, msg.kind = .combine op → ∀ m w, s.peerCombine x msg.va op.toNat (BitVec.ofNat 32 (leNat msg.data)) = .ok (m, w) → answers m w []) ∧
      (msg.kind = .reserve → ∀ m row time, s.peerReserve x msg.va (fieldLe msg.data 0 8) (fieldLe msg.data 8 8) = .ok (m, row, time) →
        answers m time (toLe 8 row)) ∧
      (∀ op va, msg.kind = .combine op → s.peerCombine x msg.va op.toNat (BitVec.ofNat 32 (leNat msg.data)) = .error (.poison va) →
        answers (s.record { die := s.peerHome x va, cls := 0x0203, action := 5, ctx := x, addr := va } bitUCE) 0 []))) ∧
    ((∀ (s : State) (c : Cmd) (t : Team) (st : CollState) (seq pkg step value : Nat), s.cmd? c.id = some c → s.team? c.team = some t → c.coll = some st →
      st.unacked.find? (fun e => e.1 == seq) = some (seq, pkg, step) → value ≠ 0 → st.ending = none → c.state = .running →
      ∃ s', exec (.fabricAck c.id seq value) s = .next s' ∧ { s' with cmds := s.cmds } = s ∧ ∃ d st', s'.cmd? c.id = some d ∧ d.coll = some st' ∧
        (∀ e, e ∈ st'.unacked ↔ e ∈ st.unacked ∧ e.1 ≠ seq) ∧ st'.ackTime pkg = max value (st.ackTime pkg) ∧ st'.step = st.step ∧ st'.wait = st.wait ∧
        (c.opc = 0x30 → d.state = .running) ∧
        (c.opc = 3 → st'.unacked ≠ [] → d.state = .running) ∧ (c.opc = 3 → st'.unacked = [] → s'.CmdIs c 0 0 (c.u 32 8))))

/-- A start whose report is good ends with the device waiting for FEATURE, its contexts and its cores’ state gone and its stages measured; each management command at the head of the ring does what its rule says, is answered with its code and moves the head count, or is refused with no other effect, or waits, and a step that names a command other than the one at the head does nothing (the model’s choice, log entry 14); links lose lanes, a copy of the time base is held or doubled, or its contexts stop, a core group is slowed, sped up, capped or shed as its monitors read, and the audit mirror is rewritten. Nothing else that a clause names changes. Log entries 9 (what power-on and a reset leave in the clocks), 14 and 15 (where a command and its reply hold their fields), 90 (reserved codes), 91 (when a STEP or an image is refused, and when the ring waits for a STEP), 94 (copies of the time base more than 2 apart), 104 (a failed start reached by its host), 105 (a RELEASE refused for the log) and 106 (a REPAIR answered before its core is empty) name what is the model’s choice here (R345, R346, R347, R349, R350, R351, R352, R353, R356, R381, R387, R406) -/
def Obligations.ManagementAndDevice : Prop :=
  ((∀ (s : State) (r : StartReport), r.security.2 = true → r.management.2 = true → r.microcode.2 = true → r.fused.2 = true → r.savedBad = false → r.stacksFail = [] → r.coresFail = [] →
      r.linksFail = [] → r.modulesFail = [] → r.mirrorOk = true → s.dev.meas.length = 8 →
      let started := fun (s' : State) => s'.dev.phase = .negotiating ∧ s'.contexts = [] ∧ s'.launches = [] ∧ s'.teams = [] ∧ s'.cores = [] ∧ s'.dtlb = [] ∧
        s'.ops = [] ∧ s'.cmds = [] ∧ s'.partials = [] ∧ s'.bundle = none ∧ s'.dev.accept = 0 ∧ s'.dev.mring = 0 ∧ s'.dev.mlogn = 0 ∧ s'.dev.mtail = 0 ∧
        s'.dev.mhead = 0 ∧ s'.dev.clearing = [(0xFFFF, 2 ^ 28, hbmSize - 2 ^ 28)] ∧ s'.hostMem = s.hostMem ∧ (∀ a, 2 ^ 28 ≤ a → cget s'.mem a = 0) ∧
        (∀ (i : Nat) (d : BitVec 512), [r.security.1, r.management.1, r.microcode.1, r.fused.1][i]? = some d →
          s'.dev.meas[i]? = some (BitVec.ofNat 512 (leNat (shake256 (toLe 64 0 ++ toLe 64 d.toNat))))) ∧
        ∀ i, 4 ≤ i → i < 8 → s'.dev.meas[i]? = some 0
      (∃ s', exec (.powerOn r) s = .next s' ∧ started s' ∧ s'.dev.retiredCores = [] ∧ ∀ d, d < 10 → s'.gtime d = 0) ∧
      (s.dev.phase ≠ .off → ∃ s', exec (.coldReset r) s = .next s' ∧ started s' ∧ s'.dev.retiredCores = [] ∧ ∀ d, s'.gtime d = s.gtime d) ∧
      (s.dev.phase ≠ .off → s.dev.phase ≠ .shed → s.dev.trained = true →
        ∃ s', exec (.warmReset r) s = .next s' ∧ started s' ∧ s'.dev.retiredCores = s.dev.retiredCores ∧ ∀ d, s'.gtime d = s.gtime d) ∧
      (s.dev.phase = .off → exec (.coldReset r) s = .next s ∧ exec (.warmReset r) s = .next s))) ∧
    ((∀ (s : State) (k ctx base len : Nat), s.dev.clearing[k]? = some (ctx, base, len) → 2 ^ 28 ≤ base →
      ∃ s', exec (.memoryClearDone k) s = .next s' ∧ s'.dev.clearing = s.dev.clearing.eraseIdx k ∧ s'.contexts = s.contexts ∧ s'.teams = s.teams ∧
        (∀ a, base ≤ a → a < base + len → a / 65536 ∉ s.dev.retiredHbm → cget s'.mem a = 0) ∧
        (∀ a, 2 ^ 28 ≤ a → ¬ (base ≤ a ∧ a < base + len) → cget s'.mem a = cget s.mem a) ∧
        (ctx ≠ 0xFFFF → s.LogRoom → s.Logs s' [(5, ctx)]) ∧ (ctx = 0xFFFF → s'.dev.audit = s.dev.audit))) ∧
    ((∀ (s : State) (tail : BitVec 32) (v : BitVec 64),
      (s.dev.hosted = false → exec (.managementDoorbell tail) s = .next s ∧ ∀ o, exec (.registerWrite o v) s = .next s) ∧
      (s.dev.hosted = true →
        exec (.managementDoorbell tail) s = .next { s with dev := { s.dev with mtail := tail } } ∧
        exec (.registerWrite 0x1000 v) s = .next { s with dev := { s.dev with mtail := v.setWidth 32 } } ∧
        (s.dev.mhead ≠ s.dev.mtail → exec (.registerWrite 0x1008 v) s = .next s ∧ exec (.registerWrite 0x1010 v) s = .next s) ∧
        (s.dev.mhead = s.dev.mtail → s.dev.stepping = none →
          exec (.registerWrite 0x1008 v) s = .next { s with dev := { s.dev with mring := v } } ∧
          ∃ s', exec (.registerWrite 0x1010 v) s = .next s' ∧ { s' with dev := { s'.dev with mlogn := s.dev.mlogn } } = s ∧ s'.dev.mlogn.toNat = v.toNat % 16) ∧
        (∀ c q, c < 32 → q < 64 → exec (.registerWrite (0x100000 + 0x1000 * c + 8 * q) v) s = exec (.launchDoorbell c q (v.setWidth 32)) s) ∧
        (∀ o, o < 0x1000 ∨ (0x1010 < o ∧ o < 0x100000) → exec (.registerWrite o v) s = .next s)))) ∧
    ((∀ (s : State) (reply ctx queue k count u v w x y : Nat) (b : List Byte) (request : BitVec 128) (regs : List Nat) (digest : BitVec 512) (ok : Bool) (nonce : BitVec 256),
      reply ≠ s.replyTo → ∀ ev ∈ [Instr.feature reply request, .create reply b, .release reply ctx, .switch reply ctx, .preempt reply ctx queue k,
        .invalidate reply ctx u v w, .fwload reply regs digest ok, .attest reply nonce, .logread reply count, .logsign reply,
        .errctl reply ctx u v w x y, .resolve reply ctx u v w, .debugMode reply ctx u v, .setbp reply ctx u v w x, .clrbp reply ctx u v w,
        .debugStop reply ctx u v, .debugResume reply ctx u v, .debugStep reply ctx u v, .dump reply ctx u v, .debugLoad reply ctx u v],
      exec ev s = .next s)) ∧
    ((∀ (s : State) (request : BitVec 128), s.dev.phase = .running ∨ s.dev.phase = .negotiating → s.dev.hosted = true → s.dev.mhead ≠ s.dev.mtail →
      s.dev.stepping = none → s.dev.mark = none → s.headCode = 1 →
      ((∃ c ∈ s.dev.clearing, c.1 = 0xFFFF) → exec (.feature s.replyTo request) s = .next s) ∧
      ((∀ c ∈ s.dev.clearing, c.1 ≠ 0xFFFF) → s.dev.audit.roomy = false → ∃ s', exec (.feature s.replyTo request) s = .next s' ∧ s.OnlyAnswers s' 1) ∧
      ((∀ c ∈ s.dev.clearing, c.1 ≠ 0xFFFF) → s.dev.audit.roomy = true → ∃ s', exec (.feature s.replyTo request) s = .next s' ∧ s.Answers s' 0 0 ∧ s'.dev.phase = .running ∧
        s'.dev.accept = (if s.dev.phase = .negotiating then Config.offer &&& request else s.dev.accept) ∧
        { s' with hostMem := s.hostMem, mem := s.mem, dev := s.dev } = s ∧ (s.LogRoom → s.Logs s' [(7, 0xFFFF)]) ∧
        ∀ i, i < 10 → cget s'.hostMem (s.replyTo + 6 + i) = BitVec.ofNat 8 (s'.dev.accept.toNat / 256 ^ i)))) ∧
    ((∀ (s : State) (regs : List Nat) (reg : Nat) (digest : BitVec 512), s.AtHead [6] → s.dev.audit.roomy = true → s.dev.meas.length = 8 →
      (((∀ i ∈ regs, i < 4 ∨ 7 < i) ∨ ∃ i ∈ regs, i < 4 ∨ 7 < i) → ∀ ok, ∃ s', exec (.fwload s.replyTo regs digest ok) s = .next s' ∧ s.OnlyAnswers s' 1) ∧
      ((∀ i ∈ regs, 4 ≤ i ∧ i ≤ 7) → reg ∈ regs → (∀ i ∈ regs, reg ≤ i) →
        let measured := fun (s' : State) => ∀ i, s'.dev.meas[i]? = if i = reg then
          some (BitVec.ofNat 512 (leNat (shake256 (toLe 64 (s.dev.meas.getD reg 0).toNat ++ toLe 64 digest.toNat)))) else s.dev.meas[i]?
        (∃ s', exec (.fwload s.replyTo regs digest true) s = .next s' ∧ s.Answers s' 0 0 ∧ measured s' ∧ { s' with hostMem := s.hostMem, mem := s.mem, dev := s.dev } = s ∧
          (s.LogRoom → s.Logs s' [(6, 0xFFFF)])) ∧
        (∃ s', exec (.fwload s.replyTo regs digest false) s = .next s' ∧ s.Answers s' 1 0 ∧ measured s' ∧ s'.teams = s.teams ∧ s'.contexts = s.contexts ∧
          (s.LogRoom → s.RingReads → s.Logs s' [(10, 0xFFFF)]))))) ∧
    ((∀ (s : State) (count : Nat) (nonce : BitVec 256),
      let newest := toLe 8 (s.dev.audit.seq - 1) ++ padTo 32 s.dev.audit.link
      let signs := fun (s' : State) (m : List Byte) => s.Answers s' 0 3309 ∧
        (∀ i, i < 3309 → cget s'.hostMem (s.replyTo + 16 + i) = (padTo 3309 (Config.sign m)).getD i 0) ∧
        { s' with hostMem := s.hostMem, dev := { s'.dev with mhead := s.dev.mhead, mark := s.dev.mark } } = s
      (s.AtHead [7] ∨ s.FailedHead 7 → ∃ s', exec (.attest s.replyTo nonce) s = .next s' ∧ signs s' (toLe 32 nonce.toNat ++ s.dev.meas.flatMap (fun x => toLe 64 x.toNat) ++ newest)) ∧
      (s.AtHead [8] → ∃ s', exec (.logsign s.replyTo) s = .next s' ∧ signs s' newest) ∧
      (s.FailedHead 8 → ∃ s', exec (.logsign s.replyTo) s = .next s' ∧ s.OnlyAnswers s' 1) ∧
      (s.AtHead [8] ∨ s.FailedHead 8 → s.dev.audit.pending = [] →
        let es := (s.dev.audit.entries.filter fun e => decide (s.dev.audit.mark ≤ e.seq)).take count
        ∃ s', exec (.logread s.replyTo count) s = .next s' ∧ s.Answers s' 0 (64 * es.length) ∧ s'.dev.audit.mark = s.dev.audit.mark + es.length ∧ s'.mem = s.mem ∧
          ∀ (k i : Nat) (e : AuditEntry), es[k]? = some e → i < 64 → cget s'.hostMem (s.replyTo + 16 + 64 * k + i) = (e.head ++ padTo 32 e.link).getD i 0))) ∧
    ((∀ (s : State) (b : List Byte), s.AtHead [2] →
      let c := contextOf b
      (s.creatable c = false → ∃ s', exec (.create s.replyTo b) s = .next s' ∧ s.OnlyAnswers s' 1) ∧
      (s.creatable c = true → (c.num ≤ 31 ∧ s.ctx? c.num = none ∧ 4 ≤ c.lcl ∧ c.lcl ≤ c.ldie ∧ c.ldie ≤ c.lpkg ∧ c.lpkg ≤ 12 ∧
          (∀ x ∈ s.contexts, ∀ k ∈ c.cores, k ∉ x.cores) ∧ (∀ k ∈ c.cores, k ∉ s.dev.retiredCores) ∧
          ∀ r ∈ c.ranges, r.1 % 65536 = 0 ∧ r.2 % 65536 = 0 ∧ 2 ^ 28 ≤ r.1 ∧ ∀ x ∈ s.contexts, ∀ q ∈ x.ranges, r.1 + r.2 ≤ q.1 ∨ q.1 + q.2 ≤ r.1) ∧
        ∃ s', exec (.create s.replyTo b) s = .next s' ∧ s.Answers s' 0 0 ∧ s'.contexts = s.contexts ++ [c] ∧ c.cestat = 0 ∧ c.stopped = false ∧ c.ring = none ∧ s'.teams = s.teams ∧
          (∃ ks, s'.cores = s.cores ++ ks ∧ ks.map (fun k => (k.die, k.num)) = c.cores ∧ ∀ k ∈ ks, k = { Core.fresh k.die k.num with closed := k.closed } ∧
            (k.closed = true ↔ ∃ r ∈ s.dev.repairs, r.1 = k.die ∧ r.2.1 = k.num)) ∧
          (s.LogRoom → s.Logs s' [(2, c.num)])))) ∧
    ((∀ (s : State) (c : Context), s.AtHead [3, c.num] → s.ctx? c.num = some c → 
      let full := if s.dev.audit.frozen = true then 1024 ≤ s.dev.audit.pending.length else s.dev.audit.pending ≠ []
      (s.dev.mark = none → full → ∃ s', exec (.release s.replyTo c.num) s = .next s' ∧ s.OnlyAnswers s' 1) ∧
      ((s.dev.mark = none → ¬ full) →
      let mine := fun (id : Nat) => ∃ t ∈ s.teams, t.ctx = c.num ∧ t.id = id
      (s.issuing c.num = true → ∃ s', exec (.release s.replyTo c.num) s = .next s' ∧ s'.dev.mhead = s.dev.mhead ∧ s'.teams = s.teams ∧ s'.hostMem = s.hostMem ∧
        s'.releasing c.num = true ∧ ∃ c', s'.ctx? c.num = some c' ∧ c'.stopped = true ∧ ∀ q ∈ c'.queues, q.open_ = false) ∧
      (s.issuing c.num = false → ∃ s', exec (.release s.replyTo c.num) s = .next s' ∧ (s.dev.stepping = none → s.Answers s' 0 0) ∧ (∀ x ∈ s'.contexts, x.num ≠ c.num) ∧
        (∀ x ∈ s.contexts, x.num ≠ c.num → x ∈ s'.contexts) ∧ (∀ t, t ∈ s'.teams ↔ t ∈ s.teams ∧ t.ctx ≠ c.num) ∧
        (∀ o, o ∈ s'.ops ↔ o ∈ s.ops ∧ ¬ mine o.team) ∧ (∀ k, k ∈ s'.cmds ↔ k ∈ s.cmds ∧ ¬ mine k.team) ∧
        (∀ k ∈ s'.cores, (k.die, k.num) ∉ c.cores) ∧ (∀ e ∈ s'.dtlb, e.2.ctx ≠ c.num) ∧
        s'.dev.clearing = s.dev.clearing ++ c.ranges.map (fun r => (c.num, r.1, r.2)) ∧
        (s.LogRoom → s.Logs s' [(3, c.num), (4, c.num)]))))) ∧
    ((∀ (s : State) (c : Context) (queue k : Nat), s.ctx? c.num = some c → c.stopped = false →
      let all := fun (t : Team) => t.ctx = c.num
      let launched := fun (t : Team) => ∃ l ∈ s.launches, l.ctx = c.num ∧ l.queue = queue ∧ l.k = k ∧ l.id = t.launch
      let saves := fun (ev : Instr) (p : Team → Prop) =>
        (s.dev.mark = none → c.dispWait = [] → (∃ t ∈ s.teams, p t ∧ t.standing = .resident) →
          ∃ s', exec ev s = .next s' ∧ s'.dev.mhead = s.dev.mhead ∧ s'.mem = s.mem ∧ s'.hostMem = s.hostMem ∧ s'.teams.length = s.teams.length ∧
            ∀ (i : Nat) (t : Team), s.teams[i]? = some t → ∃ t', s'.teams[i]? = some t' ∧
              (p t → t.standing = .resident → t' = { t with standing := .saving }) ∧ (¬ (p t ∧ t.standing = .resident) → t' = t)) ∧
        (s.dev.mark ≠ none → (∀ t ∈ s.teams, ¬ (p t ∧ t.standing = .saving)) → ∃ s', exec ev s = .next s' ∧ s.OnlyAnswers s' 0)
      (s.AtHead [4, 0, c.num] → saves (.switch s.replyTo c.num) all) ∧ (s.AtHead [4, 1, c.num, queue, k] → saves (.preempt s.replyTo c.num queue k) launched))) ∧
    ((∀ (s : State) (c : Context), s.AtHead [5] → fieldLe s.headBytes 16 1 = c.num → s.ctx? c.num = some c → s.dev.mark = none →
      let lvl := fieldLe s.headBytes 17 1
      let base := fieldLe s.headBytes 24 8
      let len := fieldLe s.headBytes 32 8
      let ev := Instr.invalidate s.replyTo c.num lvl base len
      let drops := fun (s' : State) => s'.mem = s.mem ∧ s'.teams = s.teams ∧ s'.dtlb = s.dtlb.filter (fun e => !c.drops lvl base len e.2) ∧
        s'.cores = s.cores.map fun k => { k with tlb := k.tlb.filter fun e => !c.drops lvl base len e }
      let before := fun (o : Op) => o ∈ s.ops ∧ o.id < s.nextId ∧ o.translated = true ∧ ∃ t, s.team? o.team = some t ∧ t.ctx = c.num
      (base % 65536 ≠ 0 ∨ len % 65536 ≠ 0 → ∃ s', exec ev s = .next s' ∧ s.OnlyAnswers s' 1) ∧
      (base % 65536 = 0 → len % 65536 = 0 →
        ((∀ o, ¬ before o) → ∃ s', exec ev s = .next s' ∧ s.Answers s' 0 0 ∧ drops s') ∧
        ((∃ o, before o) → ∃ s', exec ev s = .next s' ∧ s'.dev.mhead = s.dev.mhead ∧ s'.hostMem = s.hostMem ∧ drops s')) ∧
      (∀ e, e.ctx = c.num → len = 0 → lvl ≠ 1 → lvl ≠ 2 → c.drops lvl base len e = true))) ∧
    ((∀ (s : State) (die core : Nat) (k : Core), s.AtHead [9, die, core] → (∀ r ∈ s.dev.repairs, ¬ (r.1 = die ∧ r.2.1 = core)) → s.dev.accept.getLsbD 5 = true →
      (die, core) ∉ s.dev.retiredCores → die < 8 → core < 256 → s.core? die core = some k → s.dev.spares.length = 8 →
      let here := fun (t : Team) => t.die = die ∧ t.core = core
      let resides := fun (t : Team) => t.standing = .resident ∨ t.standing = .saving
      let whole := fun (t : Team) => (∃ d, s.desc? t = some d ∧ d.ens = true) ∧ ∃ x ∈ s.teams, x.launch = t.launch ∧ here x ∧ resides x
      let barred := ∃ t ∈ s.teams, here t ∧ resides t ∧ ∃ x, s.ctx? t.ctx = some x ∧ (x.stopped = true ∨ x.dispWait ≠ [])
      let ends := fun (s' : State) => s.Answers s' 0 0 ∧ s'.teams = s.teams ∧
        (∃ k', s'.core? die core = some k' ∧ k' = { k with closed := false, l1 := [], icache := [] }) ∧ (s.LogRoom → s.Logs s' [(8, 0xFFFF)])
      (s.dev.mark = none → s.dev.spares.getD die 0 = 0 → ∃ s', exec (.repair s.replyTo die core) s = .next s' ∧ s.OnlyAnswers s' 1) ∧
      (s.dev.mark = none → 0 < s.dev.spares.getD die 0 → (∃ t ∈ s.teams, here t ∧ resides t) →
        ∃ s', exec (.repair s.replyTo die core) s = .next s' ∧ s'.mem = s.mem ∧
          (¬ barred → s'.dev.mhead = s.dev.mhead ∧ s'.hostMem = s.hostMem ∧ s'.dev.repairs = s.dev.repairs) ∧
          (barred → s.Answers s' 0 0 ∧ s'.dev.repairs = s.dev.repairs ++ [(die, core, true)]) ∧ s'.dev.spares.getD die 0 = s.dev.spares.getD die 0 - 1 ∧
          (∃ k', s'.core? die core = some k' ∧ k' = { k with closed := true }) ∧
          ∀ (i : Nat) (t : Team), s.teams[i]? = some t → ∃ t', s'.teams[i]? = some t' ∧
            (t.standing = .resident → here t → t' = { t with standing := .saving, home := true }) ∧
            (t.standing = .resident → ¬ here t → whole t → t' = { t with standing := .saving }) ∧
            (¬ (t.standing = .resident ∧ (here t ∨ whole t)) → t' = t)) ∧
      (s.dev.mark = none → 0 < s.dev.spares.getD die 0 → (∀ t ∈ s.teams, here t → ¬ resides t) →
        ∃ s', exec (.repair s.replyTo die core) s = .next s' ∧ ends s' ∧ s'.dev.spares.getD die 0 = s.dev.spares.getD die 0 - 1) ∧
      (s.dev.mark ≠ none → (∀ t ∈ s.teams, here t → ¬ resides t) → ∃ s', exec (.repair s.replyTo die core) s = .next s' ∧ ends s' ∧ s'.dev.spares = s.dev.spares) ∧
      (s.dev.mark ≠ none → (∃ t ∈ s.teams, here t ∧ resides t) → (¬ barred → exec (.repair s.replyTo die core) s = .next s) ∧
        (barred → ∃ s', exec (.repair s.replyTo die core) s = .next s' ∧ s.Answers s' 0 0 ∧ s'.dev.repairs = s.dev.repairs ++ [(die, core, true)] ∧
          s'.teams = s.teams)))) ∧
    ((∀ (s : State) (die core reply : Nat) (spare : Bool) (k : Core), s.dev.repairs.find? (fun r => r.1 == die && r.2.1 == core) = some (die, core, spare) →
      s.core? die core = some k →
      ((∃ t ∈ s.teams, t.die = die ∧ t.core = core ∧ (t.standing = .resident ∨ t.standing = .saving)) → exec (.repair reply die core) s = .next s) ∧
      ((∀ t ∈ s.teams, ¬ (t.die = die ∧ t.core = core)) → ∃ s' k', exec (.repair reply die core) s = .next s' ∧ s'.core? die core = some k' ∧
        s'.dev.repairs = s.dev.repairs.erase (die, core, spare) ∧ s'.teams = s.teams ∧ s'.dev.mhead = s.dev.mhead ∧
        (spare = true → k' = { k with closed := false, l1 := [], icache := [] } ∧ s'.dev.retiredCores = s.dev.retiredCores ∧ s'.hostMem = s.hostMem) ∧
        (spare = false → k' = { k with closed := true, retired := true } ∧ s'.dev.retiredCores = s.dev.retiredCores ++ [(die, core)])))) ∧
    ((∀ (s : State) (die core : Nat) (k : Core), s.core? die core = some k → die < 8 → core < 256 →
      ((∃ r ∈ s.dev.repairs, r.1 = die ∧ r.2.1 = core) ∨ (die, core) ∈ s.dev.retiredCores → s.befalls (.control die core) = s) ∧
      ((∀ r ∈ s.dev.repairs, ¬ (r.1 = die ∧ r.2.1 = core)) → (die, core) ∉ s.dev.retiredCores → s.dev.spares.length = 8 →
        let s' := s.befalls (.control die core)
        let spare := decide (s.dev.spares.getD die 0 ≠ 0)
        s'.dev.repairs = s.dev.repairs ++ [(die, core, spare)] ∧ s'.dev.spares.getD die 0 = s.dev.spares.getD die 0 - 1 ∧
          s'.core? die core = some { k with closed := true } ∧ s'.mem = s.mem ∧
          ∀ t ∈ s'.teams, t.die = die → t.core = core → t.standing ≠ .resident))) ∧
    ((∀ (s : State) (c : Context), s.AtHead [0x0A] → fieldLe s.headBytes 16 1 = c.num → s.ctx? c.num = some c → c.num ≠ 0xFF →
      let logn := fieldLe s.headBytes 17 1
      let ring := fieldLe s.headBytes 24 8
      let consw := fieldLe s.headBytes 32 8
      let prodw := fieldLe s.headBytes 40 8
      let clr := fieldLe s.headBytes 48 4
      let ev := Instr.errctl s.replyTo c.num logn ring consw prodw clr
      (logn ≠ 0 → ¬ (4 ≤ logn ∧ logn ≤ 16 ∧ ring % 4096 = 0) → ∃ s', exec ev s = .next s' ∧ s.OnlyAnswers s' 1) ∧
      (logn = 0 ∨ (4 ≤ logn ∧ logn ≤ 16 ∧ ring % 4096 = 0) → ∃ s', exec ev s = .next s' ∧ s.Answers s' 0 0 ∧
        (∀ i, i < 4 → cget s'.hostMem (s.replyTo + 2 + i) = BitVec.ofNat 8 (c.cestat.toNat / 256 ^ i)) ∧ s'.mem = s.mem ∧ s'.teams = s.teams ∧
        ∃ c', s'.ctx? c.num = some c' ∧ { c' with cestat := c.cestat, ring := c.ring } = c ∧
          (∀ i, i < 32 → c'.cestat.getLsbD i = (c.cestat.getLsbD i && !clr.testBit i)) ∧ (logn = 0 → c'.ring = c.ring) ∧
          (logn ≠ 0 → c'.ring = some { base := ring, logn := logn, consw := consw, prodw := prodw, k := 0 })))) ∧
    ((∀ (s : State) (c : Context), s.AtHead [0x0C] → fieldLe s.headBytes 16 1 = c.num → s.ctx? c.num = some c →
      let out := fieldLe s.headBytes 17 1
      let base := fieldLe s.headBytes 24 8
      let len := fieldLe s.headBytes 32 8
      let ev := Instr.resolve s.replyTo c.num out base len
      let inside := fun (va : Nat) => len = 0 ∨ (base ≤ va ∧ va < base + len)
      (base % 65536 ≠ 0 ∨ len % 65536 ≠ 0 ∨ 2 ≤ out → ∃ s', exec ev s = .next s' ∧ s.OnlyAnswers s' 1) ∧
      (base % 65536 = 0 → len % 65536 = 0 → out = 0 → ∃ s', exec ev s = .next s' ∧ s.Answers s' 0 0 ∧ s'.mem = s.mem ∧
        (∀ (i : Nat) (t : Team), s.teams[i]? = some t → ∃ t', s'.teams[i]? = some t' ∧
          (t.ctx = c.num → (∃ e ∈ t.faults, inside e.1) → t' = { t with mayResume := true }) ∧
          (¬ (t.ctx = c.num ∧ ∃ e ∈ t.faults, inside e.1) → t' = t)) ∧
        (∀ (i : Nat) (x : Cmd) (t : Team) (va ph : Nat), s.cmds[i]? = some x → x.state = .waiting va ph → s.team? x.team = some t → t.ctx = c.num →
          inside va → ∃ x', s'.cmds[i]? = some x' ∧ x'.state = (if ph = 0 then .running else if ph = 1 then .performed else .completed) ∧ x'.bytes = x.bytes) ∧
        ∃ c', s'.ctx? c.num = some c' ∧ ∀ w, w ∈ c'.dispWait ↔ w ∈ c.dispWait ∧ ¬ inside w.1) ∧
      (base % 65536 = 0 → len % 65536 = 0 → out = 1 → s.teams = [] → s.cmds = [] → c.stopped = false → (∃ w ∈ c.dispWait, inside w.1) →
        ∃ s', exec ev s = .next s' ∧ s.Answers s' 0 0 ∧ ∃ c', s'.ctx? c.num = some c' ∧ c'.stopped = true ∧ c'.cestat.getLsbD 9 = true))) ∧
    ((∀ (s : State) (c : Context) (k : Core), s.AtHead [0x0B] → fieldLe s.headBytes 17 1 = c.num → s.ctx? c.num = some c →
      let op := fieldLe s.headBytes 16 1
      let mode := fieldLe s.headBytes 18 1
      let bp := fieldLe s.headBytes 19 1
      let dieByte := fieldLe s.headBytes 20 1
      let die := dieByte % 8
      let core := fieldLe s.headBytes 21 1
      let addr := fieldLe s.headBytes 24 8
      (op = 0 ∨ 8 < op → ∃ s', exec (.debugMode s.replyTo c.num mode addr) s = .next s' ∧ s.OnlyAnswers s' 1) ∧
      (op = 1 → 2 < mode ∨ addr % 4096 ≠ 0 → ∃ s', exec (.debugMode s.replyTo c.num mode addr) s = .next s' ∧ s.OnlyAnswers s' 1) ∧
      (op = 1 → mode ≤ 2 → addr % 4096 = 0 → ∃ s', exec (.debugMode s.replyTo c.num mode addr) s = .next s' ∧ s.Answers s' 0 0 ∧ s'.teams = s.teams ∧ s'.mem = s.mem ∧
        s'.ctx? c.num = some { c with dbgMode := mode, dbgArea := addr, dbgCount := 0 }) ∧
      (op = 2 → 3 < bp ∨ addr % 16 ≠ 0 ∨ (die, core) ∉ c.cores → ∃ s', exec (.setbp s.replyTo c.num bp dieByte core addr) s = .next s' ∧ s.OnlyAnswers s' 1) ∧
      (op = 3 → 3 < bp ∨ (die, core) ∉ c.cores → ∃ s', exec (.clrbp s.replyTo c.num bp dieByte core) s = .next s' ∧ s.OnlyAnswers s' 1) ∧
      (s.core? die core = some k → (die, core) ∈ c.cores → bp ≤ 3 →
        (op = 2 → addr % 16 = 0 → ∃ s', exec (.setbp s.replyTo c.num bp dieByte core addr) s = .next s' ∧ s.Answers s' 0 0 ∧ s'.teams = s.teams ∧ s'.mem = s.mem ∧ ∃ k', s'.core? die core = some k' ∧
          { k' with bps := k.bps } = k ∧ ∀ b, b ∈ k'.bps ↔ (b = (bp, c.num, addr % 2 ^ 56) ∨ (b ∈ k.bps ∧ b.1 ≠ bp))) ∧
        (op = 3 → ∃ s', exec (.clrbp s.replyTo c.num bp dieByte core) s = .next s' ∧ s.Answers s' 0 0 ∧ s'.teams = s.teams ∧ s'.mem = s.mem ∧ ∃ k', s'.core? die core = some k' ∧
          { k' with bps := k.bps } = k ∧ ∀ b, b ∈ k'.bps ↔ (b ∈ k.bps ∧ b.1 ≠ bp))))) ∧
    ((∀ (s : State) (c : Context) (t : Team), s.AtHead [0x0B] → fieldLe s.headBytes 17 1 = c.num → s.ctx? c.num = some c →
      s.debugTeam? (debugFields s.headBytes) = some t → s.team? t.id = some t →
      let op := fieldLe s.headBytes 16 1
      let teamId := fieldLe s.headBytes 32 4
      let lrank := fieldLe s.headBytes 36 2
      let pa := fieldLe s.headBytes 24 8
      let clock := s.clock t.die t.core
      let named := fun (h : Thread) => h.exited = false ∧ (lrank = 0xFFFF ∨ h.lrank = lrank)
      let becomes := fun (s' : State) (f : Thread → Thread → Prop) =>
        { s' with hostMem := s.hostMem, teams := s.teams, dev := { s'.dev with mhead := s.dev.mhead, mark := s.dev.mark } } = s ∧
        ∃ t', s'.team? t.id = some t' ∧ { t' with threads := t.threads } = t ∧
          ∀ r, match t.thread? r with | none => t'.thread? r = none | some h => ∃ h', t'.thread? r = some h' ∧ f h h'
      ((∀ h ∈ t.threads, ¬ named h) → (op = 4 → ∃ s', exec (.debugStop s.replyTo c.num teamId lrank) s = .next s' ∧ s.OnlyAnswers s' 1) ∧
        (op = 5 → ∃ s', exec (.debugResume s.replyTo c.num teamId lrank) s = .next s' ∧ s.OnlyAnswers s' 1)) ∧
      ((∃ h ∈ t.threads, named h) →
        (op = 4 → ∃ s', exec (.debugStop s.replyTo c.num teamId lrank) s = .next s' ∧ s.Answers s' 0 0 ∧ becomes s' fun h h' =>
          let stops := h.exited = false ∧ (c.dbgMode = 2 ∨ named h)
          (stops → h.stopped = false → h' = { h with stopped := true, stepOne := false, stopClock := clock, stopTime := s.gtime t.die }) ∧
          (stops → h.stopped = true → h' = { h with stepOne := false }) ∧ (¬ stops → h' = h)) ∧
        (op = 5 → ∃ s' m0 m, exec (.debugResume s.replyTo c.num teamId lrank) s = .next s' ∧ s.Answers s' 0 0 ∧ s.MarksOnly m0 ∧ m0.OnlyTeam m t.id ∧
          { s' with hostMem := s.hostMem, dev := (m.settle t.id).dev } = { m.settle t.id with hostMem := s.hostMem } ∧
          ∃ t0 t', m0.team? t.id = some t0 ∧ m.team? t.id = some t' ∧ { t' with threads := t0.threads } = t0 ∧
            ∀ r, match t0.thread? r with | none => t'.thread? r = none | some h => ∃ h', t'.thread? r = some h' ∧
              (named h → h.stopped = true → h' = { h with stopped := false, stopNext := false, readyAt := clock, aged := false }.takeDue clock (s.gtime t.die)) ∧
              (named h → h.stopped = false → h' = { h with stopNext := false }) ∧ (¬ named h → h' = h))) ∧
      (∀ h, t.thread? lrank = some h → op = 6 →
        (s.dev.stepping ≠ none ∨ h.exited = true ∨ h.stopped = false ∨ h.waitsAt ≠ .none ∨ t.standing ≠ .resident ∨ c.stopped = true ∨ s.inPacket t.id h = true →
          ∃ s', exec (.debugStep s.replyTo c.num teamId lrank) s = .next s' ∧ s.OnlyAnswers s' 1) ∧
        (s.dev.stepping = none → h.exited = false → h.stopped = true → h.waitsAt = .none → t.standing = .resident → c.stopped = false → s.inPacket t.id h = false →
          ∃ s' m, exec (.debugStep s.replyTo c.num teamId lrank) s = .next s' ∧ s.MarksOnly m ∧
          s'.dev = { s.dev with mhead := s.dev.mhead + 1, stepping := some (t.id, lrank, s.replyTo) } ∧ m.OnlyTeam { s' with dev := s.dev } t.id ∧
          ∃ t0 t' h0, m.team? t.id = some t0 ∧ s'.team? t.id = some t' ∧ { t' with threads := t0.threads } = t0 ∧ t0.thread? lrank = some h0 ∧
            (∀ r, r ≠ lrank → t'.thread? r = t0.thread? r) ∧
            t'.thread? lrank = some { { h0 with stopped := false, stopNext := false, readyAt := clock, aged := false }.takeDue clock (s.gtime t.die) with
              stepOne := true, stepRun := false })) ∧
      (∀ d, s.desc? t = some d →
        ((∃ h ∈ t.threads, h.exited = false ∧ ((h.stopped = false ∧ h.park = .none) ∨ s.inPacket t.id h = true)) →
          (op = 7 → ∃ s', exec (.dump s.replyTo c.num pa teamId) s = .next s' ∧ s.OnlyAnswers s' 1) ∧ (op = 8 → ∃ s', exec (.debugLoad s.replyTo c.num pa teamId) s = .next s' ∧ s.OnlyAnswers s' 1)) ∧
        ((∀ h ∈ t.threads, h.exited = true ∨ ((h.stopped = true ∨ h.park ≠ .none) ∧ s.inPacket t.id h = false)) →
          (op = 7 → s.NoPartial ((List.range d.frameSize).map (pa + ·)) → ∃ s', exec (.dump s.replyTo c.num pa teamId) s = .next s' ∧ s.Answers s' 0 0 ∧ s'.teams = s.teams ∧
            ∀ i, cget s'.mem i = if 2 ^ 28 ≤ pa ∧ pa ≤ i ∧ i < pa + d.frameSize then (s.image t d (s.pendsOf t)).getD (i - pa) 0 else cget s.mem i) ∧
          (let size := 384 + 4 * d.nreg
           let rec_ := fun (r : Nat) => getBytes s.mem (pa + 0x11740 + r * size) size
           op = 8 → 0 < d.tsize → s.NoPartial ((List.range (d.tsize * size)).map (pa + 0x11740 + ·)) → s.poisoned ((List.range (d.tsize * size)).map (pa + 0x11740 + ·)) = false →
           (∀ h ∈ t.threads, h.lrank < d.tsize) → (∀ h ∈ t.threads, h.exited = false → fieldLe (rec_ h.lrank) 0 8 % 16 = 0) →
           ∃ s', exec (.debugLoad s.replyTo c.num pa teamId) s = .next s' ∧ s.Answers s' 0 0 ∧ s'.mem = s.mem ∧ (∀ j, j ≠ t.id → s'.team? j = s.team? j) ∧ ∃ t', s'.team? t.id = some t' ∧
             ∀ r, match t.thread? r with
               | none => t'.thread? r = none
               | some h => ∃ h', t'.thread? r = some h' ∧ (h.exited = true → h' = h) ∧ (h.exited = false →
                   let pc := BitVec.ofNat 56 (fieldLe (rec_ r) 0 7)
                   let stays := ∃ a, h.garr = some a ∧ pc = a.packet
                   { h' with pc := h.pc, cont := h.cont, snap := h.snap, trap := h.trap, prec := h.prec, preds := h.preds, akey := h.akey, v := h.v } = h ∧
                   (stays → h'.pc = h.pc ∧ h'.cont = h.cont ∧ h'.snap = h.snap ∧ h'.trap = h.trap) ∧
                   (¬ stays → h'.pc = pc ∧ h'.cont = false ∧ h'.snap = none ∧ h'.trap = h.trap.map fun i => { i with resume := pc }) ∧
                   h'.prec = precLoad h.prec (BitVec.ofNat 32 (fieldLe (rec_ r) 16 4)) ∧ h'.preds = BitVec.ofNat 8 (fieldLe (rec_ r) 20 1 % 128) ∧
                   h'.akey = BitVec.ofNat 8 (fieldLe (rec_ r) 21 1) ∧ ∀ i, i < d.nreg → (h'.rd i).toNat = fieldLe (rec_ r) (384 + 4 * i) 4)))))) ∧
    ((∀ (s : State) (link lanes : Nat),
      (lanes = 0 ∨ s.dev.lanesOf link ≤ lanes → exec (.lane link lanes) s = .next s) ∧
      (lanes ≠ 0 → lanes < s.dev.lanesOf link → ∃ s', exec (.lane link lanes) s = .next s' ∧ s'.dev.lanesOf link = lanes ∧
        (∀ l, l ≠ link → s'.dev.lanesOf l = s.dev.lanesOf l) ∧ s'.teams = s.teams ∧ s'.contexts = s.contexts ∧ s'.hostMem = s.hostMem ∧
        (s.LogRoom → s.RingReads → s.Logs s' [(10, 0xFFFF), (8, 0xFFFF)])) ∧
      (s.dev.lanesOf link = 0 → exec (.linkdown link) s = .next s) ∧
      (0 < s.dev.lanesOf link → (∀ c ∈ s.cmds, c.coll = none) → ∃ s', exec (.linkdown link) s = .next s' ∧ s'.dev.lanesOf link = 0 ∧
        (∀ l, l ≠ link → s'.dev.lanesOf l = s.dev.lanesOf l) ∧ s'.teams = s.teams ∧ s'.contexts = s.contexts ∧ s'.hostMem = s.hostMem ∧ s'.cmds = s.cmds ∧
        (s.LogRoom → s.RingReads → s.Logs s' [(10, 0xFFFF)])) ∧
      (∀ c t x st seq pkg step, 0 < s.dev.lanesOf link → s.cmd? c.id = some c → s.team? c.team = some t → s.ctx? t.ctx = some x → c.coll = some st →
        c.opc = 0x30 → c.state = .running → st.ending = none → st.chans = [] → st.unacked = [(seq, pkg, step)] → (∀ d ∈ s.cmds, d.id ≠ c.id → d.coll = none) →
        (∀ l ∈ s.dev.links, l.1 ≠ link → l.1 < 24 → 0 < l.2 → Config.leads l.1 x.job pkg = false) →
        ∃ s', exec (.linkdown link) s = .next s' ∧ s'.CmdIs c 0x0305 step st.steps) ∧
      exec (.damagedFlit link) s = .next s)) ∧
    ((∀ (s : State) (die : Nat) (lead : Int) (b : TimeBase), die ≠ bridge0 → s.times[die]? = some b → (s.gtime die : Int) = s.gtime bridge0 + lead →
      (s.contexts.map (·.num)).Nodup →
      let near := ∀ k, k < s.times.length → s.gtime k ≤ s.gtime die + 2 ∧ s.gtime die ≤ s.gtime k + 2
      (∀ lost, lost = true ∨ 2 < lead ∨ lead < -2 ∨ ¬ near → ∃ s', exec (.timeBaseCompare die lead lost) s = .next s' ∧ s'.times = s.times ∧
        (∀ c, s.ctx? c.num = some c → (∃ k ∈ c.cores, k.1 = die) → ∃ c', s'.ctx? c.num = some c' ∧ c'.stopped = true) ∧
        (∀ c, s.ctx? c.num = some c → (∀ k ∈ c.cores, k.1 ≠ die) → s'.ctx? c.num = some c)) ∧
      (-2 ≤ lead → lead ≤ 2 → near → ∃ s' b', exec (.timeBaseCompare die lead false) s = .next s' ∧ s'.units = s.units ∧ s'.times[die]? = some b' ∧
        s'.gtime die = s.gtime die ∧ (∀ d, d ≠ die → s'.gtime d = s.gtime d) ∧ s'.teams = s.teams ∧ s'.contexts = s.contexts ∧
        b'.rate = (if lead = 2 then 0 else if lead < 0 then 2 else 1)))) ∧
    ((∀ (s : State) (die group temp : Nat) (c : GroupClock), s.group? die group = some c → c.cap ≤ 16 →
      let reads := fun (droop : Bool) (proc : Option Nat) (P : State → GroupClock → Prop) =>
        ∃ s' c', exec (.monitorReading die group temp droop proc) s = .next s' ∧ s'.group? die group = some c' ∧ s'.teams = s.teams ∧
          c'.now s'.units = c.now s.units ∧ P s' c'
      (95 * 16 < temp → temp ≤ 105 * 16 → 4 < c.rate → reads false none fun _ c' => c'.rate = c.rate - 1 ∧ c'.cap = c.cap ∧ c'.droop = c.droop) ∧
      (temp < 90 * 16 → c.rate < c.cap - c.droop → reads false none fun _ c' => c'.rate = c.rate + 1 ∧ c'.cap = c.cap ∧ c'.droop = c.droop) ∧
      (90 * 16 ≤ temp → temp ≤ 95 * 16 →
        exec (.monitorReading die group temp false none) s = .next s ∧
        (4 ≤ c.rate → reads true none fun _ c' => c'.rate = c.rate - min 4 (c.rate - 4) ∧ c'.droop = c.droop + min 4 (c.rate - 4) ∧
          c'.droopAt = s.gtime die + 1000000) ∧
        (∀ core, coreGroup core = group → core < 256 → (∀ r ∈ s.dev.repairs, ¬ (r.1 = die ∧ r.2.1 = core)) → (die, core) ∉ s.dev.retiredCores →
          (∀ t ∈ s.teams, ¬ (t.die = die ∧ t.core = core)) → reads false (some core) fun s' c' => c'.cap = min c.cap c.rate ∧ c'.rate = c.rate ∧
            (∃ spare, (die, core, spare) ∈ s'.dev.repairs ∧ (spare = true ↔ s.dev.spares.getD die 0 ≠ 0)) ∧ ∀ k, s.core? die core = some k → s'.core? die core = some { k with closed := true })) ∧
      (105 * 16 < temp → c.rate ≤ 4 → ∃ s', exec (.monitorReading die group temp false none) s = .next s' ∧ s'.dev.phase = .shed ∧
        ∀ x, s.ctx? x.num = some x → ∃ x', s'.ctx? x.num = some x' ∧ x'.stopped = true) ∧
      (c.droop ≠ 0 → c.droopAt ≤ s.gtime die → ∃ s' c', exec (.droopRestore die group) s = .next s' ∧ s'.group? die group = some c' ∧
        c'.rate = min c.cap (c.rate + c.droop) ∧ c'.droop = 0 ∧ c'.now s'.units = c.now s.units ∧ { s' with clocks := s.clocks } = s) ∧
      (c.droop = 0 ∨ s.gtime die < c.droopAt → exec (.droopRestore die group) s = .next s))) ∧
    ((∀ (s : State) (mirrorOk : Bool),
      (∃ s', exec (.auditChainCheck mirrorOk false) s = .next s' ∧ s'.dev.audit.frozen = true ∧
        { s' with dev := { s'.dev with audit := { s'.dev.audit with frozen := s.dev.audit.frozen } } } = s) ∧
      ((∀ g ∈ s.dev.badGranules, s.dev.mirrors g = false) → exec (.auditChainCheck true true) s = .next s) ∧
      (s.LogRoom → s.dev.ring = none → (∀ e ∈ s.dev.audit.entries, e.seq < s.dev.audit.seq ∧ s.dev.audit.seq + 1 < e.seq + 2 ^ 22) →
        (s.dev.audit.entries.map (·.seq)).Nodup →
        (∀ g ∈ s.dev.badGranules, s.dev.mirrors g = true → ∃ s', exec (.auditChainCheck mirrorOk true) s = .next s' ∧
          s.Logs s' [(10, 0xFFFF), (10, 0xFFFF)] ∧ s'.teams = s.teams ∧ g ∉ s'.dev.badGranules ∧
          (∀ e ∈ s.dev.audit.entries, ∀ i, i < 64 → cget s'.mem (64 * (e.seq % 2 ^ 22) + i) = (e.head ++ padTo 32 e.link).getD i 0)) ∧
        ((∀ g ∈ s.dev.badGranules, s.dev.mirrors g = false) →
        ∃ s', exec (.auditChainCheck false true) s = .next s' ∧ s.Logs s' [(10, 0xFFFF)] ∧ s'.teams = s.teams ∧
          (∀ e ∈ s.dev.audit.entries, ∀ i, i < 64 → cget s'.mem (64 * (e.seq % 2 ^ 22) + i) = (e.head ++ padTo 32 e.link).getD i 0) ∧
          ∀ a, 2 ^ 28 ≤ a → cget s'.mem a = cget s.mem a))))
end

