-- ==== Sys2Proof/Laws/Tables.lean ====
section
/-!
SUPPORT. Laws/Tables.lean: reading after writing a table, for every table; every operation keeps the canonical form; and
lists updated by key.
-/

namespace Sys2Proof.Machine

open Sys2Proof

variable {w : Nat}

/-! ## One entry -/

@[simp] theorem cget_nil (k : Nat) : cget ([] : Cells w) k = 0 := rfl

theorem cget_cunlist (t : Cells w) (k : Nat) : cget (cunlist k t) k = 0 := by
  cases t with
  | nil => rfl
  | cons e r =>
    obtain ⟨j, y⟩ := e
    by_cases h : k < j
    · simp [cunlist, cget, h, Nat.ne_of_gt h]
    · simp [cunlist, cget, h]

theorem cget_cunlist_ne (t : Cells w) (k i : Nat) (h : i ≠ k) (y : BitVec w) :
    cget (cunlist k t) i = cget ((k, y) :: t) i := by
  cases t with
  | nil => simp [cunlist, cget, Ne.symm h]
  | cons e r =>
    obtain ⟨j, z⟩ := e
    by_cases hk : k < j
    · by_cases hi : i < k
      · simp only [cunlist, hk, if_true, cget]
        have h1 : ¬ j = i := by omega
        have h2 : i < j := by omega
        have h3 : ¬ k = i := by omega
        simp [h1, h2, h3, hi]
      · simp [cunlist, hk, cget, Ne.symm h, hi]
    · simp [cunlist, hk, cget, Ne.symm h]

/-- Reading the entry just written. -/
@[simp] theorem cget_cput_self (m : Cells w) (k : Nat) (x : BitVec w) : cget (cput m k x) k = x := by
  induction m with
  | nil => by_cases hx : x = 0#w <;> simp [cput, cget, hx]
  | cons e t ih =>
    obtain ⟨j, y⟩ := e
    simp only [cput]
    by_cases h1 : k < j
    · by_cases hx : x = 0#w
      · simp [h1, hx, cget, Nat.ne_of_gt h1]
      · simp [h1, hx, cget]
    · by_cases h2 : k = j
      · subst h2
        by_cases hx : x = 0#w
        · simp [hx, cget_cunlist]
        · simp [hx, cget]
      · have h3 : ¬ j = k := fun h => h2 h.symm
        simp [h1, h2, cget, h3, ih]

/-- Reading any other entry. -/
@[simp] theorem cget_cput_ne (m : Cells w) (k i : Nat) (x : BitVec w) (h : i ≠ k) : cget (cput m k x) i = cget m i := by
  induction m with
  | nil => by_cases hx : x = 0#w <;> simp [cput, cget, hx, Ne.symm h]
  | cons e t ih =>
    obtain ⟨j, y⟩ := e
    simp only [cput]
    by_cases h1 : k < j
    · by_cases hx : x = 0#w
      · simp [h1, hx]
      · have hki : ¬ k = i := fun e => h e.symm
        by_cases hi : i < k
        · have h2 : ¬ j = i := by omega
          have h3 : i < j := by omega
          simp [h1, hx, cget, hki, hi, h2, h3]
        · simp [h1, hx, cget, hki, hi]
    · by_cases h2 : k = j
      · subst h2
        by_cases hx : x = 0#w
        · simp [hx, cget_cunlist_ne t k i h y]
        · simp [hx, cget, Ne.symm h]
      · simp only [h1, h2, if_false, cget, ih]

theorem cget_cput (m : Cells w) (k i : Nat) (x : BitVec w) : cget (cput m k x) i = if i = k then x else cget m i := by
  by_cases h : i = k
  · simp [h]
  · simp [h]

/-! ## The canonical form -/

/-- A canonical table above a bound is canonical above any lower one. -/
theorem cwfFrom_weaken (m : Cells w) (lo lo' : Option Nat) (h : ∀ l ∈ lo', ∃ l2 ∈ lo, l ≤ l2) (hm : cwfFrom lo m = true) :
    cwfFrom lo' m = true := by
  cases m with
  | nil => rfl
  | cons e t =>
    obtain ⟨k, x⟩ := e
    simp only [cwfFrom, Bool.and_eq_true, decide_eq_true_eq] at hm ⊢
    refine ⟨⟨?_, hm.1.2⟩, hm.2⟩
    cases lo' with
    | none => rfl
    | some l =>
      obtain ⟨l2, h2, hle⟩ := h l rfl
      cases lo with
      | none => simp at h2
      | some l3 =>
        simp only [Option.mem_def, Option.some.injEq] at h2
        have := hm.1.1
        simp only [decide_eq_true_eq] at this ⊢
        omega

theorem cwfFrom_cput (m : Cells w) (lo : Option Nat) (k : Nat) (x : BitVec w) (hlo : ∀ l ∈ lo, l < k)
    (hm : cwfFrom lo m = true) : cwfFrom lo (cput m k x) = true := by
  induction m generalizing lo with
  | nil =>
    by_cases hx : x = 0#w
    · simp [cput, hx, cwfFrom]
    · cases lo with
      | none => simp [cput, hx, cwfFrom]
      | some l => simp [cput, hx, cwfFrom, hlo l rfl]
  | cons e t ih =>
    obtain ⟨j, y⟩ := e
    simp only [cput]
    have hm' := hm
    simp only [cwfFrom, Bool.and_eq_true, decide_eq_true_eq] at hm'
    by_cases h1 : k < j
    · by_cases hx : x = 0
      · simpa [h1, hx] using hm
      · rw [if_pos h1, if_neg hx]
        simp only [cwfFrom, Bool.and_eq_true, decide_eq_true_eq]
        refine ⟨⟨?_, hx⟩, ⟨h1, hm'.1.2⟩, hm'.2⟩
        cases lo with
        | none => rfl
        | some l => simpa using hlo l rfl
    · by_cases h2 : k = j
      · subst h2
        by_cases hx : x = 0
        · simp only [h1, hx, if_true, if_false]
          have key : cwfFrom lo t = true := by
            refine cwfFrom_weaken t (some k) lo ?_ hm'.2
            intro l hl
            exact ⟨k, rfl, Nat.le_of_lt (hlo l hl)⟩
          cases t with
          | nil => rfl
          | cons e2 r =>
            obtain ⟨j2, z⟩ := e2
            have hk : k < j2 := by
              have := hm'.2
              simp only [cwfFrom, Bool.and_eq_true, decide_eq_true_eq] at this
              exact this.1.1
            simpa [cunlist, hk] using key
        · rw [if_neg h1, if_pos rfl, if_neg hx]
          simp only [cwfFrom, Bool.and_eq_true, decide_eq_true_eq]
          exact ⟨⟨hm'.1.1, hx⟩, hm'.2⟩
      · simp only [h1, h2, if_false]
        simp only [cwfFrom, Bool.and_eq_true, decide_eq_true_eq]
        refine ⟨hm'.1, ih (some j) ?_ hm'.2⟩
        intro l hl
        simp only [Option.mem_def, Option.some.injEq] at hl
        omega

/-- A write keeps the canonical form. -/
theorem cput_wf (m : Cells w) (k : Nat) (x : BitVec w) (hm : Memory.wf m = true) : Memory.wf (cput m k x) = true :=
  cwfFrom_cput m none k x (by simp) hm

/-- Above a bound, unlisting a key no higher than that bound leaves a canonical table as it is. -/
theorem cunlist_of_wf (t : Cells w) (k : Nat) (h : cwfFrom (some k) t = true) : cunlist k t = t := by
  cases t with
  | nil => rfl
  | cons e r =>
    obtain ⟨j, y⟩ := e
    simp only [cwfFrom, Bool.and_eq_true, decide_eq_true_eq] at h
    simp [cunlist, h.1.1]

theorem cwfFrom_cdrop (p : Nat → Bool) (m : Cells w) (lo : Option Nat) (hm : cwfFrom lo m = true) :
    cwfFrom lo (cdrop p m) = true := by
  induction m generalizing lo with
  | nil => rfl
  | cons e t ih =>
    obtain ⟨k, x⟩ := e
    simp only [cwfFrom, Bool.and_eq_true, decide_eq_true_eq] at hm
    by_cases hp : p k = true
    · have hk := ih (some k) hm.2
      rw [cdrop, if_pos hp, cunlist_of_wf _ _ hk]
      refine cwfFrom_weaken _ (some k) lo ?_ hk
      intro l hl
      refine ⟨k, rfl, ?_⟩
      cases lo with
      | none => simp at hl
      | some l2 =>
        simp only [Option.mem_def, Option.some.injEq] at hl
        have := hm.1.1
        simp only [decide_eq_true_eq] at this
        omega
    · rw [cdrop, if_neg hp]
      simp only [cwfFrom, Bool.and_eq_true, decide_eq_true_eq]
      exact ⟨hm.1, ih (some k) hm.2⟩

/-- A dropped key reads as zero and every other key as before, whatever the table. -/
theorem cget_cdrop (p : Nat → Bool) (m : Cells w) (i : Nat) : cget (cdrop p m) i = if p i then 0 else cget m i := by
  induction m with
  | nil => simp [cdrop]
  | cons e t ih =>
    obtain ⟨k, x⟩ := e
    by_cases hp : p k = true
    · rw [cdrop, if_pos hp]
      by_cases hi : i = k
      · subst hi
        rw [cget_cunlist, if_pos hp]
      · rw [cget_cunlist_ne _ _ _ hi x]
        simp only [cget, Ne.symm hi, if_false, ih]
        by_cases h : i < k <;> simp [h]
    · rw [cdrop, if_neg hp]
      by_cases hi : k = i
      · subst hi
        simp [cget, hp]
      · simp only [cget, hi, if_false, ih]
        by_cases h : i < k <;> simp [h]

/-- Dropping entries keeps the canonical form. -/
theorem cdrop_wf (p : Nat → Bool) (m : Cells w) (hm : Memory.wf m = true) : Memory.wf (cdrop p m) = true :=
  cwfFrom_cdrop p m none hm

/-- Bytes written in a row keep the canonical form. -/
theorem putBytes_wf (m : Cells 8) (a : Nat) (bs : List Byte) (hm : Memory.wf m = true) : Memory.wf (putBytes m a bs) = true := by
  induction bs generalizing m a with
  | nil => exact hm
  | cons b t ih => exact ih (cput m a b) (a + 1) (cput_wf m a b hm)

/-- Bytes written at listed places keep the canonical form. -/
theorem putAt_wf (m : Cells 8) (as : List Nat) (bs : List Byte) (hm : Memory.wf m = true) : Memory.wf (putAt m as bs) = true := by
  induction as generalizing m bs with
  | nil => exact hm
  | cons a t ih =>
    cases bs with
    | nil => exact hm
    | cons b r => exact ih (cput m a b) r (cput_wf m a b hm)

/-! ## Bytes in a row -/

/-- Bytes outside those written are as before. -/
theorem cget_putBytes_out (m : Cells 8) (a i : Nat) (bs : List Byte) (h : i < a ∨ a + bs.length ≤ i) :
    cget (putBytes m a bs) i = cget m i := by
  induction bs generalizing m a with
  | nil => rfl
  | cons b t ih =>
    simp only [List.length_cons] at h
    have h1 : i ≠ a := by omega
    rw [putBytes, ih (cput m a b) (a + 1) (by omega), cget_cput_ne m a i b h1]

/-- Bytes just written. -/
theorem cget_putBytes_in (m : Cells 8) (a : Nat) (bs : List Byte) (i : Nat) (h : i < bs.length) :
    cget (putBytes m a bs) (a + i) = bs.getD i 0 := by
  induction bs generalizing m a i with
  | nil => simp at h
  | cons b t ih =>
    cases i with
    | zero =>
      have : cget (putBytes (cput m a b) (a + 1) t) a = cget (cput m a b) a := cget_putBytes_out _ _ _ _ (by omega)
      simp [putBytes, this]
    | succ n =>
      have := ih (cput m a b) (a + 1) n (by simpa using h)
      simpa [putBytes, Nat.add_assoc, Nat.add_comm 1 n] using this

/-- Bytes at places outside a list are as before. -/
theorem cget_putAt_out (m : Cells 8) (as : List Nat) (bs : List Byte) (i : Nat) (h : i ∉ as) : cget (putAt m as bs) i = cget m i := by
  induction as generalizing m bs with
  | nil => rfl
  | cons a t ih =>
    cases bs with
    | nil => rfl
    | cons b r =>
      simp only [List.mem_cons, not_or] at h
      rw [putAt, ih (cput m a b) r h.2, cget_cput_ne m a i b h.1]

/-- The bytes just written at places that do not repeat. -/
theorem getAt_putAt (m : Cells 8) (as : List Nat) (bs : List Byte) (hn : as.Nodup) (hl : bs.length = as.length) :
    getAt (putAt m as bs) as = bs := by
  induction as generalizing m bs with
  | nil => cases bs with | nil => rfl | cons b r => simp at hl
  | cons a t ih =>
    cases bs with
    | nil => simp at hl
    | cons b r =>
      simp only [List.nodup_cons] at hn
      have h1 : cget (putAt (cput m a b) t r) a = b := by rw [cget_putAt_out _ _ _ _ hn.1, cget_cput_self]
      have h2 := ih (cput m a b) r hn.2 (by simpa using hl)
      simp only [getAt] at h2 ⊢
      simp [putAt, h1, h2]

/-! ## Little-endian values -/

@[simp] theorem toLe_length (n x : Nat) : (toLe n x).length = n := by
  induction n generalizing x with
  | zero => rfl
  | succ n ih => simp [toLe, ih]

/-- A value is read back from its bytes, reduced to their number (R5). -/
theorem leNat_toLe (n x : Nat) : leNat (toLe n x) = x % 256 ^ n := by
  induction n generalizing x with
  | zero => simp [toLe, leNat, Nat.mod_one]
  | succ n ih =>
    have h : (BitVec.ofNat 8 x).toNat = x % 256 := by simp
    simp only [toLe, leNat, ih, h]
    rw [Nat.pow_succ, Nat.mul_comm (256 ^ n) 256, Nat.mod_mul]

/-! ## Lists updated by key -/

theorem find?_mapIf {α : Type} (p q : α → Bool) (f : α → α) (l : List α) (hf : ∀ x, q (f x) = q x) :
    (mapIf p f l).find? q = (l.find? q).map fun x => if p x then f x else x := by
  induction l with
  | nil => rfl
  | cons x t ih =>
    have hq : q (if p x then f x else x) = q x := by by_cases h : p x = true <;> simp [h, hf]
    simp only [mapIf, List.map_cons, List.find?_cons] at ih ⊢
    rw [hq]
    cases hqx : q x with
    | true => rfl
    | false => simpa using ih

end Sys2Proof.Machine
end

