-- ==== Sys2Proof/Laws/State.lean ====
section
/-!
SUPPORT. Laws/State.lean: each update of the state, of a team and of a thread by what it leaves alone, field by field, and what it makes
of the field that it is for; finding a part after an update.
-/

namespace Sys2Proof.Machine

open Sys2Proof

/-! ## State.modTeam -/

@[simp] theorem State.modTeam_units (s : State) (id : Nat) (f : Team → Team) : (s.modTeam id f).units = s.units := rfl
@[simp] theorem State.modTeam_place (s : State) (id : Nat) (f : Team → Team) : (s.modTeam id f).place = s.place := rfl
@[simp] theorem State.modTeam_issues (s : State) (id : Nat) (f : Team → Team) : (s.modTeam id f).issues = s.issues := rfl
@[simp] theorem State.modTeam_times (s : State) (id : Nat) (f : Team → Team) : (s.modTeam id f).times = s.times := rfl
@[simp] theorem State.modTeam_clocks (s : State) (id : Nat) (f : Team → Team) : (s.modTeam id f).clocks = s.clocks := rfl
@[simp] theorem State.modTeam_agenda (s : State) (id : Nat) (f : Team → Team) : (s.modTeam id f).agenda = s.agenda := rfl
@[simp] theorem State.modTeam_bundle (s : State) (id : Nat) (f : Team → Team) : (s.modTeam id f).bundle = s.bundle := rfl
@[simp] theorem State.modTeam_others (s : State) (id : Nat) (f : Team → Team) : (s.modTeam id f).others = s.others := rfl
@[simp] theorem State.modTeam_nextId (s : State) (id : Nat) (f : Team → Team) : (s.modTeam id f).nextId = s.nextId := rfl
@[simp] theorem State.modTeam_contexts (s : State) (id : Nat) (f : Team → Team) : (s.modTeam id f).contexts = s.contexts := rfl
@[simp] theorem State.modTeam_launches (s : State) (id : Nat) (f : Team → Team) : (s.modTeam id f).launches = s.launches := rfl
@[simp] theorem State.modTeam_cores (s : State) (id : Nat) (f : Team → Team) : (s.modTeam id f).cores = s.cores := rfl
@[simp] theorem State.modTeam_dtlb (s : State) (id : Nat) (f : Team → Team) : (s.modTeam id f).dtlb = s.dtlb := rfl
@[simp] theorem State.modTeam_ops (s : State) (id : Nat) (f : Team → Team) : (s.modTeam id f).ops = s.ops := rfl
@[simp] theorem State.modTeam_cmds (s : State) (id : Nat) (f : Team → Team) : (s.modTeam id f).cmds = s.cmds := rfl
@[simp] theorem State.modTeam_mem (s : State) (id : Nat) (f : Team → Team) : (s.modTeam id f).mem = s.mem := rfl
@[simp] theorem State.modTeam_hostMem (s : State) (id : Nat) (f : Team → Team) : (s.modTeam id f).hostMem = s.hostMem := rfl
@[simp] theorem State.modTeam_lines (s : State) (id : Nat) (f : Team → Team) : (s.modTeam id f).lines = s.lines := rfl
@[simp] theorem State.modTeam_partials (s : State) (id : Nat) (f : Team → Team) : (s.modTeam id f).partials = s.partials := rfl
@[simp] theorem State.modTeam_outbox (s : State) (id : Nat) (f : Team → Team) : (s.modTeam id f).outbox = s.outbox := rfl
@[simp] theorem State.modTeam_dev (s : State) (id : Nat) (f : Team → Team) : (s.modTeam id f).dev = s.dev := rfl

/-! ## State.modThread -/

@[simp] theorem State.modThread_units (s : State) (id r : Nat) (f : Thread → Thread) : (s.modThread id r f).units = s.units := rfl
@[simp] theorem State.modThread_place (s : State) (id r : Nat) (f : Thread → Thread) : (s.modThread id r f).place = s.place := rfl
@[simp] theorem State.modThread_issues (s : State) (id r : Nat) (f : Thread → Thread) : (s.modThread id r f).issues = s.issues := rfl
@[simp] theorem State.modThread_times (s : State) (id r : Nat) (f : Thread → Thread) : (s.modThread id r f).times = s.times := rfl
@[simp] theorem State.modThread_clocks (s : State) (id r : Nat) (f : Thread → Thread) : (s.modThread id r f).clocks = s.clocks := rfl
@[simp] theorem State.modThread_agenda (s : State) (id r : Nat) (f : Thread → Thread) : (s.modThread id r f).agenda = s.agenda := rfl
@[simp] theorem State.modThread_bundle (s : State) (id r : Nat) (f : Thread → Thread) : (s.modThread id r f).bundle = s.bundle := rfl
@[simp] theorem State.modThread_others (s : State) (id r : Nat) (f : Thread → Thread) : (s.modThread id r f).others = s.others := rfl
@[simp] theorem State.modThread_nextId (s : State) (id r : Nat) (f : Thread → Thread) : (s.modThread id r f).nextId = s.nextId := rfl
@[simp] theorem State.modThread_contexts (s : State) (id r : Nat) (f : Thread → Thread) : (s.modThread id r f).contexts = s.contexts := rfl
@[simp] theorem State.modThread_launches (s : State) (id r : Nat) (f : Thread → Thread) : (s.modThread id r f).launches = s.launches := rfl
@[simp] theorem State.modThread_cores (s : State) (id r : Nat) (f : Thread → Thread) : (s.modThread id r f).cores = s.cores := rfl
@[simp] theorem State.modThread_dtlb (s : State) (id r : Nat) (f : Thread → Thread) : (s.modThread id r f).dtlb = s.dtlb := rfl
@[simp] theorem State.modThread_ops (s : State) (id r : Nat) (f : Thread → Thread) : (s.modThread id r f).ops = s.ops := rfl
@[simp] theorem State.modThread_cmds (s : State) (id r : Nat) (f : Thread → Thread) : (s.modThread id r f).cmds = s.cmds := rfl
@[simp] theorem State.modThread_mem (s : State) (id r : Nat) (f : Thread → Thread) : (s.modThread id r f).mem = s.mem := rfl
@[simp] theorem State.modThread_hostMem (s : State) (id r : Nat) (f : Thread → Thread) : (s.modThread id r f).hostMem = s.hostMem := rfl
@[simp] theorem State.modThread_lines (s : State) (id r : Nat) (f : Thread → Thread) : (s.modThread id r f).lines = s.lines := rfl
@[simp] theorem State.modThread_partials (s : State) (id r : Nat) (f : Thread → Thread) : (s.modThread id r f).partials = s.partials := rfl
@[simp] theorem State.modThread_outbox (s : State) (id r : Nat) (f : Thread → Thread) : (s.modThread id r f).outbox = s.outbox := rfl
@[simp] theorem State.modThread_dev (s : State) (id r : Nat) (f : Thread → Thread) : (s.modThread id r f).dev = s.dev := rfl

/-! ## State.modFrame -/

@[simp] theorem State.modFrame_units (s : State) (id i : Nat) (f : Frame → Frame) : (s.modFrame id i f).units = s.units := rfl
@[simp] theorem State.modFrame_place (s : State) (id i : Nat) (f : Frame → Frame) : (s.modFrame id i f).place = s.place := rfl
@[simp] theorem State.modFrame_issues (s : State) (id i : Nat) (f : Frame → Frame) : (s.modFrame id i f).issues = s.issues := rfl
@[simp] theorem State.modFrame_times (s : State) (id i : Nat) (f : Frame → Frame) : (s.modFrame id i f).times = s.times := rfl
@[simp] theorem State.modFrame_clocks (s : State) (id i : Nat) (f : Frame → Frame) : (s.modFrame id i f).clocks = s.clocks := rfl
@[simp] theorem State.modFrame_agenda (s : State) (id i : Nat) (f : Frame → Frame) : (s.modFrame id i f).agenda = s.agenda := rfl
@[simp] theorem State.modFrame_bundle (s : State) (id i : Nat) (f : Frame → Frame) : (s.modFrame id i f).bundle = s.bundle := rfl
@[simp] theorem State.modFrame_others (s : State) (id i : Nat) (f : Frame → Frame) : (s.modFrame id i f).others = s.others := rfl
@[simp] theorem State.modFrame_nextId (s : State) (id i : Nat) (f : Frame → Frame) : (s.modFrame id i f).nextId = s.nextId := rfl
@[simp] theorem State.modFrame_contexts (s : State) (id i : Nat) (f : Frame → Frame) : (s.modFrame id i f).contexts = s.contexts := rfl
@[simp] theorem State.modFrame_launches (s : State) (id i : Nat) (f : Frame → Frame) : (s.modFrame id i f).launches = s.launches := rfl
@[simp] theorem State.modFrame_cores (s : State) (id i : Nat) (f : Frame → Frame) : (s.modFrame id i f).cores = s.cores := rfl
@[simp] theorem State.modFrame_dtlb (s : State) (id i : Nat) (f : Frame → Frame) : (s.modFrame id i f).dtlb = s.dtlb := rfl
@[simp] theorem State.modFrame_ops (s : State) (id i : Nat) (f : Frame → Frame) : (s.modFrame id i f).ops = s.ops := rfl
@[simp] theorem State.modFrame_cmds (s : State) (id i : Nat) (f : Frame → Frame) : (s.modFrame id i f).cmds = s.cmds := rfl
@[simp] theorem State.modFrame_mem (s : State) (id i : Nat) (f : Frame → Frame) : (s.modFrame id i f).mem = s.mem := rfl
@[simp] theorem State.modFrame_hostMem (s : State) (id i : Nat) (f : Frame → Frame) : (s.modFrame id i f).hostMem = s.hostMem := rfl
@[simp] theorem State.modFrame_lines (s : State) (id i : Nat) (f : Frame → Frame) : (s.modFrame id i f).lines = s.lines := rfl
@[simp] theorem State.modFrame_partials (s : State) (id i : Nat) (f : Frame → Frame) : (s.modFrame id i f).partials = s.partials := rfl
@[simp] theorem State.modFrame_outbox (s : State) (id i : Nat) (f : Frame → Frame) : (s.modFrame id i f).outbox = s.outbox := rfl
@[simp] theorem State.modFrame_dev (s : State) (id i : Nat) (f : Frame → Frame) : (s.modFrame id i f).dev = s.dev := rfl

/-! ## State.modCtx -/

@[simp] theorem State.modCtx_units (s : State) (c : Nat) (f : Context → Context) : (s.modCtx c f).units = s.units := rfl
@[simp] theorem State.modCtx_place (s : State) (c : Nat) (f : Context → Context) : (s.modCtx c f).place = s.place := rfl
@[simp] theorem State.modCtx_issues (s : State) (c : Nat) (f : Context → Context) : (s.modCtx c f).issues = s.issues := rfl
@[simp] theorem State.modCtx_times (s : State) (c : Nat) (f : Context → Context) : (s.modCtx c f).times = s.times := rfl
@[simp] theorem State.modCtx_clocks (s : State) (c : Nat) (f : Context → Context) : (s.modCtx c f).clocks = s.clocks := rfl
@[simp] theorem State.modCtx_agenda (s : State) (c : Nat) (f : Context → Context) : (s.modCtx c f).agenda = s.agenda := rfl
@[simp] theorem State.modCtx_bundle (s : State) (c : Nat) (f : Context → Context) : (s.modCtx c f).bundle = s.bundle := rfl
@[simp] theorem State.modCtx_others (s : State) (c : Nat) (f : Context → Context) : (s.modCtx c f).others = s.others := rfl
@[simp] theorem State.modCtx_nextId (s : State) (c : Nat) (f : Context → Context) : (s.modCtx c f).nextId = s.nextId := rfl
@[simp] theorem State.modCtx_launches (s : State) (c : Nat) (f : Context → Context) : (s.modCtx c f).launches = s.launches := rfl
@[simp] theorem State.modCtx_teams (s : State) (c : Nat) (f : Context → Context) : (s.modCtx c f).teams = s.teams := rfl
@[simp] theorem State.modCtx_cores (s : State) (c : Nat) (f : Context → Context) : (s.modCtx c f).cores = s.cores := rfl
@[simp] theorem State.modCtx_dtlb (s : State) (c : Nat) (f : Context → Context) : (s.modCtx c f).dtlb = s.dtlb := rfl
@[simp] theorem State.modCtx_ops (s : State) (c : Nat) (f : Context → Context) : (s.modCtx c f).ops = s.ops := rfl
@[simp] theorem State.modCtx_cmds (s : State) (c : Nat) (f : Context → Context) : (s.modCtx c f).cmds = s.cmds := rfl
@[simp] theorem State.modCtx_mem (s : State) (c : Nat) (f : Context → Context) : (s.modCtx c f).mem = s.mem := rfl
@[simp] theorem State.modCtx_hostMem (s : State) (c : Nat) (f : Context → Context) : (s.modCtx c f).hostMem = s.hostMem := rfl
@[simp] theorem State.modCtx_lines (s : State) (c : Nat) (f : Context → Context) : (s.modCtx c f).lines = s.lines := rfl
@[simp] theorem State.modCtx_partials (s : State) (c : Nat) (f : Context → Context) : (s.modCtx c f).partials = s.partials := rfl
@[simp] theorem State.modCtx_outbox (s : State) (c : Nat) (f : Context → Context) : (s.modCtx c f).outbox = s.outbox := rfl
@[simp] theorem State.modCtx_dev (s : State) (c : Nat) (f : Context → Context) : (s.modCtx c f).dev = s.dev := rfl

/-! ## State.modLaunch -/

@[simp] theorem State.modLaunch_units (s : State) (l : Nat) (f : Launch → Launch) : (s.modLaunch l f).units = s.units := rfl
@[simp] theorem State.modLaunch_place (s : State) (l : Nat) (f : Launch → Launch) : (s.modLaunch l f).place = s.place := rfl
@[simp] theorem State.modLaunch_issues (s : State) (l : Nat) (f : Launch → Launch) : (s.modLaunch l f).issues = s.issues := rfl
@[simp] theorem State.modLaunch_times (s : State) (l : Nat) (f : Launch → Launch) : (s.modLaunch l f).times = s.times := rfl
@[simp] theorem State.modLaunch_clocks (s : State) (l : Nat) (f : Launch → Launch) : (s.modLaunch l f).clocks = s.clocks := rfl
@[simp] theorem State.modLaunch_agenda (s : State) (l : Nat) (f : Launch → Launch) : (s.modLaunch l f).agenda = s.agenda := rfl
@[simp] theorem State.modLaunch_bundle (s : State) (l : Nat) (f : Launch → Launch) : (s.modLaunch l f).bundle = s.bundle := rfl
@[simp] theorem State.modLaunch_others (s : State) (l : Nat) (f : Launch → Launch) : (s.modLaunch l f).others = s.others := rfl
@[simp] theorem State.modLaunch_nextId (s : State) (l : Nat) (f : Launch → Launch) : (s.modLaunch l f).nextId = s.nextId := rfl
@[simp] theorem State.modLaunch_contexts (s : State) (l : Nat) (f : Launch → Launch) : (s.modLaunch l f).contexts = s.contexts := rfl
@[simp] theorem State.modLaunch_teams (s : State) (l : Nat) (f : Launch → Launch) : (s.modLaunch l f).teams = s.teams := rfl
@[simp] theorem State.modLaunch_cores (s : State) (l : Nat) (f : Launch → Launch) : (s.modLaunch l f).cores = s.cores := rfl
@[simp] theorem State.modLaunch_dtlb (s : State) (l : Nat) (f : Launch → Launch) : (s.modLaunch l f).dtlb = s.dtlb := rfl
@[simp] theorem State.modLaunch_ops (s : State) (l : Nat) (f : Launch → Launch) : (s.modLaunch l f).ops = s.ops := rfl
@[simp] theorem State.modLaunch_cmds (s : State) (l : Nat) (f : Launch → Launch) : (s.modLaunch l f).cmds = s.cmds := rfl
@[simp] theorem State.modLaunch_mem (s : State) (l : Nat) (f : Launch → Launch) : (s.modLaunch l f).mem = s.mem := rfl
@[simp] theorem State.modLaunch_hostMem (s : State) (l : Nat) (f : Launch → Launch) : (s.modLaunch l f).hostMem = s.hostMem := rfl
@[simp] theorem State.modLaunch_lines (s : State) (l : Nat) (f : Launch → Launch) : (s.modLaunch l f).lines = s.lines := rfl
@[simp] theorem State.modLaunch_partials (s : State) (l : Nat) (f : Launch → Launch) : (s.modLaunch l f).partials = s.partials := rfl
@[simp] theorem State.modLaunch_outbox (s : State) (l : Nat) (f : Launch → Launch) : (s.modLaunch l f).outbox = s.outbox := rfl
@[simp] theorem State.modLaunch_dev (s : State) (l : Nat) (f : Launch → Launch) : (s.modLaunch l f).dev = s.dev := rfl

/-! ## State.modCore -/

@[simp] theorem State.modCore_units (s : State) (d n : Nat) (f : Core → Core) : (s.modCore d n f).units = s.units := rfl
@[simp] theorem State.modCore_place (s : State) (d n : Nat) (f : Core → Core) : (s.modCore d n f).place = s.place := rfl
@[simp] theorem State.modCore_issues (s : State) (d n : Nat) (f : Core → Core) : (s.modCore d n f).issues = s.issues := rfl
@[simp] theorem State.modCore_times (s : State) (d n : Nat) (f : Core → Core) : (s.modCore d n f).times = s.times := rfl
@[simp] theorem State.modCore_clocks (s : State) (d n : Nat) (f : Core → Core) : (s.modCore d n f).clocks = s.clocks := rfl
@[simp] theorem State.modCore_agenda (s : State) (d n : Nat) (f : Core → Core) : (s.modCore d n f).agenda = s.agenda := rfl
@[simp] theorem State.modCore_bundle (s : State) (d n : Nat) (f : Core → Core) : (s.modCore d n f).bundle = s.bundle := rfl
@[simp] theorem State.modCore_others (s : State) (d n : Nat) (f : Core → Core) : (s.modCore d n f).others = s.others := rfl
@[simp] theorem State.modCore_nextId (s : State) (d n : Nat) (f : Core → Core) : (s.modCore d n f).nextId = s.nextId := rfl
@[simp] theorem State.modCore_contexts (s : State) (d n : Nat) (f : Core → Core) : (s.modCore d n f).contexts = s.contexts := rfl
@[simp] theorem State.modCore_launches (s : State) (d n : Nat) (f : Core → Core) : (s.modCore d n f).launches = s.launches := rfl
@[simp] theorem State.modCore_teams (s : State) (d n : Nat) (f : Core → Core) : (s.modCore d n f).teams = s.teams := rfl
@[simp] theorem State.modCore_dtlb (s : State) (d n : Nat) (f : Core → Core) : (s.modCore d n f).dtlb = s.dtlb := rfl
@[simp] theorem State.modCore_ops (s : State) (d n : Nat) (f : Core → Core) : (s.modCore d n f).ops = s.ops := rfl
@[simp] theorem State.modCore_cmds (s : State) (d n : Nat) (f : Core → Core) : (s.modCore d n f).cmds = s.cmds := rfl
@[simp] theorem State.modCore_mem (s : State) (d n : Nat) (f : Core → Core) : (s.modCore d n f).mem = s.mem := rfl
@[simp] theorem State.modCore_hostMem (s : State) (d n : Nat) (f : Core → Core) : (s.modCore d n f).hostMem = s.hostMem := rfl
@[simp] theorem State.modCore_lines (s : State) (d n : Nat) (f : Core → Core) : (s.modCore d n f).lines = s.lines := rfl
@[simp] theorem State.modCore_partials (s : State) (d n : Nat) (f : Core → Core) : (s.modCore d n f).partials = s.partials := rfl
@[simp] theorem State.modCore_outbox (s : State) (d n : Nat) (f : Core → Core) : (s.modCore d n f).outbox = s.outbox := rfl
@[simp] theorem State.modCore_dev (s : State) (d n : Nat) (f : Core → Core) : (s.modCore d n f).dev = s.dev := rfl

/-! ## State.setBody -/

@[simp] theorem State.setBody_units (s : State) (k : Nat) (b : OpBody) : (s.setBody k b).units = s.units := rfl
@[simp] theorem State.setBody_place (s : State) (k : Nat) (b : OpBody) : (s.setBody k b).place = s.place := rfl
@[simp] theorem State.setBody_issues (s : State) (k : Nat) (b : OpBody) : (s.setBody k b).issues = s.issues := rfl
@[simp] theorem State.setBody_times (s : State) (k : Nat) (b : OpBody) : (s.setBody k b).times = s.times := rfl
@[simp] theorem State.setBody_clocks (s : State) (k : Nat) (b : OpBody) : (s.setBody k b).clocks = s.clocks := rfl
@[simp] theorem State.setBody_agenda (s : State) (k : Nat) (b : OpBody) : (s.setBody k b).agenda = s.agenda := rfl
@[simp] theorem State.setBody_bundle (s : State) (k : Nat) (b : OpBody) : (s.setBody k b).bundle = s.bundle := rfl
@[simp] theorem State.setBody_others (s : State) (k : Nat) (b : OpBody) : (s.setBody k b).others = s.others := rfl
@[simp] theorem State.setBody_nextId (s : State) (k : Nat) (b : OpBody) : (s.setBody k b).nextId = s.nextId := rfl
@[simp] theorem State.setBody_contexts (s : State) (k : Nat) (b : OpBody) : (s.setBody k b).contexts = s.contexts := rfl
@[simp] theorem State.setBody_launches (s : State) (k : Nat) (b : OpBody) : (s.setBody k b).launches = s.launches := rfl
@[simp] theorem State.setBody_teams (s : State) (k : Nat) (b : OpBody) : (s.setBody k b).teams = s.teams := rfl
@[simp] theorem State.setBody_cores (s : State) (k : Nat) (b : OpBody) : (s.setBody k b).cores = s.cores := rfl
@[simp] theorem State.setBody_dtlb (s : State) (k : Nat) (b : OpBody) : (s.setBody k b).dtlb = s.dtlb := rfl
@[simp] theorem State.setBody_cmds (s : State) (k : Nat) (b : OpBody) : (s.setBody k b).cmds = s.cmds := rfl
@[simp] theorem State.setBody_mem (s : State) (k : Nat) (b : OpBody) : (s.setBody k b).mem = s.mem := rfl
@[simp] theorem State.setBody_hostMem (s : State) (k : Nat) (b : OpBody) : (s.setBody k b).hostMem = s.hostMem := rfl
@[simp] theorem State.setBody_lines (s : State) (k : Nat) (b : OpBody) : (s.setBody k b).lines = s.lines := rfl
@[simp] theorem State.setBody_partials (s : State) (k : Nat) (b : OpBody) : (s.setBody k b).partials = s.partials := rfl
@[simp] theorem State.setBody_outbox (s : State) (k : Nat) (b : OpBody) : (s.setBody k b).outbox = s.outbox := rfl
@[simp] theorem State.setBody_dev (s : State) (k : Nat) (b : OpBody) : (s.setBody k b).dev = s.dev := rfl

/-! ## State.modCmd -/

@[simp] theorem State.modCmd_units (s : State) (k : Nat) (f : Cmd → Cmd) : (s.modCmd k f).units = s.units := rfl
@[simp] theorem State.modCmd_place (s : State) (k : Nat) (f : Cmd → Cmd) : (s.modCmd k f).place = s.place := rfl
@[simp] theorem State.modCmd_issues (s : State) (k : Nat) (f : Cmd → Cmd) : (s.modCmd k f).issues = s.issues := rfl
@[simp] theorem State.modCmd_times (s : State) (k : Nat) (f : Cmd → Cmd) : (s.modCmd k f).times = s.times := rfl
@[simp] theorem State.modCmd_clocks (s : State) (k : Nat) (f : Cmd → Cmd) : (s.modCmd k f).clocks = s.clocks := rfl
@[simp] theorem State.modCmd_agenda (s : State) (k : Nat) (f : Cmd → Cmd) : (s.modCmd k f).agenda = s.agenda := rfl
@[simp] theorem State.modCmd_bundle (s : State) (k : Nat) (f : Cmd → Cmd) : (s.modCmd k f).bundle = s.bundle := rfl
@[simp] theorem State.modCmd_others (s : State) (k : Nat) (f : Cmd → Cmd) : (s.modCmd k f).others = s.others := rfl
@[simp] theorem State.modCmd_nextId (s : State) (k : Nat) (f : Cmd → Cmd) : (s.modCmd k f).nextId = s.nextId := rfl
@[simp] theorem State.modCmd_contexts (s : State) (k : Nat) (f : Cmd → Cmd) : (s.modCmd k f).contexts = s.contexts := rfl
@[simp] theorem State.modCmd_launches (s : State) (k : Nat) (f : Cmd → Cmd) : (s.modCmd k f).launches = s.launches := rfl
@[simp] theorem State.modCmd_teams (s : State) (k : Nat) (f : Cmd → Cmd) : (s.modCmd k f).teams = s.teams := rfl
@[simp] theorem State.modCmd_cores (s : State) (k : Nat) (f : Cmd → Cmd) : (s.modCmd k f).cores = s.cores := rfl
@[simp] theorem State.modCmd_dtlb (s : State) (k : Nat) (f : Cmd → Cmd) : (s.modCmd k f).dtlb = s.dtlb := rfl
@[simp] theorem State.modCmd_ops (s : State) (k : Nat) (f : Cmd → Cmd) : (s.modCmd k f).ops = s.ops := rfl
@[simp] theorem State.modCmd_mem (s : State) (k : Nat) (f : Cmd → Cmd) : (s.modCmd k f).mem = s.mem := rfl
@[simp] theorem State.modCmd_hostMem (s : State) (k : Nat) (f : Cmd → Cmd) : (s.modCmd k f).hostMem = s.hostMem := rfl
@[simp] theorem State.modCmd_lines (s : State) (k : Nat) (f : Cmd → Cmd) : (s.modCmd k f).lines = s.lines := rfl
@[simp] theorem State.modCmd_partials (s : State) (k : Nat) (f : Cmd → Cmd) : (s.modCmd k f).partials = s.partials := rfl
@[simp] theorem State.modCmd_outbox (s : State) (k : Nat) (f : Cmd → Cmd) : (s.modCmd k f).outbox = s.outbox := rfl
@[simp] theorem State.modCmd_dev (s : State) (k : Nat) (f : Cmd → Cmd) : (s.modCmd k f).dev = s.dev := rfl

/-! ## State.addOp -/

@[simp] theorem State.addOp_units (s : State) (id r : Nat) (g : Option Nat) (hold : Hold) (b : OpBody) : (s.addOp id r g hold b).units = s.units := rfl
@[simp] theorem State.addOp_place (s : State) (id r : Nat) (g : Option Nat) (hold : Hold) (b : OpBody) : (s.addOp id r g hold b).place = s.place := rfl
@[simp] theorem State.addOp_issues (s : State) (id r : Nat) (g : Option Nat) (hold : Hold) (b : OpBody) : (s.addOp id r g hold b).issues = s.issues := rfl
@[simp] theorem State.addOp_times (s : State) (id r : Nat) (g : Option Nat) (hold : Hold) (b : OpBody) : (s.addOp id r g hold b).times = s.times := rfl
@[simp] theorem State.addOp_clocks (s : State) (id r : Nat) (g : Option Nat) (hold : Hold) (b : OpBody) : (s.addOp id r g hold b).clocks = s.clocks := rfl
@[simp] theorem State.addOp_agenda (s : State) (id r : Nat) (g : Option Nat) (hold : Hold) (b : OpBody) : (s.addOp id r g hold b).agenda = s.agenda := rfl
@[simp] theorem State.addOp_bundle (s : State) (id r : Nat) (g : Option Nat) (hold : Hold) (b : OpBody) : (s.addOp id r g hold b).bundle = s.bundle := rfl
@[simp] theorem State.addOp_others (s : State) (id r : Nat) (g : Option Nat) (hold : Hold) (b : OpBody) : (s.addOp id r g hold b).others = s.others := rfl
@[simp] theorem State.addOp_contexts (s : State) (id r : Nat) (g : Option Nat) (hold : Hold) (b : OpBody) : (s.addOp id r g hold b).contexts = s.contexts := rfl
@[simp] theorem State.addOp_launches (s : State) (id r : Nat) (g : Option Nat) (hold : Hold) (b : OpBody) : (s.addOp id r g hold b).launches = s.launches := rfl
@[simp] theorem State.addOp_teams (s : State) (id r : Nat) (g : Option Nat) (hold : Hold) (b : OpBody) : (s.addOp id r g hold b).teams = s.teams := rfl
@[simp] theorem State.addOp_cores (s : State) (id r : Nat) (g : Option Nat) (hold : Hold) (b : OpBody) : (s.addOp id r g hold b).cores = s.cores := rfl
@[simp] theorem State.addOp_dtlb (s : State) (id r : Nat) (g : Option Nat) (hold : Hold) (b : OpBody) : (s.addOp id r g hold b).dtlb = s.dtlb := rfl
@[simp] theorem State.addOp_cmds (s : State) (id r : Nat) (g : Option Nat) (hold : Hold) (b : OpBody) : (s.addOp id r g hold b).cmds = s.cmds := rfl
@[simp] theorem State.addOp_mem (s : State) (id r : Nat) (g : Option Nat) (hold : Hold) (b : OpBody) : (s.addOp id r g hold b).mem = s.mem := rfl
@[simp] theorem State.addOp_hostMem (s : State) (id r : Nat) (g : Option Nat) (hold : Hold) (b : OpBody) : (s.addOp id r g hold b).hostMem = s.hostMem := rfl
@[simp] theorem State.addOp_lines (s : State) (id r : Nat) (g : Option Nat) (hold : Hold) (b : OpBody) : (s.addOp id r g hold b).lines = s.lines := rfl
@[simp] theorem State.addOp_partials (s : State) (id r : Nat) (g : Option Nat) (hold : Hold) (b : OpBody) : (s.addOp id r g hold b).partials = s.partials := rfl
@[simp] theorem State.addOp_outbox (s : State) (id r : Nat) (g : Option Nat) (hold : Hold) (b : OpBody) : (s.addOp id r g hold b).outbox = s.outbox := rfl
@[simp] theorem State.addOp_dev (s : State) (id r : Nat) (g : Option Nat) (hold : Hold) (b : OpBody) : (s.addOp id r g hold b).dev = s.dev := rfl

/-! ## State.leave -/

@[simp] theorem State.leave_units (s : State) (id r : Nat) : (s.leave id r).units = s.units := rfl
@[simp] theorem State.leave_place (s : State) (id r : Nat) : (s.leave id r).place = s.place := rfl
@[simp] theorem State.leave_issues (s : State) (id r : Nat) : (s.leave id r).issues = s.issues := rfl
@[simp] theorem State.leave_times (s : State) (id r : Nat) : (s.leave id r).times = s.times := rfl
@[simp] theorem State.leave_clocks (s : State) (id r : Nat) : (s.leave id r).clocks = s.clocks := rfl
@[simp] theorem State.leave_agenda (s : State) (id r : Nat) : (s.leave id r).agenda = s.agenda := rfl
@[simp] theorem State.leave_nextId (s : State) (id r : Nat) : (s.leave id r).nextId = s.nextId := rfl
@[simp] theorem State.leave_contexts (s : State) (id r : Nat) : (s.leave id r).contexts = s.contexts := rfl
@[simp] theorem State.leave_launches (s : State) (id r : Nat) : (s.leave id r).launches = s.launches := rfl
@[simp] theorem State.leave_teams (s : State) (id r : Nat) : (s.leave id r).teams = s.teams := rfl
@[simp] theorem State.leave_cores (s : State) (id r : Nat) : (s.leave id r).cores = s.cores := rfl
@[simp] theorem State.leave_dtlb (s : State) (id r : Nat) : (s.leave id r).dtlb = s.dtlb := rfl
@[simp] theorem State.leave_ops (s : State) (id r : Nat) : (s.leave id r).ops = s.ops := rfl
@[simp] theorem State.leave_cmds (s : State) (id r : Nat) : (s.leave id r).cmds = s.cmds := rfl
@[simp] theorem State.leave_mem (s : State) (id r : Nat) : (s.leave id r).mem = s.mem := rfl
@[simp] theorem State.leave_hostMem (s : State) (id r : Nat) : (s.leave id r).hostMem = s.hostMem := rfl
@[simp] theorem State.leave_lines (s : State) (id r : Nat) : (s.leave id r).lines = s.lines := rfl
@[simp] theorem State.leave_partials (s : State) (id r : Nat) : (s.leave id r).partials = s.partials := rfl
@[simp] theorem State.leave_outbox (s : State) (id r : Nat) : (s.leave id r).outbox = s.outbox := rfl
@[simp] theorem State.leave_dev (s : State) (id r : Nat) : (s.leave id r).dev = s.dev := rfl

/-! ## What an update makes of its own field -/

theorem State.modTeam_teams (s : State) (id : Nat) (f : Team → Team) : (s.modTeam id f).teams = mapIf (fun t => t.id == id) f s.teams := rfl
theorem State.modCtx_contexts (s : State) (c : Nat) (f : Context → Context) :
    (s.modCtx c f).contexts = mapIf (fun x => x.num == c) f s.contexts := rfl
theorem State.modLaunch_launches (s : State) (l : Nat) (f : Launch → Launch) :
    (s.modLaunch l f).launches = mapIf (fun x => x.id == l) f s.launches := rfl
theorem State.modCore_cores (s : State) (d n : Nat) (f : Core → Core) :
    (s.modCore d n f).cores = mapIf (fun c => c.die == d && c.num == n) f s.cores := rfl
theorem State.modCmd_cmds (s : State) (k : Nat) (f : Cmd → Cmd) : (s.modCmd k f).cmds = mapIf (fun c => c.id == k) f s.cmds := rfl
theorem State.addOp_ops (s : State) (id r : Nat) (g : Option Nat) (hold : Hold) (b : OpBody) :
    (s.addOp id r g hold b).ops = s.ops ++ [{ id := s.nextId, team := id, lrank := r, flag := g, hold := hold, issue := s.issues, sectors := b.sectors, frame := s.frameOf id r, body := b }] := rfl
@[simp] theorem State.addOp_nextId (s : State) (id r : Nat) (g : Option Nat) (hold : Hold) (b : OpBody) :
    (s.addOp id r g hold b).nextId = s.nextId + 1 := rfl

/-! ## Team updates -/

@[simp] theorem Team.modThread_id (t : Team) (r : Nat) (f : Thread → Thread) : (t.modThread r f).id = t.id := rfl
@[simp] theorem Team.modThread_ctx (t : Team) (r : Nat) (f : Thread → Thread) : (t.modThread r f).ctx = t.ctx := rfl
@[simp] theorem Team.modThread_launch (t : Team) (r : Nat) (f : Thread → Thread) : (t.modThread r f).launch = t.launch := rfl
@[simp] theorem Team.modThread_teamId (t : Team) (r : Nat) (f : Thread → Thread) : (t.modThread r f).teamId = t.teamId := rfl
@[simp] theorem Team.modThread_cluster (t : Team) (r : Nat) (f : Thread → Thread) : (t.modThread r f).cluster = t.cluster := rfl
@[simp] theorem Team.modThread_pos (t : Team) (r : Nat) (f : Thread → Thread) : (t.modThread r f).pos = t.pos := rfl
@[simp] theorem Team.modThread_die (t : Team) (r : Nat) (f : Thread → Thread) : (t.modThread r f).die = t.die := rfl
@[simp] theorem Team.modThread_core (t : Team) (r : Nat) (f : Thread → Thread) : (t.modThread r f).core = t.core := rfl
@[simp] theorem Team.modThread_slot (t : Team) (r : Nat) (f : Thread → Thread) : (t.modThread r f).slot = t.slot := rfl
@[simp] theorem Team.modThread_standing (t : Team) (r : Nat) (f : Thread → Thread) : (t.modThread r f).standing = t.standing := rfl
@[simp] theorem Team.modThread_frames (t : Team) (r : Nat) (f : Thread → Thread) : (t.modThread r f).frames = t.frames := rfl
@[simp] theorem Team.modThread_scratch (t : Team) (r : Nat) (f : Thread → Thread) : (t.modThread r f).scratch = t.scratch := rfl
@[simp] theorem Team.modThread_opbuf (t : Team) (r : Nat) (f : Thread → Thread) : (t.modThread r f).opbuf = t.opbuf := rfl
@[simp] theorem Team.modThread_acc (t : Team) (r : Nat) (f : Thread → Thread) : (t.modThread r f).acc = t.acc := rfl
@[simp] theorem Team.modThread_win (t : Team) (r : Nat) (f : Thread → Thread) : (t.modThread r f).win = t.win := rfl
@[simp] theorem Team.modThread_handles (t : Team) (r : Nat) (f : Thread → Thread) : (t.modThread r f).handles = t.handles := rfl
@[simp] theorem Team.modThread_mrgc (t : Team) (r : Nat) (f : Thread → Thread) : (t.modThread r f).mrgc = t.mrgc := rfl
@[simp] theorem Team.modThread_tags (t : Team) (r : Nat) (f : Thread → Thread) : (t.modThread r f).tags = t.tags := rfl
@[simp] theorem Team.modThread_trdy (t : Team) (r : Nat) (f : Thread → Thread) : (t.modThread r f).trdy = t.trdy := rfl
@[simp] theorem Team.modThread_arrC (t : Team) (r : Nat) (f : Thread → Thread) : (t.modThread r f).arrC = t.arrC := rfl
@[simp] theorem Team.modThread_phaseC (t : Team) (r : Nat) (f : Thread → Thread) : (t.modThread r f).phaseC = t.phaseC := rfl
@[simp] theorem Team.modThread_arrG (t : Team) (r : Nat) (f : Thread → Thread) : (t.modThread r f).arrG = t.arrG := rfl
@[simp] theorem Team.modThread_phaseG (t : Team) (r : Nat) (f : Thread → Thread) : (t.modThread r f).phaseG = t.phaseG := rfl
@[simp] theorem Team.modThread_wideH (t : Team) (r : Nat) (f : Thread → Thread) : (t.modThread r f).wideH = t.wideH := rfl
@[simp] theorem Team.modThread_wideAt (t : Team) (r : Nat) (f : Thread → Thread) : (t.modThread r f).wideAt = t.wideAt := rfl
@[simp] theorem Team.modThread_toldC (t : Team) (r : Nat) (f : Thread → Thread) : (t.modThread r f).toldC = t.toldC := rfl
@[simp] theorem Team.modThread_toldG (t : Team) (r : Nat) (f : Thread → Thread) : (t.modThread r f).toldG = t.toldG := rfl
@[simp] theorem Team.modThread_pends (t : Team) (r : Nat) (f : Thread → Thread) : (t.modThread r f).pends = t.pends := rfl
@[simp] theorem Team.modThread_faults (t : Team) (r : Nat) (f : Thread → Thread) : (t.modThread r f).faults = t.faults := rfl
@[simp] theorem Team.modThread_mayResume (t : Team) (r : Nat) (f : Thread → Thread) : (t.modThread r f).mayResume = t.mayResume := rfl
@[simp] theorem Team.modThread_home (t : Team) (r : Nat) (f : Thread → Thread) : (t.modThread r f).home = t.home := rfl
@[simp] theorem Team.modThread_savedClock (t : Team) (r : Nat) (f : Thread → Thread) : (t.modThread r f).savedClock = t.savedClock := rfl
@[simp] theorem Team.modThread_savedTime (t : Team) (r : Nat) (f : Thread → Thread) : (t.modThread r f).savedTime = t.savedTime := rfl

@[simp] theorem Team.modFrame_id (t : Team) (i : Nat) (f : Frame → Frame) : (t.modFrame i f).id = t.id := rfl
@[simp] theorem Team.modFrame_ctx (t : Team) (i : Nat) (f : Frame → Frame) : (t.modFrame i f).ctx = t.ctx := rfl
@[simp] theorem Team.modFrame_launch (t : Team) (i : Nat) (f : Frame → Frame) : (t.modFrame i f).launch = t.launch := rfl
@[simp] theorem Team.modFrame_teamId (t : Team) (i : Nat) (f : Frame → Frame) : (t.modFrame i f).teamId = t.teamId := rfl
@[simp] theorem Team.modFrame_cluster (t : Team) (i : Nat) (f : Frame → Frame) : (t.modFrame i f).cluster = t.cluster := rfl
@[simp] theorem Team.modFrame_pos (t : Team) (i : Nat) (f : Frame → Frame) : (t.modFrame i f).pos = t.pos := rfl
@[simp] theorem Team.modFrame_die (t : Team) (i : Nat) (f : Frame → Frame) : (t.modFrame i f).die = t.die := rfl
@[simp] theorem Team.modFrame_core (t : Team) (i : Nat) (f : Frame → Frame) : (t.modFrame i f).core = t.core := rfl
@[simp] theorem Team.modFrame_slot (t : Team) (i : Nat) (f : Frame → Frame) : (t.modFrame i f).slot = t.slot := rfl
@[simp] theorem Team.modFrame_standing (t : Team) (i : Nat) (f : Frame → Frame) : (t.modFrame i f).standing = t.standing := rfl
@[simp] theorem Team.modFrame_threads (t : Team) (i : Nat) (f : Frame → Frame) : (t.modFrame i f).threads = t.threads := rfl
@[simp] theorem Team.modFrame_scratch (t : Team) (i : Nat) (f : Frame → Frame) : (t.modFrame i f).scratch = t.scratch := rfl
@[simp] theorem Team.modFrame_opbuf (t : Team) (i : Nat) (f : Frame → Frame) : (t.modFrame i f).opbuf = t.opbuf := rfl
@[simp] theorem Team.modFrame_acc (t : Team) (i : Nat) (f : Frame → Frame) : (t.modFrame i f).acc = t.acc := rfl
@[simp] theorem Team.modFrame_win (t : Team) (i : Nat) (f : Frame → Frame) : (t.modFrame i f).win = t.win := rfl
@[simp] theorem Team.modFrame_handles (t : Team) (i : Nat) (f : Frame → Frame) : (t.modFrame i f).handles = t.handles := rfl
@[simp] theorem Team.modFrame_mrgc (t : Team) (i : Nat) (f : Frame → Frame) : (t.modFrame i f).mrgc = t.mrgc := rfl
@[simp] theorem Team.modFrame_tags (t : Team) (i : Nat) (f : Frame → Frame) : (t.modFrame i f).tags = t.tags := rfl
@[simp] theorem Team.modFrame_trdy (t : Team) (i : Nat) (f : Frame → Frame) : (t.modFrame i f).trdy = t.trdy := rfl
@[simp] theorem Team.modFrame_arrC (t : Team) (i : Nat) (f : Frame → Frame) : (t.modFrame i f).arrC = t.arrC := rfl
@[simp] theorem Team.modFrame_phaseC (t : Team) (i : Nat) (f : Frame → Frame) : (t.modFrame i f).phaseC = t.phaseC := rfl
@[simp] theorem Team.modFrame_arrG (t : Team) (i : Nat) (f : Frame → Frame) : (t.modFrame i f).arrG = t.arrG := rfl
@[simp] theorem Team.modFrame_phaseG (t : Team) (i : Nat) (f : Frame → Frame) : (t.modFrame i f).phaseG = t.phaseG := rfl
@[simp] theorem Team.modFrame_wideH (t : Team) (i : Nat) (f : Frame → Frame) : (t.modFrame i f).wideH = t.wideH := rfl
@[simp] theorem Team.modFrame_wideAt (t : Team) (i : Nat) (f : Frame → Frame) : (t.modFrame i f).wideAt = t.wideAt := rfl
@[simp] theorem Team.modFrame_toldC (t : Team) (i : Nat) (f : Frame → Frame) : (t.modFrame i f).toldC = t.toldC := rfl
@[simp] theorem Team.modFrame_toldG (t : Team) (i : Nat) (f : Frame → Frame) : (t.modFrame i f).toldG = t.toldG := rfl
@[simp] theorem Team.modFrame_pends (t : Team) (i : Nat) (f : Frame → Frame) : (t.modFrame i f).pends = t.pends := rfl
@[simp] theorem Team.modFrame_faults (t : Team) (i : Nat) (f : Frame → Frame) : (t.modFrame i f).faults = t.faults := rfl
@[simp] theorem Team.modFrame_mayResume (t : Team) (i : Nat) (f : Frame → Frame) : (t.modFrame i f).mayResume = t.mayResume := rfl
@[simp] theorem Team.modFrame_home (t : Team) (i : Nat) (f : Frame → Frame) : (t.modFrame i f).home = t.home := rfl
@[simp] theorem Team.modFrame_savedClock (t : Team) (i : Nat) (f : Frame → Frame) : (t.modFrame i f).savedClock = t.savedClock := rfl
@[simp] theorem Team.modFrame_savedTime (t : Team) (i : Nat) (f : Frame → Frame) : (t.modFrame i f).savedTime = t.savedTime := rfl

@[simp] theorem Team.uput_id (t : Team) (i j : Nat) (x : Word) : (t.uput i j x).id = t.id := rfl
@[simp] theorem Team.uput_ctx (t : Team) (i j : Nat) (x : Word) : (t.uput i j x).ctx = t.ctx := rfl
@[simp] theorem Team.uput_launch (t : Team) (i j : Nat) (x : Word) : (t.uput i j x).launch = t.launch := rfl
@[simp] theorem Team.uput_teamId (t : Team) (i j : Nat) (x : Word) : (t.uput i j x).teamId = t.teamId := rfl
@[simp] theorem Team.uput_cluster (t : Team) (i j : Nat) (x : Word) : (t.uput i j x).cluster = t.cluster := rfl
@[simp] theorem Team.uput_pos (t : Team) (i j : Nat) (x : Word) : (t.uput i j x).pos = t.pos := rfl
@[simp] theorem Team.uput_die (t : Team) (i j : Nat) (x : Word) : (t.uput i j x).die = t.die := rfl
@[simp] theorem Team.uput_core (t : Team) (i j : Nat) (x : Word) : (t.uput i j x).core = t.core := rfl
@[simp] theorem Team.uput_slot (t : Team) (i j : Nat) (x : Word) : (t.uput i j x).slot = t.slot := rfl
@[simp] theorem Team.uput_standing (t : Team) (i j : Nat) (x : Word) : (t.uput i j x).standing = t.standing := rfl
@[simp] theorem Team.uput_threads (t : Team) (i j : Nat) (x : Word) : (t.uput i j x).threads = t.threads := rfl
@[simp] theorem Team.uput_scratch (t : Team) (i j : Nat) (x : Word) : (t.uput i j x).scratch = t.scratch := rfl
@[simp] theorem Team.uput_opbuf (t : Team) (i j : Nat) (x : Word) : (t.uput i j x).opbuf = t.opbuf := rfl
@[simp] theorem Team.uput_acc (t : Team) (i j : Nat) (x : Word) : (t.uput i j x).acc = t.acc := rfl
@[simp] theorem Team.uput_win (t : Team) (i j : Nat) (x : Word) : (t.uput i j x).win = t.win := rfl
@[simp] theorem Team.uput_handles (t : Team) (i j : Nat) (x : Word) : (t.uput i j x).handles = t.handles := rfl
@[simp] theorem Team.uput_mrgc (t : Team) (i j : Nat) (x : Word) : (t.uput i j x).mrgc = t.mrgc := rfl
@[simp] theorem Team.uput_tags (t : Team) (i j : Nat) (x : Word) : (t.uput i j x).tags = t.tags := rfl
@[simp] theorem Team.uput_trdy (t : Team) (i j : Nat) (x : Word) : (t.uput i j x).trdy = t.trdy := rfl
@[simp] theorem Team.uput_arrC (t : Team) (i j : Nat) (x : Word) : (t.uput i j x).arrC = t.arrC := rfl
@[simp] theorem Team.uput_phaseC (t : Team) (i j : Nat) (x : Word) : (t.uput i j x).phaseC = t.phaseC := rfl
@[simp] theorem Team.uput_arrG (t : Team) (i j : Nat) (x : Word) : (t.uput i j x).arrG = t.arrG := rfl
@[simp] theorem Team.uput_phaseG (t : Team) (i j : Nat) (x : Word) : (t.uput i j x).phaseG = t.phaseG := rfl
@[simp] theorem Team.uput_wideH (t : Team) (i j : Nat) (x : Word) : (t.uput i j x).wideH = t.wideH := rfl
@[simp] theorem Team.uput_wideAt (t : Team) (i j : Nat) (x : Word) : (t.uput i j x).wideAt = t.wideAt := rfl
@[simp] theorem Team.uput_toldC (t : Team) (i j : Nat) (x : Word) : (t.uput i j x).toldC = t.toldC := rfl
@[simp] theorem Team.uput_toldG (t : Team) (i j : Nat) (x : Word) : (t.uput i j x).toldG = t.toldG := rfl
@[simp] theorem Team.uput_pends (t : Team) (i j : Nat) (x : Word) : (t.uput i j x).pends = t.pends := rfl
@[simp] theorem Team.uput_faults (t : Team) (i j : Nat) (x : Word) : (t.uput i j x).faults = t.faults := rfl
@[simp] theorem Team.uput_mayResume (t : Team) (i j : Nat) (x : Word) : (t.uput i j x).mayResume = t.mayResume := rfl
@[simp] theorem Team.uput_home (t : Team) (i j : Nat) (x : Word) : (t.uput i j x).home = t.home := rfl
@[simp] theorem Team.uput_savedClock (t : Team) (i j : Nat) (x : Word) : (t.uput i j x).savedClock = t.savedClock := rfl
@[simp] theorem Team.uput_savedTime (t : Team) (i j : Nat) (x : Word) : (t.uput i j x).savedTime = t.savedTime := rfl

/-! ## Register writes of a thread -/

@[simp] theorem Thread.write_lrank (h : Thread) (w : Wr) : (h.write w).lrank = h.lrank := by cases w <;> rfl
@[simp] theorem Thread.write_rank (h : Thread) (w : Wr) : (h.write w).rank = h.rank := by cases w <;> rfl
@[simp] theorem Thread.write_frame (h : Thread) (w : Wr) : (h.write w).frame = h.frame := by cases w <;> rfl
@[simp] theorem Thread.write_course (h : Thread) (w : Wr) : (h.write w).course = h.course := by cases w <;> rfl
@[simp] theorem Thread.write_nreg (h : Thread) (w : Wr) : (h.write w).nreg = h.nreg := by cases w <;> rfl
@[simp] theorem Thread.write_pc (h : Thread) (w : Wr) : (h.write w).pc = h.pc := by cases w <;> rfl
@[simp] theorem Thread.write_cont (h : Thread) (w : Wr) : (h.write w).cont = h.cont := by cases w <;> rfl
@[simp] theorem Thread.write_snap (h : Thread) (w : Wr) : (h.write w).snap = h.snap := by cases w <;> rfl
@[simp] theorem Thread.write_rstack (h : Thread) (w : Wr) : (h.write w).rstack = h.rstack := by cases w <;> rfl
@[simp] theorem Thread.write_flags (h : Thread) (w : Wr) : (h.write w).flags = h.flags := by cases w <;> rfl
@[simp] theorem Thread.write_prec (h : Thread) (w : Wr) : (h.write w).prec = h.prec := by cases w <;> rfl
@[simp] theorem Thread.write_fh (h : Thread) (w : Wr) : (h.write w).fh = h.fh := by cases w <;> rfl
@[simp] theorem Thread.write_rh (h : Thread) (w : Wr) : (h.write w).rh = h.rh := by cases w <;> rfl
@[simp] theorem Thread.write_akey (h : Thread) (w : Wr) : (h.write w).akey = h.akey := by cases w <;> rfl
@[simp] theorem Thread.write_shFh (h : Thread) (w : Wr) : (h.write w).shFh = h.shFh := by cases w <;> rfl
@[simp] theorem Thread.write_shRh (h : Thread) (w : Wr) : (h.write w).shRh = h.shRh := by cases w <;> rfl
@[simp] theorem Thread.write_shGtime (h : Thread) (w : Wr) : (h.write w).shGtime = h.shGtime := by cases w <;> rfl
@[simp] theorem Thread.write_shTagrdy (h : Thread) (w : Wr) : (h.write w).shTagrdy = h.shTagrdy := by cases w <;> rfl
@[simp] theorem Thread.write_exited (h : Thread) (w : Wr) : (h.write w).exited = h.exited := by cases w <;> rfl
@[simp] theorem Thread.write_stopped (h : Thread) (w : Wr) : (h.write w).stopped = h.stopped := by cases w <;> rfl
@[simp] theorem Thread.write_stopNext (h : Thread) (w : Wr) : (h.write w).stopNext = h.stopNext := by cases w <;> rfl
@[simp] theorem Thread.write_stopClock (h : Thread) (w : Wr) : (h.write w).stopClock = h.stopClock := by cases w <;> rfl
@[simp] theorem Thread.write_stopTime (h : Thread) (w : Wr) : (h.write w).stopTime = h.stopTime := by cases w <;> rfl
@[simp] theorem Thread.write_due (h : Thread) (w : Wr) : (h.write w).due = h.due := by cases w <;> rfl
@[simp] theorem Thread.write_park (h : Thread) (w : Wr) : (h.write w).park = h.park := by cases w <;> rfl
@[simp] theorem Thread.write_parkPhase (h : Thread) (w : Wr) : (h.write w).parkPhase = h.parkPhase := by cases w <;> rfl
@[simp] theorem Thread.write_parkArg (h : Thread) (w : Wr) : (h.write w).parkArg = h.parkArg := by cases w <;> rfl
@[simp] theorem Thread.write_parkAt (h : Thread) (w : Wr) : (h.write w).parkAt = h.parkAt := by cases w <;> rfl
@[simp] theorem Thread.write_parkClock (h : Thread) (w : Wr) : (h.write w).parkClock = h.parkClock := by cases w <;> rfl
@[simp] theorem Thread.write_parkTold (h : Thread) (w : Wr) : (h.write w).parkTold = h.parkTold := by cases w <;> rfl
@[simp] theorem Thread.write_arrivals (h : Thread) (w : Wr) : (h.write w).arrivals = h.arrivals := by cases w <;> rfl
@[simp] theorem Thread.write_garr (h : Thread) (w : Wr) : (h.write w).garr = h.garr := by cases w <;> rfl
@[simp] theorem Thread.write_yieldAt (h : Thread) (w : Wr) : (h.write w).yieldAt = h.yieldAt := by cases w <;> rfl
@[simp] theorem Thread.write_yieldMark (h : Thread) (w : Wr) : (h.write w).yieldMark = h.yieldMark := by cases w <;> rfl
@[simp] theorem Thread.write_hintMark (h : Thread) (w : Wr) : (h.write w).hintMark = h.hintMark := by cases w <;> rfl
@[simp] theorem Thread.write_aged (h : Thread) (w : Wr) : (h.write w).aged = h.aged := by cases w <;> rfl
@[simp] theorem Thread.write_readyAt (h : Thread) (w : Wr) : (h.write w).readyAt = h.readyAt := by cases w <;> rfl
@[simp] theorem Thread.write_trap (h : Thread) (w : Wr) : (h.write w).trap = h.trap := by cases w <;> rfl
@[simp] theorem Thread.write_pmk (h : Thread) (w : Wr) : (h.write w).pmk = h.pmk := by cases w <;> rfl
@[simp] theorem Thread.write_skipBp (h : Thread) (w : Wr) : (h.write w).skipBp = h.skipBp := by cases w <;> rfl
@[simp] theorem Thread.write_stepOne (h : Thread) (w : Wr) : (h.write w).stepOne = h.stepOne := by cases w <;> rfl
@[simp] theorem Thread.write_stepRun (h : Thread) (w : Wr) : (h.write w).stepRun = h.stepRun := by cases w <;> rfl
@[simp] theorem Thread.write_openWin (h : Thread) (w : Wr) : (h.write w).openWin = h.openWin := by cases w <;> rfl
@[simp] theorem Thread.write_sinceOpen (h : Thread) (w : Wr) : (h.write w).sinceOpen = h.sinceOpen := by cases w <;> rfl
@[simp] theorem Thread.write_dieAt (h : Thread) (w : Wr) : (h.write w).dieAt = h.dieAt := by cases w <;> rfl

@[simp] theorem Thread.writes_lrank (h : Thread) (ws : List Wr) : (h.writes ws).lrank = h.lrank := by
  induction ws generalizing h with
  | nil => rfl
  | cons w t ih => exact (ih (h.write w)).trans (Thread.write_lrank h w)
@[simp] theorem Thread.writes_rank (h : Thread) (ws : List Wr) : (h.writes ws).rank = h.rank := by
  induction ws generalizing h with
  | nil => rfl
  | cons w t ih => exact (ih (h.write w)).trans (Thread.write_rank h w)
@[simp] theorem Thread.writes_frame (h : Thread) (ws : List Wr) : (h.writes ws).frame = h.frame := by
  induction ws generalizing h with
  | nil => rfl
  | cons w t ih => exact (ih (h.write w)).trans (Thread.write_frame h w)
@[simp] theorem Thread.writes_course (h : Thread) (ws : List Wr) : (h.writes ws).course = h.course := by
  induction ws generalizing h with
  | nil => rfl
  | cons w t ih => exact (ih (h.write w)).trans (Thread.write_course h w)
@[simp] theorem Thread.writes_nreg (h : Thread) (ws : List Wr) : (h.writes ws).nreg = h.nreg := by
  induction ws generalizing h with
  | nil => rfl
  | cons w t ih => exact (ih (h.write w)).trans (Thread.write_nreg h w)
@[simp] theorem Thread.writes_pc (h : Thread) (ws : List Wr) : (h.writes ws).pc = h.pc := by
  induction ws generalizing h with
  | nil => rfl
  | cons w t ih => exact (ih (h.write w)).trans (Thread.write_pc h w)
@[simp] theorem Thread.writes_cont (h : Thread) (ws : List Wr) : (h.writes ws).cont = h.cont := by
  induction ws generalizing h with
  | nil => rfl
  | cons w t ih => exact (ih (h.write w)).trans (Thread.write_cont h w)
@[simp] theorem Thread.writes_snap (h : Thread) (ws : List Wr) : (h.writes ws).snap = h.snap := by
  induction ws generalizing h with
  | nil => rfl
  | cons w t ih => exact (ih (h.write w)).trans (Thread.write_snap h w)
@[simp] theorem Thread.writes_rstack (h : Thread) (ws : List Wr) : (h.writes ws).rstack = h.rstack := by
  induction ws generalizing h with
  | nil => rfl
  | cons w t ih => exact (ih (h.write w)).trans (Thread.write_rstack h w)
@[simp] theorem Thread.writes_flags (h : Thread) (ws : List Wr) : (h.writes ws).flags = h.flags := by
  induction ws generalizing h with
  | nil => rfl
  | cons w t ih => exact (ih (h.write w)).trans (Thread.write_flags h w)
@[simp] theorem Thread.writes_prec (h : Thread) (ws : List Wr) : (h.writes ws).prec = h.prec := by
  induction ws generalizing h with
  | nil => rfl
  | cons w t ih => exact (ih (h.write w)).trans (Thread.write_prec h w)
@[simp] theorem Thread.writes_fh (h : Thread) (ws : List Wr) : (h.writes ws).fh = h.fh := by
  induction ws generalizing h with
  | nil => rfl
  | cons w t ih => exact (ih (h.write w)).trans (Thread.write_fh h w)
@[simp] theorem Thread.writes_rh (h : Thread) (ws : List Wr) : (h.writes ws).rh = h.rh := by
  induction ws generalizing h with
  | nil => rfl
  | cons w t ih => exact (ih (h.write w)).trans (Thread.write_rh h w)
@[simp] theorem Thread.writes_akey (h : Thread) (ws : List Wr) : (h.writes ws).akey = h.akey := by
  induction ws generalizing h with
  | nil => rfl
  | cons w t ih => exact (ih (h.write w)).trans (Thread.write_akey h w)
@[simp] theorem Thread.writes_shFh (h : Thread) (ws : List Wr) : (h.writes ws).shFh = h.shFh := by
  induction ws generalizing h with
  | nil => rfl
  | cons w t ih => exact (ih (h.write w)).trans (Thread.write_shFh h w)
@[simp] theorem Thread.writes_shRh (h : Thread) (ws : List Wr) : (h.writes ws).shRh = h.shRh := by
  induction ws generalizing h with
  | nil => rfl
  | cons w t ih => exact (ih (h.write w)).trans (Thread.write_shRh h w)
@[simp] theorem Thread.writes_shGtime (h : Thread) (ws : List Wr) : (h.writes ws).shGtime = h.shGtime := by
  induction ws generalizing h with
  | nil => rfl
  | cons w t ih => exact (ih (h.write w)).trans (Thread.write_shGtime h w)
@[simp] theorem Thread.writes_shTagrdy (h : Thread) (ws : List Wr) : (h.writes ws).shTagrdy = h.shTagrdy := by
  induction ws generalizing h with
  | nil => rfl
  | cons w t ih => exact (ih (h.write w)).trans (Thread.write_shTagrdy h w)
@[simp] theorem Thread.writes_exited (h : Thread) (ws : List Wr) : (h.writes ws).exited = h.exited := by
  induction ws generalizing h with
  | nil => rfl
  | cons w t ih => exact (ih (h.write w)).trans (Thread.write_exited h w)
@[simp] theorem Thread.writes_stopped (h : Thread) (ws : List Wr) : (h.writes ws).stopped = h.stopped := by
  induction ws generalizing h with
  | nil => rfl
  | cons w t ih => exact (ih (h.write w)).trans (Thread.write_stopped h w)
@[simp] theorem Thread.writes_stopNext (h : Thread) (ws : List Wr) : (h.writes ws).stopNext = h.stopNext := by
  induction ws generalizing h with
  | nil => rfl
  | cons w t ih => exact (ih (h.write w)).trans (Thread.write_stopNext h w)
@[simp] theorem Thread.writes_stopClock (h : Thread) (ws : List Wr) : (h.writes ws).stopClock = h.stopClock := by
  induction ws generalizing h with
  | nil => rfl
  | cons w t ih => exact (ih (h.write w)).trans (Thread.write_stopClock h w)
@[simp] theorem Thread.writes_stopTime (h : Thread) (ws : List Wr) : (h.writes ws).stopTime = h.stopTime := by
  induction ws generalizing h with
  | nil => rfl
  | cons w t ih => exact (ih (h.write w)).trans (Thread.write_stopTime h w)
@[simp] theorem Thread.writes_due (h : Thread) (ws : List Wr) : (h.writes ws).due = h.due := by
  induction ws generalizing h with
  | nil => rfl
  | cons w t ih => exact (ih (h.write w)).trans (Thread.write_due h w)
@[simp] theorem Thread.writes_park (h : Thread) (ws : List Wr) : (h.writes ws).park = h.park := by
  induction ws generalizing h with
  | nil => rfl
  | cons w t ih => exact (ih (h.write w)).trans (Thread.write_park h w)
@[simp] theorem Thread.writes_parkPhase (h : Thread) (ws : List Wr) : (h.writes ws).parkPhase = h.parkPhase := by
  induction ws generalizing h with
  | nil => rfl
  | cons w t ih => exact (ih (h.write w)).trans (Thread.write_parkPhase h w)
@[simp] theorem Thread.writes_parkArg (h : Thread) (ws : List Wr) : (h.writes ws).parkArg = h.parkArg := by
  induction ws generalizing h with
  | nil => rfl
  | cons w t ih => exact (ih (h.write w)).trans (Thread.write_parkArg h w)
@[simp] theorem Thread.writes_parkAt (h : Thread) (ws : List Wr) : (h.writes ws).parkAt = h.parkAt := by
  induction ws generalizing h with
  | nil => rfl
  | cons w t ih => exact (ih (h.write w)).trans (Thread.write_parkAt h w)
@[simp] theorem Thread.writes_parkClock (h : Thread) (ws : List Wr) : (h.writes ws).parkClock = h.parkClock := by
  induction ws generalizing h with
  | nil => rfl
  | cons w t ih => exact (ih (h.write w)).trans (Thread.write_parkClock h w)
@[simp] theorem Thread.writes_parkTold (h : Thread) (ws : List Wr) : (h.writes ws).parkTold = h.parkTold := by
  induction ws generalizing h with
  | nil => rfl
  | cons w t ih => exact (ih (h.write w)).trans (Thread.write_parkTold h w)
@[simp] theorem Thread.writes_arrivals (h : Thread) (ws : List Wr) : (h.writes ws).arrivals = h.arrivals := by
  induction ws generalizing h with
  | nil => rfl
  | cons w t ih => exact (ih (h.write w)).trans (Thread.write_arrivals h w)
@[simp] theorem Thread.writes_garr (h : Thread) (ws : List Wr) : (h.writes ws).garr = h.garr := by
  induction ws generalizing h with
  | nil => rfl
  | cons w t ih => exact (ih (h.write w)).trans (Thread.write_garr h w)
@[simp] theorem Thread.writes_yieldAt (h : Thread) (ws : List Wr) : (h.writes ws).yieldAt = h.yieldAt := by
  induction ws generalizing h with
  | nil => rfl
  | cons w t ih => exact (ih (h.write w)).trans (Thread.write_yieldAt h w)
@[simp] theorem Thread.writes_yieldMark (h : Thread) (ws : List Wr) : (h.writes ws).yieldMark = h.yieldMark := by
  induction ws generalizing h with
  | nil => rfl
  | cons w t ih => exact (ih (h.write w)).trans (Thread.write_yieldMark h w)
@[simp] theorem Thread.writes_hintMark (h : Thread) (ws : List Wr) : (h.writes ws).hintMark = h.hintMark := by
  induction ws generalizing h with
  | nil => rfl
  | cons w t ih => exact (ih (h.write w)).trans (Thread.write_hintMark h w)
@[simp] theorem Thread.writes_aged (h : Thread) (ws : List Wr) : (h.writes ws).aged = h.aged := by
  induction ws generalizing h with
  | nil => rfl
  | cons w t ih => exact (ih (h.write w)).trans (Thread.write_aged h w)
@[simp] theorem Thread.writes_readyAt (h : Thread) (ws : List Wr) : (h.writes ws).readyAt = h.readyAt := by
  induction ws generalizing h with
  | nil => rfl
  | cons w t ih => exact (ih (h.write w)).trans (Thread.write_readyAt h w)
@[simp] theorem Thread.writes_trap (h : Thread) (ws : List Wr) : (h.writes ws).trap = h.trap := by
  induction ws generalizing h with
  | nil => rfl
  | cons w t ih => exact (ih (h.write w)).trans (Thread.write_trap h w)
@[simp] theorem Thread.writes_pmk (h : Thread) (ws : List Wr) : (h.writes ws).pmk = h.pmk := by
  induction ws generalizing h with
  | nil => rfl
  | cons w t ih => exact (ih (h.write w)).trans (Thread.write_pmk h w)
@[simp] theorem Thread.writes_skipBp (h : Thread) (ws : List Wr) : (h.writes ws).skipBp = h.skipBp := by
  induction ws generalizing h with
  | nil => rfl
  | cons w t ih => exact (ih (h.write w)).trans (Thread.write_skipBp h w)
@[simp] theorem Thread.writes_stepOne (h : Thread) (ws : List Wr) : (h.writes ws).stepOne = h.stepOne := by
  induction ws generalizing h with
  | nil => rfl
  | cons w t ih => exact (ih (h.write w)).trans (Thread.write_stepOne h w)
@[simp] theorem Thread.writes_stepRun (h : Thread) (ws : List Wr) : (h.writes ws).stepRun = h.stepRun := by
  induction ws generalizing h with
  | nil => rfl
  | cons w t ih => exact (ih (h.write w)).trans (Thread.write_stepRun h w)
@[simp] theorem Thread.writes_openWin (h : Thread) (ws : List Wr) : (h.writes ws).openWin = h.openWin := by
  induction ws generalizing h with
  | nil => rfl
  | cons w t ih => exact (ih (h.write w)).trans (Thread.write_openWin h w)
@[simp] theorem Thread.writes_sinceOpen (h : Thread) (ws : List Wr) : (h.writes ws).sinceOpen = h.sinceOpen := by
  induction ws generalizing h with
  | nil => rfl
  | cons w t ih => exact (ih (h.write w)).trans (Thread.write_sinceOpen h w)
@[simp] theorem Thread.writes_dieAt (h : Thread) (ws : List Wr) : (h.writes ws).dieAt = h.dieAt := by
  induction ws generalizing h with
  | nil => rfl
  | cons w t ih => exact (ih (h.write w)).trans (Thread.write_dieAt h w)

@[simp] theorem Thread.writes_nil (h : Thread) : h.writes [] = h := rfl
@[simp] theorem Thread.writes_cons (h : Thread) (w : Wr) (ws : List Wr) : h.writes (w :: ws) = (h.write w).writes ws := rfl

/-- A register write leaves the predicates, a predicate write the registers. -/
@[simp] theorem Thread.write_reg_preds (h : Thread) (i : Nat) (x : Word) : (h.write (.reg i x)).preds = h.preds := rfl
@[simp] theorem Thread.write_reg_v (h : Thread) (i : Nat) (x : Word) : (h.write (.reg i x)).v = cput h.v i x := rfl
@[simp] theorem Thread.write_pred_v (h : Thread) (p : Nat) (b : Bool) : (h.write (.pred p b)).v = h.v := rfl
@[simp] theorem Thread.write_pred_preds (h : Thread) (p : Nat) (b : Bool) : (h.write (.pred p b)).preds = setPred h.preds p b := rfl

/-! ## Finding a part after an update -/

/-- The team that an update names, after it. -/
theorem State.team?_modTeam (s : State) (id : Nat) (f : Team → Team) (hf : ∀ t, (f t).id = t.id) :
    (s.modTeam id f).team? id = (s.team? id).map f := by
  have h := find?_mapIf (fun t : Team => t.id == id) (fun t : Team => t.id == id) f s.teams (fun t => by rw [hf])
  simp only [State.team?, State.modTeam_teams, h]
  cases hh : s.teams.find? (fun t => t.id == id) with
  | none => rfl
  | some t =>
    have ht : (t.id == id) = true := by simpa using List.find?_some hh
    simp only [Option.map_some, ht, if_true]

/-- Any other team is as it was. -/
theorem State.team?_modTeam_ne (s : State) (id j : Nat) (f : Team → Team) (hf : ∀ t, (f t).id = t.id) (hj : j ≠ id) :
    (s.modTeam id f).team? j = s.team? j := by
  have h := find?_mapIf (fun t : Team => t.id == id) (fun t : Team => t.id == j) f s.teams (fun t => by rw [hf])
  simp only [State.team?, State.modTeam_teams, h]
  cases hh : s.teams.find? (fun t => t.id == j) with
  | none => rfl
  | some t =>
    have ht : (t.id == j) = true := by simpa using List.find?_some hh
    have hne : (t.id == id) = false := by
      have : t.id = j := by simpa using ht
      simp [this, hj]
    simp only [Option.map_some, hne, if_false, Bool.false_eq_true]

/-- The thread that an update names, after it. -/
theorem Team.thread?_modThread (t : Team) (r : Nat) (f : Thread → Thread) (hf : ∀ h, (f h).lrank = h.lrank) :
    (t.modThread r f).thread? r = (t.thread? r).map f := by
  have h := find?_mapIf (fun h : Thread => h.lrank == r) (fun h : Thread => h.lrank == r) f t.threads (fun t => by rw [hf])
  simp only [Team.thread?, Team.modThread, h]
  cases hh : t.threads.find? (fun h => h.lrank == r) with
  | none => rfl
  | some t =>
    have ht : (t.lrank == r) = true := by simpa using List.find?_some hh
    simp only [Option.map_some, ht, if_true]

/-- Any other thread of the team is as it was. -/
theorem Team.thread?_modThread_ne (t : Team) (r j : Nat) (f : Thread → Thread) (hf : ∀ h, (f h).lrank = h.lrank) (hj : j ≠ r) :
    (t.modThread r f).thread? j = t.thread? j := by
  have h := find?_mapIf (fun h : Thread => h.lrank == r) (fun h : Thread => h.lrank == j) f t.threads (fun t => by rw [hf])
  simp only [Team.thread?, Team.modThread, h]
  cases hh : t.threads.find? (fun h => h.lrank == j) with
  | none => rfl
  | some t =>
    have ht : (t.lrank == j) = true := by simpa using List.find?_some hh
    have hne : (t.lrank == r) = false := by
      have : t.lrank = j := by simpa using ht
      simp [this, hj]
    simp only [Option.map_some, hne, if_false, Bool.false_eq_true]

/-- The command that an update names, after it. -/
theorem State.cmd?_modCmd (s : State) (k : Nat) (f : Cmd → Cmd) (hf : ∀ c, (f c).id = c.id) :
    (s.modCmd k f).cmd? k = (s.cmd? k).map f := by
  have h := find?_mapIf (fun c : Cmd => c.id == k) (fun c : Cmd => c.id == k) f s.cmds (fun t => by rw [hf])
  simp only [State.cmd?, State.modCmd_cmds, h]
  cases hh : s.cmds.find? (fun c => c.id == k) with
  | none => rfl
  | some t =>
    have ht : (t.id == k) = true := by simpa using List.find?_some hh
    simp only [Option.map_some, ht, if_true]

end Sys2Proof.Machine
end

