-- ==== Sys2Proof/Laws/Operands.lean ====
section
/-!
SUPPORT. Laws/Operands.lean: the forms by which a word acts on the threads of its bundle (Machine/Operands.lean), each with the one
lemma that says everything it does.
-/

namespace Sys2Proof.Machine

open Sys2Proof

/-! ## Registers -/

theorem Thread.sets_reg (h : Thread) (d : Nat) (x : Word) : h.Sets (h.writes [.reg d x]) d x := by
  refine ⟨fun i => ?_, rfl⟩
  simp only [Thread.writes_cons, Thread.writes_nil, Thread.rd, Thread.write_reg_v, cget_cput]

theorem Thread.setsPair_wrPair (h : Thread) (d : Nat) (x : Dword) : h.SetsPair (h.writes (wrPair d x)) d x := by
  refine ⟨fun i => ?_, rfl⟩
  simp only [wrPair, Thread.writes_cons, Thread.writes_nil, Thread.rd, Thread.write_reg_v, cget_cput]
  by_cases h1 : i = d + 1
  · simp [h1]
  · simp [h1]

theorem Thread.sets_half0 (h : Thread) (d : Nat) (x : BitVec 16) :
    h.Sets (h.writes [.half0 d x]) d ((h.rd d).extractLsb' 16 16 ++ x) := by
  refine ⟨fun i => ?_, rfl⟩
  show cget (cput h.v d _) i = _
  rw [cget_cput]; rfl

theorem Thread.sets_half1 (h : Thread) (d : Nat) (x : BitVec 16) :
    h.Sets (h.writes [.half1 d x]) d (x ++ (h.rd d).extractLsb' 0 16) := by
  refine ⟨fun i => ?_, rfl⟩
  show cget (cput h.v d _) i = _
  rw [cget_cput]; rfl

/-- A predicate written; p7 discards the write (R61). -/
theorem predOf_setPred (ps : BitVec 8) (p q : Nat) (b : Bool) (hq : q < 8) :
    predOf (setPred ps p b) q = if q = p ∧ p < 7 then b else predOf ps q := by
  by_cases hp : 7 ≤ p
  · have : ¬ (q = p ∧ p < 7) := by omega
    simp [setPred, hp, this]
  · have hp' : p < 7 := by omega
    by_cases h7 : q = 7
    · have : ¬ (q = p ∧ p < 7) := by omega
      simp [predOf, h7]
      omega
    · simp only [predOf, h7, if_false, setPred, hp]
      by_cases hqp : q = p
      · subst hqp
        cases b <;> simp [hp', hq]
      · have hsub : ¬ (q = p ∧ p < 7) := fun h => hqp h.1
        have hs : (1#8 <<< p).getLsbD q = false := by
          simp only [BitVec.getLsbD_shiftLeft, Bool.and_eq_false_iff]
          by_cases hlt : q < p
          · left; right; simp [hlt]
          · right
            have : q - p ≠ 0 := by omega
            simp [BitVec.getLsbD_one, this]
        rw [if_neg hsub]
        have hs' : (1#8 <<< p)[q] = false := by rw [← hs]; exact (BitVec.getLsbD_eq_getElem hq).symm
        cases b <;> simp [hs', hq]

theorem Thread.setsPred_pred (h : Thread) (p : Nat) (x : Bool) : h.SetsPred (h.writes [.pred p x]) p x :=
  ⟨fun q hq => predOf_setPred h.preds p q x hq, rfl⟩

/-! ## Words over the bundle -/

theorem Bundle.lane_lrank (b : Bundle) (t : Team) (g : BitVec 3) (f : View → List Wr) (h : Thread) : (b.lane t g f h).lrank = h.lrank := by
  by_cases hx : (b.ranks.contains h.lrank && (t.view h).pred g.toNat) = true
  · rw [Bundle.lane, if_pos hx, Thread.writes_lrank]
  · rw [Bundle.lane, if_neg hx]

/-- Everything that a vector word does: the writes of `f` in each executing thread, and nothing else. -/
theorem State.vec_spec (s : State) (b : Bundle) (t : Team) (g : BitVec 3) (f : View → List Wr) (hs : s.Issues b t) :
    s.ByThread (s.vec g f) b t fun h h' =>
      (b.Executes t g h → h' = h.writes (f (t.view h))) ∧ (¬ b.Executes t g h → h' = h) := by
  obtain ⟨hb, ht⟩ := hs
  have hv : s.vec g f = s.modTeam b.team fun t' => { t' with threads := t.threads.map (b.lane t g f) } := by
    simp [State.vec, State.current, hb, ht]
  rw [hv]
  refine ⟨⟨rfl, fun j hj => State.team?_modTeam_ne s b.team j _ (fun _ => rfl) hj⟩, ?_⟩
  refine ⟨{ t with threads := t.threads.map (b.lane t g f) }, ?_, rfl, fun r => ?_⟩
  · rw [State.team?_modTeam s b.team (fun t' => { t' with threads := t.threads.map (b.lane t g f) }) (fun _ => rfl), ht]; rfl
  · have hfind : (({ t with threads := t.threads.map (b.lane t g f) } : Team).thread? r) = (t.thread? r).map (b.lane t g f) := by
      simp only [Team.thread?, List.find?_map]
      congr 1
      congr 1
      funext h
      simp [Bundle.lane_lrank]
    rw [hfind]
    cases hh : t.thread? r with
    | none => rfl
    | some h =>
      refine ⟨b.lane t g f h, rfl, fun hx => ?_, fun hx => ?_⟩
      · have : (b.ranks.contains h.lrank && (t.view h).pred g.toNat) = true := by
          simpa [Bundle.Executes] using hx
        rw [Bundle.lane, if_pos this]
      · have : ¬ (b.ranks.contains h.lrank && (t.view h).pred g.toNat) = true := by
          simpa [Bundle.Executes] using hx
        rw [Bundle.lane, if_neg this]

/-- A relation by thread may be replaced by a weaker one. -/
theorem State.ByThread.imp {s s' : State} {b : Bundle} {t : Team} {R Q : Thread → Thread → Prop} (h : s.ByThread s' b t R)
    (hRQ : ∀ x y, R x y → Q x y) : s.ByThread s' b t Q := by
  obtain ⟨h1, t', h2, h3, h4⟩ := h
  refine ⟨h1, t', h2, h3, fun r => ?_⟩
  have := h4 r
  cases hh : t.thread? r with
  | none => rw [hh] at this; exact this
  | some x => rw [hh] at this; obtain ⟨y, hy, hR⟩ := this; exact ⟨y, hy, hRQ x y hR⟩

/-- The result of a vector word from what its writes make of a thread. -/
theorem perThread_of_vec {i : Instr} {g : BitVec 3} {f : View → List Wr} {R : View → Thread → Thread → Prop}
    (hi : ∀ s, exec i s = .next (s.vec g f)) (hR : ∀ w h, R w h (h.writes (f w))) : PerThread i g R := fun s b t hs =>
  ⟨s.vec g f, hi s, (State.vec_spec s b t g f hs).imp fun _ _ h => ⟨fun hx => by rw [h.1 hx]; exact hR _ _, h.2⟩⟩

/-- A word that acts in each thread in turn, by what `f` does in one. -/
theorem State.lanes_spec (s : State) (b : Bundle) (t : Team) (g : BitVec 3) (f : State → Team → Thread → View → State)
    (P : State → Team → Thread → View → State → Prop) (hs : s.Issues b t)
    (hP : ∀ s t h, s.team? t.id = some t → t.thread? h.lrank = some h → h.exited = false → P s t h (t.view h) (f s t h (t.view h))) :
    InTurn (Guarded g P) b.team b.ranks s (s.lanes g f) := by
  have key : ∀ (ranks : List Nat) (s : State), InTurn (Guarded g P) b.team ranks s (ranks.foldl (fun s r =>
      match s.team? b.team with
      | none => s
      | some t =>
        match t.thread? r with
        | none => s
        | some h => if h.exited then s else if (t.view h).pred g.toNat then f s t h (t.view h) else s) s) := by
    intro ranks
    induction ranks with
    | nil => intro s; rfl
    | cons r rest ih =>
      intro s
      simp only [List.foldl_cons]
      refine ⟨_, ?_, ih _⟩
      cases ht : s.team? b.team with
      | none => rfl
      | some t =>
        have hid : t.id = b.team := by
          have := List.find?_some ht
          simpa using this
        simp only
        cases hh : t.thread? r with
        | none => rfl
        | some h =>
          have hr : h.lrank = r := by
            have := List.find?_some hh
            simpa using this
          simp only
          refine ⟨fun he => by simp [he], fun he => ?_⟩
          refine ⟨fun hg => ?_, fun hg => by simp [he, hg]⟩
          simp only [he, hg, if_true, if_false, Bool.false_eq_true]
          exact hP s t h (by rw [hid]; exact ht) (by rw [hr]; exact hh) he
  obtain ⟨hb, ht⟩ := hs
  have : s.lanes g f = b.ranks.foldl (fun s r =>
      match s.team? b.team with
      | none => s
      | some t =>
        match t.thread? r with
        | none => s
        | some h => if h.exited then s else if (t.view h).pred g.toNat then f s t h (t.view h) else s) s := by
    unfold State.lanes State.current
    rw [hb]
    simp only [ht, Option.map_some]
    all_goals rfl
  rw [this]
  exact key b.ranks s

theorem eachThread_of_lanes {i : Instr} {g : BitVec 3} {f : State → Team → Thread → View → State}
    {P : State → Team → Thread → View → State → Prop} (hi : ∀ s, exec i s = .next (s.lanes g f))
    (hP : ∀ s t h, s.team? t.id = some t → t.thread? h.lrank = some h → h.exited = false → P s t h (t.view h) (f s t h (t.view h))) :
    EachThread i g P := fun s b t hs => ⟨s.lanes g f, hi s, State.lanes_spec s b t g f P hs hP⟩

/-- A word that acts in each thread in turn and may fail there, by what `f` does and answers in one. -/
theorem State.faultLanes_spec (s : State) (b : Bundle) (t : Team) (g : BitVec 3) (f : State → Team → Thread → View → State × Option Fail)
    (P : State → Team → Thread → View → State → Option Fail → Prop) (hs : s.Issues b t)
    (hP : ∀ s t h, s.team? t.id = some t → t.thread? h.lrank = some h → h.exited = false →
      P s t h (t.view h) (f s t h (t.view h)).1 (f s t h (t.view h)).2) :
    ∃ m fs, s.faultLanes g f = m.failures b.team fs ∧ InTurnF (GuardedF g P) b.team b.ranks s m fs := by
  have key : ∀ (ranks : List Nat) (s : State) (old : List (Nat × Fail)), ∃ m fs, ranks.foldl (fun (acc : State × List (Nat × Fail)) (r : Nat) =>
      match acc.1.team? b.team with
      | none => acc
      | some t =>
        match t.thread? r with
        | none => acc
        | some h =>
          if h.exited || !(t.view h).pred g.toNat then acc
          else match f acc.1 t h (t.view h) with
            | (s, none) => (s, acc.2)
            | (s, some e) => (s, acc.2 ++ [(r, e)])) (s, old) = (m, old ++ fs) ∧ InTurnF (GuardedF g P) b.team ranks s m fs := by
    intro ranks
    induction ranks with
    | nil => exact fun s old => ⟨s, [], by simp, rfl, rfl⟩
    | cons r rest ih =>
      intro s old
      simp only [List.foldl_cons]
      cases ht : s.team? b.team with
      | none =>
        obtain ⟨m, fs, h1, h2⟩ := ih s old
        exact ⟨m, fs, h1, s, none, fs, rfl, by simp only [ht, and_self], h2⟩
      | some t =>
        have hid : t.id = b.team := by simpa using List.find?_some ht
        cases hh : t.thread? r with
        | none =>
          obtain ⟨m, fs, h1, h2⟩ := ih s old
          refine ⟨m, fs, by simpa only [hh] using h1, s, none, fs, rfl, ?_, h2⟩
          simp only [ht, hh, and_self]
        | some h =>
          have hr : h.lrank = r := by simpa using List.find?_some hh
          by_cases hx : (h.exited || !(t.view h).pred g.toNat) = true
          · obtain ⟨m, fs, h1, h2⟩ := ih s old
            refine ⟨m, fs, by simpa only [hh, hx, if_true] using h1, s, none, fs, rfl, ?_, h2⟩
            simp only [ht, hh]
            refine ⟨fun _ => by simp, fun he => ⟨fun hg => ?_, fun _ => by simp⟩⟩
            simp [he, hg] at hx
          · have he : h.exited = false ∧ (t.view h).pred g.toNat = true := by simpa using hx
            have hp := hP s t h (by rw [hid]; exact ht) (by rw [hr]; exact hh) he.1
            simp only [hh, hx, if_false, Bool.false_eq_true]
            generalize f s t h (t.view h) = o at hp ⊢
            obtain ⟨n, e⟩ := o
            cases e with
            | none =>
              obtain ⟨m, fs, h1, h2⟩ := ih n old
              refine ⟨m, fs, h1, n, none, fs, rfl, ?_, h2⟩
              simp only [ht, hh]
              exact ⟨fun k => by simp [he.1] at k, fun _ => ⟨fun _ => hp, fun k => by simp [he.2] at k⟩⟩
            | some e =>
              obtain ⟨m, fs, h1, h2⟩ := ih n (old ++ [(r, e)])
              refine ⟨m, (r, e) :: fs, by simpa using h1, n, some e, fs, rfl, ?_, h2⟩
              simp only [ht, hh]
              exact ⟨fun k => by simp [he.1] at k, fun _ => ⟨fun _ => hp, fun k => by simp [he.2] at k⟩⟩
  obtain ⟨hb, ht⟩ := hs
  obtain ⟨m, fs, h1, h2⟩ := key b.ranks s []
  refine ⟨m, fs, ?_, h2⟩
  have : s.faultLanes g f = (fun out : State × List (Nat × Fail) => out.1.failures b.team out.2) (m, [] ++ fs) := by
    rw [← h1]
    unfold State.faultLanes State.current
    rw [hb]
    simp only [ht, Option.map_some]
    all_goals rfl
  simpa using this

theorem mayFail_of_faultLanes {i : Instr} {g : BitVec 3} {f : State → Team → Thread → View → State × Option Fail}
    {P : State → Team → Thread → View → State → Option Fail → Prop} (hi : ∀ s, exec i s = .next (s.faultLanes g f))
    (hP : ∀ s t h, s.team? t.id = some t → t.thread? h.lrank = some h → h.exited = false →
      P s t h (t.view h) (f s t h (t.view h)).1 (f s t h (t.view h)).2) :
    MayFail i g P := fun s b t hs => by
  obtain ⟨m, fs, h1, h2⟩ := State.faultLanes_spec s b t g f P hs hP
  exact ⟨m, fs, by rw [hi, h1], h2⟩

/-! ## Turns -/

theorem State.threadOnly_modThread (s : State) (t : Team) (h : Thread) (f : Thread → Thread) (ht : s.team? t.id = some t)
    (hh : t.thread? h.lrank = some h) (hf : ∀ x, (f x).lrank = x.lrank) :
    s.ThreadOnly (s.modThread t.id h.lrank f) t h fun h' => h' = f h := by
  refine ⟨fun j hj => State.team?_modTeam_ne s t.id j (fun t => t.modThread h.lrank f) (fun _ => rfl) hj, t.modThread h.lrank f, ?_, rfl,
    fun r hr => Team.thread?_modThread_ne t h.lrank r f hf hr, f h, ?_, rfl⟩
  · have := State.team?_modTeam s t.id (fun t => t.modThread h.lrank f) (fun _ => rfl)
    rw [ht] at this
    exact this
  · rw [Team.thread?_modThread t h.lrank f hf, hh]; rfl

theorem State.turns_modThread (s : State) (t : Team) (h : Thread) (f : Thread → Thread) (ht : s.team? t.id = some t)
    (hh : t.thread? h.lrank = some h) (hf : ∀ x, (f x).lrank = x.lrank) : s.Turns (s.modThread t.id h.lrank f) t h fun h' => h' = f h :=
  ⟨rfl, State.threadOnly_modThread s t h f ht hh hf⟩

/-- The frame that an operation of a thread in place notes. -/
theorem State.frameOf_of (s : State) (t : Team) (h : Thread) (ht : s.team? t.id = some t) (hh : t.thread? h.lrank = some h) :
    s.frameOf t.id h.lrank = h.frame := by
  simp [State.frameOf, State.thread?, ht, hh]

/-- What `track` does: the operation last in issue order, and the flag. -/
theorem State.track_spec (s : State) (t : Team) (h : Thread) (hold : Bool) (b : OpBody) (ht : s.team? t.id = some t)
    (hh : t.thread? h.lrank = some h) : s.Tracks (s.track t.id h.lrank hold b) t h hold b := by
  unfold State.Tracks State.track State.raise
  cases hf : s.slotFlag with
  | none =>
    refine ⟨⟨?_, rfl, rfl⟩, fun _ _ => rfl, t, ht, rfl, fun _ _ => rfl, h, hh, rfl⟩
    simp only [State.addOp, s.frameOf_of t h ht hh]
    rfl
  | some f =>
    have ho := State.threadOnly_modThread s t h (fun h => { h with flags := setBit h.flags f }) ht hh (fun _ => rfl)
    refine ⟨⟨?_, rfl, rfl⟩, ho⟩
    obtain ⟨-, t', ht', -, -, h', hh', rfl⟩ := ho
    have hf' : (s.modThread t.id h.lrank fun h => { h with flags := setBit h.flags f }).frameOf t.id h.lrank = h.frame := by
      simp only [State.frameOf, State.thread?, ht', Option.bind_some, hh']
    simp only [State.addOp, hf']
    rfl

/-- Resolving an address changes the translation buffers alone. -/
theorem State.fillTlb_frame (s : State) (die : Nat) (core : Option Nat) (e : TlbEntry) :
    { s.fillTlb die core e with dtlb := s.dtlb, cores := s.cores } = s := by
  unfold State.fillTlb
  by_cases hany : (s.dtlb.any fun x => x.1 == die && x.2 == e) = true
  · cases core <;> simp [hany]
  · cases core <;> simp [hany]

theorem State.translate_frame (s : State) (die : Nat) (core : Option Nat) (c : Context) (wa kind : Nat) :
    { (s.translate die core c wa kind).1 with dtlb := s.dtlb, cores := s.cores } = s := by
  unfold State.translate
  simp only
  split
  · rfl
  · split
    · exact State.fillTlb_frame s die core _
    · split
      · exact State.fillTlb_frame s die core _
      · rfl

theorem State.resolve_frame (s : State) (t : Team) (a n need : Nat) (win : Bool) :
    { (s.resolve t a n need win).1 with dtlb := s.dtlb, cores := s.cores } = s := by
  unfold State.resolve
  simp only
  split
  · rfl
  · split
    · rfl
    · split
      · rename_i c _
        unfold State.global
        split
        · rfl
        · have h := State.translate_frame s t.die (some t.core) c (c.windowAddr (a % 2 ^ 56)) need
          simp only
          split
          · rename_i s1 e heq
            rw [heq] at h
            split <;> exact h
          · rename_i s1 d heq
            rw [heq] at h
            exact h
          · rename_i s1 heq
            rw [heq] at h
            exact h
      · rfl

/-! ## Uniform words -/

/-- A frame that a uniform write names is the only one that differs. -/
theorem Team.frame_modFrame_ne (t : Team) (i j : Nat) (f : Frame → Frame) (h : j ≠ i) : (t.modFrame i f).frame j = t.frame j := by
  have key : ∀ (l : List Frame) (i j : Nat), j ≠ i → (setAt l i f).getD j Frame.empty = l.getD j Frame.empty := by
    intro l
    induction l with
    | nil => intro i j _; cases i <;> rfl
    | cons x r ih =>
      intro i j hij
      cases i with
      | zero => cases j with
        | zero => exact absurd rfl hij
        | succ j => rfl
      | succ i => cases j with
        | zero => rfl
        | succ j => simpa [setAt] using ih i j (by omega)
  exact key t.frames i j h

theorem Team.frame_modFrame (t : Team) (i : Nat) (f : Frame → Frame) (h : i < t.frames.length) : (t.modFrame i f).frame i = f (t.frame i) := by
  have key : ∀ (l : List Frame) (i : Nat), i < l.length → (setAt l i f).getD i Frame.empty = f (l.getD i Frame.empty) := by
    intro l
    induction l with
    | nil => intro i hi; simp at hi
    | cons x r ih =>
      intro i hi
      cases i with
      | zero => rfl
      | succ i => simpa [setAt] using ih i (by simpa using hi)
  exact key t.frames i h

/-- A fold that writes consecutive entries. -/
theorem cget_foldl_put (n a : Nat) (v : Nat → Word) (u : Cells 32) (i : Nat) :
    cget ((List.range n).foldl (fun u k => cput u (a + k) (v k)) u) i = if a ≤ i ∧ i < a + n then v (i - a) else cget u i := by
  induction n with
  | zero => simp
  | succ n ih =>
    rw [List.range_succ, List.foldl_append, List.foldl_cons, List.foldl_nil, cget_cput]
    by_cases h1 : i = a + n
    · subst h1; simp
    · rw [if_neg h1, ih]
      by_cases h2 : a ≤ i ∧ i < a + n
      · have h3 : a ≤ i ∧ i < a + (n + 1) := by omega
        rw [if_pos h2, if_pos h3]
      · have h3 : ¬ (a ≤ i ∧ i < a + (n + 1)) := by omega
        rw [if_neg h2, if_neg h3]

/-- The frame that a uniform write leaves in its place. -/
theorem Team.frame_uput (t : Team) (i j : Nat) (x : Word) (hi : i < t.frames.length) :
    (t.uput i j x).frame i =
      { t.frame i with
        uni := cput (if (t.frame i).gran.getLsbD (j / 16) then (t.frame i).uni
            else (List.range 16).foldl (fun u k => cput u (16 * (j / 16) + k) (t.uget i (16 * (j / 16) + k))) (t.frame i).uni) j x
        gran := (t.frame i).gran ||| (1#16 <<< (j / 16))
        wrote := if j < 32 then (t.frame i).wrote ||| (1#32 <<< j) else (t.frame i).wrote } :=
  Team.frame_modFrame t i _ hi

theorem Team.frame_uput_ne (t : Team) (i j m : Nat) (x : Word) (hm : m ≠ i) : (t.uput i j x).frame m = t.frame m :=
  Team.frame_modFrame_ne t i m _ hm

theorem gran_after (g : BitVec 16) (a b : Nat) (ha : a < 16) (hb : b < 16) :
    (g ||| (1#16 <<< a)).getLsbD b = (g.getLsbD b || decide (b = a)) := by
  rw [BitVec.getLsbD_or]
  congr 1
  rw [BitVec.getLsbD_shiftLeft]
  by_cases h : b = a
  · subst h; simp [hb]
  · by_cases hlt : b < a
    · simp [hlt, h]
    · have : b - a ≠ 0 := by omega
      simp [h, BitVec.getLsbD_one, this]

/-- A uniform write does not change who holds another granule. -/
theorem Team.holder_uput (t : Team) (i j : Nat) (x : Word) (hi : i < t.frames.length) (hj : j < 256) (g : Nat) (hg : g < 16)
    (hne : g ≠ j / 16) (n m : Nat) : (t.uput i j x).holder n m g = t.holder n m g := by
  induction n generalizing m with
  | zero => rfl
  | succ n ih =>
    have hgr : ((t.uput i j x).frame m).gran.getLsbD g = (t.frame m).gran.getLsbD g := by
      by_cases hm : m = i
      · subst hm
        rw [Team.frame_uput t m j x hi]
        simp only [gran_after _ _ _ (by omega : j / 16 < 16) hg, hne, decide_false, Bool.or_false]
      · rw [Team.frame_uput_ne t i j m x hm]
    have hpar : ((t.uput i j x).frame m).parent = (t.frame m).parent := by
      by_cases hm : m = i
      · subst hm; rw [Team.frame_uput t m j x hi]
      · rw [Team.frame_uput_ne t i j m x hm]
    simp only [Team.holder, hgr, hpar]
    cases (t.frame m).parent with
    | none => rfl
    | some p => simp only [ih]

/-- Reading the file of a frame after a write in it (R45): the register written, and every other as before. -/
theorem Team.uget_uput (t : Team) (i j k : Nat) (x : Word) (hi : i < t.frames.length) (hj : j < 256) (hk : k < 256) :
    (t.uput i j x).uget i k = if k = j then x else t.uget i k := by
  by_cases hg : k / 16 = j / 16
  · have hbit : ((t.uput i j x).frame i).gran.getLsbD (k / 16) = true := by
      rw [Team.frame_uput t i j x hi]
      simp only [hg]
      rw [gran_after _ _ _ (by omega : j / 16 < 16) (by omega : j / 16 < 16)]
      simp
    have hh : (t.uput i j x).holder 8 i (k / 16) = i := by simp only [Team.holder, hbit, if_true]
    have h1 : (t.uput i j x).uget i k = cget ((t.uput i j x).frame i).uni k := by simp only [Team.uget, hh]
    rw [h1, Team.frame_uput t i j x hi]
    simp only [cget_cput]
    by_cases hkj : k = j
    · simp only [hkj, if_true]
    · simp only [hkj, if_false]
      by_cases hb : (t.frame i).gran.getLsbD (j / 16) = true
      · have hh2 : t.holder 8 i (k / 16) = i := by simp only [Team.holder, hg, hb, if_true]
        simp only [hb, if_true, Team.uget, hh2]
      · simp only [hb, if_false, Bool.false_eq_true]
        rw [cget_foldl_put 16 (16 * (j / 16)) (fun n => t.uget i (16 * (j / 16) + n))]
        have h2 : 16 * (j / 16) ≤ k ∧ k < 16 * (j / 16) + 16 := by omega
        rw [if_pos h2]
        congr 1
        omega
  · have hkj : ¬ k = j := fun h => hg (by rw [h])
    rw [if_neg hkj]
    have hh : (t.uput i j x).holder 8 i (k / 16) = t.holder 8 i (k / 16) :=
      Team.holder_uput t i j x hi hj (k / 16) (by omega) hg 8 i
    simp only [Team.uget, hh]
    by_cases hm : t.holder 8 i (k / 16) = i
    · rw [hm, Team.frame_uput t i j x hi]
      simp only [cget_cput, hkj, if_false]
      by_cases hb : (t.frame i).gran.getLsbD (j / 16) = true
      · simp only [hb, if_true]
      · simp only [hb, if_false, Bool.false_eq_true]
        rw [cget_foldl_put 16 (16 * (j / 16)) (fun n => t.uget i (16 * (j / 16) + n))]
        have h2 : ¬ (16 * (j / 16) ≤ k ∧ k < 16 * (j / 16) + 16) := by omega
        rw [if_neg h2]
    · rw [Team.frame_uput_ne t i j _ x hm]

/-- What a word reads of the uniform file is the file as the thread's frame reads it. -/
theorem Team.viewOf_u (t : Team) (h : Thread) (j : Nat) (hj : j < 256) : (t.viewOf h).u j = t.uget h.frame j := by
  have key : ∀ n i, cget ((List.range n).foldl (fun u k => cput u k (t.uget h.frame k)) ([] : Cells 32)) i
      = if i < n then t.uget h.frame i else 0 := by
    intro n i
    have := cget_foldl_put n 0 (fun k => t.uget h.frame k) [] i
    simp only [Nat.zero_add, Nat.zero_le, true_and, Nat.sub_zero, cget_nil] at this
    exact this
  show cget (t.uniform h.frame) j = _
  unfold Team.uniform
  cases hp : (t.frame h.frame).parent with
  | none =>
    have hh : t.holder 8 h.frame (j / 16) = h.frame := by
      simp [Team.holder, hp]
    simp only [Team.uget, hh, hp]
  | some p =>
    have := key 256 j
    rw [if_pos hj] at this
    simpa [hp] using this

/-- A uniform word of one result: the write, once for the bundle. -/
theorem Team.usets_uput (t : Team) (f d : Nat) (x : Word) (hf : f < t.frames.length) (hd : d < 256) : t.USets (t.uput f d x) f [(d, x)] := by
  refine ⟨fun j hj => ?_, fun i hi => Team.frame_uput_ne t f d i x hi, ⟨_, _, _, Team.frame_uput t f d x hf⟩, rfl⟩
  rw [Team.uget_uput t f d j x hf hd hj]
  by_cases h : j = d
  · subst h; simp
  · have : ¬ (d == j) = true := by simpa using fun e => h e.symm
    simp [h, this]

/-- A uniform word goes on its way with what it writes (R28). -/
theorem perBundle_of_uni {i : Instr} {ws : View → List (Nat × Word)} (hi : ∀ s, exec i s = .next (s.uni ws)) : PerBundle i ws :=
  fun s b t h hs hl => by
    obtain ⟨hb, ht⟩ := hs
    have hu : s.uni ws = s.sendUniform b h (ws (t.view h)) := by simp [State.uni, State.current, hb, ht, hl]
    have hid : t.id = b.team := by simpa using List.find?_some ht
    obtain ⟨r, hr, hth⟩ := Option.bind_eq_some_iff.mp hl
    have hlr : h.lrank = r := by simpa [Team.thread?] using List.find?_some hth
    have hf := s.frameOf_of t h (by rw [hid]; exact ht) (by rw [hlr]; exact hth)
    refine ⟨_, hi s, ?_⟩
    rw [hu, State.sendUniform, ← hid]
    exact ⟨⟨by simp only [State.addOp, hf], rfl, rfl⟩, rfl⟩

end Sys2Proof.Machine
end

