-- ==== Sys2Proof/Laws/Control.lean ====
section
/-!
SUPPORT. Laws/Control.lean: what a transfer of control does to a thread and to the bundles, said once, and words after which a team's
rendezvous are brought up to date.
-/

namespace Sys2Proof.Machine

open Sys2Proof

theorem State.ThreadOnly.imp {s m : State} {t : Team} {h : Thread} {R Q : Thread → Prop} (hm : s.ThreadOnly m t h R) (hR : ∀ x, R x → Q x) :
    s.ThreadOnly m t h Q := by
  obtain ⟨h1, t', h2, h3, h4, h', h5, h6⟩ := hm
  exact ⟨h1, t', h2, h3, h4, h', h5, hR _ h6⟩

/-- A change of the thread after it has become `x`. -/
theorem State.ThreadOnly.then_modThread {s m : State} {t : Team} {h x : Thread} (hm : s.ThreadOnly m t h fun h' => h' = x) (hx : x.lrank = h.lrank)
    (f : Thread → Thread) (hf : ∀ y, (f y).lrank = y.lrank) :
    s.ThreadOnly (m.modThread t.id h.lrank f) t h fun h' => h' = f x := by
  obtain ⟨h1, t', h2, h3, h4, h', h5, rfl⟩ := hm
  have ht' : t'.id = t.id := by rw [← h3]
  have hn : m.team? t'.id = some t' := by rw [ht']; exact h2
  have hr : t'.thread? h'.lrank = some h' := by rw [hx]; exact h5
  obtain ⟨k1, t'', k2, k3, k4, h'', k5, k6⟩ := State.threadOnly_modThread m t' h' f hn hr hf
  rw [ht', hx] at *
  refine ⟨fun j hj => (k1 j hj).trans (h1 j hj), t'', k2, ?_, fun r hr => (k4 r hr).trans (h4 r hr), h'', k5, k6⟩
  rw [← h3, ← k3]

theorem State.Leaves.then_modThread {s m : State} {t : Team} {h x : Thread} (hm : s.Leaves m t h fun h' => h' = x) (hx : x.lrank = h.lrank)
    (f : Thread → Thread) (hf : ∀ y, (f y).lrank = y.lrank) :
    s.Leaves (m.modThread t.id h.lrank f) t h fun h' => h' = f x :=
  ⟨hm.1, hm.2.1, hm.2.2.1, hm.2.2.2.then_modThread hx f hf⟩

theorem State.Leaves.imp {s m : State} {t : Team} {h : Thread} {R Q : Thread → Prop} (hm : s.Leaves m t h R) (hR : ∀ x, R x → Q x) :
    s.Leaves m t h Q := ⟨hm.1, hm.2.1, hm.2.2.1, hm.2.2.2.imp hR⟩

/-- What `leave` followed by a change of the thread does. -/
theorem State.leaves_modThread (s : State) (t : Team) (h : Thread) (f : Thread → Thread) (ht : s.team? t.id = some t)
    (hh : t.thread? h.lrank = some h) (hf : ∀ x, (f x).lrank = x.lrank) :
    s.Leaves ((s.leave t.id h.lrank).modThread t.id h.lrank f) t h fun h' => h' = f h :=
  ⟨rfl, rfl, rfl, State.threadOnly_modThread s t h f ht hh hf⟩

/-- A thread goes to an address: it leaves its bundle and stands there, and nothing else differs. -/
theorem State.goTo_spec (s : State) (t : Team) (h : Thread) (pc : BitVec 56) (ht : s.team? t.id = some t) (hh : t.thread? h.lrank = some h) :
    s.Leaves (s.goTo t h pc) t h fun h' => h' = s.onward t h pc :=
  State.leaves_modThread s t h (fun h => s.onward t h pc) ht hh fun _ => rfl

/-- A trap leaves the thread at its resume point, to take its entry. -/
theorem State.trap_spec (s : State) (t : Team) (h : Thread) (i : TrapInfo) (ht : s.team? t.id = some t) (hh : t.thread? h.lrank = some h) :
    s.Leaves (s.trap t.id h.lrank i) t h fun h' => h' = { h with pc := i.resume, cont := false, snap := none, trap := some i } :=
  State.leaves_modThread s t h (fun h => { h with pc := i.resume, cont := false, snap := none, trap := some i }) ht hh fun _ => rfl

/-- A word that acts in each thread of the bundle in turn and then settles the team, by what it does in one. -/
theorem eachThreadThenSettled_of_eachLane {i : Instr} {f : State → Team → Thread → View → State}
    {P : State → Team → Thread → View → State → Prop} (hi : ∀ s, exec i s = .next (s.eachLane f))
    (hP : ∀ s t h, s.team? t.id = some t → t.thread? h.lrank = some h → h.exited = false → P s t h (t.view h) (f s t h (t.view h))) :
    EachThreadThenSettled i 7 P := fun s b t hs =>
  ⟨s.lanes 7 f, by rw [hi, State.eachLane, hs.1], State.lanes_spec s b t 7 f P hs hP⟩

theorem mayFailThenSettled_of_eachFault {i : Instr} {f : State → Team → Thread → View → State × Option Fail}
    {P : State → Team → Thread → View → State → Option Fail → Prop} (hi : ∀ s, exec i s = .next (s.eachFault f))
    (hP : ∀ s t h, s.team? t.id = some t → t.thread? h.lrank = some h → h.exited = false →
      P s t h (t.view h) (f s t h (t.view h)).1 (f s t h (t.view h)).2) :
    MayFailThenSettled i 7 P := fun s b t hs => by
  obtain ⟨m, fs, h1, h2⟩ := State.faultLanes_spec s b t 7 f P hs hP
  exact ⟨m, fs, by rw [hi, State.eachFault, hs.1, h1], h2⟩

/-- Parking, with what becomes of the thread. -/
theorem State.park_spec (s : State) (t : Team) (h : Thread) (p : Park) (phase : Bool) (arg : Nat) (pc : BitVec 56) (ht : s.team? t.id = some t)
    (hh : t.thread? h.lrank = some h) :
    s.Parks (s.park t h p phase arg pc) t h p pc fun h' => h'.parkPhase = phase ∧ h'.parkArg = arg := by
  refine ((State.goTo_spec s t h pc ht hh).then_modThread rfl (fun h =>
    { h with park := p, parkPhase := phase, parkArg := arg, parkAt := s.here,
             parkClock := (if p == .cbar || p == .gbar then s.gtime t.die else s.clock t.die t.core), parkTold := false }) fun _ => rfl).imp ?_
  rintro _ rfl
  exact ⟨rfl, rfl, rfl, rfl, rfl, rfl, rfl, rfl, rfl, rfl, rfl⟩

theorem State.Parks.imp {s m : State} {t : Team} {h : Thread} {p : Park} {pc : BitVec 56} {R Q : Thread → Prop} (hm : s.Parks m t h p pc R)
    (hR : ∀ x, R x → Q x) : s.Parks m t h p pc Q :=
  State.Leaves.imp hm fun _ ⟨a, b, c, d, e, f, g, i, j, k⟩ => ⟨a, b, c, d, e, f, g, i, j, hR _ k⟩

end Sys2Proof.Machine
end

