-- ==== Sys2Proof/Laws/Memory.lean ====
section
/-!
SUPPORT. Laws/Memory.lean: what the shared operations at the homes, the rings and the audit log can do, and that each keeps both memories
in their canonical form.
-/

namespace Sys2Proof.Machine

open Sys2Proof

/-- `m` is `s` but for memory, the homes' lines and partial values, and the granules that a whole write made readable. -/
def State.AtHomes (s m : State) : Prop :=
  { m with mem := s.mem, lines := s.lines, partials := s.partials, dev := { m.dev with badGranules := s.dev.badGranules } } = s

theorem State.AtHomes.refl (s : State) : s.AtHomes s := rfl

theorem State.AtHomes.trans {s m n : State} (h : s.AtHomes m) (k : m.AtHomes n) : s.AtHomes n := by
  unfold State.AtHomes at *
  rw [← h, ← k]

theorem State.AtHomes.hostMem {s m : State} (h : s.AtHomes m) : m.hostMem = s.hostMem := by
  unfold State.AtHomes at h
  have k := congrArg State.hostMem h
  exact k
theorem State.AtHomes.teams {s m : State} (h : s.AtHomes m) : m.teams = s.teams := by
  unfold State.AtHomes at h
  have k := congrArg State.teams h
  exact k
theorem State.AtHomes.cores {s m : State} (h : s.AtHomes m) : m.cores = s.cores := by
  unfold State.AtHomes at h
  have k := congrArg State.cores h
  exact k
theorem State.AtHomes.contexts {s m : State} (h : s.AtHomes m) : m.contexts = s.contexts := by
  unfold State.AtHomes at h
  have k := congrArg State.contexts h
  exact k
theorem State.AtHomes.launches {s m : State} (h : s.AtHomes m) : m.launches = s.launches := by
  unfold State.AtHomes at h
  have k := congrArg State.launches h
  exact k
theorem State.AtHomes.ops {s m : State} (h : s.AtHomes m) : m.ops = s.ops := by
  unfold State.AtHomes at h
  have k := congrArg State.ops h
  exact k
theorem State.AtHomes.cmds {s m : State} (h : s.AtHomes m) : m.cmds = s.cmds := by
  unfold State.AtHomes at h
  have k := congrArg State.cmds h
  exact k
theorem State.AtHomes.bundle {s m : State} (h : s.AtHomes m) : m.bundle = s.bundle := by
  unfold State.AtHomes at h
  have k := congrArg State.bundle h
  exact k
theorem State.AtHomes.meas {s m : State} (h : s.AtHomes m) : m.dev.meas = s.dev.meas := by
  unfold State.AtHomes at h
  have k := congrArg (fun s : State => s.dev.meas) h
  exact k
theorem State.AtHomes.audit {s m : State} (h : s.AtHomes m) : m.dev.audit = s.dev.audit := by
  unfold State.AtHomes at h
  have k := congrArg (fun s : State => s.dev.audit) h
  exact k

/-! ## Writes and reads at the homes (R107, R116, R129) -/

theorem State.setLine_atHomes (s : State) (m : LineMeta) : s.AtHomes (s.setLine m) := rfl
@[simp] theorem State.setLine_mem (s : State) (m : LineMeta) : (s.setLine m).mem = s.mem := rfl

theorem State.stampLines_spec (pas : List Nat) (host : Bool) (time : Nat → Nat) (s : State) :
    let m := pas.foldl (fun s a =>
      let m := s.lineMeta (lineOf a)
      if m.w = time a ∧ m.host = host then s else s.setLine { m with w := max m.w (time a), host := host }) s
    s.AtHomes m ∧ m.mem = s.mem ∧ m.partials = s.partials := by
  induction pas generalizing s with
  | nil => exact ⟨rfl, rfl, rfl⟩
  | cons a rest ih =>
    simp only [List.foldl_cons]
    split
    · exact ih s
    · obtain ⟨h1, h2, h3⟩ := ih (s.setLine { s.lineMeta (lineOf a) with w := max (s.lineMeta (lineOf a)).w (time a), host := host })
      exact ⟨(s.setLine_atHomes _).trans h1, h2, h3⟩

/-- A write at the homes puts the bytes, and leaves all else but what the homes keep of the lines and the cured granules. -/
theorem State.putHome_spec (s : State) (pas : List Nat) (data : List Byte) (host : Bool) (time : Nat → Nat) :
    s.AtHomes (s.putHome pas data host time) ∧ (s.putHome pas data host time).mem = putAt s.mem pas data ∧
      (s.putHome pas data host time).partials = s.partials := by
  obtain ⟨h1, h2, h3⟩ := State.stampLines_spec pas host time { s.cure pas with mem := putAt s.mem pas data }
  exact ⟨State.AtHomes.trans (m := { s.cure pas with mem := putAt s.mem pas data }) rfl h1, h2, h3⟩

theorem State.mergeOne_atHomes (s : State) (p : Partial) : s.AtHomes (s.mergeOne p) := (s.putHome_spec _ _ _ _).1

theorem State.foldl_mergeOne_atHomes (ps : List Partial) (s : State) : s.AtHomes (ps.foldl State.mergeOne s) := by
  induction ps generalizing s with
  | nil => rfl
  | cons p rest ih => exact (s.mergeOne_atHomes p).trans (ih _)

theorem State.merge_atHomes (s : State) (pas : List Nat) : s.AtHomes (s.merge pas) := by
  unfold State.merge
  simp only
  split
  · rfl
  · exact State.AtHomes.trans (m := { s with partials := s.partials.filter fun p => !p.touches pas }) rfl (State.foldl_mergeOne_atHomes _ _)

/-- A merge with no partial value at the bytes does nothing. -/
theorem State.merge_eq_self (s : State) (pas : List Nat) (h : s.NoPartial pas) : s.merge pas = s := by
  have : (s.partials.filter fun p => p.touches pas) = [] := by
    simp only [List.filter_eq_nil_iff]
    exact fun p hp => by simp [h p hp]
  simp [State.merge, this, sortBy]

theorem State.readHome_atHomes (s : State) (pas : List Nat) : s.AtHomes (s.readHome pas).1 := s.merge_atHomes pas
theorem State.writeHome_atHomes (s : State) (pas : List Nat) (data : List Byte) : s.AtHomes (s.writeHome pas data).1 :=
  (s.merge_atHomes pas).trans ((s.merge pas).putHome_spec _ _ _ _).1

/-- A read at the home of bytes that no partial value touches. -/
theorem State.readHome_spec (s : State) (pas : List Nat) (h : s.NoPartial pas) :
    s.readHome pas = (s, getAt s.mem pas, maxOf 0 (pas.map fun a => (s.lineMeta (lineOf a)).w)) := by
  simp [State.readHome, s.merge_eq_self pas h]

/-- A write at the home of bytes that no partial value touches: those bytes, at a time past every home's and every lease. -/
theorem State.writeHome_spec (s : State) (pas : List Nat) (data : List Byte) (h : s.NoPartial pas) :
    (s.writeHome pas data).1.mem = putAt s.mem pas data ∧ (s.writeHome pas data).1.partials = s.partials ∧ (s.writeHome pas data).2 = s.writeTimes pas := by
  simp only [State.writeHome, s.merge_eq_self pas h]
  exact ⟨(s.putHome_spec _ _ _ _).2.1, (s.putHome_spec _ _ _ _).2.2, trivial⟩

/-! ## The canonical form -/

theorem State.putHome_memoriesOk (s : State) (pas : List Nat) (data : List Byte) (host : Bool) (time : Nat → Nat) (h : s.MemoriesOk) :
    (s.putHome pas data host time).MemoriesOk := by
  obtain ⟨h1, h2, -⟩ := s.putHome_spec pas data host time
  exact ⟨by rw [h2]; exact putAt_wf _ _ _ h.1, by rw [h1.hostMem]; exact h.2⟩

theorem State.foldl_mergeOne_memoriesOk (ps : List Partial) (s : State) (h : s.MemoriesOk) : (ps.foldl State.mergeOne s).MemoriesOk := by
  induction ps generalizing s with
  | nil => exact h
  | cons p rest ih => exact ih _ (s.putHome_memoriesOk _ _ _ _ h)

theorem State.merge_memoriesOk (s : State) (pas : List Nat) (h : s.MemoriesOk) : (s.merge pas).MemoriesOk := by
  unfold State.merge
  simp only
  split
  · exact h
  · exact State.foldl_mergeOne_memoriesOk _ _ h

theorem State.readHome_memoriesOk (s : State) (pas : List Nat) (h : s.MemoriesOk) : (s.readHome pas).1.MemoriesOk := s.merge_memoriesOk pas h
theorem State.writeHome_memoriesOk (s : State) (pas : List Nat) (data : List Byte) (h : s.MemoriesOk) : (s.writeHome pas data).1.MemoriesOk :=
  (s.merge pas).putHome_memoriesOk _ _ _ _ (s.merge_memoriesOk pas h)

theorem State.writeSpace_memoriesOk (s : State) (a : Access) (data : List Byte) (h : s.MemoriesOk) : (s.writeSpace a data).1.MemoriesOk := by
  unfold State.writeSpace
  split
  · exact s.writeHome_memoriesOk _ _ h
  · exact h
  · exact h

theorem State.readSpace_memoriesOk (s : State) (a : Access) (h : s.MemoriesOk) : (s.readSpace a).1.MemoriesOk := by
  unfold State.readSpace
  split
  · exact s.readHome_memoriesOk _ h
  · split <;> exact h
  · split <;> exact h

/-! ## Rings, records and the audit log (R352, R360, R400) -/

/-- `m` is `s` but for what the homes hold, the release writes that wait, and the audit log and device ring. -/
def State.Reports (s m : State) : Prop :=
  { m with mem := s.mem, lines := s.lines, partials := s.partials,
           dev := { m.dev with badGranules := s.dev.badGranules, releases := s.dev.releases, audit := s.dev.audit,
                               ring := s.dev.ring, ovf := s.dev.ovf } } = s ∧ (s.MemoriesOk → m.MemoriesOk)

theorem State.Reports.refl (s : State) : s.Reports s := ⟨rfl, id⟩

theorem State.Reports.trans {s m n : State} (h : s.Reports m) (k : m.Reports n) : s.Reports n := by
  refine ⟨?_, fun x => k.2 (h.2 x)⟩
  have h1 := h.1
  rw [← h1, ← k.1]

theorem State.AtHomes.reports {s m : State} (h : s.AtHomes m) (k : s.MemoriesOk → m.MemoriesOk) : s.Reports m := by
  refine ⟨?_, k⟩
  unfold State.AtHomes at h
  rw [← h]

theorem State.devPut_reports (s : State) (pa : Nat) (bs : List Byte) : s.Reports (s.devPut pa bs).1 := by
  unfold State.devPut
  split
  · exact State.Reports.refl s
  · exact (s.writeHome_atHomes _ _).reports (s.writeHome_memoriesOk _ _)

theorem State.devWrite_reports (s : State) (pa : Nat) (bs : List Byte) : s.Reports (s.devWrite pa bs) := s.devPut_reports pa bs

theorem State.devRead_reports (s : State) (pa n : Nat) : s.Reports (s.devRead pa n).1 := by
  unfold State.devRead
  simp only
  split
  · exact State.Reports.refl s
  · exact (s.readHome_atHomes _).reports (s.readHome_memoriesOk _)

theorem State.devRelease_reports (s : State) (pa : Nat) (bs : List Byte) (t : Nat) : s.Reports (s.devRelease pa bs t) := ⟨rfl, id⟩

/-- A record goes into its ring at the homes, and its count into the release writes that wait. -/
theorem State.ringPut_reports (s : State) (r : Option Ring) (bs : List Byte) : s.Reports (s.ringPut r bs).1 := by
  unfold State.ringPut
  split
  · exact State.Reports.refl s
  · next q =>
    simp only
    split_ifs
    · exact s.devRead_reports _ _
    · exact (s.devRead_reports _ _).trans ((State.devPut_reports _ _ _).trans (State.devRelease_reports _ _ _ _))

theorem State.logged_reports (s : State) (n : Nat) (bs : List Byte) (a : Audit) (bad : List Nat) :
    s.Reports { s with mem := putBytes s.mem n bs, dev := { s.dev with audit := a, badGranules := bad } } :=
  ⟨rfl, fun h => ⟨putBytes_wf _ _ _ h.1, h.2⟩⟩

/-- An entry appended changes the log, its mirror and the granules that the mirror covers, and nothing else. -/
theorem State.auditPut_reports (s : State) (e : AuditEntry) : s.Reports (s.auditPut e) := by
  unfold State.auditPut
  exact s.logged_reports _ _ _ _

/-- An audit entry, at once, waiting or dropped. -/
theorem State.audit_reports (s : State) (type ctx : Nat) (detail : List Byte) : s.Reports (s.audit type ctx detail) := by
  unfold State.audit
  simp only
  split_ifs
  · exact s.auditPut_reports _
  · exact State.Reports.refl s
  · exact ⟨rfl, id⟩

theorem State.note_reports (s : State) (type ctx : Nat) : s.Reports (s.note type ctx) := s.audit_reports _ _ _

theorem State.devicePut_reports (s : State) (r : Rec) : s.Reports (s.devicePut r) := by
  unfold State.devicePut
  simp only
  generalize hs : s.audit _ _ _ = s1
  have h1 : s.Reports s1 := by rw [← hs]; exact s.audit_reports _ _ _
  have h2 := s1.ringPut_reports s1.dev.ring (r.bytes (s.gtime bridge0))
  split <;> exact h1.trans (h2.trans ⟨rfl, id⟩)

theorem State.countRead_reports (s : State) (r : Option Ring) : s.Reports (s.countRead r) := by
  unfold State.countRead
  split
  · split
    · exact s.devicePut_reports _
    · exact State.Reports.refl s
  · exact State.Reports.refl s

theorem State.deviceRecord_reports (s : State) (event addr die core : Nat) : s.Reports (s.deviceRecord event addr die core) :=
  (s.countRead_reports _).trans (State.devicePut_reports _ _)

/-- A record of a context changes, beside the reports, only the contexts. -/
theorem State.record_spec (s : State) (r : Rec) (bits : Word) : s.Reports { s.record r bits with contexts := s.contexts } := by
  unfold State.record State.recordBytes
  split
  · exact State.Reports.refl s
  · next c _ =>
    have h := (s.countRead_reports c.ring).trans ((s.countRead c.ring).ringPut_reports c.ring (r.bytes (s.gtime r.die)))
    have hc : ((s.countRead c.ring).ringPut c.ring (r.bytes (s.gtime r.die))).1.contexts = s.contexts := by
      have k := congrArg State.contexts h.1
      exact k
    simp only
    split <;>
    · refine ⟨?_, fun x => h.2 x⟩
      simp only [State.modCtx]
      rw [← hc]
      exact h.1

end Sys2Proof.Machine
end

