-- ==== Sys2Proof/Laws/PerInstr.lean ====
section
/-!
SUPPORT. PerInstr.lean: facts about instructions as syntax, one per constructor: an instruction has at most two words, its own and its
literal, and a step without an instruction word has none.
-/

set_option Elab.async false

namespace Sys2Proof.Laws.Encoding

/-- The words of an instruction (R162 to R164). -/
def Statement (i : Instr) : Prop := (encode i).length ≤ 2

theorem litTail_length (e : Bool) (l : Word) : (litTail e l).length ≤ 1 := by cases e <;> simp [litTail]

theorem powerOn (r : StartReport) : Statement (.powerOn r) := Nat.zero_le 2
theorem coldReset (r : StartReport) : Statement (.coldReset r) := Nat.zero_le 2
theorem warmReset (r : StartReport) : Statement (.warmReset r) := Nat.zero_le 2
theorem memoryClearDone (k : Nat) : Statement (.memoryClearDone k) := Nat.zero_le 2
theorem managementDoorbell (tail : BitVec 32) : Statement (.managementDoorbell tail) := Nat.zero_le 2
theorem registerWrite (offset : Nat) (value : BitVec 64) : Statement (.registerWrite offset value) := Nat.zero_le 2
theorem feature (reply : Nat) (request : BitVec 128) : Statement (.feature reply request) := Nat.zero_le 2
theorem create (reply : Nat) (rec : List (BitVec 8)) : Statement (.create reply rec) := Nat.zero_le 2
theorem release (reply : Nat) (ctx : Nat) : Statement (.release reply ctx) := Nat.zero_le 2
theorem switch (reply : Nat) (ctx : Nat) : Statement (.switch reply ctx) := Nat.zero_le 2
theorem preempt (reply : Nat) (ctx : Nat) (queue : Nat) (k : Nat) : Statement (.preempt reply ctx queue k) := Nat.zero_le 2
theorem invalidate (reply : Nat) (ctx : Nat) (lvl : Nat) (base : Nat) (len : Nat) : Statement (.invalidate reply ctx lvl base len) := Nat.zero_le 2
theorem fwload (reply : Nat) (regs : List Nat) (digest : BitVec 512) (sigOk : Bool) : Statement (.fwload reply regs digest sigOk) := Nat.zero_le 2
theorem attest (reply : Nat) (nonce : BitVec 256) : Statement (.attest reply nonce) := Nat.zero_le 2
theorem logread (reply : Nat) (count : Nat) : Statement (.logread reply count) := Nat.zero_le 2
theorem logsign (reply : Nat) : Statement (.logsign reply) := Nat.zero_le 2
theorem repair (reply : Nat) (die : Nat) (core : Nat) : Statement (.repair reply die core) := Nat.zero_le 2
theorem errctl (reply : Nat) (ctx : Nat) (logn : Nat) (ring : Nat) (consw : Nat) (prodw : Nat) (clr : Nat) : Statement (.errctl reply ctx logn ring consw prodw clr) := Nat.zero_le 2
theorem resolve (reply : Nat) (ctx : Nat) (out : Nat) (base : Nat) (len : Nat) : Statement (.resolve reply ctx out base len) := Nat.zero_le 2
theorem debugMode (reply : Nat) (ctx : Nat) (mode : Nat) (addr : Nat) : Statement (.debugMode reply ctx mode addr) := Nat.zero_le 2
theorem setbp (reply : Nat) (ctx : Nat) (bp : Nat) (die : Nat) (core : Nat) (addr : Nat) : Statement (.setbp reply ctx bp die core addr) := Nat.zero_le 2
theorem clrbp (reply : Nat) (ctx : Nat) (bp : Nat) (die : Nat) (core : Nat) : Statement (.clrbp reply ctx bp die core) := Nat.zero_le 2
theorem debugStop (reply : Nat) (ctx : Nat) (teamId : Nat) (lrank : Nat) : Statement (.debugStop reply ctx teamId lrank) := Nat.zero_le 2
theorem debugResume (reply : Nat) (ctx : Nat) (teamId : Nat) (lrank : Nat) : Statement (.debugResume reply ctx teamId lrank) := Nat.zero_le 2
theorem debugStep (reply : Nat) (ctx : Nat) (teamId : Nat) (lrank : Nat) : Statement (.debugStep reply ctx teamId lrank) := Nat.zero_le 2
theorem dump (reply : Nat) (ctx : Nat) (addr : Nat) (teamId : Nat) : Statement (.dump reply ctx addr teamId) := Nat.zero_le 2
theorem debugLoad (reply : Nat) (ctx : Nat) (addr : Nat) (teamId : Nat) : Statement (.debugLoad reply ctx addr teamId) := Nat.zero_le 2
theorem launchDoorbell (ctx : Nat) (queue : Nat) (tail : BitVec 32) : Statement (.launchDoorbell ctx queue tail) := Nat.zero_le 2
theorem launchStart (ctx : Nat) (queue : Nat) : Statement (.launchStart ctx queue) := Nat.zero_le 2
theorem dependenceRecheck (ctx : Nat) (queue : Nat) : Statement (.dependenceRecheck ctx queue) := Nat.zero_le 2
theorem teamPlacement (ctx : Nat) (queue : Nat) : Statement (.teamPlacement ctx queue) := Nat.zero_le 2
theorem launchCompletion (launch : Nat) : Statement (.launchCompletion launch) := Nat.zero_le 2
theorem packetIssue (die : Nat) (core : Nat) (course : Nat) : Statement (.packetIssue die core course) := Nat.zero_le 2
theorem threadAging (team : Nat) (lrank : Nat) : Statement (.threadAging team lrank) := Nat.zero_le 2
theorem yieldExpiry (team : Nat) (lrank : Nat) : Statement (.yieldExpiry team lrank) := Nat.zero_le 2
theorem loadCompletion (part : Part) : Statement (.loadCompletion part) := Nat.zero_le 2
theorem trackedOpCompletion (part : Part) : Statement (.trackedOpCompletion part) := Nat.zero_le 2
theorem writeCompletionReturn (op : Nat) : Statement (.writeCompletionReturn op) := Nat.zero_le 2
theorem storeAtHome (op : Nat) : Statement (.storeAtHome op) := Nat.zero_le 2
theorem atomicAtHome (op : Nat) : Statement (.atomicAtHome op) := Nat.zero_le 2
theorem redAtDieL2 (op : Nat) : Statement (.redAtDieL2 op) := Nat.zero_le 2
theorem l1Fill (op : Nat) (evicted : List Nat) : Statement (.l1Fill op evicted) := Nat.zero_le 2
theorem leaseExpiry (die : Nat) (core : Nat) (line : Nat) : Statement (.leaseExpiry die core line) := Nat.zero_le 2
theorem hostCxlWrite (pa : Nat) (data : List (BitVec 8)) : Statement (.hostCxlWrite pa data) := Nat.zero_le 2
theorem pageWalk (die : Nat) (core : Nat) (ctx : Nat) (va : Nat) : Statement (.pageWalk die core ctx va) := Nat.zero_le 2
theorem hbmSpare (pa : Nat) (corr : Bool) (spareLeft : Bool) : Statement (.hbmSpare pa corr spareLeft) := Nat.zero_le 2
theorem localityWindowEnd (die : Nat) (core : Nat) : Statement (.localityWindowEnd die core) := Nat.zero_le 2
theorem permitIncrease (die : Nat) (core : Nat) : Statement (.permitIncrease die core) := Nat.zero_le 2
theorem permitRotation (die : Nat) (core : Nat) : Statement (.permitRotation die core) := Nat.zero_le 2
theorem forkReservation (die : Nat) (core : Nat) : Statement (.forkReservation die core) := Nat.zero_le 2
theorem join (team : Nat) (frame : Nat) : Statement (.join team frame) := Nat.zero_le 2
theorem barrierRelease (kind : Nat) (team : Nat) (frame : Nat) (bar : Nat) : Statement (.barrierRelease kind team frame bar) := Nat.zero_le 2
theorem bowArrival (launch : Nat) : Statement (.bowArrival launch) := Nat.zero_le 2
theorem rendezvousWatchdog (team : Nat) (lrank : Nat) : Statement (.rendezvousWatchdog team lrank) := Nat.zero_le 2
theorem trapEntry (team : Nat) (lrank : Nat) : Statement (.trapEntry team lrank) := Nat.zero_le 2
theorem teamSave (team : Nat) : Statement (.teamSave team) := Nat.zero_le 2
theorem openWindowLimit (team : Nat) (lrank : Nat) : Statement (.openWindowLimit team lrank) := Nat.zero_le 2
theorem teamRestore (team : Nat) : Statement (.teamRestore team) := Nat.zero_le 2
theorem commandGo (op : Nat) : Statement (.commandGo op) := Nat.zero_le 2
theorem commandAcceptance (op : Nat) : Statement (.commandAcceptance op) := Nat.zero_le 2
theorem commandCompletion (cmd : Nat) : Statement (.commandCompletion cmd) := Nat.zero_le 2
theorem notifyRelease (cmd : Nat) : Statement (.notifyRelease cmd) := Nat.zero_le 2
theorem mmaOperandsConsumed (cmd : Nat) : Statement (.mmaOperandsConsumed cmd) := Nat.zero_le 2
theorem copy (cmd : Nat) (done : List Nat) : Statement (.copy cmd done) := Nat.zero_le 2
theorem copynd (cmd : Nat) (done : List Nat) : Statement (.copynd cmd done) := Nat.zero_le 2
theorem copyred (cmd : Nat) (done : List Nat) : Statement (.copyred cmd done) := Nat.zero_le 2
theorem fill (cmd : Nat) (done : List Nat) : Statement (.fill cmd done) := Nat.zero_le 2
theorem osbload (cmd : Nat) (done : List Nat) : Statement (.osbload cmd done) := Nat.zero_le 2
theorem accmove (cmd : Nat) (done : List Nat) : Statement (.accmove cmd done) := Nat.zero_le 2
theorem mma (part : Part) : Statement (.mma part) := Nat.zero_le 2
theorem mmas (part : Part) : Statement (.mmas part) := Nat.zero_le 2
theorem launch (cmd : Nat) : Statement (.launch cmd) := Nat.zero_le 2
theorem launchQfullTimeout (cmd : Nat) : Statement (.launchQfullTimeout cmd) := Nat.zero_le 2
theorem attn (cmd : Nat) : Statement (.attn cmd) := Nat.zero_le 2
theorem attnVisit (cmd : Nat) : Statement (.attnVisit cmd) := Nat.zero_le 2
theorem attnParkResume (cmd : Nat) : Statement (.attnParkResume cmd) := Nat.zero_le 2
theorem attnUnstable (cmd : Nat) : Statement (.attnUnstable cmd) := Nat.zero_le 2
theorem kapp (cmd : Nat) : Statement (.kapp cmd) := Nat.zero_le 2
theorem kreq (cmd : Nat) : Statement (.kreq cmd) := Nat.zero_le 2
theorem krot (cmd : Nat) : Statement (.krot cmd) := Nat.zero_le 2
theorem ksum (cmd : Nat) : Statement (.ksum cmd) := Nat.zero_le 2
theorem ktrunc (cmd : Nat) : Statement (.ktrunc cmd) := Nat.zero_le 2
theorem blockClaimRetry (cmd : Nat) : Statement (.blockClaimRetry cmd) := Nat.zero_le 2
theorem maintenanceBusy (cmd : Nat) : Statement (.maintenanceBusy cmd) := Nat.zero_le 2
theorem cprog (cmd : Nat) : Statement (.cprog cmd) := Nat.zero_le 2
theorem send (cmd : Nat) : Statement (.send cmd) := Nat.zero_le 2
theorem recv (cmd : Nat) : Statement (.recv cmd) := Nat.zero_le 2
theorem rrs (cmd : Nat) : Statement (.rrs cmd) := Nat.zero_le 2
theorem cprogCopy (cmd : Nat) : Statement (.cprogCopy cmd) := Nat.zero_le 2
theorem cprogWait (cmd : Nat) : Statement (.cprogWait cmd) := Nat.zero_le 2
theorem notify (cmd : Nat) : Statement (.notify cmd) := Nat.zero_le 2
theorem loop (cmd : Nat) : Statement (.loop cmd) := Nat.zero_le 2
theorem endloop (cmd : Nat) : Statement (.endloop cmd) := Nat.zero_le 2
theorem peer (cmd : Nat) : Statement (.peer cmd) := Nat.zero_le 2
theorem putr (cmd : Nat) : Statement (.putr cmd) := Nat.zero_le 2
theorem endStep (cmd : Nat) : Statement (.endStep cmd) := Nat.zero_le 2
theorem putrReserve (cmd : Nat) (got : Nat × Nat) : Statement (.putrReserve cmd got) := Nat.zero_le 2
theorem slotHeaderReread (cmd : Nat) : Statement (.slotHeaderReread cmd) := Nat.zero_le 2
theorem cprogTimeout (cmd : Nat) : Statement (.cprogTimeout cmd) := Nat.zero_le 2
theorem fabricWriteArrival (msg : FabricMsg) : Statement (.fabricWriteArrival msg) := Nat.zero_le 2
theorem fabricAck (cmd : Nat) (seq : Nat) (value : Nat) : Statement (.fabricAck cmd seq value) := Nat.zero_le 2
theorem lane (link : Nat) (lanes : Nat) : Statement (.lane link lanes) := Nat.zero_le 2
theorem linkdown (link : Nat) : Statement (.linkdown link) := Nat.zero_le 2
theorem timeBaseCompare (die : Nat) (lead : Int) (lost : Bool) : Statement (.timeBaseCompare die lead lost) := Nat.zero_le 2
theorem monitorReading (die : Nat) (group : Nat) (temp : Nat) (droop : Bool) (proc : Option Nat) : Statement (.monitorReading die group temp droop proc) := Nat.zero_le 2
theorem droopRestore (die : Nat) (group : Nat) : Statement (.droopRestore die group) := Nat.zero_le 2
theorem auditChainCheck (mirrorOk : Bool) (sramOk : Bool) : Statement (.auditChainCheck mirrorOk sramOk) := Nat.zero_le 2
theorem iadd (c : BitVec 1) (g : BitVec 3) (d : BitVec 6) (a : BitVec 6) (b : BitVec 6) : Statement (.iadd c g d a b) := Nat.le_succ 1
theorem isub (c : BitVec 1) (g : BitVec 3) (d : BitVec 6) (a : BitVec 6) (b : BitVec 6) : Statement (.isub c g d a b) := Nat.le_succ 1
theorem imul (c : BitVec 1) (g : BitVec 3) (d : BitVec 6) (a : BitVec 6) (b : BitVec 6) : Statement (.imul c g d a b) := Nat.le_succ 1
theorem imulhiI32 (c : BitVec 1) (g : BitVec 3) (d : BitVec 6) (a : BitVec 6) (b : BitVec 6) : Statement (.imulhiI32 c g d a b) := Nat.le_succ 1
theorem imulhiN32 (c : BitVec 1) (g : BitVec 3) (d : BitVec 6) (a : BitVec 6) (b : BitVec 6) : Statement (.imulhiN32 c g d a b) := Nat.le_succ 1
theorem iminI32 (c : BitVec 1) (g : BitVec 3) (d : BitVec 6) (a : BitVec 6) (b : BitVec 6) : Statement (.iminI32 c g d a b) := Nat.le_succ 1
theorem iminN32 (c : BitVec 1) (g : BitVec 3) (d : BitVec 6) (a : BitVec 6) (b : BitVec 6) : Statement (.iminN32 c g d a b) := Nat.le_succ 1
theorem imaxI32 (c : BitVec 1) (g : BitVec 3) (d : BitVec 6) (a : BitVec 6) (b : BitVec 6) : Statement (.imaxI32 c g d a b) := Nat.le_succ 1
theorem imaxN32 (c : BitVec 1) (g : BitVec 3) (d : BitVec 6) (a : BitVec 6) (b : BitVec 6) : Statement (.imaxN32 c g d a b) := Nat.le_succ 1
theorem iaddSatI32 (c : BitVec 1) (g : BitVec 3) (d : BitVec 6) (a : BitVec 6) (b : BitVec 6) : Statement (.iaddSatI32 c g d a b) := Nat.le_succ 1
theorem iaddSatN32 (c : BitVec 1) (g : BitVec 3) (d : BitVec 6) (a : BitVec 6) (b : BitVec 6) : Statement (.iaddSatN32 c g d a b) := Nat.le_succ 1
theorem isubSatI32 (c : BitVec 1) (g : BitVec 3) (d : BitVec 6) (a : BitVec 6) (b : BitVec 6) : Statement (.isubSatI32 c g d a b) := Nat.le_succ 1
theorem isubSatN32 (c : BitVec 1) (g : BitVec 3) (d : BitVec 6) (a : BitVec 6) (b : BitVec 6) : Statement (.isubSatN32 c g d a b) := Nat.le_succ 1
theorem iaddI64 (c : BitVec 1) (g : BitVec 3) (d : BitVec 6) (a : BitVec 6) (b : BitVec 6) : Statement (.iaddI64 c g d a b) := Nat.le_succ 1
theorem isubI64 (c : BitVec 1) (g : BitVec 3) (d : BitVec 6) (a : BitVec 6) (b : BitVec 6) : Statement (.isubI64 c g d a b) := Nat.le_succ 1
theorem imad (c : BitVec 1) (g : BitVec 3) (d : BitVec 6) (a : BitVec 6) (b : BitVec 6) : Statement (.imad c g d a b) := Nat.le_succ 1
theorem and (c : BitVec 1) (g : BitVec 3) (d : BitVec 6) (a : BitVec 6) (b : BitVec 6) : Statement (.and c g d a b) := Nat.le_succ 1
theorem or (c : BitVec 1) (g : BitVec 3) (d : BitVec 6) (a : BitVec 6) (b : BitVec 6) : Statement (.or c g d a b) := Nat.le_succ 1
theorem xor (c : BitVec 1) (g : BitVec 3) (d : BitVec 6) (a : BitVec 6) (b : BitVec 6) : Statement (.xor c g d a b) := Nat.le_succ 1
theorem andn (c : BitVec 1) (g : BitVec 3) (d : BitVec 6) (a : BitVec 6) (b : BitVec 6) : Statement (.andn c g d a b) := Nat.le_succ 1
theorem not (c : BitVec 1) (g : BitVec 3) (d : BitVec 6) (a : BitVec 6) : Statement (.not c g d a) := Nat.le_succ 1
theorem shl (c : BitVec 1) (g : BitVec 3) (d : BitVec 6) (a : BitVec 6) (b : BitVec 6) : Statement (.shl c g d a b) := Nat.le_succ 1
theorem shr (c : BitVec 1) (g : BitVec 3) (d : BitVec 6) (a : BitVec 6) (b : BitVec 6) : Statement (.shr c g d a b) := Nat.le_succ 1
theorem sar (c : BitVec 1) (g : BitVec 3) (d : BitVec 6) (a : BitVec 6) (b : BitVec 6) : Statement (.sar c g d a b) := Nat.le_succ 1
theorem rotl (c : BitVec 1) (g : BitVec 3) (d : BitVec 6) (a : BitVec 6) (b : BitVec 6) : Statement (.rotl c g d a b) := Nat.le_succ 1
theorem rotr (c : BitVec 1) (g : BitVec 3) (d : BitVec 6) (a : BitVec 6) (b : BitVec 6) : Statement (.rotr c g d a b) := Nat.le_succ 1
theorem bitgetN32 (c : BitVec 1) (g : BitVec 3) (d : BitVec 6) (a : BitVec 6) (b : BitVec 6) : Statement (.bitgetN32 c g d a b) := Nat.le_succ 1
theorem bitgetI32 (c : BitVec 1) (g : BitVec 3) (d : BitVec 6) (a : BitVec 6) (b : BitVec 6) : Statement (.bitgetI32 c g d a b) := Nat.le_succ 1
theorem bitins (c : BitVec 1) (g : BitVec 3) (d : BitVec 6) (a : BitVec 6) (b : BitVec 6) : Statement (.bitins c g d a b) := Nat.le_succ 1
theorem popc (c : BitVec 1) (g : BitVec 3) (d : BitVec 6) (a : BitVec 6) : Statement (.popc c g d a) := Nat.le_succ 1
theorem clz (c : BitVec 1) (g : BitVec 3) (d : BitVec 6) (a : BitVec 6) : Statement (.clz c g d a) := Nat.le_succ 1
theorem ctz (c : BitVec 1) (g : BitVec 3) (d : BitVec 6) (a : BitVec 6) : Statement (.ctz c g d a) := Nat.le_succ 1
theorem brev (c : BitVec 1) (g : BitVec 3) (d : BitVec 6) (a : BitVec 6) : Statement (.brev c g d a) := Nat.le_succ 1
theorem sel (c : BitVec 1) (g : BitVec 3) (d : BitVec 6) (a : BitVec 6) (b : BitVec 6) (q : BitVec 3) : Statement (.sel c g d a b q) := Nat.le_succ 1
theorem iaddUniform (c : BitVec 1) (g : BitVec 3) (d : BitVec 6) (a : BitVec 6) (s : BitVec 8) : Statement (.iaddUniform c g d a s) := Nat.le_succ 1
theorem isubUniform (c : BitVec 1) (g : BitVec 3) (d : BitVec 6) (a : BitVec 6) (s : BitVec 8) : Statement (.isubUniform c g d a s) := Nat.le_succ 1
theorem imulUniform (c : BitVec 1) (g : BitVec 3) (d : BitVec 6) (a : BitVec 6) (s : BitVec 8) : Statement (.imulUniform c g d a s) := Nat.le_succ 1
theorem andUniform (c : BitVec 1) (g : BitVec 3) (d : BitVec 6) (a : BitVec 6) (s : BitVec 8) : Statement (.andUniform c g d a s) := Nat.le_succ 1
theorem iaddImm (c : BitVec 1) (g : BitVec 3) (d : BitVec 6) (a : BitVec 6) (i : BitVec 10) (lit : BitVec 32) : Statement (.iaddImm c g d a i lit) := Nat.succ_le_succ (litTail_length _ _)
theorem andImm (c : BitVec 1) (g : BitVec 3) (d : BitVec 6) (a : BitVec 6) (i : BitVec 10) (lit : BitVec 32) : Statement (.andImm c g d a i lit) := Nat.succ_le_succ (litTail_length _ _)
theorem orImm (c : BitVec 1) (g : BitVec 3) (d : BitVec 6) (a : BitVec 6) (i : BitVec 10) (lit : BitVec 32) : Statement (.orImm c g d a i lit) := Nat.succ_le_succ (litTail_length _ _)
theorem xorImm (c : BitVec 1) (g : BitVec 3) (d : BitVec 6) (a : BitVec 6) (i : BitVec 10) (lit : BitVec 32) : Statement (.xorImm c g d a i lit) := Nat.succ_le_succ (litTail_length _ _)
theorem shlImm (c : BitVec 1) (g : BitVec 3) (d : BitVec 6) (a : BitVec 6) (i : BitVec 10) (lit : BitVec 32) : Statement (.shlImm c g d a i lit) := Nat.succ_le_succ (litTail_length _ _)
theorem icmp (c : BitVec 1) (g : BitVec 3) (p : BitVec 3) (a : BitVec 6) (b : BitVec 6) (k : BitVec 4) (f : BitVec 3) : Statement (.icmp c g p a b k f) := Nat.le_succ 1
theorem mov (c : BitVec 1) (g : BitVec 3) (d : BitVec 6) (a : BitVec 6) : Statement (.mov c g d a) := Nat.le_succ 1
theorem mov64 (c : BitVec 1) (g : BitVec 3) (d : BitVec 6) (a : BitVec 6) : Statement (.mov64 c g d a) := Nat.le_succ 1
theorem pand (c : BitVec 1) (g : BitVec 3) (d : BitVec 3) (a : BitVec 3) (b : BitVec 3) : Statement (.pand c g d a b) := Nat.le_succ 1
theorem por (c : BitVec 1) (g : BitVec 3) (d : BitVec 3) (a : BitVec 3) (b : BitVec 3) : Statement (.por c g d a b) := Nat.le_succ 1
theorem pxor (c : BitVec 1) (g : BitVec 3) (d : BitVec 3) (a : BitVec 3) (b : BitVec 3) : Statement (.pxor c g d a b) := Nat.le_succ 1
theorem pandn (c : BitVec 1) (g : BitVec 3) (d : BitVec 3) (a : BitVec 3) (b : BitVec 3) : Statement (.pandn c g d a b) := Nat.le_succ 1
theorem pmov (c : BitVec 1) (g : BitVec 3) (d : BitVec 6) (a : BitVec 3) : Statement (.pmov c g d a) := Nat.le_succ 1
theorem ptst (c : BitVec 1) (g : BitVec 3) (d : BitVec 3) (a : BitVec 6) : Statement (.ptst c g d a) := Nat.le_succ 1
theorem rand (c : BitVec 1) (g : BitVec 3) (d : BitVec 6) (a : BitVec 6) (b : BitVec 6) : Statement (.rand c g d a b) := Nat.le_succ 1
theorem movH0 (c : BitVec 1) (g : BitVec 3) (d : BitVec 6) (a : BitVec 6) : Statement (.movH0 c g d a) := Nat.le_succ 1
theorem movH1 (c : BitVec 1) (g : BitVec 3) (d : BitVec 6) (a : BitVec 6) : Statement (.movH1 c g d a) := Nat.le_succ 1
theorem movImm (c : BitVec 1) (g : BitVec 3) (d : BitVec 6) (i : BitVec 10) (lit : BitVec 32) : Statement (.movImm c g d i lit) := Nat.succ_le_succ (litTail_length _ _)
theorem uadd (c : BitVec 1) (d : BitVec 8) (a : BitVec 8) (b : BitVec 6) : Statement (.uadd c d a b) := Nat.le_succ 1
theorem usub (c : BitVec 1) (d : BitVec 8) (a : BitVec 8) (b : BitVec 6) : Statement (.usub c d a b) := Nat.le_succ 1
theorem umul (c : BitVec 1) (d : BitVec 8) (a : BitVec 8) (b : BitVec 6) : Statement (.umul c d a b) := Nat.le_succ 1
theorem uand (c : BitVec 1) (d : BitVec 8) (a : BitVec 8) (b : BitVec 6) : Statement (.uand c d a b) := Nat.le_succ 1
theorem uor (c : BitVec 1) (d : BitVec 8) (a : BitVec 8) (b : BitVec 6) : Statement (.uor c d a b) := Nat.le_succ 1
theorem uxor (c : BitVec 1) (d : BitVec 8) (a : BitVec 8) (b : BitVec 6) : Statement (.uxor c d a b) := Nat.le_succ 1
theorem ushl (c : BitVec 1) (d : BitVec 8) (a : BitVec 8) (b : BitVec 6) : Statement (.ushl c d a b) := Nat.le_succ 1
theorem ushr (c : BitVec 1) (d : BitVec 8) (a : BitVec 8) (b : BitVec 6) : Statement (.ushr c d a b) := Nat.le_succ 1
theorem uaddImm (c : BitVec 1) (d : BitVec 8) (a : BitVec 8) (i : BitVec 6) (lit : BitVec 32) : Statement (.uaddImm c d a i lit) := Nat.succ_le_succ (litTail_length _ _)
theorem usubImm (c : BitVec 1) (d : BitVec 8) (a : BitVec 8) (i : BitVec 6) (lit : BitVec 32) : Statement (.usubImm c d a i lit) := Nat.succ_le_succ (litTail_length _ _)
theorem umulImm (c : BitVec 1) (d : BitVec 8) (a : BitVec 8) (i : BitVec 6) (lit : BitVec 32) : Statement (.umulImm c d a i lit) := Nat.succ_le_succ (litTail_length _ _)
theorem uandImm (c : BitVec 1) (d : BitVec 8) (a : BitVec 8) (i : BitVec 6) (lit : BitVec 32) : Statement (.uandImm c d a i lit) := Nat.succ_le_succ (litTail_length _ _)
theorem uorImm (c : BitVec 1) (d : BitVec 8) (a : BitVec 8) (i : BitVec 6) (lit : BitVec 32) : Statement (.uorImm c d a i lit) := Nat.succ_le_succ (litTail_length _ _)
theorem uxorImm (c : BitVec 1) (d : BitVec 8) (a : BitVec 8) (i : BitVec 6) (lit : BitVec 32) : Statement (.uxorImm c d a i lit) := Nat.succ_le_succ (litTail_length _ _)
theorem ushlImm (c : BitVec 1) (d : BitVec 8) (a : BitVec 8) (i : BitVec 6) (lit : BitVec 32) : Statement (.ushlImm c d a i lit) := Nat.succ_le_succ (litTail_length _ _)
theorem ushrImm (c : BitVec 1) (d : BitVec 8) (a : BitVec 8) (i : BitVec 6) (lit : BitVec 32) : Statement (.ushrImm c d a i lit) := Nat.succ_le_succ (litTail_length _ _)
theorem movVFromS (c : BitVec 1) (d : BitVec 6) (s : BitVec 8) : Statement (.movVFromS c d s) := Nat.le_succ 1
theorem movSFromV (c : BitVec 1) (d : BitVec 8) (a : BitVec 6) : Statement (.movSFromV c d a) := Nat.le_succ 1
theorem mov64VFromS (c : BitVec 1) (d : BitVec 6) (s : BitVec 8) : Statement (.mov64VFromS c d s) := Nat.le_succ 1
theorem mov64SFromV (c : BitVec 1) (d : BitVec 8) (a : BitVec 6) : Statement (.mov64SFromV c d a) := Nat.le_succ 1
theorem movUniformImm (c : BitVec 1) (d : BitVec 8) (i : BitVec 6) (lit : BitVec 32) : Statement (.movUniformImm c d i lit) := Nat.succ_le_succ (litTail_length _ _)
theorem ucmp (c : BitVec 1) (u : BitVec 3) (p : BitVec 3) (a : BitVec 8) (i : BitVec 6) (lit : BitVec 32) : Statement (.ucmp c u p a i lit) := Nat.succ_le_succ (litTail_length _ _)
theorem faddF32 (c : BitVec 1) (g : BitVec 3) (d : BitVec 6) (a : BitVec 6) (b : BitVec 6) : Statement (.faddF32 c g d a b) := Nat.le_succ 1
theorem fsubF32 (c : BitVec 1) (g : BitVec 3) (d : BitVec 6) (a : BitVec 6) (b : BitVec 6) : Statement (.fsubF32 c g d a b) := Nat.le_succ 1
theorem fmulF32 (c : BitVec 1) (g : BitVec 3) (d : BitVec 6) (a : BitVec 6) (b : BitVec 6) : Statement (.fmulF32 c g d a b) := Nat.le_succ 1
theorem ffmaF32 (c : BitVec 1) (g : BitVec 3) (d : BitVec 6) (a : BitVec 6) (b : BitVec 6) : Statement (.ffmaF32 c g d a b) := Nat.le_succ 1
theorem ffmsF32 (c : BitVec 1) (g : BitVec 3) (d : BitVec 6) (a : BitVec 6) (b : BitVec 6) : Statement (.ffmsF32 c g d a b) := Nat.le_succ 1
theorem fnmaF32 (c : BitVec 1) (g : BitVec 3) (d : BitVec 6) (a : BitVec 6) (b : BitVec 6) : Statement (.fnmaF32 c g d a b) := Nat.le_succ 1
theorem fminF32 (c : BitVec 1) (g : BitVec 3) (d : BitVec 6) (a : BitVec 6) (b : BitVec 6) : Statement (.fminF32 c g d a b) := Nat.le_succ 1
theorem fmaxF32 (c : BitVec 1) (g : BitVec 3) (d : BitVec 6) (a : BitVec 6) (b : BitVec 6) : Statement (.fmaxF32 c g d a b) := Nat.le_succ 1
theorem fabsF32 (c : BitVec 1) (g : BitVec 3) (d : BitVec 6) (a : BitVec 6) : Statement (.fabsF32 c g d a) := Nat.le_succ 1
theorem fnegF32 (c : BitVec 1) (g : BitVec 3) (d : BitVec 6) (a : BitVec 6) : Statement (.fnegF32 c g d a) := Nat.le_succ 1
theorem fcopysignF32 (c : BitVec 1) (g : BitVec 3) (d : BitVec 6) (a : BitVec 6) (b : BitVec 6) : Statement (.fcopysignF32 c g d a b) := Nat.le_succ 1
theorem fminNumF32 (c : BitVec 1) (g : BitVec 3) (d : BitVec 6) (a : BitVec 6) (b : BitVec 6) : Statement (.fminNumF32 c g d a b) := Nat.le_succ 1
theorem fmaxNumF32 (c : BitVec 1) (g : BitVec 3) (d : BitVec 6) (a : BitVec 6) (b : BitVec 6) : Statement (.fmaxNumF32 c g d a b) := Nat.le_succ 1
theorem faddF16 (c : BitVec 1) (y : BitVec 1) (g : BitVec 3) (d : BitVec 6) (a : BitVec 6) (b : BitVec 6) : Statement (.faddF16 c y g d a b) := Nat.le_succ 1
theorem fsubF16 (c : BitVec 1) (y : BitVec 1) (g : BitVec 3) (d : BitVec 6) (a : BitVec 6) (b : BitVec 6) : Statement (.fsubF16 c y g d a b) := Nat.le_succ 1
theorem fmulF16 (c : BitVec 1) (y : BitVec 1) (g : BitVec 3) (d : BitVec 6) (a : BitVec 6) (b : BitVec 6) : Statement (.fmulF16 c y g d a b) := Nat.le_succ 1
theorem fabsF16 (c : BitVec 1) (y : BitVec 1) (g : BitVec 3) (d : BitVec 6) (a : BitVec 6) : Statement (.fabsF16 c y g d a) := Nat.le_succ 1
theorem fnegF16 (c : BitVec 1) (y : BitVec 1) (g : BitVec 3) (d : BitVec 6) (a : BitVec 6) : Statement (.fnegF16 c y g d a) := Nat.le_succ 1
theorem fdot2F16 (c : BitVec 1) (y : BitVec 1) (g : BitVec 3) (d : BitVec 6) (a : BitVec 6) (b : BitVec 6) : Statement (.fdot2F16 c y g d a b) := Nat.le_succ 1
theorem faddF32Uniform (c : BitVec 1) (g : BitVec 3) (d : BitVec 6) (a : BitVec 6) (s : BitVec 8) : Statement (.faddF32Uniform c g d a s) := Nat.le_succ 1
theorem fmulF32Uniform (c : BitVec 1) (g : BitVec 3) (d : BitVec 6) (a : BitVec 6) (s : BitVec 8) : Statement (.fmulF32Uniform c g d a s) := Nat.le_succ 1
theorem ffmaF32Uniform (c : BitVec 1) (g : BitVec 3) (d : BitVec 6) (a : BitVec 6) (s : BitVec 8) : Statement (.ffmaF32Uniform c g d a s) := Nat.le_succ 1
theorem fsubF32Uniform (c : BitVec 1) (g : BitVec 3) (d : BitVec 6) (a : BitVec 6) (s : BitVec 8) : Statement (.fsubF32Uniform c g d a s) := Nat.le_succ 1
theorem fmulF32Imm (c : BitVec 1) (g : BitVec 3) (d : BitVec 6) (a : BitVec 6) (i : BitVec 10) (lit : BitVec 32) : Statement (.fmulF32Imm c g d a i lit) := Nat.succ_le_succ (litTail_length _ _)
theorem fcmp (c : BitVec 1) (g : BitVec 3) (p : BitVec 3) (a : BitVec 6) (b : BitVec 6) (k : BitVec 4) (f : BitVec 3) : Statement (.fcmp c g p a b k f) := Nat.le_succ 1
theorem fclass (c : BitVec 1) (g : BitVec 3) (p : BitVec 3) (a : BitVec 6) (b : BitVec 6) (f : BitVec 3) : Statement (.fclass c g p a b f) := Nat.le_succ 1
theorem frndF32 (c : BitVec 1) (g : BitVec 3) (d : BitVec 6) (a : BitVec 6) (r : BitVec 3) : Statement (.frndF32 c g d a r) := Nat.le_succ 1
theorem cvtToF32 (c : BitVec 1) (g : BitVec 3) (d : BitVec 6) (a : BitVec 6) (r : BitVec 3) (e : BitVec 2) (f : BitVec 4) : Statement (.cvtToF32 c g d a r e f) := Nat.le_succ 1
theorem cvtFromF32 (c : BitVec 1) (g : BitVec 3) (d : BitVec 6) (a : BitVec 6) (r : BitVec 3) (z : BitVec 1) (e : BitVec 2) (f : BitVec 4) : Statement (.cvtFromF32 c g d a r z e f) := Nat.le_succ 1
theorem cvtPk (c : BitVec 1) (g : BitVec 3) (d : BitVec 6) (a : BitVec 6) (b : BitVec 6) (h : BitVec 1) (f : BitVec 3) : Statement (.cvtPk c g d a b h f) := Nat.le_succ 1
theorem frcpF32 (c : BitVec 1) (g : BitVec 3) (d : BitVec 6) (a : BitVec 6) : Statement (.frcpF32 c g d a) := Nat.le_succ 1
theorem frsqF32 (c : BitVec 1) (g : BitVec 3) (d : BitVec 6) (a : BitVec 6) : Statement (.frsqF32 c g d a) := Nat.le_succ 1
theorem fsqrtF32 (c : BitVec 1) (g : BitVec 3) (d : BitVec 6) (a : BitVec 6) : Statement (.fsqrtF32 c g d a) := Nat.le_succ 1
theorem fexp2F32 (c : BitVec 1) (g : BitVec 3) (d : BitVec 6) (a : BitVec 6) : Statement (.fexp2F32 c g d a) := Nat.le_succ 1
theorem flog2F32 (c : BitVec 1) (g : BitVec 3) (d : BitVec 6) (a : BitVec 6) : Statement (.flog2F32 c g d a) := Nat.le_succ 1
theorem ftanhF32 (c : BitVec 1) (g : BitVec 3) (d : BitVec 6) (a : BitVec 6) : Statement (.ftanhF32 c g d a) := Nat.le_succ 1
theorem fsinF32 (c : BitVec 1) (g : BitVec 3) (d : BitVec 6) (a : BitVec 6) : Statement (.fsinF32 c g d a) := Nat.le_succ 1
theorem fcosF32 (c : BitVec 1) (g : BitVec 3) (d : BitVec 6) (a : BitVec 6) : Statement (.fcosF32 c g d a) := Nat.le_succ 1
theorem fminF16 (c : BitVec 1) (g : BitVec 3) (d : BitVec 6) (a : BitVec 6) (b : BitVec 6) (y : BitVec 1) : Statement (.fminF16 c g d a b y) := Nat.le_succ 1
theorem fmaxF16 (c : BitVec 1) (g : BitVec 3) (d : BitVec 6) (a : BitVec 6) (b : BitVec 6) (y : BitVec 1) : Statement (.fmaxF16 c g d a b y) := Nat.le_succ 1
theorem ffmaF16 (c : BitVec 1) (g : BitVec 3) (d : BitVec 6) (a : BitVec 6) (b : BitVec 6) (y : BitVec 1) : Statement (.ffmaF16 c g d a b y) := Nat.le_succ 1
theorem xadd (c : BitVec 1) (g : BitVec 3) (d : BitVec 6) (a : BitVec 6) (b : BitVec 6) : Statement (.xadd c g d a b) := Nat.le_succ 1
theorem xsub (c : BitVec 1) (g : BitVec 3) (d : BitVec 6) (a : BitVec 6) (b : BitVec 6) : Statement (.xsub c g d a b) := Nat.le_succ 1
theorem xmul (c : BitVec 1) (g : BitVec 3) (d : BitVec 6) (a : BitVec 6) (b : BitVec 6) : Statement (.xmul c g d a b) := Nat.le_succ 1
theorem xdiv (c : BitVec 1) (g : BitVec 3) (d : BitVec 6) (a : BitVec 6) (b : BitVec 6) : Statement (.xdiv c g d a b) := Nat.le_succ 1
theorem xfma (c : BitVec 1) (g : BitVec 3) (d : BitVec 6) (a : BitVec 6) (b : BitVec 6) : Statement (.xfma c g d a b) := Nat.le_succ 1
theorem xsqrt (c : BitVec 1) (g : BitVec 3) (d : BitVec 6) (a : BitVec 6) : Statement (.xsqrt c g d a) := Nat.le_succ 1
theorem xneg (c : BitVec 1) (g : BitVec 3) (d : BitVec 6) (a : BitVec 6) : Statement (.xneg c g d a) := Nat.le_succ 1
theorem xabs (c : BitVec 1) (g : BitVec 3) (d : BitVec 6) (a : BitVec 6) : Statement (.xabs c g d a) := Nat.le_succ 1
theorem xmin (c : BitVec 1) (g : BitVec 3) (d : BitVec 6) (a : BitVec 6) (b : BitVec 6) : Statement (.xmin c g d a b) := Nat.le_succ 1
theorem xmax (c : BitVec 1) (g : BitVec 3) (d : BitVec 6) (a : BitVec 6) (b : BitVec 6) : Statement (.xmax c g d a b) := Nat.le_succ 1
theorem xcvtXfF32 (c : BitVec 1) (g : BitVec 3) (d : BitVec 6) (a : BitVec 6) : Statement (.xcvtXfF32 c g d a) := Nat.le_succ 1
theorem xcvtXfI32 (c : BitVec 1) (g : BitVec 3) (d : BitVec 6) (a : BitVec 6) : Statement (.xcvtXfI32 c g d a) := Nat.le_succ 1
theorem xcvtXfN32 (c : BitVec 1) (g : BitVec 3) (d : BitVec 6) (a : BitVec 6) : Statement (.xcvtXfN32 c g d a) := Nat.le_succ 1
theorem xcvtXfI64 (c : BitVec 1) (g : BitVec 3) (d : BitVec 6) (a : BitVec 6) : Statement (.xcvtXfI64 c g d a) := Nat.le_succ 1
theorem xcvtXfN64 (c : BitVec 1) (g : BitVec 3) (d : BitVec 6) (a : BitVec 6) : Statement (.xcvtXfN64 c g d a) := Nat.le_succ 1
theorem xcvtF32Xf (c : BitVec 1) (g : BitVec 3) (d : BitVec 6) (a : BitVec 6) (r : BitVec 3) (z : BitVec 1) : Statement (.xcvtF32Xf c g d a r z) := Nat.le_succ 1
theorem xcvtI32Xf (c : BitVec 1) (g : BitVec 3) (d : BitVec 6) (a : BitVec 6) (r : BitVec 3) : Statement (.xcvtI32Xf c g d a r) := Nat.le_succ 1
theorem xcvtN32Xf (c : BitVec 1) (g : BitVec 3) (d : BitVec 6) (a : BitVec 6) (r : BitVec 3) : Statement (.xcvtN32Xf c g d a r) := Nat.le_succ 1
theorem xcvtI64Xf (c : BitVec 1) (g : BitVec 3) (d : BitVec 6) (a : BitVec 6) (r : BitVec 3) : Statement (.xcvtI64Xf c g d a r) := Nat.le_succ 1
theorem xcvtN64Xf (c : BitVec 1) (g : BitVec 3) (d : BitVec 6) (a : BitVec 6) (r : BitVec 3) : Statement (.xcvtN64Xf c g d a r) := Nat.le_succ 1
theorem xrnd (c : BitVec 1) (g : BitVec 3) (d : BitVec 6) (a : BitVec 6) : Statement (.xrnd c g d a) := Nat.le_succ 1
theorem xrint (c : BitVec 1) (g : BitVec 3) (d : BitVec 6) (a : BitVec 6) : Statement (.xrint c g d a) := Nat.le_succ 1
theorem xcmp (c : BitVec 1) (g : BitVec 3) (p : BitVec 3) (a : BitVec 6) (b : BitVec 6) (k : BitVec 4) : Statement (.xcmp c g p a b k) := Nat.le_succ 1
theorem setp (c : BitVec 1) (g : BitVec 3) (n : BitVec 8) : Statement (.setp c g n) := Nat.le_succ 1
theorem setrm (c : BitVec 1) (g : BitVec 3) (m : BitVec 3) : Statement (.setrm c g m) := Nat.le_succ 1
theorem setx (c : BitVec 1) (g : BitVec 3) (x : BitVec 1) : Statement (.setx c g x) := Nat.le_succ 1
theorem addp (c : BitVec 1) (g : BitVec 3) (k : BitVec 9) : Statement (.addp c g k) := Nat.le_succ 1
theorem setpReg (c : BitVec 1) (g : BitVec 3) (a : BitVec 6) : Statement (.setpReg c g a) := Nat.le_succ 1
theorem clrxuf (c : BitVec 1) (g : BitVec 3) : Statement (.clrxuf c g) := Nat.le_succ 1
theorem xld (c : BitVec 1) (g : BitVec 3) (d : BitVec 6) (a : BitVec 6) (o : BitVec 10) (lit : BitVec 32) : Statement (.xld c g d a o lit) := Nat.succ_le_succ (litTail_length _ _)
theorem xldR (c : BitVec 1) (g : BitVec 3) (d : BitVec 6) (a : BitVec 6) : Statement (.xldR c g d a) := Nat.le_succ 1
theorem xst (c : BitVec 1) (g : BitVec 3) (d : BitVec 6) (a : BitVec 6) : Statement (.xst c g d a) := Nat.le_succ 1
theorem xstMin (c : BitVec 1) (g : BitVec 3) (d : BitVec 6) (a : BitVec 6) : Statement (.xstMin c g d a) := Nat.le_succ 1
theorem xlds (c : BitVec 1) (g : BitVec 3) (d : BitVec 6) (a : BitVec 6) : Statement (.xlds c g d a) := Nat.le_succ 1
theorem xldsR (c : BitVec 1) (g : BitVec 3) (d : BitVec 6) (a : BitVec 6) : Statement (.xldsR c g d a) := Nat.le_succ 1
theorem xsts (c : BitVec 1) (g : BitVec 3) (d : BitVec 6) (a : BitVec 6) : Statement (.xsts c g d a) := Nat.le_succ 1
theorem xstsMin (c : BitVec 1) (g : BitVec 3) (d : BitVec 6) (a : BitVec 6) : Statement (.xstsMin c g d a) := Nat.le_succ 1
theorem ld32 (c : BitVec 1) (g : BitVec 3) (d : BitVec 6) (a : BitVec 6) (o : BitVec 10) (lit : BitVec 32) : Statement (.ld32 c g d a o lit) := Nat.succ_le_succ (litTail_length _ _)
theorem st32 (c : BitVec 1) (g : BitVec 3) (d : BitVec 6) (a : BitVec 6) (o : BitVec 10) (lit : BitVec 32) : Statement (.st32 c g d a o lit) := Nat.succ_le_succ (litTail_length _ _)
theorem ld64 (c : BitVec 1) (g : BitVec 3) (d : BitVec 6) (a : BitVec 6) (o : BitVec 10) (lit : BitVec 32) : Statement (.ld64 c g d a o lit) := Nat.succ_le_succ (litTail_length _ _)
theorem st64 (c : BitVec 1) (g : BitVec 3) (d : BitVec 6) (a : BitVec 6) (o : BitVec 10) (lit : BitVec 32) : Statement (.st64 c g d a o lit) := Nat.succ_le_succ (litTail_length _ _)
theorem ld128 (c : BitVec 1) (g : BitVec 3) (d : BitVec 6) (a : BitVec 6) (o : BitVec 10) (lit : BitVec 32) : Statement (.ld128 c g d a o lit) := Nat.succ_le_succ (litTail_length _ _)
theorem st128 (c : BitVec 1) (g : BitVec 3) (d : BitVec 6) (a : BitVec 6) (o : BitVec 10) (lit : BitVec 32) : Statement (.st128 c g d a o lit) := Nat.succ_le_succ (litTail_length _ _)
theorem ldN8 (c : BitVec 1) (g : BitVec 3) (d : BitVec 6) (a : BitVec 6) : Statement (.ldN8 c g d a) := Nat.le_succ 1
theorem ldN16 (c : BitVec 1) (g : BitVec 3) (d : BitVec 6) (a : BitVec 6) : Statement (.ldN16 c g d a) := Nat.le_succ 1
theorem ldN16H0 (c : BitVec 1) (g : BitVec 3) (d : BitVec 6) (a : BitVec 6) : Statement (.ldN16H0 c g d a) := Nat.le_succ 1
theorem ldN16H1 (c : BitVec 1) (g : BitVec 3) (d : BitVec 6) (a : BitVec 6) : Statement (.ldN16H1 c g d a) := Nat.le_succ 1
theorem stN8 (c : BitVec 1) (g : BitVec 3) (d : BitVec 6) (a : BitVec 6) : Statement (.stN8 c g d a) := Nat.le_succ 1
theorem stN16 (c : BitVec 1) (g : BitVec 3) (d : BitVec 6) (a : BitVec 6) : Statement (.stN16 c g d a) := Nat.le_succ 1
theorem stN16H1 (c : BitVec 1) (g : BitVec 3) (d : BitVec 6) (a : BitVec 6) : Statement (.stN16H1 c g d a) := Nat.le_succ 1
theorem ldAcq32 (c : BitVec 1) (g : BitVec 3) (d : BitVec 6) (a : BitVec 6) : Statement (.ldAcq32 c g d a) := Nat.le_succ 1
theorem ldAcq64 (c : BitVec 1) (g : BitVec 3) (d : BitVec 6) (a : BitVec 6) : Statement (.ldAcq64 c g d a) := Nat.le_succ 1
theorem stRel32 (c : BitVec 1) (g : BitVec 3) (d : BitVec 6) (a : BitVec 6) : Statement (.stRel32 c g d a) := Nat.le_succ 1
theorem stRel64 (c : BitVec 1) (g : BitVec 3) (d : BitVec 6) (a : BitVec 6) : Statement (.stRel64 c g d a) := Nat.le_succ 1
theorem ldAcq128 (c : BitVec 1) (g : BitVec 3) (d : BitVec 6) (a : BitVec 6) : Statement (.ldAcq128 c g d a) := Nat.le_succ 1
theorem stRel128 (c : BitVec 1) (g : BitVec 3) (d : BitVec 6) (a : BitVec 6) : Statement (.stRel128 c g d a) := Nat.le_succ 1
theorem ldUniformBase (c : BitVec 1) (g : BitVec 3) (d : BitVec 6) (a : BitVec 6) (s : BitVec 8) : Statement (.ldUniformBase c g d a s) := Nat.le_succ 1
theorem stUniformBase (c : BitVec 1) (g : BitVec 3) (d : BitVec 6) (a : BitVec 6) (s : BitVec 8) : Statement (.stUniformBase c g d a s) := Nat.le_succ 1
theorem ld64UniformBase (c : BitVec 1) (g : BitVec 3) (d : BitVec 6) (a : BitVec 6) (s : BitVec 8) : Statement (.ld64UniformBase c g d a s) := Nat.le_succ 1
theorem st64UniformBase (c : BitVec 1) (g : BitVec 3) (d : BitVec 6) (a : BitVec 6) (s : BitVec 8) : Statement (.st64UniformBase c g d a s) := Nat.le_succ 1
theorem atomAddI32 (c : BitVec 1) (g : BitVec 3) (d : BitVec 6) (a : BitVec 6) (b : BitVec 6) : Statement (.atomAddI32 c g d a b) := Nat.le_succ 1
theorem atomMinI32 (c : BitVec 1) (g : BitVec 3) (d : BitVec 6) (a : BitVec 6) (b : BitVec 6) : Statement (.atomMinI32 c g d a b) := Nat.le_succ 1
theorem atomMaxI32 (c : BitVec 1) (g : BitVec 3) (d : BitVec 6) (a : BitVec 6) (b : BitVec 6) : Statement (.atomMaxI32 c g d a b) := Nat.le_succ 1
theorem atomMinN32 (c : BitVec 1) (g : BitVec 3) (d : BitVec 6) (a : BitVec 6) (b : BitVec 6) : Statement (.atomMinN32 c g d a b) := Nat.le_succ 1
theorem atomMaxN32 (c : BitVec 1) (g : BitVec 3) (d : BitVec 6) (a : BitVec 6) (b : BitVec 6) : Statement (.atomMaxN32 c g d a b) := Nat.le_succ 1
theorem atomAnd (c : BitVec 1) (g : BitVec 3) (d : BitVec 6) (a : BitVec 6) (b : BitVec 6) : Statement (.atomAnd c g d a b) := Nat.le_succ 1
theorem atomOr (c : BitVec 1) (g : BitVec 3) (d : BitVec 6) (a : BitVec 6) (b : BitVec 6) : Statement (.atomOr c g d a b) := Nat.le_succ 1
theorem atomXor (c : BitVec 1) (g : BitVec 3) (d : BitVec 6) (a : BitVec 6) (b : BitVec 6) : Statement (.atomXor c g d a b) := Nat.le_succ 1
theorem atomExch (c : BitVec 1) (g : BitVec 3) (d : BitVec 6) (a : BitVec 6) (b : BitVec 6) : Statement (.atomExch c g d a b) := Nat.le_succ 1
theorem atomCas (c : BitVec 1) (g : BitVec 3) (d : BitVec 6) (a : BitVec 6) (b : BitVec 6) : Statement (.atomCas c g d a b) := Nat.le_succ 1
theorem atomAddI64 (c : BitVec 1) (g : BitVec 3) (d : BitVec 6) (a : BitVec 6) (b : BitVec 6) : Statement (.atomAddI64 c g d a b) := Nat.le_succ 1
theorem atomMaxN64 (c : BitVec 1) (g : BitVec 3) (d : BitVec 6) (a : BitVec 6) (b : BitVec 6) : Statement (.atomMaxN64 c g d a b) := Nat.le_succ 1
theorem atomExch64 (c : BitVec 1) (g : BitVec 3) (d : BitVec 6) (a : BitVec 6) (b : BitVec 6) : Statement (.atomExch64 c g d a b) := Nat.le_succ 1
theorem atomCas64 (c : BitVec 1) (g : BitVec 3) (d : BitVec 6) (a : BitVec 6) (b : BitVec 6) : Statement (.atomCas64 c g d a b) := Nat.le_succ 1
theorem atomOrdered (c : BitVec 1) (g : BitVec 3) (d : BitVec 6) (a : BitVec 6) (b : BitVec 6) (lit : BitVec 32) : Statement (.atomOrdered c g d a b lit) := Nat.le_refl 2
theorem red (c : BitVec 1) (g : BitVec 3) (r : BitVec 6) (a : BitVec 6) (b : BitVec 6) : Statement (.red c g r a b) := Nat.le_succ 1
theorem fence (g : BitVec 3) : Statement (.fence g) := Nat.le_succ 1
theorem fenceAcq (g : BitVec 3) : Statement (.fenceAcq g) := Nat.le_succ 1
theorem fenceRel (g : BitVec 3) : Statement (.fenceRel g) := Nat.le_succ 1
theorem prefetch (c : BitVec 1) (g : BitVec 3) (a : BitVec 6) (o : BitVec 10) (lit : BitVec 32) : Statement (.prefetch c g a o lit) := Nat.succ_le_succ (litTail_length _ _)
theorem prefetchL2 (c : BitVec 1) (g : BitVec 3) (a : BitVec 6) (o : BitVec 10) (lit : BitVec 32) : Statement (.prefetchL2 c g a o lit) := Nat.succ_le_succ (litTail_length _ _)
theorem pluckAt (c : BitVec 1) (g : BitVec 3) (d : BitVec 6) (a : BitVec 6) (s : BitVec 8) : Statement (.pluckAt c g d a s) := Nat.le_succ 1
theorem pluckBelow (c : BitVec 1) (g : BitVec 3) (d : BitVec 6) (a : BitVec 6) (s : BitVec 8) : Statement (.pluckBelow c g d a s) := Nat.le_succ 1
theorem pluckAbove (c : BitVec 1) (g : BitVec 3) (d : BitVec 6) (a : BitVec 6) (s : BitVec 8) : Statement (.pluckAbove c g d a s) := Nat.le_succ 1
theorem pluckFlip (c : BitVec 1) (g : BitVec 3) (d : BitVec 6) (a : BitVec 6) (s : BitVec 8) : Statement (.pluckFlip c g d a s) := Nat.le_succ 1
theorem pollAll (c : BitVec 1) (g : BitVec 3) (d : BitVec 6) (a : BitVec 6) (s : BitVec 8) : Statement (.pollAll c g d a s) := Nat.le_succ 1
theorem pollAny (c : BitVec 1) (g : BitVec 3) (d : BitVec 6) (a : BitVec 6) (s : BitVec 8) : Statement (.pollAny c g d a s) := Nat.le_succ 1
theorem pollMask (c : BitVec 1) (g : BitVec 3) (d : BitVec 6) (a : BitVec 6) (s : BitVec 8) : Statement (.pollMask c g d a s) := Nat.le_succ 1
theorem pollSame (c : BitVec 1) (g : BitVec 3) (d : BitVec 6) (a : BitVec 6) (s : BitVec 8) : Statement (.pollSame c g d a s) := Nat.le_succ 1
theorem gredAddI32 (c : BitVec 1) (g : BitVec 3) (d : BitVec 6) (a : BitVec 6) (s : BitVec 8) : Statement (.gredAddI32 c g d a s) := Nat.le_succ 1
theorem gredMinI32 (c : BitVec 1) (g : BitVec 3) (d : BitVec 6) (a : BitVec 6) (s : BitVec 8) : Statement (.gredMinI32 c g d a s) := Nat.le_succ 1
theorem gredMaxI32 (c : BitVec 1) (g : BitVec 3) (d : BitVec 6) (a : BitVec 6) (s : BitVec 8) : Statement (.gredMaxI32 c g d a s) := Nat.le_succ 1
theorem gredMaxiN32 (c : BitVec 1) (g : BitVec 3) (d : BitVec 6) (a : BitVec 6) (s : BitVec 8) : Statement (.gredMaxiN32 c g d a s) := Nat.le_succ 1
theorem gredAddF32 (c : BitVec 1) (g : BitVec 3) (d : BitVec 6) (a : BitVec 6) (s : BitVec 8) : Statement (.gredAddF32 c g d a s) := Nat.le_succ 1
theorem gredMinF32 (c : BitVec 1) (g : BitVec 3) (d : BitVec 6) (a : BitVec 6) (s : BitVec 8) : Statement (.gredMinF32 c g d a s) := Nat.le_succ 1
theorem gredMaxF32 (c : BitVec 1) (g : BitVec 3) (d : BitVec 6) (a : BitVec 6) (s : BitVec 8) : Statement (.gredMaxF32 c g d a s) := Nat.le_succ 1
theorem gredMaxiF32 (c : BitVec 1) (g : BitVec 3) (d : BitVec 6) (a : BitVec 6) (s : BitVec 8) : Statement (.gredMaxiF32 c g d a s) := Nat.le_succ 1
theorem gscanAddI32 (c : BitVec 1) (g : BitVec 3) (d : BitVec 6) (a : BitVec 6) (s : BitVec 8) : Statement (.gscanAddI32 c g d a s) := Nat.le_succ 1
theorem gscanAddXI32 (c : BitVec 1) (g : BitVec 3) (d : BitVec 6) (a : BitVec 6) (s : BitVec 8) : Statement (.gscanAddXI32 c g d a s) := Nat.le_succ 1
theorem gscanMaxI32 (c : BitVec 1) (g : BitVec 3) (d : BitVec 6) (a : BitVec 6) (s : BitVec 8) : Statement (.gscanMaxI32 c g d a s) := Nat.le_succ 1
theorem gcompact (c : BitVec 1) (g : BitVec 3) (d : BitVec 6) (a : BitVec 6) (s : BitVec 8) : Statement (.gcompact c g d a s) := Nat.le_succ 1
theorem topk (c : BitVec 1) (g : BitVec 3) (d : BitVec 6) (a : BitVec 6) (s : BitVec 8) : Statement (.topk c g d a s) := Nat.le_succ 1
theorem gsync (c : BitVec 1) (g : BitVec 3) (s : BitVec 8) : Statement (.gsync c g s) := Nat.le_succ 1
theorem push (c : BitVec 1) (g : BitVec 3) (p : BitVec 3) (l : BitVec 3) (s : BitVec 8) : Statement (.push c g p l s) := Nat.le_succ 1
theorem obres (c : BitVec 1) (g : BitVec 3) (k : BitVec 4) (s : BitVec 8) : Statement (.obres c g k s) := Nat.le_succ 1
theorem obrel (c : BitVec 1) (g : BitVec 3) (k : BitVec 4) : Statement (.obrel c g k) := Nat.le_succ 1
theorem accrd (c : BitVec 1) (g : BitVec 3) (d : BitVec 6) (a : BitVec 6) : Statement (.accrd c g d a) := Nat.le_succ 1
theorem accwr (c : BitVec 1) (g : BitVec 3) (a : BitVec 6) (b : BitVec 6) : Statement (.accwr c g a b) := Nat.le_succ 1
theorem accrd128 (c : BitVec 1) (g : BitVec 3) (d : BitVec 6) (a : BitVec 6) : Statement (.accrd128 c g d a) := Nat.le_succ 1
theorem accwr128 (c : BitVec 1) (g : BitVec 3) (a : BitVec 6) (b : BitVec 6) : Statement (.accwr128 c g a b) := Nat.le_succ 1
theorem accaddF32 (c : BitVec 1) (g : BitVec 3) (a : BitVec 6) (b : BitVec 6) : Statement (.accaddF32 c g a b) := Nat.le_succ 1
theorem accaddI32 (c : BitVec 1) (g : BitVec 3) (a : BitVec 6) (b : BitVec 6) : Statement (.accaddI32 c g a b) := Nat.le_succ 1
theorem waitc (g : BitVec 3) (l : BitVec 3) (n : BitVec 8) : Statement (.waitc g l n) := Nat.le_succ 1
theorem waitcCons (g : BitVec 3) (n : BitVec 8) : Statement (.waitcCons g n) := Nat.le_succ 1
theorem waitany (g : BitVec 3) (s : BitVec 8) : Statement (.waitany g s) := Nat.le_succ 1
theorem waitall (g : BitVec 3) (s : BitVec 8) : Statement (.waitall g s) := Nat.le_succ 1
theorem ffr (c : BitVec 1) (g : BitVec 3) (d : BitVec 6) (s : BitVec 8) : Statement (.ffr c g d s) := Nat.le_succ 1
theorem bra (p : BitVec 3) (h : BitVec 1) (t : BitVec 21) : Statement (.bra p h t) := Nat.le_succ 1
theorem call (t : BitVec 21) : Statement (.call t) := Nat.le_succ 1
theorem ret : Statement (.ret) := Nat.le_succ 1
theorem tcall (w : BitVec 8) (e : BitVec 8) (g : BitVec 1) (lit : BitVec 32) : Statement (.tcall w e g lit) := Nat.le_refl 2
theorem tret : Statement (.tret) := Nat.le_succ 1
theorem exit : Statement (.exit) := Nat.le_succ 1
theorem brx (a : BitVec 6) : Statement (.brx a) := Nat.le_succ 1
theorem callx (a : BitVec 6) : Statement (.callx a) := Nat.le_succ 1
theorem tutti (b : BitVec 2) : Statement (.tutti b) := Nat.le_succ 1
theorem tuttiArv (b : BitVec 2) (p : BitVec 3) : Statement (.tuttiArv b p) := Nat.le_succ 1
theorem tuttiWait (b : BitVec 2) (p : BitVec 3) : Statement (.tuttiWait b p) := Nat.le_succ 1
theorem cbar : Statement (.cbar) := Nat.le_succ 1
theorem gbar : Statement (.gbar) := Nat.le_succ 1
theorem elect (p : BitVec 3) : Statement (.elect p) := Nat.le_succ 1
theorem bowwait : Statement (.bowwait) := Nat.le_succ 1
theorem bowpass : Statement (.bowpass) := Nat.le_succ 1
theorem setkeyImm (k : BitVec 8) : Statement (.setkeyImm k) := Nat.le_succ 1
theorem setkeyReg (a : BitVec 6) : Statement (.setkeyReg a) := Nat.le_succ 1
theorem brk (k : BitVec 16) : Statement (.brk k) := Nat.le_succ 1
theorem trap (k : BitVec 16) : Statement (.trap k) := Nat.le_succ 1
theorem yield (n : BitVec 10) : Statement (.yield n) := Nat.le_succ 1
theorem mfsrV (c : BitVec 1) (d : BitVec 6) (n : BitVec 8) : Statement (.mfsrV c d n) := Nat.le_succ 1
theorem mfsrU (c : BitVec 1) (d : BitVec 8) (n : BitVec 8) : Statement (.mfsrU c d n) := Nat.le_succ 1
theorem mtsrV (c : BitVec 1) (a : BitVec 6) (n : BitVec 8) : Statement (.mtsrV c a n) := Nat.le_succ 1
theorem mtsrU (c : BitVec 1) (n : BitVec 8) (s : BitVec 8) : Statement (.mtsrU c n s) := Nat.le_succ 1
theorem stallingWaitEnd (op : Nat) : Statement (.stallingWaitEnd op) := Nat.zero_le 2
theorem damagedFlit (link : Nat) : Statement (.damagedFlit link) := Nat.zero_le 2

end Sys2Proof.Laws.Encoding
end

