-- ==== Sys2Proof/Tests/Slice0.lean ====
section
/-!
SUPPORT. Tests/Slice0.lean: words written out from the encoding tables, terms that the well-formedness checks refuse, one step at a time
on a small machine, and for each statement a state and operands that meet its hypotheses. The expected values come from the rules that
the comments name, worked by hand.
-/

set_option Elab.async false

namespace Sys2Proof.Tests

open Sys2Proof Sys2Proof.Machine

/-! ## Words and what they decode to, one major at a time (R162 to R164, R168) -/

theorem test_words_00_0 :
    decodeWord 0x815490C0#32 none = .ok (.iadd 1#1 5#3 20#6 36#6 12#6) ∧
      decodeWord 0x815490C1#32 none = .ok (.isub 1#1 5#3 20#6 36#6 12#6) ∧
      decodeWord 0x815490C2#32 none = .ok (.imul 1#1 5#3 20#6 36#6 12#6) ∧
      decodeWord 0x815490C3#32 none = .ok (.imulhiI32 1#1 5#3 20#6 36#6 12#6) ∧
      decodeWord 0x815490C4#32 none = .ok (.imulhiN32 1#1 5#3 20#6 36#6 12#6) ∧
      decodeWord 0x815490C5#32 none = .ok (.iminI32 1#1 5#3 20#6 36#6 12#6) ∧
      decodeWord 0x815490C6#32 none = .ok (.iminN32 1#1 5#3 20#6 36#6 12#6) ∧
      decodeWord 0x815490C7#32 none = .ok (.imaxI32 1#1 5#3 20#6 36#6 12#6) ∧
      decodeWord 0x815490C8#32 none = .ok (.imaxN32 1#1 5#3 20#6 36#6 12#6) ∧
      decodeWord 0x815490C9#32 none = .ok (.iaddSatI32 1#1 5#3 20#6 36#6 12#6) ∧
      decodeWord 0x815490CA#32 none = .ok (.iaddSatN32 1#1 5#3 20#6 36#6 12#6) ∧
      decodeWord 0x815490CB#32 none = .ok (.isubSatI32 1#1 5#3 20#6 36#6 12#6) ∧
      decodeWord 0x815490CC#32 none = .ok (.isubSatN32 1#1 5#3 20#6 36#6 12#6) ∧
      decodeWord 0x815490CD#32 none = .ok (.iaddI64 1#1 5#3 20#6 36#6 12#6) := ⟨rfl, rfl, rfl, rfl, rfl, rfl, rfl, rfl, rfl, rfl, rfl, rfl, rfl, rfl⟩

theorem test_words_00_1 :
    decodeWord 0x815490CE#32 none = .ok (.isubI64 1#1 5#3 20#6 36#6 12#6) ∧
      decodeWord 0x815490CF#32 none = .ok (.imad 1#1 5#3 20#6 36#6 12#6) := ⟨rfl, rfl⟩

theorem test_words_01 :
    decodeWord 0x835490C0#32 none = .ok (.and 1#1 5#3 20#6 36#6 12#6) ∧
      decodeWord 0x835490C1#32 none = .ok (.or 1#1 5#3 20#6 36#6 12#6) ∧
      decodeWord 0x835490C2#32 none = .ok (.xor 1#1 5#3 20#6 36#6 12#6) ∧
      decodeWord 0x835490C3#32 none = .ok (.andn 1#1 5#3 20#6 36#6 12#6) ∧
      decodeWord 0x83549004#32 none = .ok (.not 1#1 5#3 20#6 36#6) ∧
      decodeWord 0x835490C5#32 none = .ok (.shl 1#1 5#3 20#6 36#6 12#6) ∧
      decodeWord 0x835490C6#32 none = .ok (.shr 1#1 5#3 20#6 36#6 12#6) ∧
      decodeWord 0x835490C7#32 none = .ok (.sar 1#1 5#3 20#6 36#6 12#6) ∧
      decodeWord 0x835490C8#32 none = .ok (.rotl 1#1 5#3 20#6 36#6 12#6) ∧
      decodeWord 0x835490C9#32 none = .ok (.rotr 1#1 5#3 20#6 36#6 12#6) := ⟨rfl, rfl, rfl, rfl, rfl, rfl, rfl, rfl, rfl, rfl⟩

theorem test_words_02 :
    decodeWord 0x855490C0#32 none = .ok (.bitgetN32 1#1 5#3 20#6 36#6 12#6) ∧
      decodeWord 0x855490C1#32 none = .ok (.bitgetI32 1#1 5#3 20#6 36#6 12#6) ∧
      decodeWord 0x855490C2#32 none = .ok (.bitins 1#1 5#3 20#6 36#6 12#6) ∧
      decodeWord 0x85549003#32 none = .ok (.popc 1#1 5#3 20#6 36#6) ∧
      decodeWord 0x85549004#32 none = .ok (.clz 1#1 5#3 20#6 36#6) ∧
      decodeWord 0x85549005#32 none = .ok (.ctz 1#1 5#3 20#6 36#6) ∧
      decodeWord 0x85549006#32 none = .ok (.brev 1#1 5#3 20#6 36#6) ∧
      decodeWord 0x855490C9#32 none = .ok (.sel 1#1 5#3 20#6 36#6 12#6 1#3) := ⟨rfl, rfl, rfl, rfl, rfl, rfl, rfl, rfl⟩

theorem test_words_03 :
    decodeWord 0x87549268#32 none = .ok (.iaddUniform 1#1 5#3 20#6 36#6 154#8) ∧
      decodeWord 0x87549269#32 none = .ok (.isubUniform 1#1 5#3 20#6 36#6 154#8) ∧
      decodeWord 0x8754926A#32 none = .ok (.imulUniform 1#1 5#3 20#6 36#6 154#8) ∧
      decodeWord 0x8754926B#32 none = .ok (.andUniform 1#1 5#3 20#6 36#6 154#8) := ⟨rfl, rfl, rfl, rfl⟩

theorem test_words_04 :
    decodeWord 0x89549200#32 (some 0x9ABCDEF0#32) = .ok (.iaddImm 1#1 5#3 20#6 36#6 512#10 0x9ABCDEF0#32) := rfl

theorem test_words_05 :
    decodeWord 0x8B549200#32 (some 0x9ABCDEF0#32) = .ok (.andImm 1#1 5#3 20#6 36#6 512#10 0x9ABCDEF0#32) := rfl

theorem test_words_06 :
    decodeWord 0x8D549200#32 (some 0x9ABCDEF0#32) = .ok (.orImm 1#1 5#3 20#6 36#6 512#10 0x9ABCDEF0#32) := rfl

theorem test_words_07 :
    decodeWord 0x8F549200#32 (some 0x9ABCDEF0#32) = .ok (.xorImm 1#1 5#3 20#6 36#6 512#10 0x9ABCDEF0#32) := rfl

theorem test_words_08 :
    decodeWord 0x91549200#32 (some 0x9ABCDEF0#32) = .ok (.shlImm 1#1 5#3 20#6 36#6 512#10 0x9ABCDEF0#32) := rfl

theorem test_words_09 :
    decodeWord 0x935C8609#32 none = .ok (.icmp 1#1 5#3 3#3 36#6 12#6 1#4 1#3) := rfl

theorem test_words_0A :
    decodeWord 0x95549000#32 none = .ok (.mov 1#1 5#3 20#6 36#6) ∧
      decodeWord 0x95549001#32 none = .ok (.mov64 1#1 5#3 20#6 36#6) ∧
      decodeWord 0x95441042#32 none = .ok (.pand 1#1 5#3 4#3 4#3 4#3) ∧
      decodeWord 0x95441043#32 none = .ok (.por 1#1 5#3 4#3 4#3 4#3) ∧
      decodeWord 0x95441044#32 none = .ok (.pxor 1#1 5#3 4#3 4#3 4#3) ∧
      decodeWord 0x95441045#32 none = .ok (.pandn 1#1 5#3 4#3 4#3 4#3) ∧
      decodeWord 0x95541006#32 none = .ok (.pmov 1#1 5#3 20#6 4#3) ∧
      decodeWord 0x95449007#32 none = .ok (.ptst 1#1 5#3 4#3 36#6) ∧
      decodeWord 0x955490C8#32 none = .ok (.rand 1#1 5#3 20#6 36#6 12#6) ∧
      decodeWord 0x95549009#32 none = .ok (.movH0 1#1 5#3 20#6 36#6) ∧
      decodeWord 0x9554900A#32 none = .ok (.movH1 1#1 5#3 20#6 36#6) := ⟨rfl, rfl, rfl, rfl, rfl, rfl, rfl, rfl, rfl, rfl, rfl⟩

theorem test_words_0B :
    decodeWord 0x97540200#32 (some 0x9ABCDEF0#32) = .ok (.movImm 1#1 5#3 20#6 512#10 0x9ABCDEF0#32) := rfl

theorem test_words_0C :
    decodeWord 0x9805090C#32 none = .ok (.uadd 1#1 20#8 36#8 12#6) ∧
      decodeWord 0x9845090C#32 none = .ok (.usub 1#1 20#8 36#8 12#6) ∧
      decodeWord 0x9885090C#32 none = .ok (.umul 1#1 20#8 36#8 12#6) ∧
      decodeWord 0x98C5090C#32 none = .ok (.uand 1#1 20#8 36#8 12#6) ∧
      decodeWord 0x9905090C#32 none = .ok (.uor 1#1 20#8 36#8 12#6) ∧
      decodeWord 0x9945090C#32 none = .ok (.uxor 1#1 20#8 36#8 12#6) ∧
      decodeWord 0x9985090C#32 none = .ok (.ushl 1#1 20#8 36#8 12#6) ∧
      decodeWord 0x99C5090C#32 none = .ok (.ushr 1#1 20#8 36#8 12#6) := ⟨rfl, rfl, rfl, rfl, rfl, rfl, rfl, rfl⟩

theorem test_words_0D :
    decodeWord 0x9A050920#32 (some 0x9ABCDEF0#32) = .ok (.uaddImm 1#1 20#8 36#8 32#6 0x9ABCDEF0#32) ∧
      decodeWord 0x9A450931#32 none = .ok (.usubImm 1#1 20#8 36#8 49#6 0x0#32) ∧
      decodeWord 0x9A850931#32 none = .ok (.umulImm 1#1 20#8 36#8 49#6 0x0#32) ∧
      decodeWord 0x9AC50931#32 none = .ok (.uandImm 1#1 20#8 36#8 49#6 0x0#32) ∧
      decodeWord 0x9B050931#32 none = .ok (.uorImm 1#1 20#8 36#8 49#6 0x0#32) ∧
      decodeWord 0x9B450931#32 none = .ok (.uxorImm 1#1 20#8 36#8 49#6 0x0#32) ∧
      decodeWord 0x9B850931#32 none = .ok (.ushlImm 1#1 20#8 36#8 49#6 0x0#32) ∧
      decodeWord 0x9BC50931#32 none = .ok (.ushrImm 1#1 20#8 36#8 49#6 0x0#32) := ⟨rfl, rfl, rfl, rfl, rfl, rfl, rfl, rfl⟩

theorem test_words_0E :
    decodeWord 0x9C149A00#32 none = .ok (.movVFromS 1#1 20#6 154#8) ∧
      decodeWord 0x9C452400#32 none = .ok (.movSFromV 1#1 20#8 36#6) ∧
      decodeWord 0x9C949A00#32 none = .ok (.mov64VFromS 1#1 20#6 154#8) ∧
      decodeWord 0x9CC52400#32 none = .ok (.mov64SFromV 1#1 20#8 36#6) := ⟨rfl, rfl, rfl, rfl⟩

theorem test_words_0F :
    decodeWord 0x9E050020#32 (some 0x9ABCDEF0#32) = .ok (.movUniformImm 1#1 20#8 32#6 0x9ABCDEF0#32) ∧
      decodeWord 0x9E40C931#32 none = .ok (.ucmp 1#1 1#3 3#3 36#8 49#6 0x0#32) := ⟨rfl, rfl⟩

theorem test_words_10 :
    decodeWord 0xA15490C0#32 none = .ok (.faddF32 1#1 5#3 20#6 36#6 12#6) ∧
      decodeWord 0xA15490C1#32 none = .ok (.fsubF32 1#1 5#3 20#6 36#6 12#6) ∧
      decodeWord 0xA15490C2#32 none = .ok (.fmulF32 1#1 5#3 20#6 36#6 12#6) ∧
      decodeWord 0xA15490C3#32 none = .ok (.ffmaF32 1#1 5#3 20#6 36#6 12#6) ∧
      decodeWord 0xA15490C4#32 none = .ok (.ffmsF32 1#1 5#3 20#6 36#6 12#6) ∧
      decodeWord 0xA15490C5#32 none = .ok (.fnmaF32 1#1 5#3 20#6 36#6 12#6) := ⟨rfl, rfl, rfl, rfl, rfl, rfl⟩

theorem test_words_11 :
    decodeWord 0xA35490C0#32 none = .ok (.fminF32 1#1 5#3 20#6 36#6 12#6) ∧
      decodeWord 0xA35490C1#32 none = .ok (.fmaxF32 1#1 5#3 20#6 36#6 12#6) ∧
      decodeWord 0xA3549002#32 none = .ok (.fabsF32 1#1 5#3 20#6 36#6) ∧
      decodeWord 0xA3549003#32 none = .ok (.fnegF32 1#1 5#3 20#6 36#6) ∧
      decodeWord 0xA35490C4#32 none = .ok (.fcopysignF32 1#1 5#3 20#6 36#6 12#6) ∧
      decodeWord 0xA35490C5#32 none = .ok (.fminNumF32 1#1 5#3 20#6 36#6 12#6) ∧
      decodeWord 0xA35490C6#32 none = .ok (.fmaxNumF32 1#1 5#3 20#6 36#6 12#6) := ⟨rfl, rfl, rfl, rfl, rfl, rfl, rfl⟩

theorem test_words_12 :
    decodeWord 0xA75490C0#32 none = .ok (.faddF16 1#1 1#1 5#3 20#6 36#6 12#6) ∧
      decodeWord 0xA75490C1#32 none = .ok (.fsubF16 1#1 1#1 5#3 20#6 36#6 12#6) ∧
      decodeWord 0xA75490C2#32 none = .ok (.fmulF16 1#1 1#1 5#3 20#6 36#6 12#6) ∧
      decodeWord 0xA7549003#32 none = .ok (.fabsF16 1#1 1#1 5#3 20#6 36#6) ∧
      decodeWord 0xA7549004#32 none = .ok (.fnegF16 1#1 1#1 5#3 20#6 36#6) ∧
      decodeWord 0xA75490C5#32 none = .ok (.fdot2F16 1#1 1#1 5#3 20#6 36#6 12#6) := ⟨rfl, rfl, rfl, rfl, rfl, rfl⟩

theorem test_words_14 :
    decodeWord 0xA9549268#32 none = .ok (.faddF32Uniform 1#1 5#3 20#6 36#6 154#8) ∧
      decodeWord 0xA9549269#32 none = .ok (.fmulF32Uniform 1#1 5#3 20#6 36#6 154#8) ∧
      decodeWord 0xA954926A#32 none = .ok (.ffmaF32Uniform 1#1 5#3 20#6 36#6 154#8) ∧
      decodeWord 0xA954926B#32 none = .ok (.fsubF32Uniform 1#1 5#3 20#6 36#6 154#8) := ⟨rfl, rfl, rfl, rfl⟩

theorem test_words_15 :
    decodeWord 0xAB549200#32 (some 0x9ABCDEF0#32) = .ok (.fmulF32Imm 1#1 5#3 20#6 36#6 512#10 0x9ABCDEF0#32) := rfl

theorem test_words_16 :
    decodeWord 0xAD5C8609#32 none = .ok (.fcmp 1#1 5#3 3#3 36#6 12#6 1#4 1#3) ∧
      decodeWord 0xAD5C8641#32 none = .ok (.fclass 1#1 5#3 3#3 36#6 12#6 1#3) := ⟨rfl, rfl⟩

theorem test_words_17 :
    decodeWord 0xAF549100#32 none = .ok (.frndF32 1#1 5#3 20#6 36#6 2#3) ∧
      decodeWord 0xAF549001#32 none = .ok (.cvtToF32 1#1 5#3 20#6 36#6 0#3 0#2 1#4) := ⟨rfl, rfl⟩

theorem test_words_18 :
    decodeWord 0xB1549141#32 none = .ok (.cvtFromF32 1#1 5#3 20#6 36#6 2#3 1#1 0#2 1#4) := rfl

theorem test_words_19 :
    decodeWord 0xB35490CB#32 none = .ok (.cvtPk 1#1 5#3 20#6 36#6 12#6 1#1 3#3) := rfl

theorem test_words_1A :
    decodeWord 0xB5549000#32 none = .ok (.frcpF32 1#1 5#3 20#6 36#6) ∧
      decodeWord 0xB5549001#32 none = .ok (.frsqF32 1#1 5#3 20#6 36#6) ∧
      decodeWord 0xB5549002#32 none = .ok (.fsqrtF32 1#1 5#3 20#6 36#6) ∧
      decodeWord 0xB5549003#32 none = .ok (.fexp2F32 1#1 5#3 20#6 36#6) ∧
      decodeWord 0xB5549004#32 none = .ok (.flog2F32 1#1 5#3 20#6 36#6) ∧
      decodeWord 0xB5549005#32 none = .ok (.ftanhF32 1#1 5#3 20#6 36#6) ∧
      decodeWord 0xB5549006#32 none = .ok (.fsinF32 1#1 5#3 20#6 36#6) ∧
      decodeWord 0xB5549007#32 none = .ok (.fcosF32 1#1 5#3 20#6 36#6) := ⟨rfl, rfl, rfl, rfl, rfl, rfl, rfl, rfl⟩

theorem test_words_1B :
    decodeWord 0xB75490C8#32 none = .ok (.fminF16 1#1 5#3 20#6 36#6 12#6 1#1) ∧
      decodeWord 0xB75490C9#32 none = .ok (.fmaxF16 1#1 5#3 20#6 36#6 12#6 1#1) ∧
      decodeWord 0xB75490CA#32 none = .ok (.ffmaF16 1#1 5#3 20#6 36#6 12#6 1#1) := ⟨rfl, rfl, rfl⟩

theorem test_words_1C :
    decodeWord 0xB95490C0#32 none = .ok (.xadd 1#1 5#3 20#6 36#6 12#6) ∧
      decodeWord 0xB95490C1#32 none = .ok (.xsub 1#1 5#3 20#6 36#6 12#6) ∧
      decodeWord 0xB95490C2#32 none = .ok (.xmul 1#1 5#3 20#6 36#6 12#6) ∧
      decodeWord 0xB95490C3#32 none = .ok (.xdiv 1#1 5#3 20#6 36#6 12#6) ∧
      decodeWord 0xB95490C4#32 none = .ok (.xfma 1#1 5#3 20#6 36#6 12#6) ∧
      decodeWord 0xB9549005#32 none = .ok (.xsqrt 1#1 5#3 20#6 36#6) ∧
      decodeWord 0xB9549006#32 none = .ok (.xneg 1#1 5#3 20#6 36#6) ∧
      decodeWord 0xB9549007#32 none = .ok (.xabs 1#1 5#3 20#6 36#6) ∧
      decodeWord 0xB95490C8#32 none = .ok (.xmin 1#1 5#3 20#6 36#6 12#6) ∧
      decodeWord 0xB95490C9#32 none = .ok (.xmax 1#1 5#3 20#6 36#6 12#6) := ⟨rfl, rfl, rfl, rfl, rfl, rfl, rfl, rfl, rfl, rfl⟩

theorem test_words_1D :
    decodeWord 0xBB549000#32 none = .ok (.xcvtXfF32 1#1 5#3 20#6 36#6) ∧
      decodeWord 0xBB549001#32 none = .ok (.xcvtXfI32 1#1 5#3 20#6 36#6) ∧
      decodeWord 0xBB549002#32 none = .ok (.xcvtXfN32 1#1 5#3 20#6 36#6) ∧
      decodeWord 0xBB549003#32 none = .ok (.xcvtXfI64 1#1 5#3 20#6 36#6) ∧
      decodeWord 0xBB549004#32 none = .ok (.xcvtXfN64 1#1 5#3 20#6 36#6) ∧
      decodeWord 0xBB549145#32 none = .ok (.xcvtF32Xf 1#1 5#3 20#6 36#6 2#3 1#1) ∧
      decodeWord 0xBB549086#32 none = .ok (.xcvtI32Xf 1#1 5#3 20#6 36#6 1#3) ∧
      decodeWord 0xBB549107#32 none = .ok (.xcvtN32Xf 1#1 5#3 20#6 36#6 2#3) ∧
      decodeWord 0xBB549188#32 none = .ok (.xcvtI64Xf 1#1 5#3 20#6 36#6 3#3) ∧
      decodeWord 0xBB549109#32 none = .ok (.xcvtN64Xf 1#1 5#3 20#6 36#6 2#3) ∧
      decodeWord 0xBB54900A#32 none = .ok (.xrnd 1#1 5#3 20#6 36#6) ∧
      decodeWord 0xBB54900B#32 none = .ok (.xrint 1#1 5#3 20#6 36#6) := ⟨rfl, rfl, rfl, rfl, rfl, rfl, rfl, rfl, rfl, rfl, rfl, rfl⟩

theorem test_words_1E :
    decodeWord 0xBD5C8608#32 none = .ok (.xcmp 1#1 5#3 3#3 36#6 12#6 1#4) := rfl

theorem test_words_1F :
    decodeWord 0xBF400001#32 none = .ok (.setp 1#1 5#3 1#8) ∧
      decodeWord 0xBF480001#32 none = .ok (.setrm 1#1 5#3 1#3) ∧
      decodeWord 0xBF500001#32 none = .ok (.setx 1#1 5#3 1#1) ∧
      decodeWord 0xBF580001#32 none = .ok (.addp 1#1 5#3 1#9) ∧
      decodeWord 0xBF609000#32 none = .ok (.setpReg 1#1 5#3 36#6) ∧
      decodeWord 0xBF680000#32 none = .ok (.clrxuf 1#1 5#3) := ⟨rfl, rfl, rfl, rfl, rfl, rfl⟩

theorem test_words_20 :
    decodeWord 0xC1549200#32 (some 0x9ABCDEF0#32) = .ok (.xld 1#1 5#3 20#6 36#6 512#10 0x9ABCDEF0#32) := rfl

theorem test_words_21 :
    decodeWord 0xC3549000#32 none = .ok (.xldR 1#1 5#3 20#6 36#6) ∧
      decodeWord 0xC3549001#32 none = .ok (.xst 1#1 5#3 20#6 36#6) ∧
      decodeWord 0xC3549002#32 none = .ok (.xstMin 1#1 5#3 20#6 36#6) ∧
      decodeWord 0xC3549003#32 none = .ok (.xlds 1#1 5#3 20#6 36#6) ∧
      decodeWord 0xC3549004#32 none = .ok (.xldsR 1#1 5#3 20#6 36#6) ∧
      decodeWord 0xC3549005#32 none = .ok (.xsts 1#1 5#3 20#6 36#6) ∧
      decodeWord 0xC3549006#32 none = .ok (.xstsMin 1#1 5#3 20#6 36#6) := ⟨rfl, rfl, rfl, rfl, rfl, rfl, rfl⟩

theorem test_words_22 :
    decodeWord 0xC5549200#32 (some 0x9ABCDEF0#32) = .ok (.ld32 1#1 5#3 20#6 36#6 512#10 0x9ABCDEF0#32) := rfl

theorem test_words_23 :
    decodeWord 0xC7549200#32 (some 0x9ABCDEF0#32) = .ok (.st32 1#1 5#3 20#6 36#6 512#10 0x9ABCDEF0#32) := rfl

theorem test_words_24 :
    decodeWord 0xC9549200#32 (some 0x9ABCDEF0#32) = .ok (.ld64 1#1 5#3 20#6 36#6 512#10 0x9ABCDEF0#32) := rfl

theorem test_words_25 :
    decodeWord 0xCB549200#32 (some 0x9ABCDEF0#32) = .ok (.st64 1#1 5#3 20#6 36#6 512#10 0x9ABCDEF0#32) := rfl

theorem test_words_26 :
    decodeWord 0xCD549200#32 (some 0x9ABCDEF0#32) = .ok (.ld128 1#1 5#3 20#6 36#6 512#10 0x9ABCDEF0#32) := rfl

theorem test_words_27 :
    decodeWord 0xCF549200#32 (some 0x9ABCDEF0#32) = .ok (.st128 1#1 5#3 20#6 36#6 512#10 0x9ABCDEF0#32) := rfl

theorem test_words_28 :
    decodeWord 0xD1549000#32 none = .ok (.ldN8 1#1 5#3 20#6 36#6) ∧
      decodeWord 0xD1549001#32 none = .ok (.ldN16 1#1 5#3 20#6 36#6) ∧
      decodeWord 0xD1549002#32 none = .ok (.ldN16H0 1#1 5#3 20#6 36#6) ∧
      decodeWord 0xD1549003#32 none = .ok (.ldN16H1 1#1 5#3 20#6 36#6) ∧
      decodeWord 0xD1549004#32 none = .ok (.stN8 1#1 5#3 20#6 36#6) ∧
      decodeWord 0xD1549005#32 none = .ok (.stN16 1#1 5#3 20#6 36#6) ∧
      decodeWord 0xD1549006#32 none = .ok (.stN16H1 1#1 5#3 20#6 36#6) ∧
      decodeWord 0xD1549007#32 none = .ok (.ldAcq32 1#1 5#3 20#6 36#6) ∧
      decodeWord 0xD1549008#32 none = .ok (.ldAcq64 1#1 5#3 20#6 36#6) ∧
      decodeWord 0xD1549009#32 none = .ok (.stRel32 1#1 5#3 20#6 36#6) ∧
      decodeWord 0xD154900A#32 none = .ok (.stRel64 1#1 5#3 20#6 36#6) ∧
      decodeWord 0xD154900B#32 none = .ok (.ldAcq128 1#1 5#3 20#6 36#6) ∧
      decodeWord 0xD154900C#32 none = .ok (.stRel128 1#1 5#3 20#6 36#6) := ⟨rfl, rfl, rfl, rfl, rfl, rfl, rfl, rfl, rfl, rfl, rfl, rfl, rfl⟩

theorem test_words_29 :
    decodeWord 0xD3549268#32 none = .ok (.ldUniformBase 1#1 5#3 20#6 36#6 154#8) ∧
      decodeWord 0xD3549269#32 none = .ok (.stUniformBase 1#1 5#3 20#6 36#6 154#8) ∧
      decodeWord 0xD354926A#32 none = .ok (.ld64UniformBase 1#1 5#3 20#6 36#6 154#8) ∧
      decodeWord 0xD354926B#32 none = .ok (.st64UniformBase 1#1 5#3 20#6 36#6 154#8) := ⟨rfl, rfl, rfl, rfl⟩

theorem test_words_2A_0 :
    decodeWord 0xD55490C0#32 none = .ok (.atomAddI32 1#1 5#3 20#6 36#6 12#6) ∧
      decodeWord 0xD55490C1#32 none = .ok (.atomMinI32 1#1 5#3 20#6 36#6 12#6) ∧
      decodeWord 0xD55490C2#32 none = .ok (.atomMaxI32 1#1 5#3 20#6 36#6 12#6) ∧
      decodeWord 0xD55490C3#32 none = .ok (.atomMinN32 1#1 5#3 20#6 36#6 12#6) ∧
      decodeWord 0xD55490C4#32 none = .ok (.atomMaxN32 1#1 5#3 20#6 36#6 12#6) ∧
      decodeWord 0xD55490C5#32 none = .ok (.atomAnd 1#1 5#3 20#6 36#6 12#6) ∧
      decodeWord 0xD55490C6#32 none = .ok (.atomOr 1#1 5#3 20#6 36#6 12#6) ∧
      decodeWord 0xD55490C7#32 none = .ok (.atomXor 1#1 5#3 20#6 36#6 12#6) ∧
      decodeWord 0xD55490C8#32 none = .ok (.atomExch 1#1 5#3 20#6 36#6 12#6) ∧
      decodeWord 0xD55490C9#32 none = .ok (.atomCas 1#1 5#3 20#6 36#6 12#6) ∧
      decodeWord 0xD55490CA#32 none = .ok (.atomAddI64 1#1 5#3 20#6 36#6 12#6) ∧
      decodeWord 0xD55490CB#32 none = .ok (.atomMaxN64 1#1 5#3 20#6 36#6 12#6) ∧
      decodeWord 0xD55490CC#32 none = .ok (.atomExch64 1#1 5#3 20#6 36#6 12#6) ∧
      decodeWord 0xD55490CD#32 none = .ok (.atomCas64 1#1 5#3 20#6 36#6 12#6) := ⟨rfl, rfl, rfl, rfl, rfl, rfl, rfl, rfl, rfl, rfl, rfl, rfl, rfl, rfl⟩

theorem test_words_2A_1 :
    decodeWord 0xD55490CE#32 (some 0x29#32) = .ok (.atomOrdered 1#1 5#3 20#6 36#6 12#6 0x29#32) ∧
      decodeWord 0xD54690CF#32 none = .ok (.red 1#1 5#3 6#6 36#6 12#6) := ⟨rfl, rfl⟩

theorem test_words_2B :
    decodeWord 0x57400000#32 none = .ok (.fence 5#3) ∧
      decodeWord 0x57480000#32 none = .ok (.fenceAcq 5#3) ∧
      decodeWord 0x57500000#32 none = .ok (.fenceRel 5#3) ∧
      decodeWord 0xD7589200#32 (some 0x9ABCDEF0#32) = .ok (.prefetch 1#1 5#3 36#6 512#10 0x9ABCDEF0#32) ∧
      decodeWord 0xD760917C#32 none = .ok (.prefetchL2 1#1 5#3 36#6 380#10 0x0#32) := ⟨rfl, rfl, rfl, rfl, rfl⟩

theorem test_words_2C :
    decodeWord 0xD9549268#32 none = .ok (.pluckAt 1#1 5#3 20#6 36#6 154#8) ∧
      decodeWord 0xD9549269#32 none = .ok (.pluckBelow 1#1 5#3 20#6 36#6 154#8) ∧
      decodeWord 0xD954926A#32 none = .ok (.pluckAbove 1#1 5#3 20#6 36#6 154#8) ∧
      decodeWord 0xD954926B#32 none = .ok (.pluckFlip 1#1 5#3 20#6 36#6 154#8) := ⟨rfl, rfl, rfl, rfl⟩

theorem test_words_2D :
    decodeWord 0xDB549268#32 none = .ok (.pollAll 1#1 5#3 20#6 36#6 154#8) ∧
      decodeWord 0xDB549269#32 none = .ok (.pollAny 1#1 5#3 20#6 36#6 154#8) ∧
      decodeWord 0xDB54926A#32 none = .ok (.pollMask 1#1 5#3 20#6 36#6 154#8) ∧
      decodeWord 0xDB54926B#32 none = .ok (.pollSame 1#1 5#3 20#6 36#6 154#8) := ⟨rfl, rfl, rfl, rfl⟩

theorem test_words_2E :
    decodeWord 0xDD549268#32 none = .ok (.gredAddI32 1#1 5#3 20#6 36#6 154#8) ∧
      decodeWord 0xDD549269#32 none = .ok (.gredMinI32 1#1 5#3 20#6 36#6 154#8) ∧
      decodeWord 0xDD54926A#32 none = .ok (.gredMaxI32 1#1 5#3 20#6 36#6 154#8) ∧
      decodeWord 0xDD54926B#32 none = .ok (.gredMaxiN32 1#1 5#3 20#6 36#6 154#8) := ⟨rfl, rfl, rfl, rfl⟩

theorem test_words_2F :
    decodeWord 0xDF549268#32 none = .ok (.gredAddF32 1#1 5#3 20#6 36#6 154#8) ∧
      decodeWord 0xDF549269#32 none = .ok (.gredMinF32 1#1 5#3 20#6 36#6 154#8) ∧
      decodeWord 0xDF54926A#32 none = .ok (.gredMaxF32 1#1 5#3 20#6 36#6 154#8) ∧
      decodeWord 0xDF54926B#32 none = .ok (.gredMaxiF32 1#1 5#3 20#6 36#6 154#8) := ⟨rfl, rfl, rfl, rfl⟩

theorem test_words_30 :
    decodeWord 0xE1549268#32 none = .ok (.gscanAddI32 1#1 5#3 20#6 36#6 154#8) ∧
      decodeWord 0xE1549269#32 none = .ok (.gscanAddXI32 1#1 5#3 20#6 36#6 154#8) ∧
      decodeWord 0xE154926A#32 none = .ok (.gscanMaxI32 1#1 5#3 20#6 36#6 154#8) ∧
      decodeWord 0xE154926B#32 none = .ok (.gcompact 1#1 5#3 20#6 36#6 154#8) := ⟨rfl, rfl, rfl, rfl⟩

theorem test_words_31 :
    decodeWord 0xE3549268#32 none = .ok (.topk 1#1 5#3 20#6 36#6 154#8) ∧
      decodeWord 0xE3400269#32 none = .ok (.gsync 1#1 5#3 154#8) := ⟨rfl, rfl⟩

theorem test_words_32 :
    decodeWord 0xE5599A00#32 none = .ok (.push 1#1 5#3 3#3 1#3 154#8) := rfl

theorem test_words_33 :
    decodeWord 0xE7419A00#32 none = .ok (.obres 1#1 5#3 1#4 154#8) ∧
      decodeWord 0xE7510000#32 none = .ok (.obrel 1#1 5#3 1#4) := ⟨rfl, rfl⟩

theorem test_words_34 :
    decodeWord 0xE9549000#32 none = .ok (.accrd 1#1 5#3 20#6 36#6) ∧
      decodeWord 0xE94090C1#32 none = .ok (.accwr 1#1 5#3 36#6 12#6) ∧
      decodeWord 0xE9549002#32 none = .ok (.accrd128 1#1 5#3 20#6 36#6) ∧
      decodeWord 0xE94090C3#32 none = .ok (.accwr128 1#1 5#3 36#6 12#6) ∧
      decodeWord 0xE94090C4#32 none = .ok (.accaddF32 1#1 5#3 36#6 12#6) ∧
      decodeWord 0xE94090C5#32 none = .ok (.accaddI32 1#1 5#3 36#6 12#6) := ⟨rfl, rfl, rfl, rfl, rfl, rfl⟩

theorem test_words_35 :
    decodeWord 0x6B480001#32 none = .ok (.waitc 5#3 1#3 1#8) ∧
      decodeWord 0x6B4C0001#32 none = .ok (.waitcCons 5#3 1#8) := ⟨rfl, rfl⟩

theorem test_words_36 :
    decodeWord 0x6D402680#32 none = .ok (.waitany 5#3 154#8) ∧
      decodeWord 0x6D502680#32 none = .ok (.waitall 5#3 154#8) ∧
      decodeWord 0xED652680#32 none = .ok (.ffr 1#1 5#3 20#6 154#8) := ⟨rfl, rfl, rfl⟩

theorem test_words_38 :
    decodeWord 0x70E00018#32 none = .ok (.bra 3#3 1#1 24#21) := rfl

theorem test_words_39 :
    decodeWord 0x72000018#32 none = .ok (.call 24#21) := rfl

theorem test_words_3A :
    decodeWord 0x74000000#32 none = .ok (.ret) ∧
      decodeWord 0x74404720#32 (some 0x12345678#32) = .ok (.tcall 1#8 28#8 1#1 0x12345678#32) ∧
      decodeWord 0x74800000#32 none = .ok (.tret) ∧
      decodeWord 0x74C00000#32 none = .ok (.exit) ∧
      decodeWord 0x75240000#32 none = .ok (.brx 36#6) ∧
      decodeWord 0x75640000#32 none = .ok (.callx 36#6) := ⟨rfl, rfl, rfl, rfl, rfl, rfl⟩

theorem test_words_3B :
    decodeWord 0x76000000#32 none = .ok (.tutti 0#2) ∧
      decodeWord 0x76460000#32 none = .ok (.tuttiArv 0#2 3#3) ∧
      decodeWord 0x76860000#32 none = .ok (.tuttiWait 0#2 3#3) ∧
      decodeWord 0x76C00000#32 none = .ok (.cbar) ∧
      decodeWord 0x77000000#32 none = .ok (.gbar) := ⟨rfl, rfl, rfl, rfl, rfl⟩

theorem test_words_3C :
    decodeWord 0x78180000#32 none = .ok (.elect 3#3) ∧
      decodeWord 0x78400000#32 none = .ok (.bowwait) ∧
      decodeWord 0x78800000#32 none = .ok (.bowpass) ∧
      decodeWord 0x78C00001#32 none = .ok (.setkeyImm 1#8) ∧
      decodeWord 0x79009000#32 none = .ok (.setkeyReg 36#6) := ⟨rfl, rfl, rfl, rfl, rfl⟩

theorem test_words_3D :
    decodeWord 0x7A000001#32 none = .ok (.brk 1#16) ∧
      decodeWord 0x7A400001#32 none = .ok (.trap 1#16) ∧
      decodeWord 0x7A800001#32 none = .ok (.yield 1#10) := ⟨rfl, rfl, rfl⟩

theorem test_words_3E :
    decodeWord 0xFC140001#32 none = .ok (.mfsrV 1#1 20#6 1#8) ∧
      decodeWord 0xFC450040#32 none = .ok (.mfsrU 1#1 20#8 1#8) ∧
      decodeWord 0xFC809001#32 none = .ok (.mtsrV 1#1 36#6 1#8) ∧
      decodeWord 0xFCC06680#32 none = .ok (.mtsrU 1#1 1#8 154#8) := ⟨rfl, rfl, rfl, rfl⟩

/-! ## Terms that a check refuses, at least one for each check -/

theorem test_ill_formed_management_0 :
    (Instr.create 0 []).wf = false ∧ (Instr.release 0 32).wf = false ∧ (Instr.switch 0 32).wf = false ∧ (Instr.preempt 0 32 0 0).wf = false ∧
      (Instr.preempt 0 0 64 0).wf = false ∧ (Instr.fwload 0 [8] 0 true).wf = false ∧ (Instr.repair 0 8 0).wf = false ∧
      (Instr.repair 0 0 256).wf = false := ⟨rfl, rfl, rfl, rfl, rfl, rfl, rfl, rfl⟩

theorem test_ill_formed_device_0 :
    (Instr.launchDoorbell 32 0 0).wf = false ∧ (Instr.launchDoorbell 0 64 0).wf = false ∧ (Instr.launchStart 32 0).wf = false ∧
      (Instr.launchStart 0 64).wf = false ∧ (Instr.dependenceRecheck 32 0).wf = false ∧ (Instr.dependenceRecheck 0 64).wf = false ∧
      (Instr.teamPlacement 32 0).wf = false ∧ (Instr.teamPlacement 0 64).wf = false ∧ (Instr.packetIssue 8 0 0).wf = false ∧
      (Instr.packetIssue 0 0 4).wf = false ∧ (Instr.leaseExpiry 8 0 0).wf = false ∧ (Instr.hostCxlWrite 576000000000 [0]).wf = false := ⟨rfl, rfl, rfl, rfl, rfl, rfl, rfl, rfl, rfl, rfl, rfl, rfl⟩

theorem test_ill_formed_device_1 :
    (Instr.hostCxlWrite 0 []).wf = false ∧ (Instr.pageWalk 8 0 0 0).wf = false ∧ (Instr.pageWalk 0 0 32 0).wf = false ∧
      (Instr.pageWalk 0 0 0 (2 ^ 56)).wf = false ∧ (Instr.hbmSpare 576000000000 true true).wf = false ∧
      (Instr.localityWindowEnd 8 0).wf = false ∧ (Instr.permitIncrease 8 0).wf = false ∧ (Instr.permitRotation 8 0).wf = false ∧
      (Instr.forkReservation 8 0).wf = false ∧ (Instr.barrierRelease 4 0 0 0).wf = false ∧ (Instr.barrierRelease 0 0 0 4).wf = false ∧
      (Instr.lane 24 1).wf = false := ⟨rfl, rfl, rfl, rfl, rfl, rfl, rfl, rfl, rfl, rfl, rfl, rfl⟩

theorem test_ill_formed_device_2 :
    (Instr.lane 260 1).wf = false ∧ (Instr.lane 0 0).wf = false ∧ (Instr.linkdown 24).wf = false ∧
      (Instr.timeBaseCompare 10 0 false).wf = false ∧ (Instr.monitorReading 8 0 0 false none).wf = false ∧
      (Instr.monitorReading 0 16 0 false none).wf = false ∧ (Instr.droopRestore 8 0).wf = false ∧ (Instr.droopRestore 0 16).wf = false ∧
      (Instr.damagedFlit 24).wf = false := ⟨rfl, rfl, rfl, rfl, rfl, rfl, rfl, rfl, rfl⟩

theorem test_ill_formed_fields_0 :
    (Instr.icmp 0 0 0 0 0 7 0).wf = false ∧ (Instr.icmp 0 0 0 0 0 0 4).wf = false ∧ (Instr.ucmp 0 0 0 0 0 0).wf = false ∧ (Instr.ucmp 0 7 0 0 0 0).wf = false ∧ (Instr.fcmp 0 0 0 0 0 8 0).wf = false ∧ (Instr.fcmp 0 0 0 0 0 0 5).wf = false ∧ (Instr.fclass 0 0 0 0 0 5).wf = false ∧ (Instr.frndF32 0 0 0 0 4).wf = false ∧ (Instr.cvtToF32 0 0 0 0 0 0 0).wf = false ∧ (Instr.cvtToF32 0 0 0 0 1 0 1).wf = false ∧ (Instr.cvtToF32 0 0 0 0 0 2 1).wf = false ∧ (Instr.cvtToF32 0 0 0 0 4 0 12).wf = false := ⟨rfl, rfl, rfl, rfl, rfl, rfl, rfl, rfl, rfl, rfl, rfl, rfl⟩

theorem test_ill_formed_fields_1 :
    (Instr.cvtToF32 0 0 0 0 0 1 12).wf = false ∧ (Instr.cvtToF32 0 0 0 0 1 0 3).wf = false ∧ (Instr.cvtFromF32 0 0 0 0 0 0 0 0).wf = false ∧ (Instr.cvtFromF32 0 0 0 0 4 0 0 1).wf = false ∧ (Instr.cvtFromF32 0 0 0 0 0 0 3 1).wf = false ∧ (Instr.cvtFromF32 0 0 0 0 0 1 0 10).wf = false ∧ (Instr.cvtFromF32 0 0 0 0 1 0 0 4).wf = false ∧ (Instr.cvtFromF32 0 0 0 0 0 1 0 3).wf = false ∧ (Instr.cvtFromF32 0 0 0 0 0 1 0 12).wf = false ∧ (Instr.cvtPk 0 0 0 0 0 0 0).wf = false ∧ (Instr.cvtPk 0 0 0 0 0 0 7).wf = false ∧ (Instr.cvtPk 0 0 0 0 0 1 2).wf = false := ⟨rfl, rfl, rfl, rfl, rfl, rfl, rfl, rfl, rfl, rfl, rfl, rfl⟩

theorem test_ill_formed_controls_0 :
    (Instr.xcvtF32Xf 0 0 0 0 4 0).wf = false ∧ (Instr.xcvtI32Xf 0 0 0 0 4).wf = false ∧ (Instr.xcvtN32Xf 0 0 0 0 4).wf = false ∧ (Instr.xcvtI64Xf 0 0 0 0 4).wf = false ∧ (Instr.xcvtN64Xf 0 0 0 0 4).wf = false ∧ (Instr.xcmp 0 0 0 0 0 8).wf = false ∧ (Instr.red 0 0 11 0 0).wf = false ∧ (Instr.push 0 0 0 5 0).wf = false ∧ (Instr.push 0 0 0 0 241).wf = false ∧ (Instr.obres 0 0 0 249).wf = false ∧ (Instr.waitc 0 5 0).wf = false ∧ (Instr.tcall 0 253 0 0).wf = false := ⟨rfl, rfl, rfl, rfl, rfl, rfl, rfl, rfl, rfl, rfl, rfl, rfl⟩

theorem test_ill_formed_controls_1 :
    (Instr.mfsrV 0 0 0x12).wf = false ∧ (Instr.mfsrU 0 0 0x12).wf = false ∧ (Instr.mtsrV 0 0 0x12).wf = false ∧ (Instr.mtsrU 0 0x12 0).wf = false := ⟨rfl, rfl, rfl, rfl⟩

theorem test_ill_formed_literals_0 :
    (Instr.iaddImm 0 0 0 0 0 1).wf = false ∧ (Instr.andImm 0 0 0 0 0 1).wf = false ∧ (Instr.orImm 0 0 0 0 0 1).wf = false ∧ (Instr.xorImm 0 0 0 0 0 1).wf = false ∧ (Instr.shlImm 0 0 0 0 0 1).wf = false ∧ (Instr.movImm 0 0 0 0 1).wf = false ∧ (Instr.uaddImm 0 0 0 0 1).wf = false ∧ (Instr.usubImm 0 0 0 0 1).wf = false ∧ (Instr.umulImm 0 0 0 0 1).wf = false ∧ (Instr.uandImm 0 0 0 0 1).wf = false ∧ (Instr.uorImm 0 0 0 0 1).wf = false ∧ (Instr.uxorImm 0 0 0 0 1).wf = false := ⟨rfl, rfl, rfl, rfl, rfl, rfl, rfl, rfl, rfl, rfl, rfl, rfl⟩

theorem test_ill_formed_literals_1 :
    (Instr.ushlImm 0 0 0 0 1).wf = false ∧ (Instr.ushrImm 0 0 0 0 1).wf = false ∧ (Instr.movUniformImm 0 0 0 1).wf = false ∧ (Instr.ucmp 0 1 0 0 0 1).wf = false ∧ (Instr.fmulF32Imm 0 0 0 0 0 1).wf = false ∧ (Instr.xld 0 0 0 0 0 1).wf = false ∧ (Instr.ld32 0 0 0 0 0 1).wf = false ∧ (Instr.st32 0 0 0 0 0 1).wf = false ∧ (Instr.ld64 0 0 0 0 0 1).wf = false ∧ (Instr.st64 0 0 0 0 0 1).wf = false ∧ (Instr.ld128 0 0 0 0 0 1).wf = false ∧ (Instr.st128 0 0 0 0 0 1).wf = false := ⟨rfl, rfl, rfl, rfl, rfl, rfl, rfl, rfl, rfl, rfl, rfl, rfl⟩

theorem test_ill_formed_literals_2 :
    (Instr.atomOrdered 0 0 0 0 0 0).wf = false ∧ (Instr.atomOrdered 0 0 0 0 0 0x1E).wf = false ∧ (Instr.atomOrdered 0 0 0 0 0 0x51).wf = false ∧ (Instr.prefetch 0 0 0 0 1).wf = false ∧ (Instr.prefetchL2 0 0 0 0 1).wf = false := ⟨rfl, rfl, rfl, rfl, rfl⟩

/-! ## One instruction at a time

The machine of the tests: one team of two threads at the packet 0x1000, both in a bundle, with the registers `v` in both threads and the
uniform registers `u`; its scratchpad, its accumulator and its operand buffer are empty, and a 32 MiB page lies at virtual address 0. -/

def pairDesc : Desc := { fetchDesc with tsize := 2 }
def pairLaunch : Launch := { fetchLaunch with desc := pairDesc }
def pairTeam (v u : Cells 32) : Team :=
  let t := Team.fresh 0 pairLaunch 0 0 0 0 0
  { t with threads := t.threads.map fun h => { h with v := v }, frames := t.frames.map fun f => { f with uni := u } }
def pairBundle : Bundle :=
  { team := 0, frame := 0, die := 0, core := 0, course := 0, ranks := [0, 1], pc := 0x1000, words := [0x0A000000, 0, 0, 0], slot := 1 }
def machine (v u : Cells 32) : State :=
  { State.reset.withFetchWord 32 0 with launches := [pairLaunch], teams := [pairTeam v u], bundle := some pairBundle }

/-- The state, the team and the first thread after an instruction. -/
def afterIn (s : State) (i : Instr) : Option State :=
  match exec i s with
  | .next t => some t
  | _ => none
def teamOf (s : Option State) : Option Team := s.bind (·.team? 0)
def threadOf (s : Option State) : Option Thread := (teamOf s).bind (·.thread? 0)
def after (v u : Cells 32) (i : Instr) : Option State := afterIn (machine v u) i

/-- A register, a pair, a predicate and a uniform register after an instruction, by its operands before. -/
def reg (v u : Cells 32) (i : Instr) (d : Nat) : Option Word := (threadOf (after v u i)).map (·.rd d)
def prd (v u : Cells 32) (i : Instr) (p : Nat) : Option Bool := (threadOf (after v u i)).map fun h => predOf h.preds p
/-- The write of a uniform word is on its way until it completes (R28). -/
def uni (v u : Cells 32) (i : Instr) (d : Nat) : Option Word :=
  (teamOf ((after v u i).bind fun s => (s.ops.getLast?).bind fun o => afterIn s (.trackedOpCompletion ⟨o.id, []⟩))).map (·.uget 0 d)

/-- The last operation put in flight. -/
def sent (v u : Cells 32) (i : Instr) : Option OpBody := ((after v u i).bind (·.ops.getLast?)).map (·.body)

/-- R204. -/
theorem test_add_and_multiply_0 :
    reg [(1, 0xFFFFFFFF), (2, 0x2)] [] (.iadd 0 7 3 1 2) 3 = some 0x1 ∧
      reg [(1, 0x1), (2, 0x2)] [] (.isub 0 7 3 1 2) 3 = some 0xFFFFFFFF ∧
      reg [(1, 0x10001), (2, 0x10000)] [] (.imul 0 7 3 1 2) 3 = some 0x10000 ∧
      reg [(1, 0x80000000), (2, 0x2)] [] (.imulhiI32 0 7 3 1 2) 3 = some 0xFFFFFFFF ∧
      reg [(1, 0x80000000), (2, 0x2)] [] (.imulhiN32 0 7 3 1 2) 3 = some 0x1 ∧
      reg [(1, 0xFFFFFFFF), (2, 0x1)] [] (.iminI32 0 7 3 1 2) 3 = some 0xFFFFFFFF ∧
      reg [(1, 0xFFFFFFFF), (2, 0x1)] [] (.iminN32 0 7 3 1 2) 3 = some 0x1 ∧
      reg [(1, 0xFFFFFFFF), (2, 0x1)] [] (.imaxI32 0 7 3 1 2) 3 = some 0x1 := by
  decide +kernel

/-- R204. -/
theorem test_add_and_multiply_1 :
    reg [(1, 0xFFFFFFFF), (2, 0x1)] [] (.imaxN32 0 7 3 1 2) 3 = some 0xFFFFFFFF ∧
      reg [(1, 0x7FFFFFFF), (2, 0x1)] [] (.iaddSatI32 0 7 3 1 2) 3 = some 0x7FFFFFFF ∧
      reg [(1, 0xFFFFFFFF), (2, 0x1)] [] (.iaddSatN32 0 7 3 1 2) 3 = some 0xFFFFFFFF ∧
      reg [(1, 0x80000000), (2, 0x1)] [] (.isubSatI32 0 7 3 1 2) 3 = some 0x80000000 ∧
      reg [(1, 0x1), (2, 0x2)] [] (.isubSatN32 0 7 3 1 2) 3 = some 0x0 ∧
      reg [(1, 0x3), (2, 0x4), (3, 0x5)] [] (.imad 0 7 3 1 2) 3 = some 0x11 ∧
      reg [(0, 0xFFFFFFFF), (2, 0x1)] [] (.iaddI64 0 7 4 0 2) 5 = some 0x1 ∧
      reg [(2, 0x1)] [] (.isubI64 0 7 4 0 2) 5 = some 0xFFFFFFFF := by
  decide +kernel

/-- R205. -/
theorem test_logic_and_shifts_0 :
    reg [(1, 0xC), (2, 0xA)] [] (.and 0 7 3 1 2) 3 = some 0x8 ∧
      reg [(1, 0xC), (2, 0xA)] [] (.or 0 7 3 1 2) 3 = some 0xE ∧
      reg [(1, 0xC), (2, 0xA)] [] (.xor 0 7 3 1 2) 3 = some 0x6 ∧
      reg [(1, 0xC), (2, 0xA)] [] (.andn 0 7 3 1 2) 3 = some 0x4 ∧
      reg [(1, 0x5)] [] (.not 0 7 3 1) 3 = some 0xFFFFFFFA ∧
      reg [(1, 0x1), (2, 0x20)] [] (.shl 0 7 3 1 2) 3 = some 0x0 ∧
      reg [(1, 0x1), (2, 0x1F)] [] (.shl 0 7 3 1 2) 3 = some 0x80000000 ∧
      reg [(1, 0xFFFFFFFF), (2, 0x21)] [] (.shr 0 7 3 1 2) 3 = some 0x0 := by
  decide +kernel

/-- R205. -/
theorem test_logic_and_shifts_1 :
    reg [(1, 0x80000000), (2, 0x4D)] [] (.sar 0 7 3 1 2) 3 = some 0xFFFFFFFF ∧
      reg [(1, 0x80000001), (2, 0x21)] [] (.rotl 0 7 3 1 2) 3 = some 0x3 ∧
      reg [(1, 0x3), (2, 0x1)] [] (.rotr 0 7 3 1 2) 3 = some 0x80000001 := by
  decide +kernel

/-- R206. -/
theorem test_bit_fields_0 :
    reg [(1, 0xABCD1234), (2, 0x808)] [] (.bitgetN32 0 7 3 1 2) 3 = some 0x12 ∧
      reg [(1, 0xABCD8234), (2, 0x808)] [] (.bitgetI32 0 7 3 1 2) 3 = some 0xFFFFFF82 ∧
      reg [(1, 0x70000000), (2, 0x81C)] [] (.bitgetI32 0 7 3 1 2) 3 = some 0x7 ∧
      reg [(1, 0xFF), (2, 0x404)] [] (.bitins 0 7 3 1 2) 3 = some 0xF0 ∧
      reg [(1, 0xF0F)] [] (.popc 0 7 3 1) 3 = some 0x8 ∧
      reg [(3, 0x9)] [] (.clz 0 7 3 1) 3 = some 0x20 ∧
      reg [(1, 0x100)] [] (.ctz 0 7 3 1) 3 = some 0x8 ∧
      reg [(1, 0x1)] [] (.brev 0 7 3 1) 3 = some 0x80000000 := by
  decide +kernel

/-- R206. -/
theorem test_bit_fields_1 :
    reg [(1, 0x5), (2, 0x6)] [] (.sel 0 7 3 1 2 7) 3 = some 0x5 ∧
      reg [(1, 0x5), (2, 0x6)] [] (.sel 0 7 3 1 2 0) 3 = some 0x6 := by
  decide +kernel

/-- R164, R207. -/
theorem test_immediates_0 :
    reg [(1, 0x5)] [(9, 0x7)] (.iaddUniform 0 7 3 1 9) 3 = some 0xC ∧
      reg [(1, 0x5)] [(9, 0x7)] (.isubUniform 0 7 3 1 9) 3 = some 0xFFFFFFFE ∧
      reg [(1, 0x5)] [(9, 0x7)] (.imulUniform 0 7 3 1 9) 3 = some 0x23 ∧
      reg [(1, 0x5)] [(9, 0xC)] (.andUniform 0 7 3 1 9) 3 = some 0x4 ∧
      reg [(1, 0x5)] [] (.iaddImm 0 7 3 1 0x3FF 0) 3 = some 0x4 ∧
      reg [(1, 0x1)] [] (.iaddImm 0 7 3 1 0x200 0x12345678) 3 = some 0x12345679 ∧
      reg [(1, 0x1FF)] [] (.andImm 0 7 3 1 0x3FE 0) 3 = some 0x1FE ∧
      reg [(1, 0x4)] [] (.orImm 0 7 3 1 1 0) 3 = some 0x5 := by
  decide +kernel

/-- R164, R207. -/
theorem test_immediates_1 :
    reg [(1, 0x4)] [] (.xorImm 0 7 3 1 0x3FF 0) 3 = some 0xFFFFFFFB ∧
      reg [(1, 0x1)] [] (.shlImm 0 7 3 1 4 0) 3 = some 0x10 ∧
      reg [(1, 0x4)] [] (.shlImm 0 7 3 1 0x3FF 0) 3 = some 0x2 := by
  decide +kernel

/-- R208. -/
theorem test_compares :
    prd [(1, 0xFFFFFFFF), (2, 0x1)] [] (.icmp 0 7 2 1 2 2 0) 2 = some true ∧
      prd [(1, 0xFFFFFFFF), (2, 0x1)] [] (.icmp 0 7 2 1 2 2 1) 2 = some false := by
  decide +kernel

/-- R209. -/
theorem test_moves_0 :
    reg [(1, 0x89ABCDEF)] [] (.mov 0 7 3 1) 3 = some 0x89ABCDEF ∧
      reg [(2, 0x1), (3, 0x2)] [] (.mov64 0 7 4 2) 5 = some 0x2 ∧
      reg [] [] (.pmov 0 7 3 7) 3 = some 0x1 ∧
      prd [(1, 0x3)] [] (.ptst 0 7 2 1) 2 = some true ∧
      prd [] [] (.pand 0 7 2 7 7) 2 = some true ∧
      prd [] [] (.por 0 7 2 1 7) 2 = some true ∧
      prd [] [] (.pxor 0 7 2 7 7) 2 = some false ∧
      prd [] [] (.pandn 0 7 2 7 1) 2 = some true := by
  decide +kernel

/-- R209. -/
theorem test_moves_1 :
    prd [] [] (.pand 0 7 7 0 0) 7 = some true ∧
      reg [(1, 0x12345678), (3, 0xAAAABBBB)] [] (.movH0 0 7 3 1) 3 = some 0xAAAA5678 ∧
      reg [(1, 0x12345678), (3, 0xAAAABBBB)] [] (.movH1 0 7 3 1) 3 = some 0x5678BBBB ∧
      reg [] [] (.movImm 0 7 3 0x3FF 0) 3 = some 0xFFFFFFFF := by
  decide +kernel

/-- R28, R211, R212, R213. -/
theorem test_uniform_0 :
    uni [] [(8, 0x1), (9, 0x2)] (.uadd 0 4 8 9) 4 = some 0x3 ∧
      uni [] [(8, 0x1), (9, 0x2)] (.usub 0 4 8 9) 4 = some 0xFFFFFFFF ∧
      uni [] [(8, 0x3), (9, 0x2)] (.umul 0 4 8 9) 4 = some 0x6 ∧
      uni [] [(8, 0xC), (9, 0xA)] (.uand 0 4 8 9) 4 = some 0x8 ∧
      uni [] [(8, 0xC), (9, 0xA)] (.uor 0 4 8 9) 4 = some 0xE ∧
      uni [] [(8, 0xC), (9, 0xA)] (.uxor 0 4 8 9) 4 = some 0x6 ∧
      uni [] [(8, 0x1), (9, 0x20)] (.ushl 0 4 8 9) 4 = some 0x0 ∧
      uni [] [(8, 0x80000000), (9, 0x1F)] (.ushr 0 4 8 9) 4 = some 0x1 := by
  decide +kernel

/-- R28, R211, R212, R213. -/
theorem test_uniform_1 :
    uni [] [(8, 0x5)] (.uaddImm 0 4 8 0x3F 0) 4 = some 0x4 ∧
      uni [] [(8, 0x5)] (.usubImm 0 4 8 1 0) 4 = some 0x4 ∧
      uni [] [(8, 0x5)] (.umulImm 0 4 8 3 0) 4 = some 0xF ∧
      uni [] [(8, 0x5)] (.uandImm 0 4 8 4 0) 4 = some 0x4 ∧
      uni [] [(8, 0x5)] (.uorImm 0 4 8 2 0) 4 = some 0x7 ∧
      uni [] [(8, 0x5)] (.uxorImm 0 4 8 1 0) 4 = some 0x4 ∧
      uni [] [(8, 0x5)] (.ushlImm 0 4 8 1 0) 4 = some 0xA ∧
      uni [] [(8, 0x5)] (.ushrImm 0 4 8 0x20 1) 4 = some 0x2 := by
  decide +kernel

/-- R28, R211, R212, R213. -/
theorem test_uniform_2 :
    reg [] [(8, 0x5)] (.movVFromS 0 3 8) 3 = some 0x5 ∧
      uni [(1, 0x6)] [] (.movSFromV 0 4 1) 4 = some 0x6 ∧
      reg [] [(8, 0x5), (9, 0x6)] (.mov64VFromS 0 4 8) 5 = some 0x6 ∧
      uni [(2, 0x1), (3, 0x7)] [] (.mov64SFromV 0 4 2) 5 = some 0x7 ∧
      uni [] [] (.movUniformImm 0 4 0x20 0xCAFE) 4 = some 0xCAFE ∧
      prd [] [(8, 0xFFFFFFFF)] (.ucmp 0 3 1 8 1 0) 1 = some true ∧
      prd [] [(8, 0xFFFFFFFF)] (.ucmp 0 5 1 8 1 0) 1 = some false := by
  decide +kernel

/-- R217, R218, R219. -/
theorem test_single_0 :
    reg [(1, 0x3F800000), (2, 0x33000001)] [] (.faddF32 0 7 3 1 2) 3 = some 0x3F800000 ∧
      reg [(1, 0x3FC00000), (2, 0x40100000)] [] (.faddF32 0 7 3 1 2) 3 = some 0x40700000 ∧
      reg [(1, 0x3F800000), (2, 0x3F800000)] [] (.fsubF32 0 7 3 1 2) 3 = some 0x0 ∧
      reg [(1, 0xC0400000), (2, 0x3F000000)] [] (.fmulF32 0 7 3 1 2) 3 = some 0xBFC00000 ∧
      reg [(1, 0x1), (2, 0x3F000000)] [] (.fmulF32 0 7 3 1 2) 3 = some 0x0 ∧
      reg [(1, 0x3), (2, 0x3F000000)] [] (.fmulF32 0 7 3 1 2) 3 = some 0x2 ∧
      reg [(1, 0x7F7FFFFF), (2, 0x7F7FFFFF)] [] (.faddF32 0 7 3 1 2) 3 = some 0x7F800000 ∧
      reg [(1, 0x7F800000), (2, 0xFF800000)] [] (.faddF32 0 7 3 1 2) 3 = some 0x7FC00000 := by
  decide +kernel

/-- R217, R218, R219. -/
theorem test_single_1 :
    reg [(1, 0x40000000), (2, 0x40400000), (3, 0x3F800000)] [] (.ffmaF32 0 7 3 1 2) 3 = some 0x40E00000 ∧
      reg [(1, 0x40000000), (2, 0x40400000), (3, 0x3F800000)] [] (.ffmsF32 0 7 3 1 2) 3 = some 0x40A00000 ∧
      reg [(1, 0x40000000), (2, 0x40400000), (3, 0x3F800000)] [] (.fnmaF32 0 7 3 1 2) 3 = some 0xC0A00000 ∧
      reg [(2, 0x80000000)] [] (.fminF32 0 7 3 1 2) 3 = some 0x80000000 ∧
      reg [(2, 0x80000000)] [] (.fmaxF32 0 7 3 1 2) 3 = some 0x0 ∧
      reg [(1, 0xFFC00001), (2, 0x3F800000)] [] (.fminF32 0 7 3 1 2) 3 = some 0x7FC00000 ∧
      reg [(1, 0xFFC00001), (2, 0x3F800000)] [] (.fminNumF32 0 7 3 1 2) 3 = some 0x3F800000 ∧
      reg [(1, 0x40000000), (2, 0x7FC00000)] [] (.fmaxNumF32 0 7 3 1 2) 3 = some 0x40000000 := by
  decide +kernel

/-- R217, R218, R219. -/
theorem test_single_2 :
    reg [(1, 0xFFC00001)] [] (.fabsF32 0 7 3 1) 3 = some 0x7FC00001 ∧
      reg [] [] (.fnegF32 0 7 3 1) 3 = some 0x80000000 ∧
      reg [(1, 0x3F800000), (2, 0xC0000000)] [] (.fcopysignF32 0 7 3 1 2) 3 = some 0xBF800000 ∧
      reg [(1, 0x3F800000)] [(8, 0x40000000)] (.faddF32Uniform 0 7 3 1 8) 3 = some 0x40400000 ∧
      reg [(1, 0x40400000)] [(8, 0x40000000)] (.fmulF32Uniform 0 7 3 1 8) 3 = some 0x40C00000 ∧
      reg [(1, 0x40400000), (3, 0x3F800000)] [(8, 0x40000000)] (.ffmaF32Uniform 0 7 3 1 8) 3 = some 0x40E00000 ∧
      reg [(1, 0x40400000)] [(8, 0x40000000)] (.fsubF32Uniform 0 7 3 1 8) 3 = some 0x3F800000 ∧
      reg [(1, 0x40400000)] [] (.fmulF32Imm 0 7 3 1 0x3FE 0) 3 = some 0xC0C00000 := by
  decide +kernel

/-- R217, R218, R219. -/
theorem test_single_3 :
    reg [(1, 0x40400000)] [] (.fmulF32Imm 0 7 3 1 0x200 0x3F000000) 3 = some 0x3FC00000 := by
  decide +kernel

/-- R220, R221. -/
theorem test_packed_0 :
    reg [(1, 0x40003C00), (2, 0x7BFF3800)] [] (.faddF16 0 0 7 3 1 2) 3 = some 0x7BFF3E00 ∧
      reg [(1, 0x40003F80), (2, 0x40804000)] [] (.faddF16 0 1 7 3 1 2) 3 = some 0x40C04040 ∧
      reg [(1, 0x40003C00), (2, 0x42003800)] [] (.fsubF16 0 0 7 3 1 2) 3 = some 0xBC003800 ∧
      reg [(1, 0x40004040), (2, 0x40804000)] [] (.fmulF16 0 1 7 3 1 2) 3 = some 0x410040C0 ∧
      reg [(1, 0x4000BC00)] [] (.fabsF16 0 0 7 3 1) 3 = some 0x40003C00 ∧
      reg [(1, 0x4000BC00)] [] (.fnegF16 0 0 7 3 1) 3 = some 0xC0003C00 ∧
      reg [(1, 0x42004000), (2, 0x45004400), (3, 0x3F000000)] [] (.fdot2F16 0 0 7 3 1 2) 3 = some 0x41BC0000 ∧
      reg [(1, 0xC0003C00), (2, 0x44004200)] [] (.fminF16 0 7 3 1 2 0) 3 = some 0xC0003C00 := by
  decide +kernel

/-- R220, R221. -/
theorem test_packed_1 :
    reg [(1, 0xC0003F80), (2, 0x40804040)] [] (.fmaxF16 0 7 3 1 2 1) 3 = some 0x40804040 ∧
      reg [(1, 0x42004000), (2, 0x45004400), (3, 0xBC003C00)] [] (.ffmaF16 0 7 3 1 2 0) 3 = some 0x4B004880 := by
  decide +kernel

/-- R222. -/
theorem test_float_compares :
    prd [(2, 0x80000000)] [] (.fcmp 0 7 2 1 2 0 0) 2 = some true ∧
      prd [(1, 0x7FC00000)] [] (.fcmp 0 7 2 1 2 6 0) 2 = some true ∧
      prd [(1, 0x7FC00000)] [] (.fcmp 0 7 2 1 2 1 0) 2 = some true ∧
      prd [(1, 0xBC004500), (2, 0x3C003C00)] [] (.fcmp 0 7 2 1 2 2 2) 2 = some true ∧
      prd [(1, 0x1), (2, 0x20)] [] (.fclass 0 7 2 1 2 0) 2 = some true ∧
      prd [(1, 0xFF800000), (2, 0x1)] [] (.fclass 0 7 2 1 2 0) 2 = some true := by
  decide +kernel

/-- R83, R85, R223 to R226. -/
theorem test_conversions_0 :
    reg [(1, 0x40200000)] [] (.frndF32 0 7 3 1 0) 3 = some 0x40000000 ∧
      reg [(1, 0xC0200000)] [] (.frndF32 0 7 3 1 1) 3 = some 0xC0000000 ∧
      reg [(1, 0xFFFFFFFD)] [] (.cvtToF32 0 7 3 1 0 0 12) 3 = some 0xC0400000 ∧
      reg [(1, 0x1000001)] [] (.cvtToF32 0 7 3 1 0 0 13) 3 = some 0x4B800000 ∧
      reg [(1, 0xC0003C00)] [] (.cvtToF32 0 7 3 1 0 1 1) 3 = some 0xC0000000 ∧
      reg [(1, 0xC06CCCCD)] [] (.cvtFromF32 0 7 3 1 1 0 0 12) 3 = some 0xFFFFFFFD ∧
      reg [(1, 0xC06CCCCD)] [] (.cvtFromF32 0 7 3 1 0 0 0 13) 3 = some 0x0 ∧
      reg [(1, 0x3F800000), (3, 0xAAAABBBB)] [] (.cvtFromF32 0 7 3 1 0 0 1 1) 3 = some 0xAAAA3C00 := by
  decide +kernel

/-- R83, R85, R223 to R226. -/
theorem test_conversions_1 :
    reg [(1, 0x3F800000), (2, 0x40000000)] [] (.cvtPk 0 7 3 1 2 0 1) 3 = some 0x40003C00 := by
  decide +kernel

/-- R227, R228. -/
theorem test_special_functions_0 :
    sent [(1, 0x40800000)] [] (.frcpF32 0 7 3 1) = some (.result [.reg 3 0x3E800000] false) ∧
      sent [(1, 0x40800000)] [] (.frsqF32 0 7 3 1) = some (.result [.reg 3 0x3F000000] false) ∧
      sent [(1, 0x40000000)] [] (.fsqrtF32 0 7 3 1) = some (.result [.reg 3 0x3FB504F3] false) ∧
      sent [(1, 0xC0400000)] [] (.fexp2F32 0 7 3 1) = some (.result [.reg 3 0x3E000000] false) := by
  decide +kernel

/-- R227, R228. -/
theorem test_special_functions_1 :
    sent [(1, 0x41000000)] [] (.flog2F32 0 7 3 1) = some (.result [.reg 3 0x40400000] false) ∧
      sent [(1, 0x7F800000)] [] (.ftanhF32 0 7 3 1) = some (.result [.reg 3 0x3F800000] false) ∧
      sent [(1, 0x80000000)] [] (.fsinF32 0 7 3 1) = some (.result [.reg 3 0x80000000] false) ∧
      sent [] [] (.fcosF32 0 7 3 1) = some (.result [.reg 3 0x3F800000] false) := by
  decide +kernel

/-- R77 to R79, R229, R232. -/
theorem test_xf_0 :
    sent [(8, 0x27FFE000), (12, 0x27FFE000)] [] (.xadd 0 7 16 8 12) = some (.result [.reg 16 0x28000000, .reg 17 0x0] false) ∧
      sent [(8, 0x27FFE000), (12, 0x27FFE000)] [] (.xsub 0 7 16 8 12) = some (.result [.reg 16 0x20000000, .reg 17 0x0] false) ∧
      sent [(8, 0x28000000), (12, 0x28000000)] [] (.xmul 0 7 16 8 12) = some (.result [.reg 16 0x28002000, .reg 17 0x0] false) ∧
      sent [(8, 0x28001000), (12, 0x28000000)] [] (.xdiv 0 7 16 8 12) = some (.result [.reg 16 0x27FFF000, .reg 17 0x0] false) ∧
      sent [(8, 0x27FFE000), (12, 0x27FFE000), (16, 0x28000000)] [] (.xfma 0 7 16 8 12) = some (.result [.reg 16 0x28001000, .reg 17 0x0] false) ∧
      sent [(8, 0x28002000), (12, 0x27FFE000)] [] (.xsqrt 0 7 16 8) = some (.result [.reg 16 0x28000000, .reg 17 0x0] false) := by
  decide +kernel

/-- R77 to R79, R229, R232. -/
theorem test_xf_1 :
    sent [(8, 0x27FFE000), (12, 0x27FFE000)] [] (.xneg 0 7 16 8) = some (.result [.reg 16 0x37FFE000, .reg 17 0x0] false) ∧
      sent [(8, 0x37FFE000), (12, 0x27FFE000)] [] (.xabs 0 7 16 8) = some (.result [.reg 16 0x27FFE000, .reg 17 0x0] false) ∧
      sent [(8, 0x37FFE000), (12, 0x27FFE000)] [] (.xmin 0 7 16 8 12) = some (.result [.reg 16 0x37FFE000, .reg 17 0x0] false) ∧
      sent [(8, 0x37FFE000), (12, 0x27FFE000)] [] (.xmax 0 7 16 8 12) = some (.result [.reg 16 0x27FFE000, .reg 17 0x0] false) ∧
      sent [(8, 0x40400000), (12, 0x27FFE000)] [] (.xcvtXfF32 0 7 16 8) = some (.result [.reg 16 0x28001000, .reg 17 0x0] false) ∧
      sent [(8, 0xFFFFFFFF), (12, 0x27FFE000)] [] (.xcvtXfI32 0 7 16 8) = some (.result [.reg 16 0x37FFE000, .reg 17 0x0] false) := by
  decide +kernel

/-- R77 to R79, R229, R232. -/
theorem test_xf_2 :
    sent [(8, 0xFFFFFFFF), (12, 0x27FFE000)] [] (.xcvtXfN32 0 7 16 8) = some (.result [.reg 16 0x2803DFFF, .reg 17 0xFFFFC000] false) ∧
      sent [(8, 0xFFFFFFFF), (9, 0xFFFFFFFF), (12, 0x27FFE000)] [] (.xcvtXfI64 0 7 16 8) = some (.result [.reg 16 0x37FFE000, .reg 17 0x0] false) ∧
      sent [(9, 0x1), (12, 0x27FFE000)] [] (.xcvtXfN64 0 7 16 8) = some (.result [.reg 16 0x2803E000, .reg 17 0x0] false) ∧
      sent [(8, 0x28001000)] [] (.xcvtF32Xf 0 7 3 8 0 0) = some (.result [.reg 3 0x40400000] false) ∧
      sent [(8, 0x37FFE000)] [] (.xcvtI32Xf 0 7 3 8 1) = some (.result [.reg 3 0xFFFFFFFF] false) ∧
      sent [(8, 0x37FFE000)] [] (.xcvtN32Xf 0 7 3 8 0) = some (.result [.reg 3 0] false) := by
  decide +kernel

/-- R77 to R79, R229, R232. -/
theorem test_xf_3 :
    sent [(8, 0x37FFE000)] [] (.xcvtI64Xf 0 7 4 8 0) = some (.result [.reg 4 0xFFFFFFFF, .reg 5 0xFFFFFFFF] false) ∧
      sent [(8, 0x2803E000)] [] (.xcvtN64Xf 0 7 4 8 0) = some (.result [.reg 4 0, .reg 5 1] false) ∧
      sent [(8, 0x27FFE000), (12, 0x27FFE000)] [] (.xrnd 0 7 16 8) = some (.result [.reg 16 0x27FFE000, .reg 17 0x0] false) ∧
      sent [(8, 0x27FFF000), (12, 0x27FFE000)] [] (.xrint 0 7 16 8) = some (.result [.reg 16 0x28000000, .reg 17 0x0] false) ∧
      sent [(8, 0x37FFE000), (12, 0x27FFE000)] [] (.xcmp 0 7 2 8 12 2) = some (.result [.pred 2 true] false) := by
  decide +kernel

/-- PREC and the pending trap of the first thread. -/
def prec (i : Instr) : Option Word := (threadOf (after [] [] i)).map (·.prec)
def cause (i : Instr) : Option Nat := ((threadOf (after [] [] i)).bind (·.trap)).map (·.cause)

/-- R64, R234: a P outside 1 to 237 traps. -/
theorem test_precision :
    prec (.setp 0 7 237) = some 237 ∧
      cause (.setp 0 7 238) = some 2 ∧
      cause (.setp 0 7 0) = some 2 ∧
      prec (.setrm 0 7 4) = some 0x42D ∧
      cause (.setrm 0 7 5) = some 2 ∧
      prec (.setx 0 7 1) = some 0x82D ∧
      prec (.addp 0 7 0x1FF) = some 44 ∧
      cause (.setpReg 0 7 1) = some 2 ∧
      prec (.clrxuf 0 7) = some 0x2D := by
  decide +kernel

/-- Where the last access put in flight goes. -/
def placed (v : Cells 32) (i : Instr) : Option (Space × List Nat) :=
  match sent v [] i with
  | some (.load _ _ _ a _ _ _) => some (a.space, a.bytes)
  | some (.store a _ _ _) => some (a.space, a.bytes)
  | some (.atomic _ a _ _ _ _ _) => some (a.space, a.bytes)
  | some (.red _ a _) => some (a.space, a.bytes)
  | _ => none
def stored (v : Cells 32) (i : Instr) : Option (List Byte) :=
  match sent v [] i with
  | some (.store _ data _ _) => some data
  | _ => none
def scratchBytes (a n : Nat) : Option (Space × List Nat) := some (.scratch 0, (List.range n).map (a + ·))
def pageBytes (a n : Nat) : Option (Space × List Nat) := some (.hbm, (List.range n).map (0x10000000 + a + ·))

/-- R91 to R93, R236 to R239: the own scratchpad from 0xFF0000_00000000 up, and the page of the heap. -/
theorem test_places_0 :
    placed [(4, 0x100), (5, 0xFF0000)] (.ld32 0 7 3 4 0x3FC 0) = scratchBytes 0xFC 4 ∧
      placed [(4, 0x100)] (.ld64 0 7 6 4 8 0) = pageBytes 0x108 8 ∧
      placed [(4, 0x100)] (.ld128 0 7 8 4 0x200 0x1000) = pageBytes 0x1100 16 ∧
      placed [(4, 0x100), (5, 0xFF0000)] (.ldN8 0 7 3 4) = scratchBytes 0x100 1 ∧
      placed [(4, 0x100)] (.ldAcq32 0 7 3 4) = pageBytes 0x100 4 := by
  decide +kernel

/-- R91 to R93, R236 to R239: the own scratchpad from 0xFF0000_00000000 up, and the page of the heap. -/
theorem test_places_1 :
    placed [(4, 0x100)] (.ldN16H1 0 7 3 4) = pageBytes 0x100 2 ∧
      placed [(4, 0x100), (5, 0xFF0000)] (.st32 0 7 3 4 4 0) = scratchBytes 0x104 4 ∧
      placed [(4, 0x100)] (.atomAddI32 0 7 3 4 1) = pageBytes 0x100 4 ∧
      placed [(4, 0x100)] (.red 0 7 5 4 2) = pageBytes 0x100 8 := by
  decide +kernel

/-- R5, R238, R239: little-endian. -/
theorem test_stored_bytes :
    stored [(3, 0x12345678), (4, 0x100), (5, 0xFF0000)] (.st32 0 7 3 4 0 0) = some [0x78, 0x56, 0x34, 0x12] ∧
      stored [(3, 0x1234), (4, 0x100), (5, 0xFF0000)] (.stN8 0 7 3 4) = some [0x34] ∧
      stored [(3, 0x12345678), (4, 0x100), (5, 0xFF0000)] (.stN16H1 0 7 3 4) = some [0x34, 0x12] ∧
      stored [(4, 0x100), (5, 0xFF0000), (6, 0x1), (7, 0x2)] (.stRel64 0 7 6 4) = some [1, 0, 0, 0, 2, 0, 0, 0] ∧
      stored [(4, 0x100), (5, 0xFF0000), (8, 0x27FFE000)] (.xstMin 0 7 8 4) = some [0x00, 0xE0, 0xFF, 0x07] := by
  decide +kernel

/-- Where the first thread stands after an instruction of 0x1000. -/
def pcAfter (v : Cells 32) (i : Instr) : Option (BitVec 56) := (threadOf (after v [] i)).map (·.pc)
def parked (i : Instr) : Option Park := (threadOf (after [] [] i)).map (·.park)

/-- R181 to R185. -/
theorem test_control_0 :
    pcAfter [] (.bra 7 0 3) = some 0x1030 ∧
      pcAfter [] (.bra 0 0 3) = some 0x1010 ∧
      pcAfter [] (.call 0x1FFFFF) = some 0xFF0 ∧
      pcAfter [(2, 0x2000)] (.callx 2) = some 0x2000 := by
  decide +kernel

/-- R181 to R185. -/
theorem test_control_1 :
    pcAfter [(2, 0x2000)] (.brx 2) = some 0x2000 ∧
      (threadOf (after [] [] (.call 2))).map (·.rstack) = some [0x0100000000001010] ∧
      (threadOf (after [] [] .exit)).map (·.exited) = some true := by
  decide +kernel

/-- R186 to R195. -/
theorem test_synchronisation_0 :
    (threadOf (after [] [] (.tuttiArv 1 2))).map (fun h => predOf h.preds 2) = some false ∧
      (teamOf (after [] [] (.tuttiArv 1 2))).map (fun t => ((t.frame 0).bar 1).count) = some 2 ∧
      parked (.tutti 3) = some (.bar 3) ∧
      parked (.tuttiWait 0 7) = some .none := by
  decide +kernel

/-- R186 to R195. -/
theorem test_synchronisation_1 :
    parked .cbar = some .cbar ∧
      parked .tret = some .none ∧
      (threadOf (after [] [] (.elect 1))).map (fun h => predOf h.preds 1) = some true := by
  decide +kernel

/-- R63 to R66, R196 to R199. -/
theorem test_keys_and_system_registers_0 :
    (threadOf (after [] [] (.setkeyImm 9))).map (·.akey) = some 9 ∧
      (threadOf (after [] [] (.trap 7))).bind (fun h => h.trap.map (·.cause)) = some 4 ∧
      (threadOf (after [] [] (.brk 7))).bind (fun h => h.trap.map (·.cause)) = some 5 ∧
      (threadOf (after [] [] (.yield 5))).bind (·.yieldAt) = some 5 := by
  decide +kernel

/-- R63 to R66, R196 to R199. -/
theorem test_keys_and_system_registers_1 :
    reg [] [] (.mfsrV 0 3 7) 3 = some 0x2 ∧
      reg [] [] (.mfsrV 0 3 9) 3 = some 0x1 ∧
      uni [] [] (.mfsrU 0 4 0x11) 4 = some 0x40 ∧
      (threadOf (after [(1, 0xED)] [] (.mtsrV 0 1 0))).map (·.prec) = some 0xED := by
  decide +kernel

/-- R250 to R256: two lanes. -/
theorem test_group_0 :
    reg [(1, 0x1)] [(8, 0x3)] (.pollAll 0 7 3 1 8) 3 = some 0x1 ∧
      reg [] [(8, 0x3)] (.pollAny 0 7 3 1 8) 3 = some 0x0 ∧
      reg [(1, 0x5)] [(8, 0x3)] (.pollMask 0 7 3 1 8) 3 = some 0x3 ∧
      reg [(1, 0x5)] [(8, 0x3)] (.pollSame 0 7 3 1 8) 3 = some 0x3 := by
  decide +kernel

/-- R250 to R256: two lanes. -/
theorem test_group_1 :
    reg [(1, 0x5)] [(8, 0x3)] (.gredAddI32 0 7 3 1 8) 3 = some 0xA ∧
      reg [(1, 0xFFFFFFFB)] [(8, 0x3)] (.gredMinI32 0 7 3 1 8) 3 = some 0xFFFFFFFB ∧
      reg [(1, 0xFFFFFFFB)] [(8, 0x3)] (.gredMaxI32 0 7 3 1 8) 3 = some 0xFFFFFFFB ∧
      reg [(1, 0x3FC00000)] [(8, 0x3)] (.gredAddF32 0 7 3 1 8) 3 = some 0x40400000 := by
  decide +kernel

/-- R250 to R256: two lanes. -/
theorem test_group_2 :
    reg [(1, 0x5)] [(8, 0x3)] (.gscanAddI32 0 7 3 1 8) 3 = some 0x5 ∧
      reg [(1, 0x5)] [(8, 0x3)] (.gscanAddXI32 0 7 3 1 8) 3 = some 0x0 ∧
      reg [(1, 0x5)] [(8, 0x3)] (.gcompact 0 7 3 1 8) 3 = some 0x20000 ∧
      reg [(1, 0x5), (3, 0x1)] [(8, 0x3), (9, 0x200)] (.pluckAt 0 7 3 1 8) 3 = some 0x5 := by
  decide +kernel

/-- The accumulator and the handles after an instruction. -/
def accOf (v : Cells 32) (i : Instr) : Option (Cells 32) := (teamOf (after v [] i)).map (·.acc)

/-- R265, R271, R274, R275: both threads add to entry 6. -/
theorem test_engine_words_0 :
    accOf [(1, 6), (2, 9)] (.accwr 0 7 1 2) = some [(6, 9)] ∧
      accOf [(1, 6), (2, 9)] (.accaddI32 0 7 1 2) = some [(6, 18)] ∧
      accOf [(1, 6), (2, 0x3F800000)] (.accaddF32 0 7 1 2) = some [(6, 0x40000000)] ∧
      sent [(1, 0x6)] [] (.accrd 0 7 3 1) = some (.result [.reg 3 0] false) ∧
      sent [] [] (.waitc 7 1 2) = some (.waitc 1 false 2) := by
  decide +kernel

/-- R265, R271, R274, R275: both threads add to entry 6. -/
theorem test_engine_words_1 :
    sent [] [] (.waitcCons 7 2) = some (.waitc 1 true 2) ∧
      sent [] [] (.fence 7) = some (.fence 0) ∧
      sent [] [] (.fenceAcq 7) = some (.fence 1) ∧
      sent [] [] (.fenceRel 7) = some (.fence 2) := by
  decide +kernel

/-- R210. -/
theorem test_rand :
    reg [(1, 0x3039), (2, 0x10932)] [] (.rand 0 7 3 1 2) 3 = some 0x676A8E24 := by
  decide +kernel

/-! ## States and operands that meet the statements' hypotheses

For each statement one or more theorems: the hypotheses of its clauses hold together at concrete values, at the edges of their ranges where
they have any. -/

/-- The machine of the tests with its time bases at 1,000, and one UCIe module up, over which its host reaches it. -/
def st : State :=
  { machine [] [] with times := List.replicate 10 { value := 1000, since := 0, rate := 1, span := 0 },
                       dev := { (machine [] []).dev with links := [(0x100, 64)] } }
def tm : Team := pairTeam [] []
def th (r : Nat) : Thread := Thread.fresh pairDesc 0 0 r

/-- A word of the bundle: its team, its two threads, its lowest-ranked thread and its frame. -/
theorem issues : st.Issues pairBundle tm ∧ tm.thread? 0 = some (th 0) ∧ tm.thread? 1 = some (th 1) ∧ pairBundle.Executes tm 7 (th 0) ∧
    ¬ pairBundle.Executes tm 0 (th 1) ∧ lowest pairBundle tm = some (th 0) ∧ pairBundle.frame < tm.frames.length := by
  unfold State.Issues Bundle.Executes; decide +kernel

theorem witness_EncodeDecode : (Instr.ld64 1 7 62 62 0x200 0xFFFFFFFF).wf = true ∧ (Instr.ld64 1 7 62 62 0x200 0xFFFFFFFF).isWord = true ∧
    (Instr.exit).wf = true ∧ (Instr.exit).isWord = true := by decide +kernel
theorem witness_DecodeEncode : decodeWord 0x08C40A00 (some 0xDEADBEEF) = .ok (.iaddImm 0 3 4 2 0x200 0xDEADBEEF) ∧
    decodeWord 0x01C10830 none = .ok (.iadd 0 7 1 2 3) := ⟨rfl, rfl⟩
/-- Fields of R214: a reserved function at its first value and at the last, a field that must be 0, an escape without its literal. -/
theorem witness_ReservedEncodings :
    (0x0200000A#32).toNat / 2 ^ 25 % 64 = 1 ∧ (0x0200000A#32).toNat % 16 = 10 ∧ (0x0200000F#32).toNat % 16 = 15 ∧
    (0x04000007#32).toNat / 2 ^ 25 % 64 = 2 ∧ (0x04000007#32).toNat % 16 = 7 ∧ (0x12000004#32).toNat / 2 ^ 25 % 64 = 9 ∧ (0x12000004#32).toNat % 8 = 4 ∧
    (0x02000014#32).toNat / 2 ^ 25 % 64 = 1 ∧ (0x02000014#32).toNat / 2 ^ 4 % 64 = 1 ∧
    (0x08000200#32).toNat / 2 ^ 25 % 64 = 4 ∧ (0x08000200#32).toNat % 1024 = 0x200 ∧ (0x1A000020#32).toNat / 2 ^ 25 % 64 = 13 ∧ (0x1A000020#32).toNat % 64 = 0x20 := by
  decide
/-- A bundle at a word; a step of the agenda. -/
theorem witness_StepRuns :
    st.agenda = [] ∧ st.bundle = some pairBundle ∧
    decodeWord (slotWord [0x0A000000, 0x01C10830, 0, 0] 1) (slotLit [0x0A000000, 0x01C10830, 0, 0] 1) = .ok (.iadd 0 7 1 2 3) ∧
    (Instr.managementDoorbell 1).isWord = false := ⟨rfl, rfl, rfl, rfl⟩
theorem witness_MemoriesStayCanonical : State.reset.MemoriesOk ∧ st.MemoriesOk ∧ st.mem ≠ [] := by
  unfold State.MemoriesOk; decide +kernel
theorem witness_MemoriesStayCanonical_step : ∃ t, step { st with agenda := [⟨0, [], none, some (.hostCxlWrite 0x10000000 [0, 1])⟩] } = .next t ∧ t.mem ≠ st.mem :=
  ⟨_, rfl, by decide +kernel⟩
theorem witness_MeasurementsStay : (∀ r, Instr.iadd 0 7 3 1 2 ≠ .powerOn r ∧ Instr.iadd 0 7 3 1 2 ≠ .coldReset r ∧ Instr.iadd 0 7 3 1 2 ≠ .warmReset r) ∧
    (∀ p r d k, Instr.iadd 0 7 3 1 2 ≠ .fwload p r d k) ∧ ∃ t, exec (.iadd 0 7 3 1 2) st = .next t := ⟨by simp, by simp, _, rfl⟩

/-! The statements whose hypotheses say only that a bundle is at the word. -/
theorem witness_IntegerArithmetic : st.Issues pairBundle tm := issues.1
theorem witness_LogicAndShifts : st.Issues pairBundle tm := issues.1
theorem witness_BitFields : st.Issues pairBundle tm := issues.1
theorem witness_ImmediateForms : st.Issues pairBundle tm := issues.1
/-- Every relation of the compare, up to the last. -/
theorem witness_IntegerCompare : st.Issues pairBundle tm ∧ (Instr.icmp 0 7 6 1 2 6 3).wf = true := ⟨issues.1, rfl⟩
theorem witness_MovesAndPredicates : st.Issues pairBundle tm := issues.1
theorem witness_RandomWord : st.Issues pairBundle tm := issues.1
theorem witness_UniformArithmetic : st.Issues pairBundle tm ∧ lowest pairBundle tm = some (th 0) ∧ pairBundle.frame < tm.frames.length :=
  ⟨issues.1, issues.2.2.2.2.2⟩
theorem witness_UniformMoves : st.Issues pairBundle tm ∧ lowest pairBundle tm = some (th 0) ∧ pairBundle.frame < tm.frames.length :=
  ⟨issues.1, issues.2.2.2.2.2⟩
theorem witness_UniformCompare : st.Issues pairBundle tm ∧ (1 ≤ 6 ∧ 6 ≤ 6) := ⟨issues.1, by decide⟩
theorem witness_SingleArithmetic : st.Issues pairBundle tm := issues.1
theorem witness_PackedHalves : st.Issues pairBundle tm := issues.1
theorem witness_FloatCompare : st.Issues pairBundle tm ∧ (4#3).toNat ≤ 4 ∧ (7#4).toNat ≤ 7 := ⟨issues.1, by decide⟩
/-- The last rounding mode, and a format of each clause. -/
theorem witness_Conversions : st.Issues pairBundle tm ∧ (3#3).toNat ≤ 3 ∧ (Instr.cvtToF32 0 7 3 1 3 0 12).wf = true ∧
    (Instr.cvtFromF32 0 7 3 1 3 0 0 13).wf = true ∧ (Instr.cvtFromF32 0 7 3 1 3 0 2 1).wf = true ∧ (Instr.cvtFromF32 0 7 3 1 3 0 0 14).wf = true ∧
    (Instr.cvtPk 0 7 3 1 2 1 6).wf = true := ⟨issues.1, by decide, rfl, rfl, rfl, rfl, rfl⟩
theorem witness_ExactConversions : st.Issues pairBundle tm ∧ (Instr.cvtToF32 0 7 3 1 0 1 1).wf = true ∧ (Instr.cvtToF32 0 7 3 1 0 3 3).wf = true ∧
    (Instr.cvtToF32 0 7 3 1 0 1 11).wf = true := ⟨issues.1, rfl, rfl, rfl⟩
theorem witness_ExactConversions_value : ∃ q, (srcVal 1 0 0x3C00 0).num = some q := ⟨_, rfl⟩
theorem witness_SpecialFunctions : st.Issues pairBundle tm := issues.1
theorem witness_SpecialValues : (decF32 0x7F800001).isNan = true ∧ (decF32 0xFFFFFFFF).isNan = true ∧ (1 : Nat) ≠ 0 := by decide +kernel
theorem witness_ExactValues : ∃ p q, (Val.fin true 3 (-1)).num = some p ∧ (Val.fin false 0 0).num = some q := ⟨_, _, rfl, rfl⟩
theorem witness_RoundsToNearestEven : ∃ x r y, (Val.fin false 1 (-150)).num = some x ∧ encF32 (.fin false 1 (-150)) = 0 ∧ (decF32 0).num = some r ∧
    (decF32 1).num = some y := ⟨_, _, _, rfl, by decide +kernel, rfl, rfl⟩
theorem witness_SingleEncoding : (decF32 0x80000001).isNan = false ∧ (decF32 0x7FC00000).isNan = true ∧ (2 : ℚ) ^ 128 ≤ ((1 : Nat) : ℚ) * (2 : ℚ) ^ (128 : Int) :=
  ⟨by decide +kernel, by decide +kernel, by norm_num⟩
theorem witness_XfArithmetic : st.Issues pairBundle tm := issues.1
theorem witness_XfConversionsAndCompare : st.Issues pairBundle tm ∧ (7#4).toNat ≤ 7 := ⟨issues.1, by decide⟩
theorem witness_PrecisionControl : st.Issues pairBundle tm := issues.1
/-- The extreme precisions; a value held exactly, one beyond the range and one below it. -/
theorem witness_XfWrite : precP 1 = 1 ∧ precP 237 = 237 ∧ precRM 0x4ED ≤ 4 ∧ (∃ x, (Val.fin false 1 0).num = some x) ∧
    (1 : Nat).log2 ≤ 1 ∧ (-16382 : Int) ≤ ((1 : Nat).log2 : Int) + -16382 ∧ ((1 : Nat).log2 : Int) + 16383 ≤ 16383 ∧
    (16384 : Int) ≤ ((1 : Nat).log2 : Int) + 16384 ∧ precRM 237 = 0 ∧ ((1 : Nat).log2 : Int) + -16384 < -16383 :=
  ⟨by decide +kernel, by decide +kernel, by decide +kernel, ⟨_, rfl⟩, by decide +kernel, by decide +kernel, by decide +kernel, by decide +kernel,
    by decide +kernel, by decide +kernel⟩
theorem witness_Loads : st.Issues pairBundle tm := issues.1
theorem witness_Stores : st.Issues pairBundle tm := issues.1
theorem witness_XfElements : st.Issues pairBundle tm := issues.1
theorem witness_AtomicsAndRed : st.Issues pairBundle tm := issues.1
theorem witness_FencesAndPrefetch : st.Issues pairBundle tm ∧ st.ctx? tm.ctx = some fetchContext ∧ isLocal 0x100 = false := ⟨issues.1, rfl, by decide +kernel⟩
theorem witness_GroupWords : st.Issues pairBundle tm := issues.1
theorem witness_EngineWords : st.Issues pairBundle tm ∧ st.accOf tm = 65536 ∧ (65535 % 1 = 0 ∧ 65535 + 1 ≤ 65536) ∧ (65532 % 4 = 0 ∧ 65532 + 4 ≤ 65536) := by
  unfold State.Issues; decide +kernel
theorem witness_EngineWaits : st.Issues pairBundle tm := issues.1
theorem witness_ControlTransfer : st.Issues pairBundle tm := issues.1
theorem witness_Synchronisation : st.Issues pairBundle tm := issues.1
theorem witness_KeysTrapsAndRegisters : st.Issues pairBundle tm ∧ st.debugMode tm = 0 ∧ (2#8).toNat ≥ 2 ∧ (0xFF#8).toNat ≥ 2 ∧ lowest pairBundle tm = some (th 0) :=
  ⟨issues.1, by decide +kernel, by decide, by decide, issues.2.2.2.2.2.1⟩

/-! Addresses (R91 to R97): the last byte that each clause admits, and the first that it does not. -/

def mapped : State := { st with cores := [{ Core.fresh 0 0 with split := 1, tlb := [⟨0, 0, 0x10000000, 2 ^ 25, ⟨0, false, false, false, true⟩⟩] }] }
theorem witness_AddressRules_local :
    st.scratchSize tm = 65536 ∧ st.clusterSize tm = 1 ∧ (st.mate? tm 0).isSome = true ∧ (0xFF00000000FFFC % 4 = 0 ∧ 0xFF00000000FFFC / 2 ^ 48 = 0xFF) ∧
    (0xFF00000000FFFC % 2 ^ 48 / 2 ^ 32 = 0 ∧ 0xFF00000000FFFC % 2 ^ 32 + 4 ≤ 65536) ∧ 65536 < 0xFF000000010000 % 2 ^ 32 + 4 ∧
    (0xFF00010000FFFC % 2 ^ 48 / 2 ^ 32 = 1 ∧ 0xFF00010000FFFC % 2 ^ 32 / 2 ^ 20 = 0) ∧ (0xFF000100100000 % 2 ^ 48 / 2 ^ 32 = 1 ∧ 1 ≤ 0xFF000100100000 % 2 ^ 32 / 2 ^ 20) ∧
    (0xFF000200000444 % 2 ^ 48 / 2 ^ 32 = 2 ∧ 0xFF000200000444 % 2 ^ 32 / 2 ^ 8 = 4 ∧ 0xFF000200000444 % 2 ^ 32 % 2 ^ 8 + 4 = 0x48) ∧
    0x48 < 0xFF000200000448 % 2 ^ 32 % 2 ^ 8 + 4 ∧ 3 ≤ 0xFF000300000000 % 2 ^ 48 / 2 ^ 32 ∧ 0xFF000300000001 % 4 ≠ 0 := by decide +kernel
theorem witness_AddressRules_global :
    st.ctx? tm.ctx = some fetchContext ∧ fetchContext.heapBase + fetchContext.heapLim < 0x1FFFFFD + 4 ∧ 0x1FFFFFC + 4 ≤ fetchContext.heapBase + fetchContext.heapLim ∧
    (∃ k e, mapped.core? tm.die tm.core = some k ∧ k.tlb.find? (fun e => e.covers 0 ((0x1FFFFFC + 0) % 2 ^ 48)) = some e ∧ e.attr.w = false) :=
  ⟨rfl, by decide, by decide, _, _, rfl, rfl, rfl⟩

/-! Page tables (R95, R96): a table, a leaf of each size, and entries that are not valid. -/

def twoLevels : State := { st with mem := putBytes (putBytes (putBytes [] 0x12000000 (toLe 8 0x12020001)) 0x12020000 (toLe 8 0x12040001)) 0x12040000 (toLe 8 0x100000B3) }
theorem witness_PageTables :
    st.dev.badGranules = [] ∧ st.dev.retiredHbm = [] ∧ leNat (getBytes st.mem (0x12000000 + 8 * 1) 8) % 2 = 0 ∧
    leNat (getBytes st.mem 0x12000000 8) = 0x12020001 ∧ fetchContext.owns 0x12020000 (2 ^ 17) = true ∧ 0x12020000 + 2 ^ 17 ≤ hbmSize ∧
    leNat (getBytes st.mem 0x12020000 8) = 0x100000B3 ∧ fetchContext.owns 0x10000000 (2 ^ 25) = true ∧ 0x100000B3 / 2 % 2 = 1 ∧ 0x100000B3 / 64 % 8 ≤ 3 ∧
    0x100000B3 / 2 ^ 16 % 2 ^ 9 = 0 ∧ leNat (getBytes st.mem (0x12020000 + 8 * 1) 8) % 2 = 0 ∧
    leNat (getBytes twoLevels.mem 0x12020000 8) = 0x12040001 ∧ fetchContext.owns 0x12040000 (2 ^ 12) = true ∧
    leNat (getBytes twoLevels.mem (0x12040000 + 8 * 1) 8) % 2 = 0 ∧ leNat (getBytes twoLevels.mem 0x12040000 8) = 0x100000B3 := by decide +kernel

/-! Group results (R250 to R256). -/

def arrival (op : GroupOp) : GroupArrival := { op := op, packet := 0x1000, mask := 0xFFFFFFFF, param := 0x21F, d := 3, a0 := 5, a1 := 6, dOld := 7, flag := some 0 }
theorem witness_GroupResults : let l : Lanes := List.replicate 32 (some (arrival (.poll 0)))
    l.length = 32 ∧ 31 < 32 ∧ l.at_ 31 = some (arrival (.poll 0)) ∧ l.at_ 0 = some (arrival (.poll 0)) := by decide +kernel
def arrivedTeam : Team :=
  { tm with threads := [{ th 0 with garr := some { arrival (.gredI 0) with mask := 3 }, park := .group }, { th 1 with exited := true }] }
theorem witness_RendezvousCompletes : ∃ h a, ({ st with teams := [arrivedTeam] }).team? 0 = some arrivedTeam ∧ arrivedTeam.thread? 0 = some h ∧ h.garr = some a ∧
    a.op ≠ .gsync ∧ arrivedTeam.groupFull h a = true ∧ (arrivedTeam.threads.map (·.lrank)).Nodup :=
  ⟨_, _, rfl, rfl, rfl, by decide, by decide +kernel, by decide +kernel⟩
/-! Accesses in flight (R112 to R119, R129, R159): one operation of thread 0, number 5. -/

def opAt (b : OpBody) : Op := { id := 5, team := 0, lrank := 0, flag := some 2, hold := .none, issue := 0, sectors := b.sectors, body := b }
def withOp (b : OpBody) : State :=
  { st with bundle := none, ops := [opAt b], nextId := 6, teams := [{ tm with threads := [{ th 0 with flags := 4 }, th 1] }] }
def page (a n scope : Nat) (red : Bool) : Access :=
  { space := .hbm, bytes := (List.range n).map (0x10000000 + a + ·), va := a, attr := { scope := scope, red := red, bow := false, w := true, x := true } }
def scr (a n : Nat) : Access := { space := .scratch 0, bytes := (List.range n).map (a + ·), va := 0xFF000000000000 + a, attr := noAttr }
def memAfter (s : State) (i : Instr) (a n : Nat) : Option (List Byte) := (afterIn s i).map fun t => getBytes t.mem (0x10000000 + a) n
def bodyAfter (s : State) (i : Instr) : Option OpBody := ((afterIn s i).bind (·.op? 5)).map (·.body)
def inFlight (s : State) : Bool := decide (s.op? 5 ≠ none) && (s.team? 0).isSome && ((s.team? 0).bind (·.thread? 0)).isSome

def storing (a : Access) : State := withOp (.store a [1, 2, 3, 4] false none)
/-- A store to a page of PACKAGE scope, at the last bytes of a line, and one to the scratchpad. -/
theorem witness_WritesAtTheirHomes_store :
    inFlight (storing (page 0x7C 4 3 false)) = true ∧ (storing (page 0x7C 4 3 false)).mayPerform (opAt (.store (page 0x7C 4 3 false) [1, 2, 3, 4] false none)) = true ∧
    (storing (page 0x7C 4 3 false)).partials = [] ∧
    (∀ p ∈ (page 0x7C 4 3 false).bytes, (st.lineMeta (lineOf p)).lease ≤ st.gtime (homeDie p) + st.leaseLen 0 3) ∧
    memAfter (storing (page 0x7C 4 3 false)) (.storeAtHome 5) 0x7C 4 = some [1, 2, 3, 4] ∧ bodyAfter (storing (page 0x7C 4 3 false)) (.storeAtHome 5) = some (.written 1001) ∧
    tm.standing ≠ .ended ∧ (storing (scr 0x100 4)).mayPerform (opAt (.store (scr 0x100 4) [1, 2, 3, 4] false none)) = true ∧
    (teamOf (afterIn (storing (scr 0x100 4)) (.storeAtHome 5))).map (fun t => getBytes t.scratch 0x100 4) = some [1, 2, 3, 4] := by decide +kernel
/-- An atomic of the last function on eight bytes, and an add that wraps. -/
theorem witness_WritesAtTheirHomes_atomic :
    (page 0x100 8 0 false).bytes.length = 8 ∧ 13 ≤ 13 ∧ bodyAfter (withOp (.atomic 13 (page 0x100 8 0 false) 0 7 3 false false)) (.atomicAtHome 5) =
      some (.atomicDone 3 true 0 false 0 1001) ∧
    memAfter (withOp (.atomic 13 (page 0x100 8 0 false) 0 7 3 false false)) (.atomicAtHome 5) 0x100 8 = some [7, 0, 0, 0, 0, 0, 0, 0] ∧
    memAfter (withOp (.atomic 0 (page 0x100 4 0 false) 0xFFFFFFFF 0 3 false false)) (.atomicAtHome 5) 0x100 4 = some [0xFF, 0xFF, 0xFF, 0xFF] := by decide +kernel
/-- A RED of the last operation on a page that is no RED page, and one on a RED page. -/
theorem witness_WritesAtTheirHomes_red :
    memAfter (withOp (.red 10 (page 0x100 4 0 false) 0x3F800000)) (.atomicAtHome 5) 0x100 4 = some [0, 0, 0x80, 0x3F] ∧
    (withOp (.red 10 (page 0x100 4 1 true) 0x3F800000)).mayPerform (opAt (.red 10 (page 0x100 4 1 true) 0x3F800000)) = true ∧
    (afterIn (withOp (.red 10 (page 0x100 4 1 true) 0x3F800000)) (.redAtDieL2 5)).map (·.partials) =
      some [{ die := 0, pa := 0x10000100, rop := 10, width := 4, value := 0x3F800000 }] := by decide +kernel
theorem witness_WritesAtTheirHomes_host : (hbmSize - 2) + [1#8, 2#8].length ≤ hbmSize ∧ st.partials = [] ∧
    memAfter st (.hostCxlWrite 0x10000200 [1, 2]) 0x1FF 4 = some [0, 1, 2, 0] ∧
    st.dev.hosted = true ∧ (afterIn { st with dev := { st.dev with links := [] } } (.hostCxlWrite 0x10000200 [1, 2])).map (fun t => getBytes t.mem 0x1FF 4) =
      some [0, 0, 0, 0] ∧ (afterIn st (.hostCxlWrite 0x10000200 [1, 2])).map (fun t => (t.lineMeta (lineOf 0x10000200)).host) = some true := by decide +kernel

def held (s : State) (i : Instr) : Option Thread := threadOf (afterIn s i)
theorem witness_Completions_results :
    inFlight (withOp (.written 1001)) = true ∧ (held (withOp (.written 1001)) (.writeCompletionReturn 5)).map (fun h => (h.fh, h.flags)) = some (1001, 0) ∧
    (held (withOp (.result [.reg 3 7] true)) (.trackedOpCompletion ⟨5, []⟩)).map (fun h => (h.rd 3, h.prec)) = some (7, 0x102D) ∧
    ((held (withOp (.trapping ⟨1, 1, 0, 0x1000, 0x1010⟩)) (.trackedOpCompletion ⟨5, []⟩)).bind (·.trap)).isSome = true ∧
    (held (withOp (.atomicDone 4 true 0x100000002 true 9 1001)) (.trackedOpCompletion ⟨5, []⟩)).map (fun h => (h.rd 4, h.rd 5, h.rh)) = some (2, 1, 9) := by decide +kernel
/-- A uniform write of the team's frame, the first of its course. -/
def uniformWrite : State := withOp (.uniform 0 0 [0, 1] [(3, 7)])
theorem witness_Completions_uniform :
    inFlight uniformWrite = true ∧ 0 < tm.frames.length ∧ ([(3, 7)] : List (Nat × Word)).map (·.1) = [3] ∧ uniformWrite.ops.length = 1 ∧
    (teamOf (afterIn uniformWrite (.trackedOpCompletion ⟨5, []⟩))).map (fun t => t.uget 0 3) = some 7 ∧
    (afterIn uniformWrite (.trackedOpCompletion ⟨5, []⟩)).map (·.ops) = some [] := by decide +kernel
def ready (bits : BitVec 64) : State :=
  { withOp (.ffr 3 6 0x1000) with cores := [{ Core.fresh 0 0 with split := 1, tagrdy := bits }], teams := [{ tm with tags := 6 }] }
theorem witness_Completions_ffr : (6 : BitVec 64) &&& ~~~6 = 0 ∧ (ready 6).pushing (opAt (.ffr 3 6 0x1000)) = false ∧ 2 ≤ (ready 6).gtime 0 ∧
    (held (ready 6) (.trackedOpCompletion ⟨5, []⟩)).map (·.rd 3) = some 1 ∧ (held (ready 0) (.trackedOpCompletion ⟨5, []⟩)).map (·.rd 3) = some 64 := by decide +kernel
def loading (kind : LoadKind) (a : Access) (got : Option (List Byte × Nat)) : State := withOp (.load kind 4 (some 8) a true got ⟨0, 1, 0, 0x1000, 0x1010⟩)
/-- Data that a fill brought, and data read at the place, of each kind of load. -/
theorem witness_Completions_loads :
    (held (loading (.plain 8) (page 0x100 8 0 false) (some ([1, 0, 0, 0, 2, 0, 0, 0], 77))) (.loadCompletion ⟨5, []⟩)).map (fun h => (h.rd 4, h.rd 5, h.rh)) = some (1, 2, 77) ∧
    (loading .half1 (scr 0x100 2) none).mayPerform (opAt (.load .half1 4 (some 8) (scr 0x100 2) true none ⟨0, 1, 0, 0x1000, 0x1010⟩)) = true ∧
    (held (loading .half1 (scr 0x100 2) (some ([1, 2], 0))) (.loadCompletion ⟨5, []⟩)).map (·.rd 4) = some 0x02010000 ∧
    (held (loading .half0 (scr 0x100 2) (some ([1, 2], 0))) (.loadCompletion ⟨5, []⟩)).map (·.rd 4) = some 0x0201 ∧
    (held (loading .fill (scr 0x100 8) (some ([0, 0x10, 0, 0, 0, 0, 0, 1], 0))) (.loadCompletion ⟨5, []⟩)).map (·.rstack) = some [0x0100000000001000] ∧
    (held (loading .xf (page 0x100 8 0 false) (some ([0, 0xE0, 0xFF, 0x27, 5, 0, 0, 0], 0))) (.loadCompletion ⟨5, []⟩)).map (fun h => (h.rd 4, h.rd 5, h.rd 8)) =
      some (0x27FFE000, 5, 0x108) ∧ xfLen 0x27FFE000 ≤ 2 ∧ 4 + 2 ≤ (th 0).nreg ∧
    (held (loading (.xfRound 0x2D) (page 0x100 4 0 false) (some ([0, 0xE0, 0xFF, 0x07], 0))) (.loadCompletion ⟨5, []⟩)).map (fun h => (h.rd 4, h.rd 5)) =
      some (0x27FFE000, 0) := by decide +kernel

/-- One register of a result, and one of a load, before the other. -/
theorem witness_Completions_parts :
    (held (withOp (.result [.reg 3 7, .reg 4 9] true)) (.trackedOpCompletion ⟨5, [4]⟩)).map (fun h => (h.rd 3, h.rd 4, h.flags)) = some (0, 9, 4) ∧
    (held (loading (.plain 8) (scr 0x100 8) (some ([1, 0, 0, 0, 2, 0, 0, 0], 0))) (.loadCompletion ⟨5, [5]⟩)).map (fun h => (h.rd 4, h.rd 5, h.flags)) = some (0, 2, 4) ∧
    (held (withOp (.atomicDone 4 true 5 false 9 1001)) (.writeCompletionReturn 5)).isSome = true ∧
    (let t : Team := { tm with threads := [{ th 0 with flags := 4, exited := true }, th 1] }
     (held { withOp (.atomicDone 4 true 5 false 9 1001) with teams := [t] } (.trackedOpCompletion ⟨5, []⟩)).map (fun h => (h.rd 4, h.fh)) = some (0, 1001)) := by decide +kernel
def filling : State := loading (.plain 4) (page 0x17C 4 3 false) none
/-- The last word of a line, in a page of PACKAGE scope. -/
theorem witness_LinesAndPages_fill :
    inFlight filling = true ∧ filling.mayPerform (opAt (.load (.plain 4) 4 (some 8) (page 0x17C 4 3 false) true none ⟨0, 1, 0, 0x1000, 0x1010⟩)) = true ∧
    (∀ p ∈ (page 0x17C 4 3 false).bytes, lineOf p = 0x10000100 / 128) ∧ filling.partials = [] ∧ filling.poisoned ((List.range 128).map (0x10000100 + ·)) = false ∧
    filling.keptWords tm (0x10000100 / 128) = [] ∧ filling.fillWaits tm (opAt (.load (.plain 4) 4 (some 8) (page 0x17C 4 3 false) true none ⟨0, 1, 0, 0x1000, 0x1010⟩)) (0x10000100 / 128) = false ∧
    filling.ops.length = 1 ∧ (filling.core? 0 0).isSome = true ∧ (filling.lineMeta (0x10000100 / 128)).lease ≤ filling.gtime (homeDie 0x10000100) + filling.leaseLen 0 3 ∧
    filling.gtime (homeDie 0x10000100) ≤ filling.gtime 0 + 2 ∧
    bodyAfter filling (.l1Fill 5 []) = some (.load (.plain 4) 4 (some 8) (page 0x17C 4 3 false) true (some ([0, 0, 0, 0], 0)) ⟨0, 1, 0, 0x1000, 0x1010⟩) := by decide +kernel
theorem witness_LinesAndPages_others :
    inFlight (withOp (.prefetch (page 0x100 4 0 false) true)) = true ∧
    (∀ p ∈ (page 0x100 4 0 false).bytes, (withOp (.prefetch (page 0x100 4 0 false) true)).fillWaits tm (opAt (.prefetch (page 0x100 4 0 false) true)) (lineOf p) = false) ∧
    (afterIn (withOp (.prefetch (page 0x100 4 0 false) true)) (.l1Fill 5 [])).map (·.ops) = some [] ∧
    fetchContext.inWindow 0x1FFFFFF 1 = true ∧ fetchContext.inWindow 0x2000000 1 = false ∧ (st.core? 0 0).isSome = true ∧
    (∃ c, st.core? 0 0 = some c ∧ c.tlb = []) ∧ st.dtlb = [] ∧
    st.walk fetchContext 0x1FFFFFF 0 3 1 0x12000000 = .ok ⟨0, 0, 0x10000000, 2 ^ 25, ⟨2, false, false, true, true⟩⟩ ∧
    st.walk fetchContext (2 ^ 39) 0 3 1 0x12000000 = .fault 4 ∧ hbmSize - 1 < hbmSize ∧ st.dev.ring = none :=
  ⟨by decide +kernel, by decide +kernel, by decide +kernel, by decide, by decide, rfl, ⟨_, rfl, rfl⟩, rfl, by decide +kernel, by decide +kernel, by decide, rfl⟩
def wearing : State := { st with dev := { st.dev with worn := [4] } }
theorem witness_LinesAndPages_granules :
    4 ∈ wearing.dev.worn ∧ 5 ∉ wearing.dev.worn ∧ (afterIn wearing (.hbmSpare 0xA0 true true)).map (fun s => (s.dev.worn, s.dev.retiredHbm)) = some ([4], []) ∧
    (afterIn wearing (.hbmSpare 0x9F true false)).map (fun s => (s.dev.worn, s.dev.retiredHbm)) = some ([], [0]) ∧
    (afterIn wearing (.hbmSpare 0x10000020 false true)).map (fun s => (s.dev.badGranules, s.dev.retiredHbm)) = some ([0x10000020 / 32], []) := by decide +kernel
theorem witness_LinesAndPages_log : ({ st with dev := { st.dev with audit := st.dev.audit } }).LogRoom := ⟨rfl, rfl, by decide +kernel⟩

/-! Waits and commands (R110, R118 to R127). -/

theorem witness_WaitsAndCommands_fences :
    inFlight (withOp (.fence 0)) = true ∧ (withOp (.fence 0)).earlier (opAt (.fence 0)) = [] ∧ (th 0).fh + 2 ≤ (withOp (.fence 0)).gtime 0 ∧
    (held (withOp (.fence 0)) (.stallingWaitEnd 5)).map (·.rh) = some 1003 ∧ (held (withOp (.fence 1)) (.stallingWaitEnd 5)).map (·.rh) = some 1003 ∧
    (afterIn (withOp (.fence 2)) (.stallingWaitEnd 5)).map (·.ops) = some [] ∧
    bodyAfter (withOp (.store (page 0x100 4 0 false) [1, 2, 3, 4] true none)) (.stallingWaitEnd 5) = some (.store (page 0x100 4 0 false) [1, 2, 3, 4] false none) ∧
    ¬ ((th 0).fh + 2 ≤ ({ withOp (.fence 0) with times := [] }).gtime 0) := by decide +kernel
def fullFrame (f : Frame) : Frame := { f with cnt := { f.cnt with copy := 255 } }
def fullTeam : Team := { tm with frames := tm.frames.map fullFrame }
theorem witness_WaitsAndCommands_commands :
    (withOp (.go 4 true false [] [])).pushing (opAt (.go 4 true false [] [])) = false ∧
    (withOp (.go 4 false false [] [])).mayPerform (opAt (.go 4 false false [] [])) = true ∧ (4 ≤ 4 ∧ 0 < tm.frames.length) ∧
    st.canAccept tm 0 4 = true ∧ 6 < 7 ∧ (afterIn (withOp (.go 4 false true [] [])) (.commandAcceptance 5)).map (·.cmds.length) = some 1 ∧
    (held (withOp (.push 4 6 true (List.replicate 64 0) [] [])) (.stallingWaitEnd 5)).map (fun h => predOf h.preds 6) = some true ∧
    st.canAccept fullTeam 0 0 = false := by decide +kernel
theorem witness_WaitsAndCommands_counters :
    (tm.frame 0).cnt.of 4 false ≤ 0 ∧ (tm.frame 0).tcs.getD 4 0 + 2 ≤ st.gtime 0 ∧ (tm.frame 0).cnt.matO ≤ 0 ∧
    0 < (fullFrame (tm.frame 0)).cnt.of 0 false ∧ (ready 6).pushing (opAt (.waitTags true 6)) = false ∧ (6 : BitVec 64) &&& 6 = 6 ∧
    (6 : BitVec 64) &&& 2 ≠ 0 := by decide +kernel
def cmd (opc cls flags : Nat) (state : CmdState) (more : List (Nat × Nat × Nat)) : Cmd :=
  { id := 7, team := 0, frame := 0, lrank := 0, die := 0, core := 0, cls := cls,
    bytes := more.foldl (fun b f => setLe b f.1 f.2.1 f.2.2) ([BitVec.ofNat 8 opc, BitVec.ofNat 8 flags, 0xFF, BitVec.ofNat 8 cls] ++ List.replicate 60 0),
    recs := [], scales := [], state := state, code := 0, detail := 0, count := 0, tc := 0, stBad := false, at_ := 0, consumed := false, tagged := false, units := [],
    claimed := false, attn := none, coll := none, notify := false, fault := 0, mended := [], scrubbed := [], outs := none }
def withCmd (c : Cmd) : State := { st with bundle := none, cmds := [c], nextId := 8 }
def cmdOf (s : Option State) : Option Cmd := s.bind (·.cmd? 7)
/-- A completion with a status word at 0x8000, one without; a notify counter after it; the operands of a matrix command. -/
theorem witness_WaitsAndCommands_completion :
    (withCmd (cmd 1 0 1 .performed [(8, 8, 0x8000)])).cmd? 7 = some (cmd 1 0 1 .performed [(8, 8, 0x8000)]) ∧ (cmd 1 0 1 .performed [(8, 8, 0x8000)]).st = true ∧
    (cmd 1 0 0 .performed []).st = false ∧ (afterIn (withCmd (cmd 1 0 0 .performed [])) (.commandCompletion 7)).map (·.cmds) = some [] ∧
    memAfter (withCmd { cmd 1 0 1 .performed [(8, 8, 0x8000)] with code := 0x203, detail := 4, count := 9 }) (.commandCompletion 7) 0x8000 8 = some [3, 2, 4, 0, 9, 0, 0, 0] ∧
    memAfter (withCmd { cmd 1 0 3 .completed [(8, 8, 0x8000)] with notify := true }) (.notifyRelease 7) 0x8008 8 = some [1, 0, 0, 0, 0, 0, 0, 0] ∧
    ((afterIn (withCmd (cmd 0x10 1 0 .performed [])) (.mmaOperandsConsumed 7)).bind (·.cmd? 7)).map (·.consumed) = some true ∧
    ({ cmd 1 3 0 .performed [] with tc := 998 }).tc + 2 ≤ (withCmd (cmd 1 3 0 .performed [])).gtime 0 := by decide +kernel

/-! Traps (R368 to R371): thread 0 with a trap of cause 4, the last of its kind, and what its team's vector says. -/

def trapped (vec : Word) (mode : Nat) (depth : Nat) : State :=
  { st with bundle := none, contexts := [{ fetchContext with dbgMode := mode }],
            teams := [{ tm with threads := [{ th 0 with trap := some ⟨4, 1, 0, 0x1000, 0x1010⟩, rstack := (List.range depth).map fun i => BitVec.ofNat 64 ((i + 1) * 2 ^ 56 + 0x2000) }, th 1],
                                frames := tm.frames.map fun f => { f with uni := if vec = 0 then [] else [(252, vec)] } }] }
theorem witness_TrapEntry :
    (th 0).exited = false ∧ (th 0).stopped = false ∧ (th 0).flags = 0 ∧ (th 0).garr = none ∧ (th 0).park = .none ∧ tm.standing = .resident ∧
    (trapped 0x3000 0 0).bundle = none ∧ (trapped 0x3000 0 0).ops = [] ∧ (trapped 0 0 0).debugMode tm = 0 ∧ (trapped 0 1 0).debugMode tm ≠ 0 ∧
    (held (trapped 0x3000 0 0) (.trapEntry 0 0)).map (fun h => (h.pc, h.rstack)) = some (0x3000, [0x0100000000001010]) ∧
    (held (trapped 0 0 0) (.trapEntry 0 0)).map (·.exited) = some true ∧ (held (trapped 0x3008 0 0) (.trapEntry 0 0)).map (·.exited) = some true ∧
    (held (trapped 0 1 0) (.trapEntry 0 0)).map (·.stopped) = some true ∧
    ((afterIn (trapped 0x3000 0 16) (.trapEntry 0 0)).map (·.ops.length) = some 2) ∧ 16 ≤ ((trapped 0x3000 0 0).localArea tm (th 0)).2 := by decide +kernel
/-! Issue and permits (R26, R139 to R142, R160). -/

def idle : State := { st with bundle := none }
theorem witness_IssueAndPermits_issue :
    (∃ b ∈ st.bundle.toList ++ st.others, b.die = 0 ∧ b.core = 0 ∧ b.course = 0) ∧ idle.bundle.toList ++ idle.others = [] ∧
    (idle.candidates 0 0 0).length = 1 ∧ (idle.candidates 0 0 0).all (fun c => match c.packet.2 with
      | .ok ws => c.threads.all (fun h => (packetClass ws h.nreg false == none) && !idle.breaksAt c.team h (packetOf c.pc)) && (nextSlot ws (pcSlot c.pc) == some 1)
      | _ => false) = true ∧
    ((afterIn idle (.packetIssue 0 0 0)).bind (·.bundle)).map (fun b => (b.ranks, b.pc, b.slot)) = some ([0, 1], 0x1000, 1) := by decide +kernel
def later (n : Nat) (y : Option Nat) : State :=
  { idle with units := 10 * n, clocks := [{ die := 0, group := 0, value := 0, since := 0, rate := 16, cap := 16, droop := 0, droopAt := 0 }],
              teams := [{ tm with threads := [{ th 0 with yieldAt := y }, th 1] }] }
/-- The last clock before a thread ages or its yield ends, and the first at which it does. -/
theorem witness_IssueAndPermits_ages :
    (later 1024 none).clock 0 0 = 1024 ∧ (later 1024 none).couldIssue tm (th 0) = true ∧ (th 0).readyAt + 1024 ≤ 1024 ∧ (later 1023 none).clock 0 0 < (th 0).readyAt + 1024 ∧
    (held (later 1024 none) (.threadAging 0 0)).map (·.aged) = some true ∧ (held (later 5 (some 5)) (.yieldExpiry 0 0)).map (·.yieldAt) = some none ∧
    (held (later 4 (some 5)) (.yieldExpiry 0 0)).map (·.yieldAt) = some (some 5) := by decide +kernel
def pressed (n reref : Nat) (permits waiters : List Nat) : State :=
  { later n none with cores := [{ Core.fresh 0 0 with split := 1, reref := reref, permits := permits, waiters := waiters, permitP := 32 }] }
theorem witness_IssueAndPermits_permits :
    ((afterIn (pressed 1024 32 [0] []) (.localityWindowEnd 0 0)).bind (·.core? 0 0)).map (·.permitP) = some 16 ∧
    ((afterIn (pressed 1024 31 [0] []) (.localityWindowEnd 0 0)).bind (·.core? 0 0)).map (·.permitP) = some 32 ∧
    ((afterIn (pressed 1023 32 [0] []) (.localityWindowEnd 0 0)).bind (·.core? 0 0)).map (·.reref) = some 32 ∧
    ((afterIn (pressed 4096 0 [0] [1]) (.permitRotation 0 0)).bind (·.core? 0 0)).map (fun c => (c.permits, c.waiters)) = some ([1], [0]) ∧
    ((afterIn (pressed 4095 0 [0] [1]) (.permitRotation 0 0)).bind (·.core? 0 0)).map (fun c => (c.permits, c.waiters)) = some ([0], [1]) := by decide +kernel

/-! Threads that go on (R46 to R54, R152, R190 to R193, R365). -/

def barred (count h : Nat) (f : Nat → Thread → Thread) : State :=
  { idle with teams := [{ tm with threads := [f 0 (th 0), f 1 (th 1)],
                                  frames := tm.frames.map fun x => { x with bars := setAt x.bars 3 fun b => { b with count := count, h := h } } }] }
def atBar (_ : Nat) (h : Thread) : Thread := { h with park := .bar 3 }
theorem witness_ParkedThreadsGoOn_barriers :
    0 < tm.frames.length ∧ 3 < (tm.frame 0).bars.length ∧ (tm.living 0).length ≤ 2 ∧ 998 + 2 ≤ st.gtime 0 ∧ ¬ (999 + 2 ≤ st.gtime 0) ∧
    (held (barred 2 998 atBar) (.barrierRelease 0 0 0 3)).map (fun h => (h.park, h.fh, h.rh)) = some (.none, 998, 998) ∧
    (held (barred 2 999 atBar) (.barrierRelease 0 0 0 3)).map (·.park) = some (.bar 3) ∧ (held (barred 1 998 atBar) (.barrierRelease 0 0 0 3)).map (·.park) = some (.bar 3) := by
  decide +kernel
/-- A thread that is stopped at the barrier: the release is held until it resumes. -/
theorem witness_ParkedThreadsGoOn_stopped :
    (held (barred 2 998 fun _ h => { h with park := .bar 3, stopped := true }) (.barrierRelease 0 0 0 3)).map (fun h => (h.park, h.due.isSome)) = some (.bar 3, true) := by
  decide +kernel
def wide (grid : Bool) : State :=
  { idle with teams := [{ tm with threads := [{ th 0 with park := if grid then .gbar else .cbar }, { th 1 with park := if grid then .gbar else .cbar }],
                                  arrC := !grid, arrG := grid, wideH := 998 }] }
theorem witness_ParkedThreadsGoOn_wide :
    ((wide true).teams.map (·.id)).Nodup ∧ ((wide true).launch? 0).map (fun l => decide (l.desc.nteams ≤ l.nextTeam)) = some true ∧ 998 + 2 ≤ (wide true).gtime 0 ∧
    (held (wide true) (.barrierRelease 2 0 0 0)).map (·.park) = some .none ∧ (held (wide false) (.barrierRelease 1 0 0 0)).map (·.park) = some .none := by decide +kernel
def synced (t : Nat) : State :=
  { idle with teams := [{ tm with threads := [{ th 0 with garr := some { arrival .gsync with mask := 3 }, park := .group, fh := t },
                                              { th 1 with garr := some { arrival .gsync with mask := 3 }, park := .group }] }] }
theorem witness_ParkedThreadsGoOn_groups :
    (tm.threads.map (·.lrank)).Nodup ∧ (synced 998).ops = [] ∧ 998 + 2 ≤ (synced 998).gtime 0 ∧
    ((synced 998).team? 0).map (fun t => t.groupFull (th 0) { arrival .gsync with mask := 3 }) = some true ∧
    (held (synced 998) (.barrierRelease 3 0 0 0)).map (fun h => (h.park, h.fh, h.rh)) = some (.none, 998, 998) ∧
    (held (synced 999) (.barrierRelease 3 0 0 0)).map (·.park) = some .group := by decide +kernel
def calling : State :=
  { idle with cores := [{ Core.fresh 0 0 with split := 1, forkQ := [(0, 0)] }],
              teams := [{ tm with threads := [{ th 0 with park := .tcall }, { th 1 with park := .tcall }],
                                  frames := tm.frames.map fun f => { f with call := some ⟨0, 998, [0, 1], [⟨0, 0, 1, 0x2000⟩, ⟨2, 1, 1, 0x3000⟩], 0x1020, false⟩ } }] }
theorem witness_ParkedThreadsGoOn_call :
    998 + 2 ≤ calling.gtime 0 ∧ calling.poolUsed 0 0 + 16 * 2 ≤ 1024 ∧ 0 + 1 ≤ 1 ∧ (th 0).nextDepth ≤ 127 ∧ (th 0).rstack.length < 16 ∧
    (held calling (.forkReservation 0 0)).map (fun h => (h.frame, h.pc, h.rank, h.rstack)) = some (1, 0x2000, 0, [0x8100000000001020]) ∧
    ((teamOf (afterIn calling (.forkReservation 0 0))).bind (·.thread? 1)).map (fun h => (h.frame, h.pc, h.rank)) = some (2, 0x3000, 0) := by decide +kernel
def joining : State :=
  { idle with teams := [{ tm with threads := [{ th 0 with frame := 1, park := .tret, rstack := [0x8100000000001020], fh := 998 },
                                              { th 1 with frame := 1, rank := 1, park := .tret, rstack := [0x8100000000001020] }],
                                  frames := [{ tm.frame 0 with status := .waitingJoin, rmask := 1 },
                                             { tm.frame 0 with parent := some 0, depth := 2, gran := 2, uni := [(16, 7)] }] }] }
theorem witness_ParkedThreadsGoOn_join :
    (joining.teams.map (fun t => (t.threads.map (·.lrank)).Nodup)) = [True] ∧ (joining.team? 0).map (fun t => joining.subDone t 1) = some true ∧
    (joining.team? 0).map (fun t => t.ancestors 8 0) = some [0] ∧ entryM 0x8100000000001020 = true ∧ entryD 0x8100000000001020 ≤ 1 ∧ 998 + 2 ≤ joining.gtime 0 ∧
    (held joining (.join 0 0)).map (fun h => (h.frame, h.pc, h.rstack, h.rh)) = some (0, 0x1020, [], 998) :=
  ⟨by simp [joining]; decide +kernel, by decide +kernel, by decide +kernel, by decide +kernel, by decide +kernel, by decide +kernel, by decide +kernel⟩
def bowed (next : Nat) : State :=
  { idle with launches := [{ pairLaunch with desc := { pairDesc with det := true }, bow := { Bow.fresh with moving := true, next := next, holder := 0 } }],
              teams := [{ tm with threads := [{ th 0 with park := .bowwait }, th 1] }] }
theorem witness_ParkedThreadsGoOn_bow :
    998 + 2 ≤ (bowed 998).gtime 0 ∧ (bowed 998).ops = [] ∧ (held (bowed 998) (.bowArrival 0)).map (fun h => (h.park, h.rh)) = some (.none, 998) ∧
    (held (bowed 999) (.bowArrival 0)).map (·.park) = some .bowwait := by decide +kernel
def stalled (n : Nat) : State :=
  { later n none with contexts := [fetchContext], teams := (barred 1 0 fun i h => if i = 0 then { h with park := .bar 3 } else h).teams }
theorem witness_ParkedThreadsGoOn_watchdog :
    (stalled (2 ^ 24)).clock 0 0 = 2 ^ 24 ∧ (stalled (2 ^ 24 - 1)).clock 0 0 < 0 + 2 ^ 24 ∧
    ((afterIn (stalled (2 ^ 24)) (.rendezvousWatchdog 0 0)).bind (·.ctx? 0)).map (fun c => c.cestat.getLsbD 3) = some true ∧
    ((afterIn (stalled (2 ^ 24 - 1)) (.rendezvousWatchdog 0 0)).bind (·.ctx? 0)).map (fun c => c.cestat.getLsbD 3) = some false := by decide +kernel
def opened (n : Nat) : State :=
  { idle with teams := [{ tm with standing := .saving, win := [(256, 1), (1024, 2)], threads := [{ th 0 with openWin := [4], sinceOpen := n }, th 1] }] }
theorem witness_ParkedThreadsGoOn_windows :
    256 ≤ 256 ∧ Memory.wf (w := 8) [(256, 1), (1024, 2)] = true ∧ (teamOf (afterIn (opened 256) (.openWindowLimit 0 0))).map (·.win) = some [(256, 1)] ∧
    (teamOf (afterIn (opened 255) (.openWindowLimit 0 0))).map (·.win) = some [(256, 1), (1024, 2)] := by decide +kernel

/-! Launches (R131 to R137). -/

def queueEntry (n : Nat) : List Byte := toLe 8 0x60000 ++ [2, 3, BitVec.ofNat 8 n] ++ List.replicate 21 0
def queued (n : Nat) : State := { idle with mem := putBytes st.mem 0x10040000 (queueEntry n) }
theorem witness_SavesAndLaunches_doorbell :
    63 < 64 ∧ fetchContext.stopped = false ∧ ((queued 1).devGet bridge0 0 (fetchContext.entryAddr 0) 8 32).2.isSome = true ∧
    ((afterIn (queued 1) (.launchDoorbell 0 0 5)).bind (·.ctx? 0)).map (fun c => ((c.queue 0).open_, (c.queue 0).tail, (c.queue 0).prio)) = some (true, 5, 3) ∧
    ((afterIn (queued 0) (.launchDoorbell 0 0 5)).bind (·.ctx? 0)).map (fun c => ((c.queue 0).open_, c.cestat)) = some (false, 0) ∧
    ((afterIn (queued 2) (.launchDoorbell 0 0 5)).bind (·.ctx? 0)).map (fun c => ((c.queue 0).open_, c.cestat.getLsbD 8)) = some (false, true) := by decide +kernel
theorem witness_SavesAndLaunches_completion :
    ({ idle with teams := [{ tm with standing := .ended }] }).launch? 0 = some pairLaunch ∧ pairLaunch.dispatching = false ∧ pairLaunch.desc.done = 0 ∧ idle.ops = [] ∧
    (afterIn { idle with teams := [{ tm with standing := .ended }] } (.launchCompletion 0)).map (fun s => (s.launches, s.teams)) = some ([], []) ∧
    (afterIn { idle with teams := [{ tm with standing := .ended }], launches := [{ pairLaunch with tl := 998, desc := { pairDesc with done := 0x9000 } }] } (.launchCompletion 0)).map
      (fun s => (s.launches, getBytes s.mem 0x10009000 2)) = some ([], [1, 0]) := by decide +kernel
def waitingLaunch : Launch := { pairLaunch with nextTeam := 0 }
theorem witness_SavesAndLaunches_placement :
    waitingLaunch.dispatching = true ∧ waitingLaunch.desc.ens = false ∧
    (afterIn { idle with teams := [], launches := [waitingLaunch], cores := [Core.fresh 0 0] } (.teamPlacement 0 0)).map (fun s => s.teams.map fun t => (t.id, t.threads.length, t.core)) =
      some [(1, 2, 0)] := by decide +kernel
def smallDesc : Desc := { pairDesc with sak := 1, oak := 1, acck := 1, nreg := 2 }
def leaving : State := { idle with launches := [{ pairLaunch with desc := smallDesc }], teams := [{ tm with standing := .saving, scratch := [(5, 9)], threads := [{ th 0 with nreg := 2, v := [(1, 7)] }, { th 1 with nreg := 2 }] }] }
theorem witness_SavesAndLaunches_save :
    (leaving.team? 0).map (fun t => (leaving.saveReady t, t.threads.map (·.lrank), decide (t.frames.length ≤ 65))) = some (true, [0, 1], true) ∧
    smallDesc.tsize = 2 ∧ leaving.partials = [] := by decide +kernel
theorem witness_SavesAndLaunches_stopped :
    (∀ g ∈ leaving.dev.badSram, tm.owns g = false) ∧
    (teamOf (afterIn { leaving with contexts := [{ fetchContext with stopped := true }] } (.teamSave 0))).map (·.standing) = some .saving := by decide +kernel
def away : State := { idle with teams := [{ tm with standing := .saved }] }
theorem witness_SavesAndLaunches_restore :
    (away.team? 0).map (fun t => (away.eligible t, away.restorePlace t pairDesc, t.pends)) = some (true, some (0, 0, 0), []) ∧ pairDesc.ens = false := by decide +kernel
/-- A descriptor of one team of two threads, with a dependence on `dep`, and a queue that has taken it. -/
def described (dep : Nat) : List Byte :=
  [(0, 8, 0x1000), (8, 4, 1), (12, 2, 2), (14, 1, 0x11), (15, 1, 8), (40, 8, dep), (48, 8, 1)].foldl (fun b f => setLe b f.1 f.2.1 f.2.2) (List.replicate 128 0)
def taking (dep : Nat) (met : Option Nat) : State :=
  let q := { Queue.fresh 0 with tail := 1, open_ := true, ring := 0x60000, logn := 2, headwb := 0x9000, taken := some (described dep), met := met }
  { idle with launches := [], teams := [], contexts := [{ fetchContext with queues := [q] }] }
def queueAfter (s : State) (i : Instr) : Option Queue := ((afterIn s i).bind (·.ctx? 0)).map (·.queue 0)
theorem witness_SavesAndLaunches_start :
    ((taking 0 none).ctx? 0).map (fun c => ((taking 0 none).launchable c (descOf 0x60000 (described 0)), (c.queue 0).num, (c.queue 0).pend)) = some (true, 0, none) ∧
    (queueAfter (taking 0 none) (.dependenceRecheck 0 0)).map (·.met) = some (some 0) ∧ (queueAfter (taking 0x9008 none) (.dependenceRecheck 0 0)).map (·.met) = some none ∧
    (afterIn (taking 0 (some 0)) (.launchStart 0 0)).map (fun s => s.launches.map fun l => (l.queue, l.k, l.desc.tsize)) = some [(0, 0, 2)] ∧
    (queueAfter (taking 0 (some 0)) (.launchStart 0 0)).map (fun q => (q.next, q.taken.isNone)) = some (1, true) := by decide +kernel

/-! Engine commands (R260 to R322). -/

/-- What State.Fit asks, as a check. -/
def fits (s : State) (c : Cmd) (t : Team) (opc : Nat) (shown : List (Nat × Nat)) : Bool :=
  decide (c.opc = opc ∧ opc ∈ classOps c.cls ∧ fieldLe c.bytes 1 1 < (if opc = 0x20 then 32 else 4) ∧ ((c.tag < 64 ∧ c.tagged = true) ∨ c.tag = 255) ∧
    fieldLe c.bytes 3 1 = c.cls ∧ fieldLe c.bytes 4 4 = 0 ∧ s.staddrBad c t = none) &&
    (List.range 64).all fun i => decide (i < 16) || shown.any (fun f => decide (f.1 ≤ i ∧ i < f.1 + f.2)) || decide (fieldLe c.bytes i 1 = 0)
theorem fit_of_fits {s : State} {c : Cmd} {t : Team} {opc : Nat} {shown : List (Nat × Nat)} (h : fits s c t opc shown = true) : s.Fit c t opc shown := by
  simp only [fits, Bool.and_eq_true, decide_eq_true_eq, List.all_eq_true, List.mem_range, Bool.or_eq_true, List.any_eq_true] at h
  obtain ⟨⟨h1, h2, h3, h4, h5, h6, h7⟩, h8⟩ := h
  refine ⟨h1, h2, h3, h4, h5, h6, h7, fun i hi hj hn => ?_⟩
  rcases h8 i hj with (h | ⟨f, hf, h⟩) | h
  · omega
  · exact absurd h (hn f hf)
  · exact h
/-- A command that its engine may begin: the first of its class, with a body that its checks accept. -/
theorem mayRun_of_fits {s : State} {c : Cmd} {t : Team} {opc : Nat} {shown : List (Nat × Nat)} {more : Prop} (h : s.startable c.id = some (c, t))
    (f : fits s c t opc shown = true) (m : more) : s.MayRun c t opc shown more :=
  ⟨h, (fit_of_fits f).1, fun _ => ⟨fit_of_fits f, m⟩⟩

def copying : Cmd := cmd 1 0 0 .queued [(16, 8, 0x1000), (24, 8, 0x9000), (32, 8, 8)]
theorem witness_EngineBodies_copy : (withCmd copying).MayRun copying tm 1 [(16, 8), (24, 8), (32, 8)] (copying.u 32 8 % 4 = 0 ∧ copying.u 32 8 ≤ 2 ^ 32) ∧
    copying.Order 2 [1, 0] [1, 0] ∧ (memAfter (withCmd copying) (.copy 7 [1, 0]) 0x9000 4) = some [0, 0, 0, 0x0A] ∧ copying.Order 2 [1] [1] ∧
    ((afterIn (withCmd copying) (.copy 7 [1])).bind (·.cmd? 7)).map (fun d => (d.state, d.units)) = some (.running, [1]) :=
  ⟨mayRun_of_fits rfl (by decide +kernel) (by decide +kernel), by unfold Cmd.Order; decide +kernel, by decide +kernel, by unfold Cmd.Order; decide +kernel, by decide +kernel⟩
def copyingRows : Cmd := cmd 2 0 0 .queued [(16, 8, 0x1000), (24, 8, 0x9000), (32, 4, 4), (36, 2, 1), (38, 2, 1)]
theorem witness_EngineBodies_copynd : (withCmd copyingRows).MayRun copyingRows tm 2 [(16, 8), (24, 8), (32, 4), (36, 2), (38, 2), (40, 4), (44, 4), (48, 4), (52, 4)]
      (copyingRows.u 32 4 % 4 = 0 ∧ copyingRows.u 36 2 ≠ 0 ∧ copyingRows.u 38 2 ≠ 0 ∧ copyingRows.u 40 4 % 4 = 0 ∧ copyingRows.u 44 4 % 4 = 0 ∧ copyingRows.u 48 4 % 4 = 0 ∧
        copyingRows.u 52 4 % 4 = 0) ∧ copyingRows.Order 1 [] [0] ∧ (memAfter (withCmd copyingRows) (.copynd 7 []) 0x9000 4) = some [0, 0, 0, 0x0A] :=
  ⟨mayRun_of_fits rfl (by decide +kernel) (by decide +kernel), by unfold Cmd.Order; decide +kernel, by decide +kernel⟩
def combining (dk peer : Nat) : Cmd := cmd 3 0 0 .queued [(16, 8, 0x1000), (24, 8, 0x9000), (32, 8, 4), (40, 1, 2), (41, 1, dk), (44, 4, peer)]
theorem witness_EngineBodies_copyred : (withCmd (combining 0 0)).MayRun (combining 0 0) tm 3 [(16, 8), (24, 8), (32, 8), (40, 1), (41, 1), (44, 4)]
      ((combining 0 0).u 32 8 % 4 = 0 ∧ (combining 0 0).u 32 8 ≤ 2 ^ 32 ∧ (combining 0 0).u 40 1 % 16 ≤ 2 ∧ (combining 0 0).u 40 1 / 16 ≤ 2 ∧
        ((withCmd (combining 0 0)).isDet tm = true → (combining 0 0).u 40 1 ≠ 0x20) ∧ (combining 0 0).u 41 1 ≤ 1 ∧ ((combining 0 0).u 41 1 = 0 → (combining 0 0).u 44 4 = 0)) ∧
    (combining 0 0).Order 1 [0] [0] ∧ (memAfter (withCmd (combining 0 0)) (.copyred 7 [0]) 0x9000 4) = some [0, 0, 0, 0x0A] ∧
    (combining 1 0).u 44 4 = (withCmd (combining 1 0)).ownRank tm.ctx ∧ (combining 1 9).u 44 4 ≠ (withCmd (combining 1 9)).ownRank tm.ctx :=
  ⟨mayRun_of_fits rfl (by decide +kernel) (by decide +kernel), by unfold Cmd.Order; decide +kernel, by decide +kernel, by decide +kernel, by decide +kernel⟩
def filling4 : Cmd := cmd 4 0 0 .queued [(16, 8, 0x9000), (24, 8, 4), (32, 4, 0xCAFE)]
theorem witness_EngineBodies_fill : (withCmd filling4).MayRun filling4 tm 4 [(16, 8), (24, 8), (32, 4)] (filling4.u 24 8 % 4 = 0 ∧ filling4.u 24 8 ≤ 2 ^ 32) ∧
    filling4.Order 1 [] [0] ∧ memAfter (withCmd filling4) (.fill 7 []) 0x9000 4 = some [0xFE, 0xCA, 0, 0] :=
  ⟨mayRun_of_fits rfl (by decide +kernel) (by decide +kernel), by unfold Cmd.Order; decide +kernel, by decide +kernel⟩
/-- A dense record of one line of 8 FP16 elements, the narrowest that R271 admits. -/
def narrow : List Byte := toLe 4 0 ++ toLe 4 32 ++ toLe 2 1 ++ toLe 2 8 ++ toLe 4 16 ++ [1] ++ List.replicate 15 0
def loadingTile : Cmd := { cmd 5 0 0 .queued [(16, 8, 0x1000)] with recs := [(0, narrow)] }
theorem witness_EngineBodies_osbload : recordOk narrow (st.oaOf tm) = true ∧ (∃ r, loadingTile.tile? (st.oaOf tm) (loadingTile.u 28 1) = some r ∧ r.lb = 16 ∧ r.nl = 1) ∧
    (withCmd loadingTile).MayRun loadingTile tm 5 [(16, 8), (24, 4), (28, 1), (32, 2), (34, 2)] (0 + 0 ≤ 1 ∧ (0 = 0 → 0 < 1)) ∧ loadingTile.Order 4 [3, 2, 1, 0] [3, 2, 1, 0] ∧
    (teamOf (afterIn (withCmd loadingTile) (.osbload 7 [3, 2, 1, 0]))).map (fun t => getBytes t.opbuf 0 4) = some [0, 0, 0, 0x0A] :=
  ⟨by decide +kernel, ⟨_, rfl, by decide +kernel, by decide +kernel⟩, mayRun_of_fits rfl (by decide +kernel) (by decide), by unfold Cmd.Order; decide +kernel, by decide +kernel⟩
def moving (dir : Nat) : Cmd := cmd 6 0 0 .queued [(16, 8, 0x1000), (24, 4, 65535), (28, 4, 1), (32, 1, dir)]
/-- The last accumulator entry, out of it and into it. -/
theorem witness_EngineBodies_accmove : (withCmd (moving 1)).MayRun (moving 1) tm 6 [(16, 8), (24, 4), (28, 4), (32, 1), (33, 1), (36, 4), (40, 4)]
      (((moving 1).u 28 4 ≠ 0 → (moving 1).u 28 4 % (moving 1).u 28 4 = 0) ∧ (moving 1).u 32 1 ≤ 1 ∧ (moving 1).u 33 1 ≤ 2 ∧ (moving 1).u 40 4 % 4 = 0 ∧ 65535 + 1 ≤ st.accOf tm) ∧
    (moving 1).Order 1 [0] [0] ∧ (teamOf (afterIn (withCmd (moving 1)) (.accmove 7 [0]))).map (·.acc) = some [(65535, 0x0A000000)] ∧
    memAfter (withCmd (moving 0)) (.accmove 7 [0]) 0x1000 4 = some [0, 0, 0, 0] :=
  ⟨mayRun_of_fits rfl (by decide +kernel) (by decide +kernel), by unfold Cmd.Order; decide +kernel, by decide +kernel, by decide +kernel⟩

def matShown : List (Nat × Nat) :=
  [(16, 1), (17, 1), (18, 2), (20, 2), (22, 2), (24, 2), (26, 2), (28, 2), (32, 4), (36, 4), (40, 2), (42, 2), (44, 4), (48, 1), (49, 1), (50, 1), (51, 1)]
def tileOf (off fmt sp : Nat) : List Byte := toLe 4 off ++ toLe 4 32 ++ toLe 2 1 ++ toLe 2 8 ++ toLe 4 16 ++ [BitVec.ofNat 8 fmt, 0, BitVec.ofNat 8 sp] ++ List.replicate 13 0
def tileRecOf (off fmt sp : Nat) : TileRec := { off := off, len := 32, nl := 1, kt := 8, lstr := 16, fmt := fmt, scl := 0, sp := sp }
/-- One row of 8 ones times one column of 8 twos, added to the last accumulator entry; and 4 ones of 8 with the positions 0 and 1 of each four. -/
def multiplying (opc hm sp : Nat) : Cmd :=
  { cmd opc 1 0 .queued [(16, 1, 16 * hm), (17, 1, 1), (18, 2, 1), (20, 2, 1), (22, 2, 8), (32, 4, 65535), (36, 4, 65535), (40, 2, 1), (42, 2, 1)] with
    recs := [(0, tileOf 0 1 sp), (1, tileOf 32 1 0), (2, tileOf 64 0x10 0)] }
def matTeam : Team :=
  { tm with opbuf := putBytes [] 0 ((List.range 8).flatMap (fun _ => [0x00, 0x3C]) ++ List.replicate 16 0 ++ (List.range 8).flatMap (fun _ => [0x00, 0x40]) ++ List.replicate 16 0 ++ [0x44]),
            acc := [(65535, 0x3F800000)] }
def withMat (c : Cmd) : State := { withCmd c with teams := [matTeam] }
theorem witness_EngineBodies_mma : (withMat (multiplying 0x10 0 0)).MayRun (multiplying 0x10 0 0) matTeam 0x10 matShown True ∧
    (withMat (multiplying 0x10 0 0)).tileA (multiplying 0x10 0 0) matTeam = some (tileRecOf 0 1 0) ∧
    (withMat (multiplying 0x10 0 0)).tileB (multiplying 0x10 0 0) matTeam = some (tileRecOf 32 1 0) ∧
    (withMat (multiplying 0x10 0 0)).tileM (multiplying 0x10 0 0) matTeam = none ∧
    (teamOf (afterIn (withMat (multiplying 0x10 0 0)) (.mma ⟨7, []⟩))).map (·.acc) = some [(65535, 0x41880000)] ∧ (multiplying 0x10 0 0).outs = none ∧ st.dev.badSram = [] ∧
    ((afterIn (withMat (multiplying 0x10 0 0)) (.mma ⟨7, [5]⟩)).bind (·.cmd? 7)).map (fun d => (d.state, d.outs)) = some (.running, some [(65535, 0x41880000)]) ∧
    (teamOf ((afterIn (withMat (multiplying 0x10 0 0)) (.mma ⟨7, [5]⟩)).bind (afterIn · (.mma ⟨7, [65535]⟩)))).map (·.acc) = some [(65535, 0x41880000)] :=
  ⟨mayRun_of_fits rfl (by decide +kernel) trivial, by decide +kernel⟩
theorem witness_EngineBodies_mma_fits : (multiplying 0x10 0 0).MatrixFits matTeam 65536 64 (tileRecOf 0 1 0) (tileRecOf 32 1 0) none := by
  unfold Cmd.MatrixFits
  refine ⟨?_, ?_, ?_, ?_, ?_, ?_, ?_, ?_, ?_, ?_, ?_, ?_, ?_, ?_, ?_, ?_, ?_, ?_, ?_, ?_, ?_, ?_, ?_, ?_, ?_, ?_, ?_, fun h => absurd h (by decide +kernel)⟩ <;> decide +kernel
theorem witness_EngineBodies_mmas : (withMat (multiplying 0x11 2 1)).MayRun (multiplying 0x11 2 1) matTeam 0x11 matShown True ∧
    (withMat (multiplying 0x11 2 1)).tileA (multiplying 0x11 2 1) matTeam = some (tileRecOf 0 1 1) ∧
    (withMat (multiplying 0x11 2 1)).tileM (multiplying 0x11 2 1) matTeam = some (tileRecOf 64 0x10 0) ∧
    (teamOf (afterIn (withMat (multiplying 0x11 2 1)) (.mmas ⟨7, []⟩))).map (·.acc) = some [(65535, 0x41100000)] ∧
    (teamOf ((afterIn (withMat (multiplying 0x11 2 1)) (.mmas ⟨7, [5]⟩)).bind (afterIn · (.mmas ⟨7, [65535]⟩)))).map (·.acc) = some [(65535, 0x41100000)] :=
  ⟨mayRun_of_fits rfl (by decide +kernel) trivial, by decide +kernel⟩
theorem witness_EngineBodies_mmas_fits : (multiplying 0x11 2 1).MatrixFits matTeam 65536 64 (tileRecOf 0 1 1) (tileRecOf 32 1 0) (some (tileRecOf 64 0x10 0)) := by
  unfold Cmd.MatrixFits
  refine ⟨?_, ?_, ?_, ?_, ?_, ?_, ?_, ?_, ?_, ?_, ?_, ?_, ?_, ?_, ?_, ?_, ?_, ?_, ?_, ?_, ?_, ?_, ?_, ?_, ?_, ?_, fun h => absurd h (by decide +kernel), fun _ => ⟨by decide +kernel, _, rfl, by decide +kernel, by decide +kernel, by decide +kernel, fun i j hi hj => ?_⟩⟩
  case refine_27 =>
    have hi : i < 1 := lt_of_lt_of_eq hi (by decide +kernel)
    have hj : j < 2 := lt_of_lt_of_eq hj (by decide +kernel)
    interval_cases i; interval_cases j <;> decide +kernel
  all_goals decide +kernel
theorem witness_EngineBodies_dot : ∃ x y, (Val.fin false 1 0).num = some x ∧ (Val.fin true 3 (-1)).num = some y ∧ (0 : Nat) < 16 := ⟨_, _, rfl, rfl, by decide⟩

/-- LAUNCH to queue 0 with a descriptor at `a`, and its wait for room. -/
def launching (a : Nat) : Cmd := cmd 0x40 4 0 .queued [(16, 1, 0), (24, 8, a)]
def toQueue (c : Cmd) : State := { withCmd c with mem := (queued 1).mem }
theorem witness_SavesAndLaunches_launch :
    (toQueue (launching 0x8000)).MayRun (launching 0x8000) tm 0x40 [(16, 1), (24, 8)] ((launching 0x8000).u 16 1 < 64) ∧ isLocal (fetchContext.entryAddr 0 % 2 ^ 56) = false ∧
    (queueAfter (toQueue (launching 0x8000)) (.launch 7)).map (fun q => (q.tail, q.headW, q.logn)) = some (1, 0, 2) ∧
    (cmdOf (afterIn (toQueue (launching 0x8000)) (.launch 7))).map (fun d => (d.state, d.code, d.count)) = some (.performed, 0, 0) ∧
    isLocal 0xFF000000000100 = true ∧ (cmdOf (afterIn (toQueue (launching 0xFF000000000100)) (.launch 7))).map (fun d => (d.state, d.code, d.detail)) = some (.performed, 0x113, 24) :=
  ⟨mayRun_of_fits rfl (by decide +kernel) (by decide +kernel), by decide +kernel⟩
/-- A full queue of four places, before and after 2^26 ticks. -/
def full (n : Nat) : State :=
  let c := { fetchContext with queues := [{ Queue.fresh 0 with tail := 4, logn := 2 }] }
  { toQueue { launching 0x8000 with state := .running } with times := List.replicate 10 ⟨n, 0, 1, 0⟩, contexts := [c] }
theorem witness_SavesAndLaunches_qfull :
    (cmdOf (afterIn (full (2 ^ 26)) (.launchQfullTimeout 7))).map (fun d => (d.state, d.code)) = some (.performed, 0x107) ∧
    (cmdOf (afterIn (full (2 ^ 26 - 1)) (.launchQfullTimeout 7))).map (·.state) = some .running := by decide +kernel

/-! Maintenance and attention (R284 to R306): a block of one entry of 16 dimensions, both halves BF16, at 0x8000. -/

def maintaining (opc : Nat) (more : List (Nat × Nat × Nat)) : Cmd := cmd opc 2 0 .queued ([(16, 4, 0x2200), (24, 8, 0x8000)] ++ more)
theorem witness_AttentionAndMaintenance_blocks :
    geomBad 0x2200 false = false ∧ (maintaining 0x21 []).u 48 1 ≠ 255 ∧ 0x8000 % 128 = 0 ∧
    (cmdOf (afterIn (withCmd (maintaining 0x21 [(32, 8, 0xA000), (40, 8, 0xB000)])) (.kapp 7))).map (fun d => (d.state, d.claimed, d.consumed, d.count)) = some (.running, true, true, 1) ∧
    (cmdOf (afterIn (withCmd (maintaining 0x22 [])) (.kreq 7))).map (fun d => (d.state, d.claimed, d.consumed, d.count)) = some (.running, true, true, 0) ∧
    (cmdOf (afterIn (withCmd (maintaining 0x23 [(40, 8, 0xA000)])) (.krot 7))).map (fun d => (d.state, d.consumed, d.count)) = some (.running, true, 0) ∧
    (cmdOf (afterIn (withCmd (maintaining 0x24 [])) (.ksum 7))).map (fun d => (d.state, d.consumed, d.count)) = some (.running, true, 0) ∧
    (cmdOf (afterIn (withCmd (maintaining 0x25 [])) (.ktrunc 7))).map (fun d => (d.state, d.count)) = some (.performed, 0) := by decide +kernel
theorem witness_AttentionAndMaintenance_fit :
    (withCmd (maintaining 0x21 [])).MayRun (maintaining 0x21 []) tm 0x21 [(16, 4), (24, 8), (32, 8), (40, 8), (48, 1), (49, 1)]
      (geomBad ((maintaining 0x21 []).u 16 4) false = false ∧ (maintaining 0x21 []).u 48 1 ≠ 255 ∧ (maintaining 0x21 []).u 49 1 ≠ 255) ∧
    (withCmd (maintaining 0x22 [])).MayRun (maintaining 0x22 []) tm 0x22 [(16, 4), (24, 8), (32, 1), (33, 1)] (geomBad ((maintaining 0x22 []).u 16 4) false = false ∧ True) ∧
    (withCmd (maintaining 0x23 [])).MayRun (maintaining 0x23 []) tm 0x23 [(16, 4), (24, 8), (32, 4), (40, 8)] (geomBad ((maintaining 0x23 []).u 16 4) false = false ∧ True) ∧
    (withCmd (maintaining 0x24 [])).MayRun (maintaining 0x24 []) tm 0x24 [(16, 4), (24, 8)] (geomBad ((maintaining 0x24 []).u 16 4) false = false ∧ True) ∧
    (withCmd (maintaining 0x25 [])).MayRun (maintaining 0x25 []) tm 0x25 [(16, 4), (24, 8), (32, 2)] (geomBad ((maintaining 0x25 []).u 16 4) false = false ∧ True) :=
  ⟨mayRun_of_fits rfl (by decide +kernel) (by decide +kernel), mayRun_of_fits rfl (by decide +kernel) (by decide +kernel), mayRun_of_fits rfl (by decide +kernel) (by decide +kernel),
    mayRun_of_fits rfl (by decide +kernel) (by decide +kernel), mayRun_of_fits rfl (by decide +kernel) (by decide +kernel)⟩
/-- A full block, and one of two entries cut to one. -/
theorem witness_AttentionAndMaintenance_edges :
    (cmdOf (afterIn { withCmd (maintaining 0x21 [(32, 8, 0xA000), (40, 8, 0xB000)]) with mem := putBytes st.mem 0x10008000 [0, 0, 1, 0] } (.kapp 7))).map (fun d => (d.state, d.code, d.count)) =
      some (.performed, 0x203, 1) ∧
    (cmdOf (afterIn { withCmd (maintaining 0x25 [(32, 2, 1)]) with mem := putBytes st.mem 0x10008000 [0, 0, 2, 0] } (.ktrunc 7))).map (fun d => (d.state, d.consumed, d.count)) =
      some (.running, true, 1) := by decide +kernel
def closing (opc : Nat) : Cmd := { maintaining opc [] with state := .running, consumed := true, claimed := true, count := 1, tc := 998, scales := [(0, 0x00010002)] }
theorem witness_AttentionAndMaintenance_closing :
    998 + 2 ≤ st.gtime 0 ∧ (cmdOf (afterIn (withCmd (closing 0x21)) (.kapp 7))).map (fun d => (d.state, d.count)) = some (.performed, 1) ∧
    memAfter (withCmd (closing 0x25)) (.ktrunc 7) 0x8000 4 = some [2, 0, 1, 0] ∧
    (cmdOf (afterIn (withCmd { closing 0x21 with tc := 999 }) (.kapp 7))).map (·.state) = some .running := by decide +kernel
theorem witness_AttentionAndMaintenance_retry :
    (cmdOf (afterIn (withCmd { maintaining 0x24 [] with state := .running }) (.blockClaimRetry 7))).map (·.claimed) = some true ∧
    (cmdOf (afterIn { withCmd { maintaining 0x24 [] with state := .running } with times := List.replicate 10 ⟨2 ^ 24, 0, 1, 0⟩ } (.maintenanceBusy 7))).map (fun d => (d.state, d.code)) =
      some (.performed, 0x205) ∧
    (cmdOf (afterIn { withCmd { maintaining 0x24 [] with state := .running } with times := List.replicate 10 ⟨2 ^ 24 - 1, 0, 1, 0⟩ } (.maintenanceBusy 7))).map (·.state) = some .running := by
  decide +kernel
def attending (nb : Nat) : Cmd := cmd 0x20 2 0 .queued [(16, 4, 0x2200), (20, 4, nb), (24, 8, 0x8000), (32, 8, 0xA000), (40, 4, 0x3F800000), (48, 8, 0xB000), (56, 8, 0xC000)]
theorem witness_AttentionAndMaintenance_attn : (withCmd (attending 0)).MayRun (attending 0) tm 0x20 [(16, 4), (20, 4), (24, 8), (32, 8), (40, 4), (44, 4), (48, 8), (56, 8)]
      (∀ f ∈ attnFields (attending 0), f.2.2 = false) ∧ (attending 0).attn = none ∧ (attending 0).rsm = false ∧
    (cmdOf (afterIn (withCmd (attending 0)) (.attn 7))).map (fun d => (d.state, d.code)) = some (.performed, 0) :=
  ⟨mayRun_of_fits rfl (by decide +kernel) (by decide +kernel), rfl, by decide +kernel, by decide +kernel⟩
/-- A list of one empty block at 0x9000: its capture, its visit, a wait on a translation, and a read that stays unstable. -/
def listed : State := { withCmd (attending 1) with mem := putBytes st.mem 0x10008000 (toLe 8 0x9000) }
def visiting (c : Cmd) (st : AttnState) : Cmd := { c with state := .running, attn := some st }
def attnAt (phase tries : Nat) : AttnState :=
  { phase := phase, k := 0, bdone := 1, u0 := 0, tol := 0, q := [List.replicate 16 0], m := [0xFF800000], l := [0], r := [0], o := [List.replicate 16 0], pos := 0, tries := tries, since := 0 }
theorem witness_AttentionAndMaintenance_visits :
    (cmdOf (afterIn listed (.attn 7))).map (fun d => (d.state, d.attn.map fun a => (a.phase, a.bdone))) = some (.running, some (2, 1)) ∧
    (cmdOf (((afterIn listed (.attn 7)).bind fun s => afterIn s (.attnVisit 7)))).map (fun d => (d.state, d.code, d.count)) = some (.performed, 0, 1) ∧
    (cmdOf (afterIn (withCmd { attending 1 with state := .waiting 0x8000 0 }) (.attnParkResume 7))).map (·.state) = some .running ∧
    (cmdOf (afterIn (withCmd (visiting (attending 1) (attnAt 1 256))) (.attnUnstable 7))).map (fun d => (d.state, d.code)) = some (.performed, 0x204) ∧
    (cmdOf (afterIn (withCmd (visiting (attending 1) (attnAt 1 255))) (.attnUnstable 7))).map (·.state) = some .running := by decide +kernel
theorem witness_AttentionAndMaintenance_order : (∀ e ∈ ([⟨0, 0x3F800000, 0, 0, 0⟩] : List WorkEntry), (decF32 e.u).isNan = false) := by decide +kernel

/-! Collective programs (R310 to R322): a program at 0xA000 of one step and END, arguments at 0xC000, ranks at 0xB000, one rank. -/

def stepBytes (l : List (Nat × Nat × Nat)) : List Byte := l.foldl (fun b f => setLe b f.1 f.2.1 f.2.2) (List.replicate 16 0)
def endBytes : List Byte := stepBytes [(0, 1, 11)]
def programCmd : Cmd := cmd 0x30 3 0 .queued [(16, 8, 0xA000), (28, 4, 1), (32, 8, 0xB000), (40, 8, 0xC000), (48, 4, 64), (52, 2, 2), (56, 1, 1)]
def atStep (cs : CollState) (l : List (Nat × Nat × Nat)) : State :=
  { withCmd { programCmd with state := .running, coll := some cs } with
    mem := putBytes (putBytes st.mem 0x1000A000 (stepBytes l ++ endBytes)) 0x1000C000 (toLe 8 0x1000 ++ toLe 8 0x9000 ++ toLe 8 0xD000) }
def afterStep (cs : CollState) (l : List (Nat × Nat × Nat)) (i : Instr) : Option (Option Nat × Option Nat) :=
  (cmdOf (afterIn (atStep cs l) i)).map fun d => (d.coll.map (·.step), d.coll.bind (·.since))
theorem witness_CollectivePrograms_begin : (withCmd programCmd).MayRun programCmd tm 0x30 [(16, 8), (24, 4), (28, 4), (32, 8), (40, 8), (48, 4), (52, 2), (54, 2), (56, 1)]
      (programCmd.rank < programCmd.size ∧ 1 ≤ programCmd.size ∧ programCmd.size ≤ 65536 ∧ programCmd.chunk % 64 = 0 ∧ 64 ≤ programCmd.chunk ∧ programCmd.chunk ≤ 2 ^ 24 ∧
        1 ≤ programCmd.nstep ∧ programCmd.nstep ≤ 4096 ∧ 1 ≤ programCmd.nsl ∧ programCmd.nsl ≤ 16) ∧ programCmd.coll = none ∧
    ((withCmd programCmd).begun programCmd).served 0 < 16 ∧ (cmdOf (afterIn (withCmd programCmd) (.cprog 7))).map (·.coll) = some (some CollState.fresh) :=
  ⟨mayRun_of_fits rfl (by decide +kernel) (by decide +kernel), rfl, by decide +kernel, by decide +kernel⟩
/-- COPY, WAIT for a value that stands and for one that does not, LOOP, ENDLOOP at its last pass, PEER, and END. -/
theorem witness_CollectivePrograms_steps :
    CollState.fresh.step + 1 < programCmd.nstep ∧ StepBytes.bad (stepBytes [(0, 1, 4), (8, 4, 64), (3, 1, 1)]) 64 = false ∧ programCmd.size = 1 ∧
    afterStep CollState.fresh [(0, 1, 4), (8, 4, 64), (3, 1, 1)] (.cprogCopy 7) = some (some 1, none) ∧
    memAfter (atStep CollState.fresh [(0, 1, 4), (8, 4, 64), (3, 1, 1)]) (.cprogCopy 7) 0x9000 4 = some [0, 0, 0, 0x0A] ∧
    afterStep CollState.fresh [(0, 1, 5), (2, 1, 0), (8, 8, 0x0A000000)] (.cprogWait 7) = some (some 1, none) ∧
    afterStep CollState.fresh [(0, 1, 5), (2, 1, 1), (8, 8, 1)] (.cprogWait 7) = some (some 0, some 1000) ∧
    afterStep CollState.fresh [(0, 1, 7), (8, 4, 2)] (.loop 7) = some (some 1, none) ∧
    afterStep { CollState.fresh with loops := [⟨true, 1, 2, 0⟩, ⟨false, 0, 0, 0⟩] } [(0, 1, 8)] (.endloop 7) = some (some 1, none) ∧
    afterStep CollState.fresh [(0, 1, 9), (1, 1, 8), (8, 4, 5), (12, 1, 1)] (.peer 7) = some (some 1, none) ∧
    (cmdOf (afterIn (atStep { CollState.fresh with step := 1 } [(0, 1, 4)]) (.endStep 7))).map (fun d => (d.state, d.code)) = some (.performed, 0) := by decide +kernel
/-- SEND with a free slot and with none, RECV with nothing to take, RRS, NOTIFY, PUTR, a rank outside the program, a wait that times out. -/
theorem witness_CollectivePrograms_channels :
    CollState.fresh.q.getD 0 0 = 0 ∧ 0 < programCmd.size ∧ CollState.fresh.wait = .none ∧
    ((cmdOf (afterIn (atStep CollState.fresh [(0, 1, 1), (8, 4, 64), (2, 1, 0)]) (.send 7))).bind (·.coll)).map (·.wait) = some (.tail 0 0 1) ∧
    afterStep CollState.fresh [(0, 1, 2), (2, 1, 1)] (.recv 7) = some (some 0, some 1000) ∧
    afterStep CollState.fresh [(0, 1, 3), (2, 1, 1)] (.rrs 7) = some (some 0, some 1000) ∧
    afterStep CollState.fresh [(0, 1, 6), (2, 1, 1), (8, 8, 3)] (.notify 7) = some (some 1, none) ∧
    ((cmdOf (afterIn (atStep CollState.fresh [(0, 1, 10), (3, 1, 1), (8, 4, 64), (12, 1, 1)]) (.putr 7))).bind (·.coll)).map (·.wait) = some (.reserve 0 0x9000) ∧
    afterStep { CollState.fresh with q := [1, 0, 0, 0] } [(0, 1, 1), (8, 4, 64)] (.send 7) = some (some 1, none) ∧
    afterStep { CollState.fresh with q := [1, 0, 0, 0] } [(0, 1, 2)] (.recv 7) = some (some 1, none) ∧
    afterStep { CollState.fresh with q := [1, 0, 0, 0] } [(0, 1, 6)] (.notify 7) = some (some 1, none) := by decide +kernel
def roomForTwo : State := { st with mem := putBytes st.mem 0x10009000 (toLe 8 2) }
theorem witness_CollectivePrograms_reserve :
    ((cmdOf (afterIn (atStep { CollState.fresh with wait := .reserve 0 0x9000 } [(0, 1, 10), (3, 1, 1), (8, 4, 64), (12, 1, 1), (14, 2, 1)]) (.putrReserve 7 (0, 0)))).bind (·.coll)).map (fun c => (c.fulls, c.step)) =
      some (1, 1) ∧
    (roomForTwo.peerReserve 0 0x9000 2 0).map (·.2) = .ok (0, 1001) ∧
    (roomForTwo.peerReserve 0 0x9000 3 0).map (·.2) = .ok (fullRow, 1) := by decide +kernel
def timed (n : Nat) : State := { atStep { CollState.fresh with since := some 0 } [(0, 1, 2), (2, 1, 1)] with
  cmds := [{ programCmd with state := .running, bytes := setLe programCmd.bytes 54 2 1, coll := some { CollState.fresh with since := some 0 } }], times := List.replicate 10 ⟨n, 0, 1, 0⟩ }
theorem witness_CollectivePrograms_time :
    0 + 1024 * 1 < (timed 1025).gtime 0 ∧ (timed 1024).gtime 0 ≤ 0 + 1024 * 1 ∧ (cmdOf (afterIn (timed 1025) (.cprogTimeout 7))).map (fun d => (d.state, d.code)) = some (.performed, 0x301) ∧
    (cmdOf (afterIn (timed 1024) (.cprogTimeout 7))).map (·.state) = some .running ∧
    (cmdOf (afterIn (timed 1024) (.slotHeaderReread 7))).map (fun d => d.coll.bind (·.since)) = some (some 0) := by decide +kernel
/-- A write, and a release write, that arrive from another package; an acknowledgement. -/
def jobbed : State := { idle with contexts := [{ fetchContext with job := 3, prank := 0 }] }
def message (kind : FabricKind) (t : Nat) : FabricMsg := { job := 3, src := 1, dst := 0, cmd := 4, seq := 2, kind := kind, va := 0x9000, data := [1, 2, 3, 4], t := t }
theorem witness_CollectivePrograms_fabric :
    jobbed.peerCtx (message .write 0).job (message .write 0).dst = some 0 ∧ (jobbed.peerRes 0 0x9000 4).map (·.2.bytes) = .ok ((List.range 4).map (0x10009000 + ·)) ∧
    998 + 2 ≤ jobbed.gtime (homeDie 0x10009000) ∧ memAfter jobbed (.fabricWriteArrival (message .write 0)) 0x9000 4 = some [1, 2, 3, 4] ∧
    memAfter jobbed (.fabricWriteArrival (message .releaseWrite 998)) 0x9000 4 = some [1, 2, 3, 4] ∧
    memAfter jobbed (.fabricWriteArrival (message .releaseWrite 999)) 0x9000 4 = some [0, 0, 0, 0] ∧
    (afterIn jobbed (.fabricWriteArrival (message .write 0))).map (fun s => s.outbox.map fun m => (m.dst, m.kind, m.seq)) = some [(1, .ack, 2)] ∧
    ((cmdOf (afterIn (atStep { CollState.fresh with unacked := [(2, 1, 0)] } []) (.fabricAck 7 2 77))).bind (·.coll)).map (fun c => (c.unacked, c.ackT)) = some ([], [(1, 77)]) := by decide +kernel

/-! Management and the device (R345 to R356, R371 to R387, R400 to R407). -/

def goodStart : StartReport := ⟨(7, true), (7, true), (7, true), (7, true), false, [], [], [], [], true, 0, []⟩
theorem witness_ManagementAndDevice_start :
    [goodStart.security, goodStart.management, goodStart.microcode, goodStart.fused].all (·.2) = true ∧ goodStart.savedBad = false ∧ State.reset.dev.meas.length = 8 ∧
    State.reset.dev.phase = .off ∧ st.dev.phase ≠ .off ∧ st.dev.phase ≠ .shed ∧
    (afterIn State.reset (.powerOn goodStart)).map (fun s => (s.dev.phase, s.dev.trained, s.dev.meas.getD 7 1)) = some (.negotiating, true, 0) ∧
    (afterIn st (.coldReset goodStart)).map (fun s => (s.dev.phase, s.teams.length)) = some (.negotiating, 0) ∧
    (afterIn { st with dev := { st.dev with trained := true } } (.warmReset goodStart)).map (·.dev.phase) = some .negotiating := by decide +kernel
theorem witness_ManagementAndDevice_clear :
    2 ^ 28 ≤ 0x10000000 ∧ ({ st.dev with clearing := [(0xFFFF, 0x10000000, 0x10000)] } : Device).clearing[0]? = some (0xFFFF, 0x10000000, 0x10000) ∧
    (afterIn { st with dev := { st.dev with clearing := [(0xFFFF, 0x10000000, 0x10000)] } } (.memoryClearDone 0)).map (fun s => (s.dev.clearing, cget s.mem 0x10001003)) = some ([], 0) := by decide +kernel
/-- The command of the management ring at host address 0: its code, its reply address 0x500 and its fields. -/
def headed (s : State) (code : Nat) (fields : List (Nat × Nat × Nat)) : State :=
  { s with hostMem := putBytes s.hostMem 0 (fields.foldl (fun b f => setLe b f.1 f.2.1 f.2.2) (toLe 8 code ++ toLe 8 0x500 ++ List.replicate 48 0)),
           dev := { s.dev with mtail := 1 } }
/-- The head count after a management command; 1 once it is answered. -/
def answered (s : State) (i : Instr) : Option (BitVec 32) := (afterIn s i).map (·.dev.mhead)
/-- The step of the command at the head of the ring, with the operands that its bytes hold. -/
abbrev Fields := Nat → Nat → Nat
def invalidateOf (u : Fields) : Instr := .invalidate (u 8 8) (u 16 1) (u 17 1) (u 24 8) (u 32 8)
def errctlOf (u : Fields) : Instr := .errctl (u 8 8) (u 16 1) (u 17 1) (u 24 8) (u 32 8) (u 40 8) (u 48 4)
def resolveOf (u : Fields) : Instr := .resolve (u 8 8) (u 16 1) (u 17 1) (u 24 8) (u 32 8)
def debugModeOf (u : Fields) : Instr := .debugMode (u 8 8) (u 17 1) (u 18 1) (u 24 8)
def setbpOf (u : Fields) : Instr := .setbp (u 8 8) (u 17 1) (u 19 1) (u 20 1) (u 21 1) (u 24 8)
def clrbpOf (u : Fields) : Instr := .clrbp (u 8 8) (u 17 1) (u 19 1) (u 20 1) (u 21 1)
def debugStopOf (u : Fields) : Instr := .debugStop (u 8 8) (u 17 1) (u 32 4) (u 36 2)
def debugResumeOf (u : Fields) : Instr := .debugResume (u 8 8) (u 17 1) (u 32 4) (u 36 2)
def debugStepOf (u : Fields) : Instr := .debugStep (u 8 8) (u 17 1) (u 32 4) (u 36 2)
def dumpOf (u : Fields) : Instr := .dump (u 8 8) (u 17 1) (u 24 8) (u 32 4)
def debugLoadOf (u : Fields) : Instr := .debugLoad (u 8 8) (u 17 1) (u 24 8) (u 32 4)
def perform (s : State) (f : Fields → Instr) : Option State := afterIn s (f (fieldLe s.headBytes))
def replied (s : State) (f : Fields → Instr) : Option (BitVec 32) := (perform s f).map (·.dev.mhead)
theorem witness_ManagementAndDevice_registers :
    st.dev.phase = .running ∧ st.dev.hosted = true ∧ st.dev.mhead = st.dev.mtail ∧ st.dev.stepping = none ∧ (headed st 1 []).dev.mhead ≠ (headed st 1 []).dev.mtail ∧
    (afterIn st (.managementDoorbell 3)).map (·.dev.mtail) = some 3 ∧ (afterIn st (.registerWrite 0x1000 3)).map (·.dev.mtail) = some 3 ∧
    (afterIn st (.registerWrite 0x1010 0x25)).map (·.dev.mlogn) = some 5 ∧
    (afterIn (headed st 1 []) (.registerWrite 0x1008 9)).map (·.dev.mring) = some 0 ∧
    (afterIn { st with dev := { st.dev with links := [] } } (.registerWrite 0x1000 3)).map (·.dev.mtail) = some 0 ∧
    ((afterIn (queued 1) (.registerWrite 0x100000 5)).bind (·.ctx? 0)).map (fun c => (c.queue 0).tail) = some 5 := by decide +kernel
/-- A command stands at the head, the audit log has room, no command has begun. -/
theorem witness_ManagementAndDevice_head : (headed st 6 []).AtHead [6] ∧ (headed st 6 []).dev.audit.roomy = true ∧ (headed st 6 []).LogRoom ∧
    (headed st 6 []).dev.meas.length = 8 ∧ (headed st 6 []).dev.mark = none :=
  ⟨⟨rfl, rfl, by decide, (fun a r p h => nomatch h), by decide +kernel, fun m h => nomatch h⟩, by decide +kernel, ⟨rfl, rfl, by decide +kernel⟩, rfl, rfl⟩
theorem witness_ManagementAndDevice_codes : ∀ k, k < 0x0D → (headed st k []).headCode = k ∧ (headed st k []).replyTo = 0x500 := by decide +kernel
theorem witness_ManagementAndDevice_feature :
    (∀ c ∈ (headed st 1 []).dev.clearing, c.1 ≠ 0xFFFF) ∧ answered (headed st 1 []) (.feature 0x500 1) = some 1 ∧
    answered { headed st 1 [] with dev := { (headed st 1 []).dev with audit := { st.dev.audit with frozen := true } } } (.feature 0x500 1) = some 1 ∧
    answered { headed st 1 [] with dev := { (headed st 1 []).dev with clearing := [(0xFFFF, 2 ^ 28, 65536)] } } (.feature 0x500 1) = some 0 ∧
    answered (headed st 0x0D []) (.feature 0x500 1) = some 1 := by decide +kernel
theorem witness_ManagementAndDevice_firmware :
    (4 ≤ 7 ∧ 7 ≤ 7) ∧ answered (headed st 6 []) (.fwload 0x500 [7] 1 true) = some 1 ∧ answered (headed st 6 []) (.fwload 0x500 [6, 4] 1 false) = some 1 ∧
    answered (headed st 6 []) (.fwload 0x500 [] 1 true) = some 1 ∧ answered (headed st 6 []) (.fwload 0x500 [4, 8] 1 true) = some 1 ∧
    answered (headed st 8 []) (.logread 0x500 1) = some 1 := by decide +kernel
def record (num : Nat) : List Byte := [(0, 1, num), (4, 1, 4), (5, 1, 4), (6, 1, 12), (64, 1, 2), (320, 8, 0x20000000), (328, 8, 0x10000)].foldl
  (fun b f => setLe b f.1 f.2.1 f.2.2) (List.replicate 576 0)
theorem witness_ManagementAndDevice_create :
    (headed st 2 []).creatable (contextOf (record 31)) = true ∧ (headed st 2 []).creatable (contextOf (record 32)) = false ∧
    (headed st 2 []).creatable (contextOf (record 0)) = false ∧
    answered (headed st 2 []) (.create 0x500 (record 31)) = some 1 ∧ answered (headed st 2 []) (.create 0x500 (record 32)) = some 1 ∧
    (afterIn (headed st 2 []) (.create 0x500 (record 31))).map (fun s => s.contexts.map (·.num)) = some [0, 31] := by decide +kernel
theorem witness_ManagementAndDevice_saves :
    (headed st 3 []).ctx? 0 = some fetchContext ∧ (headed st 3 []).issuing 0 = true ∧ (headed { idle with teams := [] } 3 []).issuing 0 = false ∧
    answered (headed { idle with teams := [] } 3 []) (.release 0x500 0) = some 1 ∧ answered (headed st 3 []) (.release 0x500 0) = some 0 ∧
    fetchContext.dispWait = [] ∧ (teamOf (afterIn (headed st 4 []) (.switch 0x500 0))).map (·.standing) = some .saving ∧
    (teamOf (afterIn (headed st 4 []) (.preempt 0x500 0 0 0))).map (·.standing) = some .saving ∧
    (teamOf (afterIn (headed st 4 []) (.preempt 0x500 0 0 1))).map (·.standing) = some .resident ∧
    answered { headed idle 4 [] with teams := [{ tm with standing := .saved }], dev := { (headed st 4 []).dev with mark := some ([4, 0, 0], 0) } } (.switch 0x500 0) = some 1 ∧
    replied (headed idle 5 []) invalidateOf = some 1 ∧ replied (headed (storing (page 0x100 4 0 false)) 5 []) invalidateOf = some 0 ∧
    replied (headed (storing (scr 0x100 4)) 5 []) invalidateOf = some 1 ∧ replied (headed idle 5 [(24, 8, 65535)]) invalidateOf = some 1 ∧
    (Op.translated (opAt (.store (page 0x100 4 0 false) [1, 2, 3, 4] false none))) = true := by decide +kernel
theorem witness_ManagementAndDevice_other_command :
    (1 : Nat) ≠ (headed st 1 []).replyTo ∧ answered (headed st 1 []) (.feature 1 1) = some 0 ∧ (headed st 0x0A []).named 0x500 [(17, 1, 5)] = false := by
  decide +kernel
def repairing (spares : Nat) (mark : Option (List Nat × Nat)) (teams : List Team) : State :=
  { headed idle 9 [] with teams := teams, dev := { (headed st 9 []).dev with accept := 0x3F, spares := List.replicate 8 spares, mark := mark } }
theorem witness_ManagementAndDevice_repair :
    st.dev.repairs = [] ∧ (0, 0) ∉ st.dev.retiredCores ∧ (0x3F : BitVec 128).getLsbD 5 = true ∧ answered (repairing 0 none [tm]) (.repair 0x500 0 0) = some 1 ∧
    (afterIn (repairing 1 none [tm]) (.repair 0x500 0 0)).map (fun s => (s.dev.mhead, s.dev.spares.getD 0 9, s.teams.map fun t => (t.standing, t.home))) =
      some (0, 0, [(.saving, true)]) ∧
    answered (repairing 1 none []) (.repair 0x500 0 0) = some 1 ∧ answered (repairing 0 (some ([9, 0, 0], 0)) [{ tm with standing := .saved }]) (.repair 0x500 0 0) = some 1 := by
  decide +kernel
/-- A team that waits on a translation at an address. -/
def faulted (va : Nat) : Team := { tm with standing := .saved, faults := [(va, 1)] }
theorem witness_ManagementAndDevice_errors :
    ¬ (4 ≤ 17 ∧ 17 ≤ 16 ∧ 0 % 4096 = 0) ∧ (4 ≤ 16 ∧ 16 ≤ 16 ∧ 0x1000 % 4096 = 0) ∧ replied (headed st 0x0A [(17, 1, 17), (24, 8, 0x1000)]) errctlOf = some 1 ∧
    ((perform (headed st 0x0A [(17, 1, 16), (24, 8, 0x1000)]) errctlOf).bind (·.ctx? 0)).map (fun c => c.ring.map fun q => (q.base, q.logn, q.k)) = some (some (0x1000, 16, 0)) ∧
    replied (headed st 0x0A []) errctlOf = some 1 ∧ replied (headed st 0x0C [(24, 8, 0x8000), (32, 8, 0x10000)]) resolveOf = some 1 ∧
    replied (headed st 0x0C [(17, 1, 2)]) resolveOf = some 1 ∧
    (teamOf (perform (headed { idle with teams := [faulted 0x1FFFF] } 0x0C [(24, 8, 0x10000), (32, 8, 0x10000)]) resolveOf)).map (·.mayResume) = some true ∧
    (teamOf (perform (headed { idle with teams := [faulted 0x20000] } 0x0C [(24, 8, 0x10000), (32, 8, 0x10000)]) resolveOf)).map (·.mayResume) = some false ∧
    ((perform (headed { idle with teams := [], contexts := [{ fetchContext with dispWait := [(0x10000, 1)] }] } 0x0C [(17, 1, 1), (24, 8, 0x10000), (32, 8, 0x10000)])
      resolveOf).bind (·.ctx? 0)).map (fun c => (c.stopped, c.cestat.getLsbD 9)) = some (true, true) := by decide +kernel
/-- A DEBUG command of an operation for a team of two threads, stopped or not. -/
def debugged (op mode : Nat) (stopped : Bool) (fields : List (Nat × Nat × Nat)) : State :=
  headed { idle with contexts := [{ fetchContext with dbgMode := mode }], teams := [{ tm with threads := [{ th 0 with stopped := stopped }, { th 1 with stopped := stopped }] }] }
    0x0B ((16, 1, op) :: fields)
theorem witness_ManagementAndDevice_debug_fields :
    (0, 0) ∈ fetchContext.cores ∧ ((debugged 2 1 false []).core? 0 0).isSome = true ∧
    ((debugged 4 1 false []).debugTeam? (debugFields (debugged 4 1 false []).headBytes)).map (·.id) = some 0 ∧
    replied (debugged 0 0 false []) debugModeOf = some 1 ∧ replied (debugged 9 0 false []) debugModeOf = some 1 ∧
    replied (debugged 1 0 false [(18, 1, 3)]) debugModeOf = some 1 ∧ replied (debugged 1 0 false [(18, 1, 2), (24, 8, 0x1001)]) debugModeOf = some 1 ∧
    ((perform (debugged 1 0 false [(18, 1, 2), (24, 8, 0x1000)]) debugModeOf).bind (·.ctx? 0)).map (fun c => (c.dbgMode, c.dbgArea)) = some (2, 0x1000) ∧
    replied (debugged 2 1 false [(19, 1, 4), (24, 8, 0x1000)]) setbpOf = some 1 ∧ replied (debugged 2 1 false [(21, 1, 5)]) setbpOf = some 1 ∧
    ((perform (debugged 2 1 false [(19, 1, 3), (24, 8, 0x1000)]) setbpOf).bind (·.core? 0 0)).map (·.bps) = some [(3, 0, 0x1000)] ∧
    replied (debugged 3 1 false [(19, 1, 3)]) clrbpOf = some 1 ∧ replied (debugged 3 1 false [(19, 1, 4)]) clrbpOf = some 1 := by decide +kernel
theorem witness_ManagementAndDevice_debug_threads :
    replied (debugged 4 1 false [(36, 2, 5)]) debugStopOf = some 1 ∧ replied (debugged 5 1 false [(36, 2, 5)]) debugResumeOf = some 1 ∧
    (threadOf (perform (debugged 4 1 false []) debugStopOf)).map (·.stopped) = some true ∧
    (threadOf (perform (debugged 5 1 true [(36, 2, 0xFFFF)]) debugResumeOf)).map (·.stopped) = some false ∧
    replied (debugged 6 1 false []) debugStepOf = some 1 ∧ (debugged 6 1 true []).inPacket 0 (th 0) = false ∧
    (threadOf (perform (debugged 6 1 true []) debugStepOf)).map (fun h => (h.stopped, h.stepOne)) = some (false, true) ∧
    (perform (debugged 6 1 true []) debugStepOf).map (·.dev.stepping) = some (some (0, 0, 0x500)) := by decide +kernel
theorem witness_ManagementAndDevice_debug_images :
    replied (debugged 7 1 false [(24, 8, 0x11000000)]) dumpOf = some 1 ∧ replied (debugged 8 1 false [(24, 8, 0x11000000)]) debugLoadOf = some 1 ∧
    (∀ h ∈ (pairTeam [] []).threads, h.lrank < pairDesc.tsize) ∧
    (∀ h ∈ [{ th 0 with stopped := true }, { th 1 with stopped := true }], (h.stopped = true ∨ h.park ≠ .none) ∧ (debugged 8 1 true []).inPacket 0 h = false) ∧
    (debugged 8 1 true []).partials = [] ∧ (debugged 8 1 true []).poisoned ((List.range 0x1000).map (0x11011740 + ·)) = false ∧
    (∀ r, r < 2 → fieldLe (getBytes (debugged 8 1 true []).mem (0x11000000 + 0x11740 + r * 640) 640) 0 8 % 16 = 0) ∧
    (threadOf (perform (debugged 8 1 true [(24, 8, 0x11000000)]) debugLoadOf)).map (fun h => (h.pc, h.stopped)) = some (0, true) := by decide +kernel
def linked : State := { idle with dev := { st.dev with links := [(0, 8), (1, 8)] } }
theorem witness_ManagementAndDevice_links :
    (afterIn linked (.lane 0 4)).map (fun s => (s.dev.lanesOf 0, s.dev.lanesOf 1)) = some (4, 8) ∧ linked.dev.lanesOf 0 ≤ 8 ∧ (afterIn linked (.lane 0 8)).map (·.dev.lanesOf 0) = some 8 ∧
    (afterIn linked (.linkdown 1)).map (·.dev.lanesOf 1) = some 0 ∧ linked.dev.lanesOf 2 = 0 ∧ linked.LogRoom ∧ linked.dev.ring = none ∧ linked.cmds = [] := by
  unfold State.LogRoom; decide +kernel
/-- The last link goes down while a program waits for an acknowledgement. -/
def unanswered : State := atStep { CollState.fresh with unacked := [(2, 1, 0)], steps := 3 } [(0, 1, 5)]
def cutOff : State := { unanswered with contexts := [{ fetchContext with job := 3 }], dev := { unanswered.dev with links := [(0, 8)] } }
theorem witness_ManagementAndDevice_cutOff :
    0 < cutOff.dev.lanesOf 0 ∧ (∀ l ∈ cutOff.dev.links, l.1 ≠ 0 → l.1 < 24 → 0 < l.2 → Config.leads l.1 3 1 = false) ∧
    ((afterIn cutOff (.linkdown 0)).bind (·.cmd? 7)).map (fun d => (d.code, d.detail, d.count)) = some (0x305, 0, 3) := by
  refine ⟨by decide +kernel, fun l h hn => ?_, by decide +kernel⟩
  have h : l = (0, 8) := List.mem_singleton.1 h
  exact absurd (by rw [h]) hn
def skewed (lead : Nat) : State := { idle with times := ⟨1000 + lead, 0, 1, 0⟩ :: List.replicate 9 ⟨1000, 0, 1, 0⟩ }
theorem witness_ManagementAndDevice_times :
    0 ≠ bridge0 ∧ ((skewed 2).gtime 0 : Int) = (skewed 2).gtime bridge0 + 2 ∧ ((skewed 2).contexts.map (·.num)).Nodup ∧
    (∀ k, k < (skewed 2).times.length → (skewed 2).gtime k ≤ (skewed 2).gtime 0 + 2 ∧ (skewed 2).gtime 0 ≤ (skewed 2).gtime k + 2) ∧
    ((afterIn (skewed 2) (.timeBaseCompare 0 2 false)).bind (·.times[0]?)).map (·.rate) = some 0 ∧
    ((afterIn (skewed 2) (.timeBaseCompare 0 2 true)).bind (·.ctx? 0)).map (·.stopped) = some true ∧
    ((afterIn (skewed 3) (.timeBaseCompare 0 3 false)).bind (·.ctx? 0)).map (·.stopped) = some true ∧
    ((afterIn { idle with times := ⟨1002, 0, 1, 0⟩ :: ⟨998, 0, 1, 0⟩ :: List.replicate 8 ⟨1000, 0, 1, 0⟩ } (.timeBaseCompare 0 2 false)).bind (·.ctx? 0)).map (·.stopped) =
      some true := by decide +kernel
def warm (rate droop : Nat) : State := { later 0 none with clocks := [{ die := 0, group := 0, value := 0, since := 0, rate := rate, cap := 16, droop := droop, droopAt := 1000 }] }
def rateAfter (s : State) (i : Instr) : Option (Nat × Nat) := ((afterIn s i).bind (·.group? 0 0)).map fun c => (c.rate, c.droop)
/-- Readings at the edges of R406's ranges, in sixteenths of a degree. -/
theorem witness_ManagementAndDevice_monitors :
    rateAfter (warm 16 0) (.monitorReading 0 0 (95 * 16 + 1) false none) = some (15, 0) ∧ rateAfter (warm 16 0) (.monitorReading 0 0 (95 * 16) false none) = some (16, 0) ∧
    rateAfter (warm 15 0) (.monitorReading 0 0 (90 * 16 - 1) false none) = some (16, 0) ∧ rateAfter (warm 15 0) (.monitorReading 0 0 (90 * 16) false none) = some (15, 0) ∧
    rateAfter (warm 16 0) (.monitorReading 0 0 (90 * 16) true none) = some (12, 4) ∧
    (afterIn (warm 4 0) (.monitorReading 0 0 (105 * 16 + 1) false none)).map (·.dev.phase) = some .shed ∧ rateAfter (warm 12 4) (.droopRestore 0 0) = some (16, 0) ∧
    rateAfter { warm 12 4 with times := List.replicate 10 ⟨999, 0, 1, 0⟩ } (.droopRestore 0 0) = some (12, 4) ∧
    ((afterIn { warm 16 0 with teams := [] } (.monitorReading 0 0 (90 * 16) false (some 0))).bind (·.core? 0 0)).map (·.closed) = some true := by decide +kernel
/-- The device with one entry in its audit log. -/
def logged : State := (afterIn st (.auditChainCheck false true)).getD st
theorem witness_ManagementAndDevice_chain :
    (∀ e ∈ st.dev.audit.entries, e.seq < st.dev.audit.seq ∧ st.dev.audit.seq + 1 < e.seq + 2 ^ 22) ∧ (st.dev.audit.entries.map (·.seq)).Nodup ∧ st.dev.ring = none ∧
    st.dev.badGranules = [] ∧ logged.LogRoom ∧ Device.mirrors logged.dev 0 = true ∧ (∀ e ∈ logged.dev.audit.entries, e.seq < logged.dev.audit.seq) ∧
    (afterIn { logged with dev := { logged.dev with badGranules := [0] } } (.auditChainCheck true true)).map (fun s => (s.dev.badGranules, s.dev.audit.entries.map (·.type))) =
      some ([], [10, 10, 10]) ∧
    (afterIn st (.auditChainCheck true false)).map (·.dev.audit.frozen) = some true ∧ (afterIn st (.auditChainCheck false true)).map (fun s => s.dev.audit.entries.map (·.type)) = some [10] := by
  unfold State.LogRoom; decide +kernel

/-! Boundary values of the statements' further clauses, statement by statement. -/

/-- The ends of the ranges of a byte's fields: E4M3's NaN, largest and least; E5M2's infinity, NaN and subnormals; E8M0's NaN and largest. -/
theorem witness_ExactConversions_bytes :
    (0xFF % 256 = 128 * 1 + 8 * 15 + 7) ∧ (0x7E % 256 = 128 * 0 + 8 * 15 + 6) ∧ (0x87 % 256 = 128 * 1 + 8 * 0 + 7) ∧ (0xFC % 256 = 128 * 1 + 4 * 31 + 0) ∧
    (0x7B % 256 = 128 * 0 + 4 * 30 + 3) ∧ (0x83 % 256 = 128 * 1 + 4 * 0 + 3) ∧ ((0xFF000000 : Word).toNat / 256 ^ 3 % 256 = 255) ∧
    srcVal 3 3 0xFF000000 0 = .nan ∧ srcVal 4 3 0xFC000000 0 = .inf true ∧ srcVal 4 0 0x7F 0 = .nan ∧ srcVal 7 1 0xFF00 0 = .nan := by decide +kernel
/-- The shortest and the longest runs of T8 and T6. -/
theorem witness_ExactConversions_runs :
    decT8 (128 * 1 + (2 ^ 1 - 1) * 2 ^ 6 + 1 * 2 ^ 4 + 15) = decT8 0xDF ∧ decT8 (2 ^ (6 - 5) + 1 * 2 ^ 0 + 0) = decT8 0x03 ∧ decT6 (32 * 1 + 2 ^ (4 - 4) + 0) = decT6 0x21 ∧
    (0 : Nat) < 2 ^ (5 - 5) ∧ (15 : Nat) < 2 ^ (5 - 1) ∧ (7 : Nat) < 2 ^ (4 - 1) := by decide +kernel
/-- Values at which a conversion to a byte turns: E5M2's overflow, E8M0's range, and one below it. -/
theorem witness_ExactConversions_ends :
    (Val.fin true 61440 0).num = some (-61440) ∧ ¬ (|(-61440 : ℚ)| < 61440) ∧ (Val.fin false 61439 0).num = some 61439 ∧
    (Val.fin false 1 (-127)).num = some ((2 : ℚ) ^ (-127 : ℤ)) ∧ (Val.fin false 1 128).num = some ((2 : ℚ) ^ 128) ∧
    (∃ x, (Val.fin true 1 (-128)).num = some x ∧ |x| < (2 : ℚ) ^ (-127 : ℤ)) := by
  refine ⟨by norm_num [Val.num], by norm_num, by norm_num [Val.num], by norm_num [Val.num], by norm_num [Val.num], _, rfl, ?_⟩
  norm_num [Val.num, abs_of_nonpos, abs_of_nonneg]
/-- Numbers at which the special functions' clauses turn. -/
theorem witness_SpecialValues_numbers :
    (decF32 0x40400000).num = some 3 ∧ (decF32 0x41180000).num = some (19 / 2) ∧ (decF32 0xC1180000).num = some (-19 / 2) ∧ (decF32 0x43000000).num = some 128 ∧
    (decF32 0x42B20000).num = some 89 ∧ (decF32 0x7E800000).num = some ((2 : ℚ) ^ 126) ∧ (decF32 0x00800000).num = some ((2 : ℚ) ^ (-126 : ℤ)) ∧
    (Val.fin true 149 0).num = some ((-149 : ℤ) : ℚ) ∧ (Val.fin false 127 0).num = some ((127 : ℤ) : ℚ) := by
  rw [show decF32 0x40400000 = .fin false 0xC00000 (-22) by decide +kernel, show decF32 0x41180000 = .fin false 0x980000 (-20) by decide +kernel,
    show decF32 0xC1180000 = .fin true 0x980000 (-20) by decide +kernel, show decF32 0x43000000 = .fin false 0x800000 (-16) by decide +kernel,
    show decF32 0x42B20000 = .fin false 0xB20000 (-17) by decide +kernel, show decF32 0x7E800000 = .fin false 0x800000 103 by decide +kernel,
    show decF32 0x00800000 = .fin false 0x800000 (-149) by decide +kernel]
  norm_num [Val.num]
/-- A bound of each kind: two numbers, a zero beside an infinity, a NaN. -/
theorem witness_SpecialValues_bounds :
    (∃ a b, (decF32 0x40400000).num = some a ∧ (decF32 0x80000000).num = some b) ∧ (decF32 0x80000000).isZero = true ∧ (decF32 0xFF800000).isNan = false ∧
    (decF32 0xFF800000).isZero = false ∧ (decF32 0x7F800001).isNan = true ∧ bMul 0xFF800000 0x80000000 = 0 ∧ bDiv 0xFF800000 0x80000000 = 0x7F800000 ∧
    bAdd 0x7F7FFFFF 0x7F7FFFFF = 0x7F800000 ∧ bAdd 0xFF7FFFFF 0xFF7FFFFF = 0xFF7FFFFF := ⟨⟨_, _, rfl, rfl⟩, by decide +kernel⟩
theorem witness_ExactValues_sides : ∃ p q, (Val.fin false 3 (-1)).num = some p ∧ (Val.fin true 1 0).num = some q ∧ q ≠ 0 ∧ 0 < p ∧ q < 0 :=
  ⟨_, _, rfl, rfl, by norm_num, by norm_num, by norm_num⟩
/-- The exponents at the ends of O33's ranges and each rounding mode. -/
theorem witness_XfWrite_modes :
    ((3 : Nat).log2 : Int) + 16381 ≤ 16382 ∧ -16382 ≤ ((1 : Nat).log2 : Int) + -16382 ∧ precRM 0x1ED = 1 ∧ precRM 0x2ED = 2 ∧ precRM 0x3ED = 3 ∧ precRM 0x4ED = 4 ∧
    (xfWrite 1 .nan).words = [0x0FFFF000] := by decide +kernel
theorem witness_XfElements_lengths : 1 ≤ [(0 : Word)].length ∧ (List.replicate 8 (0 : Word)).length ≤ 8 ∧ (xfMin [0x20000000, 5]).length = 1 ∧
    xfMin [0x27FFE000, 0] = [0x07FFE000] ∧ xfMin [0x47FFE000, 1, 0] = [0x27FFE000, 1] ∧ xfExp 0x27FFE000 = 0x3FFF := by decide +kernel
/-- A command window at the edges of its offsets: a position and a width, and whether R261 allows the access. -/
def windowed (p n : Nat) : Bool := (st.resolve tm (0xFF000200000400 + p) n 0 true).2.windowed = .bad 2 (0xFF000200000400 + p)
theorem witness_AddressRules_windows :
    0xFF000200000400 / 2 ^ 32 = 0xFF0002 ∧ (0xFF000200000400 + 0x44) % 2 ^ 32 / 2 ^ 8 ≤ 4 ∧ 0x3C + 4 ≤ 0x40 ∧
    [(0x3C, 4), (0x38, 8), (0x30, 16), (0x3F, 1), (0x40, 4), (0x40, 8), (0x44, 4)].map (fun e => windowed e.1 e.2) = List.replicate 7 false ∧
    [(0x40, 1), (0x40, 2), (0x40, 16), (0x44, 1), (0x46, 2), (0x48, 4), (0xF8, 8)].map (fun e => windowed e.1 e.2) = List.replicate 7 true ∧
    (Res.bad 3 1).windowed = .bad 3 1 := by decide +kernel
/-- A page that lies in two ranges of its context, side by side, and one that runs past them. -/
theorem witness_PageTables_ranges :
    let c := { fetchContext with ranges := [(0x10000000, 0x1000000), (0x11000000, 0x1000000)] }
    c.owns 0x10000000 (2 ^ 25) = true ∧ c.owns 0x10010000 (2 ^ 25) = false := by decide +kernel
/-- Lanes with a NaN, with equal values and with lanes that have ended. -/
def lanesOf (l : List (Word × Word)) : Lanes := l.map (fun e => some { arrival (.gredF 0) with a0 := e.1, a1 := e.2 }) ++ List.replicate (32 - l.length) none
theorem witness_GroupResults_floats :
    let a := arrival (.gredF 0)
    let of := fun (op : GroupOp) (l : List (Word × Word)) => groupResult { a with op := op } 0 (lanesOf l)
    (lanesOf [(1, 2), (3, 4)]).length = 32 ∧ ((lanesOf [(1, 2)]).at_ 0).isSome = true ∧ ((lanesOf [(1, 2)]).at_ 1).isSome = false ∧
    (decF32 0x7F800001).isNan = true ∧ (decF32 0x80000000).below (decF32 0) = true ∧
    of (.gredF 1) [(0, 0), (0x80000000, 1)] = [.reg 3 0x80000000] ∧ of (.gredF 2) [(0x80000000, 0), (0, 1)] = [.reg 3 0] ∧ of (.gredF 2) [(0, 0), (0x7F800001, 1)] = [.reg 3 0x7FC00000] ∧
    of (.gredF 3) [(0x3F800000, 5), (0x7F800001, 1), (0x3F800000, 4)] = [.reg 3 0x3F800000, .reg 4 4] ∧
    of (.gredF 3) [(0xFFC00000, 5), (0x7F800001, 1)] = [.reg 3 0x7FC00000, .reg 4 1] ∧ of (.gredI 3) [(7, 9), (0xFFFFFFFF, 6), (0xFFFFFFFF, 5)] = [.reg 3 0xFFFFFFFF, .reg 4 5] ∧
    of (.gredF 0) [(0x3F800000, 0), (0x40000000, 0)] = [.reg 3 0x40400000] := by decide +kernel
/-- An acquire of thread 0 in flight holds back what the thread issues after it; a release part does so for a write alone. -/
theorem witness_EngineWords_heldBack :
    let at0 := fun (o : OpBody) => { st with ops := [opAt o], nextId := 6 }
    (at0 (.fence 1)).heldBack tm (th 0) false = true ∧ (at0 (.fence 2)).heldBack tm (th 0) false = false ∧ (at0 (.fence 2)).heldBack tm (th 0) true = true ∧
    (at0 (.fence 1)).heldBack tm (th 1) true = false ∧ (at0 (.accRead 3 0 1)).heldBack tm (th 0) false = true ∧
    (at0 (.load (.plain 4) 4 none (page 0x100 4 0 false) true none ⟨0, 1, 0, 0x1000, 0x1010⟩)).heldBack tm (th 0) false = true ∧
    ((afterIn (at0 (.fence 1)) (.accrd 0 7 3 1)).bind (·.op? 6)).map (·.body) = some (.accRead 3 0 1) ∧
    ((afterIn (at0 (.fence 1)) (.accwr 0 7 1 2)).bind (·.op? 6)).map (·.body) = some (.accWrite 0 0 [0]) ∧
    ((afterIn (at0 (.fence 1)) (.obrel 0 7 15)).bind (·.op? 6)).map (·.body) = some (.handle 15 (List.replicate 32 0)) := by decide +kernel
/-- The last entry of the accumulators; an entry in an uncorrectable granule of eight, and one past it. -/
theorem witness_EngineWords_poisoned :
    let s := { st with dev := { st.dev with badSram := [.acc 0 8191] } }
    s.accBad 0 65535 1 = true ∧ s.accBad 0 65527 1 = false ∧ (65535 + 0) / 8 = 8191 ∧ s.accOf tm < 65535 + 4 := by decide +kernel
/-- Moves and records that an acquire held back, performed. -/
theorem witness_WritesAtTheirHomes_heldBack :
    inFlight (withOp (.accWrite 2 4 [3, 5])) = true ∧ (withOp (.accWrite 2 4 [3, 5])).mayPerform (opAt (.accWrite 2 4 [3, 5])) = true ∧
    (teamOf (afterIn (withOp (.accWrite 2 4 [3, 5])) (.storeAtHome 5))).map (fun t => (cget t.acc 3, cget t.acc 4, cget t.acc 5)) = some (0, 3, 5) ∧
    bodyAfter (withOp (.accWrite 2 4 [3, 5])) (.storeAtHome 5) = some (.written 1001) ∧
    (withOp (.handle 15 (List.replicate 32 7))).mayPerform (opAt (.handle 15 (List.replicate 32 7))) = true ∧
    (teamOf (afterIn (withOp (.handle 15 (List.replicate 32 7))) (.storeAtHome 5))).map (fun t => (getBytes t.handles 480 2, cget t.handles 479)) = some ([7, 7], 0) := by decide +kernel
/-- A host write just below and just above the audit log's mirror. -/
theorem witness_WritesAtTheirHomes_mirror :
    0xFFFFFFF < 2 ^ 28 ∧ 2 ^ 28 ≤ 0x10000000 ∧ afterIn st (.hostCxlWrite 0xFFFFFFF [1, 2]) = some st ∧ memAfter st (.hostCxlWrite 0x10000000 [1, 2]) 0 2 = some [1, 2] := by
  decide +kernel
/-- An element read word by word, before and after its last word is there; a word of it; the traps of R370 at a load's completion. -/
def gathering (kind : LoadKind) (d : Nat) (ws : List (Option Word)) : State := withOp (.gather kind d (some 8) 0x100 ws ⟨0, 1, 0, 0x1000, 0x1010⟩)
theorem witness_Completions_elements :
    afterIn (gathering .xf 4 [some 0x27FFE000, none]) (.loadCompletion ⟨5, []⟩) = some (gathering .xf 4 [some 0x27FFE000, none]) ∧
    (held (gathering .xf 4 [some 0x27FFE000, some 5]) (.loadCompletion ⟨5, []⟩)).map (fun h => (h.rd 4, h.rd 5, h.rd 8)) = some (0x27FFE000, 5, 0x108) ∧
    (th 0).nreg < 63 + 2 ∧ ((held (gathering .xf 63 [some 0x27FFE000, some 5]) (.loadCompletion ⟨5, []⟩)).bind (·.trap)).map (·.cause) = some 3 ∧
    ((held (gathering (.xfRound 0x801) 4 [some 0x27FFFFFF, some 5]) (.loadCompletion ⟨5, []⟩)).bind (·.trap)).map (·.cause) = some 1 ∧
    (let s := { gathering .xf 4 [some 0x27FFE000, none] with
                          nextId := 7
                          ops := [opAt (.gather .xf 4 (some 8) 0x100 [some 0x27FFE000, none] ⟨0, 1, 0, 0x1000, 0x1010⟩),
                                  { opAt (.load (.word 5 1) 4 none (page 0x104 4 0 false) false (some ([5, 0, 0, 0], 0)) ⟨0, 1, 0, 0x1000, 0x1010⟩) with id := 6, flag := none }] }
     bodyAfter s (.loadCompletion ⟨6, []⟩) = some (.gather .xf 4 (some 8) 0x100 [some 0x27FFE000, some 5] ⟨0, 1, 0, 0x1000, 0x1010⟩)) ∧
    (withOp (.accRead 3 0 4)).mayPerform (opAt (.accRead 3 0 4)) = true ∧ (withOp (.accRead 3 0 4)).accBad 0 0 4 = false ∧
    (held { withOp (.accRead 3 4 1) with teams := [{ tm with acc := [(4, 9)], threads := [{ th 0 with flags := 4 }, th 1] }] } (.trackedOpCompletion ⟨5, []⟩)).map (·.rd 3) = some 9 := by
  decide +kernel
/-- A load from the last word of a command window, and a PUSH that its thread's frame tells apart. -/
theorem witness_Completions_window :
    ((List.range 4).map (0x3C + ·)).headD 0 < 0x40 ∧
    (held (withOp (.load (.plain 4) 4 none { space := .window 0 4, bytes := (List.range 4).map (0x3C + ·), va := 0xFF00020000043C, attr := noAttr } true none ⟨0, 1, 0, 0x1000, 0x1010⟩))
      (.loadCompletion ⟨5, []⟩)).map (fun h => (h.rd 4, h.rh)) = some (0, 1001) ∧
    (opAt (.go 4 false true [] [])).frame < tm.frames.length ∧ st.canAccept tm (opAt (.go 4 false true [] [])).frame 4 = true := by decide +kernel
/-- A core whose request table has no entry left for the record of a trap, and an uncorrectable register of the vector's pair. -/
def crowded (l : List Nat) : State := { trapped 0x3000 0 0 with ops := [{ opAt (.written 1001) with lrank := 1, sectors := l }] }
def badVector (j : Nat) : State := { trapped 0x3000 0 0 with dev := { st.dev with badSram := [.uni 0 0 j] } }
theorem witness_TrapEntry_full : ∃ l, (crowded l).tableFull 0 0 ((crowded l).trapSectors tm (th 0)) = true := by
  have full : ∀ (l : List Nat), l.Nodup → l.length = 4096 → (crowded l).freeRequests 0 0 = 0 := fun l hl h4 => by
    have hd : (l.map fun x => (0, x)).dedup = l.map fun x => (0, x) := (hl.map fun x y h => (Prod.mk.inj h).2).dedup
    have hf : (crowded l).freeRequests 0 0 = 4096 - ((l.map fun x => (0, x)) ++ []).dedup.length := rfl
    rw [hf, List.append_nil, hd, List.length_map, h4]
  obtain ⟨x, xs, h⟩ : ∃ x xs, (trapped 0x3000 0 0).trapSectors tm (th 0) = x :: xs := ⟨_, _, rfl⟩
  refine ⟨List.range 4096, ?_⟩
  rw [State.tableFull, full _ List.nodup_range List.length_range, show ∀ l, (crowded l).trapSectors tm (th 0) = x :: xs from fun _ => h]
  simp
theorem witness_TrapEntry_waits :
    ((trapped 0x3000 0 0).team? 0).map (fun t => (trapped 0x3000 0 0).tableFull 0 0 ((trapped 0x3000 0 0).trapSectors t (th 0))) = some false ∧
    tm.uniBad [.uni 0 0 253] 0 [252, 253] = true ∧ tm.uniBad [.uni 0 0 254] 0 [252, 253] = false ∧ (held (badVector 253) (.trapEntry 0 0)).map (·.exited) = some true ∧
    (held (badVector 254) (.trapEntry 0 0)).map (·.pc) = some 0x3000 := by decide +kernel
/-- What the picker weighs: two candidates of two teams, one of them aged, and a thread that is not ready. -/
def twoTeams (ages : Bool) : State :=
  { idle with launches := [pairLaunch, { pairLaunch with id := 1 }],
              teams := [tm, { tm with id := 1, launch := 1, slot := 1, threads := [{ th 0 with aged := ages, readyAt := 7 }, th 1] }] }
theorem witness_IssueAndPermits_order :
    (twoTeams true).candidates 0 0 0 ≠ [] ∧ ((twoTeams true).candidates 0 0 0).map (fun c => (c.team.id, c.threads.map (·.readyAt), c.threads.map (·.lrank))) =
      [(0, [0, 0], [0, 1]), (1, [7, 0], [0, 1])] ∧
    ((twoTeams true).best 0 0 0).map (·.team.id) = some 1 ∧ ((twoTeams false).best 0 0 0).map (·.team.id) = some 0 ∧
    (twoTeams false).prioOf { team := tm, frame := 0, pc := 0x1000, threads := tm.threads, packet := (st, .ok []) } = 0 ∧
    (tm.threads.map (·.lrank)).Nodup ∧ idle.team? 0 = some tm ∧ nextSlot [0, 0, 0, 0] 4 = none := by decide +kernel
/-- A call of two threads by rank; each sits where the pool has room and no core waits to push a marker. -/
theorem witness_ParkedThreadsGoOn_ranks :
    (calling.team? 0).map (fun t => ((t.frame 0).call.map (·.ranks), t.markers)) = some (some [0, 1], []) ∧ ([0, 1] : List Nat).Nodup ∧
    (held { calling with teams := calling.teams.map fun t => { t with threads := t.threads.map fun h => { h with trap := some ⟨4, 1, 0, 0x1000, 0x1010⟩ } } }
      (.forkReservation 0 0)).map (fun h => h.trap.map (·.resume)) = some (some 0x2000) ∧
    (held { joining with teams := joining.teams.map fun t => { t with threads := t.threads.map fun h => { h with trap := some ⟨3, 1, 0, 0x2000, 0x2010⟩ } } }
      (.join 0 0)).map (fun h => h.trap.map (·.resume)) = some (some 0x1020) := by decide +kernel
/-- A team to be saved with an uncorrectable granule of its arrays, and one of another team's. -/
theorem witness_SavesAndLaunches_badArray :
    let bad := fun (g : Sram) => { leaving with dev := { leaving.dev with badSram := [g] } }
    (leaving.team? 0).map (fun t => (t.owns (.scratch 0 0), t.owns (.scratch 1 0), leaving.saveReady t)) = some (true, false, true) ∧
    (teamOf (afterIn (bad (.scratch 0 0)) (.teamSave 0))).map (·.standing) = some .saving ∧
    ((afterIn (bad (.scratch 0 0)) (.teamSave 0)).bind (·.ctx? 0)).map (·.stopped) = some true := by decide +kernel
/-- A LAUNCH whose queue's entry is not enabled as its wait ends, and one whose room came after 2^26 ticks and before. -/
def roomAt (n : Nat) : State :=
  { full (2 ^ 26) with contexts := [{ fetchContext with queues := [{ Queue.fresh 0 with tail := 4, headW := 1, logn := 2, freed := n }] }] }
theorem witness_SavesAndLaunches_late :
    (cmdOf (afterIn { full (2 ^ 26) with mem := (queued 0).mem } (.launchQfullTimeout 7))).map (fun d => (d.state, d.code, d.detail)) = some (.performed, 0x101, 16) ∧
    (cmdOf (afterIn (roomAt (2 ^ 26)) (.launchQfullTimeout 7))).map (fun d => (d.state, d.code)) = some (.performed, 0x107) ∧
    (cmdOf (afterIn (roomAt (2 ^ 26 - 1)) (.launchQfullTimeout 7))).map (·.state) = some .running ∧ (cmdOf (afterIn (roomAt (2 ^ 26)) (.launch 7))).map (·.state) = some .running ∧
    (cmdOf (afterIn (roomAt (2 ^ 26 - 1)) (.launch 7))).map (·.state) = some .performed ∧
    (roomAt 0).startable 7 = some ({ launching 0x8000 with state := .running }, tm) := by decide +kernel
/-- Operand words read ahead: the step leaves the command running with them, and the result is that of the words as they were read. -/
theorem witness_EngineBodies_readAhead :
    (∃ k ∈ [2 ^ 20], 2 ^ 20 ≤ k) ∧ (∀ k ∈ [2 ^ 20 - 1], k < 2 ^ 20) ∧
    (cmdOf (afterIn (withMat (multiplying 0x10 0 0)) (.mma ⟨7, [2 ^ 20]⟩))).map (fun d => (d.state, d.outs.isNone, d.early)) = some (.running, true, some [(0, 0x3C003C00)]) ∧
    (let s := (afterIn (withMat (multiplying 0x10 0 0)) (.mma ⟨7, [2 ^ 20]⟩)).getD st
     (teamOf (afterIn { s with teams := s.teams.map fun t => { t with opbuf := putBytes t.opbuf 0 [0, 0, 0, 0] } } (.mma ⟨7, []⟩))).map (·.acc) = some [(65535, 0x41880000)]) ∧
    (multiplying 0x10 0 0).Sees matTeam.opbuf matTeam.opbuf := ⟨by decide +kernel, by decide +kernel, by decide +kernel, by decide +kernel, rfl⟩
/-- Elements quantised at the largest and the smallest scale, keys of two dimensions and their envelope, a pair to rotate, a query's bound. -/
def keyGeom : Geom := geomOf 0x2200
theorem witness_AttentionAndMaintenance_numbers :
    2 ≤ 5 ∧ 5 ≤ 5 ∧ 254 < 255 ∧ quantise 2 0 (.fin false 3 0) = 0x4040 ∧ quantise 3 128 (.fin false 3 0) = 0x3C ∧ (elemVal 3 254 0x38).num = some ((2 : ℚ) ^ 127) ∧
    keyGeom.d = 16 ∧ keyGeom.d % 2 = 0 ∧ (List.replicate 16 (Val.fin false 1 0)).length = keyGeom.d ∧
    (let e := envFor keyGeom ⟨0, 0, false, 0, 0, 0, [], [], []⟩ [List.replicate 16 (.fin false 1 0), .nan :: List.replicate 15 (.fin true 1 0)]
     (e.lo.getD 0 0, e.hi.getD 0 0, e.lo.getD 1 0, e.hi.getD 1 0, e.rho.getD 0 0, e.bv) = (0xFF80, 0x7F80, 0xBF80, 0x3F80, 0x7F80, true)) := by
  refine ⟨by decide, by decide, by decide, by decide +kernel, by decide +kernel, ?_, by decide +kernel, by decide +kernel, by decide +kernel, by decide +kernel⟩
  rw [show elemVal 3 254 0x38 = .fin false 8 124 by decide +kernel]; norm_num [Val.num]
/-- A pair to rotate by an angle of 1, a bound of two queries, a visit of a block of one key, and a frequency whose angle is within FP32. -/
theorem witness_AttentionAndMaintenance_steps :
    (∃ x y f, (Val.fin false 1 0).num = some x ∧ (Val.fin true 1 0).num = some y ∧ (decF32 0x3F800000).num = some f) ∧ 2 * 7 + 1 < 16 ∧
    decF32 (encF32 (decF32 0x3F800000).cos) = .fin false 9064768 (-24) ∧ decF32 (encF32 (decF32 0x3F800000).sin) = .fin false 14117540 (-24) ∧
    (rotated 1 (List.replicate 8 0x3F800000) (List.replicate 16 (.fin false 1 0))).length = 16 ∧ |((-1 : Int) : ℚ) * 1| < (2 : ℚ) ^ 128 - (2 : ℚ) ^ 103 ∧
    (let e : Envelope := ⟨0, 1, true, 127, 127, 0, List.replicate 16 0xBF80, List.replicate 16 0x3F80, List.replicate 8 0x3F80⟩
     blockBound keyGeom 0x3F800000 { e with n := 0 } [List.replicate 16 0x3F80] = 0xFF800000 ∧ blockBound keyGeom 0x3F800000 e [List.replicate 16 0, List.replicate 16 0x3F80] = 0x413504F5 ∧
       blockBound keyGeom 0x7F800001 e [List.replicate 16 0x3F80] = 0x7F800000) ∧
    (let a := (attnAt 2 0).visited keyGeom 0x3F800000 [List.replicate 16 (.fin false 0 0)] [List.replicate 16 (.fin false 1 0)]
     (a.k, a.m, a.l, a.o.map fun l => l.getD 15 0) = (1, [0], [0x3F800000], [0x3F800000])) :=
  ⟨⟨_, _, _, rfl, rfl, rfl⟩, by decide, by decide +kernel, by decide +kernel, by decide +kernel, by norm_num, by decide +kernel, by decide +kernel⟩
/-- A granule of a peer's word that is uncorrectable, read and written over. -/
def spoiled : State := { roomForTwo with dev := { st.dev with badGranules := [0x10009000 / 32] } }
theorem witness_CollectivePrograms_poisoned :
    (spoiled.peerRes 0 0x9000 8).map (fun q => (q.1.poisoned q.2.bytes, q.2.va)) = .ok (true, 0x9000) ∧ (spoiled.peerReserve 0 0x9000 2 0).map (·.2) = .error (.poison 0x9000) ∧
    (spoiled.peerAdd 0 0x9000 1).map (·.2) = .error (.poison 0x9000) ∧ (spoiled.peerCombine 0 0x9000 2 1).map (·.2) = .error (.poison 0x9000) ∧
    (roomForTwo.peerRes 0 0x9000 8).map (fun q => q.1.poisoned q.2.bytes) = .ok false ∧ (roomForTwo.peerReserve 0 0x9000 2 1).map (·.2) = .ok (0, 1) ∧
    (roomForTwo.peerReserve 0 0x9000 2 2).map (·.2) = .ok (fullRow, 1) ∧ (roomForTwo.peerRes 0 0x9000 4).map (·.2.attr.red) = .ok false ∧
    (spoiled.peerWords 0 0x9000 [] (List.replicate 8 7)).map (·.1.dev.badGranules) = .ok [] ∧
    (afterIn { jobbed with dev := { st.dev with badGranules := [0x10009000 / 32] } } (.fabricWriteArrival (message (.combine 2) 0))).map (fun s => s.outbox.map (·.t)) = some [0] := by
  decide +kernel
def reserving (un : List (Nat × Nat × Nat)) : CollState := { CollState.fresh with wait := .reserve 9 0x9000, seq := 3, unacked := un }
/-- A slot that is full while the notice of an earlier release may not be sent yet, and once it may. -/
def noticed (ack : Nat) : State :=
  let s := atStep { CollState.fresh with ackT := [(0, ack)], since := some 7 } [(0, 1, 2), (2, 1, 1)]
  { s with mem := putBytes s.mem 0x10000000 [1] }
theorem witness_CollectivePrograms_held :
    ((cmdOf (afterIn (noticed 999) (.recv 7))).bind (·.coll)).map (fun c => (c.step, c.since)) = some (0, none) ∧
    ((cmdOf (afterIn (noticed 998) (.recv 7))).bind (·.coll)).map (fun c => (c.step, c.since)) = some (1, none) ∧
    (∃ x ∈ (reserving [(2, 9, 0)]).unacked, x.1 + 1 = (reserving [(2, 9, 0)]).seq) ∧ (∀ x ∈ (reserving [(2, 9, 0)]).unacked, x.1 + 1 = (reserving [(2, 9, 0)]).seq) ∧
    (reserving []).chans = [] ∧ 9 ≠ st.ownRank tm.ctx ∧
    (cmdOf (afterIn (atStep (reserving [(2, 9, 0)]) [(0, 1, 10), (3, 1, 1), (8, 4, 64), (12, 1, 1), (14, 2, 1)]) (.putrReserve 7 (0, 0)))).map (fun d => (d.state, d.code)) =
      some (.performed, 0x305) := by decide +kernel
/-- The head command after a failed start: ATTEST and LOGREAD are answered, LOGSIGN is refused. -/
def failedHead (code : Nat) : State := { headed idle code [] with dev := { (headed idle code []).dev with phase := .failed } }
theorem witness_ManagementAndDevice_failed :
    (failedHead 7).FailedHead 7 ∧ (failedHead 8).FailedHead 8 ∧ answered (failedHead 7) (.attest 0x500 5) = some 1 ∧ answered (failedHead 8) (.logread 0x500 1) = some 1 ∧
    (afterIn (failedHead 8) (.logsign 0x500)).map (fun s => cget s.hostMem 0x500) = some 1 ∧ (afterIn (failedHead 2) (.create 0x500 (record 31))).map (fun s => (cget s.hostMem 0x500, s.contexts.length)) = some (1, 1) := by
  refine ⟨⟨rfl, by decide +kernel, (fun a r p h => nomatch h), by decide +kernel, rfl⟩, ⟨rfl, by decide +kernel, (fun a r p h => nomatch h), by decide +kernel, rfl⟩, ?_⟩
  decide +kernel
/-- RELEASE with an entry of the log that waits, and with a frozen log at and below 1,024 of them: the head count, and how many contexts are left. -/
def waitingLog (frozen : Bool) (n : Nat) : State :=
  { headed { idle with teams := [] } 3 [] with
    dev := { (headed st 3 []).dev with audit := { st.dev.audit with frozen := frozen, pending := List.replicate n ⟨0, 0, 2, 0, [], []⟩ } } }
def left (s : State) (i : Instr) : Option (BitVec 32 × Nat) := (afterIn s i).map fun m => (m.dev.mhead, m.contexts.length)
theorem witness_ManagementAndDevice_release :
    left (waitingLog false 1) (.release 0x500 0) = some (1, 1) ∧ left (waitingLog false 0) (.release 0x500 0) = some (1, 0) ∧
    left (waitingLog true 1024) (.release 0x500 0) = some (1, 1) ∧ left (waitingLog true 1023) (.release 0x500 0) = some (1, 0) := by decide +kernel
/-- The ring while a STEP's team is away and while it is resident; a STEP under way refuses another. -/
def stepUnder (standing : Standing) (s : State) : State :=
  { s with teams := s.teams.map fun t => { t with standing := standing }, dev := { s.dev with stepping := some (0, 0, 0x500) } }
theorem witness_ManagementAndDevice_stepping :
    (stepUnder .saved (headed st 5 [])).RingFree ∧ ¬ (stepUnder .resident (headed st 5 [])).RingFree ∧ replied (stepUnder .saved (headed st 5 [])) invalidateOf = some 1 ∧
    replied (stepUnder .resident (headed st 5 [])) invalidateOf = some 0 ∧ (perform (stepUnder .saved (debugged 6 1 true [])) debugStepOf).map (fun m => cget m.hostMem 0x500) = some 1 := by
  refine ⟨fun a r p h => ?_, fun h => ?_, by decide +kernel⟩
  · obtain ⟨rfl, -⟩ : a = 0 ∧ (r, p) = (0, 0x500) := by simpa [stepUnder, eq_comm] using h
    exact ⟨_, rfl, by decide +kernel⟩
  · obtain ⟨t, ht, hs⟩ := h 0 0 0x500 rfl
    exact hs (by cases ht; rfl)
/-- Repairs: a stopped context, whose team cannot leave; one that waits, with and without a team there, with a spare and without; a context
created on a core that waits for its repair; an error of control state. -/
def mending (spare : Bool) (teams : List Team) : State :=
  { headed idle 2 [] with teams := teams, dev := { (repairing 0 none []).dev with repairs := [(0, 0, spare)] } }
theorem witness_ManagementAndDevice_repairs :
    (afterIn { repairing 1 none [tm] with contexts := [{ fetchContext with stopped := true }] } (.repair 0x500 0 0)).map (fun m => (m.dev.mhead, m.dev.repairs)) =
      some (1, [(0, 0, true)]) := by decide +kernel
theorem witness_ManagementAndDevice_repairs_ends :
    (mending true []).dev.repairs.find? (fun r => r.1 == 0 && r.2.1 == 0) = some (0, 0, true) ∧ ((mending true []).core? 0 0).isSome = true ∧
    (afterIn (mending true [tm]) (.repair 0x500 0 0)).map (·.dev.repairs) = some [(0, 0, true)] ∧
    ((afterIn (mending true []) (.repair 0x500 0 0)).bind (·.core? 0 0)).map (fun k => (k.closed, k.retired)) = some (false, false) ∧
    ((afterIn (mending false []) (.repair 0x500 0 0)).bind (·.core? 0 0)).map (fun k => (k.closed, k.retired)) = some (true, true) := by decide +kernel
theorem witness_ManagementAndDevice_repairs_create :
    ((afterIn { mending true [] with contexts := [], cores := [] } (.create 0x500 (record 31))).map (fun m => m.cores.map fun k => (k.die, k.num, k.closed))) =
      some ((contextOf (record 31)).cores.map fun k => (k.1, k.2, decide (k = (0, 0)))) ∧
    (repairing 1 none [tm]).dev.repairs = [] ∧ (repairing 1 none [tm]).dev.spares.length = 8 := by decide +kernel
theorem witness_ManagementAndDevice_control_spare :
    ((repairing 1 none [tm]).befalls (.control 0 0)).dev.repairs = [(0, 0, true)] ∧ ((repairing 1 none [tm]).befalls (.control 0 0)).dev.spares.getD 0 9 = 0 ∧
    ((repairing 1 none [tm]).befalls (.control 0 0)).teams.map (·.standing) = [.saving] := by decide +kernel
theorem witness_ManagementAndDevice_control_none :
    ((repairing 0 none [tm]).befalls (.control 0 0)).dev.repairs = [(0, 0, false)] ∧ (mending true [tm]).befalls (.control 0 0) = mending true [tm] := by decide +kernel
/-- LOAD of a thread whose record holds the packet of the rendezvous that it waits at, and of one with a trap to come. -/
def loadedAt (f : Thread → Thread) (pc : Nat) : Option Thread :=
  let s := debugged 8 1 true [(24, 8, 0x11000000)]
  threadOf (perform { s with teams := s.teams.map fun t => { t with threads := t.threads.map f }, mem := putBytes s.mem 0x11011740 (toLe 8 pc) } debugLoadOf)
theorem witness_ManagementAndDevice_load :
    (∃ a, ({ th 0 with garr := some (arrival (.poll 0)) } : Thread).garr = some a ∧ (0x1000 : BitVec 56) = a.packet) ∧
    (loadedAt (fun h => { h with garr := some (arrival (.poll 0)), park := .group, pc := 0x1004, cont := true }) 0x1000).map (fun h => (h.pc, h.cont)) = some (0x1004, true) ∧
    (loadedAt (fun h => { h with trap := some ⟨4, 1, 0, 0x1000, 0x1010⟩ }) 0x2000).map (fun h => (h.pc, h.trap.map (·.resume))) = some (0x2000, some 0x2000) := by decide +kernel

end Sys2Proof.Tests
end

/-! LAWS. Every arm of `exec` is a next state (O6). -/

namespace Sys2Proof.Machine
open Sys2Proof
/-- Settles O6: the arm of each instruction is a next state. -/
theorem nothingIsRefused : Obligations.NothingIsRefused := by
  intro i s
  cases i <;> exact ⟨_, rfl⟩
end Sys2Proof.Machine


/-!
LAWS. What every step keeps (O8): a state is sound if its memories are in canonical form and its measurement registers are as a
predicate `K` says. Each function of the model that yields a state yields a sound one from a sound one: `State.Sound.f` says so of
`State.f`, and its proof goes through the functions that `f` calls. With `K` true of everything this is the canonical form alone; with
`K` a fixed list of registers it says that they stay as they are.
-/

namespace Sys2Proof.Machine

open Sys2Proof

-- Checked one after the other: some hundreds of short proofs at once would each hold a thread with its stack.
set_option Elab.async false

/-- The memories are in canonical form, and the measurement registers are as `K` says. -/
structure State.Sound (K : List (BitVec 512) → Prop) (s : State) : Prop where
  memories : s.MemoriesOk
  meas : K s.dev.meas

/-- The state that an outcome holds, if any, is sound. -/
def UnitRes.Sound (K : List (BitVec 512) → Prop) : UnitRes → Prop
  | .done s _ => s.Sound K
  | _ => True
def ReadRes.Sound (K : List (BitVec 512) → Prop) : ReadRes → Prop
  | .ok s _ _ => s.Sound K
  | .fail r => r.Sound K
def StackRes.Sound (K : List (BitVec 512) → Prop) : StackRes → Prop
  | .ok s => s.Sound K
  | .illegal => True
  | .mem s _ => s.Sound K
def AttnStop.Sound (K : List (BitVec 512) → Prop) : AttnStop → Prop
  | .fault r => r.Sound K
  | .stale s => s.Sound K
  | .unstable => True
def CollStop.Sound (K : List (BitVec 512) → Prop) : CollStop → Prop
  | .fault r => r.Sound K
  | _ => True
inductive ExceptSound {ε α : Type} (E : ε → Prop) (K : List (BitVec 512) → Prop) : Except ε (State × α) → Prop
  | ok {p : State × α} (h : p.1.Sound K) : ExceptSound E K (.ok p)
  | error {e : ε} (h : E e) : ExceptSound E K (.error e)
def OptSound {α : Type} (K : List (BitVec 512) → Prop) : Option (State × α) → Prop
  | some p => p.1.Sound K
  | none => True

section Rules

variable {K : List (BitVec 512) → Prop} {s t : State} {α β ε : Type}

/-- An update of other fields than the memories, which leaves the measurement registers, keeps a state sound. -/
theorem State.Sound.upd {a b c : Nat} {d : List TimeBase} {e : List GroupClock} {f : List Act} {g : Option Bundle} {h : List Bundle} {i : Nat}
    {j : List Context} {k : List Launch} {l : List Team} {m : List Core} {n : List (Nat × TlbEntry)} {o : List Op} {p : List Cmd}
    {q : List LineMeta} {r : List Partial} {u : List FabricMsg} {v : Device} (hs : s.Sound K) (hv : v.meas = s.dev.meas := by rfl) :
    (State.mk a b c d e f g h i j k l m n o p s.mem s.hostMem q r u v).Sound K := by
  refine ⟨hs.1, ?_⟩
  rw [show (State.mk a b c d e f g h i j k l m n o p s.mem s.hostMem q r u v).dev.meas = s.dev.meas from hv]
  exact hs.2

theorem State.Sound.putHost {a : Nat} {bs : List Byte} (hs : s.Sound K) :
    ({ s with hostMem := putBytes s.hostMem a bs } : State).Sound K :=
  ⟨⟨hs.memories.1, putBytes_wf _ _ _ hs.memories.2⟩, hs.meas⟩

/-- What reports to the rings and the audit log keeps. -/
theorem State.Sound.reports (hs : s.Sound K) (h : s.Reports t) : t.Sound K := by
  have hd := congrArg (fun m : State => m.dev.meas) h.1
  refine ⟨h.2 hs.1, ?_⟩
  rw [show t.dev.meas = s.dev.meas from hd]
  exact hs.2

theorem State.Sound.ite {c : Prop} [Decidable c] (hs : s.Sound K) (ht : t.Sound K) : (if c then s else t).Sound K := by
  split
  · exact hs
  · exact ht

theorem State.Sound.foldl {f : State → α → State} {l : List α} (hs : s.Sound K) (hf : ∀ s a, s.Sound K → (f s a).Sound K) :
    (l.foldl f s).Sound K := by
  induction l generalizing s with
  | nil => exact hs
  | cons a l ih => exact ih (hf s a hs)

theorem State.Sound.foldl_fst {f : State × β → α → State × β} {l : List α} {p : State × β} (hp : p.1.Sound K)
    (hf : ∀ p a, p.1.Sound K → (f p a).1.Sound K) : (l.foldl f p).1.Sound K := by
  induction l generalizing p with
  | nil => exact hp
  | cons a l ih => exact ih (hf p a hp)

theorem State.Sound.of_eq {p : State × α} {a : α} (h : p.1.Sound K) (hp : p = (t, a)) : t.Sound K := by
  rw [hp] at h
  exact h

theorem UnitRes.Sound.done {w : Nat} (hs : s.Sound K) : (UnitRes.done s w).Sound K := hs
theorem UnitRes.Sound.of_done {r : UnitRes} {w : Nat} (h : r.Sound K) (hr : r = .done t w) : t.Sound K := by
  subst hr
  exact h

theorem ReadRes.Sound.ok {bs : List Byte} {w : Nat} (hs : s.Sound K) : (ReadRes.ok s bs w).Sound K := hs
theorem ReadRes.Sound.fail {r : UnitRes} (h : r.Sound K) : (ReadRes.fail r).Sound K := h
theorem ReadRes.Sound.of_fail {r : ReadRes} {u : UnitRes} (h : r.Sound K) (hr : r = .fail u) : u.Sound K := by
  subst hr
  exact h
theorem ReadRes.Sound.of_ok {r : ReadRes} {bs : List Byte} {w : Nat} (h : r.Sound K) (hr : r = .ok t bs w) : t.Sound K := by
  subst hr
  exact h

theorem StackRes.Sound.ok (hs : s.Sound K) : (StackRes.ok s).Sound K := hs
theorem StackRes.Sound.mem {x : Res} (hs : s.Sound K) : (StackRes.mem s x).Sound K := hs
theorem StackRes.Sound.of_ok {r : StackRes} (h : r.Sound K) (hr : r = .ok t) : t.Sound K := by
  subst hr
  exact h
theorem StackRes.Sound.of_mem {r : StackRes} {x : Res} (h : r.Sound K) (hr : r = .mem t x) : t.Sound K := by
  subst hr
  exact h

theorem AttnStop.Sound.fault {r : UnitRes} (h : r.Sound K) : (AttnStop.fault r).Sound K := h
theorem AttnStop.Sound.stale (hs : s.Sound K) : (AttnStop.stale s).Sound K := hs
theorem CollStop.Sound.fault {r : UnitRes} (h : r.Sound K) : (CollStop.fault r).Sound K := h

section Except

variable {E : ε → Prop}

theorem ExceptSound.pure {p : State × α} (h : p.1.Sound K) : ExceptSound E K (pure p) := .ok h
theorem ExceptSound.of_ok {r : Except ε (State × α)} {a : α} (h : ExceptSound E K r) (hr : r = .ok (t, a)) : t.Sound K := by
  subst hr
  cases h with
  | ok h => exact h
theorem ExceptSound.of_error {r : Except ε (State × α)} {e : ε} (h : ExceptSound E K r) (hr : r = .error e) : E e := by
  subst hr
  cases h with
  | error h => exact h
theorem ExceptSound.ite {x y : Except ε (State × α)} {c : Prop} [Decidable c] (hx : ExceptSound E K x) (hy : ExceptSound E K y) :
    ExceptSound E K (if c then x else y) := by
  split
  · exact hx
  · exact hy
theorem ExceptSound.bind {x : Except ε (State × α)} {f : State × α → Except ε (State × β)} (hx : ExceptSound E K x)
    (hf : ∀ p, p.1.Sound K → ExceptSound E K (f p)) : ExceptSound E K (x >>= f) := by
  cases hx with
  | ok h => exact hf _ h
  | error h => exact .error h
theorem ExceptSound.bind_plain {x : Except ε α} {f : α → Except ε (State × β)} (hx : ∀ e, x = .error e → E e)
    (hf : ∀ a, ExceptSound E K (f a)) : ExceptSound E K (x >>= f) := by
  cases x with
  | ok a => exact hf a
  | error e => exact .error (hx e rfl)
theorem ExceptSound.map {x : Except ε (State × α)} {f : State × α → State × β} (hx : ExceptSound E K x)
    (hf : ∀ p, p.1.Sound K → (f p).1.Sound K) : ExceptSound E K (x.map f) := by
  cases hx with
  | ok h => exact .ok (hf _ h)
  | error h => exact .error h
theorem ExceptSound.bind_map {x : Except ε (State × α)} {f : State × α → Except ε State} (hx : ExceptSound E K x)
    (hf : ∀ p, p.1.Sound K → ExceptSound E K ((f p).map (·, ()))) : ExceptSound E K ((x >>= f).map (·, ())) := by
  cases hx with
  | ok h => exact hf _ h
  | error h => exact .error h

end Except

theorem OptSound.some {p : State × α} (h : p.1.Sound K) : OptSound K (some p) := h
theorem OptSound.of_some {r : Option (State × α)} {a : α} (h : OptSound K r) (hr : r = .some (t, a)) : t.Sound K := by
  subst hr
  exact h

theorem OptSound.map {o : Option β} {f : β → State × α} (hf : ∀ x, (f x).1.Sound K) : OptSound K (o.map f) := by
  cases o with
  | none => trivial
  | some x => exact hf x

end Rules

section Functions

variable {K : List (BitVec 512) → Prop} {s : State}

/-! ### Lookup -/

theorem State.Sound.modTeam {id : Nat} {f : Team → Team} (hs : s.Sound K) : (s.modTeam id f).Sound K := hs.upd
theorem State.Sound.modThread {id r : Nat} {f : Thread → Thread} (hs : s.Sound K) : (s.modThread id r f).Sound K := hs.modTeam
theorem State.Sound.modFrame {id i : Nat} {f : Frame → Frame} (hs : s.Sound K) : (s.modFrame id i f).Sound K := hs.modTeam
theorem State.Sound.modCtx {c : Nat} {f : Context → Context} (hs : s.Sound K) : (s.modCtx c f).Sound K := hs.upd
theorem State.Sound.modLaunch {l : Nat} {f : Launch → Launch} (hs : s.Sound K) : (s.modLaunch l f).Sound K := hs.upd
theorem State.Sound.modCore {d n : Nat} {f : Core → Core} (hs : s.Sound K) : (s.modCore d n f).Sound K := hs.upd
theorem State.Sound.setBody {k : Nat} {b : OpBody} (hs : s.Sound K) : (s.setBody k b).Sound K := hs.upd
theorem State.Sound.modCmd {k : Nat} {f : Cmd → Cmd} (hs : s.Sound K) : (s.modCmd k f).Sound K := hs.upd

/-! ### Memory -/

theorem State.Sound.cure {pas : List Nat} (hs : s.Sound K) : (s.cure pas).Sound K := hs.upd

theorem State.Sound.fillTlb {die : Nat} {core : Option Nat} {e : TlbEntry} (hs : s.Sound K) : (s.fillTlb die core e).Sound K := by
  unfold State.fillTlb
  dsimp only
  split
  · exact hs.ite hs.upd
  · exact (hs.ite hs.upd).modCore

theorem State.Sound.translate {die : Nat} {core : Option Nat} {c : Context} {wa kind : Nat} (hs : s.Sound K) :
    (s.translate die core c wa kind).1.Sound K := by
  unfold State.translate
  dsimp only
  split
  · exact hs
  · split
    · exact hs.fillTlb
    · split
      · exact hs.fillTlb
      · exact hs

theorem State.Sound.global {die : Nat} {core : Option Nat} {c : Context} {a n need kind : Nat} (hs : s.Sound K) :
    (s.global die core c a n need kind).1.Sound K := by
  unfold State.global
  dsimp only
  split
  · exact hs
  · split
    · rename_i e1
      have h1 := hs.translate.of_eq e1
      split <;> exact h1
    · rename_i e1
      exact hs.translate.of_eq e1
    · rename_i e1
      exact hs.translate.of_eq e1

theorem State.Sound.resolve {t : Team} {a n need : Nat} {win : Bool} (hs : s.Sound K) : (s.resolve t a n need win).1.Sound K := by
  unfold State.resolve
  dsimp only
  split
  · exact hs
  · split
    · exact hs
    · split
      · exact hs.global
      · exact hs

theorem State.Sound.resolveWords {t : Team} {need : Nat} (k : Nat) : ∀ {s : State} {a : Nat}, s.Sound K →
    (s.resolveWords t a need k).1.Sound K := by
  induction k with
  | zero => exact id
  | succ k ih =>
    intro s a hs
    unfold State.resolveWords
    split
    · rename_i e1
      have h1 := hs.resolve.of_eq e1
      split
      · rename_i e2
        exact (ih h1).of_eq e2
      · exact ih h1
    · rename_i e1
      exact hs.resolve.of_eq e1

theorem State.Sound.setLine {m : LineMeta} (hs : s.Sound K) : (s.setLine m).Sound K := hs.upd

theorem State.Sound.putHome {pas : List Nat} {data : List Byte} {host : Bool} {time : Nat → Nat} (hs : s.Sound K) :
    (s.putHome pas data host time).Sound K := by
  refine ⟨s.putHome_memoriesOk _ _ _ _ hs.1, ?_⟩
  rw [(s.putHome_spec pas data host time).1.meas]
  exact hs.2

theorem State.Sound.mergeOne {p : Partial} (hs : s.Sound K) : (s.mergeOne p).Sound K := hs.putHome
theorem State.Sound.merge {pas : List Nat} (hs : s.Sound K) : (s.merge pas).Sound K := hs.ite (hs.upd.foldl fun _ _ h1 => h1.mergeOne)
theorem State.Sound.redAtDie {die rop pa : Nat} {x : Dword} (hs : s.Sound K) : (s.redAtDie die rop pa x).1.Sound K :=
  (hs.merge.ite hs).upd.ite (hs.merge.ite hs).upd
theorem State.Sound.readHome {pas : List Nat} (hs : s.Sound K) : (s.readHome pas).1.Sound K := hs.merge
theorem State.Sound.writeHome {pas : List Nat} {data : List Byte} (hs : s.Sound K) : (s.writeHome pas data).1.Sound K := hs.merge.putHome

theorem State.Sound.readSpace {a : Access} (hs : s.Sound K) : (s.readSpace a).1.Sound K := by
  unfold State.readSpace
  split
  · exact hs.readHome
  · split <;> exact hs
  · split <;> exact hs

theorem State.Sound.writeSpace {a : Access} {data : List Byte} (hs : s.Sound K) : (s.writeSpace a data).1.Sound K := by
  unfold State.writeSpace
  dsimp only
  split
  · exact hs.writeHome
  · exact hs.modTeam
  · exact hs.modTeam

theorem State.Sound.l1Store {t : Team} {a : Access} {data : List Byte} (hs : s.Sound K) : (s.l1Store t a data).Sound K := hs.ite hs.modCore
theorem State.Sound.l1Drop {t : Team} {a : Access} (hs : s.Sound K) : (s.l1Drop t a).Sound K := hs.ite hs.modCore

/-! ### Ops -/

theorem State.Sound.auditPut {e : AuditEntry} (hs : s.Sound K) : (s.auditPut e).Sound K :=
  hs.reports (s.auditPut_reports e)

theorem State.Sound.audit {type ctx : Nat} {detail : List Byte} (hs : s.Sound K) : (s.audit type ctx detail).Sound K :=
  hs.auditPut.ite (hs.ite hs.upd)
theorem State.Sound.note {type ctx : Nat} (hs : s.Sound K) : (s.note type ctx).Sound K := hs.audit

theorem State.Sound.flushAudit {es : List AuditEntry} (hs : s.Sound K) : (s.flushAudit es).Sound K := by
  induction es generalizing s with
  | nil => exact hs
  | cons e es ih =>
    unfold State.flushAudit
    exact (ih hs.auditPut).ite (ih hs.upd)

theorem State.Sound.devPut {pa : Nat} {bs : List Byte} (hs : s.Sound K) : (s.devPut pa bs).1.Sound K := by
  unfold State.devPut
  split
  · exact hs
  · exact hs.writeHome

theorem State.Sound.devWrite {pa : Nat} {bs : List Byte} (hs : s.Sound K) : (s.devWrite pa bs).Sound K := hs.devPut
theorem State.Sound.devRelease {pa : Nat} {bs : List Byte} {t : Nat} (hs : s.Sound K) : (s.devRelease pa bs t).Sound K := hs.upd

theorem State.Sound.release1 {rs : List Release} (hs : s.Sound K) : (s.release1 rs).Sound K := by
  induction rs generalizing s with
  | nil => exact hs.upd
  | cons r rs ih =>
    unfold State.release1
    exact (ih hs.devWrite).ite hs.upd

theorem State.Sound.releasesDue (hs : s.Sound K) : s.releasesDue.Sound K := hs.release1

theorem State.Sound.devRead {pa n : Nat} (hs : s.Sound K) : (s.devRead pa n).1.Sound K := by
  unfold State.devRead
  dsimp only
  split
  · exact hs
  · exact hs.readHome

theorem State.Sound.ringPut {r : Option Ring} {bs : List Byte} (hs : s.Sound K) : (s.ringPut r bs).1.Sound K := by
  unfold State.ringPut
  dsimp only
  split
  · exact hs
  · split
    · exact hs.devRead
    · exact hs.devRead.devPut.devRelease

theorem State.Sound.devicePut {r : Rec} (hs : s.Sound K) : (s.devicePut r).Sound K := by
  unfold State.devicePut
  dsimp only
  split <;> exact hs.audit.ringPut.upd

theorem State.Sound.dataRecord {pa : Nat} (hs : s.Sound K) : (s.dataRecord pa).Sound K := hs.devicePut

theorem State.Sound.countRead {r : Option Ring} (hs : s.Sound K) : (s.countRead r).Sound K := by
  unfold State.countRead
  split
  · exact hs.dataRecord.ite hs
  · exact hs

theorem State.Sound.recordBytes {ctx : Nat} {bs : List Byte} {bits : Word} (hs : s.Sound K) : (s.recordBytes ctx bs bits).Sound K := by
  unfold State.recordBytes
  dsimp only
  split
  · exact hs
  · split <;> exact hs.countRead.ringPut.modCtx

theorem State.Sound.record {r : Rec} {bits : Word} (hs : s.Sound K) : (s.record r bits).Sound K := hs.recordBytes

theorem State.Sound.failRecord {team strength : Nat} {r : Rec} {bits : Word} (hs : s.Sound K) :
    (s.failRecord team strength r bits).Sound K := by
  unfold State.failRecord
  dsimp only
  split
  · exact hs.upd.ite hs.record
  · exact hs.record

theorem State.Sound.stopsPacket {ctx : Nat} (hs : s.Sound K) : (s.stopsPacket ctx).Sound K := by
  unfold State.stopsPacket
  split
  · exact hs.upd.ite hs
  · exact hs

theorem State.Sound.deviceRecord {event addr die core : Nat} (hs : s.Sound K) : (s.deviceRecord event addr die core).Sound K :=
  hs.countRead.devicePut
theorem State.Sound.leaseReport {die core ctx va : Nat} (hs : s.Sound K) : (s.leaseReport die core ctx va).Sound K := hs.record
theorem State.Sound.leaseCheck {ctx scope va pa : Nat} (hs : s.Sound K) : (s.leaseCheck ctx scope va pa).Sound K :=
  hs.setLine.leaseReport.ite hs
theorem State.Sound.leaseChecks {ctx : Nat} {a : Access} (hs : s.Sound K) : (s.leaseChecks ctx a).Sound K :=
  (hs.foldl fun _ _ h1 => h1.leaseCheck).ite hs
theorem State.Sound.mergeChecks {ctx : Nat} {a : Access} (hs : s.Sound K) : (s.mergeChecks ctx a).Sound K := hs.leaseChecks.ite hs
theorem State.Sound.redAt {ctx die rop : Nat} {a : Access} {x : Dword} (hs : s.Sound K) : (s.redAt ctx die rop a x).1.Sound K :=
  (hs.mergeChecks.ite hs).redAtDie
theorem State.Sound.readChecked {ctx : Nat} {a : Access} (hs : s.Sound K) : (s.readChecked ctx a).1.Sound K := hs.mergeChecks.readSpace
theorem State.Sound.homeWrite {ctx : Nat} {a : Access} {data : List Byte} (hs : s.Sound K) : (s.homeWrite ctx a data).1.Sound K :=
  hs.leaseChecks.writeHome
theorem State.Sound.homeRead {ctx : Nat} {a : Access} (hs : s.Sound K) : (s.homeRead ctx a).1.Sound K := hs.mergeChecks.readHome

theorem State.Sound.reply {addr code : Nat} {detail : List Byte} (hs : s.Sound K) : (s.reply addr code detail).Sound K := by
  unfold State.reply
  exact hs.putHost

theorem State.Sound.stepOver {team r code : Nat} (hs : s.Sound K) : (s.stepOver team r code).Sound K := by
  unfold State.stepOver
  dsimp only
  split
  · exact hs.upd.reply.ite hs
  · exact hs

theorem State.Sound.ranWide {t : Team} {r : Option Nat} {a : Nat} (hs : s.Sound K) : (s.ranWide t r a).Sound K :=
  hs.foldl fun _ _ h1 => h1.foldl fun _ _ h2 => h2.modTeam

theorem State.Sound.ranAgain {team r : Nat} (hs : s.Sound K) : (s.ranAgain team r).Sound K := by
  unfold State.ranAgain
  dsimp only
  split
  · exact hs.ite hs.modTeam.ranWide
  · exact hs

theorem State.Sound.leave {team r : Nat} (hs : s.Sound K) : (s.leave team r).Sound K := hs.upd
theorem State.Sound.exitThread {team r : Nat} (hs : s.Sound K) : (s.exitThread team r).Sound K := hs.ranAgain.stepOver.upd.leave.modThread
theorem State.Sound.endsWith {team : Nat} {failing : List Nat} {clock : Nat} {h : Thread} (hs : s.Sound K) :
    (s.endsWith team failing clock h).Sound K :=
  hs.modThread.ite hs.exitThread

theorem State.Sound.reap {team : Nat} (hs : s.Sound K) : (s.reap team).Sound K := by
  unfold State.reap
  dsimp only
  split
  · exact hs
  · exact hs.foldl fun _ _ h1 => h1.exitThread

theorem State.Sound.groupAction {t : Team} {h : Thread} {cls addr detail : Nat} (hs : s.Sound K) :
    (s.groupAction t h cls addr detail).Sound K := by
  unfold State.groupAction
  dsimp only
  split
  · exact hs
  · refine hs.ite ?_
    split
    · exact hs.failRecord
    · exact hs.failRecord.foldl fun _ _ h1 => h1.endsWith

theorem State.Sound.illegal {t : Team} {h : Thread} {cls : Nat} (hs : s.Sound K) : (s.illegal t h cls).Sound K := hs.groupAction

theorem State.Sound.teamEnds {id : Nat} (hs : s.Sound K) : (s.teamEnds id).Sound K := by
  unfold State.teamEnds
  dsimp only
  split
  · exact hs
  · exact (hs.foldl fun _ _ h1 => h1.exitThread).upd

theorem State.Sound.teamAction {t : Team} {h : Option Thread} {cls addr detail : Nat} (hs : s.Sound K) :
    (s.teamAction t h cls addr detail).Sound K :=
  hs.failRecord.teamEnds

theorem State.Sound.stepFails {team r code : Nat} (hs : s.Sound K) : (s.stepFails team r code).Sound K := by
  unfold State.stepFails
  dsimp only
  split
  · exact hs.ite hs.modThread.stepOver
  · exact hs

theorem State.Sound.stepCut {ctx : Nat} (hs : s.Sound K) : (s.stepCut ctx).Sound K := by
  unfold State.stepCut
  split
  · split
    · exact hs.stepFails.ite hs
    · exact hs
  · exact hs

theorem State.Sound.stopAction {r : Rec} (hs : s.Sound K) : (s.stopAction r).Sound K := by
  unfold State.stopAction
  dsimp only
  split
  · exact hs
  · exact hs.record.stopsPacket.modCtx.audit.stepCut

theorem State.Sound.keepStanding {team : Nat} (hs : s.Sound K) : (s.keepStanding team).Sound K := by
  unfold State.keepStanding
  split
  · exact hs.upd.ite hs
  · exact hs

theorem State.Sound.retry {t : Team} {h : Thread} {fs : List (Nat × Nat)} {va detail : Nat} (hs : s.Sound K) :
    (s.retry t h fs va detail).Sound K :=
  (hs.keepStanding.failRecord.ite hs.keepStanding).modTeam

theorem State.Sound.debugEvent {t : Team} {lrank event : Nat} {pc : BitVec 56} (hs : s.Sound K) :
    (s.debugEvent t lrank event pc).Sound K := by
  unfold State.debugEvent
  dsimp only
  split
  · exact hs
  · exact hs.devPut.devRelease.modCtx

theorem State.Sound.debugStop {t : Team} {r event : Nat} {pc : BitVec 56} (hs : s.Sound K) : (s.debugStop t r event pc).Sound K :=
  hs.debugEvent.stepOver.modThread.debugEvent.modTeam.ite hs.debugEvent.stepOver.modThread
theorem State.Sound.addOp {team r : Nat} {flag : Option Nat} {hold : Hold} {b : OpBody} (hs : s.Sound K) :
    (s.addOp team r flag hold b).Sound K :=
  hs.upd

theorem State.Sound.publishOne {o : Op} (hs : s.Sound K) : (s.publishOne o).Sound K := by
  unfold State.publishOne
  dsimp only
  split
  · exact hs.modTeam.upd
  · exact hs

theorem State.Sound.publish {team : Nat} {due : Op → Bool} (hs : s.Sound K) : (s.publish team due).Sound K :=
  hs.foldl fun _ _ h1 => h1.publishOne
theorem State.Sound.publishAll {team : Nat} (hs : s.Sound K) : (s.publishAll team).Sound K := hs.publish
theorem State.Sound.issueStore {t : Team} {r : Nat} {hold : Hold} {a : Access} {data : List Byte} {gate : Bool} (hs : s.Sound K) :
    (s.issueStore t r hold a data gate).Sound K :=
  hs.l1Store.addOp.ite hs.addOp

theorem State.Sound.push {t : Team} {h : Thread} {addr : BitVec 56} {m : Bool} (hs : s.Sound K) :
    (s.push t h addr m).Sound K := by
  unfold State.push
  extract_lets area e
  split
  · exact trivial
  · split
    · split
      · exact .ok hs.modThread
      · split
        · rename_i e1
          have h1 := hs.resolve.of_eq e1
          exact .ok h1.issueStore.modThread
        · rename_i e1
          exact .mem (hs.resolve.of_eq e1)
    · exact .ok hs.modThread

theorem State.Sound.pop {t : Team} {h : Thread} (hs : s.Sound K) : (s.pop t h).Sound K := by
  unfold State.pop
  dsimp only
  split
  · exact trivial
  · split
    · split
      · rename_i e1
        exact .ok (hs.resolve.of_eq e1).addOp.modThread
      · rename_i e1
        exact .mem (hs.resolve.of_eq e1)
    · exact .ok hs.modThread

theorem State.Sound.trap {team r : Nat} {i : TrapInfo} (hs : s.Sound K) : (s.trap team r i).Sound K := hs.leave.modThread

theorem State.Sound.failAccess {t : Team} {h : Thread} {r : Res} (hs : s.Sound K) : (s.failAccess t h r).Sound K := by
  unfold State.failAccess
  dsimp only
  split
  · exact hs
  · exact hs.groupAction
  · exact hs.retry
  · exact hs.stopAction
  · exact hs.teamAction

theorem State.Sound.takeTrap {t : Team} {h : Thread} {i : TrapInfo} (hs : s.Sound K) : (s.takeTrap t h i).Sound K := by
  unfold State.takeTrap
  dsimp only
  refine hs.teamAction.ite ((hs.groupAction.ite hs.modThread.debugStop).ite (hs.groupAction.ite ?_))
  split
  · rename_i s2 e2
    have h2 : s2.Sound K := by
      split at e2
      · split at e2
        · rename_i e3
          obtain ⟨-, -, rfl⟩ := e2
          exact (hs.resolve.of_eq e3).issueStore
        · rename_i e3
          obtain ⟨-, -, rfl⟩ := e2
          exact hs.resolve.of_eq e3
      · obtain ⟨-, -, rfl⟩ := e2
        exact hs
    split
    · rename_i e3
      exact (h2.push.of_ok e3).modThread.modThread
    · exact h2.groupAction
    · exact hs.failAccess
    · rename_i e3
      exact (h2.push.of_mem e3).failAccess
  · rename_i s1 _ _ _ e2
    have h1 : s1.Sound K := by
      split at e2
      · split at e2
        · rename_i e3
          obtain ⟨rfl, -, -⟩ := e2
          exact hs.resolve.of_eq e3
        · rename_i e3
          obtain ⟨rfl, -, -⟩ := e2
          exact hs.resolve.of_eq e3
      · obtain ⟨rfl, -, -⟩ := e2
        exact hs
    exact h1.failAccess

theorem State.Sound.returnFrom {t : Team} {h : Thread} (hs : s.Sound K) : (s.returnFrom t h).Sound K := by
  unfold State.returnFrom
  split
  · exact trivial
  · split
    · rename_i e1
      exact .ok (hs.pop.of_ok e1).leave.modThread
    · exact hs.pop

/-! ### Operands -/

theorem State.Sound.vec {g : BitVec 3} {f : View → List Wr} (hs : s.Sound K) : (s.vec g f).Sound K := by
  unfold State.vec
  split
  · exact hs
  · exact hs.modTeam

theorem State.Sound.allLanes {f : View → List Wr} (hs : s.Sound K) : (s.allLanes f).Sound K := hs.vec
theorem State.Sound.sendUniform {b : Bundle} {h : Thread} {ws : List (Nat × Word)} (hs : s.Sound K) : (s.sendUniform b h ws).Sound K :=
  hs.addOp

theorem State.Sound.uni {f : View → List (Nat × Word)} (hs : s.Sound K) : (s.uni f).Sound K := by
  unfold State.uni
  split
  · exact hs
  · split
    · exact hs
    · exact hs.sendUniform

theorem State.Sound.lanes {g : BitVec 3} {f : State → Team → Thread → View → State} (hs : s.Sound K)
    (hf : ∀ s t h w, s.Sound K → (f s t h w).Sound K) : (s.lanes g f).Sound K := by
  unfold State.lanes
  split
  · exact hs
  · refine hs.foldl fun _ _ h1 => ?_
    split
    · exact h1
    · split
      · exact h1
      · exact h1.ite ((hf _ _ _ _ h1).ite h1)

theorem State.Sound.backTo {team r : Nat} {at_ : BitVec 56} (hs : s.Sound K) : (s.backTo team r at_).Sound K := hs.leave.modThread

theorem State.Sound.takeFailures {id : Nat} {fs : List (Nat × Fail)} (hs : s.Sound K) : (s.takeFailures id fs).Sound K := by
  unfold State.takeFailures
  extract_lets top again worst act s1 vas
  have hact : ∀ s e, s.Sound K → (act s e).Sound K := by
    intro s e hs
    unfold act
    split
    · split
      · exact hs.illegal
      · exact hs.failAccess
    · exact hs
  have h1 : s1.Sound K := hs.ite (hs.foldl hact)
  refine h1.ite ?_
  split
  · split
    · exact h1.retry
    · exact h1
  · exact h1

theorem State.Sound.failures {id : Nat} {fs : List (Nat × Fail)} (hs : s.Sound K) : (s.failures id fs).Sound K :=
  (hs.foldl fun _ _ h1 => h1.backTo).takeFailures

theorem State.Sound.faultLanes {g : BitVec 3} {f : State → Team → Thread → View → State × Option Fail} (hs : s.Sound K)
    (hf : ∀ s t h w, s.Sound K → (f s t h w).1.Sound K) : (s.faultLanes g f).Sound K := by
  unfold State.faultLanes
  dsimp only
  split
  · exact hs
  · refine (hs.foldl_fst ?_).failures
    intro p a h1
    split
    · exact h1
    · split
      · exact h1
      · split
        · exact h1
        · split
          · rename_i e2
            exact (hf _ _ _ _ h1).of_eq e2
          · rename_i e2
            exact (hf _ _ _ _ h1).of_eq e2

/-! ### Flags -/

theorem State.Sound.fetch {t : Team} {pc : Nat} (hs : s.Sound K) : (s.fetch t pc).1.Sound K := by
  unfold State.fetch
  dsimp only
  split
  · exact hs
  · split
    · exact hs
    · split
      · rename_i e1
        have h1 := hs.global.of_eq e1
        split
        · exact h1
        · split
          · exact h1
          · exact h1.homeRead.modCore
      · rename_i e1
        exact hs.global.of_eq e1

theorem State.Sound.newlyReady {old : State} {die core : Nat} (hs : s.Sound K) : (State.newlyReady old s die core).Sound K :=
  hs.foldl fun _ _ h1 => h1.foldl fun _ _ h2 => h2.modThread

theorem State.Sound.raise {team r : Nat} {flag : Option Nat} (hs : s.Sound K) : (s.raise team r flag).Sound K := by
  unfold State.raise
  split
  · exact hs.modThread
  · exact hs

theorem State.Sound.settleFlag {team r : Nat} {flag : Option Nat} (hs : s.Sound K) : (s.settleFlag team r flag).Sound K := by
  unfold State.settleFlag
  split
  · exact hs.ite hs.modThread
  · exact hs

theorem State.Sound.readyNow {old : State} {o : Op} (hs : s.Sound K) : (s.readyNow old o).Sound K := by
  unfold State.readyNow
  split
  · exact hs.newlyReady
  · exact hs

theorem State.Sound.endOp {o : Op} (hs : s.Sound K) : (s.endOp o).Sound K := hs.upd.settleFlag.readyNow
theorem State.Sound.track {team r : Nat} {slot : Bool} {b : OpBody} (hs : s.Sound K) : (s.track team r slot b).Sound K := hs.raise.addOp

/-! ### Float -/

theorem State.Sound.special {g : BitVec 3} {d a : Nat} {f : Val → Val} (hs : s.Sound K) : (s.special g d a f).Sound K :=
  hs.lanes fun _ _ _ _ h2 => h2.track

/-! ### XfInstr -/

theorem State.Sound.trapAfter {team r cause : Nat} (hs : s.Sound K) : (s.trapAfter team r cause).Sound K := hs.modThread
theorem State.Sound.holdNext {team r : Nat} (hs : s.Sound K) : (s.holdNext team r).Sound K := hs.leave.modThread
theorem State.Sound.xf {g : BitVec 3} {x : Bool} {srcs : List Nat} {dst : Option Nat} {f : View → List Wr × Bool × Bool} (hs : s.Sound K) :
    (s.xf g x srcs dst f).Sound K :=
  hs.lanes fun _ _ _ _ h2 => h2.trapAfter.ite (h2.track.holdNext.ite h2.track)
theorem State.Sound.xfValue {g : BitVec 3} {d : Nat} {srcs : List Nat} {f : View → Val} (hs : s.Sound K) :
    (s.xfValue g d srcs f).Sound K :=
  hs.xf
theorem State.Sound.xfPlain {g : BitVec 3} {x : Bool} {srcs : List Nat} {f : View → List Wr} (hs : s.Sound K) :
    (s.xfPlain g x srcs f).Sound K :=
  hs.xf

theorem State.Sound.precTo {g : BitVec 3} {f : View → Option Word} (hs : s.Sound K) : (s.precTo g f).Sound K := by
  unfold State.precTo
  refine hs.lanes fun _ _ _ _ h2 => ?_
  split
  · exact h2.modThread
  · exact h2.trapAfter

/-! ### MemInstr -/

theorem State.Sound.loads {g : BitVec 3} {addr : View → Nat} {n : Nat} {kind : LoadKind} {d : Nat} {acq : Bool} (hs : s.Sound K) :
    (s.loads g addr n kind d acq).Sound K := by
  unfold State.loads
  dsimp only
  refine hs.faultLanes fun _ _ _ _ h2 => ?_
  split
  · exact h2.resolve.track
  · exact h2.resolve

theorem State.Sound.storeTo {t : Team} {h : Thread} {a : Access} {data : List Byte} {rel hold : Bool} (hs : s.Sound K) :
    (s.storeTo t h a data rel hold).Sound K := by
  unfold State.storeTo
  dsimp only
  split
  · exact hs.modThread.addOp.ite (hs.issueStore.ite hs.modThread.issueStore)
  · exact hs.issueStore

theorem State.Sound.stores {g : BitVec 3} {addr : View → Nat} {n : Nat} {data : View → List Byte} {rel : Bool} (hs : s.Sound K) :
    (s.stores g addr n data rel).Sound K := by
  unfold State.stores
  dsimp only
  refine hs.faultLanes fun _ _ _ _ h2 => ?_
  split
  · exact h2.resolve.storeTo
  · exact h2.resolve

theorem State.Sound.wordLoads {t : Team} {r g : Nat} {info : TrapInfo} {ws : List (Access × Nat)} (hs : s.Sound K) :
    (s.wordLoads t r g info ws).Sound K :=
  hs.foldl fun _ _ h1 => h1.addOp

theorem State.Sound.readElement {t : Team} {r : Nat} {hold : Bool} {kind : LoadKind} {d : Nat} {stream : Option Nat} {va : Nat}
    {as : List Access} {info : TrapInfo} (hs : s.Sound K) :
    (s.readElement t r hold kind d stream va as info).Sound K := by
  unfold State.readElement
  split
  · exact hs
  · exact hs.track.ite hs.track.wordLoads

theorem State.Sound.writeElement {t : Team} {r va : Nat} {as : List Access} {ws : List Word} (hs : s.Sound K) :
    (s.writeElement t r va as ws).Sound K := by
  unfold State.writeElement
  split
  · exact hs
  · exact hs.issueStore.ite (hs.foldl fun _ _ h1 => h1.issueStore)

theorem State.Sound.xfLoads {g : BitVec 3} {addr : View → Nat} {kind : View → LoadKind} {d : Nat} {stream : Option Nat} {x : Bool}
    (hs : s.Sound K) :
    (s.xfLoads g addr kind d stream x).Sound K := by
  unfold State.xfLoads
  dsimp only
  refine hs.faultLanes fun _ _ _ _ h2 => ?_
  split
  · split
    · exact (h2.resolveWords _).readElement.holdNext.ite (h2.resolveWords _).readElement
    · exact h2.resolveWords _
  · exact h2.resolve

theorem State.Sound.xfStores {g : BitVec 3} {d a : Nat} {stream : Bool} {f : View → XfOut} (hs : s.Sound K) :
    (s.xfStores g d a stream f).Sound K := by
  unfold State.xfStores
  dsimp only
  refine hs.faultLanes fun _ _ _ _ h2 => ?_
  split
  · exact h2.trapAfter
  · split
    · exact h2.trap
    · split
      · exact (h2.resolveWords _).writeElement.modThread
      · exact h2.resolveWords _

theorem State.Sound.stall {g : BitVec 3} {b : OpBody} (hs : s.Sound K) : (s.stall g b).Sound K := hs.lanes fun _ _ _ _ h2 => h2.addOp

theorem State.Sound.prefetches {g : BitVec 3} {addr : View → Nat} {l2 : Bool} (hs : s.Sound K) : (s.prefetches g addr l2).Sound K := by
  unfold State.prefetches
  dsimp only
  refine hs.lanes fun _ _ _ _ h2 => ?_
  refine h2.ite ?_
  split
  · exact h2
  · split
    · exact h2.global.addOp.ite h2.global
    · exact h2.global

theorem State.Sound.atomics {g : BitVec 3} {f d a b : Nat} {acq rel : Bool} (hs : s.Sound K) : (s.atomics g f d a b acq rel).Sound K := by
  unfold State.atomics
  dsimp only
  refine hs.faultLanes fun _ _ _ _ h2 => ?_
  split
  · exact h2.resolve.l1Drop.track
  · exact h2.resolve

theorem State.Sound.reds {g : BitVec 3} {rop a b : Nat} (hs : s.Sound K) : (s.reds g rop a b).Sound K := by
  unfold State.reds
  dsimp only
  refine hs.faultLanes fun _ _ _ _ h2 => ?_
  split
  · exact (h2.resolve.ite h2.resolve.l1Drop).addOp
  · exact h2.resolve

/-! ### Rendezvous -/

theorem State.Sound.groupDone {t : Team} {h : Thread} {hz : Nat} {ws : List Wr} (hs : s.Sound K) : (s.groupDone t h hz ws).Sound K := by
  unfold State.groupDone
  dsimp only
  split
  · exact hs
  · exact hs.modThread.settleFlag

theorem State.Sound.settleGroup {id r : Nat} (hs : s.Sound K) : (s.settleGroup id r).Sound K := by
  unfold State.settleGroup
  dsimp only
  split
  · exact hs
  · split
    · exact hs
    · split
      · exact hs
      · refine hs.ite (hs.foldl ?_)
        intro s1 a h1
        split
        · exact h1.groupDone
        · exact h1

theorem State.Sound.settleElect {id f : Nat} (hs : s.Sound K) : (s.settleElect id f).Sound K := by
  unfold State.settleElect
  dsimp only
  split
  · exact hs
  · exact hs.ite (hs.foldl fun _ _ h1 => h1.modThread)

theorem State.Sound.reserve {die core : Nat} {e : Nat × Nat} (hs : s.Sound K) : (s.reserve die core e).Sound K := by
  unfold State.reserve
  dsimp only
  split
  · exact hs.ite hs.modFrame
  · exact hs

theorem State.Sound.frameFault {id f cls : Nat} (hs : s.Sound K) : (s.frameFault id f cls).Sound K := by
  unfold State.frameFault
  split
  · exact hs
  · refine hs.foldl fun _ _ h1 => ?_
    split
    · exact h1.ite h1.illegal
    · exact h1

theorem State.Sound.settleTcall {id f : Nat} (hs : s.Sound K) : (s.settleTcall id f).Sound K := by
  unfold State.settleTcall
  extract_lets ready s1
  have h1 : s1.Sound K := hs.publishAll.ite hs
  split
  · exact h1
  · exact h1.ite (h1.teamAction.ite (h1.frameFault.ite (h1.frameFault.ite h1.upd.modFrame.modCore.reserve)))

theorem State.Sound.settleArrivals {id r : Nat} (hs : s.Sound K) : (s.settleArrivals id r).Sound K := by
  unfold State.settleArrivals
  dsimp only
  split
  · exact hs
  · split
    · exact hs
    · exact hs.ite (hs.foldl fun _ _ h1 => h1.modFrame).modThread

theorem State.Sound.settleWide {id : Nat} (hs : s.Sound K) : (s.settleWide id).Sound K := by
  unfold State.settleWide
  dsimp only
  split
  · exact hs
  · exact hs.modTeam.ite (hs.modTeam.ite hs)

theorem State.Sound.passBow {t : Team} {time : Nat} (hs : s.Sound K) : (s.passBow t time).Sound K := by
  unfold State.passBow
  dsimp only
  split
  · exact hs
  · exact hs.modLaunch.ite hs

theorem State.Sound.settleEnd {id : Nat} (hs : s.Sound K) : (s.settleEnd id).Sound K := by
  unfold State.settleEnd
  dsimp only
  split
  · exact hs
  · exact hs.ite hs.passBow.modCore.modTeam.newlyReady

theorem State.Sound.settle {id : Nat} (hs : s.Sound K) : (s.settle id).Sound K := by
  unfold State.settle
  dsimp only
  split
  · exact hs
  · exact hs.settleEnd.ite ((((hs.foldl fun _ _ h1 => h1.settleArrivals).foldl fun _ _ h1 => h1.settleGroup).foldl fun _ _ h1 =>
      h1.settleElect).foldl fun _ _ h1 => h1.settleTcall).settleWide.settleEnd

/-! ### MemEvents -/

theorem State.Sound.noteT {team t : Nat} (hs : s.Sound K) : (s.noteT team t).Sound K := by
  unfold State.noteT
  split
  · exact hs.modLaunch
  · exact hs

theorem State.Sound.noteBow {o : Op} {t : Nat} (hs : s.Sound K) : (s.noteBow o t).Sound K := by
  unfold State.noteBow
  dsimp only
  split
  · exact hs.modLaunch.ite hs
  · exact hs

theorem State.Sound.stampCheck {t : Team} {va : Nat} {lines : List Nat} (hs : s.Sound K) : (s.stampCheck t va lines).Sound K := by
  unfold State.stampCheck
  dsimp only
  split
  · exact hs
  · exact hs.foldl fun _ _ h1 => h1.modCore.leaseReport

theorem State.Sound.grantLease {ctx scope line g : Nat} (hs : s.Sound K) : (s.grantLease ctx scope line g).Sound K := hs.ite hs.setLine
theorem State.Sound.storeReply {t : Team} {a : Access} {allocated : List Nat} {time : Nat} (hs : s.Sound K) :
    (s.storeReply t a allocated time).Sound K :=
  hs.ite (hs.foldl fun _ _ h1 => (h1.grantLease.ite h1).modCore)

theorem State.Sound.opFails {o : Op} {r : Res} (hs : s.Sound K) : (s.opFails o r).Sound K := by
  unfold State.opFails
  split
  · exact hs
  · split
    · exact hs.failAccess
    · exact hs

theorem State.Sound.opPoisoned {o : Op} {va : Nat} (hs : s.Sound K) : (s.opPoisoned o va).Sound K := by
  unfold State.opPoisoned
  split
  · exact hs.ite hs.teamAction
  · exact hs

theorem State.Sound.shun {t : Team} (hs : s.Sound K) : (s.shun t).Sound K := by
  unfold State.shun
  refine hs.foldl fun _ _ h1 => ?_
  split
  · exact h1.l1Drop
  · exact h1.ite h1.l1Drop
  · exact h1

theorem State.Sound.accPut {t : Team} {how e : Nat} {xs : List Word} (hs : s.Sound K) : (s.accPut t how e xs).1.Sound K := hs.modTeam
theorem State.Sound.keepRecord {t : Team} {r k n : Nat} (hs : s.Sound K) : (s.keepRecord t r k n).Sound K := hs.upd
theorem State.Sound.putRecord {t : Team} {r k n : Nat} {bytes : List Byte} (hs : s.Sound K) : (s.putRecord t r k n bytes).Sound K :=
  hs.keepRecord.modTeam

theorem State.Sound.storeAtHome {k : Nat} (hs : s.Sound K) : (s.storeAtHome k).Sound K := by
  unfold State.storeAtHome
  dsimp only
  split
  · exact hs
  · split
    · exact hs.ite (hs.opFails.endOp.settle.ite (hs.ite hs.l1Store.shun).leaseChecks.writeSpace.storeReply.noteT.noteBow.setBody)
    · exact hs.ite (hs.endOp.settle.ite (hs.opPoisoned.endOp.settle.ite hs.accPut.noteT.setBody))
    · exact hs.ite (hs.endOp.settle.ite hs.putRecord.endOp.settle)
    · exact hs

theorem State.Sound.atomicAtHome {k : Nat} (hs : s.Sound K) : (s.atomicAtHome k).Sound K := by
  unfold State.atomicAtHome
  dsimp only
  split
  · exact hs
  · refine hs.ite ?_
    split
    · refine hs.opFails.endOp.settle.ite (hs.opPoisoned.endOp.settle.ite (State.Sound.readSpace ?_).writeSpace.noteT.noteBow.setBody)
      split
      · exact hs.leaseChecks
      · exact hs
    · refine hs.ite (hs.opFails.endOp.settle.ite (hs.opPoisoned.endOp.settle.ite
        (State.Sound.readSpace ?_).writeSpace.noteT.noteBow.setBody))
      split
      · exact hs.leaseChecks
      · exact hs
    · exact hs

theorem State.Sound.redAtDieL2 {k : Nat} (hs : s.Sound K) : (s.redAtDieL2 k).Sound K := by
  unfold State.redAtDieL2
  dsimp only
  split
  · exact hs
  · split
    · exact hs.redAt.noteT.setBody.ite hs
    · exact hs

theorem State.Sound.fillLine {t : Team} {scope va line : Nat} {out : List Nat} (hs : s.Sound K) :
    (s.fillLine t scope va line out).Sound K :=
  hs.leaseCheck.readHome.grantLease.modCore

theorem State.Sound.l1Fill {k : Nat} {out : List Nat} (hs : s.Sound K) : (s.l1Fill k out).Sound K := by
  unfold State.l1Fill
  dsimp only
  split
  · exact hs
  · split
    · exact hs
    · split
      · exact hs.ite (hs.opPoisoned.settle.ite (hs.foldl fun _ _ h1 => h1.fillLine).stampCheck.shun.setBody)
      · exact hs.ite (hs.ite (hs.foldl fun _ _ h1 => h1.fillLine).shun).endOp
      · exact hs

theorem State.Sound.loaded {t : Team} {h : Thread} {o : Op} {a : Access} {got : Option (List Byte × Nat)} (hs : s.Sound K) :
    OptSound K (s.loaded t h o a got) := by
  unfold State.loaded
  dsimp only
  split
  · exact .some hs
  · split
    · exact trivial
    · split
      · exact .map fun _ => hs.stampCheck
      · split
        · split
          · exact .some hs
          · exact .some hs.readSpace
        · exact .some hs.readChecked

theorem State.Sound.loadTraps {t : Team} {h : Thread} {o : Op} {cause : Nat} {i : TrapInfo} (hs : s.Sound K) :
    (s.loadTraps t h o cause i).Sound K :=
  hs.endOp.trap.settle
theorem State.Sound.loadEnds {o : Op} {ws : List Wr} {xuf : Bool} {acq : Bool} {w : Nat} {part : List Nat} (hs : s.Sound K) :
    (s.loadEnds o ws xuf acq w part).Sound K :=
  hs.modThread.ite hs.modThread.endOp.settle

theorem State.Sound.readMore {t : Team} {o : Op} {va : Nat} {ws : List Word} {kind : LoadKind} {d : Nat} {st : Option Nat} {i : TrapInfo}
    {as : List Access} (hs : s.Sound K) :
    (s.readMore t o va ws kind d st i as).Sound K := by
  unfold State.readMore
  dsimp only
  refine hs.ite ?_
  split
  · exact hs
  · exact hs.setBody.ite hs.setBody.wordLoads

theorem State.Sound.xfArrives {t : Team} {h : Thread} {o : Op} {va : Nat} {ws : List Word} {kind : LoadKind} {d : Nat} {st : Option Nat}
    {i : TrapInfo} {part : List Nat} (hs : s.Sound K) : (s.xfArrives t h o va ws kind d st i part).Sound K := by
  unfold State.xfArrives
  dsimp only
  refine .ite ?_ ?_
  · split
    · rename_i e1
      exact ((hs.resolveWords _).of_eq e1).readMore
    · rename_i e1
      exact ((hs.resolveWords _).of_eq e1).retry
    · rename_i e1
      exact ((hs.resolveWords _).of_eq e1).failAccess.endOp.settle
  · split
    · exact hs.loadTraps.ite (hs.loadTraps.ite hs.loadEnds)
    · exact hs.loadTraps.ite hs.loadEnds

theorem State.Sound.fillWord {g i : Nat} {w : Word} (hs : s.Sound K) : (s.fillWord g i w).Sound K := by
  unfold State.fillWord
  split
  · split
    · exact hs.setBody
    · exact hs
  · exact hs

theorem State.Sound.loadCompletion {k : Nat} {part : List Nat} (hs : s.Sound K) : (s.loadCompletion k part).Sound K := by
  unfold State.loadCompletion
  split
  · exact hs
  · split
    · exact hs.xfArrives.ite hs
    · rename_i kind _ _ _ _ _ _ _ _ _ _ _
      refine hs.opFails.endOp.settle.ite ?_
      split
      · exact hs
      · rename_i e1
        have h1 := hs.loaded.of_some e1
        refine hs.opPoisoned.settle.ite ?_
        extract_lets s2
        have h2 : s2.Sound K := h1.ite h1.setBody
        cases kind with
        | xf => exact h2.xfArrives
        | xfRound => exact h2.xfArrives
        | word => exact h2.fillWord.endOp.settle
        | fill => exact h2.modThread.endOp.settle
        | _ => exact h2.loadEnds
    · exact hs

theorem State.Sound.trackedCompletion {k : Nat} {part : List Nat} (hs : s.Sound K) : (s.trackedCompletion k part).Sound K := by
  unfold State.trackedCompletion
  dsimp only
  split
  · exact hs
  · split
    · exact hs.loadEnds
    · exact hs.publish.settle
    · exact hs.endOp.trap.settle
    · split
      · exact hs.ite (hs.opPoisoned.settle.ite (hs.loadEnds.ite hs.setBody.loadEnds))
      · exact hs
    · exact hs.loadEnds.ite hs.modThread.loadEnds
    · split
      · split
        · exact hs
        · exact hs.ite (hs.endOp.illegal.settle.ite (hs.ite hs.modThread.loadEnds))
      · exact hs
    · exact hs

theorem State.Sound.writeReturn {k : Nat} (hs : s.Sound K) : (s.writeReturn k).Sound K := by
  unfold State.writeReturn
  split
  · exact hs
  · split
    · exact hs.modThread.endOp.settle
    · exact hs

theorem State.Sound.leaseExpiry {die core line : Nat} (hs : s.Sound K) : (s.leaseExpiry die core line).Sound K := hs.modCore
theorem State.Sound.hostWrite {pa : Nat} {data : List Byte} (hs : s.Sound K) : (s.hostWrite pa data).Sound K := hs.ite hs.merge.putHome

theorem State.Sound.pageWalk {die core ctx va : Nat} (hs : s.Sound K) : (s.pageWalk die core ctx va).Sound K := by
  unfold State.pageWalk
  split
  · exact hs
  · exact hs.translate.ite hs

theorem State.Sound.correctedIn {die core : Nat} {g : Granule} (hs : s.Sound K) : (s.correctedIn die core g).Sound K :=
  hs.upd.deviceRecord.ite hs.upd
theorem State.Sound.correctedAt {pa : Nat} (hs : s.Sound K) : (s.correctedAt pa).Sound K := hs.ite (hs.upd.deviceRecord.ite hs.upd)
theorem State.Sound.hbmSpare {pa : Nat} {corr spare : Bool} (hs : s.Sound K) : (s.hbmSpare pa corr spare).Sound K :=
  hs.ite ((hs.upd.ite hs.upd).deviceRecord.note.ite (hs.upd.ite hs.upd).upd.deviceRecord)
theorem State.Sound.localityWindow {die core : Nat} (hs : s.Sound K) : (s.localityWindow die core).Sound K := hs.modCore
theorem State.Sound.permitIncrease {die core : Nat} (hs : s.Sound K) : (s.permitIncrease die core).Sound K := hs.modCore.newlyReady
theorem State.Sound.permitRotation {die core : Nat} (hs : s.Sound K) : (s.permitRotation die core).Sound K := hs.modCore.newlyReady

/-! ### Engine -/

theorem State.Sound.takeTag {t : Team} {j : Nat} (hs : s.Sound K) : (s.takeTag t j).Sound K := hs.modTeam.modCore
theorem State.Sound.accept {t : Team} {h : Thread} {cls : Nat} {bytes : List Byte} {recs : List (Nat × List Byte)}
    {scales : List (Nat × Word)} (hs : s.Sound K) :
    (s.accept t h cls bytes recs scales).Sound K :=
  hs.upd.modFrame.takeTag.ite hs.upd.modFrame
theorem State.Sound.cmdEnds {k code detail count : Nat} (hs : s.Sound K) : (s.cmdEnds k code detail count).Sound K := hs.modCmd
theorem State.Sound.cmdError {c : Cmd} {t : Team} {code detail count : Nat} (hs : s.Sound K) :
    (s.cmdError c t code detail count).Sound K :=
  (hs.record.ite hs.record).cmdEnds
theorem State.Sound.cmdAddr {c : Cmd} {t : Team} {sub va off count : Nat} (hs : s.Sound K) : (s.cmdAddr c t sub va off count).Sound K :=
  hs.record.cmdEnds
theorem State.Sound.cmdWaits {c : Cmd} {t : Team} {va detail off phase : Nat} (hs : s.Sound K) :
    (s.cmdWaits c t va detail off phase).Sound K :=
  hs.record.modCmd
theorem State.Sound.cmdPoisoned {c : Cmd} {t : Team} {va count : Nat} (hs : s.Sound K) : (s.cmdPoisoned c t va count).Sound K :=
  hs.cmdEnds.teamAction.settle
theorem State.Sound.cmdTable {c : Cmd} {t : Team} {va count : Nat} (hs : s.Sound K) : (s.cmdTable c t va count).Sound K :=
  hs.cmdEnds.stopAction

theorem State.Sound.cmdFails {c : Cmd} {t : Team} {r : UnitRes} {count : Nat} (hs : s.Sound K) (hr : r.Sound K) :
    (s.cmdFails c t r count).Sound K := by
  unfold State.cmdFails
  split
  · exact hr
  · exact hs.cmdAddr
  · exact hs.cmdWaits.modCmd
  · exact hs.cmdPoisoned
  · exact hs.cmdTable
  · exact hs.cmdError
  · exact hs

theorem State.Sound.engineRes {c : Cmd} {t : Team} {a n need align : Nat} (hs : s.Sound K) :
    (s.engineRes c t a n need align).1.Sound K := by
  unfold State.engineRes
  dsimp only
  split
  · exact hs
  · split
    · exact hs
    · split
      · exact hs.global
      · exact hs

theorem UnitRes.Sound.unit {r : Res} {off : Nat} : (r.unit off).Sound K := by
  cases r <;> exact trivial

theorem State.Sound.engineRead {c : Cmd} {t : Team} {a n align off : Nat} (hs : s.Sound K) : (s.engineRead c t a n align off).Sound K := by
  unfold State.engineRead
  dsimp only
  split
  · rename_i e1
    have h1 := hs.engineRes.of_eq e1
    split
    · exact .fail trivial
    · split
      · exact .fail trivial
      · exact .ok h1.readChecked
  · exact .fail .unit

theorem State.Sound.engineBytes {c : Cmd} {t : Team} {off : Nat} (n : Nat) : ∀ {s : State} {a : Nat}, s.Sound K →
    (s.engineBytes c t a off n).Sound K := by
  induction n with
  | zero => exact id
  | succ n ih =>
    intro s a hs
    unfold State.engineBytes
    split
    · rename_i e1
      exact .fail (hs.engineRead.of_fail e1)
    · rename_i e1
      have h1 := hs.engineRead.of_ok e1
      split
      · rename_i e2
        exact .fail ((ih h1).of_fail e2)
      · rename_i e2
        exact .ok ((ih h1).of_ok e2)

theorem State.Sound.engineWords {c : Cmd} {t : Team} {off : Nat} (n : Nat) : ∀ {s : State} {a : Nat}, s.Sound K →
    (s.engineWords c t a off n).Sound K := by
  induction n with
  | zero => exact id
  | succ n ih =>
    intro s a hs
    unfold State.engineWords
    split
    · rename_i e1
      exact .fail (hs.engineRead.of_fail e1)
    · rename_i e1
      have h1 := hs.engineRead.of_ok e1
      split
      · rename_i e2
        exact .fail ((ih h1).of_fail e2)
      · rename_i e2
        exact .ok ((ih h1).of_ok e2)

theorem State.Sound.mend {c : Cmd} {x : Access} (hs : s.Sound K) : (s.mend c x).Sound K := hs.ite hs.modCmd.cure
theorem State.Sound.scrub {c : Cmd} {p : Nat → Sram} {at_ : List Nat} (hs : s.Sound K) : (s.scrub c p at_).Sound K := hs.ite hs.modCmd.upd

theorem State.Sound.rewritten {c : Cmd} {x : Access} (hs : s.Sound K) : (s.rewritten c x).Sound K := by
  unfold State.rewritten
  split
  · exact hs.scrub
  · exact hs.mend

theorem State.Sound.engineWrite {c : Cmd} {t : Team} {a align off : Nat} {data : List Byte} (hs : s.Sound K) :
    (s.engineWrite c t a align off data).Sound K := by
  unfold State.engineWrite
  dsimp only
  split
  · rename_i e1
    have h1 := hs.engineRes.of_eq e1
    split
    · exact trivial
    · exact .done h1.rewritten.leaseChecks.writeSpace
  · exact .unit

theorem State.Sound.engineCombine {c : Cmd} {t : Team} {a n rop off : Nat} {x : Dword} (hs : s.Sound K) :
    (s.engineCombine c t a n rop off x).Sound K := by
  unfold State.engineCombine
  dsimp only
  split
  · rename_i e1
    have h1 := hs.engineRes.of_eq e1
    split
    · exact .done h1.redAt
    · split
      · exact trivial
      · split
        · exact trivial
        · exact .done h1.leaseChecks.readSpace.writeSpace
  · exact .unit

theorem State.Sound.preFails {c : Cmd} {t : Team} {p : Pre} (hs : s.Sound K) : (s.preFails c t p).Sound K := by
  unfold State.preFails
  split
  · exact hs
  · exact hs.cmdError
  · exact hs.cmdAddr.modCmd

theorem State.Sound.runUnits {f : Nat → State → UnitRes} {is done : List Nat} {w : Nat} (hs : s.Sound K)
    (hf : ∀ i s, s.Sound K → (f i s).Sound K) : (runUnits f is s done w).1.Sound K := by
  induction is generalizing s done w with
  | nil => exact hs
  | cons i is ih =>
    unfold Sys2Proof.Machine.runUnits
    split
    · rename_i e1
      exact ih ((hf i s hs).of_done e1)
    · exact hs

/-- The failure of a unit holds no state. -/
theorem State.Sound.runUnits_fail {f : Nat → State → UnitRes} {is done : List Nat} {w : Nat} {r : UnitRes}
    (h : (Sys2Proof.Machine.runUnits f is s done w).2.2.2 = some r) : r.Sound K := by
  induction is generalizing s done w with
  | nil => exact nomatch h
  | cons i is ih =>
    unfold Sys2Proof.Machine.runUnits at h
    split at h
    · exact ih h
    · rename_i hr
      cases h
      unfold UnitRes.Sound
      split
      · exact absurd ‹_› (hr _ _)
      · trivial
theorem State.Sound.runCmd {c : Cmd} {t : Team} {n : Nat} {part : List Nat} {f : Nat → State → UnitRes} {weigh : Nat → Nat} {total : Nat}
    (hs : s.Sound K) (hf : ∀ i s, s.Sound K → (f i s).Sound K) : (s.runCmd c t n part f weigh total).Sound K := by
  unfold State.runCmd
  dsimp only
  split
  · exact (hs.runUnits hf).modCmd.cmdEnds.ite (hs.runUnits hf).modCmd
  · rename_i er
    exact (hs.runUnits hf).modCmd.cmdFails (State.Sound.runUnits_fail er)

theorem State.Sound.startCmd {k opc : Nat} {body : Cmd → Team → List (Nat × Nat × Bool)} {more : Cmd → Team → List (Option (Nat × Nat))}
    {run : State → Cmd → Team → State} (hs : s.Sound K) (hf : ∀ s c t, s.Sound K → (run s c t).Sound K) :
    (s.startCmd k opc body more run).Sound K := by
  unfold State.startCmd
  split
  · exact hs
  · refine hs.ite ((hf _ _ _ hs).ite ?_)
    split
    · exact hf _ _ _ hs.modCmd
    · exact hs.preFails

/-! ### Copy -/

theorem State.Sound.copyWord {c : Cmd} {t : Team} {src dst so dof : Nat} (hs : s.Sound K) :
    (Sys2Proof.Machine.copyWord c t src dst so dof s).Sound K := by
  unfold Sys2Proof.Machine.copyWord
  split
  · rename_i e1
    exact hs.engineRead.of_fail e1
  · rename_i e1
    exact (hs.engineRead.of_ok e1).engineWrite

theorem State.Sound.copy {k : Nat} {some_ : List Nat} (hs : s.Sound K) : (s.copy k some_).Sound K :=
  hs.startCmd fun _ _ _ h1 => h1.runCmd fun _ _ h2 => h2.copyWord
theorem State.Sound.copynd {k : Nat} {some_ : List Nat} (hs : s.Sound K) : (s.copynd k some_).Sound K :=
  hs.startCmd fun _ _ _ h1 => h1.runCmd fun _ _ h2 => h2.copyWord
theorem State.Sound.fill {k : Nat} {some_ : List Nat} (hs : s.Sound K) : (s.fill k some_).Sound K :=
  hs.startCmd fun _ _ _ h1 => h1.runCmd fun _ _ h2 => h2.engineWrite

theorem State.Sound.osbload {k : Nat} {some_ : List Nat} (hs : s.Sound K) : (s.osbload k some_).Sound K := by
  unfold State.osbload
  dsimp only
  refine hs.startCmd fun _ _ _ h1 => ?_
  split
  · exact h1
  · refine h1.runCmd fun _ _ h2 => ?_
    split
    · rename_i e3
      exact (h2.engineBytes _).of_fail e3
    · rename_i e3
      exact .done ((h2.engineBytes _).of_ok e3).scrub.modTeam

theorem State.Sound.accmove {k : Nat} {some_ : List Nat} (hs : s.Sound K) : (s.accmove k some_).Sound K := by
  unfold State.accmove
  dsimp only
  refine hs.startCmd fun _ _ _ h1 => ?_
  refine h1.runCmd fun _ _ h2 => ?_
  split
  · split
    · exact trivial
    · exact h2.engineWrite
  · split
    · rename_i e3
      exact h2.engineRead.of_fail e3
    · rename_i e3
      exact .done (h2.engineRead.of_ok e3).scrub.modTeam

/-! ### Matrix -/

theorem State.Sound.mmaRun {c : Cmd} {t : Team} {some_ : List Nat} (hs : s.Sound K) : (s.mmaRun c t some_).Sound K := by
  unfold State.mmaRun
  dsimp only
  split
  · exact hs.cmdPoisoned.ite (hs.modCmd.ite (hs.scrub.modTeam.modCmd.cmdEnds.ite hs.scrub.modTeam.modCmd))
  · exact hs

theorem State.Sound.mma {k opc : Nat} {some_ : List Nat} (hs : s.Sound K) : (s.mma k opc some_).Sound K :=
  hs.startCmd fun _ _ _ h1 => h1.mmaRun

/-! ### Commands -/

theorem State.Sound.devRes {die ctx need : Nat} (hs : s.Sound K) (n : Nat) {va : Nat} : (s.devRes die ctx va need n).1.Sound K := by
  induction n generalizing s va with
  | zero => exact hs
  | succ n ih =>
    unfold State.devRes
    extract_lets q
    have hq : q.1.Sound K := by
      unfold q
      split
      · split
        · exact hs
        · exact hs.global
      · exact hs
    clear_value q
    split
    · have h1 := ih (va := va + 1) hq
      split
      · rename_i e2
        exact h1.of_eq e2
      · exact h1
    · exact hq

theorem State.Sound.devWaits {die ctx va detail : Nat} (hs : s.Sound K) : (s.devWaits die ctx va detail).Sound K := by
  unfold State.devWaits
  split
  · exact hs
  · exact hs.ite hs.record.modCtx

theorem State.Sound.devAccess {die ctx va need align n : Nat} (hs : s.Sound K) : (s.devAccess die ctx va need align n).1.Sound K := by
  unfold State.devAccess
  dsimp only
  split
  · exact hs.stopAction
  · split
    · split
      · exact hs
      · split
        · rename_i e1
          exact (hs.devRes _).of_eq e1
        · rename_i e1
          exact ((hs.devRes _).of_eq e1).devWaits
        · rename_i e1
          exact ((hs.devRes _).of_eq e1).stopAction
        · rename_i e1
          exact ((hs.devRes _).of_eq e1).stopAction
        · rename_i e1
          exact ((hs.devRes _).of_eq e1).stopAction
    · split
      · exact hs
      · split
        · rename_i e1
          exact (hs.devRes _).of_eq e1
        · rename_i e1
          exact ((hs.devRes _).of_eq e1).devWaits
        · rename_i e1
          exact ((hs.devRes _).of_eq e1).stopAction
        · rename_i e1
          exact ((hs.devRes _).of_eq e1).stopAction
        · rename_i e1
          exact ((hs.devRes _).of_eq e1).stopAction

theorem State.Sound.devGet {die ctx va align n : Nat} (hs : s.Sound K) : (s.devGet die ctx va align n).1.Sound K := by
  unfold State.devGet
  dsimp only
  split
  · rename_i e1
    have h1 := hs.devAccess.of_eq e1
    split
    · exact h1.stopAction
    · exact h1.homeRead
  · rename_i e1
    exact hs.devAccess.of_eq e1

theorem State.Sound.imageWrite {t : Team} {off : Nat} {bs : List Byte} (hs : s.Sound K) : (s.imageWrite t off bs).1.Sound K := by
  unfold State.imageWrite
  split
  · rename_i e1
    exact (hs.devAccess.of_eq e1).homeWrite
  · rename_i e1
    exact hs.devAccess.of_eq e1

theorem State.Sound.imageRead {t : Team} {off n : Nat} (hs : s.Sound K) : (s.imageRead t off n).1.Sound K := by
  unfold State.imageRead
  dsimp only
  split
  · rename_i e1
    have h1 := hs.devAccess.of_eq e1
    split
    · exact h1.stopAction
    · exact h1.homeRead
  · rename_i e1
    exact hs.devAccess.of_eq e1

theorem State.Sound.waitOver {o : Op} (hs : s.Sound K) : (s.waitOver o).Sound K := hs.endOp.settle

theorem State.Sound.stallingWaitEnd {k : Nat} (hs : s.Sound K) : (s.stallingWaitEnd k).Sound K := by
  unfold State.stallingWaitEnd
  dsimp only
  split
  · exact hs
  · split
    · split
      · exact hs.modThread.waitOver.ite hs
      · exact hs.ite hs.modThread.waitOver
      · exact hs.waitOver.ite hs
      · exact hs.setBody.ite hs
      · exact hs.setBody.ite hs
      · exact hs.setBody.ite hs
      · exact (hs.accept.ite hs).modThread.waitOver.ite hs
      · exact hs.ite (hs.waitOver.ite (hs.ite hs.modThread.waitOver))
      · split
        · exact hs
        · exact hs.ite (hs.endOp.illegal.settle.ite (hs.modThread.waitOver.ite hs))
      · exact hs
    · exact hs

theorem State.Sound.commandGo {k : Nat} (hs : s.Sound K) : (s.commandGo k).Sound K := by
  unfold State.commandGo
  split
  · exact hs
  · split
    · exact hs.setBody.ite hs
    · exact hs

theorem State.Sound.commandAcceptance {k : Nat} (hs : s.Sound K) : (s.commandAcceptance k).Sound K := by
  unfold State.commandAcceptance
  split
  · exact hs
  · split
    · exact hs.accept.modThread.waitOver.ite hs
    · exact hs

theorem State.Sound.operandsConsumed {k : Nat} (hs : s.Sound K) : (s.operandsConsumed k).Sound K := by
  unfold State.operandsConsumed
  dsimp only
  split
  · exact hs
  · exact hs.modCmd.modFrame.ite hs

theorem State.Sound.tagDone {c : Cmd} {tc : Nat} (hs : s.Sound K) : (s.tagDone c tc).Sound K := hs.ite (hs.modCore.modTeam.ite hs.modCore)

theorem State.Sound.imageDone {t : Team} {c : Cmd} (hs : s.Sound K) : (s.imageDone t c).1.Sound K := by
  unfold State.imageDone
  dsimp only
  split
  · rename_i e1
    exact hs.imageRead.of_eq e1
  · rename_i e1
    have h1 := hs.imageRead.of_eq e1
    split
    · rename_i e2 _
      exact (h1.imageWrite.of_eq e2).imageWrite
    · rename_i e2 _
      exact h1.imageWrite.of_eq e2

theorem State.Sound.commandEnds {c : Cmd} {t : Team} {tc : Nat} (hs : s.Sound K) : (s.commandEnds c t tc).Sound K :=
  (hs.noteT.tagDone.modFrame.modCmd.ite hs.noteT.tagDone.modFrame.upd).settle

theorem State.Sound.commandCloses {c : Cmd} {t : Team} {tc : Nat} (hs : s.Sound K) : (s.commandCloses c t tc).Sound K := by
  unfold State.commandCloses
  refine .ite ?_ hs.commandEnds
  split
  · rename_i e1
    exact hs.devAccess.of_eq e1
  · rename_i e1
    exact (hs.devAccess.of_eq e1).commandEnds.imageDone

theorem State.Sound.badOpcode {c : Cmd} {t : Team} (hs : s.Sound K) : (s.badOpcode c t).Sound K := hs.preFails.ite hs

theorem State.Sound.statusFails {c : Cmd} {t : Team} {r : UnitRes} (hs : s.Sound K) (hr : r.Sound K) : (s.statusFails c t r).Sound K := by
  unfold State.statusFails
  split
  · exact hs.record
  · exact hs.stopAction
  · exact hs

theorem State.Sound.commandCompletion {k : Nat} (hs : s.Sound K) : (s.commandCompletion k).Sound K := by
  unfold State.commandCompletion
  dsimp only
  split
  · exact hs
  · split
    · exact hs
    · split
      · exact hs.badOpcode
      · refine hs.badOpcode.ite (.ite ?_ hs.badOpcode.commandCloses)
        split
        · rename_i e1
          exact (hs.badOpcode.engineWrite.of_done e1).commandCloses
        · exact hs.badOpcode.cmdWaits
        · exact hs.badOpcode
        · exact (hs.badOpcode.statusFails hs.badOpcode.engineWrite).commandCloses

theorem State.Sound.notifyRelease {k : Nat} (hs : s.Sound K) : (s.notifyRelease k).Sound K := by
  unfold State.notifyRelease
  dsimp only
  split
  · exact hs
  · split
    · exact hs
    · refine hs.ite (hs.ite ?_)
      split
      · rename_i e1
        have h1 := hs.engineCombine.of_done e1
        exact h1.noteT.upd.settle.ite h1.noteT.upd.settle.upd
      · exact hs.cmdWaits
      · exact hs.teamAction.upd.settle.ite hs.teamAction.upd.settle.upd
      · exact hs
      · exact (hs.statusFails hs.engineCombine).upd.settle.ite (hs.statusFails hs.engineCombine).upd.settle.upd

/-! ### GroupInstr -/

theorem State.Sound.groupWord {g : BitVec 3} {op : GroupOp} {p : Bool} {d a sb : Nat} (hs : s.Sound K) :
    (s.groupWord g op p d a sb).Sound K := by
  unfold State.groupWord
  dsimp only
  split
  · exact (hs.lanes fun _ _ _ _ h2 => h2.illegal.ite h2.holdNext.raise.modThread).settle
  · exact hs.lanes fun _ _ _ _ h2 => h2.illegal.ite h2.holdNext.raise.modThread

/-! ### EngineInstr -/

theorem State.Sound.pushes {g : BitVec 3} {pd cls sb : Nat} (hs : s.Sound K) : (s.pushes g pd cls sb).Sound K :=
  hs.lanes fun _ _ _ _ h2 => h2.track

theorem State.Sound.accReads {g : BitVec 3} {d a n : Nat} (hs : s.Sound K) : (s.accReads g d a n).Sound K := by
  unfold State.accReads
  dsimp only
  refine hs.faultLanes fun _ _ _ _ h2 => ?_
  split
  · exact h2
  · split
    · exact h2
    · split
      · exact h2
      · exact h2.track

theorem State.Sound.accWrites {g : BitVec 3} {a b n how : Nat} (hs : s.Sound K) : (s.accWrites g a b n how).Sound K := by
  unfold State.accWrites
  dsimp only
  refine hs.faultLanes fun _ _ _ _ h2 => ?_
  split
  · exact h2
  · split
    · exact h2
    · split
      · exact h2
      · split
        · exact h2.addOp
        · exact h2.accPut.modThread.noteT

theorem State.Sound.setRecord {t : Team} {h : Thread} {k : Nat} {bytes : List Byte} (hs : s.Sound K) :
    (s.setRecord t h k bytes).Sound K :=
  hs.addOp.ite hs.putRecord

theorem State.Sound.reserves {g : BitVec 3} {k sb : Nat} (hs : s.Sound K) : (s.reserves g k sb).Sound K := by
  unfold State.reserves
  dsimp only
  refine hs.faultLanes fun _ _ _ _ h2 => ?_
  split
  · exact h2.setRecord
  · exact h2

theorem State.Sound.releases {g : BitVec 3} {k : Nat} (hs : s.Sound K) : (s.releases g k).Sound K := hs.lanes fun _ _ _ _ h2 => h2.setRecord

theorem State.Sound.tagWaits {g : BitVec 3} {all : Bool} {sb : Nat} (hs : s.Sound K) : (s.tagWaits g all sb).Sound K := by
  unfold State.tagWaits
  refine hs.lanes fun _ _ _ _ h2 => ?_
  split
  · exact h2.illegal
  · exact h2.addOp

theorem State.Sound.findTag {g : BitVec 3} {d sb : Nat} (hs : s.Sound K) : (s.findTag g d sb).Sound K := by
  unfold State.findTag
  refine hs.lanes fun _ _ _ _ h2 => ?_
  split
  · exact h2.track
  · exact h2.illegal

/-! ### ControlInstr -/

theorem State.Sound.goTo {t : Team} {h : Thread} {pc : BitVec 56} (hs : s.Sound K) : (s.goTo t h pc).Sound K := hs.leave.modThread

theorem State.Sound.eachLane {f : State → Team → Thread → View → State} (hs : s.Sound K)
    (hf : ∀ s t h w, s.Sound K → (f s t h w).Sound K) : (s.eachLane f).Sound K := by
  unfold State.eachLane
  split
  · exact (hs.lanes hf).settle
  · exact hs

theorem State.Sound.eachFault {f : State → Team → Thread → View → State × Option Fail} (hs : s.Sound K)
    (hf : ∀ s t h w, s.Sound K → (f s t h w).1.Sound K) : (s.eachFault f).Sound K := by
  unfold State.eachFault
  split
  · exact (hs.faultLanes hf).settle
  · exact hs

theorem State.Sound.stacked {r : StackRes} {f : State → State} (hs : s.Sound K) (hr : r.Sound K)
    (hf : ∀ s, s.Sound K → (f s).Sound K) : (s.stacked r f).1.Sound K := by
  cases r with
  | ok s1 => exact hf s1 hr
  | illegal => exact hs
  | mem s1 _ => exact hr

theorem State.Sound.branch {p : Nat} {hint : Bool} {off : BitVec 21} (hs : s.Sound K) : (s.branch p hint off).Sound K := by
  unfold State.branch
  dsimp only
  split
  · exact hs
  · exact hs.eachLane fun _ _ _ _ h2 => h2.goTo.modThread

theorem State.Sound.calls {dest : View → BitVec 56} (hs : s.Sound K) : (s.calls dest).Sound K := by
  unfold State.calls
  dsimp only
  refine hs.eachFault fun _ _ _ _ h2 => ?_
  split
  · exact h2
  · exact h2.stacked h2.push fun _ h3 => h3.goTo

theorem State.Sound.jumps {dest : View → BitVec 56} (hs : s.Sound K) : (s.jumps dest).Sound K := by
  unfold State.jumps
  refine hs.eachFault fun _ _ _ _ h2 => ?_
  split
  · exact h2
  · exact h2.goTo

theorem State.Sound.rets (hs : s.Sound K) : s.rets.Sound K := by
  unfold State.rets
  refine hs.eachFault fun _ _ _ _ h2 => ?_
  split
  · exact h2
  · exact h2.stacked h2.pop fun _ h3 => h3.goTo

theorem State.Sound.park {t : Team} {h : Thread} {p : Park} {phase : Bool} {arg : Nat} {pc : BitVec 56} (hs : s.Sound K) :
    (s.park t h p phase arg pc).Sound K :=
  hs.goTo.modThread
theorem State.Sound.teamCall {sw se : Nat} {g32 : Bool} {mask : Word} (hs : s.Sound K) : (s.teamCall sw se g32 mask).Sound K :=
  hs.eachLane fun _ _ _ _ h2 => h2.park.modFrame
theorem State.Sound.teamReturn (hs : s.Sound K) : s.teamReturn.Sound K := hs.eachLane fun _ _ _ _ h2 => h2.illegal.ite h2.park
theorem State.Sound.exits (hs : s.Sound K) : s.exits.Sound K := hs.eachLane fun _ _ _ _ h2 => h2.exitThread
theorem State.Sound.arrives {t : Team} {h : Thread} {k : Nat} (hs : s.Sound K) : (s.arrives t h k).Sound K := hs.modThread
theorem State.Sound.tuttiArv {k pd : Nat} (hs : s.Sound K) : (s.tuttiArv k pd).Sound K :=
  hs.eachLane fun _ _ _ _ h2 => h2.arrives.goTo.modThread
theorem State.Sound.tuttiWait {k p : Nat} (hs : s.Sound K) : (s.tuttiWait k p).Sound K :=
  hs.eachLane fun _ _ _ _ h2 => h2.park.ite h2.goTo.modThread
theorem State.Sound.tutti {k : Nat} (hs : s.Sound K) : (s.tutti k).Sound K := hs.eachLane fun _ _ _ _ h2 => h2.arrives.park
theorem State.Sound.wideBar {grid : Bool} (hs : s.Sound K) : (s.wideBar grid).Sound K :=
  hs.eachLane fun _ _ _ _ h2 => h2.illegal.ite (h2.illegal.ite h2.park)
theorem State.Sound.elects {pd : Nat} (hs : s.Sound K) : (s.elects pd).Sound K := hs.eachLane fun _ _ _ _ h2 => h2.park
theorem State.Sound.bowWait (hs : s.Sound K) : s.bowWait.Sound K :=
  hs.eachLane fun _ _ _ _ h2 => h2.goTo.ite (h2.goTo.modThread.ite h2.park)
theorem State.Sound.bowPass (hs : s.Sound K) : s.bowPass.Sound K := hs.eachLane fun _ _ _ _ h2 => h2.passBow.goTo
theorem State.Sound.setKey {f : View → Byte} (hs : s.Sound K) : (s.setKey f).Sound K := hs.eachLane fun _ _ _ _ h2 => h2.goTo.modThread
theorem State.Sound.softTrap {t : Team} {h : Thread} {cause : Nat} (hs : s.Sound K) : (s.softTrap t h cause).Sound K := hs.trap
theorem State.Sound.breaks (hs : s.Sound K) : s.breaks.Sound K := hs.eachLane fun _ _ _ _ h2 => h2.softTrap.ite h2.goTo.debugStop
theorem State.Sound.traps (hs : s.Sound K) : s.traps.Sound K := hs.eachLane fun _ _ _ _ h2 => h2.softTrap
theorem State.Sound.yields {n : Nat} (hs : s.Sound K) : (s.yields n).Sound K := hs.eachLane fun _ _ _ _ h2 => h2.goTo.modThread
theorem State.Sound.mfsrV {g : BitVec 3} {d n : Nat} (hs : s.Sound K) : (s.mfsrV g d n).Sound K := hs.lanes fun _ _ _ _ h2 => h2.modThread

theorem State.Sound.mfsrU {d n : Nat} (hs : s.Sound K) : (s.mfsrU d n).Sound K := by
  unfold State.mfsrU
  dsimp only
  split
  · exact hs
  · split
    · exact hs
    · exact (hs.lanes fun _ _ _ _ h2 => h2.modThread).sendUniform

theorem State.Sound.mtsr {n : Nat} {f : View → Word} (hs : s.Sound K) : (s.mtsr n f).Sound K := by
  unfold State.mtsr
  split
  · exact hs.precTo
  · exact hs.lanes fun _ _ _ _ h2 => h2.modTeam.ite h2
  · exact hs

/-! ### Sched -/

theorem State.Sound.stepEnds {team r : Nat} (hs : s.Sound K) : (s.stepEnds team r).Sound K := by
  unfold State.stepEnds
  dsimp only
  split
  · exact hs.ite (hs.debugEvent.modThread.stepOver.ite (hs.ite hs.debugEvent.modThread.stepOver))
  · exact hs

theorem State.Sound.enterSlot {b : Bundle} {k : Nat} (hs : s.Sound K) : (s.enterSlot b k).Sound K := hs.upd

theorem State.Sound.sramReads {b : Bundle} (hs : s.Sound K) : (s.sramReads b).Sound K := by
  unfold State.sramReads
  dsimp only
  split
  · exact hs
  · split
    · exact hs.teamAction
    · exact hs.upd

theorem State.Sound.slotBegins {b : Bundle} (hs : s.Sound K) : (s.slotBegins b).Sound K := by
  unfold State.slotBegins
  dsimp only
  refine (hs.upd.reap.publish.upd.ite hs.upd.reap.publish.upd.sramReads).ite ?_
  split
  · exact hs.upd.reap.publish.upd.ite hs.upd.reap.publish.upd.sramReads
  · exact ((hs.upd.reap.publish.upd.ite hs.upd.reap.publish.upd.sramReads).foldl fun _ _ h1 => h1.leave.modThread).modTeam.ite
      ((hs.upd.reap.publish.upd.ite hs.upd.reap.publish.upd.sramReads).foldl fun _ _ h1 => h1.leave.modThread)

theorem State.Sound.endFailures {b : Bundle} (hs : s.Sound K) : (s.endFailures b).Sound K := by
  unfold State.endFailures
  dsimp only
  refine .foldl ?_ fun _ _ h1 => h1.recordBytes
  split
  · exact hs.ite hs.modTeam
  · exact hs

theorem State.Sound.endBundle {b : Bundle} (hs : s.Sound K) : (s.endBundle b).Sound K := by
  unfold State.endBundle
  dsimp only
  split
  · exact hs.upd.endFailures.modTeam
  · exact hs.upd.endFailures.modTeam.foldl fun _ _ h1 => h1.stepEnds

theorem State.Sound.advanced (hs : s.Sound K) : s.advanced.Sound K := by
  unfold State.advanced
  dsimp only
  split
  · exact hs
  · refine (hs.upd.endBundle.ite hs.upd).ite ?_
    split
    · refine (hs.upd.modTeam.foldl ?_).endBundle.ite (hs.upd.modTeam.foldl ?_).enterSlot
      · intro s1 a h1
        split
        · exact h1
        · split
          · exact h1.leave.modThread
          · exact h1.leave.modThread.ite h1
      · intro s1 a h1
        split
        · exact h1
        · split
          · exact h1.leave.modThread
          · exact h1.leave.modThread.ite h1
    · refine (hs.upd.modTeam.foldl ?_).endBundle
      intro s1 a h1
      split
      · exact h1
      · split
        · exact h1.leave.modThread
        · exact h1.leave.modThread.ite h1
    · refine hs.upd.modTeam.foldl fun _ _ h1 => ?_
      split
      · exact h1
      · split
        · exact h1.leave.modThread
        · exact h1.leave.modThread.ite h1

theorem State.Sound.advance (hs : s.Sound K) : s.advance.Sound K := by
  unfold State.advance
  split
  · exact hs
  · exact hs.advanced.reap.settle

theorem State.Sound.beginBundle {t : Team} {c : Cand} {l : List Thread} {ws : List Word} {course : Nat} (hs : s.Sound K) :
    (s.beginBundle t c l ws course).Sound K := by
  unfold State.beginBundle
  dsimp only
  split
  · exact hs.modTeam.upd.enterSlot
  · exact hs.modTeam.upd.endBundle

/-- The picker takes one of the candidates. -/
theorem State.best_mem {die core course : Nat} {c : Cand} (h : s.best die core course = some c) : c ∈ s.candidates die core course := by
  refine List.foldlRecOn (motive := fun b => ∀ x, b = some x → x ∈ s.candidates die core course) _ _ ?_ (fun b hb x hx y hy => ?_) c h
  · exact fun _ h => nomatch h
  cases b with
  | none =>
    cases hy
    exact hx
  | some b =>
    dsimp only at hy
    split at hy
    · cases hy
      exact hx
    · exact hb y hy

/-- The state in which a candidate's packet has been fetched. -/
theorem State.Sound.packet {die core course : Nat} {c : Cand} (hs : s.Sound K) (hc : c ∈ s.candidates die core course) :
    c.packet.1.Sound K := by
  simp only [State.candidates, List.mem_flatMap, List.mem_filterMap] at hc
  obtain ⟨t, -, p, -, hp⟩ := hc
  rw [Option.ite_none_left_eq_some] at hp
  obtain ⟨-, hp⟩ := hp
  cases hp
  exact hs.fetch

theorem State.Sound.packetIssue {die core course : Nat} (hs : s.Sound K) : (s.packetIssue die core course).Sound K := by
  unfold State.packetIssue
  refine hs.ite ?_
  split
  · exact hs
  · rename_i hc
    have hp := hs.packet (State.best_mem hc)
    dsimp only
    split
    · rename_i e1
      have h1 := hp.of_eq e1
      refine .foldl ?_ fun _ _ h2 => h2.stepFails
      split
      · exact (h1.foldl fun _ _ h2 => h2.modThread).retry
      · exact h1.foldl fun _ _ h2 => h2.modThread
    · rename_i e1
      have h1 := hp.of_eq e1
      split
      · exact h1.stopAction
      · exact h1
    · rename_i e1
      exact ((hp.of_eq e1).foldl fun _ _ h2 => h2.failAccess).settle
    · rename_i e1
      exact (hp.of_eq e1).teamAction.settle
    · rename_i e1
      have h1 := hp.of_eq e1
      refine (h1.foldl fun _ _ h2 => h2.debugStop.modThread).ite ?_
      split
      · exact ((h1.foldl fun _ _ h2 => h2.debugStop.modThread).foldl fun _ _ h2 => h2.illegal).settle
      · exact (h1.foldl fun _ _ h2 => h2.debugStop.modThread).beginBundle

theorem State.Sound.turnTo {p : Nat × Nat × Nat} (hs : s.Sound K) : (s.turnTo p).Sound K := by
  unfold State.turnTo
  dsimp only
  split <;> exact hs.upd

theorem State.Sound.threadAging {team r : Nat} (hs : s.Sound K) : (s.threadAging team r).Sound K := by
  unfold State.threadAging
  split
  · exact hs.modThread.ite hs
  · exact hs

theorem State.Sound.yieldExpiry {team r : Nat} (hs : s.Sound K) : (s.yieldExpiry team r).Sound K := by
  unfold State.yieldExpiry
  dsimp only
  split
  · split
    · exact hs.modThread.ite hs
    · exact hs
  · exact hs

theorem State.Sound.trapStepEnds {team r : Nat} (hs : s.Sound K) : (s.trapStepEnds team r).Sound K := by
  unfold State.trapStepEnds
  split
  · exact hs.debugEvent.stepFails.ite hs.stepEnds
  · exact hs

theorem State.Sound.trapEntry {team r : Nat} (hs : s.Sound K) : (s.trapEntry team r).Sound K := by
  unfold State.trapEntry
  dsimp only
  split
  · split
    · refine hs.ite ?_
      split
      · exact hs.publish.takeTrap.trapStepEnds.settle
      · exact hs.publish
    · exact hs
  · exact hs

theorem State.Sound.pushMarker {team r : Nat} {marker : BitVec 56} (hs : s.Sound K) : (s.pushMarker team r marker).1.Sound K := by
  unfold State.pushMarker
  dsimp only
  split
  · split
    · exact hs
    · split
      · exact hs.modThread
      · split
        · rename_i e1
          exact (hs.push.of_ok e1).modThread
        · exact hs
        · rename_i e1
          exact (hs.push.of_mem e1).modThread
        · rename_i e1
          exact hs.push.of_mem e1
  · exact hs

theorem State.Sound.pushMarkers {team : Nat} {ms : List (Nat × BitVec 56)} (hs : s.Sound K) : (s.pushMarkers team ms).Sound K := by
  unfold State.pushMarkers
  dsimp only
  refine (hs.foldl_fst ?_).takeFailures
  intro p a h1
  exact h1.pushMarker

theorem State.Sound.beginCallee {team parent : Nat} {call : Call} {c : Callee} (hs : s.Sound K) :
    (s.beginCallee team parent call c).Sound K := by
  unfold State.beginCallee
  dsimp only
  split
  · exact hs
  · exact hs.modTeam.foldl fun _ _ h1 => h1.modThread

theorem State.Sound.forkReservation {die core : Nat} (hs : s.Sound K) : (s.forkReservation die core).Sound K := by
  unfold State.forkReservation
  dsimp only
  split
  · exact (hs.foldl fun _ _ h1 => h1.pushMarkers).foldl fun _ _ h1 => h1.reserve
  · split
    · exact (((hs.foldl fun _ _ h1 => h1.pushMarkers).foldl fun _ _ h1 => h1.reserve).modCore.modFrame.foldl fun _ _ h1 =>
        h1.beginCallee).pushMarkers.settle
    · exact (hs.foldl fun _ _ h1 => h1.pushMarkers).foldl fun _ _ h1 => h1.reserve

theorem State.Sound.unwind {t : Team} {h : Thread} (hs : s.Sound K) (n : Nat) {st : List Dword} : (s.unwind t h n st).1.Sound K := by
  induction n generalizing s st with
  | zero => exact hs
  | succ n ih =>
    unfold State.unwind
    split
    · exact hs
    · extract_lets left filled
      have hq : filled.1.Sound K := by
        unfold filled
        split
        · split
          · rename_i e1
            have h1 := hs.resolve.of_eq e1
            split
            · exact h1
            · exact h1.readChecked
          · rename_i e1
            exact hs.resolve.of_eq e1
        · exact hs
      clear_value filled
      split
      · exact hq
      · split
        · exact hq
        · exact ih hq

theorem State.Sound.joinThread {r : JoinSoFar} {t : Team} {f hz : Nat} {h : Thread} (hr : r.s.Sound K) : (r.thread t f hz h).s.Sound K := by
  unfold JoinSoFar.thread
  dsimp only
  split
  · rename_i e1
    exact (hr.unwind 130 |>.of_eq e1).modThread
  · rename_i e1
    exact (hr.unwind 130 |>.of_eq e1).modThread
  · rename_i e1
    exact (hr.unwind 130 |>.of_eq e1).modThread

theorem State.Sound.join {team f : Nat} (hs : s.Sound K) : (s.join team f).Sound K := by
  unfold State.join
  extract_lets s1
  have h1 : s1.Sound K := hs.publishAll
  split
  · exact hs
  · extract_lets subs all hz r stays s2
    have hr : r.s.Sound K :=
      List.foldlRecOn (motive := fun r : JoinSoFar => r.s.Sound K) _ _ h1 fun _ h _ _ => h.joinThread
    refine hs.ite (.ite hr.takeFailures.modTeam.settle ?_)
    exact hr.modTeam.takeFailures.settle

theorem State.Sound.releaseTeam {team f k : Nat} (hs : s.Sound K) : (s.releaseTeam team f k).Sound K := by
  unfold State.releaseTeam
  dsimp only
  split
  · exact hs
  · exact hs.ite hs.publishAll.modTeam

theorem State.Sound.releaseWide {team : Nat} {grid : Bool} (hs : s.Sound K) : (s.releaseWide team grid).Sound K := by
  unfold State.releaseWide
  dsimp only
  split
  · exact hs
  · exact hs.ite (hs.foldl fun _ _ h1 => h1.modTeam)

theorem State.Sound.releaseSync {team f r : Nat} (hs : s.Sound K) : (s.releaseSync team f r).Sound K := by
  unfold State.releaseSync
  dsimp only
  split
  · exact hs
  · split
    · exact hs
    · split
      · exact hs
      · exact hs.ite (hs.foldl fun _ _ h1 => h1.groupDone)

theorem State.Sound.barrierRelease {kind team f k : Nat} (hs : s.Sound K) : (s.barrierRelease kind team f k).Sound K := by
  unfold State.barrierRelease
  split
  · exact hs.releaseTeam
  · exact hs.releaseWide
  · exact hs.releaseWide
  · exact hs.releaseSync

theorem State.Sound.bowArrival {launch : Nat} (hs : s.Sound K) : (s.bowArrival launch).Sound K := by
  unfold State.bowArrival
  dsimp only
  split
  · exact hs
  · split
    · exact hs
    · exact hs.ite hs.modLaunch.modTeam

theorem State.Sound.stallRecord {t : Team} {h : Thread} {addr : Nat} {p : Park} (hs : s.Sound K) : (s.stallRecord t h addr p).Sound K :=
  hs.record

theorem State.Sound.watchdog {team r : Nat} (hs : s.Sound K) : (s.watchdog team r).Sound K := by
  unfold State.watchdog
  dsimp only
  split
  · refine hs.ite ?_
    split
    · exact hs.record.modFrame
    · split
      · split
        · exact hs
        · exact hs.ite (hs.stallRecord.foldl fun _ _ h1 => h1.modTeam)
      · split
        · exact hs
        · exact hs.ite (hs.stallRecord.foldl fun _ _ h1 => h1.modTeam)
      · refine hs.ite ?_
        split
        · exact hs
        · exact hs.ite hs.stallRecord.modTeam
      · split
        · exact hs
        · exact hs.ite hs.stallRecord.modTeam
      · split
        · split
          · exact hs
          · exact hs.ite hs.stallRecord.modTeam
        · exact hs
      · exact hs
  · exact hs

theorem State.Sound.openWindowLimit {team r : Nat} (hs : s.Sound K) : (s.openWindowLimit team r).Sound K := by
  unfold State.openWindowLimit
  split
  · exact hs.modTeam.ite hs
  · exact hs

/-! ### Place -/

theorem State.Sound.seat {die num id launch split : Nat} (hs : s.Sound K) : (s.seat die num id launch split).Sound K := hs.modCore

/-! ### Save -/

theorem State.Sound.teamSave {team : Nat} (hs : s.Sound K) : (s.teamSave team).Sound K := by
  unfold State.teamSave
  dsimp only
  split
  · exact hs
  · split
    · exact hs
    · refine hs.ite (hs.stopAction.ite ?_)
      split
      · rename_i e1
        exact hs.devAccess.of_eq e1
      · rename_i e1
        exact (hs.devAccess.of_eq e1).homeWrite.upd.modTeam.modCore.newlyReady

theorem State.Sound.pendRes {t : Team} {p : Pend} (hs : s.Sound K) : (s.pendRes t p).1.Sound K := by
  unfold State.pendRes
  split <;> exact hs.resolve

theorem State.Sound.reissue {t : Team} {p : Pend} (hs : s.Sound K) : (s.reissue t p).Sound K := by
  unfold State.reissue
  dsimp only
  split
  · rename_i e1 _
    exact (hs.pendRes.of_eq e1).modThread.addOp
  · rename_i e1 _
    exact hs.pendRes.of_eq e1

theorem State.Sound.restoreOne {team : Nat} (hs : s.Sound K) : (s.restoreOne team).1.Sound K := by
  unfold State.restoreOne
  dsimp only
  split
  · exact hs
  · split
    · exact hs
    · split
      · exact hs
      · split
        · exact hs
        · split
          · rename_i e1
            exact hs.devAccess.of_eq e1
          · rename_i e1
            have h1 := hs.devAccess.of_eq e1
            split
            · exact h1.teamAction.settle
            · split
              · exact h1.homeRead
              · split
                · exact h1.homeRead.modTeam.takeFailures.settle
                · dsimp only
                  refine .settle ?_
                  split
                  · exact (h1.homeRead.modTeam.seat.foldl fun _ _ h2 => h2.reissue).modTeam.modCore.pushMarkers.ranWide
                  · exact (h1.homeRead.modTeam.seat.foldl fun _ _ h2 => h2.reissue).modTeam.modCore.pushMarkers

theorem State.Sound.teamRestore {team : Nat} (hs : s.Sound K) : (s.teamRestore team).Sound K := by
  unfold State.teamRestore
  dsimp only
  split
  · exact hs
  · split
    · exact hs
    · refine hs.ite ((hs.foldl_fst ?_).ite (hs.ite (hs.foldl_fst ?_)))
      · intro p a h1
        split
        · exact h1.restoreOne
        · exact h1
      · intro p a h1
        split
        · exact h1.restoreOne
        · exact h1

theorem State.Sound.dumpTeam {t : Team} {d : Desc} {pa : Nat} (hs : s.Sound K) : (s.dumpTeam t d pa).Sound K := hs.devWrite

theorem State.Sound.loadTeam {t : Team} {d : Desc} {pa : Nat} {u : State} (hs : s.Sound K) (hu : s.loadTeam t d pa = some u) :
    u.Sound K := by
  unfold State.loadTeam at hu
  extract_lets size r recAt copy at hu
  split at hu
  · exact nomatch hu
  · cases hu
    exact hs.readHome.modTeam

/-! ### Launch -/

theorem State.Sound.modQueue {ctx q : Nat} {f : Queue → Queue} (hs : s.Sound K) : (s.modQueue ctx q f).Sound K := hs.modCtx

theorem State.Sound.useEntry {ctx q : Nat} {e : List Byte} (hs : s.Sound K) : (s.useEntry ctx q e).1.Sound K := by
  unfold State.useEntry
  dsimp only
  split
  · exact hs
  · split
    · dsimp only
      exact (hs.ite hs.record).modQueue.modQueue
    · split
      · dsimp only
        exact hs.modQueue
      · dsimp only
        exact hs.modQueue

theorem State.Sound.launchDoorbell {ctx q : Nat} {tail : BitVec 32} (hs : s.Sound K) : (s.launchDoorbell ctx q tail).Sound K := by
  unfold State.launchDoorbell
  split
  · exact hs
  · refine hs.ite ?_
    split
    · rename_i e1
      exact (hs.devGet.of_eq e1).modQueue
    · rename_i e1
      have h1 := hs.devGet.of_eq e1
      split
      · rename_i e2
        exact (h1.useEntry.of_eq e2).modQueue
      · rename_i e2
        exact (h1.useEntry.of_eq e2).modQueue

theorem State.Sound.refreshQueue {ctx q : Nat} (hs : s.Sound K) : (s.refreshQueue ctx q).Sound K := by
  unfold State.refreshQueue
  split
  · exact hs
  · split
    · exact hs.launchDoorbell
    · exact hs

theorem State.Sound.takeDesc {ctx q : Nat} (hs : s.Sound K) : (s.takeDesc ctx q).Sound K := by
  unfold State.takeDesc
  dsimp only
  split
  · exact hs.refreshQueue
  · refine hs.refreshQueue.ite ?_
    split
    · rename_i e1
      exact (hs.refreshQueue.devGet.of_eq e1).modQueue
    · rename_i e1
      exact hs.refreshQueue.devGet.of_eq e1

theorem State.Sound.depHolds {ctx addr val : Nat} (hs : s.Sound K) : (s.depHolds ctx addr val).1.Sound K := by
  unfold State.depHolds
  split
  · exact hs
  · split
    · rename_i e1
      exact hs.devGet.of_eq e1
    · rename_i e1
      exact hs.devGet.of_eq e1

theorem State.Sound.dependenceRecheck {ctx q : Nat} (hs : s.Sound K) : (s.dependenceRecheck ctx q).Sound K := by
  unfold State.dependenceRecheck
  dsimp only
  split
  · exact hs.takeDesc
  · split
    · refine hs.takeDesc.ite ?_
      split
      · rename_i e1
        exact hs.takeDesc.depHolds.of_eq e1
      · rename_i e1
        have h1 := hs.takeDesc.depHolds.of_eq e1
        split
        · rename_i e2
          exact h1.depHolds.of_eq e2
        · rename_i e2
          exact (h1.depHolds.of_eq e2).modQueue
    · exact hs.takeDesc

theorem State.Sound.headPlace {ctx : Nat} {x : Queue} (hs : s.Sound K) : (s.headPlace ctx x).1.Sound K := by
  unfold State.headPlace
  split
  · exact hs
  · split
    · rename_i e1
      exact hs.devAccess.of_eq e1
    · rename_i e1
      exact hs.devAccess.of_eq e1

theorem State.Sound.headPasses {ctx q : Nat} {x : Queue} {place : Option Access} (hs : s.Sound K) :
    (s.headPasses ctx q x place).Sound K := by
  unfold State.headPasses
  dsimp only
  refine .modQueue ?_
  split
  · exact hs.homeWrite
  · exact hs

theorem State.Sound.uniformWords {ctx : Nat} {d : Desc} (hs : s.Sound K) : (s.uniformWords ctx d).1.Sound K := by
  unfold State.uniformWords
  split
  · exact hs
  · split
    · rename_i e1
      exact hs.devGet.of_eq e1
    · rename_i e1
      exact hs.devGet.of_eq e1

theorem State.Sound.launchStart {ctx q : Nat} (hs : s.Sound K) : (s.launchStart ctx q).Sound K := by
  unfold State.launchStart
  dsimp only
  split
  · exact hs.dependenceRecheck
  · split
    · exact hs.dependenceRecheck
    · refine hs.dependenceRecheck.ite ?_
      split
      · rename_i e1
        exact hs.dependenceRecheck.headPlace.of_eq e1
      · rename_i e1
        have h1 := hs.dependenceRecheck.headPlace.of_eq e1
        refine h1.record.headPasses.ite ?_
        split
        · exact h1
        · split
          · rename_i e2
            exact h1.uniformWords.of_eq e2
          · rename_i e2
            exact (h1.uniformWords.of_eq e2).upd.headPasses

theorem State.Sound.placeTeam {l : Launch} {index : Nat} {p : Nat × Nat × Nat} (hs : s.Sound K) : (s.placeTeam l index p).Sound K :=
  hs.upd.seat.modLaunch.upd
theorem State.Sound.placeRect {l : Launch} {first : Nat} {ps : List (Nat × Nat × Nat)} (hs : s.Sound K) :
    (s.placeRect l first ps).Sound K :=
  hs.foldl fun _ _ h1 => h1.placeTeam

theorem State.Sound.teamPlacement {ctx q : Nat} (hs : s.Sound K) : (s.teamPlacement ctx q).Sound K := by
  unfold State.teamPlacement
  dsimp only
  split
  · refine hs.ite ?_
    split
    · exact hs
    · exact hs.foldl fun _ _ h1 => h1.placeRect
  · exact hs

theorem State.Sound.launchCompletion {launch : Nat} (hs : s.Sound K) : (s.launchCompletion launch).Sound K := by
  unfold State.launchCompletion
  dsimp only
  split
  · exact hs
  · refine hs.ite (hs.upd.ite ?_)
    split
    · rename_i e1
      exact hs.devAccess.of_eq e1
    · rename_i e1
      have h1 := hs.devAccess.of_eq e1
      exact h1.stopAction.ite (h1.ite h1.homeRead.homeWrite.upd)

theorem State.Sound.launchRead {c : Cmd} {t : Team} {a n align off : Nat} (hs : s.Sound K) : (s.launchRead c t a n align off).Sound K := by
  unfold State.launchRead
  split
  · exact .fail trivial
  · exact hs.engineRead

theorem State.Sound.launchWrite {c : Cmd} {t : Team} {a align off : Nat} {data : List Byte} (hs : s.Sound K) :
    (s.launchWrite c t a align off data).Sound K := by
  unfold State.launchWrite
  split
  · exact trivial
  · exact hs.engineWrite

theorem State.Sound.launchQueue {c : Cmd} {t : Team} {go : State → Queue → State} (hs : s.Sound K)
    (hg : ∀ s q, s.Sound K → (go s q).Sound K) : (s.launchQueue c t go).Sound K := by
  unfold State.launchQueue
  dsimp only
  split
  · exact hs
  · split
    · rename_i e1
      exact hs.cmdFails (hs.launchRead.of_fail e1)
    · rename_i e1
      have h1 := hs.launchRead.of_ok e1
      refine h1.refreshQueue.ite ?_
      split
      · rename_i e2
        exact (h1.refreshQueue.useEntry.of_eq e2).cmdError
      · rename_i e2
        have h2 := h1.refreshQueue.useEntry.of_eq e2
        split
        · exact hg _ _ h2
        · exact h2

theorem State.Sound.launchCmd {k : Nat} (hs : s.Sound K) : (s.launchCmd k).Sound K := by
  unfold State.launchCmd
  refine hs.startCmd fun _ _ _ h1 => ?_
  refine h1.launchQueue fun _ _ h2 => ?_
  refine h2.ite ?_
  split
  · rename_i e3
    exact h2.cmdFails (h2.launchRead.of_fail e3)
  · rename_i e3
    have h3 := h2.launchRead.of_ok e3
    split
    · rename_i e4
      exact (h3.launchWrite.of_done e4).modQueue.modCmd.cmdEnds
    · exact h3.cmdFails h3.launchWrite

theorem State.Sound.launchTimeout {k : Nat} (hs : s.Sound K) : (s.launchTimeout k).Sound K := by
  unfold State.launchTimeout
  split
  · exact hs
  · exact (hs.launchQueue fun _ _ h1 => h1.cmdError.ite h1).ite hs

/-! ### Attention -/

theorem State.Sound.seqWords {c : Cmd} {t : Team} {a off n : Nat} (hs : s.Sound K) :
    ExceptSound (AttnStop.Sound K) K (s.seqWords c t a off n) := by
  unfold State.seqWords
  split
  · rename_i e1
    exact .ok ((hs.engineWords _).of_ok e1)
  · rename_i e1
    exact .error (.fault ((hs.engineWords _).of_fail e1))

theorem AttnStop.Sound.writable {c : Cmd} {t : Team} {off : Nat} {n : Nat} {a : Nat} :
    ∀ e, s.writable c t a off n = .error e → e.Sound K := by
  intro e he
  induction n generalizing a with
  | zero => exact nomatch he
  | succ n ih =>
    unfold State.writable at he
    split at he
    · split at he
      · cases he
        exact trivial
      · exact ih he
    · cases he
      exact UnitRes.Sound.unit
theorem State.Sound.seqPut {c : Cmd} {t : Team} {a off : Nat} {ws : List Word} (hs : s.Sound K) :
    ExceptSound (AttnStop.Sound K) K (s.seqPut c t a off ws) := by
  unfold State.seqPut
  split
  · rename_i e he
    exact .error (AttnStop.Sound.writable e he)
  · refine .ok (hs.foldl_fst fun p e hp => ?_)
    split
    · rename_i e1
      exact hp.engineWrite.of_done e1
    · exact hp

theorem AttnStop.Sound.needAlign {a align off : Nat} : ∀ e, Sys2Proof.Machine.needAlign a align off = .error e → e.Sound K := by
  intro e he
  unfold Sys2Proof.Machine.needAlign at he
  split at he
  · exact nomatch he
  · cases he
    exact trivial

theorem State.Sound.rows {c : Cmd} {t : Team} {blk off : Nat} {g : Geom} {keys : Bool} (hs : s.Sound K) (n : Nat) :
    ExceptSound (AttnStop.Sound K) K (s.rows c t blk off g keys n) := by
  induction n with
  | zero => exact .ok hs
  | succ n ih =>
    unfold State.rows
    refine .bind ih fun _ h1 => ?_
    exact .bind h1.seqWords fun _ h2 => .pure h2

theorem State.Sound.putRows {c : Cmd} {t : Team} {blk off : Nat} {g : Geom} {keys : Bool} {rows : List (List Nat)} {tc : Nat}
    (hs : s.Sound K) :
    ExceptSound (AttnStop.Sound K) K (s.putRows c t blk off g keys rows tc) :=
  hs.seqPut.map fun _ h1 => h1
theorem State.Sound.readEnv {c : Cmd} {t : Team} {blk off : Nat} {g : Geom} (hs : s.Sound K) :
    ExceptSound (AttnStop.Sound K) K (s.readEnv c t blk off g) :=
  hs.seqWords.map fun _ h1 => h1
theorem State.Sound.putEnv {c : Cmd} {t : Team} {blk off : Nat} {e : Envelope} {tc : Nat} (hs : s.Sound K) :
    ExceptSound (AttnStop.Sound K) K (s.putEnv c t blk off e tc) :=
  hs.seqPut.bind fun _ h1 => h1.seqPut.bind fun _ h2 => .pure h2
theorem State.Sound.verOdd {c : Cmd} {t : Team} {blk : Nat} {e : Envelope} (hs : s.Sound K) :
    ExceptSound (AttnStop.Sound K) K (s.verOdd c t blk e) :=
  hs.seqPut

theorem State.Sound.rewrite {c : Cmd} {t : Team} {blk : Nat} {g : Geom} {e : Envelope} {f : Envelope → Envelope}
    {key : Envelope → List Val → List Val} {values : Bool} (hs : s.Sound K) :
    ExceptSound (AttnStop.Sound K) K (s.rewrite c t blk g e f key values) := by
  unfold State.rewrite
  exact (hs.rows _).bind fun _ h1 => .ite ((h1.rows _).bind fun _ h2 => h2.verOdd.bind fun _ h3 => h3.putRows.bind fun _ h4 =>
    h4.putRows.bind fun _ h5 => h5.putEnv.bind fun _ h6 => .pure h6) (.bind (.pure h1) fun _ h2 => h2.verOdd.bind fun _ h3 =>
      h3.putRows.bind fun _ h4 => h4.putRows.bind fun _ h5 => h5.putEnv.bind fun _ h6 => .pure h6)

theorem State.Sound.kappBody {c : Cmd} {t : Team} {blk : Nat} {g : Geom} {e : Envelope} (hs : s.Sound K) :
    ExceptSound (AttnStop.Sound K) K (s.kappBody c t blk g e) :=
  .ite (.pure hs) (hs.seqWords.bind fun _ h1 => h1.seqWords.bind fun _ h2 => h2.seqPut.bind fun _ h3 => h3.seqPut.bind fun _ h4 =>
    h4.putEnv.bind fun _ h5 => .pure h5)

theorem State.Sound.kreqBody {c : Cmd} {t : Team} {blk : Nat} {g : Geom} {e : Envelope} (hs : s.Sound K) :
    ExceptSound (AttnStop.Sound K) K (s.kreqBody c t blk g e) := by
  unfold State.kreqBody
  dsimp only
  exact hs.rewrite

theorem State.Sound.krotBody {c : Cmd} {t : Team} {blk : Nat} {g : Geom} {e : Envelope} (hs : s.Sound K) :
    ExceptSound (AttnStop.Sound K) K (s.krotBody c t blk g e) :=
  hs.seqWords.bind fun _ h1 => h1.rewrite
theorem State.Sound.ksumBody {c : Cmd} {t : Team} {blk : Nat} {g : Geom} {e : Envelope} (hs : s.Sound K) :
    ExceptSound (AttnStop.Sound K) K (s.ksumBody c t blk g e) :=
  (hs.rows _).bind fun _ h1 => h1.verOdd.bind fun _ h2 => h2.putEnv.bind fun _ h3 => .pure h3
theorem State.Sound.ktruncBody {c : Cmd} {_t : Team} {_blk : Nat} {_g : Geom} {e : Envelope} (hs : s.Sound K) :
    ExceptSound (AttnStop.Sound K) K (s.ktruncBody c _t _blk _g e) :=
  .ok hs
theorem State.Sound.claim {c : Cmd} {t : Team} {blk : Nat} (hs : s.Sound K) : ExceptSound (AttnStop.Sound K) K (s.claim c t blk) :=
  .bind_plain AttnStop.Sound.needAlign fun _ => hs.seqWords.bind fun _ h1 => .ite (.pure h1) (h1.seqPut.bind fun _ h2 =>
    ExceptSound.pure h2)

theorem State.Sound.unclaim {c : Cmd} {t : Team} {blk code count tc : Nat} (hs : s.Sound K) :
    (s.unclaim c t blk code count tc).Sound K := by
  unfold State.unclaim
  split
  · rename_i e1
    exact hs.cmdFails (hs.seqWords.of_error e1)
  · exact hs
  · rename_i e1
    have h1 := hs.seqWords.of_ok e1
    split
    · rename_i e2
      exact h1.cmdFails (h1.seqPut.of_error e2)
    · exact h1
    · rename_i e2
      exact (h1.seqPut.of_ok e2).modCmd.cmdEnds

theorem State.Sound.maintRun {body : State → Cmd → Team → Nat → Geom → Envelope → Except AttnStop (State × Closing)} {c : Cmd} {t : Team}
    (hs : s.Sound K) (hb : ∀ s c t n g e, s.Sound K → ExceptSound (AttnStop.Sound K) K (body s c t n g e)) :
    (State.maintRun body s c t).Sound K := by
  unfold State.maintRun
  dsimp only
  refine .ite ?_ ?_
  · split
    · rename_i e1
      have h1 := hs.engineRes.of_eq e1
      refine h1.ite ?_
      split
      · rename_i e2
        exact (h1.seqPut.of_ok e2).unclaim
      · rename_i e2
        have h2 := h1.seqPut.of_error e2
        split
        · exact h1.cmdFails h2
        · exact h1
    · exact hs.cmdFails .unit
  · split
    · rename_i e1
      have h1 := (ExceptSound.ite (.ok hs) hs.claim).of_error e1
      split
      · exact hs.cmdFails h1
      · exact hs
    · rename_i e1
      exact (ExceptSound.ite (.ok hs) hs.claim).of_ok e1
    · rename_i e1
      have h1 := (ExceptSound.ite (.ok hs) hs.claim).of_ok e1
      split
      · rename_i e2
        have h2 := (h1.modCmd.readEnv.bind fun _ h2 => hb _ _ _ _ _ _ h2).of_error e2
        split
        · exact h1.modCmd.cmdFails h2
        · exact h1.modCmd
      · rename_i e2
        have h2 := (h1.modCmd.readEnv.bind fun _ h2 => hb _ _ _ _ _ _ h2).of_ok e2
        split
        · exact h2.unclaim
        · exact h2.modCmd

theorem State.Sound.maintain {k opc : Nat} {more : Cmd → List (Nat × Nat × Bool)}
    {body : State → Cmd → Team → Nat → Geom → Envelope → Except AttnStop (State × Closing)}
    (hs : s.Sound K) (hb : ∀ s c t n g e, s.Sound K → ExceptSound (AttnStop.Sound K) K (body s c t n g e)) :
    (s.maintain k opc more body).Sound K := by
  unfold State.maintain
  dsimp only
  refine .startCmd ?_ fun _ _ _ h1 => h1.maintRun hb
  split
  · exact hs.modCmd.ite hs
  · exact hs

theorem State.Sound.kapp {k : Nat} (hs : s.Sound K) : (s.kapp k).Sound K := hs.maintain fun _ _ _ _ _ _ h1 => h1.kappBody
theorem State.Sound.kreq {k : Nat} (hs : s.Sound K) : (s.kreq k).Sound K := hs.maintain fun _ _ _ _ _ _ h1 => h1.kreqBody
theorem State.Sound.krot {k : Nat} (hs : s.Sound K) : (s.krot k).Sound K := hs.maintain fun _ _ _ _ _ _ h1 => h1.krotBody
theorem State.Sound.ksum {k : Nat} (hs : s.Sound K) : (s.ksum k).Sound K := hs.maintain fun _ _ _ _ _ _ h1 => h1.ksumBody
theorem State.Sound.ktrunc {k : Nat} (hs : s.Sound K) : (s.ktrunc k).Sound K := hs.maintain fun _ _ _ _ _ _ h1 => h1.ktruncBody

theorem State.Sound.claimRetry {k : Nat} (hs : s.Sound K) : (s.claimRetry k).Sound K := by
  unfold State.claimRetry
  split
  · refine hs.ite ?_
    split
    · exact hs.kapp
    · exact hs.kreq
    · exact hs.krot
    · exact hs.ksum
    · exact hs.ktrunc
    · exact hs
  · exact hs

theorem State.Sound.maintenanceBusy {k : Nat} (hs : s.Sound K) : (s.maintenanceBusy k).Sound K := by
  unfold State.maintenanceBusy
  split
  · split
    · exact hs.cmdError.ite hs
    · exact hs
  · exact hs

theorem State.Sound.putCursor {c : Cmd} {t : Team} {st : AttnState} (hs : s.Sound K) :
    ExceptSound (AttnStop.Sound K) K (s.putCursor c t st) :=
  .bind_plain AttnStop.Sound.needAlign fun _ => hs.seqPut

theorem State.Sound.queries {c : Cmd} {t : Team} (hs : s.Sound K) (n : Nat) :
    ExceptSound (AttnStop.Sound K) K (s.queries c t n) := by
  induction n with
  | zero => exact .ok hs
  | succ n ih =>
    unfold State.queries
    refine .bind ih fun _ h1 => ?_
    exact .bind h1.seqWords fun _ h2 => .pure h2

theorem State.Sound.keep {c : Cmd} {st : AttnState} (hs : s.Sound K) : (Cmd.keep s c st).Sound K := hs.modCmd

theorem State.Sound.attnFault {c : Cmd} {t : Team} {st : AttnState} {r : UnitRes} (hs : s.Sound K) (hr : r.Sound K) :
    (s.attnFault c t st r).Sound K := by
  unfold State.attnFault
  dsimp only
  split
  · split
    · rename_i e1
      have h1 := hs.keep.putCursor.of_ok e1
      exact h1.modCmd.record.cmdEnds.ite h1.modCmd.cmdWaits
    · exact hs.keep.record.cmdError.ite hs.keep.cmdWaits
    · rename_i e1
      exact hs.keep.cmdFails (hs.keep.putCursor.of_error e1)
    · exact hs.keep
  · exact hs.cmdFails hr

theorem State.Sound.attnHalts {c : Cmd} {t : Team} {st : AttnState} {finish : State → State} (hs : s.Sound K)
    (hf : ∀ s, s.Sound K → (finish s).Sound K) : (s.attnHalts c t st finish).Sound K := by
  unfold State.attnHalts
  split
  · rename_i e1
    exact hf _ (hs.putCursor.of_ok e1).keep.modCmd
  · rename_i e1
    exact hs.attnFault (hs.putCursor.of_error e1)
  · exact hs

theorem State.Sound.attnStops {c : Cmd} {t : Team} {st : AttnState} {e : AttnStop} (hs : s.Sound K) (he : e.Sound K) :
    (s.attnStops c t st e).Sound K := by
  unfold State.attnStops
  split
  · exact hs.attnFault he
  · exact hs.keep
  · exact he.attnHalts fun _ h1 => h1.cmdEnds

theorem State.Sound.listEntry {c : Cmd} {t : Team} {i : Nat} (hs : s.Sound K) : ExceptSound (AttnStop.Sound K) K (s.listEntry c t i) :=
  .bind_plain AttnStop.Sound.needAlign fun _ => hs.seqWords.bind fun _ h1 => ExceptSound.bind_plain AttnStop.Sound.needAlign fun _ =>
    ExceptSound.pure h1
theorem State.Sound.workEntry {c : Cmd} {t : Team} {k : Nat} (hs : s.Sound K) : ExceptSound (AttnStop.Sound K) K (s.workEntry c t k) :=
  .bind_plain AttnStop.Sound.needAlign fun _ => hs.seqWords.bind fun _ h1 => .pure h1
theorem State.Sound.putEntry {c : Cmd} {t : Team} {k : Nat} {e : WorkEntry} (hs : s.Sound K) :
    ExceptSound (AttnStop.Sound K) K (s.putEntry c t k e) :=
  .bind_plain AttnStop.Sound.needAlign fun _ => hs.seqPut
theorem State.Sound.stableEnv {c : Cmd} {t : Team} {blk : Nat} (hs : s.Sound K) :
    ExceptSound (AttnStop.Sound K) K (s.stableEnv c t blk) :=
  hs.readEnv.bind fun _ h1 => .ite (.error trivial) (.pure h1)
theorem State.Sound.stableHead {c : Cmd} {t : Team} {blk : Nat} (hs : s.Sound K) :
    ExceptSound (AttnStop.Sound K) K (s.stableHead c t blk) :=
  hs.seqWords.bind fun _ h1 => .ite (.error trivial) (.pure h1)
theorem State.Sound.capture {c : Cmd} {t : Team} {st : AttnState} (hs : s.Sound K) :
    ExceptSound (AttnStop.Sound K) K (s.capture c t st) :=
  .ite (.bind (.pure hs) fun _ h1 => h1.listEntry.bind fun _ h2 => h2.stableEnv.bind fun _ h3 => h3.putEntry) (.bind
    (hs.workEntry.map fun _ h1 => h1) fun _ h1 => h1.listEntry.bind fun _ h2 => h2.stableEnv.bind fun _ h3 => h3.putEntry)

theorem State.Sound.workEntries {c : Cmd} {t : Team} {k : Nat} (hs : s.Sound K) (n : Nat) :
    ExceptSound (AttnStop.Sound K) K (s.workEntries c t k n) := by
  induction n with
  | zero => exact .ok hs
  | succ n ih =>
    unfold State.workEntries
    refine .bind ih fun _ h1 => ?_
    exact .bind h1.workEntry fun _ h2 => .pure h2

theorem State.Sound.phaseS {c : Cmd} {t : Team} {k : Nat} {u0 : Option Word} (hs : s.Sound K) :
    ExceptSound (AttnStop.Sound K) K (s.phaseS c t k u0) :=
  (hs.workEntries _).bind fun _ h1 => h1.seqPut.bind fun _ h2 => .pure h2

theorem State.Sound.captures {c : Cmd} {t : Team} (n : Nat) {st : AttnState} (hs : s.Sound K) :
    (State.captures c t n s st).1.Sound K := by
  induction n generalizing s st with
  | zero => exact hs
  | succ n ih =>
    unfold State.captures
    split
    · exact hs
    · split
      · exact hs
      · rename_i e1
        exact ih (hs.capture.of_ok e1).modCmd
theorem AttnStop.Sound.captures {c : Cmd} {t : Team} (n : Nat) {st st' : AttnState} {s' : State} {e : AttnStop} (hs : s.Sound K)
    (he : State.captures c t n s st = (s', st', some e)) : e.Sound K := by
  induction n generalizing s st with
  | zero => exact nomatch he
  | succ n ih =>
    unfold State.captures at he
    split at he
    · exact nomatch he
    · split at he
      · rename_i e1
        cases he
        exact hs.capture.of_error e1
      · rename_i e1
        exact ih (hs.capture.of_ok e1).modCmd he

theorem State.Sound.attnFinish {c : Cmd} {t : Team} {st : AttnState} (hs : s.Sound K) : (s.attnFinish c t st).Sound K := by
  unfold State.attnFinish
  dsimp only
  split
  · rename_i e1
    exact hs.attnFault ((ExceptSound.bind_plain AttnStop.Sound.needAlign fun _ => hs.seqPut).of_error e1)
  · exact hs
  · rename_i e1
    exact ((ExceptSound.bind_plain AttnStop.Sound.needAlign fun _ => hs.seqPut).of_ok e1).modCmd.attnHalts fun _ h2 => h2.cmdEnds

theorem State.Sound.attnSorted {c : Cmd} {t : Team} {st : AttnState} (hs : s.Sound K) : (s.attnSorted c t st).Sound K := by
  unfold State.attnSorted
  dsimp only
  split
  · rename_i e1
    exact hs.attnFault (hs.phaseS.of_error e1)
  · exact hs
  · rename_i e1
    have h1 := hs.phaseS.of_ok e1
    exact h1.modCmd.attnFinish.ite h1.modCmd.keep

theorem State.Sound.attnCapture {c : Cmd} {t : Team} {st : AttnState} (hs : s.Sound K) : (s.attnCapture c t st).Sound K := by
  unfold State.attnCapture
  split
  · rename_i e1
    exact ((hs.captures _).of_eq e1).attnSorted
  · rename_i e1
    exact ((hs.captures _).of_eq e1).keep.attnStops (.captures _ hs e1)

theorem State.Sound.readCursor {c : Cmd} {t : Team} (hs : s.Sound K) : ExceptSound (AttnStop.Sound K) K (s.readCursor c t) :=
  .bind_plain AttnStop.Sound.needAlign fun _ => hs.seqWords.bind fun _ h1 => .ite (.pure h1) (h1.seqWords.bind fun _ h2 =>
    ExceptSound.pure h2)

theorem State.Sound.attnGoes {c : Cmd} {t : Team} {st : AttnState} (hs : s.Sound K) : (s.attnGoes c t st).Sound K := by
  unfold State.attnGoes
  split
  · exact hs.attnCapture
  · exact hs.attnCapture
  · exact hs.attnFinish
  · exact hs

theorem State.Sound.attnBegin {c : Cmd} {t : Team} (hs : s.Sound K) : (s.attnBegin c t).Sound K := by
  unfold State.attnBegin
  extract_lets go first
  have hgo : ∀ p, p.1.Sound K → ExceptSound (AttnStop.Sound K) K (go p) := by
    intro p hp
    unfold go
    split
    split
    · exact .ok hp
    · exact .bind (hp.queries _) fun _ h => .ok h
  have hfirst : ExceptSound (AttnStop.Sound K) K first := .ite (.bind hs.readCursor hgo) (.bind (.pure hs) hgo)
  clear_value first
  split
  · split
    · refine hs.cmdWaits.ite ?_
      split
      · rename_i e2
        exact (hs.readCursor.of_ok e2).attnFault trivial
      · exact hs.record.cmdError
    · exact (hs.attnFault (hfirst.of_error rfl)).modCmd
    · exact hs.cmdFails (hfirst.of_error rfl)
  · exact hs
  · exact (hfirst.of_ok rfl).cmdError
  · exact (hfirst.of_ok rfl).keep.attnGoes

theorem State.Sound.attn {k : Nat} (hs : s.Sound K) : (s.attn k).Sound K := by
  unfold State.attn
  refine hs.startCmd fun _ _ _ h1 => ?_
  split
  · exact h1.attnBegin
  · exact h1.attnGoes

theorem State.Sound.visitReads {c : Cmd} {t : Team} {st : AttnState} {e : WorkEntry} (hs : s.Sound K) :
    ExceptSound (AttnStop.Sound K) K (s.visitReads c t st e) :=
  hs.listEntry.bind fun _ h1 => h1.stableHead.bind fun _ h2 => .ite (h2.stableEnv.bind fun _ h3 => .ite (.error
    (.stale h3)) (.ite (h3.putEntry.bind fun _ h4 => (h4.modCmd.rows _).bind fun _ h5 => (h5.rows _).bind fun _ h6 => .pure h6)
      (.bind (.pure h3) fun _ h4 => (h4.modCmd.rows _).bind fun _ h5 => (h5.rows _).bind fun _ h6 => .pure h6))) (.bind
        (.pure h2) fun _ h3 => .ite (.error (.stale h3)) (.ite (h3.putEntry.bind fun _ h4 => (h4.modCmd.rows _).bind fun _ h5 =>
          (h5.rows _).bind fun _ h6 => .pure h6) (.bind (.pure h3) fun _ h4 => (h4.modCmd.rows _).bind fun _ h5 =>
            (h5.rows _).bind fun _ h6 => .pure h6)))

theorem State.Sound.attnVisitRun {c : Cmd} {t : Team} {st : AttnState} (hs : s.Sound K) : (s.attnVisitRun c t st).Sound K := by
  unfold State.attnVisitRun
  dsimp only
  split
  · rename_i e1
    exact hs.attnStops (hs.workEntry.of_error e1)
  · rename_i e1
    have h1 := hs.workEntry.of_ok e1
    refine h1.attnFinish.ite ?_
    split
    · rename_i e2
      exact h1.keep.attnStops (h1.visitReads.of_error e2)
    · rename_i e2
      have h2 := h1.visitReads.of_ok e2
      exact h2.attnFinish.ite h2.keep

theorem State.Sound.attnVisit {k : Nat} (hs : s.Sound K) : (s.attnVisit k).Sound K := by
  unfold State.attnVisit
  split
  · exact hs
  · split
    · exact (hs.attnFinish.ite hs.attnVisitRun).ite hs
    · exact hs

theorem State.Sound.attnParkResume {k : Nat} (hs : s.Sound K) : (s.attnParkResume k).Sound K := by
  unfold State.attnParkResume
  dsimp only
  split
  · exact hs
  · split
    · refine hs.ite ?_
      split
      · rename_i e1
        exact hs.engineRes.of_eq e1
      · rename_i e1
        exact (hs.engineRes.of_eq e1).modCmd
    · exact hs

theorem State.Sound.attnUnstable {k : Nat} (hs : s.Sound K) : (s.attnUnstable k).Sound K := by
  unfold State.attnUnstable
  dsimp only
  split
  · exact hs
  · split
    · exact (hs.attnHalts fun _ h1 => h1.cmdError).ite hs
    · exact hs

/-! ### Collective -/

theorem State.Sound.peerRes {ctx va n : Nat} (hs : s.Sound K) : ExceptSound (UnitRes.Sound K) K (s.peerRes ctx va n) := by
  unfold State.peerRes
  dsimp only
  refine .ite (.error trivial) ?_
  split
  · exact .error trivial
  · split
    · rename_i e1
      exact .ok (hs.global.of_eq e1)
    · exact .error trivial
    · exact .error trivial

theorem State.Sound.peerReads {ctx va n : Nat} (hs : s.Sound K) : ExceptSound (UnitRes.Sound K) K (s.peerReads ctx va n) := by
  unfold State.peerReads
  split
  · rename_i e1
    exact .ite (.error trivial) (.ok (hs.peerRes.of_ok e1))
  · rename_i e1
    exact .error (hs.peerRes.of_error e1)

theorem State.Sound.peerWords {ctx va : Nat} {done : List Nat} {ws : List Word} (hs : s.Sound K) :
    ExceptSound (UnitRes.Sound K) K (s.peerWords ctx va done ws) := by
  induction ws generalizing s va done with
  | nil => exact .ok hs.cure
  | cons w ws ih =>
    unfold State.peerWords
    split
    · rename_i e1
      exact .error (hs.peerRes.of_error e1)
    · rename_i e1
      exact .map (ih (hs.peerRes.of_ok e1).homeWrite) fun _ h => h

theorem State.Sound.peerAdd {ctx va x : Nat} (hs : s.Sound K) : ExceptSound (UnitRes.Sound K) K (s.peerAdd ctx va x) :=
  hs.peerReads.map fun _ h1 => h1.homeRead.homeWrite

theorem State.Sound.peerCombine {ctx va op : Nat} {x : Word} (hs : s.Sound K) :
    ExceptSound (UnitRes.Sound K) K (s.peerCombine ctx va op x) := by
  unfold State.peerCombine
  dsimp only
  split
  · rename_i e1
    exact .error (hs.peerRes.of_error e1)
  · rename_i e1
    have h1 := hs.peerRes.of_ok e1
    exact .ite (.ok h1.redAt) (.ite (.error trivial) (.ok h1.homeRead.homeWrite))

theorem State.Sound.peerReserve {ctx va nr fixed : Nat} (hs : s.Sound K) :
    ExceptSound (UnitRes.Sound K) K (s.peerReserve ctx va nr fixed) :=
  hs.peerReads.bind fun _ h1 => .ite (.pure h1.mergeChecks.merge) (h1.mergeChecks.merge.peerReads.bind fun _ h2 =>
    ExceptSound.ite (.pure h2.mergeChecks.merge.homeWrite) (.pure h2.mergeChecks.merge))

theorem State.Sound.peerFails {ctx : Nat} {r : UnitRes} (hs : s.Sound K) : (s.peerFails ctx r).Sound K := by
  cases r with
  | table => exact hs.stopAction
  | poison => exact hs.record
  | _ => exact hs

theorem State.Sound.fabricArrival {m : FabricMsg} (hs : s.Sound K) : (s.fabricArrival m).Sound K := by
  unfold State.fabricArrival
  dsimp only
  split
  · exact hs.ite hs.upd
  · split
    · split
      · rename_i e1
        exact (hs.peerWords.of_ok e1).upd
      · exact hs.peerFails.upd
    · refine hs.ite ?_
      split
      · rename_i e1
        exact (hs.peerWords.of_ok e1).upd
      · exact hs.peerFails.upd
    · refine hs.ite ?_
      split
      · rename_i e1
        exact (hs.peerAdd.of_ok e1).upd
      · exact hs.peerFails.upd
    · split
      · rename_i e1
        exact (hs.peerCombine.of_ok e1).upd
      · exact hs.peerFails.upd
    · split
      · rename_i e1
        exact (hs.peerReserve.of_ok e1).upd
      · exact hs.peerFails.upd
    · exact hs

theorem State.Sound.collRead {c : Cmd} {t : Team} {a n align off : Nat} (hs : s.Sound K) :
    ExceptSound (CollStop.Sound K) K (s.collRead c t a n align off) := by
  unfold State.collRead
  split
  · rename_i e1
    exact .ok (hs.engineRead.of_ok e1)
  · rename_i e1
    exact .error (.fault (hs.engineRead.of_fail e1))

theorem State.Sound.collWords {c : Cmd} {t : Team} {a off n : Nat} (hs : s.Sound K) :
    ExceptSound (CollStop.Sound K) K (s.collWords c t a off n) := by
  unfold State.collWords
  split
  · rename_i e1
    exact .ok ((hs.engineWords _).of_ok e1)
  · rename_i e1
    exact .error (.fault ((hs.engineWords _).of_fail e1))

theorem State.Sound.collPut {c : Cmd} {t : Team} {st : CollState} {a off : Nat} {ws : List Word} (hs : s.Sound K) :
    ExceptSound (CollStop.Sound K) K (s.collPut c t st a off ws) := by
  unfold State.collPut
  split
  · rename_i e1
    exact .ok (hs.seqPut.of_ok e1).modCmd
  · rename_i e1
    exact .error (.fault (hs.seqPut.of_error e1))
  · exact .error trivial

theorem State.Sound.rankEntry {c : Cmd} {t : Team} {r : Nat} (hs : s.Sound K) : ExceptSound (CollStop.Sound K) K (s.rankEntry c t r) :=
  hs.collRead.map fun _ h1 => h1

theorem CollStop.Sound.peerStop {st : CollState} {r : UnitRes} (hr : r.Sound K) : (Sys2Proof.Machine.peerStop st r).Sound K := by
  cases r with
  | code => trivial
  | _ => exact hr

theorem State.Sound.transfer {c : Cmd} {t : Team} {st : CollState} {pkg va : Nat} {kind : FabricKind} {data : List Byte} (hs : s.Sound K) :
    ExceptSound (CollStop.Sound K) K (s.transfer c t st pkg va kind data) := by
  unfold State.transfer
  extract_lets own r job m
  refine .ite ?_ (.ite (.error trivial) (.ok hs.upd))
  have hr : ExceptSound (UnitRes.Sound K) K r := by
    unfold r
    split
    · exact hs.peerAdd
    · exact hs.peerWords
  clear_value r
  split
  · exact .error (.peerStop (hr.of_error rfl))
  · exact .ok (hr.of_ok rfl).modCmd

theorem State.Sound.channel {c : Cmd} {t : Team} {args : List Byte} {st : CollState} {ch : Nat} (hs : s.Sound K) :
    ExceptSound (CollStop.Sound K) K (s.channel c t args st ch) := by
  unfold State.channel
  dsimp only
  split
  · exact .ok hs
  · exact hs.rankEntry.bind fun _ h1 => h1.collRead.bind fun _ h2 => h2.collRead.bind fun _ h3 => .pure h3

theorem State.Sound.writeBack {c : Cmd} {t : Team} {args : List Byte} {boff : Nat} {st : CollState} {es : List (Nat × Nat × Nat)}
    (hs : s.Sound K) : ExceptSound (CollStop.Sound K) K ((s.writeBack c t args boff st es).map (·, ())) := by
  induction es generalizing s with
  | nil => exact .ok hs
  | cons e es ih =>
    unfold State.writeBack
    exact .bind_map hs.collPut fun p h => ih h

theorem State.Sound.collOver {c : Cmd} {t : Team} {st : CollState} {code detail : Nat} (hs : s.Sound K) :
    (s.collOver c t st code detail).Sound K :=
  hs.cmdEnds.ite (hs.cmdError.ite hs.cmdEnds)

theorem State.Sound.collClose {k : Nat} (hs : s.Sound K) : (s.collClose k).Sound K := by
  unfold State.collClose
  split
  · exact hs
  · split
    · split
      · exact hs
      · refine hs.ite ?_
        extract_lets back
        have hback : ExceptSound (CollStop.Sound K) K (back.map (·, ())) := by
          unfold back
          split
          · exact .ok hs
          · exact .bind_map hs.collRead fun _ h1 => .bind_map h1.rankEntry fun _ h2 => h2.writeBack
        clear_value back
        split
        · exact (hs.cmdFails (hback.of_error rfl)).ite hs.collOver
        · exact hs
        · exact (hback.of_ok rfl).collOver
    · exact hs

theorem State.Sound.collEnds {c : Cmd} {st : CollState} {code detail : Nat} (hs : s.Sound K) : (s.collEnds c st code detail).Sound K :=
  hs.modCmd.collClose

theorem State.Sound.collStops {c : Cmd} {st : CollState} {code detail : Nat} (hs : s.Sound K) : (s.collStops c st code detail).Sound K := by
  unfold State.collStops
  split
  · exact hs.cmdEnds
  · split
    · exact hs.collOver
    · exact hs
  · exact hs.modCmd.collEnds

theorem State.Sound.collFails {c : Cmd} {t : Team} {st : CollState} {r : UnitRes} (hs : s.Sound K) (hr : r.Sound K) :
    (s.collFails c t st r).Sound K := by
  unfold State.collFails
  dsimp only
  split
  · exact (hs.cmdFails hr).collStops.ite (hs.cmdFails hr)
  · exact hs.cmdFails hr

theorem State.Sound.stepEvent {k op : Nat} {run : State → StepEnv → StepRes} (hs : s.Sound K)
    (hr : ∀ s e, s.Sound K → ExceptSound (CollStop.Sound K) K (run s e)) : (s.stepEvent k op run).Sound K := by
  unfold State.stepEvent
  split
  · exact hs
  · split
    · exact hs
    · refine hs.ite (hs.collEnds.ite ?_)
      extract_lets env
      have henv : ExceptSound (CollStop.Sound K) K env := .bind hs.collRead fun _ h1 => .bind h1.collRead fun _ h2 => .pure h2
      clear_value env
      split
      · exact hs.collFails (henv.of_error rfl)
      · exact hs
      · rename_i s1 e
        have h1 : s1.Sound K := henv.of_ok rfl
        refine h1.collEnds.ite (h1.ite ?_)
        split
        · rename_i e2
          exact h1.collFails ((hr _ e h1).of_error e2)
        · exact h1.collEnds
        · exact h1.modCmd
        · exact h1.modCmd
        · rename_i e2
          have h2 := (hr _ e h1).of_ok e2
          exact h2.modCmd.collClose.ite (h2.modCmd.collEnds.ite h2.modCmd)

theorem State.Sound.sendBytes {e : StepEnv} {st : CollState} {ch rank : Nat} {data : List Byte} (hs : s.Sound K) :
    ExceptSound (CollStop.Sound K) K (s.sendBytes e st ch rank data) :=
  hs.channel.bind fun _ h1 => h1.rankEntry.bind fun _ h2 => h2.collRead.bind fun _ h3 => .ite (.error trivial) (.ite
    (.error trivial) (h3.rankEntry.bind fun _ h4 => h4.transfer.bind fun _ h5 => .pure h5))
theorem State.Sound.sendTail {e : StepEnv} {ch rank n : Nat} (hs : s.Sound K) :
    ExceptSound (CollStop.Sound K) K (s.sendTail e ch rank n) :=
  hs.rankEntry.bind fun _ h1 => .ite (.ok h1) (h1.transfer.bind fun _ h2 => .pure h2)
theorem State.Sound.receive {e : StepEnv} {ch rank len : Nat} (hs : s.Sound K) :
    ExceptSound (CollStop.Sound K) K (s.receive e ch rank len) :=
  hs.channel.bind fun _ h1 => h1.rankEntry.bind fun _ h2 => h2.collRead.bind fun _ h3 => h3.rankEntry.bind fun _ h4 => .ite
    (.error trivial) (.ite (.error trivial) (.ite (.error trivial) (h4.collWords.bind fun _ h5 => h5.transfer.bind fun _ h6 =>
      ExceptSound.pure h6)))

theorem State.Sound.collSend {k : Nat} (hs : s.Sound K) : (s.collSend k).Sound K := by
  unfold State.collSend
  dsimp only
  refine hs.stepEvent fun _ _ h1 => ?_
  split
  · exact .ok h1
  · exact h1.sendTail
  · exact h1.collWords.bind fun _ h2 => h2.sendBytes

theorem State.Sound.collRecv {k : Nat} (hs : s.Sound K) : (s.collRecv k).Sound K := by
  unfold State.collRecv
  refine hs.stepEvent fun s1 e h1 => ?_
  split
  · exact .ok h1
  · dsimp only
    split
    · rename_i e2
      exact .error (AttnStop.Sound.writable _ e2)
    · exact .bind h1.receive fun _ h2 => .bind h2.collPut fun _ h3 => .pure h3

theorem State.Sound.collRrs {k : Nat} (hs : s.Sound K) : (s.collRrs k).Sound K := by
  unfold State.collRrs
  refine hs.stepEvent fun s1 e h1 => ?_
  extract_lets nsend keep q2 len
  split
  · exact .ok h1
  · exact h1.sendTail
  · clear_value q2
    split
    · exact h1.sendBytes
    · exact .ok h1
  · split
    · rename_i e2
      refine .error ?_
      split at e2
      · exact AttnStop.Sound.writable _ e2
      · exact nomatch e2
    · have last : ∀ p : State × CollState, ∀ z, p.1.Sound K → ExceptSound (CollStop.Sound K) K
          (if nsend || q2.isNone then pure (p.1, p.2.go (p.2.step + 1)) else pure (p.1, { p.2 with wait := .sendOn z, since := none })) :=
        fun _ _ h => .ite (.pure h) (.pure h)
      refine .ite (.bind (.pure h1) fun _ h2 => ?_) (.bind h1.collWords fun _ h2 => ?_)
      · exact .bind h2.receive fun _ h3 => .ite (.bind h3.collPut fun p h4 => last p _ h4) (.bind (.pure h3) fun p h4 => last p _ h4)
      · exact .bind h2.receive fun _ h3 => .ite (.bind h3.collPut fun p h4 => last p _ h4) (.bind (.pure h3) fun p h4 => last p _ h4)

theorem State.Sound.collCopy {k : Nat} (hs : s.Sound K) : (s.collCopy k).Sound K :=
  hs.stepEvent fun _ _ h1 => h1.collWords.bind fun _ h2 => h2.collPut.bind fun _ h3 => .pure h3
theorem State.Sound.collWait {k : Nat} (hs : s.Sound K) : (s.collWait k).Sound K :=
  hs.stepEvent fun _ _ h1 => h1.rankEntry.bind fun _ h2 => h2.collRead.bind fun _ h3 => .ite (.error trivial) (.pure h3)

theorem State.Sound.collNotify {k : Nat} (hs : s.Sound K) : (s.collNotify k).Sound K := by
  unfold State.collNotify
  dsimp only
  refine hs.stepEvent fun _ _ h1 => ?_
  split
  · exact .ok h1
  · exact h1.rankEntry.bind fun _ h2 => .ite (.ok h2) (h2.transfer.bind fun _ h3 => .pure h3)

theorem CollStop.Sound.loopEnd {c : Cmd} {t : Team} {ctr n i : Nat} (hs : s.Sound K) :
    ∀ e, s.loopEnd c t ctr n i = .error e → e.Sound K := by
  intro e he
  induction n generalizing i with
  | zero => exact nomatch he
  | succ n ih =>
    unfold State.loopEnd at he
    split at he
    · exact nomatch he
    · cases hx : s.collRead c t (c.addr 16 + 16 * i) 16 16 16 with
      | error e1 =>
        rw [hx] at he
        cases he
        exact hs.collRead.of_error hx
      | ok p =>
        rw [hx] at he
        dsimp only [bind, Except.bind, pure, Except.pure] at he
        split at he
        · exact nomatch he
        · split at he
          · exact nomatch he
          · exact ih he
theorem State.Sound.collLoop {k : Nat} (hs : s.Sound K) : (s.collLoop k).Sound K := by
  unfold State.collLoop
  exact hs.stepEvent fun _ _ h1 => .ite (.error trivial) (.ite (.bind_plain (CollStop.Sound.loopEnd h1) fun _ => .pure h1) (.pure h1))

theorem State.Sound.collEndloop {k : Nat} (hs : s.Sound K) : (s.collEndloop k).Sound K :=
  hs.stepEvent fun _ _ h1 => .ite (.error trivial) (.ite (.ok h1) (.ok h1))
theorem State.Sound.collPeer {k : Nat} (hs : s.Sound K) : (s.collPeer k).Sound K := hs.stepEvent fun _ _ h1 => ExceptSound.ok h1
theorem State.Sound.rowArea {e : StepEnv} {r : Nat} (hs : s.Sound K) : ExceptSound (CollStop.Sound K) K (s.rowArea e r) :=
  hs.rankEntry.map fun _ h1 => h1
theorem State.Sound.fixedRow {e : StepEnv} {r : Nat} (hs : s.Sound K) : ExceptSound (CollStop.Sound K) K (s.fixedRow e r) :=
  .ite (hs.collRead.map fun _ h1 => h1) (.ok hs)
theorem State.Sound.rowsGranted {e : StepEnv} {pkg va row : Nat} (hs : s.Sound K) :
    ExceptSound (CollStop.Sound K) K (s.rowsGranted e pkg va row) :=
  .ite (.ok hs) (hs.collWords.bind fun _ h1 => h1.transfer.bind fun _ h2 => .pure h2)

theorem State.Sound.collPutr {k : Nat} (hs : s.Sound K) : (s.collPutr k).Sound K := by
  unfold State.collPutr
  dsimp only
  refine hs.stepEvent fun _ _ h1 => ?_
  refine .ite (.error trivial) ?_
  split
  · exact .ok h1
  · exact .ite (.ok h1) (h1.transfer.bind fun _ h2 => .pure h2)
  · exact .ok h1
  · exact h1.rowArea.bind fun _ h2 => .ite (.pure h2) (h2.fixedRow.bind fun _ h3 => h3.transfer.bind fun _ h4 =>
      ExceptSound.pure h4)

theorem State.Sound.putrReserve {k row t : Nat} (hs : s.Sound K) : (s.putrReserve k row t).Sound K := by
  unfold State.putrReserve
  dsimp only
  refine hs.stepEvent fun _ _ h1 => ?_
  split
  · refine (h1.fixedRow.bind ?_).ite (.ite (.ok h1) (.ite (.ok h1) h1.modCmd.rowsGranted))
    intro p h2
    split
    · rename_i e3
      exact .error (.peerStop (h2.peerReserve.of_error e3))
    · rename_i e3
      exact (h2.peerReserve.of_ok e3).modCmd.rowsGranted
  · exact .ok h1

theorem State.Sound.collEnd {k : Nat} (hs : s.Sound K) : (s.collEnd k).Sound K := hs.stepEvent fun _ _ h1 => ExceptSound.ok h1

theorem State.Sound.readChannels {c : Cmd} {t : Team} {args : List Byte} {st : CollState} {chs : List Nat} (hs : s.Sound K) :
    ExceptSound (CollStop.Sound K) K (s.readChannels c t args st chs) := by
  induction chs generalizing s st with
  | nil => exact .ok hs
  | cons ch chs ih =>
    unfold State.readChannels
    exact .bind hs.channel fun p h => ih h

theorem State.Sound.collStart {c : Cmd} {t : Team} {st : CollState} (hs : s.Sound K) : (s.collStart c t st).Sound K := by
  unfold State.collStart
  dsimp only
  split
  · rename_i e1
    exact hs.modCmd.collFails ((ExceptSound.ite (.pure hs) (hs.collRead.bind fun _ h1 => h1.readChannels)).of_error e1)
  · exact hs
  · rename_i e1
    exact ((ExceptSound.ite (.pure hs) (hs.collRead.bind fun _ h1 => h1.readChannels)).of_ok e1).modCmd

theorem State.Sound.cprog {k : Nat} (hs : s.Sound K) : (s.cprog k).Sound K := by
  unfold State.cprog
  dsimp only
  split
  · exact hs
  · refine hs.ite (hs.startCmd ?_)
    intro s1 c t h1
    split
    · exact h1.collStart.ite h1.collClose
    · exact h1.collStart

theorem State.Sound.slotReread {k : Nat} (hs : s.Sound K) : (s.slotReread k).Sound K := by
  unfold State.slotReread
  split
  · exact hs
  · split
    · exact hs
    · refine hs.ite ?_
      split
      · exact hs.collSend
      · exact hs.collSend
      · exact hs.collRecv
      · exact hs.collRrs
      · exact hs

theorem State.Sound.cprogTimeout {k : Nat} (hs : s.Sound K) : (s.cprogTimeout k).Sound K := by
  unfold State.cprogTimeout
  split
  · exact hs
  · split
    · split
      · exact hs.collEnds.ite hs
      · exact hs
    · exact hs

theorem State.Sound.copyredAck {c : Cmd} {st : CollState} {failed : Bool} (hs : s.Sound K) : (s.copyredAck c st failed).Sound K := by
  unfold State.copyredAck
  dsimp only
  split
  · exact hs
  · refine hs.modCmd.ite ?_
    split
    · exact hs.modCmd.cmdError
    · exact hs.modCmd.cmdEnds

theorem State.Sound.fabricAck {k seq value : Nat} (hs : s.Sound K) : (s.fabricAck k seq value).Sound K := by
  unfold State.fabricAck
  dsimp only
  split
  · exact hs
  · split
    · exact hs
    · split
      · exact hs
      · refine hs.modCmd.copyredAck.ite (hs.modCmd.collClose.ite ?_)
        split
        · exact hs.modCmd.collEnds
        · exact hs.modCmd.collEnds
        · exact hs.modCmd.collClose

theorem State.Sound.copyredWord {c : Cmd} {t : Team} {i : Nat} (hs : s.Sound K) : (Sys2Proof.Machine.copyredWord c t i s).Sound K := by
  unfold Sys2Proof.Machine.copyredWord
  split
  · rename_i e1
    exact hs.engineRead.of_fail e1
  · rename_i e1
    exact (hs.engineRead.of_ok e1).engineCombine

theorem State.Sound.copyredOwn {c : Cmd} {t : Team} {i : Nat} (hs : s.Sound K) : (Sys2Proof.Machine.copyredOwn c t i s).Sound K := by
  unfold Sys2Proof.Machine.copyredOwn
  split
  · rename_i e1
    exact hs.engineRead.of_fail e1
  · rename_i e1
    have h1 := hs.engineRead.of_ok e1
    split
    · rename_i e2
      exact .done (h1.peerCombine.of_ok e2)
    · exact trivial
    · rename_i e2
      exact h1.peerCombine.of_error e2

theorem State.Sound.copyredSend {c : Cmd} {t : Team} (hs : s.Sound K) : (s.copyredSend c t).Sound K := by
  unfold State.copyredSend
  dsimp only
  split
  · rename_i e1
    exact hs.cmdFails ((hs.engineWords _).of_fail e1)
  · rename_i e1
    have h1 := (hs.engineWords _).of_ok e1
    exact h1.upd.modCmd.cmdEnds.ite h1.upd.modCmd

theorem State.Sound.copyred {k : Nat} {done : List Nat} (hs : s.Sound K) : (s.copyred k done).Sound K :=
  hs.startCmd fun _ _ _ h1 => (h1.runCmd fun _ _ h2 => h2.copyredWord).ite (h1.ite ((h1.runCmd fun _ _ h2 => h2.copyredOwn).ite
    (h1.cmdError.ite h1.copyredSend)))

/-! ### Mgmt -/

theorem State.Sound.modDev {f : Device → Device} (hs : s.Sound K) (hf : (f s.dev).meas = s.dev.meas := by rfl) : (s.modDev f).Sound K :=
  hs.upd hf

theorem State.Sound.extendMeas {i : Nat} {d : BitVec 512} (hs : s.Sound K) (hK : ∀ m, K m) : (s.extendMeas i d).Sound K :=
  ⟨hs.1, hK _⟩

theorem State.Sound.runStages {i : Nat} {l : List (BitVec 512 × Bool)} (hs : s.Sound K) (hK : ∀ m, K m) : (s.runStages i l).1.Sound K := by
  induction l generalizing s i with
  | nil => exact hs
  | cons e l ih =>
    unfold State.runStages
    extract_lets s1
    have h1 : s1.Sound K := hs.extendMeas hK
    split
    · exact ih h1
    · exact h1

theorem State.Sound.wiped (hs : s.Sound K) (hK : ∀ m, K m) : (s.wiped).Sound K :=
  ⟨hs.1, hK _⟩

theorem State.Sound.openAudit {mirrorOk : Bool} {verified : Nat} (hs : s.Sound K) : (s.openAudit mirrorOk verified).Sound K :=
  (hs.modDev.ite ((hs.modDev.deviceRecord.ite hs.modDev).ite hs.modDev.modDev.deviceRecord)).flushAudit
theorem State.Sound.startFails (hs : s.Sound K) : s.startFails.Sound K := hs.modDev

theorem State.Sound.trainFails {ks : List Nat} (hs : s.Sound K) : (s.trainFails ks).Sound K :=
  hs.foldl fun _ _ h => h.deviceRecord

theorem State.Sound.spareMap {bad : List (Nat × Nat)} (hs : s.Sound K) : (s.spareMap bad).Sound K := by
  unfold State.spareMap
  refine hs.modDev ?_
  refine List.foldlRecOn (motive := fun v : Device => v.meas = s.dev.meas) _ _ rfl fun v hv c _ => ?_
  split
  · exact hv
  · exact hv

theorem State.Sound.testRecords {bad : List (Nat × Nat)} (hs : s.Sound K) : (s.testRecords bad).Sound K :=
  hs.foldl fun _ _ h1 => h1.deviceRecord.deviceRecord.ite h1.deviceRecord
theorem State.Sound.trainLinks {links modules : List Nat} (hs : s.Sound K) : (s.trainLinks links modules).Sound K :=
  hs.modDev.foldl fun _ _ h1 => h1.deviceRecord
theorem State.Sound.startEnds {r : StartReport} (hs : s.Sound K) : (s.startEnds r).Sound K :=
  hs.trainLinks.modDev.ite hs.trainLinks.note.modDev

theorem State.Sound.coldStart {r : StartReport} (hs : s.Sound K) (hK : ∀ m, K m) : (s.coldStart r).Sound K := by
  unfold State.coldStart
  extract_lets full s0 s1 s2
  have h2 : s2.Sound K := ⟨⟨cdrop_wf _ _ hs.1.1, hs.1.2⟩, hK _⟩
  split
  · rename_i e3
    exact ((h2.runStages hK).of_eq e3).openAudit.deviceRecord.startFails
  · rename_i e3
    have h3 := (h2.runStages hK).of_eq e3
    exact h3.openAudit.trainFails.startFails.ite h3.spareMap.openAudit.testRecords.startEnds

theorem State.Sound.warmStart {r : StartReport} (hs : s.Sound K) (hK : ∀ m, K m) : (s.warmStart r).Sound K := by
  unfold State.warmStart
  extract_lets s0 s1
  have h1 : s1.Sound K := ⟨⟨cdrop_wf _ _ hs.1.1, hs.1.2⟩, hK _⟩
  split
  · rename_i e2
    exact ((h1.runStages hK).of_eq e2).deviceRecord.startFails
  · rename_i e2
    have h2 := (h1.runStages hK).of_eq e2
    refine .ite ?_ h2.startEnds
    exact h2.modDev.trainFails.startFails.ite h2.modDev.spareMap.testRecords.startEnds

theorem State.Sound.powerOn {r : StartReport} (hs : s.Sound K) (hK : ∀ m, K m) : (s.powerOn r).Sound K :=
  State.Sound.coldStart ⟨⟨rfl, hs.1.2⟩, hK _⟩ hK

theorem State.Sound.coldReset {r : StartReport} (hs : s.Sound K) (hK : ∀ m, K m) : (s.coldReset r).Sound K := by
  unfold State.coldReset
  exact hs.ite (hs.coldStart hK)

theorem State.Sound.warmReset {r : StartReport} (hs : s.Sound K) (hK : ∀ m, K m) : (s.warmReset r).Sound K := by
  unfold State.warmReset
  exact hs.ite (hs.warmStart hK)

theorem State.Sound.memoryClearDone {k : Nat} (hs : s.Sound K) : (s.memoryClearDone k).Sound K := by
  unfold State.memoryClearDone
  split
  · exact hs
  · extract_lets inside v s1
    have h1 : s1.Sound K := ⟨⟨cdrop_wf _ _ hs.1.1, hs.1.2⟩, hs.2⟩
    exact h1.ite h1.note

theorem State.Sound.fromHost {f : State → State} (hs : s.Sound K) (hf : ∀ s, s.Sound K → (f s).Sound K) : (s.fromHost f).Sound K :=
  (hf _ hs).ite hs
theorem State.Sound.managementDoorbell {tail : BitVec 32} (hs : s.Sound K) : (s.managementDoorbell tail).Sound K :=
  hs.fromHost fun _ h1 => h1.modDev

theorem State.Sound.registerWrite {offset : Nat} {value : BitVec 64} (hs : s.Sound K) : (s.registerWrite offset value).Sound K := by
  unfold State.registerWrite
  dsimp only
  refine hs.ite ?_
  split
  · exact hs.managementDoorbell
  · exact hs.ite hs.modDev
  · exact hs.ite hs.modDev
  · split
    · exact hs.launchDoorbell
    · exact hs

theorem State.Sound.ifNamed {reply : Nat} {fields : List (Nat × Nat × Nat)} {f : State → State} (hs : s.Sound K) (hf : ∀ s, s.Sound K → (f s).Sound K) :
    (s.ifNamed reply fields f).Sound K :=
  (hf _ hs).ite hs
theorem State.Sound.performed {code : Nat} {detail : List Byte} (hs : s.Sound K) : (s.performed code detail).Sound K := hs.reply.modDev
theorem State.Sound.refuse (hs : s.Sound K) : s.refuse.Sound K := hs.performed

theorem State.Sound.command {when_ : CmdTime} {key : List Nat} {f : State → State} (hs : s.Sound K) (hf : ∀ s, s.Sound K → (f s).Sound K) :
    (s.command when_ key f).Sound K := by
  unfold State.command
  dsimp only
  refine hs.ite ((hs.refuse.ite hs).ite ?_)
  split
  · exact hf _ hs
  · exact hs.refuse.ite (hf _ hs)
  · exact (hf _ hs).ite hs.refuse
  · exact hs

theorem State.Sound.begin_ {key : List Nat} (hs : s.Sound K) : (s.begin_ key).1.Sound K := by
  unfold State.begin_
  dsimp only
  split
  · exact hs
  · exact hs.upd

theorem State.Sound.feature {request : BitVec 128} (hs : s.Sound K) : (s.feature request).Sound K :=
  hs.command fun _ h1 => h1.ite (h1.refuse.ite (h1.modDev.ite h1).note.performed)

theorem State.Sound.fwload {regs : List Nat} {digest : BitVec 512} {sigOk : Bool} (hs : s.Sound K) (hK : ∀ m, K m) :
    (s.fwload regs digest sigOk).Sound K := by
  unfold State.fwload
  refine hs.command fun s1 h1 => ?_
  split
  · exact h1.refuse
  · exact h1.refuse.ite ((h1.extendMeas hK).note.performed.ite (h1.extendMeas hK).deviceRecord.refuse)

theorem State.Sound.answers {bs : List Byte} (hs : s.Sound K) : (s.answers bs).Sound K := by
  unfold State.answers
  exact hs.performed.putHost

theorem State.Sound.attest {nonce : BitVec 256} (hs : s.Sound K) : (s.attest nonce).Sound K := by
  unfold State.attest
  exact hs.command fun _ h => h.answers

theorem State.Sound.logsign (hs : s.Sound K) : s.logsign.Sound K := by
  unfold State.logsign
  exact hs.command fun _ h => h.answers

theorem State.Sound.logread {count : Nat} (hs : s.Sound K) : (s.logread count).Sound K :=
  hs.command fun _ h1 => h1.modDev.flushAudit.answers
theorem State.Sound.create {record : List Byte} (hs : s.Sound K) : (s.create record).Sound K :=
  hs.command fun _ h1 => h1.refuse.ite h1.upd.note.performed

theorem State.Sound.discardContext {c : Context} (hs : s.Sound K) : (s.discardContext c).Sound K := by
  unfold State.discardContext
  dsimp only
  refine (State.Sound.note ?_).note
  split
  · exact hs.upd.stepOver.ite hs.upd
  · exact hs.upd

theorem State.Sound.release {ctx : Nat} (hs : s.Sound K) : (s.release ctx).Sound K := by
  unfold State.release
  dsimp only
  refine hs.command fun _ h1 => ?_
  split
  · exact h1.refuse
  · exact h1.refuse.ite (h1.begin_.modCtx.ite h1.begin_.modCtx.discardContext.performed)

theorem State.Sound.saveTeams {p : Team → Bool} (hs : s.Sound K) : (s.saveTeams p).Sound K := hs.upd

theorem State.Sound.saveCommand {key : List Nat} {ctx : Nat} {p : Team → Bool} (hs : s.Sound K) : (s.saveCommand key ctx p).Sound K := by
  unfold State.saveCommand
  dsimp only
  split
  · exact hs.refuse
  · exact (hs.begin_.saveTeams.ite hs.begin_).ite (hs.begin_.saveTeams.ite hs.begin_).performed

theorem State.Sound.switch {ctx : Nat} (hs : s.Sound K) : (s.switch ctx).Sound K := hs.command fun _ h1 => h1.saveCommand
theorem State.Sound.preempt {ctx queue k : Nat} (hs : s.Sound K) : (s.preempt ctx queue k).Sound K := hs.command fun _ h1 => h1.saveCommand

theorem State.Sound.invalidate (hs : s.Sound K) : s.invalidate.Sound K := by
  unfold State.invalidate
  dsimp only
  refine hs.command fun _ h1 => ?_
  split
  · exact h1.refuse
  · exact h1.refuse.ite ((h1.begin_.upd.ite h1.begin_).ite (h1.begin_.upd.ite h1.begin_).performed)

theorem State.Sound.repairBegins {die core : Nat} (hs : s.Sound K) : (s.repairBegins die core).Sound K := hs.modCore.upd

theorem State.Sound.takeSpare {die : Nat} (hs : s.Sound K) : (s.takeSpare die).1.Sound K := by
  unfold State.takeSpare
  split
  · exact hs
  · dsimp only
    exact hs.modDev

theorem State.Sound.repairStarts {die core : Nat} (hs : s.Sound K) : (s.repairStarts die core).Sound K :=
  hs.ite hs.takeSpare.repairBegins.modDev
theorem State.Sound.repairEnds {die core : Nat} (hs : s.Sound K) : (s.repairEnds die core).Sound K := hs.modCore.note

theorem State.Sound.retireCore {die core : Nat} (hs : s.Sound K) : (s.retireCore die core).Sound K := by
  unfold State.retireCore
  dsimp only
  refine (hs.foldl ?_).modCore.modDev.deviceRecord
  intro s1 a h1
  split
  · exact h1
  · exact h1.teamAction.settle.ite h1.modTeam

theorem State.Sound.repair {die core : Nat} (hs : s.Sound K) : (s.repair die core).Sound K := by
  unfold State.repair
  dsimp only
  split
  · exact hs.ite (hs.modDev.repairEnds.ite hs.modDev.retireCore)
  · exact hs.command fun _ h1 => h1.refuse.ite ((h1.begin_.takeSpare.repairBegins.ite h1.begin_).repairEnds.performed.ite
      ((h1.begin_.takeSpare.repairBegins.ite h1.begin_).modDev.performed.ite (h1.begin_.takeSpare.repairBegins.ite h1.begin_)))

theorem State.Sound.errctl (hs : s.Sound K) : s.errctl.Sound K := by
  unfold State.errctl
  dsimp only
  refine hs.command fun _ h1 => ?_
  refine h1.refuse.ite (h1.modDev.performed.ite ?_)
  split
  · exact h1.refuse
  · exact h1.modCtx.performed

theorem State.Sound.resolveRetry {ctx base len : Nat} (hs : s.Sound K) : (s.resolveRetry ctx base len).Sound K := hs.upd.modCtx

theorem State.Sound.resolveFailCmd {c : Cmd} {ph : Nat} (hs : s.Sound K) : (s.resolveFailCmd c ph).Sound K := by
  unfold State.resolveFailCmd
  dsimp only
  split
  · split
    · exact hs.collStops
    · exact hs.cmdEnds
  · exact hs.modCmd
  · exact hs.upd

theorem State.Sound.resolveFailTeam {t : Team} {base len : Nat} (hs : s.Sound K) : (s.resolveFailTeam t base len).Sound K := by
  unfold State.resolveFailTeam
  dsimp only
  split
  · exact (hs.foldl fun _ _ h1 => h1.resolveFailCmd).teamAction.settle
  · exact (hs.foldl fun _ _ h1 => h1.resolveFailCmd).teamAction.settle
  · exact hs.foldl fun _ _ h1 => h1.resolveFailCmd

theorem State.Sound.resolveFail {ctx base len : Nat} (hs : s.Sound K) : (s.resolveFail ctx base len).Sound K := by
  unfold State.resolveFail
  dsimp only
  split
  · exact hs.foldl fun _ _ h1 => h1.resolveFailTeam
  · split
    · exact hs.foldl fun _ _ h1 => h1.resolveFailTeam
    · exact (hs.foldl fun _ _ h1 => h1.resolveFailTeam).modCtx.stopAction

theorem State.Sound.resolve_ (hs : s.Sound K) : s.resolve_.Sound K := by
  unfold State.resolve_
  dsimp only
  refine hs.command fun _ h1 => ?_
  split
  · exact h1.refuse
  · refine h1.refuse.ite ?_
    split
    · exact h1.resolveRetry.performed
    · exact h1.resolveFail.performed
    · exact h1.refuse

theorem State.Sound.debug {op : Nat} {f : State → Context → DebugCmd → State} (hs : s.Sound K)
    (hf : ∀ s c d, s.Sound K → (f s c d).Sound K) : (s.debug op f).Sound K := by
  unfold State.debug
  dsimp only
  refine hs.command fun _ h1 => ?_
  refine (h1.refuse.ite h1).ite ?_
  split
  · exact hf _ _ _ h1
  · exact h1.refuse

theorem State.Sound.debugSetMode (hs : s.Sound K) : s.debugSetMode.Sound K := hs.debug fun _ _ _ h1 => h1.refuse.ite h1.modCtx.performed
theorem State.Sound.setbp (hs : s.Sound K) : s.setbp.Sound K := hs.debug fun _ _ _ h1 => h1.refuse.ite h1.modCore.performed
theorem State.Sound.clrbp (hs : s.Sound K) : s.clrbp.Sound K := hs.debug fun _ _ _ h1 => h1.refuse.ite h1.modCore.performed

theorem State.Sound.debugThreads {op : Nat} {f : State → Context → Team → Nat → State} (hs : s.Sound K)
    (hf : ∀ s c t n, s.Sound K → (f s c t n).Sound K) : (s.debugThreads op f).Sound K := by
  unfold State.debugThreads
  refine hs.debug fun _ _ _ h1 => ?_
  split
  · exact h1.refuse
  · exact (hf _ _ _ _ h1).performed.ite h1.refuse

theorem State.Sound.debugStopCmd (hs : s.Sound K) : s.debugStopCmd.Sound K := hs.debugThreads fun _ _ _ _ h1 => h1.modTeam
theorem State.Sound.goOn {t : Team} {r : Nat} (hs : s.Sound K) : (s.goOn t r).Sound K := hs.ranAgain.modThread
theorem State.Sound.debugResume (hs : s.Sound K) : s.debugResume.Sound K :=
  hs.debugThreads fun _ _ _ _ h1 => (h1.foldl fun _ _ h2 => h2.goOn).settle

theorem State.Sound.debugStep (hs : s.Sound K) : s.debugStep.Sound K := by
  unfold State.debugStep
  refine hs.debug fun s1 c d h1 => ?_
  split
  · exact h1.refuse
  · split
    · exact h1.refuse
    · rename_i t _ _ _ _
      refine h1.refuse.ite ?_
      extract_lets go
      have h2 : ((s1.goOn t d.lrank).modThread t.id d.lrank go).Sound K := h1.goOn.modThread
      exact ⟨h2.1, h1.2⟩

theorem State.Sound.dump (hs : s.Sound K) : s.dump.Sound K := by
  unfold State.dump
  refine hs.debug fun _ _ _ h1 => ?_
  split
  · exact h1.refuse
  · exact h1.dumpTeam.performed

theorem State.Sound.debugLoad (hs : s.Sound K) : s.debugLoad.Sound K := by
  unfold State.debugLoad
  refine hs.debug fun s1 c d h1 => ?_
  split
  · exact h1.refuse
  · split
    · exact h1.dataRecord.refuse
    · split
      · exact h1.refuse
      · rename_i e2
        exact (h1.loadTeam e2).performed

/-! ### DeviceEvents -/

theorem State.Sound.setLanes {link lanes : Nat} (hs : s.Sound K) : (s.setLanes link lanes).Sound K := hs.modDev
theorem State.Sound.laneLost {link lanes : Nat} (hs : s.Sound K) : (s.laneLost link lanes).Sound K := hs.ite hs.setLanes.deviceRecord.note

theorem State.Sound.cutOff {c : Cmd} (hs : s.Sound K) : (s.cutOff c).Sound K := by
  unfold State.cutOff
  split
  · exact hs.foldl fun _ _ h1 => h1.fabricAck
  · exact hs

theorem State.Sound.linkDown {link : Nat} (hs : s.Sound K) : (s.linkDown link).Sound K :=
  hs.ite (hs.setLanes.deviceRecord.foldl fun _ _ h1 => h1.cutOff)
theorem State.Sound.damagedFlit {_link : Nat} (hs : s.Sound K) : (s.damagedFlit _link).Sound K := hs
theorem State.Sound.stopAll {p : Context → Bool} {die cls detail : Nat} (hs : s.Sound K) : (s.stopAll p die cls detail).Sound K :=
  hs.foldl fun _ _ h1 => h1.stopAction
theorem State.Sound.drift {die : Nat} {lead : Int} (hs : s.Sound K) : (s.drift die lead).Sound K := hs.ite hs.upd
theorem State.Sound.timeBaseCompare {die : Nat} {lead : Int} {lost : Bool} (hs : s.Sound K) :
    (s.timeBaseCompare die lead lost).Sound K :=
  hs.stopAll.deviceRecord.ite (hs.drift.upd.deviceRecord.ite (hs.drift.upd.deviceRecord.ite hs.drift))
theorem State.Sound.modGroup {die group : Nat} {f : GroupClock → GroupClock} (hs : s.Sound K) : (s.modGroup die group f).Sound K := hs.upd

theorem State.Sound.thermal {die group temp : Nat} (hs : s.Sound K) : (s.thermal die group temp).Sound K := by
  unfold State.thermal
  dsimp only
  split
  · exact hs
  · exact hs.deviceRecord.stopAll.modDev.ite (hs.ite hs.modGroup.deviceRecord)

theorem State.Sound.drooped {die group : Nat} (hs : s.Sound K) : (s.drooped die group).Sound K := hs.modGroup.deviceRecord
theorem State.Sound.processLow {die group core : Nat} (hs : s.Sound K) : (s.processLow die group core).Sound K :=
  hs.modGroup.deviceRecord.repairStarts

theorem State.Sound.monitorReading {die group temp : Nat} {droop : Bool} {proc : Option Nat} (hs : s.Sound K) :
    (s.monitorReading die group temp droop proc).Sound K := by
  unfold State.monitorReading
  dsimp only
  split
  · exact (hs.thermal.drooped.ite hs.thermal).processLow.ite (hs.thermal.drooped.ite hs.thermal)
  · exact hs.thermal.drooped.ite hs.thermal

theorem State.Sound.droopRestore {die group : Nat} (hs : s.Sound K) : (s.droopRestore die group).Sound K := by
  unfold State.droopRestore
  dsimp only
  split
  · exact hs
  · exact hs.ite hs.modGroup

theorem State.Sound.rewriteMirror (hs : s.Sound K) : s.rewriteMirror.Sound K :=
  ⟨⟨List.foldlRecOn (motive := fun m => Memory.wf m = true) _ _ hs.1.1 fun _ hm _ _ => putBytes_wf _ _ _ hm, hs.1.2⟩, hs.2⟩

theorem State.Sound.auditChainCheck {mirrorOk sramOk : Bool} (hs : s.Sound K) : (s.auditChainCheck mirrorOk sramOk).Sound K := by
  unfold State.auditChainCheck
  dsimp only
  refine hs.modDev.ite ?_
  split
  · exact hs.rewriteMirror.dataRecord.deviceRecord
  · exact hs.ite hs.rewriteMirror.deviceRecord

theorem State.Sound.tlbDrop {die : Nat} {core : Option Nat} {ctx wa : Nat} (hs : s.Sound K) : (s.tlbDrop die core ctx wa).Sound K := by
  unfold State.tlbDrop
  split
  · exact hs.modCore
  · exact hs.upd

theorem State.Sound.befalls {e : Outside} (hs : s.Sound K) : (s.befalls e).Sound K := by
  cases e with
  | corrected => exact hs.correctedAt
  | correctedIn => exact hs.correctedIn
  | control => exact hs.repairStarts
  | tlb => exact hs.tlbDrop
  | sram => exact hs.ite hs.modDev
  | l1 => exact hs.modCore
  | icache => exact hs.modCore
  | note => exact hs.audit.ite hs
  | host => exact hs.putHost

/-! ### One instruction and one step of the device -/

/-- The next state that an outcome holds, if any, is sound. -/
inductive OutSound (K : List (BitVec 512) → Prop) : Out → Prop
  | next {t : State} (h : t.Sound K) : OutSound K (.next t)
  | fault {f : Fault} : OutSound K (.fault f)
  | refused {r : Refusal} : OutSound K (.refused r)

theorem OutSound.of_next {o : Out} {t : State} (h : OutSound K o) (ho : o = .next t) : t.Sound K := by
  subst ho
  cases h with
  | next h => exact h

/-- The starts and FWLOAD, which set measurement registers (R346). -/
def setsMeasurements : Instr → Bool
  | .powerOn _ | .coldReset _ | .warmReset _ | .fwload _ _ _ _ => true
  | _ => false

/-- Every instruction answers a sound state, where `K` allows all measurements if it is one that sets them. -/
theorem State.Sound.exec {i : Instr} (hs : s.Sound K) (hK : setsMeasurements i = true → ∀ m, K m) : OutSound K (exec i s) := by
  cases i with
  | powerOn => exact .next (hs.powerOn (hK rfl))
  | coldReset => exact .next (hs.coldReset (hK rfl))
  | warmReset => exact .next (hs.warmReset (hK rfl))
  | memoryClearDone => exact .next hs.memoryClearDone
  | managementDoorbell => exact .next hs.managementDoorbell
  | registerWrite => exact .next hs.registerWrite
  | feature => exact .next (hs.ifNamed fun _ h1 => h1.feature)
  | create => exact .next (hs.ifNamed fun _ h1 => h1.create)
  | release => exact .next (hs.ifNamed fun _ h1 => h1.release)
  | switch => exact .next (hs.ifNamed fun _ h1 => h1.switch)
  | preempt => exact .next (hs.ifNamed fun _ h1 => h1.preempt)
  | invalidate => exact .next (hs.ifNamed fun _ h1 => h1.invalidate)
  | fwload => exact .next (hs.ifNamed fun _ h1 => h1.fwload (hK rfl))
  | attest => exact .next (hs.ifNamed fun _ h1 => h1.attest)
  | logread => exact .next (hs.ifNamed fun _ h1 => h1.logread)
  | logsign => exact .next (hs.ifNamed fun _ h1 => h1.logsign)
  | repair => exact .next (hs.repair.ite (hs.ifNamed fun _ h1 => h1.repair))
  | errctl => exact .next (hs.ifNamed fun _ h1 => h1.errctl)
  | resolve => exact .next (hs.ifNamed fun _ h1 => h1.resolve_)
  | debugMode => exact .next (hs.ifNamed fun _ h1 => h1.debugSetMode)
  | setbp => exact .next (hs.ifNamed fun _ h1 => h1.setbp)
  | clrbp => exact .next (hs.ifNamed fun _ h1 => h1.clrbp)
  | debugStop => exact .next (hs.ifNamed fun _ h1 => h1.debugStopCmd)
  | debugResume => exact .next (hs.ifNamed fun _ h1 => h1.debugResume)
  | debugStep => exact .next (hs.ifNamed fun _ h1 => h1.debugStep)
  | dump => exact .next (hs.ifNamed fun _ h1 => h1.dump)
  | debugLoad => exact .next (hs.ifNamed fun _ h1 => h1.debugLoad)
  | launchDoorbell => exact .next (hs.fromHost fun _ h1 => h1.launchDoorbell)
  | launchStart => exact .next hs.launchStart
  | dependenceRecheck => exact .next hs.dependenceRecheck
  | teamPlacement => exact .next hs.teamPlacement
  | launchCompletion => exact .next hs.launchCompletion
  | packetIssue => exact .next hs.packetIssue
  | threadAging => exact .next hs.threadAging
  | yieldExpiry => exact .next hs.yieldExpiry
  | loadCompletion => exact .next hs.loadCompletion
  | trackedOpCompletion => exact .next hs.trackedCompletion
  | writeCompletionReturn => exact .next hs.writeReturn
  | storeAtHome => exact .next hs.storeAtHome
  | atomicAtHome => exact .next hs.atomicAtHome
  | redAtDieL2 => exact .next hs.redAtDieL2
  | l1Fill => exact .next hs.l1Fill
  | leaseExpiry => exact .next hs.leaseExpiry
  | hostCxlWrite => exact .next (hs.fromHost fun _ h1 => h1.hostWrite)
  | pageWalk => exact .next hs.pageWalk
  | hbmSpare => exact .next hs.hbmSpare
  | localityWindowEnd => exact .next hs.localityWindow
  | permitIncrease => exact .next hs.permitIncrease
  | permitRotation => exact .next hs.permitRotation
  | forkReservation => exact .next hs.forkReservation
  | join => exact .next hs.join
  | barrierRelease => exact .next hs.barrierRelease
  | bowArrival => exact .next hs.bowArrival
  | rendezvousWatchdog => exact .next hs.watchdog
  | trapEntry => exact .next hs.trapEntry
  | teamSave => exact .next hs.teamSave
  | openWindowLimit => exact .next hs.openWindowLimit
  | teamRestore => exact .next hs.teamRestore
  | commandGo => exact .next hs.commandGo
  | commandAcceptance => exact .next hs.commandAcceptance
  | commandCompletion => exact .next hs.commandCompletion
  | notifyRelease => exact .next hs.notifyRelease
  | mmaOperandsConsumed => exact .next hs.operandsConsumed
  | copy => exact .next hs.copy
  | copynd => exact .next hs.copynd
  | copyred => exact .next hs.copyred
  | fill => exact .next hs.fill
  | osbload => exact .next hs.osbload
  | accmove => exact .next hs.accmove
  | mma | mmas => exact .next hs.mma
  | launch => exact .next hs.launchCmd
  | launchQfullTimeout => exact .next hs.launchTimeout
  | attn => exact .next hs.attn
  | attnVisit => exact .next hs.attnVisit
  | attnParkResume => exact .next hs.attnParkResume
  | attnUnstable => exact .next hs.attnUnstable
  | kapp => exact .next hs.kapp
  | kreq => exact .next hs.kreq
  | krot => exact .next hs.krot
  | ksum => exact .next hs.ksum
  | ktrunc => exact .next hs.ktrunc
  | blockClaimRetry => exact .next hs.claimRetry
  | maintenanceBusy => exact .next hs.maintenanceBusy
  | cprog => exact .next hs.cprog
  | send => exact .next hs.collSend
  | recv => exact .next hs.collRecv
  | rrs => exact .next hs.collRrs
  | cprogCopy => exact .next hs.collCopy
  | cprogWait => exact .next hs.collWait
  | notify => exact .next hs.collNotify
  | loop => exact .next hs.collLoop
  | endloop => exact .next hs.collEndloop
  | peer => exact .next hs.collPeer
  | putr => exact .next hs.collPutr
  | endStep => exact .next hs.collEnd
  | putrReserve => exact .next hs.putrReserve
  | slotHeaderReread => exact .next hs.slotReread
  | cprogTimeout => exact .next hs.cprogTimeout
  | fabricWriteArrival => exact .next hs.fabricArrival
  | fabricAck => exact .next hs.fabricAck
  | lane => exact .next hs.laneLost
  | linkdown => exact .next hs.linkDown
  | timeBaseCompare => exact .next hs.timeBaseCompare
  | monitorReading => exact .next hs.monitorReading
  | droopRestore => exact .next hs.droopRestore
  | auditChainCheck => exact .next hs.auditChainCheck
  | uadd | usub | umul | uand | uor | uxor | ushl | ushr | uaddImm | usubImm | umulImm | uandImm | uorImm | uxorImm | ushlImm | ushrImm
  | movSFromV | mov64SFromV | movUniformImm => exact .next hs.uni
  | movVFromS | mov64VFromS | ucmp => exact .next hs.allLanes
  | frcpF32 | frsqF32 | fsqrtF32 | fexp2F32 | flog2F32 | ftanhF32 | fsinF32 | fcosF32 => exact .next hs.special
  | xadd | xsub | xmul | xdiv | xfma | xsqrt | xneg | xabs | xmin | xmax | xcvtXfF32 | xcvtXfI32 | xcvtXfN32 | xcvtXfI64 | xcvtXfN64 | xrnd
  | xrint => exact .next hs.xfValue
  | xcvtF32Xf | xcvtI32Xf | xcvtN32Xf | xcvtI64Xf | xcvtN64Xf | xcmp => exact .next hs.xfPlain
  | setp | setrm | setx | addp | setpReg | clrxuf => exact .next hs.precTo
  | xld | xldR | xlds | xldsR => exact .next hs.xfLoads
  | xst | xstMin | xsts | xstsMin => exact .next hs.xfStores
  | ld32 | ld64 | ld128 | ldN8 | ldN16 | ldN16H0 | ldN16H1 | ldAcq32 | ldAcq64 | ldAcq128 | ldUniformBase | ld64UniformBase
    => exact .next hs.loads
  | st32 | st64 | st128 | stN8 | stN16 | stN16H1 | stRel32 | stRel64 | stRel128 | stUniformBase | st64UniformBase => exact .next hs.stores
  | atomAddI32 | atomMinI32 | atomMaxI32 | atomMinN32 | atomMaxN32 | atomAnd | atomOr | atomXor | atomExch | atomCas | atomAddI64
  | atomMaxN64 | atomExch64 | atomCas64 | atomOrdered => exact .next hs.atomics
  | red => exact .next hs.reds
  | fence | fenceAcq | fenceRel | waitc | waitcCons => exact .next hs.stall
  | prefetch | prefetchL2 => exact .next hs.prefetches
  | pluckAt | pluckBelow | pluckAbove | pluckFlip | pollAll | pollAny | pollMask | pollSame | gredAddI32 | gredMinI32 | gredMaxI32
  | gredMaxiN32 | gredAddF32 | gredMinF32 | gredMaxF32 | gredMaxiF32 | gscanAddI32 | gscanAddXI32 | gscanMaxI32 | gcompact | topk | gsync
    => exact .next hs.groupWord
  | push => exact .next hs.pushes
  | obres => exact .next hs.reserves
  | obrel => exact .next hs.releases
  | accrd | accrd128 => exact .next hs.accReads
  | accwr | accwr128 | accaddF32 | accaddI32 => exact .next hs.accWrites
  | waitany | waitall => exact .next hs.tagWaits
  | ffr => exact .next hs.findTag
  | bra => exact .next hs.branch
  | call | callx => exact .next hs.calls
  | ret => exact .next hs.rets
  | tcall => exact .next hs.teamCall
  | tret => exact .next hs.teamReturn
  | exit => exact .next hs.exits
  | brx => exact .next hs.jumps
  | tutti => exact .next hs.tutti
  | tuttiArv => exact .next hs.tuttiArv
  | tuttiWait => exact .next hs.tuttiWait
  | cbar | gbar => exact .next hs.wideBar
  | elect => exact .next hs.elects
  | bowwait => exact .next hs.bowWait
  | bowpass => exact .next hs.bowPass
  | setkeyImm | setkeyReg => exact .next hs.setKey
  | brk => exact .next hs.breaks
  | trap => exact .next hs.traps
  | yield => exact .next hs.yields
  | mfsrV => exact .next hs.mfsrV
  | mfsrU => exact .next hs.mfsrU
  | mtsrV | mtsrU => exact .next hs.mtsr
  | stallingWaitEnd => exact .next hs.stallingWaitEnd
  | damagedFlit => exact .next hs.damagedFlit
  | _ => exact .next hs.vec

theorem State.Sound.pass {clocks : Nat} (hs : s.Sound K) : (s.pass clocks).Sound K := by
  unfold State.pass
  exact hs.upd.releasesDue

theorem State.Sound.swapTo {k : Nat} (hs : s.Sound K) : (s.swapTo k).Sound K := by
  unfold State.swapTo
  split
  · exact hs
  · exact hs.upd

end Functions

section Step

variable {s : State}

theorem State.Sound.runSlot {b : Bundle} (hs : s.Sound fun _ => True) : OutSound (fun _ => True) (s.runSlot b) := by
  unfold State.runSlot
  split
  · exact .fault
  · split
    · rename_i e1
      exact .next ((hs.slotBegins.exec fun _ _ => trivial).of_next e1).advance
    · exact .fault
    · exact .refused

theorem State.Sound.default_ (hs : s.Sound fun _ => True) : OutSound (fun _ => True) s.default_ := by
  unfold State.default_
  split
  · dsimp only
    split
    · exact hs.turnTo.upd.runSlot
    · split
      · exact hs.turnTo.packetIssue.upd.runSlot
      · exact .next hs.turnTo.packetIssue.upd
  · dsimp only
    split
    · exact hs.pass.upd.exec fun _ _ => trivial
    · exact .next hs.pass.upd

/-- One step of the device keeps the canonical form. -/
theorem State.Sound.step (hs : s.Sound fun _ => True) : OutSound (fun _ => True) (step s) := by
  unfold Sys2Proof.Machine.step
  split
  · exact hs.default_
  · extract_lets s1 s2
    have h1 : s1.Sound fun _ => True := hs.upd.pass.foldl fun _ _ h => h.befalls
    have h2 : s2.Sound fun _ => True := by
      unfold s2
      split
      · exact h1.swapTo
      · exact h1
    split
    · split
      · exact h2.exec fun _ _ => trivial
      · exact .refused
    · exact h2.default_

/-- Settles O8: every function of the model leaves the memories in canonical form (`State.Sound`), so that every instruction does, and
with it every step. -/
theorem memoriesStayCanonical : Obligations.MemoriesStayCanonical := by
  intro s t hs h
  exact ((State.Sound.step ⟨hs, trivial⟩).of_next h).memories

end Step

end Sys2Proof.Machine

/-!
LAWS. Exact values and their rounding (R9, R71, R79): rounding at a place gives the nearest multiple of it, ties to even; the word of a format
holds it, and no number of the format lies nearer (O28); arithmetic on values is that of the rational numbers, and quotient and root
stand for the exact ones by their last bit (O27).
-/

namespace Sys2Proof.Machine

open Sys2Proof

/-! ### Rounding to a multiple -/

/-- The lower multiple is nearest to a remainder of at most half a unit. -/
theorem abs_remainder_le {r u : ℤ} (j : ℤ) (hr : 0 ≤ r) (hu : 0 < u) (h : 2 * r ≤ u) :
    |0 - r| ≤ |j * u - r| ∧ (|0 - r| = |j * u - r| → j ≠ 0 → 2 * r = u) := by
  have hj : j = 0 ∨ u ≤ j * u ∨ j * u ≤ -u := by
    rcases lt_trichotomy j 0 with h0 | h0 | h0
    · exact .inr (.inr (by nlinarith))
    · exact .inl h0
    · exact .inr (.inl (by nlinarith))
  rcases hj with rfl | hj | hj
  · simp
  · rw [abs_of_nonpos (by linarith), abs_of_nonneg (by linarith)]
    constructor <;> intros <;> linarith
  · rw [abs_of_nonpos (by linarith), abs_of_nonpos (by linarith)]
    constructor <;> intros <;> linarith

theorem roundShift_rne_nearest (neg : Bool) (x d : Nat) (k : ℤ) :
    |(roundShift .rne neg x d : ℤ) * 2 ^ d - x| ≤ |k * 2 ^ d - x| ∧
      (|(roundShift .rne neg x d : ℤ) * 2 ^ d - x| = |k * 2 ^ d - x| → k ≠ roundShift .rne neg x d → roundShift .rne neg x d % 2 = 0) := by
  have hx : (x : ℤ) = (x / 2 ^ d : ℕ) * 2 ^ d + (x % 2 ^ d : ℕ) := by
    exact_mod_cast (Nat.div_add_mod' x (2 ^ d)).symm
  have hr : x % 2 ^ d < 2 ^ d := Nat.mod_lt _ (by positivity)
  have hcast : ((2 ^ d : ℕ) : ℤ) = 2 ^ d := by push_cast; rfl
  unfold roundShift
  generalize x / 2 ^ d = q at *
  generalize x % 2 ^ d = r at *
  rw [hx, ← hcast]
  clear hx hcast
  generalize 2 ^ d = u at *
  have hu : (0 : ℤ) < u := by omega
  have low := abs_remainder_le (r := r) (u := u) (k - q) (by omega) hu
  have high := abs_remainder_le (r := u - r) (u := u) (q + 1 - k) (by omega) hu
  have e0 : (q : ℤ) * u - (q * u + r) = 0 - r := by ring
  have e1 : ((q + 1 : ℕ) : ℤ) * u - (q * u + r) = -(0 - (u - r)) := by push_cast; ring
  have ek : k * u - (q * u + r) = (k - q) * u - r := by ring
  have ek' : k * u - (q * u + r) = -((q + 1 - k) * u - (u - r)) := by ring
  have down : ((2 : ℤ) * r ≤ u) → q % 2 = 0 ∨ 2 * (r : ℤ) ≠ u → |(q : ℤ) * u - (q * u + r)| ≤ |k * u - (q * u + r)| ∧
      (|(q : ℤ) * u - (q * u + r)| = |k * u - (q * u + r)| → k ≠ q → q % 2 = 0) := by
    intro h2 hq
    rw [e0, ek]
    exact ⟨(low h2).1, fun h hk => hq.resolve_right fun h3 => h3 ((low h2).2 h (by omega))⟩
  have up : ((u : ℤ) ≤ 2 * r) → q % 2 = 1 ∨ 2 * (r : ℤ) ≠ u → |((q + 1 : ℕ) : ℤ) * u - (q * u + r)| ≤ |k * u - (q * u + r)| ∧
      (|((q + 1 : ℕ) : ℤ) * u - (q * u + r)| = |k * u - (q * u + r)| → k ≠ (q + 1 : ℕ) → (q + 1) % 2 = 0) := by
    intro h2 hq
    rw [e1, ek', abs_neg, abs_neg]
    refine ⟨(high (by omega)).1, fun h hk => ?_⟩
    have h3 := (high (by omega)).2 h (by push_cast at hk; omega)
    omega
  dsimp only
  split
  · exact down (by omega) (by omega)
  · split
    · exact up (by omega) (by omega)
    · exact down (by omega) (by omega)

theorem zpow_eq_natPow_mul {a b : ℤ} (h : a ≤ b) : (2 : ℚ) ^ b = (2 : ℚ) ^ (b - a).toNat * (2 : ℚ) ^ a := by
  rw [← zpow_natCast, ← zpow_add₀ (by norm_num)]
  congr 1
  omega

/-- No integer multiple of `u` is nearer to `x` than the `n`-th, and `n` is even where another is as near. -/
def NearestMultiple (u x : ℚ) (n : Nat) : Prop := ∀ k : ℤ, |n * u - x| ≤ |k * u - x| ∧ (|n * u - x| = |k * u - x| → k ≠ n → n % 2 = 0)

/-- The nearest multiple lies on the same side of every other multiple as `x` does, or there. -/
theorem NearestMultiple.le {u x : ℚ} {n k : Nat} (h : NearestMultiple u x n) (hu : 0 < u) (hx : x ≤ k * u) : n ≤ k := by
  by_contra hk
  have hlt : (k : ℚ) * u < n * u := mul_lt_mul_of_pos_right (by exact_mod_cast not_le.mp hk) hu
  have h1 := (h k).1
  rw [Int.cast_natCast, abs_of_nonneg (by linarith), abs_of_nonneg (by linarith)] at h1
  linarith
theorem NearestMultiple.ge {u x : ℚ} {n k : Nat} (h : NearestMultiple u x n) (hu : 0 < u) (hx : k * u ≤ x) : k ≤ n := by
  by_contra hk
  have hlt : (n : ℚ) * u < k * u := mul_lt_mul_of_pos_right (by exact_mod_cast not_le.mp hk) hu
  have h1 := (h k).1
  rw [Int.cast_natCast, abs_of_nonpos (by linarith), abs_of_nonpos (by linarith)] at h1
  linarith

/-- Rounding at a place to nearest gives the nearest multiple of its weight. -/
theorem roundAt_rne_nearest (neg : Bool) (m : Nat) (e q : ℤ) : NearestMultiple (2 ^ q) (m * 2 ^ e) (roundAt .rne neg m e q) := by
  intro k
  unfold roundAt
  split
  · rename_i h
    have he : ((m * 2 ^ (e - q).toNat : ℕ) : ℚ) * 2 ^ q - m * 2 ^ e = 0 := by
      rw [zpow_eq_natPow_mul h]
      push_cast
      ring
    have hk : (k : ℚ) * 2 ^ q - m * 2 ^ e = (k - (m * 2 ^ (e - q).toNat : ℕ)) * 2 ^ q := by linear_combination he
    rw [he, abs_zero]
    refine ⟨abs_nonneg _, fun h0 hne => absurd ?_ hne⟩
    rw [hk, eq_comm, abs_eq_zero, mul_eq_zero, sub_eq_zero] at h0
    exact_mod_cast h0.resolve_right (by positivity)
  · rename_i h
    have key := roundShift_rne_nearest neg m (q - e).toNat k
    have scale : ∀ n : ℤ, |(n : ℚ) * 2 ^ q - m * 2 ^ e| = ((|n * 2 ^ (q - e).toNat - m| : ℤ) : ℚ) * 2 ^ e := by
      intro n
      rw [zpow_eq_natPow_mul (by omega : e ≤ q), ← mul_assoc, ← sub_mul, abs_mul, abs_of_pos (by positivity : (0 : ℚ) < 2 ^ e)]
      push_cast
      rfl
    have hN := scale (roundShift .rne neg m (q - e).toNat)
    rw [Int.cast_natCast] at hN
    rw [hN, scale k]
    have he : (0 : ℚ) < 2 ^ e := by positivity
    refine ⟨mul_le_mul_of_nonneg_right (by exact_mod_cast key.1) he.le, fun h0 hne => key.2 ?_ hne⟩
    exact_mod_cast mul_right_cancel₀ he.ne' h0

/-! ### What a number is -/

/-- The factor of a sign. -/
def signOf (s : Bool) : ℚ := if s then -1 else 1

theorem signOf_mul_self (s : Bool) : signOf s * signOf s = 1 := by cases s <;> norm_num [signOf]
theorem abs_signOf (s : Bool) : |signOf s| = 1 := by cases s <;> norm_num [signOf]
theorem signOf_mul_signOf (a b : Bool) : signOf a * signOf b = signOf (a != b) := by cases a <;> cases b <;> norm_num [signOf]

theorem Val.num_fin (s : Bool) (m : Nat) (e : ℤ) : (Val.fin s m e).num = some (signOf s * (m * 2 ^ e)) := by
  rw [← mul_assoc]
  rfl

theorem Val.num_eq_some {v : Val} {x : ℚ} (h : v.num = some x) : ∃ s m e, v = .fin s m e ∧ x = signOf s * (m * 2 ^ e) := by
  cases v with
  | nan => exact nomatch h
  | inf s => exact nomatch h
  | fin s m e =>
    rw [Val.num_fin] at h
    exact ⟨s, m, e, rfl, (Option.some.inj h).symm⟩

/-! ### The words of a format -/

/-- The number of the magnitude bits of a finite word. -/
def Fmt.mag (f : Fmt) (b : Nat) : ℚ :=
  if b / 2 ^ f.fb = 0 then (b % 2 ^ f.fb : ℕ) * 2 ^ f.qmin else (2 ^ f.fb + b % 2 ^ f.fb : ℕ) * 2 ^ (f.qmin + (b / 2 ^ f.fb - 1 : ℕ))

theorem Fmt.finite_num (f : Fmt) (s : Bool) (b : Nat) : (f.finite s (b / 2 ^ f.fb) (b % 2 ^ f.fb)).num = some (signOf s * f.mag b) := by
  unfold Fmt.finite Fmt.mag
  split <;> exact Val.num_fin _ _ _

/-- The fields of a word made of a sign and magnitude bits. -/
theorem Fmt.dec_signBit_add (f : Fmt) (s : Bool) {b : Nat} (hb : b < 2 ^ (f.eb + f.fb)) :
    f.dec (f.signBit s + b) = if b / 2 ^ f.fb = 2 ^ f.eb - 1 then (if b % 2 ^ f.fb = 0 then .inf s else .nan)
      else f.finite s (b / 2 ^ f.fb) (b % 2 ^ f.fb) := by
  have hB : 0 < 2 ^ f.fb := by positivity
  have he : b / 2 ^ f.fb < 2 ^ f.eb := (Nat.div_lt_iff_lt_mul hB).mpr (by rwa [← pow_add])
  have hsign : decide ((f.signBit s + b) / 2 ^ (f.eb + f.fb) % 2 = 1) = s := by
    unfold Fmt.signBit
    cases s with
    | false => simp [Nat.div_eq_of_lt hb]
    | true => simp [Nat.div_eq_of_lt hb]
  have hexp : (f.signBit s + b) / 2 ^ f.fb % 2 ^ f.eb = b / 2 ^ f.fb := by
    unfold Fmt.signBit
    cases s with
    | false => simpa using Nat.mod_eq_of_lt he
    | true => rw [if_pos rfl, pow_add, Nat.mul_comm, Nat.mul_add_div hB, Nat.add_mod_left, Nat.mod_eq_of_lt he]
  have hfrac : (f.signBit s + b) % 2 ^ f.fb = b % 2 ^ f.fb := by
    unfold Fmt.signBit
    cases s with
    | false => simp
    | true => rw [if_pos rfl, pow_add, Nat.mul_comm, Nat.mul_add_mod]
  unfold Fmt.dec
  dsimp only
  rw [hsign, hexp, hfrac]

theorem Fmt.infBits_lt (f : Fmt) : f.infBits < 2 ^ (f.eb + f.fb) := by
  unfold Fmt.infBits
  rw [pow_add]
  exact Nat.mul_lt_mul_of_pos_right (Nat.sub_one_lt (by positivity)) (by positivity)

theorem Fmt.dec_infBits (f : Fmt) (s : Bool) : f.dec (f.signBit s + f.infBits) = .inf s := by
  have hB : 0 < 2 ^ f.fb := by positivity
  rw [f.dec_signBit_add s f.infBits_lt]
  unfold Fmt.infBits
  rw [Nat.mul_div_cancel _ hB, Nat.mul_mod_left, if_pos rfl, if_pos rfl]

/-- A finite word's number is that of its magnitude bits with its sign. -/
theorem Fmt.dec_num (f : Fmt) (s : Bool) {b : Nat} (hb : b < f.infBits) : (f.dec (f.signBit s + b)).num = some (signOf s * f.mag b) := by
  have he : b / 2 ^ f.fb < 2 ^ f.eb - 1 := (Nat.div_lt_iff_lt_mul (by positivity)).mpr hb
  rw [f.dec_signBit_add s (hb.trans f.infBits_lt), if_neg he.ne, f.finite_num]

/-- A finite word's number has at most one bit more than the fraction, at a place no lower than the last of the subnormals. -/
theorem Fmt.num_form (f : Fmt) {u : Nat} {y : ℚ} (h : (f.dec u).num = some y) :
    ∃ (s : Bool) (n t : Nat), n < 2 ^ (f.fb + 1) ∧ y = signOf s * (n * 2 ^ (f.qmin + t)) := by
  have hlt : u % 2 ^ f.fb < 2 ^ f.fb := Nat.mod_lt _ (by positivity)
  have hpow : 2 ^ (f.fb + 1) = 2 * 2 ^ f.fb := by ring
  unfold Fmt.dec at h
  dsimp only at h
  split at h
  · split at h <;> exact nomatch h
  · unfold Fmt.finite at h
    split at h
    · rw [Val.num_fin, show f.qmin = f.qmin + (0 : ℕ) by simp] at h
      exact ⟨_, u % 2 ^ f.fb, 0, by omega, (Option.some.inj h).symm⟩
    · rw [Val.num_fin] at h
      exact ⟨_, 2 ^ f.fb + u % 2 ^ f.fb, _, by omega, (Option.some.inj h).symm⟩

theorem Fmt.mag_zero (f : Fmt) : f.mag 0 = 0 := by
  unfold Fmt.mag
  rw [Nat.zero_div, if_pos rfl, Nat.zero_mod, Nat.cast_zero, zero_mul]

/-- Magnitude bits with a carry from the fraction into the exponent field are those of the next exponent. -/
theorem Fmt.mag_add (f : Fmt) {n t : Nat} (hn : n ≤ 2 ^ (f.fb + 1)) (ht : t = 0 ∨ 2 ^ f.fb ≤ n) :
    f.mag (n + t * 2 ^ f.fb) = n * 2 ^ (f.qmin + t) := by
  have hB : 0 < 2 ^ f.fb := by positivity
  have hpow : 2 ^ (f.fb + 1) = 2 * 2 ^ f.fb := by ring
  unfold Fmt.mag
  rw [Nat.add_mul_div_right _ _ hB, Nat.add_mul_mod_self_right]
  rcases lt_or_ge n (2 ^ f.fb) with h | h
  · obtain rfl : t = 0 := by omega
    rw [if_pos (by rw [Nat.div_eq_of_lt h]), Nat.mod_eq_of_lt h, Nat.cast_zero, add_zero]
  · obtain ⟨k, rfl⟩ := Nat.exists_eq_add_of_le h
    rw [Nat.add_div_left _ hB, Nat.add_mod_left, if_neg (Nat.ne_of_gt (Nat.add_pos_left (Nat.succ_pos _) _))]
    rcases lt_or_ge k (2 ^ f.fb) with hk | hk
    · rw [Nat.div_eq_of_lt hk, Nat.mod_eq_of_lt hk]
      rw [show 0 + 1 + t - 1 = t by omega]
    · obtain rfl : k = 2 ^ f.fb := by omega
      rw [Nat.div_self hB, Nat.mod_self, show 1 + 1 + t - 1 = t + 1 by omega]
      push_cast
      rw [← add_assoc, zpow_add_one₀ (by norm_num)]
      ring
/-! ### The nearest word -/

theorem mul_zpow_lt_of_log2 (m : Nat) (e : ℤ) : (m : ℚ) * 2 ^ e < 2 ^ ((m.log2 : ℤ) + e + 1) := by
  have h : (m : ℚ) < 2 ^ (m.log2 + 1) := by exact_mod_cast Nat.lt_log2_self
  calc (m : ℚ) * 2 ^ e < 2 ^ (m.log2 + 1) * 2 ^ e := mul_lt_mul_of_pos_right h (by positivity)
    _ = 2 ^ ((m.log2 : ℤ) + e + 1) := by rw [← zpow_natCast, ← zpow_add₀ (by norm_num)]; push_cast; ring_nf
theorem le_mul_zpow_of_log2 {m : Nat} (hm : m ≠ 0) (e : ℤ) : (2 : ℚ) ^ ((m.log2 : ℤ) + e) ≤ m * 2 ^ e := by
  have h : (2 : ℚ) ^ m.log2 ≤ m := by exact_mod_cast Nat.log2_self_le hm
  calc (2 : ℚ) ^ ((m.log2 : ℤ) + e) = 2 ^ m.log2 * 2 ^ e := by rw [zpow_add₀ (by norm_num), zpow_natCast]
    _ ≤ m * 2 ^ e := mul_le_mul_of_nonneg_right h (by positivity)

/-- The place of the last bit kept of a magnitude. -/
def Fmt.place (f : Fmt) (m : Nat) (e : ℤ) : ℤ := max f.qmin ((m.log2 : ℤ) + e - f.fb)

/-- The magnitude bits hold the multiple of the last place kept that is nearest to the magnitude. -/
theorem Fmt.magBits_rne (f : Fmt) (hf : 0 < f.fb) (neg : Bool) {m : Nat} (hm : m ≠ 0) (e : ℤ) :
    ∃ n : Nat, f.mag (f.magBits .rne neg m e) = n * 2 ^ f.place m e ∧ f.magBits .rne neg m e % 2 = n % 2 ∧
      NearestMultiple (2 ^ f.place m e) (m * 2 ^ e) n := by
  have near := roundAt_rne_nearest neg m e (f.place m e)
  have hq : (0 : ℚ) < 2 ^ f.place m e := by positivity
  have hmin : f.qmin ≤ f.place m e := le_max_left _ _
  have hup : roundAt .rne neg m e (f.place m e) ≤ 2 ^ (f.fb + 1) := by
    refine near.le hq ((mul_zpow_lt_of_log2 m e).le.trans ?_)
    have hmax : (m.log2 : ℤ) + e - f.fb ≤ f.place m e := le_max_right _ _
    push_cast
    rw [← zpow_natCast, ← zpow_add₀ (by norm_num)]
    exact zpow_le_zpow_right₀ (by norm_num) (by push_cast; omega)
  have hlow : (f.place m e - f.qmin).toNat = 0 ∨ 2 ^ f.fb ≤ roundAt .rne neg m e (f.place m e) := by
    refine or_iff_not_imp_left.mpr fun h0 => near.ge hq ?_
    have hp : f.place m e = (m.log2 : ℤ) + e - f.fb := by unfold Fmt.place at *; omega
    push_cast
    rw [← zpow_natCast, ← zpow_add₀ (by norm_num), hp, add_sub_cancel]
    exact le_mul_zpow_of_log2 hm e
  refine ⟨roundAt .rne neg m e (f.place m e), ?_, ?_, near⟩
  · refine (f.mag_add hup hlow).trans ?_
    congr 2
    omega
  · obtain ⟨k, hk⟩ := Nat.exists_eq_succ_of_ne_zero hf.ne'
    show (roundAt .rne neg m e (f.place m e) + (f.place m e - f.qmin).toNat * 2 ^ f.fb) % 2 = _
    rw [hk, pow_succ, ← mul_assoc, Nat.add_mul_mod_self_right]

/-- The nearest multiple of the last place kept is as near as any number of the format: one at a lower place is below the leading bit. -/
theorem Fmt.nearest_place (f : Fmt) {m : Nat} (hm : m ≠ 0) {e : ℤ} {n : Nat} (near : NearestMultiple (2 ^ f.place m e) (m * 2 ^ e) n) (s : Bool)
    {k t : Nat} (hk : k < 2 ^ (f.fb + 1)) :
    let y := signOf s * (k * 2 ^ (f.qmin + t))
    |(n : ℚ) * 2 ^ f.place m e - m * 2 ^ e| ≤ |y - m * 2 ^ e| ∧
      (|(n : ℚ) * 2 ^ f.place m e - m * 2 ^ e| = |y - m * 2 ^ e| → y ≠ n * 2 ^ f.place m e → n % 2 = 0) := by
  intro y
  rcases le_or_gt (f.place m e) (f.qmin + t) with h | h
  · have hy : y = ((if s then -1 else 1) * (k * 2 ^ (f.qmin + t - f.place m e).toNat) : ℤ) * 2 ^ f.place m e := by
      unfold y signOf
      rw [zpow_eq_natPow_mul h]
      cases s <;> push_cast <;> simp <;> ring
    rw [hy]
    refine ⟨(near _).1, fun h1 h2 => (near _).2 h1 fun h3 => h2 ?_⟩
    rw [h3, Int.cast_natCast]
  · have hp : f.place m e = (m.log2 : ℤ) + e - f.fb := by unfold Fmt.place at *; omega
    have hx : (2 : ℚ) ^ (f.fb : ℤ) * 2 ^ f.place m e ≤ m * 2 ^ e := by
      rw [← zpow_add₀ (by norm_num), hp, add_sub_cancel]
      exact le_mul_zpow_of_log2 hm e
    have hlt : |y| < 2 ^ (f.fb : ℤ) * 2 ^ f.place m e := by
      unfold y
      rw [abs_mul, abs_signOf, one_mul, abs_of_nonneg (by positivity)]
      calc (k : ℚ) * 2 ^ (f.qmin + t) < 2 ^ (f.fb + 1) * 2 ^ (f.qmin + t) := mul_lt_mul_of_pos_right (by exact_mod_cast hk) (by positivity)
        _ = 2 ^ ((f.fb : ℤ) + (f.qmin + t + 1)) := by rw [← zpow_natCast, ← zpow_add₀ (by norm_num)]; push_cast; ring_nf
        _ ≤ 2 ^ ((f.fb : ℤ) + f.place m e) := zpow_le_zpow_right₀ (by norm_num) (by omega)
        _ = 2 ^ (f.fb : ℤ) * 2 ^ f.place m e := zpow_add₀ (by norm_num) _ _
    have h1 := (near (2 ^ f.fb)).1
    push_cast at h1
    rw [← zpow_natCast, abs_of_nonpos (by linarith : (2 : ℚ) ^ (f.fb : ℤ) * 2 ^ f.place m e - m * 2 ^ e ≤ 0)] at h1
    have hfar : |(n : ℚ) * 2 ^ f.place m e - m * 2 ^ e| < |y - m * 2 ^ e| := by
      rw [abs_of_nonpos (by linarith [le_abs_self y] : y - m * 2 ^ e ≤ 0)]
      linarith [le_abs_self y]
    exact ⟨hfar.le, fun h2 => absurd h2 hfar.ne⟩

/-- No number of the format is nearer to a value than the one that rounding to nearest gives, and of two as near it gives the even one. -/
theorem Fmt.magBits_rne_nearest (f : Fmt) (hf : 0 < f.fb) (s : Bool) {m : Nat} (hm : m ≠ 0) (e : ℤ) {u : Nat} {y : ℚ}
    (hy : (f.dec u).num = some y) :
    let r := signOf s * f.mag (f.magBits .rne s m e)
    let x := signOf s * (m * 2 ^ e)
    |r - x| ≤ |y - x| ∧ (|r - x| = |y - x| → y ≠ r → f.magBits .rne s m e % 2 = 0) := by
  obtain ⟨n, hmag, hpar, near⟩ := f.magBits_rne hf s hm e
  obtain ⟨a, k, t, hk, rfl⟩ := f.num_form hy
  have key := f.nearest_place hm near (s != a) (t := t) hk
  have flip : ∀ z : ℚ, |signOf s * z - signOf s * (m * 2 ^ e)| = |z - m * 2 ^ e| := by
    intro z
    rw [← mul_sub, abs_mul, abs_signOf, one_mul]
  have hya : signOf a * (k * 2 ^ (f.qmin + t)) = signOf s * (signOf (s != a) * (k * 2 ^ (f.qmin + t))) := by
    rw [← signOf_mul_signOf, mul_assoc, ← mul_assoc (signOf s) (signOf s), signOf_mul_self, one_mul]
  intro r x
  rw [hpar, hya]
  unfold r x
  rw [hmag, flip, flip]
  refine ⟨key.1, fun h1 h2 => key.2 h1 fun h3 => h2 ?_⟩
  rw [h3]

/-- The word of a value that is not zero: where it is finite, its magnitude bits and its sign. -/
theorem Fmt.enc_eq_of_num (f : Fmt) {s : Bool} {m : Nat} (hm : m ≠ 0) {e : ℤ} {r : ℚ}
    (h : (f.dec (f.enc .rne false (.fin s m e))).num = some r) :
    f.enc .rne false (.fin s m e) = f.signBit s + f.magBits .rne s m e ∧ r = signOf s * f.mag (f.magBits .rne s m e) := by
  have henc : f.enc .rne false (.fin s m e) = f.signBit s + if f.magBits .rne s m e < f.infBits then f.magBits .rne s m e else f.infBits := by
    unfold Fmt.enc
    dsimp only
    rw [if_neg hm]
    rfl
  rw [henc] at h ⊢
  split at h
  · rename_i hb
    rw [f.dec_num s hb] at h
    exact ⟨by rw [if_pos hb], (Option.some.inj h).symm⟩
  · rw [f.dec_infBits] at h
    exact nomatch h

theorem fp32_enc_lt (v : Val) : fp32.enc .rne false v < 2 ^ 32 := by
  have hs : ∀ s, fp32.signBit s ≤ 2 ^ 31 := by decide
  cases v with
  | nan => decide
  | inf s => cases s <;> decide
  | fin s m e =>
    have h := hs s
    unfold Fmt.enc
    dsimp only
    have hi : fp32.infBits = 0x7F800000 := by decide
    split
    · omega
    · split
      · omega
      · rw [hi]
        split <;> omega

/-- Settles O28: the magnitude bits hold the nearest multiple of the last place kept, and every number of a lower place lies farther away. -/
theorem roundsToNearestEven : Obligations.RoundsToNearestEven := by
  intro v x hv r hr u y hy
  obtain ⟨s, m, e, rfl, rfl⟩ := Val.num_eq_some hv
  have hword : (encF32 (.fin s m e)).toNat = fp32.enc .rne false (.fin s m e) := Nat.mod_eq_of_lt (fp32_enc_lt _)
  unfold decF32 at hr hy
  rw [hword] at hr
  rcases eq_or_ne m 0 with rfl | hm
  · have h0 : fp32.enc .rne false (.fin s 0 e) = fp32.signBit s + 0 := rfl
    rw [h0, fp32.dec_num s (by decide), fp32.mag_zero, mul_zero] at hr
    obtain rfl : 0 = r := Option.some.inj hr
    rw [Nat.cast_zero, zero_mul, mul_zero, sub_zero, sub_zero, abs_zero]
    exact ⟨abs_nonneg y, fun h1 h2 => absurd (abs_eq_zero.mp h1.symm) h2⟩
  · obtain ⟨hbits, rfl⟩ := fp32.enc_eq_of_num hm hr
    have key := fp32.magBits_rne_nearest (by decide) s hm e hy
    refine ⟨key.1, fun h1 h2 => ?_⟩
    have hsign : fp32.signBit s % 2 = 0 := by cases s <;> rfl
    have hbit : (encF32 (.fin s m e)).getLsbD 0 = decide ((encF32 (.fin s m e)).toNat % 2 = 1) := Nat.testBit_zero _
    rw [hbit, hword, hbits, Nat.add_mod, hsign, key.2 h1 h2]
    rfl

/-! ### The integer square root -/

/-- A step of Newton's iteration stays at or above the root. -/
theorem sqrt_le_newton {x r : Nat} (hr : 0 < r) : x.sqrt ≤ (r + x / r) / 2 := by
  rw [Nat.le_div_iff_mul_le (by norm_num)]
  by_contra h
  have h1 : x < (x / r + 1) * r := by
    rw [add_mul, one_mul]
    exact Nat.lt_div_mul_add hr
  have h2 : x.sqrt * x.sqrt ≤ x := Nat.sqrt_le x
  generalize x.sqrt = s at *
  generalize x / r = t at *
  have h3 : (t + 1) * r ≤ (2 * s - r) * r := Nat.mul_le_mul_right _ (by omega)
  obtain ⟨k, hk⟩ : ∃ k, 2 * s = r + k := ⟨2 * s - r, by omega⟩
  rw [hk, Nat.add_sub_cancel_left] at h3
  nlinarith [sq_nonneg ((r : ℤ) - k)]

/-- Above the root, a step at least halves the distance to it. -/
theorem newton_le {x r : Nat} (hr : x.sqrt < r) : (r + x / r) / 2 ≤ (r + x.sqrt) / 2 := by
  have h : x / r ≤ x.sqrt := by
    rw [← Nat.lt_succ_iff, Nat.div_lt_iff_lt_mul (by omega)]
    calc x < (x.sqrt + 1) * (x.sqrt + 1) := Nat.lt_succ_sqrt x
      _ ≤ (x.sqrt + 1) * r := Nat.mul_le_mul_left _ hr
  omega

theorem isqrtGo_eq {x : Nat} (hx : 0 < x) (k : Nat) {r : Nat} (hr : x.sqrt ≤ r) (hk : r - x.sqrt < 2 ^ k) : isqrtGo k x r = x.sqrt := by
  have hs : 0 < x.sqrt := Nat.sqrt_pos.mpr hx
  induction k generalizing r with
  | zero =>
    rw [pow_zero] at hk
    show r = x.sqrt
    omega
  | succ k ih =>
    have low := sqrt_le_newton (x := x) (by omega : 0 < r)
    unfold isqrtGo
    dsimp only
    split
    · rename_i h
      have high := newton_le (by omega : x.sqrt < r)
      exact ih low (by rw [pow_succ] at hk; omega)
    · rename_i h
      by_contra hne
      have high := newton_le (by omega : x.sqrt < r)
      omega

theorem isqrt_eq_sqrt (x : Nat) : isqrt x = x.sqrt := by
  unfold isqrt
  split
  · rename_i h
    rw [h, Nat.sqrt_zero]
  · rename_i h
    have hpos : 0 < x := by omega
    have hlt : x < 2 ^ (x.log2 + 1) := Nat.lt_log2_self
    refine isqrtGo_eq hpos _ ?_ ?_
    · refine (Nat.sqrt_lt.mpr (hlt.trans_le ?_)).le
      rw [← pow_add]
      exact Nat.pow_le_pow_right (by norm_num) (by omega)
    · refine (Nat.sub_le _ _).trans_lt (Nat.pow_lt_pow_right (by norm_num) (by omega))

/-! ### Exact arithmetic -/

/-- Two numbers in units of the lower of their places. -/
theorem mul_zpow_min (m : Nat) (e g : ℤ) (h : g ≤ e) : (m : ℚ) * 2 ^ e = (m * 2 ^ (e - g).toNat : ℕ) * 2 ^ g := by
  rw [zpow_eq_natPow_mul h]
  push_cast
  ring

theorem signOf_not (s : Bool) : signOf (!s) = -signOf s := by cases s <;> norm_num [signOf]

theorem num_neg {x : Val} {p : ℚ} (hx : x.num = some p) : x.neg.num = some (-p) := by
  obtain ⟨a, m, e, rfl, rfl⟩ := Val.num_eq_some hx
  show (Val.fin (!a) m e).num = _
  rw [Val.num_fin, signOf_not, neg_mul]

theorem num_abs {x : Val} {p : ℚ} (hx : x.num = some p) : x.abs.num = some |p| := by
  obtain ⟨a, m, e, rfl, rfl⟩ := Val.num_eq_some hx
  show (Val.fin false m e).num = _
  rw [Val.num_fin, abs_mul, abs_signOf, abs_of_nonneg (by positivity)]
  rfl

theorem num_mul {x y : Val} {p q : ℚ} (hx : x.num = some p) (hy : y.num = some q) : (x.mul y).num = some (p * q) := by
  obtain ⟨a, m, e, rfl, rfl⟩ := Val.num_eq_some hx
  obtain ⟨b, n, f, rfl, rfl⟩ := Val.num_eq_some hy
  show (Val.fin (a != b) (m * n) (e + f)).num = _
  rw [Val.num_fin, ← signOf_mul_signOf, zpow_add₀ (by norm_num)]
  push_cast
  congr 1
  ring

/-- The sum of two magnitudes in the same unit, by their signs and their order. -/
theorem num_add {x y : Val} {p q : ℚ} (mode : Mode) (hx : x.num = some p) (hy : y.num = some q) : (x.add mode y).num = some (p + q) := by
  obtain ⟨a, m, e, rfl, rfl⟩ := Val.num_eq_some hx
  obtain ⟨b, n, f, rfl, rfl⟩ := Val.num_eq_some hy
  rw [mul_zpow_min m e (min e f) (min_le_left _ _), mul_zpow_min n f (min e f) (min_le_right _ _)]
  unfold Val.add
  dsimp only
  split
  · rename_i h
    rw [h.1, h.2, zero_mul, zero_mul, Val.num_fin]
    simp
  · generalize m * 2 ^ (e - min e f).toNat = P
    generalize n * 2 ^ (f - min e f).toNat = Q
    split
    · rename_i hab
      subst hab
      rw [Val.num_fin]
      push_cast
      congr 1
      ring
    · rename_i hab
      obtain rfl : b = !a := by revert hab; cases a <;> cases b <;> simp
      rw [signOf_not]
      split
      · rename_i h
        rw [h, Val.num_fin]
        simp
      · split
        · rename_i h
          rw [Val.num_fin, Nat.cast_sub (le_of_lt h)]
          congr 1
          ring
        · rw [Val.num_fin, Nat.cast_sub (by omega), signOf_not]
          congr 1
          ring

theorem num_sub {x y : Val} {p q : ℚ} (mode : Mode) (hx : x.num = some p) (hy : y.num = some q) : (x.sub mode y).num = some (p - q) := by
  rw [sub_eq_add_neg]
  exact num_add mode hx (num_neg hy)

theorem cmp_of_num {x y : Val} {p q : ℚ} (hx : x.num = some p) (hy : y.num = some q) : x.cmp y = some (compare p q) := by
  obtain ⟨a, m, e, rfl, rfl⟩ := Val.num_eq_some hx
  obtain ⟨b, n, f, rfl, rfl⟩ := Val.num_eq_some hy
  have hmono : StrictMono fun k : ℤ => (k : ℚ) * 2 ^ min e f := fun i j h =>
    mul_lt_mul_of_pos_right (by exact_mod_cast h) (by positivity)
  have hsign : ∀ (s : Bool) (k : Nat), signOf s * (k * 2 ^ min e f) = ((if s then -(k : ℤ) else k : ℤ) : ℚ) * 2 ^ min e f := by
    intro s k
    cases s <;> norm_num [signOf]
  rw [mul_zpow_min m e (min e f) (min_le_left _ _), mul_zpow_min n f (min e f) (min_le_right _ _), hsign, hsign]
  rw [← cmp_eq_compare, hmono.cmp_map_eq, cmp_eq_compare]
  rfl

/-! ### Values that stand for exact ones -/

/-- A value stands for itself. -/
theorem standsFor_exact {m bits : Nat} {e : ℤ} {ord : ℚ → Ordering} (h : ∀ d, ord d = compare ((m : ℚ) * 2 ^ e) d) :
    (Val.fin false m e).StandsFor bits ord := by
  refine ⟨_, Val.num_fin _ _ _, fun n j _ => ?_⟩
  rw [h, show signOf false = 1 from rfl, one_mul]

/-- An odd last bit stands for a remainder: a number of fewer bits than the kept places lies at or beside a kept place, where the exact value
compares with it as `2 q + 1` does. -/
theorem standsFor_sticky {q bits : Nat} {e : ℤ} {ord : ℚ → Ordering} (hq : 2 ^ bits ≤ q)
    (low : ∀ d : ℚ, d ≤ (2 * q : ℕ) * 2 ^ e → ord d = .gt) (high : ∀ d : ℚ, (2 * q + 2 : ℕ) * 2 ^ e ≤ d → ord d = .lt) :
    (Val.fin false (2 * q + 1) e).StandsFor bits ord := by
  refine ⟨_, Val.num_fin _ _ _, fun n j hn => ?_⟩
  rw [show signOf false = 1 from rfl, one_mul]
  have hpos : (0 : ℚ) < 2 ^ e := by positivity
  have sides : (n : ℚ) * 2 ^ j ≤ (2 * q : ℕ) * 2 ^ e ∨ ((2 * q + 2 : ℕ) : ℚ) * 2 ^ e ≤ n * 2 ^ j := by
    rcases le_or_gt j e with hj | hj
    · left
      have hnq : n ≤ (2 * q : ℕ) := by
        have : (2 : ℤ) ^ bits ≤ q := by exact_mod_cast hq
        have := le_abs_self n
        push_cast
        omega
      calc (n : ℚ) * 2 ^ j ≤ (2 * q : ℕ) * 2 ^ j := mul_le_mul_of_nonneg_right (by exact_mod_cast hnq) (by positivity)
        _ ≤ (2 * q : ℕ) * 2 ^ e := mul_le_mul_of_nonneg_left (zpow_le_zpow_right₀ (by norm_num) hj) (by positivity)
    · obtain ⟨k, hk⟩ := Nat.exists_eq_succ_of_ne_zero (by omega : (j - e).toNat ≠ 0)
      have heven : (n : ℚ) * 2 ^ j = ((n * 2 ^ k * 2 : ℤ) : ℚ) * 2 ^ e := by
        rw [zpow_eq_natPow_mul hj.le, hk, pow_succ]
        push_cast
        ring
      rw [heven]
      generalize n * 2 ^ k = i
      rcases le_or_gt i q with hi | hi
      · left
        exact mul_le_mul_of_nonneg_right (by push_cast; linarith [(by exact_mod_cast hi : (i : ℚ) ≤ q)]) hpos.le
      · right
        have hi' : ((q : ℤ) + 1 : ℚ) ≤ i := by exact_mod_cast hi
        exact mul_le_mul_of_nonneg_right (by push_cast at hi' ⊢; linarith) hpos.le
  have hstep : ∀ k : Nat, ((k + 1 : ℕ) : ℚ) * 2 ^ e = k * 2 ^ e + 2 ^ e := fun k => by push_cast; ring
  rcases sides with h | h
  · rw [low _ h, compare_gt_iff_gt, hstep]
    linarith
  · rw [high _ h, compare_lt_iff_lt]
    rw [hstep] at h
    linarith

theorem compare_neg (a b : ℚ) : compare (-a) b = (compare a (-b)).swap := by
  have hanti : StrictAnti fun x : ℚ => -x := fun _ _ => neg_lt_neg
  rw [← cmp_eq_compare, ← cmp_eq_compare, cmp_swap, ← hanti.cmp_map_eq, neg_neg]

/-- A value stands for the exact one with a sign if its magnitude stands for the exact magnitude. -/
theorem standsFor_signed {s : Bool} {m bits : Nat} {e : ℤ} {x : ℚ} (h : (Val.fin false m e).StandsFor bits fun d => compare x d) :
    (Val.fin s m e).StandsFor bits fun d => compare (signOf s * x) d := by
  obtain ⟨r, hr, hcmp⟩ := h
  rw [Val.num_fin, show signOf false = 1 from rfl, one_mul] at hr
  obtain rfl := Option.some.inj hr
  refine ⟨_, Val.num_fin _ _ _, fun n j hn => ?_⟩
  cases s with
  | false =>
    rw [show signOf false = 1 from rfl, one_mul, one_mul]
    exact hcmp n j hn
  | true =>
    have h1 := hcmp (-n) j (by rwa [abs_neg])
    rw [Int.cast_neg, neg_mul] at h1
    show compare (-1 * _) _ = compare (-1 * x) _
    rw [neg_one_mul, neg_one_mul, compare_neg, compare_neg, h1]

/-- The quotient with `k` more places, and its remainder, against the exact one. -/
theorem div_bounds (m n k : Nat) (e f : ℤ) (hn : n ≠ 0) :
    let x : ℚ := m * 2 ^ e / (n * 2 ^ f)
    let u : ℚ := 2 ^ (e - f - k - 1)
    (m * 2 ^ k % n = 0 → x = (2 * (m * 2 ^ k / n) : ℕ) * u) ∧
      (m * 2 ^ k % n ≠ 0 → (2 * (m * 2 ^ k / n) : ℕ) * u < x ∧ x < (2 * (m * 2 ^ k / n) + 2 : ℕ) * u) := by
  intro x u
  have hu : 0 < u := by positivity
  have hnq : (0 : ℚ) < n := by positivity
  have hx : x * n = 2 * ((m * 2 ^ k : ℕ) : ℚ) * u := by
    have he : (2 : ℚ) ^ e = 2 ^ f * (2 ^ k * 2) * u := by
      unfold u
      rw [← zpow_natCast, ← zpow_add_one₀ (by norm_num), ← zpow_add₀ (by norm_num), ← zpow_add₀ (by norm_num)]
      congr 1
      ring
    unfold x
    rw [div_mul_eq_mul_div, he]
    field_simp
    push_cast
    ring
  have hM : ((m * 2 ^ k : ℕ) : ℚ) = n * (m * 2 ^ k / n : ℕ) + (m * 2 ^ k % n : ℕ) := by exact_mod_cast (Nat.div_add_mod _ _).symm
  have hr : m * 2 ^ k % n < n := Nat.mod_lt _ (by omega)
  rw [hM] at hx
  generalize m * 2 ^ k / n = q at *
  generalize m * 2 ^ k % n = r at *
  push_cast
  constructor
  · rintro rfl
    refine mul_right_cancel₀ hnq.ne' (hx.trans ?_)
    push_cast
    ring
  · intro h0
    have hr0 : (0 : ℚ) < r := by positivity
    have hrn : (r : ℚ) < n := by exact_mod_cast hr
    constructor
    · refine lt_of_mul_lt_mul_right ?_ hnq.le
      rw [hx]
      nlinarith [mul_pos hr0 hu]
    · refine lt_of_mul_lt_mul_right ?_ hnq.le
      rw [hx]
      nlinarith [mul_lt_mul_of_pos_right hrn hu]

theorem standsFor_div {x y : Val} {p q : ℚ} (hx : x.num = some p) (hy : y.num = some q) (hq : q ≠ 0) :
    (x.div y).StandsFor 256 fun d => compare (p / q) d := by
  obtain ⟨a, m, e, rfl, rfl⟩ := Val.num_eq_some hx
  obtain ⟨b, n, f, rfl, rfl⟩ := Val.num_eq_some hy
  have hn : n ≠ 0 := by
    rintro rfl
    exact hq (by simp)
  have hsign : signOf a * (m * 2 ^ e) / (signOf b * (n * 2 ^ f)) = signOf (a != b) * (m * 2 ^ e / (n * 2 ^ f)) := by
    rw [← signOf_mul_signOf, mul_div_mul_comm]
    congr 1
    cases a <;> cases b <;> norm_num [signOf]
  unfold Val.div
  dsimp only
  rw [if_neg hn, hsign]
  obtain ⟨hexact, between⟩ := div_bounds m n (guardBits + n.log2 + 1) e f hn
  by_cases hr : m * 2 ^ (guardBits + n.log2 + 1) % n = 0
  · rw [if_pos hr, add_zero]
    exact standsFor_signed (standsFor_exact fun d => by rw [hexact hr])
  · rw [if_neg hr]
    have hm : m ≠ 0 := by
      rintro rfl
      exact hr (by simp)
    obtain ⟨hlow, hhigh⟩ := between hr
    refine standsFor_signed (standsFor_sticky ?_ (fun d hd => compare_gt_iff_gt.mpr (hd.trans_lt hlow))
      fun d hd => compare_lt_iff_lt.mpr (hhigh.trans_le hd))
    rw [Nat.le_div_iff_mul_le (by omega)]
    calc 2 ^ 256 * n ≤ 2 ^ 256 * 2 ^ (n.log2 + 1) := Nat.mul_le_mul_left _ Nat.lt_log2_self.le
      _ = 2 ^ (256 + (n.log2 + 1)) := (pow_add _ _ _).symm
      _ ≤ 2 ^ (guardBits + n.log2 + 1) := Nat.pow_le_pow_right (by norm_num) (by unfold guardBits; omega)
      _ ≤ m * 2 ^ (guardBits + n.log2 + 1) := Nat.le_mul_of_pos_left _ (by omega)

/-- The order of a root by the squares: a number below zero is below it. -/
theorem rootOrd_gt {x d c : ℚ} (hx : c * c < x) (hd : d ≤ c) : rootOrd x d = .gt := by
  unfold rootOrd
  split
  · rfl
  · exact compare_gt_iff_gt.mpr ((mul_self_le_mul_self (by linarith) hd).trans_lt hx)
theorem rootOrd_lt {x d c : ℚ} (hc : 0 ≤ c) (hx : x < c * c) (hd : c ≤ d) : rootOrd x d = .lt := by
  unfold rootOrd
  rw [if_neg (by linarith)]
  exact compare_lt_iff_lt.mpr (hx.trans_le (mul_self_le_mul_self hc hd))
theorem rootOrd_mul_self {c : ℚ} (hc : 0 ≤ c) (d : ℚ) : rootOrd (c * c) d = compare c d := by
  rcases lt_trichotomy d c with h | h | h
  · rw [compare_gt_iff_gt.mpr h]
    unfold rootOrd
    split
    · rfl
    · exact compare_gt_iff_gt.mpr (mul_self_lt_mul_self (by linarith) h)
  · subst h
    unfold rootOrd
    rw [if_neg (by linarith), compare_eq_iff_eq.mpr rfl, compare_eq_iff_eq.mpr rfl]
  · rw [compare_lt_iff_lt.mpr h]
    unfold rootOrd
    rw [if_neg (by linarith)]
    exact compare_lt_iff_lt.mpr (mul_self_lt_mul_self hc h)

theorem two_pow_le_sqrt {b g m k : Nat} (hb : b ≤ g) (hm : 0 < m) (hk : 0 < k) : 2 ^ b ≤ (m * k * 4 ^ g).sqrt := by
  rw [Nat.le_sqrt, ← mul_pow]
  calc (2 * 2) ^ b ≤ 4 ^ g := Nat.pow_le_pow_right (by norm_num) hb
    _ ≤ m * k * 4 ^ g := Nat.le_mul_of_pos_left _ (Nat.mul_pos hm hk)

theorem sqrt_of_neg {x : Val} {p : ℚ} (hx : x.num = some p) (hp : p < 0) : x.sqrt = .nan := by
  obtain ⟨a, m, e, rfl, rfl⟩ := Val.num_eq_some hx
  have hm : m ≠ 0 := by
    rintro rfl
    simp at hp
  have ha : a = true := by
    by_contra h
    rw [Bool.not_eq_true] at h
    rw [h, show signOf false = 1 from rfl, one_mul] at hp
    have : (0 : ℚ) ≤ m * 2 ^ e := by positivity
    linarith
  unfold Val.sqrt
  dsimp only
  rw [if_neg hm, if_pos ha]

theorem standsFor_sqrt {x : Val} {p : ℚ} (hx : x.num = some p) (hp : 0 < p) : x.sqrt.StandsFor 256 (rootOrd p) := by
  obtain ⟨a, m, e, rfl, rfl⟩ := Val.num_eq_some hx
  have hm : m ≠ 0 := by
    rintro rfl
    simp at hp
  obtain rfl : a = false := by
    by_contra h
    rw [Bool.not_eq_false] at h
    rw [h, show signOf true = -1 from rfl] at hp
    have : (0 : ℚ) ≤ m * 2 ^ e := by positivity
    linarith
  have hval : signOf false * (m * 2 ^ e) = 4 * (m * 2 ^ (e % 2).toNat * 4 ^ guardBits : ℕ) *
      (2 ^ ((e - e % 2) / 2 - guardBits - 1) * 2 ^ ((e - e % 2) / 2 - guardBits - 1)) := by
    have he : (2 : ℚ) ^ e = 2 ^ 2 * 2 ^ (e % 2).toNat * 2 ^ (2 * guardBits) *
        (2 ^ ((e - e % 2) / 2 - guardBits - 1) * 2 ^ ((e - e % 2) / 2 - guardBits - 1)) := by
      rw [← pow_add, ← pow_add, ← zpow_natCast, ← zpow_add₀ (by norm_num), ← zpow_add₀ (by norm_num)]
      congr 1
      push_cast
      omega
    rw [he, show signOf false = 1 from rfl, pow_mul]
    push_cast
    ring
  have hbig := two_pow_le_sqrt (b := 256) (g := guardBits) (by decide) (Nat.pos_of_ne_zero hm) (Nat.two_pow_pos (e % 2).toNat)
  unfold Val.sqrt
  dsimp only
  rw [if_neg hm, if_neg (by simp), hval]
  simp only [isqrt_eq_sqrt]
  generalize m * 2 ^ (e % 2).toNat * 4 ^ guardBits = M at *
  generalize (e - e % 2) / 2 - guardBits - 1 = j
  have hu : (0 : ℚ) < 2 ^ j := by positivity
  have hle : M.sqrt * M.sqrt ≤ M := Nat.sqrt_le M
  have hlt : M < (M.sqrt + 1) * (M.sqrt + 1) := Nat.lt_succ_sqrt M
  generalize M.sqrt = r at *
  split
  · rename_i h
    refine standsFor_exact fun d => ?_
    rw [← rootOrd_mul_self (by positivity), ← h]
    congr 1
    push_cast
    ring
  · rename_i h
    have hq : (r : ℚ) * r < M := by exact_mod_cast lt_of_le_of_ne hle h
    have hq' : (M : ℚ) < (r + 1) * (r + 1) := by exact_mod_cast hlt
    refine standsFor_sticky hbig (fun d => rootOrd_gt ?_) fun d => rootOrd_lt (by positivity) ?_
    · push_cast
      nlinarith [mul_pos hu hu]
    · push_cast
      nlinarith [mul_pos hu hu]

/-- Settles O27: sums, products and comparisons in the unit of the lower place, a quotient and a root by their remainders. -/
theorem exactValues : Obligations.ExactValues := by
  refine ⟨fun mode x y p q hx hy => ⟨num_add mode hx hy, num_sub mode hx hy, num_mul hx hy, num_neg hx, num_abs hx, cmp_of_num hx hy,
    standsFor_div hx hy, standsFor_sqrt hx, sqrt_of_neg hx⟩, fun mode a b m e f => ⟨⟨?_, ?_, rfl, rfl, rfl, rfl, rfl⟩, ?_, rfl, ?_, rfl, rfl⟩⟩
  · cases a <;> rfl
  · cases a <;> rfl
  · exact fun hm => if_neg hm
  · show (Val.fin (a != b) 0 0).num = _
    rw [Val.num_fin, Nat.cast_zero, zero_mul, mul_zero]

end Sys2Proof.Machine

/-!
LAWS. The picker, its packet, aging, yields and load permits (O54): sorting by a key, the order of R139 as a comparison of lists, the candidates
of a course as the ready threads of each pair of frame and PC, what a bundle takes, what a fetch leaves as it is, and what the steps of the
detector do to a core.
-/

namespace Sys2Proof.Machine

open Sys2Proof

/-! ### Sorting by a key -/

section Sorting

variable {α : Type}

theorem insertBy_perm (le : α → α → Bool) (x : α) (l : List α) : (insertBy le x l).Perm (x :: l) := by
  induction l with
  | nil => exact .refl _
  | cons y t ih =>
    rw [insertBy]
    split
    · exact (ih.cons y).trans (.swap x y t)
    · exact .refl _

theorem sortBy_perm (le : α → α → Bool) (l : List α) : (sortBy le l).Perm l := by
  have h : ∀ acc : List α, (l.foldl (fun acc x => insertBy le x acc) acc).Perm (l ++ acc) := by
    induction l with
    | nil => exact fun acc => .refl _
    | cons x t ih => exact fun acc => (ih _).trans ((List.perm_append_left_iff t).2 (insertBy_perm le x acc) |>.trans List.perm_middle)
  simpa [sortBy] using h []

theorem insertBy_pairwise (f : α → Nat) (x : α) (l : List α) (h : l.Pairwise fun y z => f y ≤ f z) :
    (insertBy (fun y z => decide (f y ≤ f z)) x l).Pairwise fun y z => f y ≤ f z := by
  induction l with
  | nil => exact List.pairwise_singleton _ _
  | cons y t ih =>
    obtain ⟨hy, ht⟩ := List.pairwise_cons.1 h
    simp only [insertBy, decide_eq_true_eq]
    split
    · next hyx =>
      refine List.pairwise_cons.2 ⟨fun z hz => ?_, ih ht⟩
      rcases List.mem_cons.1 ((insertBy_perm _ x t).mem_iff.1 hz) with rfl | hz
      · exact hyx
      · exact hy z hz
    · next hyx =>
      refine List.pairwise_cons.2 ⟨fun z hz => ?_, h⟩
      rcases List.mem_cons.1 hz with rfl | hz
      · omega
      · exact (Nat.le_of_not_le hyx).trans (hy z hz)

theorem sortBy_pairwise (f : α → Nat) (l : List α) : (sortBy (fun y z => decide (f y ≤ f z)) l).Pairwise fun y z => f y ≤ f z :=
  List.foldlRecOn l _ List.Pairwise.nil fun acc hacc x _ => insertBy_pairwise f x acc hacc

end Sorting

/-! ### What a bundle takes (R26) -/

/-- Of two threads the one that is ready longer, the first where they are equal. -/
def olderOf (m : Option Thread) (h : Thread) : Option Thread :=
  match m with
  | none => some h
  | some x => if h.readyAt < x.readyAt then some h else some x

/-- Thread `o` is ready longest of `l`, and of those the one of the lowest rank (log entry 73). -/
def OldestOf (o : Thread) (l : List Thread) : Prop := ∀ h ∈ l, o.readyAt ≤ h.readyAt ∧ (h.readyAt = o.readyAt → o.rank ≤ h.rank)

/-- The fold over threads in rank order finds the oldest. -/
theorem foldl_olderOf (l : List Thread) (x : Thread) (hs : (x :: l).Pairwise fun y z => y.rank ≤ z.rank) :
    ∃ o ∈ x :: l, l.foldl olderOf (some x) = some o ∧ OldestOf o (x :: l) := by
  induction l generalizing x with
  | nil => exact ⟨x, List.mem_singleton_self x, rfl, fun h hh => by simp [List.mem_singleton.1 hh]⟩
  | cons y t ih =>
    obtain ⟨hx, hyt⟩ := List.pairwise_cons.1 hs
    simp only [List.foldl_cons, olderOf]
    split
    · next hlt =>
      obtain ⟨o, ho, he, hmin⟩ := ih y hyt
      refine ⟨o, List.mem_cons_of_mem x ho, he, fun h hh => ?_⟩
      rcases List.mem_cons.1 hh with rfl | hh
      · have := (hmin y List.mem_cons_self).1
        exact ⟨by omega, fun _ => by omega⟩
      · exact hmin h hh
    · next hge =>
      obtain ⟨o, ho, he, hmin⟩ := ih x (List.pairwise_cons.2 ⟨fun z hz => hx z (List.mem_cons_of_mem y hz), (List.pairwise_cons.1 hyt).2⟩)
      refine ⟨o, by rcases List.mem_cons.1 ho with rfl | ho <;> simp_all, he, fun h hh => ?_⟩
      have hox := hmin x List.mem_cons_self
      rcases List.mem_cons.1 hh with rfl | hh
      · exact hox
      · rcases List.mem_cons.1 hh with rfl | hh
        · have := hx h List.mem_cons_self
          exact ⟨by omega, fun _ => (hox.2 (by omega)).trans this⟩
        · exact hmin h (List.mem_cons_of_mem x hh)

/-- Thread `h` goes before thread `g` into a bundle whose oldest thread has the key `k`. -/
def GoesFirst (k : Byte) (h g : Thread) : Prop := (h.akey = k ∨ g.akey ≠ k) ∧ ((h.akey = k ↔ g.akey = k) → h.rank ≤ g.rank)

/-- Threads in rank order, those of a key moved to the front, stand in the order in which a bundle takes them. -/
theorem keyFirst_pairwise (k : Byte) (l : List Thread) (hs : l.Pairwise fun y z => y.rank ≤ z.rank) :
    ((l.filter fun h => h.akey == k) ++ l.filter fun h => h.akey != k).Pairwise (GoesFirst k) := by
  refine List.pairwise_append.2 ⟨?_, ?_, fun h hh g hg => ?_⟩
  · refine (hs.filter _).imp_of_mem fun {h g} hh _ hle => ?_
    simp only [List.mem_filter, beq_iff_eq] at hh
    exact ⟨.inl hh.2, fun _ => hle⟩
  · refine (hs.filter _).imp_of_mem fun {h g} _ hg hle => ?_
    simp only [List.mem_filter, bne_iff_ne] at hg
    exact ⟨.inr hg.2, fun _ => hle⟩
  · simp only [List.mem_filter, beq_iff_eq] at hh
    simp only [List.mem_filter, bne_iff_ne] at hg
    exact ⟨.inl hh.2, fun h => absurd (h.1 hh.2) hg.2⟩

theorem keyFirst_perm (k : Byte) (l : List Thread) : ((l.filter fun h => h.akey == k) ++ l.filter fun h => h.akey != k).Perm l :=
  List.filter_append_perm (fun h => h.akey == k) l

/-- A bundle is formed as R26 says. -/
theorem formBundle_takes (all : List Thread) (hne : all ≠ []) : Takes all (formBundle all) := by
  have hperm := sortBy_perm (fun (x y : Thread) => decide (x.rank ≤ y.rank)) all
  have hsort := sortBy_pairwise Thread.rank all
  obtain ⟨x, t, hl⟩ := List.exists_cons_of_ne_nil (l := sortBy (fun (x y : Thread) => decide (x.rank ≤ y.rank)) all) fun h => hne (by
    rw [h] at hperm
    exact hperm.nil_eq.symm)
  rw [hl] at hperm hsort
  obtain ⟨o, ho, he, hmin⟩ := foldl_olderOf t x hsort
  let order := ((x :: t).filter fun h => h.akey == o.akey) ++ (x :: t).filter fun h => h.akey != o.akey
  have hform : formBundle all = sortBy (fun (x y : Thread) => decide (x.rank ≤ y.rank)) (order.take 32) := by
    have hf : (x :: t).foldl olderOf none = some o := he
    unfold formBundle
    rw [hl]
    change sortBy _ (List.take 32 (List.filter (fun h => h.akey == match (x :: t).foldl olderOf none with | some h => h.akey | none => 0) (x :: t) ++
      List.filter (fun h => h.akey != match (x :: t).foldl olderOf none with | some h => h.akey | none => 0) (x :: t))) = _
    rw [hf]
  have horder : order.Perm all := (keyFirst_perm o.akey (x :: t)).trans hperm
  have htake := sortBy_perm (fun (x y : Thread) => decide (x.rank ≤ y.rank)) (order.take 32)
  have hfirst : (order.take 32 ++ order.drop 32).Pairwise (GoesFirst o.akey) := by
    rw [List.take_append_drop]
    exact keyFirst_pairwise o.akey (x :: t) hsort
  rw [hform]
  refine ⟨order.drop 32, o, ?_, ?_, sortBy_pairwise Thread.rank _, hperm.mem_iff.1 ho, fun h hh => hmin h (hperm.mem_iff.2 hh),
    fun h hh g hg => (List.pairwise_append.1 hfirst).2.2 h (htake.mem_iff.1 hh) g hg⟩
  · exact (htake.append_right _).trans (by rw [List.take_append_drop]; exact horder)
  · rw [htake.length_eq, List.length_take, horder.length_eq]

/-! ### The order of R139 -/

theorem lexLt_irrefl (x : List Nat) : lexLt x x = false := by
  induction x with
  | nil => rfl
  | cons a x ih => simp [lexLt, ih]

theorem lexLt_trans {x y z : List Nat} (h : lexLt x y = true) (k : lexLt y z = true) : lexLt x z = true := by
  induction x generalizing y z with
  | nil => simp [lexLt] at h
  | cons a x ih =>
    cases y with
    | nil => simp [lexLt] at h
    | cons b y =>
      cases z with
      | nil => simp [lexLt] at k
      | cons c z =>
        simp only [lexLt, Bool.or_eq_true, decide_eq_true_eq, Bool.and_eq_true, beq_iff_eq] at h k ⊢
        rcases h with h | ⟨rfl, h⟩
        · rcases k with k | ⟨rfl, -⟩
          · exact .inl (h.trans k)
          · exact .inl h
        · rcases k with k | ⟨rfl, k⟩
          · exact .inl k
          · exact .inr ⟨rfl, ih h k⟩

/-- The better of the candidate found so far and another. -/
def State.betterOf (s : State) (best : Option Cand) (c : Cand) : Option Cand :=
  match best with
  | none => some c
  | some b => if lexLt (s.rankOf c) (s.rankOf b) then some c else some b

theorem State.best_eq_foldl (s : State) (die core course : Nat) : s.best die core course = (s.candidates die core course).foldl s.betterOf none := rfl

/-- The fold finds a candidate that no other goes before: the first one, or one that goes before it. -/
theorem State.foldl_betterOf (s : State) (l : List Cand) (b : Cand) :
    ∃ c ∈ b :: l, l.foldl s.betterOf (some b) = some c ∧ (c = b ∨ lexLt (s.rankOf c) (s.rankOf b) = true) ∧
      ∀ e ∈ b :: l, ¬ lexLt (s.rankOf e) (s.rankOf c) = true := by
  induction l generalizing b with
  | nil => exact ⟨b, List.mem_singleton_self b, rfl, .inl rfl, fun e he => by simp [List.mem_singleton.1 he, lexLt_irrefl]⟩
  | cons a l ih =>
    simp only [List.foldl_cons, State.betterOf]
    split
    · next hlt =>
      obtain ⟨c, hc, he, hca, hmin⟩ := ih a
      have hcb : lexLt (s.rankOf c) (s.rankOf b) = true := hca.elim (fun h => h ▸ hlt) fun h => lexLt_trans h hlt
      refine ⟨c, List.mem_cons_of_mem b hc, he, .inr hcb, fun e hm => ?_⟩
      rcases List.mem_cons.1 hm with rfl | hm
      · exact fun h => by simpa [lexLt_irrefl] using lexLt_trans h hcb
      · exact hmin e hm
    · next hge =>
      obtain ⟨c, hc, he, hcb, hmin⟩ := ih b
      refine ⟨c, List.mem_cons.2 ((List.mem_cons.1 hc).imp_right (List.mem_cons_of_mem a)), he, hcb, fun e hm => ?_⟩
      rcases List.mem_cons.1 hm with rfl | hm
      · exact hmin e List.mem_cons_self
      · rcases List.mem_cons.1 hm with rfl | hm
        · exact fun h => hge (hcb.elim (fun hc => hc ▸ h) fun hc => lexLt_trans h hc)
        · exact hmin e (List.mem_cons_of_mem b hm)

theorem State.best_spec (s : State) (die core course : Nat) :
    (s.candidates die core course = [] ∧ s.best die core course = none) ∨
      ∃ c ∈ s.candidates die core course, s.best die core course = some c ∧
        ∀ e ∈ s.candidates die core course, ¬ lexLt (s.rankOf e) (s.rankOf c) = true := by
  rw [State.best_eq_foldl]
  cases s.candidates die core course with
  | nil => exact .inl ⟨rfl, rfl⟩
  | cons b l =>
    obtain ⟨c, hc, he, -, hmin⟩ := s.foldl_betterOf l b
    exact .inr ⟨c, hc, he, hmin⟩

/-- The least of a mapped list that is not empty. -/
theorem min?_map_getD {α : Type} (l : List α) (f : α → Nat) (n : Nat) (hn : ∃ h ∈ l, f h = n) (hmin : ∀ h ∈ l, n ≤ f h) :
    (l.map f).min?.getD 0 = n := by
  have : (l.map f).min? = some n := List.min?_eq_some_iff.2 ⟨by simpa using hn, by simpa using hmin⟩
  rw [this, Option.getD_some]

/-- What the picker compares of a candidate, in the terms of R139 and R161. -/
theorem State.rankOf_eq (s : State) (c : Cand) (n i : Nat) (hn : c.ReadySince n) (hi : c.LowestRank i) [Decidable (s.AgedCand c)]
    [Decidable (s.LateCand c)] [Decidable c.Hinted] :
    s.rankOf c = [if s.AgedCand c then 0 else 1, if s.AgedCand c then n else 0, if s.LateCand c then 1 else 0, 3 - s.prioOf c,
      if c.Hinted then 0 else 1, n, i, c.team.slot] := by
  have hsince := min?_map_getD c.threads (·.readyAt) n hn.1 hn.2
  have hlow := min?_map_getD c.threads (·.lrank) i hi.1 hi.2
  have haged : (c.threads.any fun h => h.aged || decide (h.readyAt + 1024 ≤ s.clock c.team.die c.team.core)) = decide (s.AgedCand c) := by
    rw [Bool.eq_iff_iff, decide_eq_true_iff]
    simp [State.AgedCand]
  have hlate : (!decide (s.AgedCand c) && c.threads.all (·.yieldMark)) = decide (s.LateCand c) := by
    rw [Bool.eq_iff_iff, decide_eq_true_iff]
    simp [State.LateCand]
  have hhint : (c.threads.any (·.hintMark)) = decide c.Hinted := by
    rw [Bool.eq_iff_iff, decide_eq_true_iff]
    simp [Cand.Hinted]
  have hcap : ∀ p, 3 - min 3 p = 3 - p := fun p => by omega
  unfold State.rankOf State.prioOf
  cases s.launch? c.team.launch <;> simp only [hsince, hlow, haged, hlate, hhint, hcap, decide_eq_true_eq, Option.elim]

theorem State.rankOf_lt_of_goesBefore (s : State) (e c : Cand) (n m i j : Nat) (hn : e.ReadySince n) (hm : c.ReadySince m) (hi : e.LowestRank i)
    (hj : c.LowestRank j) (h : s.GoesBefore e c n m i j) : lexLt (s.rankOf e) (s.rankOf c) = true := by
  classical
  have hpe : s.prioOf e ≤ 3 := Nat.min_le_left _ _
  have hpc : s.prioOf c ≤ 3 := Nat.min_le_left _ _
  rw [s.rankOf_eq e n i hn hi, s.rankOf_eq c m j hm hj]
  simp only [lexLt, Bool.or_eq_true, decide_eq_true_eq, Bool.and_eq_true, beq_iff_eq, Bool.false_eq_true, and_false, or_false]
  unfold State.GoesBefore at h
  generalize s.prioOf e = p at *
  generalize s.prioOf c = q at *
  rcases h with ⟨he, hc⟩ | ⟨he, hc, hlt⟩ | ⟨haged, hsince, h⟩
  · simp [he, hc]
  · simp [he, hc, hlt]
  · refine .inr ⟨by simp [haged], .inr ⟨by by_cases ha : s.AgedCand c <;> simp_all, ?_⟩⟩
    rcases h with ⟨he, hc⟩ | ⟨hlate, h⟩
    · simp [he, hc]
    · refine .inr ⟨by simp [hlate], ?_⟩
      rcases h with hp | ⟨hp, h⟩
      · exact .inl (by omega)
      · refine .inr ⟨by rw [hp], ?_⟩
        rcases h with ⟨he, hc⟩ | ⟨hhint, h⟩
        · simp [he, hc]
        · exact .inr ⟨by simp [hhint], by omega⟩

/-! ### The candidates of a course -/

/-- The threads of a team on a course that could issue. -/
def State.ableOn (s : State) (t : Team) (course : Nat) : List Thread := t.threads.filter fun h => h.course == course && s.couldIssue t h

/-- A thread stands at a pair; a debugger's step makes a pair of its own (R377). -/
def Thread.atPair (h : Thread) (p : Nat × BitVec 56 × Option Nat) : Bool :=
  h.frame == p.1 && h.pc == p.2.1 && (if h.stepOne then some h.lrank else none) == p.2.2

/-- The ready threads of a pair. -/
def State.readyAtPair (s : State) (t : Team) (course : Nat) (p : Nat × BitVec 56 × Option Nat) : List Thread :=
  (s.ableOn t course).filter fun h => s.ready t h && h.atPair p

/-- The candidate of a pair. -/
def State.candOf (s : State) (t : Team) (course : Nat) (p : Nat × BitVec 56 × Option Nat) : Cand :=
  { team := t, frame := p.1, pc := p.2.1, threads := s.readyAtPair t course p, packet := s.fetch t (packetOf p.2.1).toNat }

theorem State.mem_ableOn {s : State} {t : Team} {course : Nat} {h : Thread} :
    h ∈ s.ableOn t course ↔ h ∈ t.threads ∧ h.course = course ∧ s.couldIssue t h = true := by
  simp [State.ableOn]

/-- Whether a packet, as it is fetched, lets a thread issue (R35): one that cannot be fetched does. -/
def State.packetReady (s : State) (t : Team) (h : Thread) (f : Fetch) : Bool :=
  match f with
  | .ok ws => flagsClear h ws && (match nextSlot ws (pcSlot h.pc) with | some k => !s.lacks t h ws k | none => true)
  | _ => true

theorem State.ready_eq (s : State) (t : Team) (h : Thread) :
    s.ready t h = (s.couldIssue t h && s.packetReady t h (s.fetch t (packetOf h.pc).toNat).2) := rfl

theorem State.couldIssue_of_ready {s : State} {t : Team} {h : Thread} (hr : s.ready t h = true) : s.couldIssue t h = true := by
  rw [State.ready_eq, Bool.and_eq_true] at hr
  exact hr.1

/-- The candidates are the ready threads of each pair, where there are any. -/
theorem State.candidates_eq (s : State) (die core course : Nat) :
    s.candidates die core course = (s.teams.filter fun t => t.die == die && t.core == core).flatMap fun t =>
      (pairsOf (s.ableOn t course)).filterMap fun p => if (s.readyAtPair t course p).isEmpty then none else some (s.candOf t course p) := by
  unfold State.candidates State.candOf
  dsimp only
  refine congrArg (List.flatMap · _) (funext fun t => congrArg (List.filterMap · _) (funext fun p => ?_))
  have hready : ∀ h ∈ s.ableOn t course, h.pc = p.2.1 → s.ready t h = s.packetReady t h (s.fetch t (packetOf p.2.1).toNat).2 := by
    intro h hh hpc
    rw [State.ready_eq, (State.mem_ableOn.1 hh).2.2, hpc, Bool.true_and]
  unfold State.readyAtPair
  generalize s.fetch t (packetOf p.2.1).toNat = f at hready ⊢
  obtain ⟨m, f⟩ := f
  have hpair : ∀ h ∈ s.ableOn t course, ∀ b : Bool, (h.pc = p.2.1 → s.ready t h = b) → (b && h.atPair p) = (s.ready t h && h.atPair p) := by
    intro h _ b hb
    by_cases hpc : h.pc = p.2.1
    · rw [hb hpc]
    · simp [Thread.atPair, beq_false_of_ne hpc]
  have hall : (s.ableOn t course).filter (fun h => s.ready t h && h.atPair p) =
      ((s.ableOn t course).filter (Thread.atPair · p)).filter (s.packetReady t · f) := by
    rw [List.filter_filter]
    exact List.filter_congr fun h hh => (hpair h hh _ (hready h hh)).symm
  rw [hall]
  cases f with
  | ok ws => rfl
  | fail r => rw [show (s.packetReady t · (.fail r)) = fun _ => true from rfl, List.filter_true]; rfl
  | poison va => rw [show (s.packetReady t · (.poison va)) = fun _ => true from rfl, List.filter_true]; rfl

theorem State.mem_candidates {s : State} {die core course : Nat} {c : Cand} : c ∈ s.candidates die core course ↔
    ∃ t ∈ s.teams, t.die = die ∧ t.core = core ∧ ∃ p ∈ pairsOf (s.ableOn t course), s.readyAtPair t course p ≠ [] ∧ c = s.candOf t course p := by
  rw [State.candidates_eq]
  simp only [List.mem_flatMap, List.mem_filter, Bool.and_eq_true, beq_iff_eq, List.mem_filterMap, Option.ite_none_left_eq_some, Option.some.injEq,
    List.isEmpty_iff, and_assoc]
  exact ⟨fun ⟨t, ht, hd, hk, p, hp, hne, hc⟩ => ⟨t, ht, hd, hk, p, hp, hne, hc.symm⟩,
    fun ⟨t, ht, hd, hk, p, hp, hne, hc⟩ => ⟨t, ht, hd, hk, p, hp, hne, hc.symm⟩⟩

/-- What a candidate is. -/
theorem State.of_mem_candidates {s : State} {die core course : Nat} {c : Cand} (hc : c ∈ s.candidates die core course) :
    c.team ∈ s.teams ∧ c.team.die = die ∧ c.team.core = core ∧ c.threads ≠ [] ∧ c.packet = s.fetch c.team (packetOf c.pc).toNat ∧
      ∀ h ∈ c.threads, h ∈ c.team.threads ∧ h.course = course ∧ h.frame = c.frame ∧ h.pc = c.pc ∧ s.ready c.team h = true := by
  obtain ⟨t, ht, hd, hk, p, -, hne, rfl⟩ := State.mem_candidates.1 hc
  refine ⟨ht, hd, hk, hne, rfl, fun h hh => ?_⟩
  obtain ⟨hable, hr⟩ := List.mem_filter.1 hh
  obtain ⟨hm, hcourse, -⟩ := State.mem_ableOn.1 hable
  simp only [Thread.atPair, Bool.and_eq_true, beq_iff_eq] at hr
  exact ⟨hm, hcourse, hr.2.1.1, hr.2.1.2, hr.1⟩

/-- A ready thread is one of a candidate. -/
theorem State.mem_candidates_of_ready {s : State} {course : Nat} {t : Team} {h : Thread} (ht : t ∈ s.teams) (hh : h ∈ t.threads)
    (hcourse : h.course = course) (hr : s.ready t h = true) : ∃ c ∈ s.candidates t.die t.core course, c.team = t ∧ h ∈ c.threads := by
  have hable : h ∈ s.ableOn t course := State.mem_ableOn.2 ⟨hh, hcourse, State.couldIssue_of_ready hr⟩
  let p : Nat × BitVec 56 × Option Nat := (h.frame, h.pc, if h.stepOne then some h.lrank else none)
  have hp : p ∈ pairsOf (s.ableOn t course) := List.mem_dedup.2 (List.mem_map.2 ⟨h, hable, rfl⟩)
  have hmem : h ∈ s.readyAtPair t course p := List.mem_filter.2 ⟨hable, by simp [hr, Thread.atPair, p]⟩
  exact ⟨_, State.mem_candidates.2 ⟨t, ht, rfl, rfl, p, hp, List.ne_nil_of_mem hmem, rfl⟩, rfl, hmem⟩

/-! ### What a fetch leaves as it is -/

/-- The bundles, the teams, what is in flight and the launches. -/
def State.work (s : State) : Option Bundle × List Bundle × List Team × List Op × List Cmd × List Launch :=
  (s.bundle, s.others, s.teams, s.ops, s.cmds, s.launches)

def State.KeepsWork (s m : State) : Prop := m.work = s.work

theorem State.KeepsWork.refl (s : State) : s.KeepsWork s := rfl

theorem State.KeepsWork.trans {s m n : State} (h : s.KeepsWork m) (k : m.KeepsWork n) : s.KeepsWork n := Eq.trans k h

theorem State.KeepsWork.of_eq {s m n : State} (e : n = s) (hw : m.work = n.work) : s.KeepsWork m := e ▸ hw

theorem State.keepsWork_iff {s m : State} : s.KeepsWork m ↔
    m.bundle = s.bundle ∧ m.others = s.others ∧ m.teams = s.teams ∧ m.ops = s.ops ∧ m.cmds = s.cmds ∧ m.launches = s.launches := by
  simp only [State.KeepsWork, State.work, Prod.mk.injEq]

theorem State.Reports.keepsWork {s m : State} (h : s.Reports m) : s.KeepsWork m :=
  .of_eq h.1 rfl

theorem State.AtHomes.keepsWork {s m : State} (h : s.AtHomes m) : s.KeepsWork m :=
  .of_eq h rfl

theorem State.record_keepsWork (s : State) (r : Rec) (bits : Word) : s.KeepsWork (s.record r bits) :=
  .trans (s.record_spec r bits).keepsWork rfl

theorem State.translate_keepsWork (s : State) (die : Nat) (core : Option Nat) (c : Context) (wa kind : Nat) :
    s.KeepsWork (s.translate die core c wa kind).1 :=
  .of_eq (s.translate_frame die core c wa kind) rfl

theorem State.global_keepsWork (s : State) (die : Nat) (core : Option Nat) (c : Context) (a n need kind : Nat) :
    s.KeepsWork (s.global die core c a n need kind).1 := by
  have h := s.translate_keepsWork die core c (c.windowAddr a) kind
  unfold State.global
  dsimp only
  split
  · exact .refl s
  · split <;> rename_i heq <;> rw [heq] at h
    · split <;> exact h
    · exact h
    · exact h

theorem State.leaseCheck_keepsWork (s : State) (ctx scope va pa : Nat) : s.KeepsWork (s.leaseCheck ctx scope va pa) := by
  unfold State.leaseCheck
  dsimp only
  split
  · exact (s.setLine_atHomes _).keepsWork.trans (State.record_keepsWork _ _ _)
  · exact .refl s

theorem State.mergeChecks_keepsWork (s : State) (ctx : Nat) (a : Access) : s.KeepsWork (s.mergeChecks ctx a) := by
  unfold State.mergeChecks State.leaseChecks
  split
  · split
    · exact List.foldlRecOn _ _ (.refl s) fun m hm l _ => hm.trans (m.leaseCheck_keepsWork _ _ _ _)
    · exact .refl s
  · exact .refl s

theorem State.homeRead_keepsWork (s : State) (ctx : Nat) (a : Access) : s.KeepsWork (s.homeRead ctx a).1 :=
  (s.mergeChecks_keepsWork ctx a).trans (State.readHome_atHomes _ _).keepsWork

theorem State.fetch_keepsWork (s : State) (t : Team) (pc : Nat) : s.KeepsWork (s.fetch t pc).1 := by
  unfold State.fetch
  dsimp only
  split
  · exact .refl s
  · split
    · exact .refl s
    · next c _ =>
      have h := s.global_keepsWork t.die (some t.core) c pc 16 2 2
      split <;> rename_i heq <;> rw [heq] at h
      · split
        · exact h
        · split
          · exact h
          · exact h.trans (State.homeRead_keepsWork _ _ _)
      · exact h

/-! ### The bundle is not touched by the end of a packet's failures or of a debugger's step -/

theorem State.Reports.bundle {s m : State} (h : s.Reports m) : m.bundle = s.bundle := congrArg Prod.fst h.keepsWork

@[simp] theorem State.recordBytes_bundle (s : State) (ctx : Nat) (bs : List Byte) (bits : Word) : (s.recordBytes ctx bs bits).bundle = s.bundle := by
  unfold State.recordBytes
  split
  · rfl
  · next c _ =>
    have h := ((s.countRead_reports c.ring).trans ((s.countRead c.ring).ringPut_reports c.ring bs)).bundle
    dsimp only
    split <;> exact h

@[simp] theorem State.endFailures_bundle (s : State) (b : Bundle) : (s.endFailures b).bundle = s.bundle := by
  unfold State.endFailures
  refine List.foldlRecOn (motive := fun m : State => m.bundle = s.bundle) _ _ ?_ fun m hm r _ => (m.recordBytes_bundle r.ctx r.bytes r.bits).trans hm
  split
  · split_ifs <;> rfl
  · rfl

@[simp] theorem State.debugEvent_bundle (s : State) (t : Team) (lrank event : Nat) (pc : BitVec 56) :
    (s.debugEvent t lrank event pc).bundle = s.bundle := by
  unfold State.debugEvent
  split
  · rfl
  · exact (s.devPut_reports _ _).bundle

@[simp] theorem State.stepOver_bundle (s : State) (team r code : Nat) : (s.stepOver team r code).bundle = s.bundle := by
  unfold State.stepOver
  split
  · split <;> rfl
  · rfl

@[simp] theorem State.stepEnds_bundle (s : State) (team r : Nat) : (s.stepEnds team r).bundle = s.bundle := by
  unfold State.stepEnds
  split
  · split_ifs <;> simp
  · rfl

@[simp] theorem State.endBundle_bundle (s : State) (b : Bundle) : (s.endBundle b).bundle = none := by
  unfold State.endBundle
  dsimp only
  split
  · simp
  · exact List.foldlRecOn (motive := fun m : State => m.bundle = none) _ _ (by simp) fun m hm h _ => (m.stepEnds_bundle _ _).trans hm

/-! ### A packet that issues -/

theorem Takes.mem {all hs : List Thread} (h : Takes all hs) {x : Thread} (hx : x ∈ hs) : x ∈ all := by
  obtain ⟨rest, o, hperm, -⟩ := h
  exact hperm.mem_iff.1 (List.mem_append_left rest hx)

theorem Takes.ne_nil {all hs : List Thread} (h : Takes all hs) (hne : all ≠ []) : hs ≠ [] := by
  obtain ⟨rest, o, -, hlen, -⟩ := h
  have := List.length_pos_of_ne_nil hne
  exact List.ne_nil_of_length_pos (by omega)

/-- A course on which no bundle is in progress. -/
def State.NoBundleOn (s : State) (die core course : Nat) : Prop :=
  ∀ b ∈ s.bundle.toList ++ s.others, ¬ (b.die = die ∧ b.core = core ∧ b.course = course)

theorem State.any_on_eq_false {s : State} {die core course : Nat} (h : s.NoBundleOn die core course) :
    ((s.bundle.toList ++ s.others).any fun b => b.die == die && b.core == core && b.course == course) = false := by
  rw [List.any_eq_false]
  intro b hb
  simpa [and_assoc] using h b hb

/-- The picker's candidate issues its packet in the threads of the bundle that is formed, where no packet fault and no breakpoint is met. -/
theorem State.packetIssue_eq_beginBundle {s s1 : State} {die core course : Nat} {c : Cand} {ws : List Word} (hno : s.NoBundleOn die core course)
    (hbest : s.best die core course = some c) (hne : c.threads ≠ []) (hp : c.packet = (s1, .ok ws))
    (hcls : ∀ h ∈ c.threads, packetClass ws h.nreg (s1.isDet c.team) = none) (hbp : ∀ h ∈ c.threads, s1.breaksAt c.team h (packetOf c.pc) = false) :
    s.packetIssue die core course = s1.beginBundle c.team c (formBundle c.threads) ws course := by
  have htakes := formBundle_takes c.threads hne
  have hhit : (formBundle c.threads).filter (fun h => s1.breaksAt c.team h (packetOf c.pc)) = [] :=
    List.filter_eq_nil_iff.2 fun h hh => by simp [hbp h (htakes.mem hh)]
  have hgo : (formBundle c.threads).filter (fun h => !s1.breaksAt c.team h (packetOf c.pc)) = formBundle c.threads :=
    List.filter_eq_self.2 fun h hh => by simp [hbp h (htakes.mem hh)]
  have hhead : packetClass ws (((formBundle c.threads).map (·.nreg)).headD 0) (s1.isDet c.team) = none := by
    obtain ⟨h, l, hl⟩ := List.exists_cons_of_ne_nil (htakes.ne_nil hne)
    have := hcls h (htakes.mem (hl ▸ List.mem_cons_self))
    simpa [hl] using this
  have hempty : (formBundle c.threads).isEmpty = false := by simpa using htakes.ne_nil hne
  unfold State.packetIssue
  simp only [State.any_on_eq_false hno, hbest, hp, hhit, hgo, List.foldl_nil, hempty, hhead, Bool.false_eq_true, if_false]

theorem State.packetIssue_of_busy {s : State} {die core course : Nat}
    (h : ∃ b ∈ s.bundle.toList ++ s.others, b.die = die ∧ b.core = core ∧ b.course = course) : s.packetIssue die core course = s := by
  have : ((s.bundle.toList ++ s.others).any fun b => b.die == die && b.core == core && b.course == course) = true := by
    obtain ⟨b, hb, hd, hk, hc⟩ := h
    exact List.any_eq_true.2 ⟨b, hb, by simp [hd, hk, hc]⟩
  rw [State.packetIssue, if_pos this]

theorem State.packetIssue_of_idle {s : State} {die core course : Nat} (h : s.candidates die core course = []) : s.packetIssue die core course = s := by
  have : s.best die core course = none := by rw [State.best_eq_foldl, h]; rfl
  simp only [State.packetIssue, this, ite_self]

/-- In a team whose threads have different launch ranks each is found by its own. -/
theorem Team.thread?_of_mem {t : Team} {h : Thread} (hnd : (t.threads.map (·.lrank)).Nodup) (hh : h ∈ t.threads) : t.thread? h.lrank = some h := by
  unfold Team.thread?
  generalize t.threads = l at hnd hh ⊢
  induction l with
  | nil => cases hh
  | cons x l ih =>
    obtain ⟨hx, hl⟩ := List.nodup_cons.1 hnd
    rcases List.mem_cons.1 hh with rfl | hm
    · simp
    · have : (x.lrank == h.lrank) = false := beq_false_of_ne fun e => hx (List.mem_map.2 ⟨h, hm, e.symm⟩)
      rw [List.find?_cons, this]
      exact ih hl hm

theorem Team.thread?_mapIf (t : Team) (p : Thread → Bool) (f : Thread → Thread) (hf : ∀ h, (f h).lrank = h.lrank) (r : Nat) :
    { t with threads := mapIf p f t.threads }.thread? r = (t.thread? r).map fun h => if p h then f h else h :=
  find?_mapIf p (fun h => h.lrank == r) f t.threads fun h => by rw [hf]

/-! ### Ages counted anew -/

theorem State.Ages.refl (s : State) : s.Ages s := by
  refine ⟨rfl, fun j => ?_⟩
  cases s.team? j with
  | none => rfl
  | some t =>
    refine ⟨t, rfl, rfl, fun r => ?_⟩
    cases t.thread? r with
    | none => rfl
    | some h => exact .inl rfl

theorem State.team?_modThread (s : State) (id r : Nat) (f : Thread → Thread) (j : Nat) :
    (s.modThread id r f).team? j = (s.team? j).map fun t => if t.id == id then t.modThread r f else t :=
  find?_mapIf (fun t : Team => t.id == id) (fun t => t.id == j) (Team.modThread · r f) s.teams fun _ => rfl

theorem Team.thread?_modThread_map (t : Team) (r : Nat) (f : Thread → Thread) (hf : ∀ h, (f h).lrank = h.lrank) (k : Nat) :
    (t.modThread r f).thread? k = (t.thread? k).map fun h => if h.lrank == r then f h else h := t.thread?_mapIf _ f hf k

/-- One more thread counts its age anew. -/
theorem State.Ages.modThread {s m : State} (hm : s.Ages m) (id r clock : Nat) :
    s.Ages (m.modThread id r fun h => { h with readyAt := clock, aged := false }) := by
  obtain ⟨heq, hteams⟩ := hm
  refine ⟨heq, fun j => ?_⟩
  have hj := hteams j
  rw [State.team?_modThread]
  cases hs : s.team? j with
  | none =>
    rw [hs] at hj
    simp [hj]
  | some t =>
    rw [hs] at hj
    obtain ⟨t', ht', hrest, hthreads⟩ := hj
    rw [ht', Option.map_some]
    by_cases hid : (t'.id == id) = true
    · rw [if_pos hid]
      refine ⟨_, rfl, hrest, fun k => ?_⟩
      have hk := hthreads k
      have hmap := t'.thread?_modThread_map r (fun h => { h with readyAt := clock, aged := false }) (fun _ => rfl) k
      rw [hmap]
      cases hth : t.thread? k with
      | none =>
        rw [hth] at hk
        simp [hk]
      | some h =>
        rw [hth] at hk
        change _ = some h ∨ _
        rcases hk with hk | ⟨c, hk⟩
        · rw [hk, Option.map_some]
          split
          · exact .inr ⟨clock, rfl⟩
          · exact .inl rfl
        · rw [hk, Option.map_some]
          split
          · exact .inr ⟨clock, rfl⟩
          · exact .inr ⟨c, rfl⟩
    · rw [if_neg hid]
      exact ⟨t', rfl, hrest, hthreads⟩

theorem State.newlyReady_ages (old s : State) (die core : Nat) : s.Ages (old.newlyReady s die core) := by
  unfold State.newlyReady
  exact List.foldlRecOn _ _ (.refl s) fun m hm t _ => List.foldlRecOn _ _ hm fun n hn r _ => hn.modThread t.id r _

/-! ### One core that differs -/

theorem State.onlyCore_modCore {s : State} {die core : Nat} {c : Core} (f : Core → Core) (R : Core → Core → Prop)
    (hc : s.core? die core = some c) (hdie : ∀ x, (f x).die = x.die) (hnum : ∀ x, (f x).num = x.num) (hR : R c (f c)) :
    s.OnlyCore (s.modCore die core f) die core R := by
  have hfind : ∀ d n, (s.modCore die core f).core? d n = (s.core? d n).map fun x => if x.die == die && x.num == core then f x else x :=
    fun d n => find?_mapIf (fun x : Core => x.die == die && x.num == core) (fun x => x.die == d && x.num == n) f s.cores
      fun x => by rw [hdie, hnum]
  have hkey : ∀ d n x, s.core? d n = some x → x.die = d ∧ x.num = n := fun d n x hx => by simpa using List.find?_some hx
  refine ⟨rfl, fun d n hne => ?_, ?_⟩
  · rw [hfind]
    cases hx : s.core? d n with
    | none => rfl
    | some x =>
      obtain ⟨rfl, rfl⟩ := hkey d n x hx
      rw [Option.map_some, if_neg (by simpa using hne)]
  · rw [hc]
    obtain ⟨rfl, rfl⟩ := hkey die core c hc
    exact ⟨f c, by rw [hfind, hc]; simp, hR⟩

/-! ### The steps of the picker -/

/-- What the candidates are, and which of them the picker takes (R139, R161). -/
theorem State.candidates_spec (s : State) (die core course : Nat) :
    (∀ c ∈ s.candidates die core course, c.team ∈ s.teams ∧ c.team.die = die ∧ c.team.core = core ∧ c.threads ≠ [] ∧
        c.packet = s.fetch c.team (packetOf c.pc).toNat ∧
        ∀ h ∈ c.threads, h ∈ c.team.threads ∧ h.course = course ∧ h.frame = c.frame ∧ h.pc = c.pc ∧ s.ready c.team h = true) ∧
      (∀ t ∈ s.teams, t.die = die → t.core = core → ∀ h ∈ t.threads, h.course = course → s.ready t h = true →
        ∃ c ∈ s.candidates die core course, c.team = t ∧ h ∈ c.threads) ∧
      (s.candidates die core course ≠ [] → ∃ c, s.best die core course = some c) ∧
      ∀ c, s.best die core course = some c → c ∈ s.candidates die core course ∧
        ∀ e ∈ s.candidates die core course, ∀ n m i j, e.ReadySince n → c.ReadySince m → e.LowestRank i → c.LowestRank j →
          ¬ s.GoesBefore e c n m i j := by
  refine ⟨fun c hc => State.of_mem_candidates hc, fun t ht hd hk h hh hcourse hr => ?_, fun hne => ?_, fun c hc => ?_⟩
  · subst hd hk
    exact State.mem_candidates_of_ready ht hh hcourse hr
  · obtain ⟨h, -⟩ | ⟨c, -, hc, -⟩ := s.best_spec die core course
    · exact absurd h hne
    · exact ⟨c, hc⟩
  · obtain ⟨-, h⟩ | ⟨c', hmem, hc', hmin⟩ := s.best_spec die core course
    · rw [h] at hc
      cases hc
    · obtain rfl : c' = c := Option.some.inj (hc'.symm.trans hc)
      exact ⟨hmem, fun e he n m i j hn hm hi hj hb => hmin e he (s.rankOf_lt_of_goesBefore e c' n m i j hn hm hi hj hb)⟩

/-- The picker's candidate is one of its core's. -/
theorem State.of_best {s : State} {die core course : Nat} {c : Cand} (h : s.best die core course = some c) :
    c.team.die = die ∧ c.team.core = core ∧ c.threads ≠ [] ∧ c.packet = s.fetch c.team (packetOf c.pc).toNat := by
  obtain ⟨hmem, -⟩ := (s.candidates_spec die core course).2.2.2 c h
  obtain ⟨-, hd, hk, hne, hp, -⟩ := State.of_mem_candidates hmem
  exact ⟨hd, hk, hne, hp⟩

/-- A thread as its packet issues. -/
def Thread.atIssue (ws : List Word) (pc : BitVec 56) (h : Thread) : Thread :=
  { h with hintMark := false, yieldMark := yieldBit ws, aged := false, skipBp := if h.skipBp == some (packetOf pc) then none else h.skipBp,
           stepRun := h.stepOne, sinceOpen := if h.openWin.isEmpty then h.sinceOpen else h.sinceOpen + 1 }

/-- The threads of a list in a team as their packet issues. -/
def Team.atIssue (t : Team) (ranks : List Nat) (ws : List Word) (pc : BitVec 56) : Team :=
  { t with threads := mapIf (fun h => ranks.contains h.lrank) (Thread.atIssue ws pc) t.threads }

/-- A bundle that has not come to a slot yet. -/
def Cand.bundle (c : Cand) (t : Team) (ranks : List Nat) (ws : List Word) (course : Nat) : Bundle :=
  { team := t.id, frame := c.frame, die := t.die, core := t.core, course := course, ranks := ranks, pc := c.pc, words := ws, slot := 0 }

theorem State.beginBundle_of_slot {s : State} {t : Team} {c : Cand} {hs : List Thread} {ws : List Word} {course k : Nat}
    (hk : nextSlot ws (pcSlot c.pc) = some k) : s.beginBundle t c hs ws course =
      { s.modTeam t.id (Team.atIssue · (hs.map (·.lrank)) ws c.pc) with
        others := s.others ++ s.bundle.toList, bundle := some { c.bundle t (hs.map (·.lrank)) ws course with slot := k } } := by
  unfold State.beginBundle
  simp only [hk]
  rfl

theorem State.beginBundle_of_no_slot {s : State} {t : Team} {c : Cand} {hs : List Thread} {ws : List Word} {course : Nat}
    (hk : nextSlot ws (pcSlot c.pc) = none) : (s.beginBundle t c hs ws course).bundle = none := by
  unfold State.beginBundle
  simp only [hk, State.endBundle_bundle]

/-- A thread of an issuing packet has lost its hint and its age, and has the packet's yield mark. -/
theorem State.thread?_atIssue {s : State} {t : Team} {ranks : List Nat} {ws : List Word} {pc : BitVec 56} {h : Thread} (ht : s.team? t.id = some t)
    (hnd : (t.threads.map (·.lrank)).Nodup) (hh : h ∈ t.threads) (hr : h.lrank ∈ ranks) :
    (s.modTeam t.id (Team.atIssue · ranks ws pc)).thread? t.id h.lrank = some (h.atIssue ws pc) := by
  have hteam := State.team?_modTeam s t.id (Team.atIssue · ranks ws pc) fun _ => rfl
  rw [ht] at hteam
  have hthread := Team.thread?_mapIf t (fun h => ranks.contains h.lrank) (Thread.atIssue ws pc) (fun _ => rfl) h.lrank
  rw [Team.thread?_of_mem hnd hh, Option.map_some, if_pos (by simpa using hr)] at hthread
  rw [State.thread?, hteam]
  exact hthread

/-! ### Settling O54 -/

/-- A course with a candidate whose packet meets no fault and no breakpoint, and no bundle. -/
def State.Picks (s : State) (die core course : Nat) (c : Cand) (s1 : State) (ws : List Word) : Prop :=
  s.NoBundleOn die core course ∧ s.best die core course = some c ∧ c.packet = (s1, .ok ws) ∧
    (∀ h ∈ c.threads, packetClass ws h.nreg (s1.isDet c.team) = none) ∧ ∀ h ∈ c.threads, s1.breaksAt c.team h (packetOf c.pc) = false

theorem State.Picks.exec_eq {s : State} {die core course : Nat} {c : Cand} {s1 : State} {ws : List Word} (h : s.Picks die core course c s1 ws) :
    exec (.packetIssue die core course) s = .next (s1.beginBundle c.team c (formBundle c.threads) ws course) := by
  obtain ⟨hno, hbest, hp, hcls, hbp⟩ := h
  obtain ⟨-, -, hne, -⟩ := State.of_best hbest
  exact congrArg Host.Outcome.next (State.packetIssue_eq_beginBundle hno hbest hne hp hcls hbp)

/-- A packet with an instruction at or after the resume slot begins at the first of those. -/
theorem State.Picks.issues {s : State} {die core course : Nat} {c : Cand} {s1 : State} {ws : List Word} {k : Nat} (h : s.Picks die core course c s1 ws)
    (hk : nextSlot ws (pcSlot c.pc) = some k) :
    ∃ s' b hs, exec (.packetIssue die core course) s = .next s' ∧ s'.bundle = some b ∧ s'.others = s.others ++ s.bundle.toList ∧
        b.team = c.team.id ∧ b.frame = c.frame ∧ b.die = die ∧ b.core = core ∧ b.pc = c.pc ∧ b.words = ws ∧ b.slot = k ∧ b.course = course ∧
        b.ranks = hs.map (·.lrank) ∧ Takes c.threads hs ∧
        { s' with bundle := s1.bundle, others := s1.others, teams := s1.teams } = s1 ∧ (∀ q, q ≠ c.team.id → s'.team? q = s1.team? q) ∧
        (s1.team? c.team.id = some c.team → (c.team.threads.map (·.lrank)).Nodup → ∀ h ∈ hs, ∃ h', s'.thread? c.team.id h.lrank = some h' ∧
          h'.hintMark = false ∧ h'.aged = false ∧ h'.yieldMark = (ws.getD 0 0).getLsbD 28 ∧ h'.pc = h.pc ∧ h'.v = h.v ∧ h'.flags = h.flags) := by
  have hexec := h.exec_eq
  rw [State.beginBundle_of_slot hk] at hexec
  obtain ⟨-, hbest, hp, -⟩ := h
  obtain ⟨hmem, -⟩ := (s.candidates_spec die core course).2.2.2 c hbest
  obtain ⟨-, hd, hcore, hne, hfetch, hthreads⟩ := State.of_mem_candidates hmem
  have hkeeps : s.KeepsWork s1 := by
    have := s.fetch_keepsWork c.team (packetOf c.pc).toNat
    rwa [← hfetch, hp] at this
  obtain ⟨hbundle, hothers, -⟩ := State.keepsWork_iff.1 hkeeps
  have htakes := formBundle_takes c.threads hne
  refine ⟨_, _, formBundle c.threads, hexec, rfl, by rw [← hothers, ← hbundle], rfl, rfl, hd, hcore, rfl, rfl, rfl, rfl, rfl, htakes, rfl,
    fun q hq => State.team?_modTeam_ne s1 c.team.id q _ (fun _ => rfl) hq, fun ht hnd h hh => ?_⟩
  obtain ⟨hin, -⟩ := hthreads h (htakes.mem hh)
  exact ⟨_, State.thread?_atIssue ht hnd hin (List.mem_map_of_mem hh), rfl, rfl, rfl, rfl, rfl, rfl⟩

/-- One with none ends at once. -/
theorem State.Picks.passes {s : State} {die core course : Nat} {c : Cand} {s1 : State} {ws : List Word} (h : s.Picks die core course c s1 ws)
    (hk : nextSlot ws (pcSlot c.pc) = none) : ∃ s', exec (.packetIssue die core course) s = .next s' ∧ s'.bundle = none :=
  ⟨_, h.exec_eq, State.beginBundle_of_no_slot hk⟩

/-! ### Aging and yields -/

section Threads

variable {s : State} {t : Team} {h : Thread}

theorem State.threadAging_eq (ht : s.team? t.id = some t) (hh : t.thread? h.lrank = some h) : s.threadAging t.id h.lrank =
    if s.ready t h && decide (h.readyAt + 1024 ≤ s.clock t.die t.core) then s.modThread t.id h.lrank fun h => { h with aged := true } else s := by
  have hth : s.thread? t.id h.lrank = some h := by rw [State.thread?, ht]; exact hh
  simp only [State.threadAging, ht, hth]

theorem State.yieldExpiry_eq {e : Nat} (ht : s.team? t.id = some t) (hh : t.thread? h.lrank = some h) (he : h.yieldAt = some e) :
    s.yieldExpiry t.id h.lrank = if e ≤ s.clock t.die t.core then
      s.modThread t.id h.lrank fun h => { h with yieldAt := none, yieldMark := true, readyAt := s.clock t.die t.core } else s := by
  have hth : s.thread? t.id h.lrank = some h := by rw [State.thread?, ht]; exact hh
  simp only [State.yieldExpiry, ht, hth, he]

end Threads

/-! ### The lost-locality detector -/

/-- A core at the end of a window, the permits withdrawn where it was heavy. -/
def Core.windowEnd (now : Nat) (c : Core) : Core :=
  if now < c.winAt + 1024 then c
  else
    let d := if 32 ≤ c.reref then { (c.withdraw (max 1 (c.permitP / 2)) now) with lastHeavy := now } else c
    { d with reref := 0, winAt := c.winAt + 1024 }

def Core.permitUp (now : Nat) (c : Core) : Core :=
  if now < max c.lastHeavy c.lastRise + 4096 then c else ({ c with permitP := min 32 (c.permitP + 1), lastRise := now }).grant

def Core.permitTurn (now : Nat) (c : Core) : Core :=
  match c.permits, c.waiters with
  | p :: ps, w :: ws => if now < c.lastTurn + 4096 then c else { c with permits := ps ++ [w], waiters := ws ++ [p], lastTurn := now }
  | _, _ => c

theorem State.localityWindow_eq (s : State) (die core : Nat) :
    s.localityWindow die core = s.modCore die core (Core.windowEnd (s.clock die core)) := rfl

theorem State.permitIncrease_eq (s : State) (die core : Nat) :
    s.permitIncrease die core = s.newlyReady (s.modCore die core (Core.permitUp (s.clock die core))) die core := rfl

theorem State.permitRotation_eq (s : State) (die core : Nat) :
    s.permitRotation die core = s.newlyReady (s.modCore die core (Core.permitTurn (s.clock die core))) die core := rfl

/-- A core keeps its place. -/
def Core.KeepsPlace (f : Core → Core) : Prop := ∀ x, (f x).die = x.die ∧ (f x).num = x.num

theorem Core.windowEnd_keepsPlace (now : Nat) : Core.KeepsPlace (Core.windowEnd now) := fun x => by
  unfold Core.windowEnd
  dsimp only
  split_ifs <;> exact ⟨rfl, rfl⟩

theorem Core.permitUp_keepsPlace (now : Nat) : Core.KeepsPlace (Core.permitUp now) := fun x => by
  unfold Core.permitUp
  split_ifs <;> exact ⟨rfl, rfl⟩

theorem Core.permitTurn_keepsPlace (now : Nat) : Core.KeepsPlace (Core.permitTurn now) := fun x => by
  unfold Core.permitTurn
  split
  · split_ifs <;> exact ⟨rfl, rfl⟩
  · exact ⟨rfl, rfl⟩

theorem Core.windowEnd_of_lt {now : Nat} {c : Core} (h : now < c.winAt + 1024) : c.windowEnd now = c := if_pos h

theorem Core.windowEnd_of_light {now : Nat} {c : Core} (h : c.winAt + 1024 ≤ now) (hl : c.reref < 32) :
    c.windowEnd now = { c with reref := 0, winAt := c.winAt + 1024 } := by
  rw [Core.windowEnd, if_neg (by omega), if_neg (by omega)]

theorem Core.windowEnd_of_heavy {now : Nat} {c : Core} (h : c.winAt + 1024 ≤ now) (hl : 32 ≤ c.reref) :
    c.windowEnd now = { c.withdraw (max 1 (c.permitP / 2)) now with lastHeavy := now, reref := 0, winAt := c.winAt + 1024 } := by
  rw [Core.windowEnd, if_neg (by omega), if_pos hl]

theorem Core.permitUp_of_lt {now : Nat} {c : Core} (h : now < max c.lastHeavy c.lastRise + 4096) : c.permitUp now = c := if_pos h

theorem Core.permitUp_of_le {now : Nat} {c : Core} (h : max c.lastHeavy c.lastRise + 4096 ≤ now) :
    c.permitUp now = ({ c with permitP := min 32 (c.permitP + 1), lastRise := now }).grant := if_neg (by omega)

theorem Core.permitTurn_of_idle {now : Nat} {c : Core} (h : now < c.lastTurn + 4096 ∨ c.permits = [] ∨ c.waiters = []) : c.permitTurn now = c := by
  unfold Core.permitTurn
  split
  · next hp hw =>
    rcases h with h | h | h
    · exact if_pos h
    · rw [h] at hp
      cases hp
    · rw [h] at hw
      cases hw
  · rfl

theorem Core.permitTurn_of_le {now p w : Nat} {ps ws : List Nat} {c : Core} (hp : c.permits = p :: ps) (hw : c.waiters = w :: ws)
    (h : c.lastTurn + 4096 ≤ now) : c.permitTurn now = { c with permits := ps ++ [w], waiters := ws ++ [p], lastTurn := now } := by
  simp only [Core.permitTurn, hp, hw]
  exact if_neg (by omega)

section Detector

variable {s : State} {die core : Nat} {c : Core}

theorem State.localityWindow_onlyCore (R : Core → Core → Prop) (hc : s.core? die core = some c) (hR : R c (c.windowEnd (s.clock die core))) :
    s.OnlyCore (s.localityWindow die core) die core R :=
  State.onlyCore_modCore _ R hc (fun x => (Core.windowEnd_keepsPlace _ x).1) (fun x => (Core.windowEnd_keepsPlace _ x).2) hR

/-- PERMIT_INCREASE changes one core, and then the teams that have a permit by it are ready. -/
theorem State.exec_permitIncrease (R : Core → Core → Prop) (hc : s.core? die core = some c) (hR : R c (c.permitUp (s.clock die core))) :
    ∃ m s', exec (.permitIncrease die core) s = .next s' ∧ m.Ages s' ∧ s.OnlyCore m die core R :=
  ⟨_, _, rfl, State.newlyReady_ages _ _ die core,
    State.onlyCore_modCore _ R hc (fun x => (Core.permitUp_keepsPlace _ x).1) (fun x => (Core.permitUp_keepsPlace _ x).2) hR⟩

theorem State.exec_permitRotation (R : Core → Core → Prop) (hc : s.core? die core = some c) (hR : R c (c.permitTurn (s.clock die core))) :
    ∃ m s', exec (.permitRotation die core) s = .next s' ∧ m.Ages s' ∧ s.OnlyCore m die core R :=
  ⟨_, _, rfl, State.newlyReady_ages _ _ die core,
    State.onlyCore_modCore _ R hc (fun x => (Core.permitTurn_keepsPlace _ x).1) (fun x => (Core.permitTurn_keepsPlace _ x).2) hR⟩

end Detector

/-- Settles O54: the candidates are the ready threads of each pair; the picker's fold keeps one whose list of R139 no other undercuts; a bundle
takes the first 32 of the threads in the order of R26; the other steps are an update of one thread or of one core. -/
theorem issueAndPermits : Obligations.IssueAndPermits := by
  unfold Obligations.IssueAndPermits
  refine ⟨State.candidates_spec, fun s die core course c s1 ws k hno hbest hp hcls hbp hk => State.Picks.issues ⟨hno, hbest, hp, hcls, hbp⟩ hk,
    fun s t pc => State.keepsWork_iff.1 (s.fetch_keepsWork t pc),
    fun s die core course c s1 ws hno hbest hp hcls hbp hk => State.Picks.passes ⟨hno, hbest, hp, hcls, hbp⟩ hk, ?_, ?_, ?_, ?_, ?_, ?_, ?_, ?_, ?_⟩
  · rintro s die core course (h | h)
    · exact congrArg Host.Outcome.next (State.packetIssue_of_busy h)
    · exact congrArg Host.Outcome.next (State.packetIssue_of_idle h)
  · intro s t h ht hh hr hage
    refine ⟨_, rfl, ?_⟩
    rw [State.threadAging_eq ht hh, if_pos (by simp [hr, hage])]
    exact State.turns_modThread s t h _ ht hh fun _ => rfl
  · intro s t h ht hh hno
    refine congrArg Host.Outcome.next ?_
    rw [State.threadAging_eq ht hh, if_neg]
    rcases hno with hr | hage
    · simp [hr]
    · simp [hage]
  · intro s t h e ht hh he hle
    refine ⟨_, rfl, ?_⟩
    rw [State.yieldExpiry_eq ht hh he, if_pos hle]
    exact State.turns_modThread s t h _ ht hh fun _ => rfl
  · intro s t h e ht hh he hlt
    refine congrArg Host.Outcome.next ?_
    rw [State.yieldExpiry_eq ht hh he, if_neg (by omega)]
  · intro s die core c hc now hle
    refine ⟨_, rfl, State.localityWindow_onlyCore _ hc ?_⟩
    rcases Nat.lt_or_ge c.reref 32 with hl | hl
    · rw [Core.windowEnd_of_light hle hl]
      exact ⟨rfl, rfl, rfl, fun _ => ⟨rfl, rfl, rfl, rfl⟩, fun h => by omega⟩
    · rw [Core.windowEnd_of_heavy hle hl]
      exact ⟨rfl, rfl, rfl, fun h => by omega, fun _ => ⟨rfl, rfl, rfl, rfl⟩⟩
  · intro s die core c hc hle
    refine State.exec_permitIncrease _ hc ?_
    rw [Core.permitUp_of_le hle]
    exact ⟨rfl, rfl, rfl, rfl, rfl⟩
  · intro s die core c p w ps ws hc hp hw hle
    exact State.exec_permitRotation _ hc (Core.permitTurn_of_le hp hw hle)
  · intro s die core c hc now still
    refine ⟨fun h => ?_, fun h => State.exec_permitIncrease _ hc (Core.permitUp_of_lt h),
      fun h => State.exec_permitRotation _ hc (Core.permitTurn_of_idle h)⟩
    exact ⟨_, _, rfl, .refl _, State.localityWindow_onlyCore _ hc (Core.windowEnd_of_lt h)⟩

end Sys2Proof.Machine

/-!
LAWS. Completions (O50): a team none of whose threads waits at a rendezvous is up to date, and two uniform writes that share a number.
-/

namespace Sys2Proof.Machine

open Sys2Proof

/-! ### A team at no rendezvous -/

/-- A thread that runs and has arrived nowhere. -/
def Thread.AtNoRendezvous (h : Thread) : Prop := h.arrivals = [] ∧ h.garr = none ∧ h.park = .none ∧ h.exited = false

theorem Thread.AtNoRendezvous.waitsAt {h : Thread} (hh : h.AtNoRendezvous) : h.waitsAt = .none := by
  obtain ⟨-, -, hpark, -⟩ := hh
  rw [Thread.waitsAt, hpark, ite_self]

section Running

variable {s : State} {t : Team}

/-- No living threads of a frame all wait at a place. -/
theorem Team.not_all_waiting (hq : ∀ h ∈ t.threads, h.AtNoRendezvous) (f : Nat) {p : Park} (hp : p ≠ .none) (q : Thread → Bool) :
    ((t.living f).isEmpty || !(t.living f).all fun h => h.waitsAt == p && q h) = true := by
  cases hl : t.living f with
  | nil => rfl
  | cons h l =>
    have hmem : h ∈ t.threads := List.mem_of_mem_filter (hl ▸ List.mem_cons_self : h ∈ t.living f)
    simp [(hq h hmem).waitsAt, Ne.symm hp]

theorem State.settleArrivals_of_running (ht : s.team? t.id = some t) (hq : ∀ h ∈ t.threads, h.AtNoRendezvous) (r : Nat) :
    s.settleArrivals t.id r = s := by
  simp only [State.settleArrivals, ht]
  cases hh : t.thread? r with
  | none => rfl
  | some h =>
    obtain ⟨harr, -⟩ := hq h (List.mem_of_find?_eq_some hh)
    simp [harr]

theorem State.settleGroup_of_running (ht : s.team? t.id = some t) (hq : ∀ h ∈ t.threads, h.AtNoRendezvous) (r : Nat) : s.settleGroup t.id r = s := by
  simp only [State.settleGroup, ht]
  cases hh : t.thread? r with
  | none => rfl
  | some h =>
    obtain ⟨-, hgarr, -⟩ := hq h (List.mem_of_find?_eq_some hh)
    simp [hgarr]

theorem State.settleElect_of_running (ht : s.team? t.id = some t) (hq : ∀ h ∈ t.threads, h.AtNoRendezvous) (f : Nat) : s.settleElect t.id f = s := by
  have := Team.not_all_waiting hq f (p := .elect) (by decide) fun _ => true
  simp only [Bool.and_true] at this
  simp only [State.settleElect, ht]
  exact if_pos this

theorem State.settleTcall_of_running (ht : s.team? t.id = some t) (hq : ∀ h ∈ t.threads, h.AtNoRendezvous) (f : Nat) : s.settleTcall t.id f = s := by
  have := Team.not_all_waiting hq f (p := .tcall) (by decide) fun h => !s.accessing t.id h.lrank
  have hready : (!((t.living f).isEmpty || (t.frame f).call.isSome || !(t.living f).all fun h => h.waitsAt == .tcall && !s.accessing t.id h.lrank)) =
      false := by
    rw [Bool.or_right_comm, this]
    rfl
  simp only [State.settleTcall, ht, hready]
  simp [ht]

theorem State.settleWide_of_running (ht : s.team? t.id = some t) (hq : ∀ h ∈ t.threads, h.AtNoRendezvous) : s.settleWide t.id = s := by
  have hc := Team.not_all_waiting hq 0 (p := .cbar) (by decide) fun h => !s.accessing t.id h.lrank
  have hg := Team.not_all_waiting hq 0 (p := .gbar) (by decide) fun h => !s.accessing t.id h.lrank
  simp only [State.settleWide, ht]
  rw [if_neg, if_neg] <;> grind

theorem State.settleEnd_of_running (ht : s.team? t.id = some t) (hne : t.threads ≠ []) (hq : ∀ h ∈ t.threads, h.AtNoRendezvous) :
    s.settleEnd t.id = s := by
  obtain ⟨h, l, hl⟩ := List.exists_cons_of_ne_nil hne
  obtain ⟨-, -, -, hexited⟩ := hq h (hl ▸ List.mem_cons_self)
  simp only [State.settleEnd, ht]
  exact if_pos (by simp [hl, hexited])

/-- Nothing comes about in a team that runs and is at no rendezvous. -/
theorem State.settle_of_running (ht : s.team? t.id = some t) (hne : t.threads ≠ []) (hq : ∀ h ∈ t.threads, h.AtNoRendezvous) : s.settle t.id = s := by
  have fixed : ∀ f : State → Nat → State, (∀ r, f s r = s) → ∀ l : List Nat, l.foldl f s = s := fun f hf l => List.foldl_fixed' hf l
  simp only [State.settle, ht, fixed (State.settleArrivals · t.id) (State.settleArrivals_of_running ht hq),
    fixed (State.settleGroup · t.id) (State.settleGroup_of_running ht hq), fixed (State.settleElect · t.id) (State.settleElect_of_running ht hq),
    fixed (State.settleTcall · t.id) (State.settleTcall_of_running ht hq), State.settleWide_of_running ht hq, State.settleEnd_of_running ht hne hq, ite_self]

end Running

/-! ### Two uniform writes of one number -/

/-- A uniform write of a course to register `d`, in flight with the number 1. -/
def uniformOne (course d : Nat) : Op :=
  { id := 1, team := 0, lrank := 0, flag := none, hold := .none, issue := 0, sectors := [], body := .uniform 0 course [0] [(d, 1)] }

/-- A team of one thread; course 0 has a write of U4 in flight, and course 1 one of U5 that has the same number. -/
def sharedNumber : State := { State.reset.withFetchWord 32 0 with ops := [uniformOne 0 4, uniformOne 1 5] }

/-- Its team and its thread. -/
def fetchTeam : Team := Team.fresh 0 fetchLaunch 0 0 0 0 0
def fetchThread : Thread := Thread.fresh fetchDesc 0 0 0

theorem sharedNumber_inFlight : sharedNumber.InFlight (uniformOne 0 4) fetchTeam fetchThread := ⟨rfl, rfl, rfl⟩

theorem fetchTeam_atNoRendezvous : ∀ h ∈ fetchTeam.threads, h.AtNoRendezvous := by
  intro h hh
  obtain rfl := List.mem_singleton.1 hh
  exact ⟨rfl, rfl, rfl, rfl⟩

/-- The completion by number writes both registers. -/
theorem sharedNumber_writes_both : ((sharedNumber.trackedCompletion 1 []).team? 0).map (·.uget 0 5) = some 1 := by decide +kernel

/-- Refutes O50: of uniform writes in flight the completion takes every one with the number that it names, so where a write of another course has
the same number (which the statement does not exclude, though no run gives one number twice) its register is written too, and the frame holds
more than the values of the one operation. -/
theorem not_completions : ¬ Obligations.Completions := by
  unfold Obligations.Completions
  intro h
  obtain ⟨-, -, huniform, -⟩ := h sharedNumber (uniformOne 0 4) fetchTeam fetchThread sharedNumber_inFlight
  obtain ⟨m, hexec, -, -, -, t', ht', hu, -, -, hrest⟩ := huniform 0 0 [0] [(4, 1)] rfl (by decide) (by decide) (by decide) (by
    intro x hx _ f' rs' ws' hb
    rcases List.mem_pair.1 hx with rfl | rfl
    · exact .inl rfl
    · cases hb)
  have hthreads : t'.threads = fetchTeam.threads := by
    have := congrArg Team.threads hrest
    exact this
  have hid : t'.id = 0 := by
    have := congrArg Team.id hrest
    exact this
  have hsettled : m.settle 0 = m := hid ▸ State.settle_of_running (hid ▸ ht') (hthreads ▸ List.cons_ne_nil _ _) (hthreads ▸ fetchTeam_atNoRendezvous)
  have hm : sharedNumber.trackedCompletion 1 [] = m := (Host.Outcome.next.inj hexec).trans hsettled
  have hwritten : t'.uget 0 5 = 1 := by
    have := sharedNumber_writes_both
    rw [hm, show m.team? 0 = some t' from ht'] at this
    exact Option.some.inj this
  have hkept : t'.uget 0 5 = fetchTeam.uget 0 5 := hu 5 (by decide)
  exact absurd (hwritten.symm.trans hkept) (by decide)

end Sys2Proof.Machine

/-!
LAWS. Saves and launches (O56): what settling a team leaves of an ended thread's flags, the bytes of a frame through one entry of the die TLB, and a
saved team whose image says that an ended thread runs.
-/

namespace Sys2Proof.Machine

open Sys2Proof

/-! ### An ended thread has no flag set -/

def Thread.Bare (h : Thread) : Prop := h.exited = true → h.flags = 0

/-- So has the thread that a team finds by a rank, and that a state finds by a team and a rank. -/
def Team.Bare (r : Nat) (t : Team) : Prop := ∀ h, t.thread? r = some h → h.Bare
def State.Bare (id r : Nat) (s : State) : Prop := ∀ t, s.team? id = some t → t.Bare r

theorem Thread.Bare.of_eq {h g : Thread} (hh : h.Bare) (he : g.exited = h.exited) (hf : g.flags = h.flags) : g.Bare := by
  unfold Thread.Bare
  rw [he, hf]
  exact hh

section Rules

variable {r id : Nat}

theorem Team.Bare.of_threads {t u : Team} (ht : t.Bare r) (h : u.threads = t.threads) : u.Bare r := by
  intro g hg
  rw [Team.thread?, h] at hg
  exact ht g hg

/-- Each thread updated, bare ones to bare ones. -/
theorem Team.Bare.map {t u : Team} {f : Thread → Thread} (ht : t.Bare r) (hu : u.threads = t.threads.map f) (hl : ∀ h, (f h).lrank = h.lrank)
    (hf : ∀ h : Thread, h.Bare → (f h).Bare) : u.Bare r := by
  intro g hg
  have hfind : u.thread? r = (t.thread? r).map f := by
    rw [Team.thread?, hu, List.find?_map]
    exact congrArg (Option.map f) (congrArg (List.find? · t.threads) (funext fun h => by rw [Function.comp, hl]))
  rw [hfind] at hg
  obtain ⟨h, hh, rfl⟩ := Option.map_eq_some_iff.1 hg
  exact hf h (ht h hh)

theorem Team.Bare.mapIf {t u : Team} {p : Thread → Bool} {f : Thread → Thread} (ht : t.Bare r) (hu : u.threads = Machine.mapIf p f t.threads)
    (hl : ∀ h, (f h).lrank = h.lrank) (hf : ∀ h : Thread, h.Bare → (f h).Bare) : u.Bare r :=
  ht.map hu (fun h => by split <;> simp [hl]) fun h hh => by
    split
    · exact hf h hh
    · exact hh

theorem Team.Bare.foldl {α : Type} {f : Team → α → Team} {l : List α} {t : Team} (ht : t.Bare r) (hf : ∀ t a, t.Bare r → (f t a).Bare r) :
    (l.foldl f t).Bare r := List.foldlRecOn l f ht fun t ht a _ => hf t a ht

variable {s m : State}

theorem State.Bare.of_teams (hs : s.Bare id r) (h : m.teams = s.teams) : m.Bare id r := by
  intro t ht
  rw [State.team?, h] at ht
  exact hs t ht

theorem State.Bare.modTeam {j : Nat} {f : Team → Team} (hs : s.Bare id r) (hid : ∀ t, (f t).id = t.id) (hf : ∀ t : Team, t.Bare r → (f t).Bare r) :
    (s.modTeam j f).Bare id r := by
  intro t ht
  have hfind : (s.modTeam j f).team? id = (s.team? id).map fun t => if t.id == j then f t else t :=
    find?_mapIf (fun t : Team => t.id == j) (fun t => t.id == id) f s.teams fun t => by rw [hid]
  rw [hfind] at ht
  obtain ⟨u, hu, rfl⟩ := Option.map_eq_some_iff.1 ht
  split
  · exact hf u (hs u hu)
  · exact hs u hu

theorem State.Bare.modThread {j k : Nat} {f : Thread → Thread} (hs : s.Bare id r) (hl : ∀ h, (f h).lrank = h.lrank)
    (hf : ∀ h : Thread, h.Bare → (f h).Bare) : (s.modThread j k f).Bare id r :=
  hs.modTeam (fun _ => rfl) fun _ ht => ht.mapIf rfl hl hf

theorem State.Bare.modFrame {j i : Nat} {f : Frame → Frame} (hs : s.Bare id r) : (s.modFrame j i f).Bare id r :=
  hs.modTeam (fun _ => rfl) fun _ ht => ht.of_threads rfl

theorem State.Bare.modCore {d n : Nat} {f : Core → Core} (hs : s.Bare id r) : (s.modCore d n f).Bare id r := hs.of_teams rfl

theorem State.Bare.ite {c : Prop} [Decidable c] (hs : s.Bare id r) (hm : m.Bare id r) : (if c then s else m).Bare id r := by
  split
  · exact hs
  · exact hm

theorem State.Bare.foldl {α : Type} {f : State → α → State} {l : List α} (hs : s.Bare id r) (hf : ∀ s a, s.Bare id r → (f s a).Bare id r) :
    (l.foldl f s).Bare id r := List.foldlRecOn l f hs fun s hs a _ => hf s a hs

/-! ### What the model's functions keep of it, up to the end of a thread -/

theorem Team.Bare.ran {t : Team} {h : Thread} {clock i : Nat} (ht : t.Bare r) : (t.ran h clock i).Bare r := by
  refine ht.map rfl (fun x => ?_) fun x hx => ?_
  · dsimp only
    split
    · rfl
    · split <;> split <;> rfl
  · dsimp only
    split
    · exact hx
    · split <;> split <;> exact hx

theorem State.Bare.ranWide {t : Team} {q : Option Nat} {a : Nat} (hs : s.Bare id r) : (s.ranWide t q a).Bare id r := by
  unfold State.ranWide
  exact hs.foldl fun s _ hs => hs.foldl fun s p hs =>
    hs.modTeam (fun _ => rfl) fun _ ht => ht.mapIf rfl (fun _ => rfl) fun _ hh => hh.of_eq rfl rfl

theorem State.Bare.ranAgain {j k : Nat} (hs : s.Bare id r) : (s.ranAgain j k).Bare id r := by
  unfold State.ranAgain
  split
  · dsimp only
    split
    · exact hs
    · refine (hs.modTeam (fun t => ?_) fun t ht => ht.foldl fun t i ht => ht.ran).ranWide
      exact List.foldlRecOn (motive := fun u : Team => u.id = t.id) _ _ rfl fun u hu i _ => hu
  · exact hs

theorem State.stepOver_teams (s : State) (team r code : Nat) : (s.stepOver team r code).teams = s.teams := by
  unfold State.stepOver
  split
  · split <;> rfl
  · rfl

/-- A thread that ends has no flag set. -/
theorem State.Bare.exitThread {j k : Nat} (hs : s.Bare id r) : (s.exitThread j k).Bare id r := by
  unfold State.exitThread
  have h : ((s.ranAgain j k).stepOver j k 0).Bare id r := hs.ranAgain.of_teams (State.stepOver_teams _ _ _ _)
  exact State.Bare.modThread (h.of_teams rfl) (fun _ => rfl) fun _ _ _ => rfl

theorem State.failRecord_teams (s : State) (team strength : Nat) (x : Rec) (bits : Word) : (s.failRecord team strength x bits).teams = s.teams := by
  have h : (s.record x bits).teams = s.teams := (State.keepsWork_iff.1 (s.record_keepsWork x bits)).2.2.1
  unfold State.failRecord
  split
  · split
    · rfl
    · exact h
  · exact h

theorem State.Bare.endsWith {j clock : Nat} {failing : List Nat} {h : Thread} (hs : s.Bare id r) : (s.endsWith j failing clock h).Bare id r := by
  unfold State.endsWith
  split
  · exact hs.modThread (fun _ => rfl) fun _ hh => hh.of_eq rfl rfl
  · exact hs.exitThread

theorem State.Bare.groupAction {t : Team} {h : Thread} {cls addr detail : Nat} (hs : s.Bare id r) : (s.groupAction t h cls addr detail).Bare id r := by
  have hrec := hs.of_teams (s.failRecord_teams t.id 2 (recOf t h cls 4 addr detail) (classBits cls))
  unfold State.groupAction
  split
  · exact hs
  · split
    · exact hs
    · dsimp only
      split
      · exact hrec
      · exact hrec.foldl fun s x hs => hs.endsWith

theorem State.Bare.teamEnds {j : Nat} (hs : s.Bare id r) : (s.teamEnds j).Bare id r := by
  unfold State.teamEnds
  split
  · exact hs
  · exact (hs.foldl (f := fun s r => s.exitThread j r) fun s k hs => hs.exitThread).of_teams rfl

theorem State.Bare.teamAction {t : Team} {h : Option Thread} {cls addr detail : Nat} (hs : s.Bare id r) :
    (s.teamAction t h cls addr detail).Bare id r := (hs.of_teams (State.failRecord_teams _ _ _ _ _)).teamEnds

theorem State.Bare.frameFault {j f cls : Nat} (hs : s.Bare id r) : (s.frameFault j f cls).Bare id r := by
  unfold State.frameFault
  split
  · exact hs
  · refine hs.foldl fun s h hs => ?_
    split
    · split
      · exact hs
      · exact hs.groupAction
    · exact hs

/-! ### What settling a team keeps of it -/

theorem Thread.Bare.release {h : Thread} {hz clock time : Nat} {ws : List Wr} (hh : h.Bare) : (h.release hz ws clock time).Bare := by
  unfold Thread.release
  split
  · exact hh.of_eq rfl rfl
  · exact hh.of_eq (Thread.writes_exited _ _) (Thread.writes_flags _ _)

theorem Thread.release_lrank (h : Thread) (hz clock time : Nat) (ws : List Wr) : (h.release hz ws clock time).lrank = h.lrank := by
  unfold Thread.release
  split
  · rfl
  · exact Thread.writes_lrank _ _

theorem Thread.Bare.leaveGroup {h : Thread} (hh : h.Bare) : ({ h with garr := none } : Thread).Bare := hh

theorem Thread.Bare.clearFlag {h : Thread} {f : Nat} (hh : h.Bare) : ({ h with flags := clearBit h.flags f } : Thread).Bare := fun he => by
  simp [clearBit, hh he]

theorem State.Bare.settleFlag {j k : Nat} {flag : Option Nat} (hs : s.Bare id r) : (s.settleFlag j k flag).Bare id r := by
  unfold State.settleFlag
  split
  · split
    · exact hs
    · exact hs.modThread (fun _ => rfl) fun _ hh => hh.clearFlag
  · exact hs

theorem State.Bare.groupDone {t : Team} {h : Thread} {hz : Nat} {ws : List Wr} (hs : s.Bare id r) : (s.groupDone t h hz ws).Bare id r := by
  unfold State.groupDone
  split
  · exact hs
  · refine State.Bare.settleFlag (State.Bare.modThread hs (fun x => ?_) fun x hh => ?_)
    · exact x.release_lrank _ _ _ _
    · exact hh.release.leaveGroup

theorem State.Bare.settleArrivals {j k : Nat} (hs : s.Bare id r) : (s.settleArrivals j k).Bare id r := by
  unfold State.settleArrivals
  split
  · exact hs
  · split
    · exact hs
    · dsimp only
      split
      · exact hs
      · exact (hs.foldl fun s a hs => hs.modFrame).modThread (fun _ => rfl) fun _ hh => hh.of_eq rfl rfl

theorem State.Bare.settleGroup {j k : Nat} (hs : s.Bare id r) : (s.settleGroup j k).Bare id r := by
  unfold State.settleGroup
  split
  · exact hs
  · split
    · exact hs
    · split
      · exact hs
      · split
        · exact hs
        · refine hs.foldl fun s j hs => ?_
          split
          · exact hs.groupDone
          · exact hs

theorem State.Bare.settleElect {j f : Nat} (hs : s.Bare id r) : (s.settleElect j f).Bare id r := by
  unfold State.settleElect
  split
  · exact hs
  · dsimp only
    split
    · exact hs
    · exact hs.foldl fun s h hs => hs.modThread (fun _ => Thread.release_lrank _ _ _ _ _) fun _ hh => hh.release

theorem State.Bare.publishOne {o : Op} (hs : s.Bare id r) : (s.publishOne o).Bare id r := by
  unfold State.publishOne
  split
  · next f _ _ ws _ =>
    have hput : ∀ t : Team, (ws.foldl (fun t e => t.uput f e.1 e.2) t).threads = t.threads := fun t =>
      List.foldlRecOn (motive := fun u : Team => u.threads = t.threads) _ _ rfl fun u hu e _ => hu
    refine (hs.modTeam (fun t => ?_) fun t ht => ht.of_threads (hput t)).of_teams rfl
    exact List.foldlRecOn (motive := fun u : Team => u.id = t.id) _ _ rfl fun u hu e _ => hu
  · exact hs

theorem State.Bare.publishAll {j : Nat} (hs : s.Bare id r) : (s.publishAll j).Bare id r := hs.foldl fun _ _ hs => hs.publishOne

theorem State.Bare.reserve {die core : Nat} {e : Nat × Nat} (hs : s.Bare id r) : (s.reserve die core e).Bare id r := by
  unfold State.reserve
  split
  · dsimp only
    split
    · exact hs
    · exact hs.modFrame
  · exact hs

theorem State.Bare.settleTcall {j f : Nat} (hs : s.Bare id r) : (s.settleTcall j f).Bare id r := by
  unfold State.settleTcall
  extract_lets ready m
  have hm : m.Bare id r := by
    dsimp only [m]
    split
    · exact hs.publishAll
    · exact hs
  clear_value m
  split
  · exact hm
  · dsimp only
    exact .ite hm (.ite hm.teamAction (.ite hm.frameFault (.ite hm.frameFault (.reserve (.modCore (.modFrame (hm.of_teams rfl)))))))

theorem State.Bare.settleWide {j : Nat} (hs : s.Bare id r) : (s.settleWide j).Bare id r := by
  unfold State.settleWide
  split
  · exact hs
  · dsimp only
    split_ifs
    · exact hs.modTeam (fun _ => rfl) fun _ ht => ht.of_threads rfl
    · exact hs.modTeam (fun _ => rfl) fun _ ht => ht.of_threads rfl
    · exact hs

theorem State.passBow_teams (s : State) (t : Team) (time : Nat) : (s.passBow t time).teams = s.teams := by
  unfold State.passBow
  split
  · rfl
  · split <;> rfl

theorem State.Bare.newlyReady {old : State} {die core : Nat} (hs : s.Bare id r) : (old.newlyReady s die core).Bare id r := by
  unfold State.newlyReady
  exact hs.foldl fun s t hs => hs.foldl fun s k hs => hs.modThread (fun _ => rfl) fun _ hh => hh.of_eq rfl rfl

theorem State.Bare.settleEnd {j : Nat} (hs : s.Bare id r) : (s.settleEnd j).Bare id r := by
  unfold State.settleEnd
  split
  · exact hs
  · next t _ =>
    split
    · exact hs
    · have h : (s.passBow t (maxOf 0 (t.threads.map (·.fh)))).Bare id r := hs.of_teams (State.passBow_teams _ _ _)
      refine State.Bare.newlyReady (State.Bare.modTeam h.modCore (fun _ => ?_) fun _ ht => ?_)
      · rfl
      · exact ht.of_threads rfl

/-- A team that is brought up to date keeps its ended threads bare. -/
theorem State.Bare.settle {j : Nat} (hs : s.Bare id r) : (s.settle j).Bare id r := by
  unfold State.settle
  split
  · exact hs
  · split
    · exact hs.settleEnd
    · have harr := fun l => hs.foldl (l := l) (f := fun s r => s.settleArrivals j r) fun s k hs => hs.settleArrivals
      have hgroup := fun l l' => (harr l).foldl (l := l') (f := fun s r => s.settleGroup j r) fun s k hs => hs.settleGroup
      have helect := fun l l' l'' => (hgroup l l').foldl (l := l'') (f := fun s f => s.settleElect j f) fun s k hs => hs.settleElect
      exact ((helect _ _ _).foldl fun s k hs => hs.settleTcall).settleWide.settleEnd

end Rules

/-! ### The bytes of a frame under one translation -/

/-- Bytes that each translate, to places that follow one another. -/
theorem State.devRes_of_global {s : State} {die ctx need : Nat} {c : Context} {attr : PageAttr} (hc : s.ctx? ctx = some c) (n va pa : Nat)
    (hn : ∀ i, i ≤ n → isLocal (va + i) = false ∧
      s.global die none c (va + i) 1 need 3 = (s, .ok { space := .hbm, bytes := [pa + i], va := va + i, attr := attr })) :
    s.devRes die ctx va need (n + 1) = (s, .ok { space := .hbm, bytes := List.range' pa (n + 1), va := va, attr := attr }) := by
  induction n generalizing va pa with
  | zero =>
    obtain ⟨hl, hg⟩ := hn 0 (Nat.le_refl 0)
    simp only [Nat.add_zero] at hl hg
    simp [State.devRes, hc, hl, hg]
  | succ n ih =>
    obtain ⟨hl, hg⟩ := hn 0 (Nat.zero_le _)
    simp only [Nat.add_zero] at hl hg
    have hrest := ih (va + 1) (pa + 1) fun i hi => by
      have := hn (i + 1) (by omega)
      rwa [show va + (i + 1) = va + 1 + i by omega, show pa + (i + 1) = pa + 1 + i by omega] at this
    rw [State.devRes, hc]
    simp only [hl, hg, hrest, Bool.false_eq_true, if_false]
    rfl

/-! ### A restore that waits for nothing -/

/-- The device as a team `u` comes back, before what comes about in it. -/
def State.comesBack (s : State) (u : Team) (id die core launch split time : Nat) : State :=
  let s := ((s.modTeam id fun _ => u).seat die core id launch split).modTeam id fun t => { t with pends := [] }
  let waiting := (List.range u.frames.length).filter fun i => (u.frame i).call.isSome
  let s := (s.modCore die core fun c => { c with forkQ := s.inTurn (c.forkQ ++ waiting.map fun i => (id, i)) }).pushMarkers id []
  match s.team? id with | some u => s.ranWide u none time | none => s

/-- An eligible team with a place comes back with its image, where no load of it is to be issued again, no marker is to be pushed, and no
write time in it is late. -/
theorem State.restoreOne_of_place {s s1 s2 : State} {t u : Team} {d : Desc} {a : Access} {die core slot w : Nat} {bs : List Byte}
    (ht : s.team? t.id = some t) (hd : s.desc? t = some d) (helig : s.eligible t = true) (hplace : s.restorePlace t d = some (die, core, slot))
    (hdev : s.devAccess t.die t.ctx (s.frameBase t) 0 4096 d.frameSize = (s1, some a)) (hgood : s1.poisoned a.bytes = false)
    (hread : s1.homeRead t.ctx a = (s2, bs, w)) (hu : s2.fromImage t d bs die core slot = u) (hpends : u.pends = []) (hmarkers : u.markers = [])
    (htime : maxOf 0 (u.threads.map (·.fh)) + 2 ≤ s2.gtime die) :
    s.restoreOne t.id = ((s2.comesBack u t.id die core t.launch d.split t.savedTime).settle t.id, true) := by
  have hnow : (decide (s2.gtime die < maxOf 0 (u.threads.map (·.fh)) + 2) || s2.tableFull die core (sectorsOf [])) = false := by
    rw [decide_eq_false (by omega), Bool.false_or]
    rfl
  simp only [State.restoreOne, ht, hd, helig, hplace, hdev, hgood, hread, hu, hpends, hmarkers, hnow, List.filterMap_nil, List.isEmpty_nil,
    List.foldl_nil, Bool.not_true, Bool.false_eq_true, if_false]
  rfl

/-- A team that is in no ENSEMBLE comes back on its own. -/
theorem State.teamRestore_alone {s : State} {t : Team} {d : Desc} (ht : s.team? t.id = some t) (hd : s.desc? t = some d) (hens : d.ens = false) :
    s.teamRestore t.id = (s.restoreOne t.id).1 := by
  simp [State.teamRestore, ht, hd, hens]

/-! ### A saved team and its image -/

/-- A launch of two threads without registers and allocations. -/
def bareDesc : Desc := { fetchDesc with tsize := 2, nreg := 0, sak := 0, oak := 0, acck := 0 }
def bareLaunch : Launch := { fetchLaunch with desc := bareDesc }

/-- Its team, saved; thread 1 has ended. -/
def savedTeam : Team :=
  { Team.fresh 0 bareLaunch 0 0 0 0 0 with
    standing := .saved, threads := [Thread.fresh bareDesc 0 0 0, { Thread.fresh bareDesc 0 0 1 with exited := true }] }

/-- The page of the frame. -/
def framePage : TlbEntry := { ctx := 0, wa := 0, pa := 0x10000000, size := 2 ^ 25, attr := ⟨0, false, false, true, true⟩ }

/-- The team's image has only zeros, TSTATE of thread 1 with them, but for FLAGS of thread 1. -/
def savedImage : State :=
  { State.reset.withFetchWord 32 0 with
    launches := [bareLaunch], teams := [savedTeam], dtlb := [(0, framePage)], times := [⟨4, 0, 16, 0⟩], mem := [(0x101118D6, 1)] }

/-- The access that its frame is. -/
def frameAccess : Access := { space := .hbm, bytes := List.range' 0x10100000 73728, va := 0x100000, attr := framePage.attr }

theorem savedImage_global (i : Nat) (hi : i < 73728) : isLocal (0x100000 + i) = false ∧ savedImage.global 0 none fetchContext (0x100000 + i) 1 0 3 =
    (savedImage, .ok { space := .hbm, bytes := [0x10100000 + i], va := 0x100000 + i, attr := framePage.attr }) := by
  have hwindow : fetchContext.inWindow (0x100000 + i) 1 = true := by
    exact decide_eq_true (by simp only [fetchContext]; omega)
  have haddr : fetchContext.windowAddr (0x100000 + i) = 0x100000 + i := by
    simp only [Context.windowAddr, fetchContext]
    omega
  have hcovers : framePage.covers fetchContext.num (0x100000 + i) = true := by
    rw [TlbEntry.covers, show (framePage.ctx == fetchContext.num) = true from rfl, Bool.true_and]
    exact decide_eq_true (by simp only [framePage]; omega)
  have hfind : savedImage.dtlb.find? (fun x => x.1 == 0 && x.2.covers fetchContext.num (0x100000 + i)) = some (0, framePage) := by
    change [(0, framePage)].find? _ = _
    rw [List.find?_cons, hcovers]
    rfl
  have hfill : savedImage.fillTlb 0 none framePage = savedImage := rfl
  refine ⟨by simp only [isLocal, beq_eq_false_iff_ne]; omega, ?_⟩
  simp only [State.global, hwindow, haddr, State.translate, hfind, hfill]
  simp [PageAttr.allows, framePage]
  omega

theorem savedImage_devAccess : savedImage.devAccess 0 0 (savedImage.frameBase savedTeam) 0 4096 bareDesc.frameSize = (savedImage, some frameAccess) := by
  have hres : savedImage.devRes 0 0 0x100000 0 73728 = (savedImage, .ok frameAccess) :=
    State.devRes_of_global (c := fetchContext) rfl 73727 _ _ fun i hi => savedImage_global i (by omega)
  rw [State.devAccess, show savedImage.frameBase savedTeam = 0x100000 by decide +kernel, show bareDesc.frameSize = 73728 by decide +kernel]
  simp only [show 0x100000 % 2 ^ 56 = 0x100000 by norm_num, hres]
  rfl

/-- The image. -/
def savedBytes : List Byte := getAt savedImage.mem frameAccess.bytes

/-- A part of the image, as far as it is looked at. -/
theorem savedBytes_drop (o : Nat) : savedBytes.drop o = getAt savedImage.mem (List.range' (0x10100000 + o) (73728 - o)) := by
  rw [savedBytes, getAt, ← List.map_drop, frameAccess, List.drop_range', Nat.mul_one]
  rfl

theorem fieldLe_savedBytes (o n : Nat) :
    fieldLe savedBytes o n = leNat ((getAt savedImage.mem (List.range' (0x10100000 + o) (73728 - o))).take n) := by
  rw [fieldLe, savedBytes_drop]

theorem savedImage_noPartial : savedImage.NoPartial frameAccess.bytes := fun _ hp => nomatch hp

theorem savedImage_poisoned : savedImage.poisoned frameAccess.bytes = false := List.any_eq_false.2 fun _ _ => Bool.false_ne_true

theorem savedImage_homeRead : ∃ w, savedImage.homeRead 0 frameAccess = (savedImage, savedBytes, w) := by
  have hchecks : savedImage.mergeChecks 0 frameAccess = savedImage := rfl
  rw [State.homeRead, hchecks, State.readHome, savedImage.merge_eq_self _ savedImage_noPartial]
  exact ⟨_, rfl⟩

/-- The team with the values of the image. -/
def restoredTeam : Team := savedImage.fromImage savedTeam bareDesc savedBytes 0 0 0

/-- Nothing of the restored team waits: no load is to be issued again, and no write time is later than the clock. -/
theorem restoredTeam_idle : restoredTeam.pends = [] ∧ restoredTeam.markers = [] ∧ maxOf 0 (restoredTeam.threads.map (·.fh)) = 0 := by
  unfold restoredTeam State.fromImage
  simp only [savedBytes_drop, fieldLe_savedBytes]
  decide +kernel

theorem savedImage_eligible : savedImage.eligible savedTeam = true := by decide +kernel
theorem savedImage_restorePlace : savedImage.restorePlace savedTeam bareDesc = some (0, 0, 0) := by decide +kernel
theorem savedImage_gtime : 2 ≤ savedImage.gtime 0 := by decide +kernel

/-- The records of its threads: write times long past, no trap and no marker that waits, and no load to be issued again. -/
theorem savedBytes_records : ∀ h ∈ savedTeam.threads,
    fieldLe ((savedBytes.drop (0x11740 + h.lrank * (384 + 4 * bareDesc.nreg))).take (384 + 4 * bareDesc.nreg)) 24 8 + 2 ≤ savedImage.gtime 0 ∧
      fieldLe ((savedBytes.drop (0x11740 + h.lrank * (384 + 4 * bareDesc.nreg))).take (384 + 4 * bareDesc.nreg)) 58 1 = 0 ∧
      ∀ k, k < 12 → fieldLe ((savedBytes.drop (0x11740 + h.lrank * (384 + 4 * bareDesc.nreg))).take (384 + 4 * bareDesc.nreg)) (199 + 16 * k) 1 = 0 := by
  simp only [savedBytes_drop]
  decide +kernel

/-- TSTATE of thread 1 is not 2. -/
theorem savedBytes_tstate : fieldLe ((savedBytes.drop (0x11740 + 1 * (384 + 4 * bareDesc.nreg))).take (384 + 4 * bareDesc.nreg)) 8 1 = 0 := by
  simp only [savedBytes_drop]
  decide +kernel

theorem savedImage_restoreOne : savedImage.restoreOne 0 = ((savedImage.comesBack restoredTeam 0 0 0 0 1 0).settle 0, true) := by
  obtain ⟨w, hread⟩ := savedImage_homeRead
  obtain ⟨hpends, hmarkers, htime⟩ := restoredTeam_idle
  exact State.restoreOne_of_place (t := savedTeam) (d := bareDesc) rfl rfl savedImage_eligible savedImage_restorePlace savedImage_devAccess
    savedImage_poisoned hread rfl hpends hmarkers (by rw [htime]; exact savedImage_gtime)

theorem savedImage_teamRestore : savedImage.teamRestore 0 = (savedImage.comesBack restoredTeam 0 0 0 0 1 0).settle 0 := by
  have hone : savedImage.teamRestore 0 = (savedImage.restoreOne 0).1 := State.teamRestore_alone (t := savedTeam) (d := bareDesc) rfl rfl rfl
  rw [hone, savedImage_restoreOne]

/-- Thread 1 comes back ended, with the flag of the image. -/
theorem comesBack_thread : (((savedImage.comesBack restoredTeam 0 0 0 0 1 0).settle 0).thread? 0 1).map (fun h => (h.exited, h.flags)) =
    some (true, 1) := by
  unfold restoredTeam State.fromImage
  simp only [savedBytes_drop, fieldLe_savedBytes]
  decide +kernel

/-- Refutes O56, by its clause of restores: a thread that had ended stays ended whatever TSTATE its image holds, but takes FLAGS from the image,
while the clause says that the thread runs unless TSTATE is 2. The state before the team is brought up to date, which the clause leaves open, cannot
make up for that: a thread that ends then has no flag set. -/
theorem not_savesAndLaunches : ¬ Obligations.SavesAndLaunches := by
  unfold Obligations.SavesAndLaunches
  rintro ⟨-, hrestore, -⟩
  obtain ⟨m, t', hexec, ht', -, -, -, -, hthreads⟩ := hrestore savedImage savedTeam bareDesc savedImage frameAccess 0 0 0 rfl rfl rfl savedImage_eligible
    savedImage_restorePlace rfl savedImage_devAccess savedImage_poisoned savedImage_noPartial savedBytes_records savedImage_gtime
  obtain ⟨h', hh', -, -, -, -, -, hexited⟩ := hthreads 1 { Thread.fresh bareDesc 0 0 1 with exited := true } rfl
  have hruns : h'.exited = false := by
    have htstate := congrArg (fun n => decide (n = 2)) savedBytes_tstate
    exact hexited.trans htstate
  have hbare : m.Bare 0 1 := by
    intro t ht g hg he
    obtain rfl : t' = t := Option.some.inj (ht'.symm.trans ht)
    obtain rfl : h' = g := Option.some.inj (hh'.symm.trans hg)
    exact absurd he (by rw [hruns]; decide)
  have hback : savedImage.teamRestore 0 = m.settle 0 := Host.Outcome.next.inj hexec
  rw [savedImage_teamRestore] at hback
  obtain ⟨h, hh, heq⟩ := Option.map_eq_some_iff.1 comesBack_thread
  rw [hback] at hh
  obtain ⟨he, hf⟩ := Prod.mk.inj heq
  obtain ⟨t, ht, hth⟩ := Option.bind_eq_some_iff.1 hh
  have hzero : h.flags = 0 := (hbare.settle (j := 0)) t ht h hth he
  exact absurd (hf.symm.trans hzero) (by decide)

end Sys2Proof.Machine

/-!
LAWS. Threads that go on together (O55): lists updated at a place, uniform writes that complete, threads of a team that change one after another, the
releases of barriers, of GSYNC and of the bow, the watchdogs, the results that a parent takes, a join, and a call that begins.
-/

namespace Sys2Proof.Machine

open Sys2Proof

/-! ### Lists updated at a place, and the largest of a list -/

section Lists

variable {α : Type} (f : α → α)

theorem length_setAt (l : List α) (i : Nat) : (setAt l i f).length = l.length := by
  induction l generalizing i with
  | nil => cases i <;> rfl
  | cons x t ih =>
    cases i with
    | zero => rfl
    | succ i => exact congrArg (· + 1) (ih i)

theorem getD_setAt_self (l : List α) (i : Nat) (d : α) (h : i < l.length) : (setAt l i f).getD i d = f (l.getD i d) := by
  induction l generalizing i with
  | nil => cases h
  | cons x t ih =>
    cases i with
    | zero => rfl
    | succ i => simpa [setAt] using ih i (Nat.lt_of_succ_lt_succ h)

theorem getD_setAt_ne (l : List α) (i j : Nat) (d : α) (h : j ≠ i) : (setAt l i f).getD j d = l.getD j d := by
  induction l generalizing i j with
  | nil => cases i <;> rfl
  | cons x t ih =>
    cases i with
    | zero => cases j with
      | zero => exact absurd rfl h
      | succ j => rfl
    | succ i => cases j with
      | zero => rfl
      | succ j => simpa [setAt] using ih i j (by omega)

theorem maxOf_eq {d n : Nat} {l : List Nat} (hd : d ≤ n) (hl : ∀ x ∈ l, x ≤ n) (hn : d = n ∨ n ∈ l) : maxOf d l = n := by
  unfold maxOf
  induction l generalizing d with
  | nil => simpa using hn
  | cons x l ih =>
    obtain ⟨hx, hl⟩ := List.forall_mem_cons.1 hl
    refine ih (Nat.max_le.2 ⟨hd, hx⟩) hl ?_
    rcases hn with rfl | hn
    · exact .inl (Nat.max_eq_left hx)
    · rcases List.mem_cons.1 hn with rfl | hn
      · exact .inl (Nat.max_eq_right hd)
      · exact .inr hn

end Lists

/-! ### What stays where only teams differ -/

section OnlyTeams

variable {s m n : State} {id : Nat}

theorem State.clock_of_only {die core : Nat} (h : { m with teams := s.teams } = s) : m.clock die core = s.clock die core := by
  have := congrArg (fun s : State => s.clock die core) h
  exact this

theorem State.gtime_of_only {die : Nat} (h : { m with teams := s.teams } = s) : m.gtime die = s.gtime die := by
  have := congrArg (fun s : State => s.gtime die) h
  exact this

theorem State.OnlyTeam.refl (s : State) (id : Nat) : s.OnlyTeam s id := ⟨rfl, fun _ _ => rfl⟩

theorem State.only_trans (h : { m with teams := s.teams } = s) (k : { n with teams := m.teams } = m) : { n with teams := s.teams } = s := by
  rw [← h, ← k]

theorem State.OnlyTeam.trans (h : s.OnlyTeam m id) (k : m.OnlyTeam n id) : s.OnlyTeam n id :=
  ⟨State.only_trans h.1 k.1, fun j hj => (k.2 j hj).trans (h.2 j hj)⟩

theorem State.onlyTeam_modTeam (s : State) (id : Nat) (f : Team → Team) (hf : ∀ t, (f t).id = t.id) : s.OnlyTeam (s.modTeam id f) id :=
  ⟨rfl, fun _ hj => State.team?_modTeam_ne s id _ f hf hj⟩

theorem State.team?_modTeam_some {t : Team} {f : Team → Team} (ht : s.team? id = some t) (hf : ∀ t, (f t).id = t.id) :
    (s.modTeam id f).team? id = some (f t) := by
  rw [State.team?_modTeam s id f hf, ht, Option.map_some]

theorem State.thread?_of {t : Team} (ht : s.team? id = some t) (r : Nat) : s.thread? id r = t.thread? r := by
  rw [State.thread?, ht, Option.bind_some]

theorem Team.lrank_of_thread? {t : Team} {r : Nat} {h : Thread} (hh : t.thread? r = some h) : h.lrank = r := by
  simpa using List.find?_some hh

theorem State.id_of_team? {t : Team} (ht : s.team? id = some t) : t.id = id := by
  simpa using List.find?_some ht

end OnlyTeams

/-! ### Threads that go on together -/

/-- A release without writes (R120, R376, R377). -/
theorem Thread.release_nil (h : Thread) (hz clock time : Nat) : h.release hz [] clock time = h.releasedAt clock time hz := by
  unfold Thread.release Thread.releasedAt
  split
  · rfl
  · next hs => simp [Thread.acquire, Thread.wake, hs]

theorem Team.thread?_freed (t : Team) (clock time hz : Nat) (p : Thread → Bool) (r : Nat) :
    (t.freed clock time hz p).thread? r = (t.thread? r).map fun h => if p h then h.releasedAt clock time hz else h := by
  simp only [← Thread.release_nil]
  exact t.thread?_mapIf p _ (fun h => h.release_lrank _ _ _ _) r

theorem Team.thread?_congr {t u : Team} (h : u.threads = t.threads) (r : Nat) : u.thread? r = t.thread? r := by
  rw [Team.thread?, h, Team.thread?]

/-- A team's threads that `p` names are freed, whatever else of the team differs. -/
theorem Team.frees_freed {t u : Team} {clock time hz : Nat} {p : Thread → Bool} {P : Thread → Prop} (hu : u.threads = t.threads)
    (hp : ∀ h, p h = true ↔ P h) : t.Frees (u.freed clock time hz p) clock time hz P := by
  intro r
  rw [Team.thread?_freed, Team.thread?_congr hu]
  cases t.thread? r with
  | none => rfl
  | some h => exact ⟨_, rfl, fun hP => if_pos ((hp h).2 hP), fun hP => if_neg fun h' => hP ((hp h).1 h')⟩

/-! ### Uniform writes that complete (R28, R29) -/

/-- A frame is as it was but for its file, the granules that it holds and the registers written. -/
def Frame.SameButUniform (x y : Frame) : Prop := { y with uni := x.uni, gran := x.gran, wrote := x.wrote } = x

theorem Frame.SameButUniform.trans {x y z : Frame} (h : x.SameButUniform y) (k : y.SameButUniform z) : x.SameButUniform z := by
  unfold Frame.SameButUniform at *
  rw [← h, ← k]

theorem Frame.SameButUniform.bars {x y : Frame} (h : x.SameButUniform y) : y.bars = x.bars := by
  have := congrArg Frame.bars h
  exact this
theorem Frame.SameButUniform.parent {x y : Frame} (h : x.SameButUniform y) : y.parent = x.parent := by
  have := congrArg Frame.parent h
  exact this

/-- The frames of a team are as they were but for uniform writes in them. -/
def Team.FramesButUniform (t u : Team) : Prop :=
  u.frames.length = t.frames.length ∧ ∀ i, (t.frame i).SameButUniform (u.frame i)

theorem Team.FramesButUniform.refl (t : Team) : t.FramesButUniform t := ⟨rfl, fun _ => rfl⟩

theorem Team.FramesButUniform.trans {t u v : Team} (h : t.FramesButUniform u) (k : u.FramesButUniform v) : t.FramesButUniform v :=
  ⟨k.1.trans h.1, fun i => (h.2 i).trans (k.2 i)⟩

theorem Team.framesButUniform_uput (t : Team) (i j : Nat) (x : Word) : t.FramesButUniform (t.uput i j x) := by
  refine ⟨length_setAt _ _ _, fun k => ?_⟩
  by_cases hk : k = i
  · subst hk
    by_cases hlen : k < t.frames.length
    · rw [Team.frame_uput t k j x hlen]
      rfl
    · have hout : (t.uput k j x).frame k = t.frame k := by
        rw [Team.frame, Team.frame, List.getD_eq_default _ _ (by simpa [Team.uput, Team.modFrame, length_setAt] using hlen),
          List.getD_eq_default _ _ (by simpa using hlen)]
      rw [hout]
      rfl
  · rw [Team.frame_uput_ne t i j k x hk]
    rfl

/-- `u` is `t` but for uniform writes in its frames. -/
def Team.SameButUniform (t u : Team) : Prop := { u with frames := t.frames } = t ∧ t.FramesButUniform u

theorem Team.SameButUniform.refl (t : Team) : t.SameButUniform t := ⟨rfl, .refl t⟩

theorem Team.SameButUniform.trans {t u v : Team} (h : t.SameButUniform u) (k : u.SameButUniform v) : t.SameButUniform v := by
  obtain ⟨h1, h2⟩ := h
  obtain ⟨k1, k2⟩ := k
  refine ⟨?_, h2.trans k2⟩
  rw [← h1, ← k1]

theorem Team.SameButUniform.id {t u : Team} (h : t.SameButUniform u) : u.id = t.id := by
  have := congrArg Team.id h.1
  exact this
theorem Team.SameButUniform.die {t u : Team} (h : t.SameButUniform u) : u.die = t.die := by
  have := congrArg Team.die h.1
  exact this
theorem Team.SameButUniform.threads {t u : Team} (h : t.SameButUniform u) : u.threads = t.threads := by
  have := congrArg Team.threads h.1
  exact this

/-- `m` is `s` but for uniform writes that have completed. -/
def State.UniformOnly (s m : State) : Prop :=
  { m with teams := s.teams, ops := s.ops } = s ∧ ∀ j t, s.team? j = some t → ∃ u, m.team? j = some u ∧ t.SameButUniform u

theorem State.UniformOnly.refl (s : State) : s.UniformOnly s := ⟨rfl, fun _ t ht => ⟨t, ht, .refl t⟩⟩

theorem State.UniformOnly.trans {s m n : State} (h : s.UniformOnly m) (k : m.UniformOnly n) : s.UniformOnly n := by
  refine ⟨by rw [← h.1, ← k.1], fun j t ht => ?_⟩
  obtain ⟨u, hu, htu⟩ := h.2 j t ht
  obtain ⟨v, hv, huv⟩ := k.2 j u hu
  exact ⟨v, hv, htu.trans huv⟩

theorem State.publishOne_uniformOnly (s : State) (o : Op) : s.UniformOnly (s.publishOne o) := by
  unfold State.publishOne
  split
  · next f _ _ ws _ =>
    have hput : ∀ t : Team, t.SameButUniform (ws.foldl (fun t e => t.uput f e.1 e.2) t) := fun t =>
      List.foldlRecOn (motive := t.SameButUniform) _ _ (.refl t) fun u hu e _ => hu.trans ⟨rfl, u.framesButUniform_uput _ _ _⟩
    have hid : ∀ t : Team, (ws.foldl (fun t e => t.uput f e.1 e.2) t).id = t.id := fun t => (hput t).id
    refine ⟨rfl, fun j t ht => ?_⟩
    by_cases hj : j = o.team
    · subst hj
      exact ⟨_, State.team?_modTeam_some ht hid, hput t⟩
    · exact ⟨t, (State.team?_modTeam_ne s o.team j _ hid hj).trans ht, .refl t⟩
  · exact .refl s

theorem State.publishAll_uniformOnly (s : State) (id : Nat) : s.UniformOnly (s.publishAll id) :=
  List.foldlRecOn (motive := s.UniformOnly) _ _ (.refl s) fun m hm o _ => hm.trans (m.publishOne_uniformOnly o)

theorem State.mem_ops_publishOne (s : State) (o x : Op) :
    x ∈ (s.publishOne o).ops ↔ x ∈ s.ops ∧ (o.body.uniform?.isSome = true → x.id ≠ o.id) := by
  unfold State.publishOne
  split
  · next h => simp [h]
  · next h => simp [h]

theorem State.mem_ops_foldl_publishOne (l : List Op) (s : State) (x : Op) :
    x ∈ (l.foldl State.publishOne s).ops ↔ x ∈ s.ops ∧ ∀ o ∈ l, o.body.uniform?.isSome = true → x.id ≠ o.id := by
  induction l generalizing s with
  | nil => simp
  | cons o l ih => rw [List.foldl_cons, ih, State.mem_ops_publishOne, List.forall_mem_cons, and_assoc]

/-- No uniform write of the team is left in flight. -/
theorem State.no_uniform_publishAll (s : State) (id : Nat) {o : Op} (ho : o ∈ (s.publishAll id).ops) (hid : o.team = id) : o.body.uniform? = none := by
  obtain ⟨hmem, hnew⟩ := (State.mem_ops_foldl_publishOne _ s o).1 ho
  by_contra hne
  have hsome : o.body.uniform?.isSome = true := Option.isSome_iff_ne_none.2 hne
  have hin : o ∈ s.ops.filter fun o => o.team == id && o.body.uniform?.isSome := List.mem_filter.2 ⟨hmem, by simp [hid, hsome]⟩
  exact hnew o (List.mem_filter.2 ⟨hin, List.any_eq_true.2 ⟨o, hin, by simp⟩⟩) hsome rfl

/-! ### Team barriers (R120, R190) -/

section TeamBarrier

variable {s : State} {t : Team} {f k : Nat}

/-- A barrier whose phase is over. -/
def Barrier.turned (b : Barrier) : Barrier := { b with phase := !b.phase, count := 0, relH := b.h, h := 0, told := false }

/-- The threads that a release of a team barrier's open phase frees. -/
def Thread.atBar (f k : Nat) (phase : Bool) (h : Thread) : Bool := !h.exited && h.frame == f && h.waitsAt == .bar k && h.parkPhase == phase

theorem Thread.atBar_iff {f k : Nat} {phase : Bool} {h : Thread} :
    h.atBar f k phase = true ↔ h.exited = false ∧ h.frame = f ∧ h.waitsAt = .bar k ∧ h.parkPhase = phase := by
  simp [Thread.atBar, and_assoc]

/-- A team whose barrier is released. -/
def Team.turnBar (t : Team) (f k z clock time : Nat) (phase : Bool) : Team :=
  (t.modFrame f fun fr => { fr with bars := setAt fr.bars k (Barrier.turned) }).freed clock time z (Thread.atBar f k phase)

theorem Team.frees_turnBar {t u : Team} (hu : u.threads = t.threads) (f k z clock time : Nat) (phase : Bool) :
    t.Frees (u.turnBar f k z clock time phase) clock time z fun h => h.exited = false ∧ h.frame = f ∧ h.waitsAt = .bar k ∧ h.parkPhase = phase := by
  refine Team.frees_freed ?_ fun _ => Thread.atBar_iff
  exact hu

theorem State.releaseTeam_of_waiting (ht : s.team? t.id = some t)
    (h : ((t.frame f).bar k).count < (t.members f).length ∨ ((t.frame f).bar k).count = 0 ∨ s.gtime t.die < ((t.frame f).bar k).h + 2 ∨ t.standing = .saved) :
    s.releaseTeam t.id f k = s := by
  simp only [State.releaseTeam, ht]
  exact if_pos (by tauto)

theorem State.releaseTeam_of_full (ht : s.team? t.id = some t) (hpos : 0 < ((t.frame f).bar k).count)
    (hfull : (t.members f).length ≤ ((t.frame f).bar k).count) (htime : ((t.frame f).bar k).h + 2 ≤ s.gtime t.die) (hst : t.standing ≠ .saved) :
    s.releaseTeam t.id f k = (s.publishAll t.id).modTeam t.id fun u =>
      u.turnBar f k ((t.frame f).bar k).h (s.clock t.die t.core) (s.gtime u.die) ((t.frame f).bar k).phase := by
  simp only [State.releaseTeam, ht]
  exact if_neg (by rw [not_or]; exact ⟨hst, by omega⟩)

/-- A full barrier: its frame's uniform writes are complete, and it alone turns. -/
theorem State.releaseTeam_spec (ht : s.team? t.id = some t) (hf : f < t.frames.length) (hk : k < (t.frame f).bars.length)
    (hpos : 0 < ((t.frame f).bar k).count) (hfull : (t.members f).length ≤ ((t.frame f).bar k).count)
    (htime : ((t.frame f).bar k).h + 2 ≤ s.gtime t.die) (hst : t.standing ≠ .saved) :
    ∃ s0 t0 s' t', exec (.barrierRelease 0 t.id f k) s = .next s' ∧ s0 = s.publishAll t.id ∧ s0.team? t.id = some t0 ∧ s0.OnlyTeam s' t.id ∧
      s'.team? t.id = some t' ∧ (∀ o ∈ s'.ops, o.team = t.id → o.body.uniform? = none) ∧ { t' with threads := t0.threads, frames := t0.frames } = t0 ∧
      (∀ i, i ≠ f → t'.frame i = t0.frame i) ∧ (∀ j, j ≠ k → (t'.frame f).bar j = (t.frame f).bar j) ∧
      ((t'.frame f).bar k).phase = !((t.frame f).bar k).phase ∧ ((t'.frame f).bar k).count = 0 ∧ ((t'.frame f).bar k).relH = ((t.frame f).bar k).h ∧
      t.Frees t' (s.clock t.die t.core) (s.gtime t.die) ((t.frame f).bar k).h fun h =>
        h.exited = false ∧ h.frame = f ∧ h.waitsAt = .bar k ∧ h.parkPhase = ((t.frame f).bar k).phase := by
  obtain ⟨t0, ht0, hsame⟩ := (s.publishAll_uniformOnly t.id).2 t.id t ht
  have hlen := hsame.2.1
  have hbars : (t0.frame f).bars = (t.frame f).bars := (hsame.2.2 f).bars
  generalize hb : (t.frame f).bar k = b at *
  let release := fun u : Team => u.turnBar f k b.h (s.clock t.die t.core) (s.gtime u.die) b.phase
  have hexec : s.releaseTeam t.id f k = (s.publishAll t.id).modTeam t.id release := by
    rw [State.releaseTeam_of_full ht (hb ▸ hpos) (hb ▸ hfull) (hb ▸ htime) hst, hb]
  have hframe : (release t0).frame f = { t0.frame f with bars := setAt (t0.frame f).bars k (Barrier.turned) } :=
    Team.frame_modFrame t0 f _ (by omega)
  have hbar : ((release t0).frame f).bar k = b.turned := by
    rw [hframe, Frame.bar, getD_setAt_self _ _ _ _ (by rw [hbars]; exact hk), hbars, ← Frame.bar, hb]
  refine ⟨_, t0, _, release t0, congrArg Host.Outcome.next hexec, rfl, ht0, State.onlyTeam_modTeam _ _ _ fun _ => rfl,
    State.team?_modTeam_some ht0 fun _ => rfl, fun o ho => s.no_uniform_publishAll t.id ho, rfl, fun i hi => Team.frame_modFrame_ne t0 f i _ hi,
    fun j hj => ?_, by rw [hbar]; rfl, by rw [hbar]; rfl, by rw [hbar]; rfl, ?_⟩
  · rw [hframe, Frame.bar, getD_setAt_ne _ _ _ _ _ hj, hbars, Frame.bar]
  · simp only [release, hsame.die]
    exact Team.frees_turnBar hsame.threads f k b.h _ _ b.phase

end TeamBarrier

/-! ### Cluster and grid barriers (R192, R193) -/

section WideBarrier

/-- Teams of different numbers, each updated once. -/
theorem State.foldl_modTeam {s : State} {step : State → Team → State} {G : Team → Team → Team} (hid : ∀ x u, (G x u).id = u.id)
    (hstep : ∀ x m, { m with teams := s.teams } = s → step m x = m.modTeam x.id (G x)) (l : List Team) (hnd : (l.map (·.id)).Nodup) (m : State)
    (hm : { m with teams := s.teams } = s) :
    { l.foldl step m with teams := s.teams } = s ∧ (∀ j, j ∉ l.map (·.id) → (l.foldl step m).team? j = m.team? j) ∧
      ∀ x ∈ l, (l.foldl step m).team? x.id = (m.team? x.id).map (G x) := by
  induction l generalizing m with
  | nil => exact ⟨hm, fun _ _ => rfl, fun _ hx => nomatch hx⟩
  | cons y l ih =>
    obtain ⟨hy, hl⟩ := List.nodup_cons.1 hnd
    rw [List.foldl_cons, hstep y m hm]
    obtain ⟨h1, h2, h3⟩ := ih hl (m.modTeam y.id (G y)) (State.only_trans hm rfl)
    refine ⟨h1, fun j hj => ?_, fun x hx => ?_⟩
    · obtain ⟨hjy, hjl⟩ := not_or.1 (mt List.mem_cons.2 hj)
      rw [h2 j hjl, State.team?_modTeam_ne m y.id j _ (hid y) hjy]
    · rcases List.mem_cons.1 hx with rfl | hx
      · rw [h2 x.id hy, State.team?_modTeam m x.id _ (hid x)]
      · have hne : x.id ≠ y.id := fun he => hy (List.mem_map.2 ⟨x, hx, he⟩)
        rw [h3 x hx, State.team?_modTeam_ne m y.id x.id _ (hid y) hne]

theorem State.team?_of_mem {s : State} {x : Team} (hnd : (s.teams.map (·.id)).Nodup) (hx : x ∈ s.teams) : s.team? x.id = some x := by
  unfold State.team?
  generalize s.teams = l at hnd hx ⊢
  induction l with
  | nil => cases hx
  | cons y l ih =>
    obtain ⟨hy, hl⟩ := List.nodup_cons.1 hnd
    rcases List.mem_cons.1 hx with rfl | hm
    · simp
    · have : (y.id == x.id) = false := beq_false_of_ne fun e => hy (List.mem_map.2 ⟨x, hm, e.symm⟩)
      rw [List.find?_cons, this]
      exact ih hl hm

/-- A team of a launch's cluster, or of its grid, that has not ended. -/
def State.Mate (s : State) (t : Team) (grid : Bool) (x : Team) : Prop :=
  x ∈ s.teams ∧ x.launch = t.launch ∧ (grid = true ∨ x.cluster = t.cluster) ∧ x.standing ≠ .ended

/-- A team whose cluster or grid barrier is released. -/
def Team.turnWide (grid : Bool) (z clock time : Nat) (x : Team) : Team :=
  (if grid then { x with arrG := false, phaseG := !x.phaseG, toldG := false } else { x with arrC := false, phaseC := !x.phaseC, toldC := false }).freed
    clock time z fun h => !h.exited && h.waitsAt == (if grid then Park.gbar else Park.cbar)

/-- The teams that a cluster or grid barrier waits for. -/
def State.mates (s : State) (t : Team) (grid : Bool) : List Team := (s.peers t grid).filter fun x => x.standing != .ended

theorem State.mem_mates {s : State} {t x : Team} {grid : Bool} : x ∈ s.mates t grid ↔ s.Mate t grid x := by
  simp only [State.mates, State.peers, State.Mate, List.mem_filter, Bool.and_eq_true, Bool.or_eq_true, beq_iff_eq, bne_iff_ne, and_assoc]

/-- Whether every team that a cluster or grid barrier waits for is there, and its time has come. -/
def State.wideFull (s : State) (t : Team) (grid : Bool) (hz : Nat) : Bool :=
  !(s.mates t grid).isEmpty && (s.mates t grid).all (fun x => x.standing == .resident && (if grid then x.arrG else x.arrC)) &&
    (!grid || match s.launch? t.launch with | some l => decide (l.desc.nteams ≤ l.nextTeam) | none => false) &&
    !(s.mates t grid).any fun x => decide (s.gtime x.die < hz + 2)

theorem State.releaseWide_of_full {s : State} {t : Team} {grid : Bool} (ht : s.team? t.id = some t)
    (h : s.wideFull t grid (maxOf 0 ((s.mates t grid).map (·.wideH))) = true) :
    s.releaseWide t.id grid = (s.mates t grid).foldl (fun m x => m.modTeam x.id fun u =>
      u.turnWide grid (maxOf 0 ((s.mates t grid).map (·.wideH))) (m.clock x.die x.core) (m.gtime u.die)) s := by
  have hgo : ∀ a b c d : Bool, (!a && b && c && !d) = true → ¬ (a || !b || !c || d) = true := by decide
  simp only [State.releaseWide, ht]
  refine (if_neg (hgo _ _ _ _ h)).trans ?_
  cases grid <;> rfl

section

variable {s : State} {t : Team} {grid : Bool} {hz : Nat}

theorem State.maxOf_wideH (hmax : ∃ x, s.Mate t grid x ∧ x.wideH = hz) (hle : ∀ x, s.Mate t grid x → x.wideH ≤ hz) :
    maxOf 0 ((s.mates t grid).map (·.wideH)) = hz := by
  obtain ⟨x, hx, rfl⟩ := hmax
  exact maxOf_eq (Nat.zero_le _) (List.forall_mem_map.2 fun y hy => hle y (State.mem_mates.1 hy)) (.inr (List.mem_map_of_mem (State.mem_mates.2 hx)))

theorem State.wideFull_of (hmate : s.Mate t grid t) (harr : ∀ x, s.Mate t grid x → x.standing = .resident ∧ (if grid then x.arrG else x.arrC) = true)
    (hwhole : grid = true → ∃ l, s.launch? t.launch = some l ∧ l.desc.nteams ≤ l.nextTeam) (hle : ∀ x, s.Mate t grid x → hz + 2 ≤ s.gtime x.die) :
    s.wideFull t grid hz = true := by
  have h1 : (s.mates t grid).isEmpty = false := by simpa using List.ne_nil_of_mem (State.mem_mates.2 hmate)
  have h2 : ((s.mates t grid).all fun x => x.standing == .resident && (if grid then x.arrG else x.arrC)) = true :=
    List.all_eq_true.2 fun x hx => by simpa using harr x (State.mem_mates.1 hx)
  have h3 : (!grid || match s.launch? t.launch with | some l => decide (l.desc.nteams ≤ l.nextTeam) | none => false) = true := by
    cases grid with
    | false => rfl
    | true =>
      obtain ⟨l, hl, hn⟩ := hwhole rfl
      simpa [hl] using hn
  have h4 : ((s.mates t grid).any fun x => decide (s.gtime x.die < hz + 2)) = false :=
    List.any_eq_false.2 fun x hx => by simpa using hle x (State.mem_mates.1 hx)
  rw [State.wideFull, h1, h2, h4, Bool.and_eq_true, Bool.and_eq_true]
  exact ⟨⟨rfl, h3⟩, rfl⟩

/-- A full cluster or grid barrier releases its threads in each of its teams, and no other team differs. -/
theorem State.releaseWide_spec (ht : s.team? t.id = some t) (hst : t.standing ≠ .ended)
    (hnd : (s.teams.map (·.id)).Nodup) (harr : ∀ x, s.Mate t grid x → x.standing = .resident ∧ (if grid then x.arrG else x.arrC) = true)
    (hwhole : grid = true → ∃ l, s.launch? t.launch = some l ∧ l.desc.nteams ≤ l.nextTeam) (hmax : ∃ x, s.Mate t grid x ∧ x.wideH = hz)
    (hle : ∀ x, s.Mate t grid x → x.wideH ≤ hz ∧ hz + 2 ≤ s.gtime x.die) :
    { s.releaseWide t.id grid with teams := s.teams } = s ∧ (∀ x, x ∈ s.teams → ¬ s.Mate t grid x → (s.releaseWide t.id grid).team? x.id = some x) ∧
      ∀ x, s.Mate t grid x → (s.releaseWide t.id grid).team? x.id = some (x.turnWide grid hz (s.clock x.die x.core) (s.gtime x.die)) := by
  have hmate : s.Mate t grid t := ⟨List.mem_of_find?_eq_some ht, rfl, .inr rfl, hst⟩
  have hz' := State.maxOf_wideH hmax fun x hx => (hle x hx).1
  have hexec := State.releaseWide_of_full (grid := grid) ht (State.wideFull_of hmate harr hwhole fun x hx => by rw [hz']; exact (hle x hx).2)
  rw [hz'] at hexec
  have hnd' : ((s.mates t grid).map (·.id)).Nodup := hnd.sublist ((List.filter_sublist.trans List.filter_sublist).map _)
  obtain ⟨h1, h2, h3⟩ := State.foldl_modTeam (s := s) (step := fun m x => m.modTeam x.id fun u => u.turnWide grid hz (m.clock x.die x.core) (m.gtime u.die))
    (G := fun x u => u.turnWide grid hz (s.clock x.die x.core) (s.gtime u.die)) (fun x u => by cases grid <;> rfl)
    (fun x m hm => by simp only [State.clock_of_only hm, State.gtime_of_only hm]) (s.mates t grid) hnd' s rfl
  rw [hexec]
  refine ⟨h1, fun x hx hno => ?_, fun x hx => ?_⟩
  · rw [h2 x.id, State.team?_of_mem hnd hx]
    intro hin
    obtain ⟨y, hy, hyx⟩ := List.mem_map.1 hin
    have hsame : some y = some x := by
      rw [← State.team?_of_mem hnd (State.mem_mates.1 hy).1, ← State.team?_of_mem hnd hx, hyx]
    cases hsame
    exact hno (State.mem_mates.1 hy)
  · rw [h3 x (State.mem_mates.2 hx), State.team?_of_mem hnd hx.1, Option.map_some]

end

theorem Team.frees_turnWide (x : Team) (grid : Bool) (z clock time : Nat) : x.Frees (x.turnWide grid z clock time) clock time z fun h =>
    h.exited = false ∧ h.waitsAt = (if grid then .gbar else .cbar) :=
  Team.frees_freed (by cases grid <;> rfl) fun h => by simp

end WideBarrier

/-! ### Threads of a team that change one after another -/

/-- The team `t` has become `u` in `m`, and nothing else of the device differs: each thread that `l` names by `key` is what `R` says, and no other
thread differs. -/
def State.TurnsEach {α : Type} (s m : State) (t u : Team) (l : List α) (key : α → Nat) (R : α → Thread → Thread → Prop) : Prop :=
  s.OnlyTeam m t.id ∧ m.team? t.id = some u ∧ { u with threads := t.threads } = t ∧
    (∀ e ∈ l, ∀ h, t.thread? (key e) = some h → ∃ h', u.thread? (key e) = some h' ∧ R e h h') ∧ ∀ r, r ∉ l.map key → u.thread? r = t.thread? r

section Turns

variable {s m n : State} {t u : Team} {h : Thread}

theorem State.Turns.onlyTeam {R : Thread → Prop} (hm : s.Turns m t h R) : s.OnlyTeam m t.id := ⟨hm.1, hm.2.1⟩

theorem State.Turns.imp {R Q : Thread → Prop} (hm : s.Turns m t h R) (hR : ∀ x, R x → Q x) : s.Turns m t h Q := ⟨hm.1, hm.2.imp hR⟩

theorem State.Turns.then_modThread {x : Thread} (hm : s.Turns m t h fun h' => h' = x) (hx : x.lrank = h.lrank) (f : Thread → Thread)
    (hf : ∀ y, (f y).lrank = y.lrank) : s.Turns (m.modThread t.id h.lrank f) t h fun h' => h' = f x :=
  ⟨State.only_trans hm.1 rfl, hm.2.then_modThread hx f hf⟩

/-- A flag that may clear. -/
theorem State.Turns.then_settleFlag {x : Thread} (hm : s.Turns m t h fun h' => h' = x) (hx : x.lrank = h.lrank) (flag : Option Nat) :
    s.Turns (m.settleFlag t.id h.lrank flag) t h fun h' => ∃ fs, h' = { x with flags := fs } := by
  unfold State.settleFlag
  split
  · next f =>
    split
    · exact hm.imp fun _ hh => ⟨x.flags, hh⟩
    · exact (hm.then_modThread hx (fun h => { h with flags := clearBit h.flags f }) fun _ => rfl).imp fun _ hh => ⟨_, hh⟩
  · exact hm.imp fun _ hh => ⟨x.flags, hh⟩

/-- What is kept while accumulators `x`, of which `st` is the device, go through a list whose elements each change their own thread. -/
theorem State.turnsEach_foldl {α σ : Type} {st : σ → State} {I : σ → Prop} {g : σ → α → σ} {key : α → Nat} {R : α → Thread → Thread → Prop}
    (l : List α) (hnd : (l.map key).Nodup) (hhas : ∀ e ∈ l, ∃ h, t.thread? (key e) = some h)
    (hstep : ∀ e ∈ l, ∀ x u h, I x → s.OnlyTeam (st x) t.id → (st x).team? u.id = some u → { u with threads := t.threads } = t →
      u.thread? h.lrank = some h → t.thread? (key e) = some h → I (g x e) ∧ (st x).Turns (st (g x e)) u h (R e h))
    (x : σ) (hI : I x) (hx : s.OnlyTeam (st x) t.id) (u : Team) (hu : (st x).team? t.id = some u) (hrest : { u with threads := t.threads } = t)
    (hsame : ∀ r ∈ l.map key, u.thread? r = t.thread? r) :
    I (l.foldl g x) ∧ s.OnlyTeam (st (l.foldl g x)) t.id ∧ ∃ v, (st (l.foldl g x)).team? t.id = some v ∧ { v with threads := t.threads } = t ∧
      (∀ e ∈ l, ∀ h, t.thread? (key e) = some h → ∃ h', v.thread? (key e) = some h' ∧ R e h h') ∧ ∀ r, r ∉ l.map key → v.thread? r = u.thread? r := by
  induction l generalizing x u with
  | nil => exact ⟨hI, hx, u, hu, hrest, fun _ he => absurd he List.not_mem_nil, fun _ _ => rfl⟩
  | cons e l ih =>
    obtain ⟨he, hl⟩ := List.nodup_cons.1 hnd
    obtain ⟨h, hh⟩ := hhas e List.mem_cons_self
    have hid : u.id = t.id := by
      have := congrArg Team.id hrest
      exact this
    have hlr : h.lrank = key e := Team.lrank_of_thread? hh
    have huh : u.thread? h.lrank = some h := by rw [hlr, hsame _ List.mem_cons_self, hh]
    obtain ⟨hI', hturn⟩ := hstep e List.mem_cons_self x u h hI hx (hid ▸ hu) hrest huh hh
    obtain ⟨hothers, w, hw, hwrest, hwthreads, h', hh', hR⟩ := hturn.2
    rw [hid] at hw
    rw [hlr] at hwthreads hh'
    have hne : ∀ r ∈ l.map key, r ≠ key e := fun r hr hre => he (hre ▸ hr)
    obtain ⟨k1, k2, v, k3, k4, k5, k6⟩ := ih hl (fun e he => hhas e (List.mem_cons_of_mem _ he)) (fun e he => hstep e (List.mem_cons_of_mem _ he))
      (g x e) hI' (hx.trans (hid ▸ hturn.onlyTeam)) w hw (by rw [← hrest, ← hwrest])
      (fun r hr => (hwthreads r (hne r hr)).trans (hsame r (List.mem_cons_of_mem _ hr)))
    refine ⟨k1, k2, v, k3, k4, fun d hd g hg => ?_, fun r hr => ?_⟩
    · rcases List.mem_cons.1 hd with rfl | hd
      · obtain rfl : h = g := Option.some.inj (hh.symm.trans hg)
        exact ⟨h', (k6 _ he).trans hh', hR⟩
      · exact k5 d hd g hg
    · obtain ⟨hre, hrl⟩ := not_or.1 (mt List.mem_cons.2 hr)
      exact (k6 r hrl).trans (hwthreads r hre)

/-- The same from the team as it stands. -/
theorem State.turnsEach_of_steps {α σ : Type} {st : σ → State} {I : σ → Prop} {g : σ → α → σ} {key : α → Nat} {R : α → Thread → Thread → Prop}
    (l : List α) (hnd : (l.map key).Nodup) (hhas : ∀ e ∈ l, ∃ h, t.thread? (key e) = some h)
    (hstep : ∀ e ∈ l, ∀ x u h, I x → s.OnlyTeam (st x) t.id → (st x).team? u.id = some u → { u with threads := t.threads } = t →
      u.thread? h.lrank = some h → t.thread? (key e) = some h → I (g x e) ∧ (st x).Turns (st (g x e)) u h (R e h))
    (x : σ) (hI : I x) (hx : st x = s) (ht : s.team? t.id = some t) :
    I (l.foldl g x) ∧ ∃ u, s.TurnsEach (st (l.foldl g x)) t u l key R := by
  obtain ⟨h1, h2, u, h3⟩ := State.turnsEach_foldl l hnd hhas hstep x hI (hx ▸ .refl s t.id) t (hx ▸ ht) rfl fun _ _ => rfl
  exact ⟨h1, u, h2, h3⟩

end Turns

/-! ### GSYNC (R258) -/

section GroupSync

variable {s : State} {t : Team} {h : Thread} {a : GroupArrival}

/-- The living lanes of an arrival's mask. -/
def Team.memberList (t : Team) (h : Thread) (a : GroupArrival) : List Thread :=
  (List.range 32).filterMap fun j => if a.mask.getLsbD j then t.laneOf h.frame h.group j else none

/-- A member of a rendezvous: a lane of its mask, or none. -/
def Team.Member (t : Team) (h : Thread) (a : GroupArrival) (x : Thread) : Prop :=
  ∃ j, j < 32 ∧ a.mask.getLsbD j = true ∧ t.laneOf h.frame h.group j = some x

theorem Team.mem_memberList {x : Thread} : x ∈ t.memberList h a ↔ t.Member h a x := by
  simp only [Team.memberList, Team.Member, List.mem_filterMap, List.mem_range, Option.ite_none_right_eq_some]

theorem Team.laneOf_spec {f g j : Nat} {x : Thread} (hx : t.laneOf f g j = some x) : x ∈ t.threads ∧ x.rank = 32 * g + j := by
  refine ⟨List.mem_of_find?_eq_some hx, ?_⟩
  have := List.find?_some hx
  simp only [Bool.and_eq_true, beq_iff_eq] at this
  exact this.1.2

theorem Team.mem_threads_of_member {x : Thread} (hx : t.Member h a x) : x ∈ t.threads := by
  obtain ⟨j, -, -, hj⟩ := hx
  exact (Team.laneOf_spec hj).1

/-- Members have different launch ranks. -/
theorem Team.memberList_nodup (hnd : (t.threads.map (·.lrank)).Nodup) : ((t.memberList h a).map (·.lrank)).Nodup := by
  refine List.Nodup.map_on (fun x hx y hy hxy => ?_) (List.Nodup.filterMap (fun i j x hi hj => ?_) List.nodup_range)
  · exact List.inj_on_of_nodup_map hnd (Team.mem_threads_of_member (Team.mem_memberList.1 hx)) (Team.mem_threads_of_member (Team.mem_memberList.1 hy)) hxy
  · have hri := (Team.laneOf_spec (Option.ite_none_right_eq_some.1 hi).2).2
    have hrj := (Team.laneOf_spec (Option.ite_none_right_eq_some.1 hj).2).2
    omega

/-- Every member of a full rendezvous has arrived. -/
theorem Team.member_arrived {x : Thread} (hfull : t.groupFull h a = true) (hx : t.Member h a x) : ∃ b, x.garr = some b := by
  obtain ⟨j, hj, hm, hlane⟩ := hx
  have := List.all_eq_true.1 hfull j (List.mem_range.2 hj)
  rw [hm, hlane] at this
  cases hg : x.garr with
  | none => simp [hg] at this
  | some b => exact ⟨b, rfl⟩

theorem Thread.releasedAt_lrank (h : Thread) (clock time hz : Nat) : (h.releasedAt clock time hz).lrank = h.lrank := by
  rw [← Thread.release_nil, Thread.release_lrank]

/-- A lane's part of a completed rendezvous without writes, its flag apart. -/
theorem State.groupDone_turns {u : Team} {x : Thread} {b : GroupArrival} (hb : x.garr = some b) (hu : s.team? u.id = some u)
    (hx : u.thread? x.lrank = some x) (hz : Nat) :
    s.Turns (s.groupDone u x hz []) u x fun x' =>
      ∃ fs, x' = { x.releasedAt (s.clock u.die u.core) (s.gtime u.die) hz with garr := none, flags := fs } := by
  simp only [State.groupDone, hb, Thread.release_nil]
  exact (State.turns_modThread s u x (fun x => { x.releasedAt (s.clock u.die u.core) (s.gtime u.die) hz with garr := none }) hu hx
    fun _ => Thread.releasedAt_lrank _ _ _ _).then_settleFlag (Thread.releasedAt_lrank _ _ _ _) b.flag

/-- A lane's part depends on its team by number and place alone. -/
theorem State.groupDone_congr {u : Team} (hrest : { u with threads := t.threads } = t) (x : Thread) (hz : Nat) (ws : List Wr) :
    s.groupDone t x hz ws = s.groupDone u x hz ws := by
  rw [← hrest]
  rfl

theorem State.releaseSync_of_full {hz : Nat} (ht : s.team? t.id = some t) (hlane : t.laneOf h.frame h.group (h.rank % 32) = some h)
    (ha : h.garr = some a) (hop : a.op = .gsync) (hfull : t.groupFull h a = true)
    (hdone : ∀ x, t.Member h a x → ∀ o ∈ s.ops, o.team = t.id → o.lrank = x.lrank → o.body.unreturned = false)
    (hle : ∀ x, t.Member h a x → x.fh ≤ hz) (hmax : ∃ x, t.Member h a x ∧ x.fh = hz) (htime : hz + 2 ≤ s.gtime t.die) :
    s.releaseSync t.id h.frame h.rank = (t.memberList h a).foldl (fun m x => m.groupDone t x hz []) s := by
  have hz' : maxOf 0 ((t.memberList h a).map (·.fh)) = hz := by
    obtain ⟨x, hx, rfl⟩ := hmax
    exact maxOf_eq (Nat.zero_le _) (List.forall_mem_map.2 fun y hy => hle y (Team.mem_memberList.1 hy))
      (.inr (List.mem_map_of_mem (Team.mem_memberList.2 hx)))
  have hsettled : ((t.memberList h a).all fun x => !(s.outstanding t.id x.lrank).any fun _ => true) = true := by
    refine List.all_eq_true.2 fun x hx => ?_
    have hnone : s.outstanding t.id x.lrank = [] := by
      rw [State.outstanding, List.map_eq_nil_iff, List.filter_eq_nil_iff]
      intro o ho hb
      simp only [Bool.and_eq_true, beq_iff_eq] at hb
      exact absurd hb.2 (by rw [hdone x (Team.mem_memberList.1 hx) o ho hb.1.1 hb.1.2]; decide)
    rw [hnone]
    rfl
  have hlane' : t.laneOf h.frame (h.rank / 32) (h.rank % 32) = some h := hlane
  simp only [State.releaseSync, ht, hlane', ha]
  rw [← hz'] at htime ⊢
  refine if_neg ?_
  change ¬ (a.op != .gsync || !t.groupFull h a || !((t.memberList h a).all fun x => !(s.outstanding t.id x.lrank).any fun _ => true) ||
    decide (s.gtime t.die < maxOf 0 ((t.memberList h a).map (·.fh)) + 2)) = true
  rw [hop, hfull, hsettled, decide_eq_false (by omega)]
  decide

/-- A full GSYNC releases its members and no other thread. -/
theorem State.releaseSync_turns {hz : Nat} (ht : s.team? t.id = some t) (hlane : t.laneOf h.frame h.group (h.rank % 32) = some h)
    (ha : h.garr = some a) (hop : a.op = .gsync) (hfull : t.groupFull h a = true) (hnd : (t.threads.map (·.lrank)).Nodup)
    (hdone : ∀ x, t.Member h a x → ∀ o ∈ s.ops, o.team = t.id → o.lrank = x.lrank → o.body.unreturned = false)
    (hle : ∀ x, t.Member h a x → x.fh ≤ hz) (hmax : ∃ x, t.Member h a x ∧ x.fh = hz) (htime : hz + 2 ≤ s.gtime t.die) :
    ∃ u, s.TurnsEach (s.releaseSync t.id h.frame h.rank) t u (t.memberList h a) (·.lrank) fun _ x x' =>
      ∃ fs, x' = { x.releasedAt (s.clock t.die t.core) (s.gtime t.die) hz with garr := none, flags := fs } := by
  have hfind : ∀ x ∈ t.memberList h a, t.thread? x.lrank = some x := fun x hx =>
    Team.thread?_of_mem hnd (Team.mem_threads_of_member (Team.mem_memberList.1 hx))
  rw [State.releaseSync_of_full ht hlane ha hop hfull hdone hle hmax htime]
  refine (State.turnsEach_of_steps (st := id) (I := fun _ => True) (g := fun m x => m.groupDone t x hz []) _ (Team.memberList_nodup hnd)
    (fun x hx => ⟨x, hfind x hx⟩) (fun e he m u x _ hm hu hrest hux htx => ⟨trivial, ?_⟩) s trivial rfl ht).2
  obtain rfl : e = x := Option.some.inj ((hfind e he).symm.trans htx)
  obtain ⟨b, hb⟩ := Team.member_arrived hfull (Team.mem_memberList.1 he)
  simp only [id_eq, State.groupDone_congr hrest]
  have hturn := State.groupDone_turns hb hu hux hz
  have hdie : u.die = t.die := by rw [← hrest]
  have hcore : u.core = t.core := by rw [← hrest]
  rwa [hdie, hcore, State.clock_of_only hm.1, State.gtime_of_only hm.1] at hturn

end GroupSync

theorem Thread.releasedAt_of_running {h : Thread} (hs : h.stopped = false) (clock time hz : Nat) : h.releasedAt clock time hz =
    { h with fh := max h.fh hz, rh := max h.rh hz, park := .none, readyAt := clock, aged := false, parkTold := false, due := none,
             stopped := h.stopNext, stopNext := false, stopClock := if h.stopNext then clock else h.stopClock,
             stopTime := if h.stopNext then time else h.stopTime } := by
  rw [Thread.releasedAt, if_neg (by rw [hs]; decide)]

theorem Thread.releasedAt_of_stopped {h : Thread} (hs : h.stopped = true) (clock time hz : Nat) :
    h.releasedAt clock time hz = { h with due := some ⟨hz, []⟩ } := if_pos hs

/-- A full GSYNC's members go on, a stopped one when it resumes. -/
theorem State.releaseSync_spec {s : State} {t : Team} {h : Thread} {a : GroupArrival} {hz : Nat} (ht : s.team? t.id = some t)
    (hlane : t.laneOf h.frame h.group (h.rank % 32) = some h)
    (ha : h.garr = some a) (hop : a.op = .gsync) (hfull : t.groupFull h a = true) (hnd : (t.threads.map (·.lrank)).Nodup)
    (hdone : ∀ x, t.Member h a x → ∀ o ∈ s.ops, o.team = t.id → o.lrank = x.lrank → o.body.unreturned = false)
    (hle : ∀ x, t.Member h a x → x.fh ≤ hz) (hmax : ∃ x, t.Member h a x ∧ x.fh = hz) (htime : hz + 2 ≤ s.gtime t.die) :
    ∃ s' t', exec (.barrierRelease 3 t.id h.frame h.rank) s = .next s' ∧ s.OnlyTeam s' t.id ∧ s'.team? t.id = some t' ∧
        (∀ x, t.Member h a x → ∃ x', t'.thread? x.lrank = some x' ∧ x'.garr = none ∧ x'.v = x.v ∧ x'.pc = x.pc ∧
          (x.stopped = false → x'.park = .none ∧ x'.fh = max x.fh hz ∧ x'.rh = max x.rh hz) ∧
          (x.stopped = true → x'.park = x.park ∧ x'.fh = x.fh ∧ x'.rh = x.rh ∧ x'.due = some ⟨hz, []⟩)) ∧
        ∀ x ∈ t.threads, ¬ t.Member h a x → t'.thread? x.lrank = some x := by
  obtain ⟨u, honly, hu, -, hin, hout⟩ := State.releaseSync_turns ht hlane ha hop hfull hnd hdone hle hmax htime
  refine ⟨_, u, rfl, honly, hu, fun x hx => ?_, fun x hx hno => ?_⟩
  · obtain ⟨_, hx', fs, rfl⟩ := hin x (Team.mem_memberList.2 hx) x (Team.thread?_of_mem hnd (Team.mem_threads_of_member hx))
    refine ⟨_, hx', rfl, ?_⟩
    cases hs : x.stopped with
    | false =>
      rw [Thread.releasedAt_of_running hs]
      exact ⟨rfl, rfl, fun _ => ⟨rfl, rfl, rfl⟩, fun h => absurd h (by decide)⟩
    | true =>
      rw [Thread.releasedAt_of_stopped hs]
      exact ⟨rfl, rfl, fun h => absurd h (by decide), fun _ => ⟨rfl, rfl, rfl, rfl⟩⟩
  · rw [hout x.lrank, Team.thread?_of_mem hnd hx]
    intro hin
    obtain ⟨y, hy, hyx⟩ := List.mem_map.1 hin
    have hmem := Team.mem_memberList.1 hy
    exact hno (List.inj_on_of_nodup_map hnd (Team.mem_threads_of_member hmem) hx hyx ▸ hmem)

/-! ### The bow (R152) -/

section Bow

variable {s : State} {l : Launch} {t : Team}

/-- A launch whose bow has arrived at the team `k`, with the time `z`. -/
def Launch.bowAt (k z : Nat) (l : Launch) : Launch := { l with bow := { l.bow with holder := k, moving := false, t := z, next := 0 } }

theorem State.launch?_modLaunch {f : Launch → Launch} (hl : s.launch? l.id = some l) (hf : ∀ l, (f l).id = l.id) :
    (s.modLaunch l.id f).launch? l.id = some (f l) := by
  have h := find?_mapIf (fun x : Launch => x.id == l.id) (fun x => x.id == l.id) f s.launches fun x => by rw [hf]
  rw [State.launch?] at hl
  rw [State.launch?, State.modLaunch_launches, h, hl, Option.map_some, if_pos (beq_self_eq_true _)]

theorem State.bowArrival_of_due (hl : s.launch? l.id = some l) (hmoving : l.bow.moving = true) (htime : l.bow.next + 2 ≤ s.gtime t.die)
    (hdone : ∀ o ∈ s.ops, o.team = l.bow.prev → o.id < l.bow.mark → o.body.bowed = false)
    (honly : ∀ x ∈ s.teams, x.launch = l.id → x.teamId = l.bow.holder → x = t) (hmem : t ∈ s.teams) (hlaunch : t.launch = l.id)
    (hholder : t.teamId = l.bow.holder) (hst : t.standing = .resident) :
    s.bowArrival l.id = (s.modLaunch l.id (Launch.bowAt l.bow.holder l.bow.next)).modTeam t.id fun u =>
      u.freed (s.clock t.die t.core) (s.gtime u.die) l.bow.next fun h => !h.exited && h.waitsAt == .bowwait := by
  have hwaits : (s.ops.any fun o => o.team == l.bow.prev && decide (o.id < l.bow.mark) && o.body.bowed) = false := by
    refine List.any_eq_false.2 fun o ho hb => ?_
    simp only [Bool.and_eq_true, beq_iff_eq, decide_eq_true_eq] at hb
    exact absurd hb.2 (by rw [hdone o ho hb.1.1 hb.1.2]; decide)
  have hended : (s.teams.any fun x => x.launch == l.id && x.teamId == l.bow.holder && x.standing == .ended) = false := by
    refine List.any_eq_false.2 fun x hx hb => ?_
    simp only [Bool.and_eq_true, beq_iff_eq] at hb
    rw [honly x hx hb.1.1 hb.1.2, hst] at hb
    exact absurd hb.2 (by decide)
  have hfind : (s.teams.find? fun x => x.launch == l.id && x.teamId == l.bow.holder && x.standing == .resident) = some t := by
    cases hf : s.teams.find? fun x => x.launch == l.id && x.teamId == l.bow.holder && x.standing == .resident with
    | none => exact absurd (List.find?_eq_none.1 hf t hmem) (by simp [hlaunch, hholder, hst])
    | some x =>
      have hx := List.find?_some hf
      simp only [Bool.and_eq_true, beq_iff_eq] at hx
      rw [honly x (List.mem_of_find?_eq_some hf) hx.1.1 hx.1.2]
  simp only [State.bowArrival, hl, hwaits, hended, Bool.false_eq_true, if_false, hfind]
  exact if_neg (by rw [hmoving, decide_eq_false (by omega)]; decide)

/-- The bow arrives. -/
theorem State.bowArrival_spec (hl : s.launch? l.id = some l) (hmoving : l.bow.moving = true) (htime : l.bow.next + 2 ≤ s.gtime t.die)
    (hdone : ∀ o ∈ s.ops, o.team = l.bow.prev → o.id < l.bow.mark → o.body.bowed = false)
    (honly : ∀ x ∈ s.teams, x.launch = l.id → x.teamId = l.bow.holder → x = t) (hmem : t ∈ s.teams) (hlaunch : t.launch = l.id)
    (hholder : t.teamId = l.bow.holder) (hst : t.standing = .resident) (ht : s.team? t.id = some t) :
    ∃ s' l' t', exec (.bowArrival l.id) s = .next s' ∧ { s' with teams := s.teams, launches := s.launches } = s ∧ s'.launch? l.id = some l' ∧
      l'.bow.holder = l.bow.holder ∧ l'.bow.moving = false ∧ l'.bow.t = l.bow.next ∧ l'.bow.next = 0 ∧
      (∀ j, j ≠ t.id → s'.team? j = s.team? j) ∧ s'.team? t.id = some t' ∧
      t.Frees t' (s.clock t.die t.core) (s.gtime t.die) l.bow.next fun h => h.exited = false ∧ h.waitsAt = .bowwait := by
  refine ⟨_, l.bowAt l.bow.holder l.bow.next, _, congrArg Host.Outcome.next
    (State.bowArrival_of_due hl hmoving htime hdone honly hmem hlaunch hholder hst), rfl, State.launch?_modLaunch hl fun _ => rfl, rfl, rfl, rfl, rfl,
    fun j hj => State.team?_modTeam_ne (s.modLaunch l.id _) t.id j _ (fun _ => rfl) hj,
    State.team?_modTeam_some (s := s.modLaunch l.id _) ht fun _ => rfl, Team.frees_freed rfl fun h => by simp⟩

end Bow

/-! ### A window that is lost (R264) -/

/-- A window kept open too long is lost while its team is saved. -/
theorem State.openWindowLimit_of_late {s : State} {t : Team} {h : Thread} (ht : s.team? t.id = some t) (hh : t.thread? h.lrank = some h)
    (hst : t.standing = .saving) (hwin : h.openWin ≠ []) (hlate : 256 ≤ h.sinceOpen) :
    s.openWindowLimit t.id h.lrank = s.modTeam t.id fun t =>
      { t with win := cdrop (fun a => h.openWin.contains (a / 256)) t.win,
               threads := mapIf (fun x => x.lrank == h.lrank) (fun x => { x with openWin := [] }) t.threads } := by
  simp only [State.openWindowLimit, ht, State.thread?_of ht, hh]
  exact if_pos (by simp [hst, hwin, hlate])

theorem State.openWindowLimit_of_early {s : State} {t : Team} {h : Thread} (ht : s.team? t.id = some t) (hh : t.thread? h.lrank = some h)
    (hearly : h.sinceOpen < 256) : s.openWindowLimit t.id h.lrank = s := by
  simp only [State.openWindowLimit, ht, State.thread?_of ht, hh]
  exact if_neg (by rw [decide_eq_false (by omega)]; simp)

/-- A table without the cells of the windows in `ws`. -/
theorem cget_cdrop_window {ws : List Nat} {c : Nat} (hc : c ∈ ws) (m : Cells 8) {i : Nat} (hi : i < 256) :
    cget (cdrop (fun a => ws.contains (a / 256)) m) (256 * c + i) = 0 := by
  have hdiv : (256 * c + i) / 256 = c := by omega
  rw [cget_cdrop, if_pos (by rw [hdiv]; exact List.contains_iff_mem.2 hc)]

/-! ### Watchdogs (R365) -/

section Watchdog

variable {s : State} {t : Team} {h : Thread}

/-- A barrier of a thread's frame, or of one above it, that has been open past the limit without a record, while no thread that takes part is
stopped. -/
def State.Overdue (s : State) (t : Team) (h : Thread) (f k : Nat) : Prop :=
  f ∈ t.ancestors 8 h.frame ∧ k < 4 ∧ 0 < ((t.frame f).bar k).count ∧ ((t.frame f).bar k).told = false ∧
    ((t.frame f).bar k).since + 2 ^ 24 ≤ s.clock t.die t.core ∧ ∀ y ∈ t.members f, y.stopped = false

theorem State.overdueBar_eq_some {f k : Nat} {b : Barrier} (h' : s.overdueBar t h = some (f, k, b)) : s.Overdue t h f k ∧ b = (t.frame f).bar k := by
  obtain ⟨f', hf, hin⟩ := List.exists_of_findSome?_eq_some h'
  obtain ⟨k', hk, hif⟩ := List.exists_of_findSome?_eq_some hin
  obtain ⟨⟨hcount, htold, hsince, hmembers⟩, heq⟩ := Option.ite_none_right_eq_some.1 hif
  obtain ⟨rfl, rfl, rfl⟩ : f' = f ∧ k' = k ∧ (t.frame f').bar k' = b := by simpa using heq
  exact ⟨⟨hf, List.mem_range.1 hk, hcount, by simpa using htold, hsince, fun y hy => by simpa using List.all_eq_true.1 hmembers y hy⟩, rfl⟩

theorem State.overdueBar_eq_none (h' : s.overdueBar t h = none) (f k : Nat) : ¬ s.Overdue t h f k := by
  rintro ⟨hf, hk, hcount, htold, hsince, hmembers⟩
  have hnone := List.findSome?_eq_none_iff.1 (List.findSome?_eq_none_iff.1 h' f hf) k (List.mem_range.2 hk)
  dsimp only at hnone
  rw [if_pos ⟨hcount, by simpa using htold, hsince, List.all_eq_true.2 fun y hy => by simpa using hmembers y hy⟩] at hnone
  cases hnone

/-- A thread that waits in no rendezvous with a watchdog of its own. -/
theorem State.watchdog_of_no_overdue (ht : s.team? t.id = some t) (hh : t.thread? h.lrank = some h) (hno : ∀ f k, ¬ s.Overdue t h f k)
    (hwait : (∃ j, h.waitsAt = .bar j) ∨ h.waitsAt = .none) : s.watchdog t.id h.lrank = s := by
  have hnone : s.overdueBar t h = none := by
    cases hb : s.overdueBar t h with
    | none => rfl
    | some e =>
      obtain ⟨f, k, b⟩ := e
      exact absurd (State.overdueBar_eq_some hb).1 (hno f k)
  simp only [State.watchdog, ht, State.thread?_of ht, hh, hnone]
  obtain ⟨j, hj⟩ | hj := hwait <;> simp only [hj, ite_self]

/-- A barrier past its limit is recorded, and noted as recorded. -/
theorem State.watchdog_of_overdue {f k : Nat} (ht : s.team? t.id = some t) (hh : t.thread? h.lrank = some h) (hlive : h.exited = false)
    (hst : t.standing = .resident) (hover : s.Overdue t h f k) (honly : ∀ f' k', s.Overdue t h f' k' → f' = f ∧ k' = k) :
    ∃ r : Rec, r.ctx = t.ctx ∧ s.watchdog t.id h.lrank = (s.record r bitSTALL).modFrame t.id f fun fr =>
      { fr with bars := setAt fr.bars k fun b => { b with told := true } } := by
  have hsome : s.overdueBar t h = some (f, k, (t.frame f).bar k) := by
    cases hb : s.overdueBar t h with
    | none => exact absurd hover (State.overdueBar_eq_none hb f k)
    | some e =>
      obtain ⟨f', k', b⟩ := e
      obtain ⟨hover', rfl⟩ := State.overdueBar_eq_some hb
      obtain ⟨rfl, rfl⟩ := honly f' k' hover'
      rfl
  refine ⟨{ recOf t h 0x0104 3 (packetOf ((t.frame f).bar k).at_).toNat (1 + k) with lrank := ((t.frame f).bar k).who }, rfl, ?_⟩
  simp only [State.watchdog, ht, State.thread?_of ht, hh, hsome]
  exact if_neg (by rw [hlive, hst]; decide)

/-- A record sets its bits in its context's CESTAT (R359). -/
theorem State.record_cestat {r : Rec} {x : Context} (hx : s.ctx? r.ctx = some x) (bits : Word) :
    ∃ x', (s.record r bits).ctx? r.ctx = some x' ∧ ∀ i, bits.getLsbD i = true → x'.cestat.getLsbD i = true := by
  have hreports := (s.countRead_reports x.ring).trans ((s.countRead x.ring).ringPut_reports x.ring (r.bytes (s.gtime r.die)))
  have hctx : ((s.countRead x.ring).ringPut x.ring (r.bytes (s.gtime r.die))).1.contexts = s.contexts := by
    have := congrArg State.contexts hreports.1
    exact this
  have hmod : ∀ (m : State) (f : Context → Context), m.contexts = s.contexts → (∀ c, (f c).num = c.num) →
      (m.modCtx r.ctx f).ctx? r.ctx = some (f x) := fun m f hm hf => by
    have hfind := find?_mapIf (fun c : Context => c.num == r.ctx) (fun c => c.num == r.ctx) f m.contexts fun c => by rw [hf]
    rw [State.ctx?, ← hm] at hx
    have hnum := List.find?_some hx
    rw [State.ctx?, State.modCtx_contexts, hfind, hx, Option.map_some, if_pos hnum]
  simp only [State.record, State.recordBytes, hx]
  split
  · exact ⟨_, hmod _ _ hctx fun _ => rfl, fun i hi => by simp only [BitVec.getLsbD_or, hi, Bool.or_true]⟩
  · exact ⟨_, hmod _ _ hctx fun _ => rfl, fun i hi => by simp only [BitVec.getLsbD_or, hi, Bool.or_true, Bool.true_or]⟩

/-- The one barrier past its limit gives STALL in CESTAT, and keeps its arrivals. -/
theorem State.watchdog_spec {x : Context} {f k : Nat} (ht : s.team? t.id = some t) (hh : t.thread? h.lrank = some h) (hlive : h.exited = false)
    (hst : t.standing = .resident) (hx : s.ctx? t.ctx = some x) (hf : f < t.frames.length) (hbars : (t.frame f).bars.length = 4)
    (hover : s.Overdue t h f k) (honly : ∀ f' k', s.Overdue t h f' k' → f' = f ∧ k' = k) :
    ∃ s' x' t', exec (.rendezvousWatchdog t.id h.lrank) s = .next s' ∧ s'.ctx? t.ctx = some x' ∧ x'.cestat.getLsbD 3 = true ∧
      s'.team? t.id = some t' ∧ t'.threads = t.threads ∧ ((t'.frame f).bar k).told = true ∧ ((t'.frame f).bar k).count = ((t.frame f).bar k).count := by
  obtain ⟨r, hr, hexec⟩ := State.watchdog_of_overdue ht hh hlive hst hover honly
  obtain ⟨x', hx', hbits⟩ := State.record_cestat (r := r) (hr ▸ hx) bitSTALL
  have hteam : (s.record r bitSTALL).team? t.id = some t := by
    rw [State.team?, (State.keepsWork_iff.1 (s.record_keepsWork r bitSTALL)).2.2.1]
    exact ht
  have hbar : ((t.modFrame f fun fr => { fr with bars := setAt fr.bars k fun b => { b with told := true } }).frame f).bar k =
      { (t.frame f).bar k with told := true } := by
    rw [Team.frame_modFrame t f _ hf]
    exact getD_setAt_self _ _ _ _ (by rw [hbars]; exact hover.2.1)
  refine ⟨_, x', _, congrArg Host.Outcome.next hexec, hr ▸ hx', hbits 3 (by decide), State.team?_modTeam_some hteam fun _ => rfl, rfl, ?_, ?_⟩
  · rw [hbar]
  · rw [hbar]

end Watchdog

/-! ### Reading a frame's uniform file through its ancestors (R45) -/

section Uniform

variable {t u : Team}

theorem Team.ancestors_congr (h : ∀ k, (u.frame k).parent = (t.frame k).parent) (n i : Nat) : u.ancestors n i = t.ancestors n i := by
  induction n generalizing i with
  | zero => rfl
  | succ n ih => simp only [Team.ancestors, h, ih]

theorem Team.mem_ancestors_self (t : Team) (n i : Nat) : i ∈ t.ancestors n i := by
  cases n with
  | zero => exact List.mem_singleton_self i
  | succ n =>
    rw [Team.ancestors]
    split <;> exact List.mem_cons_self

theorem Team.holder_mem_ancestors (t : Team) (n i g : Nat) : t.holder n i g ∈ t.ancestors n i := by
  induction n generalizing i with
  | zero => exact List.mem_singleton_self i
  | succ n ih =>
    simp only [Team.holder, Team.ancestors]
    by_cases hg : (t.frame i).gran.getLsbD g = true
    · rw [if_pos hg]
      split <;> exact List.mem_cons_self
    · rw [if_neg hg]
      cases (t.frame i).parent with
      | none => exact List.mem_cons_self
      | some p => exact List.mem_cons_of_mem i (ih p)

theorem Team.holder_congr (n i g : Nat) (h : ∀ k ∈ t.ancestors n i, (u.frame k).gran = (t.frame k).gran ∧ (u.frame k).parent = (t.frame k).parent) :
    u.holder n i g = t.holder n i g := by
  induction n generalizing i with
  | zero => rfl
  | succ n ih =>
    obtain ⟨hg, hp⟩ := h i (t.mem_ancestors_self _ i)
    rw [Team.holder, Team.holder, hg, hp]
    rw [Team.ancestors] at h
    cases hpar : (t.frame i).parent with
    | none => rfl
    | some p =>
      rw [hpar] at h
      dsimp only
      rw [ih p fun k hk => h k (List.mem_cons_of_mem i hk)]

/-- What a frame reads depends on its own frame and those above it alone. -/
theorem Team.uget_congr (i j : Nat) (h : ∀ k ∈ t.ancestors 8 i, (u.frame k).uni = (t.frame k).uni ∧ (u.frame k).gran = (t.frame k).gran ∧
    (u.frame k).parent = (t.frame k).parent) : u.uget i j = t.uget i j := by
  have hholder := Team.holder_congr 8 i (j / 16) fun k hk => (h k hk).2
  rw [Team.uget, Team.uget, hholder, (h _ (t.holder_mem_ancestors 8 i _)).1]

end Uniform

/-! ### The result registers of a call (R53) -/

section Results

variable {t : Team} {f : Nat} {subs : List Nat}

/-- The value that a frame takes for a result register: that of the first of its sub-teams which wrote it. -/
def Team.taken (t : Team) (f : Nat) (subs : List Nat) (j : Nat) : Option Word :=
  if (t.frame f).rmask.getLsbD j then (subs.filter fun i => (t.frame i).wrote.getLsbD j).head?.map (t.uget · j) else none

/-- One result register taken. -/
def Team.takeResult (t : Team) (f : Nat) (subs : List Nat) (u : Team) (j : Nat) : Team :=
  if !(t.frame f).rmask.getLsbD j then u else
  match subs.filter fun i => (t.frame i).wrote.getLsbD j with
  | [] => u
  | i :: rest => { (u.uput f j (t.uget i j)) with mrgc := u.mrgc || !rest.isEmpty }

theorem Team.mergeResults_eq (t : Team) (f : Nat) (subs : List Nat) : t.mergeResults f subs = (List.range 32).foldl (t.takeResult f subs) t := rfl

/-- It is a uniform write of the frame, or nothing. -/
theorem Team.takeResult_cases (t : Team) (f : Nat) (subs : List Nat) (u : Team) (j : Nat) :
    (t.taken f subs j = none ∧ t.takeResult f subs u j = u) ∨
      ∃ x b, t.taken f subs j = some x ∧ t.takeResult f subs u j = { u.uput f j x with mrgc := b } := by
  unfold Team.taken Team.takeResult
  cases (t.frame f).rmask.getLsbD j with
  | false => exact .inl ⟨rfl, rfl⟩
  | true =>
    cases subs.filter fun i => (t.frame i).wrote.getLsbD j with
    | nil => exact .inl ⟨rfl, rfl⟩
    | cons i rest => exact .inr ⟨_, _, rfl, rfl⟩

/-- What the registers up to `n` have come to. -/
structure Team.Merging (t : Team) (f : Nat) (subs : List Nat) (n : Nat) (u : Team) : Prop where
  rest : { u with frames := t.frames, mrgc := t.mrgc } = t
  frames : t.FramesButUniform u
  others : ∀ i, i ≠ f → u.frame i = t.frame i
  reads : ∀ j, j < 256 → u.uget f j = if j < n then (t.taken f subs j).getD (t.uget f j) else t.uget f j

theorem Team.Merging.step {n : Nat} {u : Team} (hf : f < t.frames.length) (hn : n < 32) (h : t.Merging f subs n u) :
    t.Merging f subs (n + 1) (t.takeResult f subs u n) := by
  obtain ⟨hrest, hframes, hothers, hreads⟩ := h
  obtain ⟨hnone, heq⟩ | ⟨x, b, hsome, heq⟩ := t.takeResult_cases f subs u n
  · rw [heq]
    refine ⟨hrest, hframes, hothers, fun j hj => ?_⟩
    rw [hreads j hj]
    rcases Nat.lt_trichotomy j n with hlt | rfl | hlt
    · rw [if_pos hlt, if_pos (by omega)]
    · rw [if_neg (by omega), if_pos (by omega), hnone, Option.getD_none]
    · rw [if_neg (by omega), if_neg (by omega)]
  · rw [heq]
    have hlen : f < u.frames.length := hframes.1 ▸ hf
    refine ⟨hrest, hframes.trans (u.framesButUniform_uput f n x), fun i hi => (u.frame_uput_ne f n i x hi).trans (hothers i hi), fun j hj => ?_⟩
    have hu : ({ u.uput f n x with mrgc := b } : Team).uget f j = (u.uput f n x).uget f j := Team.uget_congr f j fun _ _ => ⟨rfl, rfl, rfl⟩
    rw [hu, Team.uget_uput u f n j x hlen (by omega) hj, hreads j hj]
    rcases Nat.lt_trichotomy j n with hlt | rfl | hlt
    · rw [if_neg (by omega), if_pos hlt, if_pos (by omega)]
    · rw [if_pos rfl, if_pos (by omega), hsome, Option.getD_some]
    · rw [if_neg (by omega), if_neg (by omega), if_neg (by omega)]

theorem Team.mergeResults_merging (hf : f < t.frames.length) : t.Merging f subs 32 (t.mergeResults f subs) := by
  have key : ∀ n, n ≤ 32 → t.Merging f subs n ((List.range n).foldl (t.takeResult f subs) t) := by
    intro n hn
    induction n with
    | zero => exact ⟨rfl, .refl t, fun _ _ => rfl, fun _ _ => rfl⟩
    | succ n ih =>
      rw [List.range_succ, List.foldl_append]
      exact (ih (by omega)).step hf (by omega)
  rw [Team.mergeResults_eq]
  exact key 32 (Nat.le_refl 32)

end Results

/-! ### The sub-teams of a call (R52) -/

section SubTeams

variable {t : Team} {f : Nat}

/-- A sub-team frame of a frame. -/
def Team.Sub (t : Team) (f i : Nat) : Prop := i < t.frames.length ∧ (t.frame i).parent = some f ∧ (t.frame i).status ≠ .gone

theorem Team.mem_subs {i : Nat} : i ∈ t.subs f ↔ t.Sub f i := by
  unfold Team.subs Team.Sub
  rw [(sortBy_perm _ _).mem_iff, List.mem_filter, List.mem_range]
  simp

theorem Team.contains_subs {i : Nat} : (t.subs f).contains i = true ↔ t.Sub f i := by
  rw [List.contains_iff_mem, Team.mem_subs]

/-- The value taken is that of the lowest-numbered callee that wrote the register. -/
theorem Team.taken_of_lowest {i j : Nat} (hinj : ∀ i j, t.Sub f i → t.Sub f j → (t.frame i).callee = (t.frame j).callee → i = j)
    (hmask : (t.frame f).rmask.getLsbD j = true) (hi : t.Sub f i) (hw : (t.frame i).wrote.getLsbD j = true)
    (hlow : ∀ k, t.Sub f k → (t.frame k).callee < (t.frame i).callee → (t.frame k).wrote.getLsbD j = false) :
    t.taken f (t.subs f) j = some (t.uget i j) := by
  have hmem : i ∈ (t.subs f).filter fun i => (t.frame i).wrote.getLsbD j := List.mem_filter.2 ⟨Team.mem_subs.2 hi, hw⟩
  have hsort : ((t.subs f).filter fun i => (t.frame i).wrote.getLsbD j).Pairwise fun x y => (t.frame x).callee ≤ (t.frame y).callee :=
    (sortBy_pairwise (fun i => (t.frame i).callee) _).filter _
  have hsub : ∀ k ∈ (t.subs f).filter fun i => (t.frame i).wrote.getLsbD j, t.Sub f k ∧ (t.frame k).wrote.getLsbD j = true := fun k hk =>
    ⟨Team.mem_subs.1 (List.mem_filter.1 hk).1, (List.mem_filter.1 hk).2⟩
  rw [Team.taken, if_pos hmask]
  generalize (t.subs f).filter (fun i => (t.frame i).wrote.getLsbD j) = l at hmem hsort hsub ⊢
  cases l with
  | nil => cases hmem
  | cons k l =>
    obtain ⟨hk, hkw⟩ := hsub k List.mem_cons_self
    have hki : k = i := by
      rcases List.mem_cons.1 hmem with rfl | hil
      · rfl
      · have hle := (List.pairwise_cons.1 hsort).1 i hil
        rcases Nat.lt_or_eq_of_le hle with hlt | heq
        · exact absurd hkw (by rw [hlow k hk hlt]; decide)
        · exact hinj k i hk hi heq
    rw [hki, List.head?_cons, Option.map_some]

theorem Team.taken_of_unwritten {j : Nat} (h : (t.frame f).rmask.getLsbD j = false ∨ ∀ i, t.Sub f i → (t.frame i).wrote.getLsbD j = false) :
    t.taken f (t.subs f) j = none := by
  unfold Team.taken
  rcases h with h | h
  · rw [h]
    rfl
  · have hnil : ((t.subs f).filter fun i => (t.frame i).wrote.getLsbD j) = [] :=
      List.filter_eq_nil_iff.2 fun i hi => by rw [h i (Team.mem_subs.1 hi)]; decide
    rw [hnil, List.head?_nil, Option.map_none, ite_self]

/-- Frames that are given up. -/
theorem Team.foldl_modFrame {g : Frame → Frame} (hg : ∀ x, (g x).status = .gone) (l : List Nat) (u : Team) :
    (l.foldl (fun u i => u.modFrame i g) u).frames.length = u.frames.length ∧
      (∀ k, k ∉ l → (l.foldl (fun u i => u.modFrame i g) u).frame k = u.frame k) ∧
      ∀ k ∈ l, k < u.frames.length → ((l.foldl (fun u i => u.modFrame i g) u).frame k).status = .gone := by
  induction l generalizing u with
  | nil => exact ⟨rfl, fun _ _ => rfl, fun _ hk => absurd hk List.not_mem_nil⟩
  | cons i l ih =>
    obtain ⟨h1, h2, h3⟩ := ih (u.modFrame i g)
    have hlen : (u.modFrame i g).frames.length = u.frames.length := length_setAt _ _ _
    rw [List.foldl_cons]
    refine ⟨h1.trans hlen, fun k hk => ?_, fun k hk hlt => ?_⟩
    · obtain ⟨hki, hkl⟩ := not_or.1 (mt List.mem_cons.2 hk)
      rw [h2 k hkl, Team.frame_modFrame_ne u i k g hki]
    · by_cases hkl : k ∈ l
      · exact h3 k hkl (hlen.symm ▸ hlt)
      · obtain rfl : k = i := (List.mem_cons.1 hk).resolve_right hkl
        rw [h2 k hkl, Team.frame_modFrame u k g hlt, hg]

end SubTeams

/-! ### A join (R52 to R54, R186) -/

section Join

variable {s0 s : State} {t : Team} {f hz : Nat}

/-- The frame of a sub-team that has joined, and the parent frame, which goes on. -/
def Frame.joinedSub (x : Frame) : Frame := { Frame.empty with callH := x.callH }
def Frame.joinedParent (hs : List Nat) (x : Frame) : Frame := { x with status := .running, resume := 0, rmask := 0, cmdH := maxOf x.cmdH hs }

/-- The ended threads of the sub-teams of a call, counted in the parent frame again. -/
def Team.endedBack (t : Team) (f : Nat) (u : Team) : Team :=
  { u with threads := mapIf (fun h => h.exited && (t.subs f).contains h.frame) (fun h => { h with frame := f, rank := t.rankIn f h }) u.threads }

/-- What becomes of the team once its threads have come back. -/
def Team.joined (t : Team) (f : Nat) (u : Team) : Team :=
  (((t.subs f).foldl (fun u i => u.modFrame i Frame.joinedSub) ((t.endedBack f u).mergeResults f (t.subs f)))).modFrame f
    (Frame.joinedParent ((t.subs f).map fun i => (t.frame i).cmdH))

theorem Team.foldl_modFrame_rest (g : Frame → Frame) (l : List Nat) (u : Team) :
    { l.foldl (fun u i => u.modFrame i g) u with frames := u.frames } = u :=
  List.foldlRecOn (motive := fun v : Team => { v with frames := u.frames } = u) l _ rfl fun v hv _ _ => by
    rw [← hv]
    rfl

/-- The frames of the team. -/
structure Team.JoinsFrames (t : Team) (f : Nat) (v : Team) : Prop where
  parent : (v.frame f).status = .running
  subs : ∀ i, t.Sub f i → (v.frame i).status = .gone
  results : ∀ j, j < 32 → v.uget f j = (t.taken f (t.subs f) j).getD (t.uget f j)

theorem Team.joined_frames {u : Team} (hf : f < t.frames.length) (hout : ∀ i, t.Sub f i → i ∉ t.ancestors 8 f) (hrest : { u with threads := t.threads } = t) :
    t.JoinsFrames f (t.joined f u) := by
  have hframes : (t.endedBack f u).frames = t.frames := by
    have := congrArg Team.frames hrest
    exact this
  have hframe : ∀ i, (t.endedBack f u).frame i = t.frame i := fun i => by rw [Team.frame, hframes, Team.frame]
  have huget : ∀ i j, (t.endedBack f u).uget i j = t.uget i j := fun i j => Team.uget_congr i j fun k _ => by rw [hframe k]; exact ⟨rfl, rfl, rfl⟩
  have htaken : ∀ j, (t.endedBack f u).taken f (t.subs f) j = t.taken f (t.subs f) j := fun j => by simp only [Team.taken, hframe, huget]
  have hmerge := Team.mergeResults_merging (t := t.endedBack f u) (f := f) (subs := t.subs f) (by rw [hframes]; exact hf)
  generalize hm : (t.endedBack f u).mergeResults f (t.subs f) = m at hmerge
  obtain ⟨-, ⟨hlen, hsame⟩, -, hreads⟩ := hmerge
  rw [hframes] at hlen
  have hnot : f ∉ t.subs f := fun h => hout f (Team.mem_subs.1 h) (t.mem_ancestors_self 8 f)
  obtain ⟨hlen', hkept, hgone⟩ := Team.foldl_modFrame (g := Frame.joinedSub) (fun _ => rfl) (t.subs f) m
  have hjoined : t.joined f u = ((t.subs f).foldl (fun u i => u.modFrame i Frame.joinedSub) m).modFrame f
      (Frame.joinedParent ((t.subs f).map fun i => (t.frame i).cmdH)) := by rw [Team.joined, hm]
  generalize (t.subs f).foldl (fun u i => u.modFrame i Frame.joinedSub) m = v at hlen' hkept hgone hjoined
  have hvf : f < v.frames.length := by omega
  rw [hjoined]
  refine ⟨by rw [Team.frame_modFrame v f _ hvf]; rfl, fun i hi => ?_, fun j hj => ?_⟩
  · have hne : i ≠ f := by
      rintro rfl
      exact hnot (Team.mem_subs.2 hi)
    rw [Team.frame_modFrame_ne v f i _ hne]
    exact hgone i (Team.mem_subs.2 hi) (by rw [hlen]; exact hi.1)
  · have hancestors : m.ancestors 8 f = t.ancestors 8 f :=
      Team.ancestors_congr (fun k => by rw [(hsame k).parent, hframe]) 8 f
    have hread : (v.modFrame f (Frame.joinedParent ((t.subs f).map fun i => (t.frame i).cmdH))).uget f j = m.uget f j := by
      refine Team.uget_congr f j fun k hk => ?_
      have hkept' : v.frame k = m.frame k := hkept k fun h => hout k (Team.mem_subs.1 h) (hancestors ▸ hk)
      by_cases hkf : k = f
      · subst hkf
        rw [Team.frame_modFrame v k _ hvf, hkept']
        exact ⟨rfl, rfl, rfl⟩
      · rw [Team.frame_modFrame_ne v f k _ hkf, hkept']
        exact ⟨rfl, rfl, rfl⟩
    rw [hread, hreads j (by omega), if_pos hj, htaken, huget]

theorem Team.mergeResults_keeps {P : Team → Prop} {subs : List Nat} {u : Team} (hu : P u) (hput : ∀ v j x b, P v → P { v.uput f j x with mrgc := b }) :
    P (u.mergeResults f subs) := by
  rw [Team.mergeResults_eq]
  refine List.foldlRecOn (motive := P) _ _ hu fun v hv j _ => ?_
  obtain ⟨-, h⟩ | ⟨x, b, -, h⟩ := u.takeResult_cases f subs v j
  · rw [h]
    exact hv
  · rw [h]
    exact hput v j x b hv

theorem Team.mergeResults_id (u : Team) (f : Nat) (subs : List Nat) : (u.mergeResults f subs).id = u.id :=
  Team.mergeResults_keeps (P := fun v => v.id = u.id) rfl fun _ _ _ _ h => h

theorem Team.mergeResults_threads (u : Team) (f : Nat) (subs : List Nat) : (u.mergeResults f subs).threads = u.threads :=
  Team.mergeResults_keeps (P := fun v => v.threads = u.threads) rfl fun _ _ _ _ h => h

/-- Its threads: the living ones are as they came back. -/
theorem Team.joined_threads (t : Team) (f : Nat) (u : Team) : (t.joined f u).threads = (t.endedBack f u).threads := by
  have h1 := congrArg Team.threads (Team.foldl_modFrame_rest Frame.joinedSub (t.subs f) ((t.endedBack f u).mergeResults f (t.subs f)))
  exact h1.trans (Team.mergeResults_threads _ _ _)

theorem Team.thread?_joined {u : Team} {r : Nat} {h : Thread} (hh : u.thread? r = some h) (hno : h.exited = false ∨ ¬ t.Sub f h.frame) :
    (t.joined f u).thread? r = some h := by
  rw [Team.thread?_congr (t.joined_threads f u), Team.endedBack, Team.thread?_mapIf u _ (fun h => { h with frame := f, rank := t.rankIn f h }) (fun _ => rfl), hh,
    Option.map_some, if_neg]
  rw [Bool.and_eq_true, Team.contains_subs]
  rintro ⟨hex, hsub⟩
  rcases hno with h | h
  · rw [h] at hex
    cases hex
  · exact h hsub

/-- A thread that comes back to frame `f` at `pc`, with the entries `st`. -/
def Thread.cameBack (f rank hz clock time : Nat) (pc : BitVec 56) (st : List Dword) (h : Thread) : Thread :=
  { h.releasedAt clock time hz with
      frame := f, rank := rank, cont := false, pc := pc, rstack := st,
      trap := (h.releasedAt clock time hz).trap.map fun i => { i with resume := pc } }

theorem Thread.cameBack_lrank (h : Thread) (f rank hz clock time : Nat) (pc : BitVec 56) (st : List Dword) :
    (h.cameBack f rank hz clock time pc st).lrank = h.lrank := h.releasedAt_lrank clock time hz

/-- A running thread comes back with the acquired time, and a trap of it that waits will resume where it stands. -/
theorem Thread.cameBack_of_running {h : Thread} (hs : h.stopped = false) (f rank hz clock time : Nat) (pc : BitVec 56) (st : List Dword) :
    let h' := h.cameBack f rank hz clock time pc st
    h'.frame = f ∧ h'.rank = rank ∧ h'.pc = pc ∧ h'.trap = h.trap.map (fun x => { x with resume := pc }) ∧ h'.rstack = st ∧ h'.park = .none ∧
      h'.fh = max h.fh hz ∧ h'.rh = max h.rh hz ∧ h'.v = h.v ∧ h'.preds = h.preds := by
  simp only [Thread.cameBack, Thread.releasedAt_of_running hs, and_self]

theorem Thread.cameBack_exited (h : Thread) (f rank hz clock time : Nat) (pc : BitVec 56) (st : List Dword) :
    (h.cameBack f rank hz clock time pc st).exited = h.exited := by
  simp only [Thread.cameBack, Thread.releasedAt]
  split <;> rfl

/-- A thread whose newest entry is its join marker, with no entry to be filled in below. -/
def Thread.AtMarker (h : Thread) (e : Dword) : Prop := h.rstack.getLast? = some e ∧ entryM e = true ∧ (h.rstack.length = 1 → entryD e ≤ 1)

/-- A stack whose newest entry is the marker is unwound at once. -/
theorem State.unwind_of_marker {h : Thread} {e : Dword} (he : h.AtMarker e) (n : Nat) :
    s.unwind t h (n + 1) h.rstack = (s, some (.inl (entryAddr e, h.rstack.dropLast))) := by
  obtain ⟨hlast, hmark, hdepth⟩ := he
  have hfill : (h.rstack.dropLast.isEmpty && decide (1 < entryD e)) = false := by
    rw [Bool.and_eq_false_iff]
    by_cases hlen : h.rstack.length = 1
    · exact .inr (decide_eq_false (by have := hdepth hlen; omega))
    · left
      have hpos : h.rstack ≠ [] := fun h0 => by rw [h0] at hlast; cases hlast
      have := List.length_pos_of_ne_nil hpos
      rw [List.isEmpty_eq_false_iff_exists_mem]
      obtain ⟨x, hx⟩ := List.exists_mem_of_length_pos (l := h.rstack.dropLast) (by rw [List.length_dropLast]; omega)
      exact ⟨x, hx⟩
  simp only [State.unwind, hlast, hfill, hmark, Bool.false_eq_true, if_false, if_true]

theorem JoinSoFar.thread_of_marker {r : JoinSoFar} {h : Thread} {e : Dword} (he : h.AtMarker e) :
    r.thread t f hz h =
      { r with
        s := r.s.modThread t.id h.lrank
          (Thread.cameBack f (t.rankIn f h) hz (r.s.clock t.die t.core) (r.s.gtime t.die) (entryAddr e) h.rstack.dropLast) } := by
  simp only [JoinSoFar.thread, State.unwind_of_marker he, Thread.release_nil]
  rfl

/-- The threads that a join brings back. -/
def Team.comers (t : Team) (f : Nat) : List Thread := (t.threads.filter fun h => (t.subs f).contains h.frame).filter fun h => !h.exited

theorem Team.mem_comers {h : Thread} : h ∈ t.comers f ↔ h ∈ t.threads ∧ t.Sub f h.frame ∧ h.exited = false := by
  simp only [Team.comers, List.mem_filter, Team.contains_subs, Bool.not_eq_true', and_assoc]

/-- Each of them stands in the parent frame after its marker, and no other thread differs. -/
theorem State.joinThreads_turns (ht : s.team? t.id = some t) (hnd : (t.threads.map (·.lrank)).Nodup)
    (hmark : ∀ h ∈ t.comers f, ∃ e, h.AtMarker e) :
    ((t.comers f).foldl (fun (r : JoinSoFar) h => r.thread t f hz h) { s := s, lost := [] }).lost = [] ∧
      ∃ u, s.TurnsEach ((t.comers f).foldl (fun (r : JoinSoFar) h => r.thread t f hz h) { s := s, lost := [] }).s t u (t.comers f) (·.lrank)
        fun _ h h' => ∃ e, h.AtMarker e ∧ h' = h.cameBack f (t.rankIn f h) hz (s.clock t.die t.core) (s.gtime t.die) (entryAddr e) h.rstack.dropLast := by
  have hfind : ∀ h ∈ t.comers f, t.thread? h.lrank = some h := fun h hh => Team.thread?_of_mem hnd (Team.mem_comers.1 hh).1
  have hnd' : ((t.comers f).map (·.lrank)).Nodup := hnd.sublist ((List.filter_sublist.trans List.filter_sublist).map _)
  refine State.turnsEach_of_steps (st := JoinSoFar.s) (I := fun r => r.lost = []) (g := fun r h => r.thread t f hz h) _ hnd'
    (fun h hh => ⟨h, hfind h hh⟩) (fun g hg r u h hI hm hu hrest huh hth => ?_) { s := s, lost := [] } rfl rfl ht
  obtain rfl : g = h := Option.some.inj ((hfind g hg).symm.trans hth)
  obtain ⟨e, he⟩ := hmark g hg
  rw [JoinSoFar.thread_of_marker he]
  refine ⟨hI, ?_⟩
  have hid : u.id = t.id := by rw [← hrest]
  rw [State.clock_of_only hm.1, State.gtime_of_only hm.1, ← hid]
  exact (State.turns_modThread r.s u g (Thread.cameBack _ _ _ _ _ _ _) hu huh fun x => x.cameBack_lrank _ _ _ _ _ _ _).imp fun x hx => ⟨e, he, hx⟩

theorem State.takeFailures_nil (s : State) (id : Nat) : s.takeFailures id [] = s := rfl

/-- Whether a join has nothing more to wait for. -/
def State.JoinDue (s : State) (t : Team) (f hz : Nat) : Prop :=
  (t.frame f).status = .waitingJoin ∧ (∀ i, t.Sub f i → s.subDone t i = true) ∧ t.standing = .resident ∧
    maxOf (t.frame f).callH ((t.threads.filter fun h => (t.subs f).contains h.frame).map (·.fh) ++ (t.subs f).map fun i => (t.frame i).cmdH) = hz ∧
    hz + 2 ≤ s.gtime t.die ∧ ∀ h ∈ t.comers f, ∃ e, h.AtMarker e

theorem State.joinLacks_of_markers (hmark : ∀ h ∈ t.comers f, ∃ e, h.AtMarker e) :
    s.joinLacks t (t.threads.filter fun h => (t.subs f).contains h.frame) = false := by
  rw [State.joinLacks, Bool.and_eq_false_iff]
  refine .inl (List.any_eq_false.2 fun h hh hb => ?_)
  simp only [Bool.and_eq_true, Bool.not_eq_true'] at hb
  obtain ⟨⟨hlive, hnone⟩, -⟩ := hb
  obtain ⟨e, hlast, hentry, -⟩ := hmark h (List.mem_filter.2 ⟨hh, by rw [hlive]; rfl⟩)
  exact absurd (List.any_eq_true.2 ⟨e, List.mem_of_getLast? hlast, hentry⟩) (by rw [hnone]; decide)

theorem State.join_of_due (hs : s = s0.publishAll t.id) (ht : s.team? t.id = some t) (hdue : s.JoinDue t f hz)
    (hlost : ((t.comers f).foldl (fun (r : JoinSoFar) h => r.thread t f hz h) { s := s, lost := [] }).lost = []) :
    s0.join t.id f = (((t.comers f).foldl (fun (r : JoinSoFar) h => r.thread t f hz h) { s := s, lost := [] }).s.modTeam t.id (t.joined f)).settle t.id := by
  obtain ⟨hstatus, hdone, hst, hz', htime, hmark⟩ := hdue
  have hall : (t.subs f).all (s.subDone t) = true := List.all_eq_true.2 fun i hi => hdone i (Team.mem_subs.1 hi)
  simp only [State.join, ← hs, ht, hz', hall, hst, hstatus, State.joinLacks_of_markers hmark, decide_eq_false (Nat.not_lt.2 htime)]
  rw [← Team.comers]
  generalize (t.comers f).foldl (fun (r : JoinSoFar) h => r.thread t f hz h) { s := s, lost := [] } = r at hlost ⊢
  rw [hlost]
  rfl

theorem Team.sub_frame_of_comer {h : Thread} (hh : h ∈ t.comers f) : t.Sub f h.frame := (Team.mem_comers.1 hh).2.1

/-- The sub-teams of a call are complete: the threads come back, and the parent takes the result registers. -/
theorem State.join_spec (hs : s = s0.publishAll t.id) (ht : s.team? t.id = some t) (hst : t.standing = .resident) (hf : f < t.frames.length)
    (hstatus : (t.frame f).status = .waitingJoin) (hnd : (t.threads.map (·.lrank)).Nodup)
    (hsub : ∀ i, t.Sub f i → i ∉ t.ancestors 8 f ∧ s.subDone t i = true)
    (hinj : ∀ i j, t.Sub f i → t.Sub f j → (t.frame i).callee = (t.frame j).callee → i = j)
    (hcall : (t.frame f).callH ≤ hz) (hcmd : ∀ i, t.Sub f i → (t.frame i).cmdH ≤ hz) (hfh : ∀ h ∈ t.threads, t.Sub f h.frame → h.fh ≤ hz)
    (hmax : hz = (t.frame f).callH ∨ (∃ i, t.Sub f i ∧ (t.frame i).cmdH = hz) ∨ ∃ h ∈ t.threads, t.Sub f h.frame ∧ h.fh = hz)
    (htime : hz + 2 ≤ s.gtime t.die)
    (hmark : ∀ h ∈ t.threads, t.Sub f h.frame → h.exited = false →
      h.stopped = false ∧ ∃ e, h.rstack.getLast? = some e ∧ entryM e = true ∧ (h.rstack.length = 1 → entryD e ≤ 1)) :
    ∃ (m : State) (t' : Team), exec (.join t.id f) s0 = .next (m.settle t.id) ∧ m.mem = s.mem ∧ m.team? t.id = some t' ∧ (t'.frame f).status = .running ∧
      (∀ i, t.Sub f i → (t'.frame i).status = .gone) ∧
      (∀ h ∈ t.threads, t.Sub f h.frame → h.exited = false → ∃ e h', h.rstack.getLast? = some e ∧ t'.thread? h.lrank = some h' ∧ h'.frame = f ∧
        h'.rank = t.rankIn f h ∧ h'.pc = entryAddr e ∧ h'.trap = h.trap.map (fun x => { x with resume := entryAddr e }) ∧
        h'.rstack = h.rstack.dropLast ∧ h'.park = .none ∧ h'.fh = max h.fh hz ∧ h'.rh = max h.rh hz ∧ h'.v = h.v ∧ h'.preds = h.preds) ∧
      (∀ h ∈ t.threads, ¬ t.Sub f h.frame → t'.thread? h.lrank = some h) ∧
      ∀ j, j < 32 →
        (∀ i, (t.frame f).rmask.getLsbD j = true → t.Sub f i → (t.frame i).wrote.getLsbD j = true →
          (∀ k, t.Sub f k → (t.frame k).callee < (t.frame i).callee → (t.frame k).wrote.getLsbD j = false) → t'.uget f j = t.uget i j) ∧
        ((t.frame f).rmask.getLsbD j = false ∨ (∀ i, t.Sub f i → (t.frame i).wrote.getLsbD j = false) → t'.uget f j = t.uget f j) := by
  have hmark' : ∀ h ∈ t.comers f, ∃ e, h.AtMarker e := fun h hh => by
    obtain ⟨hmem, hin, hlive⟩ := Team.mem_comers.1 hh
    exact (hmark h hmem hin hlive).2
  have hz' : maxOf (t.frame f).callH ((t.threads.filter fun h => (t.subs f).contains h.frame).map (·.fh) ++ (t.subs f).map fun i => (t.frame i).cmdH) =
      hz := by
    refine maxOf_eq hcall (fun x hx => ?_) ?_
    · rcases List.mem_append.1 hx with hx | hx
      · obtain ⟨h, hh, rfl⟩ := List.mem_map.1 hx
        exact hfh h (List.mem_filter.1 hh).1 (Team.contains_subs.1 (List.mem_filter.1 hh).2)
      · obtain ⟨i, hi, rfl⟩ := List.mem_map.1 hx
        exact hcmd i (Team.mem_subs.1 hi)
    · rcases hmax with h | ⟨i, hi, h⟩ | ⟨g, hg, hin, h⟩
      · exact .inl h.symm
      · exact .inr (List.mem_append_right _ (List.mem_map.2 ⟨i, Team.mem_subs.2 hi, h⟩))
      · exact .inr (List.mem_append_left _ (List.mem_map.2 ⟨g, List.mem_filter.2 ⟨hg, Team.contains_subs.2 hin⟩, h⟩))
  obtain ⟨hlost, u, honly, hu, hrest, hback, hkept⟩ := State.joinThreads_turns (f := f) (hz := hz) ht hnd hmark'
  have hexec := State.join_of_due hs ht ⟨hstatus, fun i hi => (hsub i hi).2, hst, hz', htime, hmark'⟩ hlost
  generalize (t.comers f).foldl (fun (r : JoinSoFar) h => r.thread t f hz h) { s := s, lost := [] } = r at honly hu hexec
  obtain ⟨hparent, hgone, hresults⟩ := Team.joined_frames hf (fun i hi => (hsub i hi).1) hrest
  have hid : ∀ v : Team, (t.joined f v).id = v.id := fun v => by
    have h1 := congrArg Team.id (Team.foldl_modFrame_rest Frame.joinedSub (t.subs f) ((t.endedBack f v).mergeResults f (t.subs f)))
    exact h1.trans (Team.mergeResults_id _ _ _)
  have hmem : r.s.mem = s.mem := by
    have := congrArg State.mem honly.1
    exact this
  refine ⟨_, t.joined f u, congrArg Host.Outcome.next hexec, hmem, State.team?_modTeam_some hu hid, hparent, hgone, fun h hh hin hlive => ?_,
    fun h hh hno => ?_, fun j hj => ⟨fun i hb hi hw hlow => ?_, fun hno => ?_⟩⟩
  · obtain ⟨h', hh', e, ⟨hlast, -⟩, rfl⟩ := hback h (Team.mem_comers.2 ⟨hh, hin, hlive⟩) h (Team.thread?_of_mem hnd hh)
    exact ⟨e, _, hlast, Team.thread?_joined hh' (.inl ((h.cameBack_exited _ _ _ _ _ _ _).trans hlive)),
      Thread.cameBack_of_running (hmark h hh hin hlive).1 _ _ _ _ _ _ _⟩
  · refine Team.thread?_joined ((hkept h.lrank fun hin => ?_).trans (Team.thread?_of_mem hnd hh)) (.inr hno)
    obtain ⟨g, hg, hgh⟩ := List.mem_map.1 hin
    obtain rfl := List.inj_on_of_nodup_map hnd (Team.mem_comers.1 hg).1 hh hgh
    exact hno (Team.sub_frame_of_comer hg)
  · rw [hresults j hj, Team.taken_of_lowest hinj hb hi hw hlow, Option.getD_some]
  · rw [hresults j hj, Team.taken_of_unwritten hno, Option.getD_none]

end Join

/-! ### A call that begins (R41, R44, R46, R49, R186) -/

section NewFrames

variable {u : Team}

theorem Team.frame_of_length_le {i : Nat} (h : u.frames.length ≤ i) : u.frame i = Frame.empty := List.getD_eq_default _ _ h

/-- The entry of the frame table that a new sub-team takes is not frame 0, and nothing stands in it. -/
theorem Team.freeFrame_spec (hne : 0 < u.frames.length) : u.freeFrame ≠ 0 ∧ u.freeFrame ≤ u.frames.length ∧ (u.frame u.freeFrame).status = .gone := by
  unfold Team.freeFrame
  cases hfind : (List.range u.frames.length).find? fun i => 0 < i && (u.frame i).status == .gone && !u.threads.any (·.frame == i) with
  | none =>
    rw [Option.getD_none]
    exact ⟨by omega, Nat.le_refl _, by rw [Team.frame_of_length_le (Nat.le_refl _)]; rfl⟩
  | some i =>
    have hlt := List.mem_range.1 (List.mem_of_find?_eq_some hfind)
    have hi := List.find?_some hfind
    simp only [Bool.and_eq_true, decide_eq_true_eq, beq_iff_eq] at hi
    rw [Option.getD_some]
    exact ⟨by omega, by omega, hi.1.2⟩

theorem Team.frame_putFrame {i : Nat} (hi : i ≤ u.frames.length) (x : Frame) (k : Nat) : (u.putFrame i x).frame k = if k = i then x else u.frame k := by
  unfold Team.putFrame
  split
  · next hlt =>
    by_cases hk : k = i
    · rw [if_pos hk, hk]
      exact getD_setAt_self _ _ _ _ hlt
    · rw [if_neg hk]
      exact getD_setAt_ne _ _ _ _ _ hk
  · next hge =>
    obtain rfl : i = u.frames.length := by omega
    rcases Nat.lt_trichotomy k u.frames.length with hlt | rfl | hlt
    · rw [if_neg (by omega)]
      exact List.getD_append _ _ _ _ hlt
    · rw [if_pos rfl, Team.frame, List.getD_append_right _ _ _ _ (Nat.le_refl _), Nat.sub_self]
      rfl
    · rw [if_neg (by omega), Team.frame_of_length_le (u := u) (by omega)]
      refine Team.frame_of_length_le ?_
      rw [List.length_append, List.length_singleton]
      omega

theorem Team.length_putFrame (i : Nat) (x : Frame) : u.frames.length ≤ (u.putFrame i x).frames.length := by
  unfold Team.putFrame
  split
  · exact (length_setAt _ _ _).ge
  · rw [List.length_append]
    omega

theorem Team.putFrame_rest (i : Nat) (x : Frame) : { u.putFrame i x with frames := u.frames } = u := by
  unfold Team.putFrame
  split <;> rfl

theorem Team.putFrame_threads (i : Nat) (x : Frame) : (u.putFrame i x).threads = u.threads := by
  have := congrArg Team.threads (Team.putFrame_rest (u := u) i x)
  exact this

theorem Team.putFrame_id (i : Nat) (x : Frame) : (u.putFrame i x).id = u.id := by
  have := congrArg Team.id (Team.putFrame_rest (u := u) i x)
  exact this

end NewFrames

/-- A living thread as its callee begins, in frame `i` with a rank there; its join marker is still to be pushed. -/
def Thread.begun (i rank : Nat) (entry : BitVec 56) (z clock time : Nat) (h : Thread) : Thread :=
  if h.exited then h else
  { h.releasedAt clock time z with
      frame := i, rank := rank, pc := entry, cont := false, snap := none, pmk := true, trap := h.trap.map fun i => { i with resume := entry } }

theorem Thread.begun_lrank (h : Thread) (i rank : Nat) (entry : BitVec 56) (z clock time : Nat) : (h.begun i rank entry z clock time).lrank = h.lrank := by
  unfold Thread.begun
  split
  · rfl
  · exact h.releasedAt_lrank clock time z

theorem Thread.begun_of_exited {h : Thread} (hx : h.exited = true) (i rank : Nat) (entry : BitVec 56) (z clock time : Nat) :
    h.begun i rank entry z clock time = h := if_pos hx

/-- The launch ranks of a callee's threads. -/
def Call.ranksOf (call : Call) (c : Callee) : List Nat := (call.ranks.drop c.start).take c.size

theorem Call.getElem?_ranksOf {call : Call} {c : Callee} {p : Nat} (hp : p < c.size) : (call.ranksOf c)[p]? = call.ranks[c.start + p]? := by
  rw [Call.ranksOf, List.getElem?_take, if_pos hp, List.getElem?_drop]

theorem Call.mem_ranksOf {call : Call} {c : Callee} {r : Nat} : r ∈ call.ranksOf c ↔ ∃ p, p < c.size ∧ call.ranks[c.start + p]? = some r := by
  rw [List.mem_iff_getElem?]
  refine exists_congr fun p => ?_
  rw [Call.ranksOf, List.getElem?_take]
  split
  · next hp => simp [hp, List.getElem?_drop]
  · next hp => simp [hp]

theorem Call.ranksOf_subset {call : Call} {c : Callee} {r : Nat} (h : r ∈ call.ranksOf c) : r ∈ call.ranks :=
  List.mem_of_mem_drop (List.mem_of_mem_take h)

/-- Callees whose positions follow one another have different threads. -/
theorem Call.ranksOf_disjoint {call : Call} {c d : Callee} {r : Nat} (hnd : call.ranks.Nodup) (hcd : c.start + c.size ≤ d.start) (hc : r ∈ call.ranksOf c) :
    r ∉ call.ranksOf d := by
  intro hd
  obtain ⟨p, hp, hpr⟩ := Call.mem_ranksOf.1 hc
  obtain ⟨q, -, hqr⟩ := Call.mem_ranksOf.1 hd
  obtain ⟨hplt, hpe⟩ := List.getElem?_eq_some_iff.1 hpr
  obtain ⟨hqlt, hqe⟩ := List.getElem?_eq_some_iff.1 hqr
  have := (List.Nodup.getElem_inj_iff hnd).1 (hpe.trans hqe.symm)
  omega

section Begin

variable {s : State} {t u : Team} {f : Nat} {call : Call}

/-- A team whose callees have begun: `m` differs from `s` in it alone. Of its frames, those in which something stood are as they were. -/
structure State.Begins (s m : State) (id f : Nat) (call : Call) (l : List Callee) (u v : Team) : Prop where
  only : s.OnlyTeam m id
  found : m.team? id = some v
  rest : { v with threads := u.threads, frames := u.frames } = u
  length : u.frames.length ≤ v.frames.length
  frames : ∀ k, (u.frame k).status ≠ .gone → v.frame k = u.frame k
  callees : ∀ c ∈ l, ∃ i, i ≠ 0 ∧ v.frame i = subFrame f (u.frame f).depth c ∧ ∀ p r h, p < c.size → call.ranks[c.start + p]? = some r →
    u.thread? r = some h → v.thread? r = some (h.begun i p c.entry call.h (s.clock u.die u.core) (s.gtime u.die))
  others : ∀ r, (∀ c ∈ l, r ∉ call.ranksOf c) → v.thread? r = u.thread? r

/-- A team with a new frame for a callee of its frame `f`. -/
def Team.withCallee (u : Team) (f : Nat) (c : Callee) : Team := u.putFrame u.freeFrame (subFrame f (u.frame f).depth c)

/-- A callee's threads begin in its frame, one after another. -/
theorem State.beginCallee_turns (hu : s.team? u.id = some u) (c : Callee) (hnd : call.ranks.Nodup)
    (hhas : ∀ r ∈ call.ranks, ∃ h, u.thread? r = some h) :
    ∃ m v, s.OnlyTeam m u.id ∧ m.TurnsEach (s.beginCallee u.id f call c) (u.withCallee f c) v (call.ranksOf c).zipIdx Prod.fst fun e h h' =>
      h' = h.begun u.freeFrame e.2 c.entry call.h (s.clock u.die u.core) (s.gtime u.die) := by
  let put := fun t : Team => t.putFrame u.freeFrame (subFrame f (t.frame f).depth c)
  have hid : (u.withCallee f c).id = u.id := Team.putFrame_id _ _
  have hput : (s.modTeam u.id put).team? u.id = some (u.withCallee f c) := State.team?_modTeam_some hu fun t => Team.putFrame_id _ _
  have hthread : ∀ r, (u.withCallee f c).thread? r = u.thread? r := fun r => Team.thread?_congr (Team.putFrame_threads _ _) r
  have hkeys := List.zipIdx_map_fst 0 (call.ranksOf c)
  have hnd' : (call.ranksOf c).Nodup := hnd.sublist ((List.take_sublist _ _).trans (List.drop_sublist _ _))
  have hexec : s.beginCallee u.id f call c = (call.ranksOf c).zipIdx.foldl (fun m e => m.modThread u.id e.1 fun h =>
      h.begun u.freeFrame e.2 c.entry call.h (m.clock u.die u.core) (m.gtime u.die)) (s.modTeam u.id put) := by
    simp only [State.beginCallee, hu, Thread.release_nil]
    rfl
  refine ⟨s.modTeam u.id put, ?_⟩
  rw [hexec]
  refine (State.turnsEach_of_steps (st := id) (I := fun _ => True) (call.ranksOf c).zipIdx (by rwa [hkeys]) (fun e he => ?_)
    (fun e he m w h _ hm hw hrest hwh hth => ⟨trivial, ?_⟩) (s.modTeam u.id put) trivial rfl (hid ▸ hput)).2.imp
    fun v hv => ⟨State.onlyTeam_modTeam s u.id put fun t => Team.putFrame_id _ _, hv⟩
  · have hmem : e.1 ∈ (call.ranksOf c).zipIdx.map Prod.fst := List.mem_map_of_mem he
    rw [hkeys] at hmem
    exact (hhas e.1 (Call.ranksOf_subset hmem)).imp fun h hh => (hthread _).trans hh
  · have hwid : w.id = u.id := by
      have := congrArg Team.id hrest
      exact this.trans hid
    have hlr : h.lrank = e.1 := Team.lrank_of_thread? hth
    have hclock : m.clock u.die u.core = s.clock u.die u.core := State.clock_of_only (s := s.modTeam u.id put) hm.1
    have hgtime : m.gtime u.die = s.gtime u.die := State.gtime_of_only (s := s.modTeam u.id put) hm.1
    have hturn := State.turns_modThread m w h (Thread.begun u.freeFrame e.2 c.entry call.h (s.clock u.die u.core) (s.gtime u.die)) hw hwh
      fun _ => Thread.begun_lrank _ _ _ _ _ _ _
    rw [hwid, hlr] at hturn
    simp only [id_eq, hclock, hgtime]
    exact hturn

/-- One callee begins. -/
theorem State.beginCallee_begins (hu : s.team? u.id = some u) (hf : f < u.frames.length) (c : Callee) (hnd : call.ranks.Nodup)
    (hhas : ∀ r ∈ call.ranks, ∃ h, u.thread? r = some h) : ∃ v, s.Begins (s.beginCallee u.id f call c) u.id f call [c] u v := by
  obtain ⟨hi0, hilen, higone⟩ := Team.freeFrame_spec (u := u) (by omega)
  obtain ⟨m, v, hopen, honly, hv, hrest, hin, hout⟩ := State.beginCallee_turns (f := f) hu c hnd hhas
  have hid : (u.withCallee f c).id = u.id := Team.putFrame_id _ _
  have hthread : ∀ r, (u.withCallee f c).thread? r = u.thread? r := fun r => Team.thread?_congr (Team.putFrame_threads _ _) r
  have hframes : v.frames = (u.withCallee f c).frames := by
    have := congrArg Team.frames hrest
    exact this
  have hframe : ∀ k, v.frame k = if k = u.freeFrame then subFrame f (u.frame f).depth c else u.frame k := fun k => by
    rw [Team.frame, hframes, ← Team.frame, Team.withCallee, Team.frame_putFrame hilen]
  rw [hid] at honly hv
  refine ⟨v, hopen.trans honly, hv, ?_, hframes ▸ Team.length_putFrame _ _, fun k hk => ?_, fun d hd => ?_, fun r hr => ?_⟩
  · have h1 := congrArg (fun w : Team => { w with threads := u.threads, frames := u.frames }) hrest
    have h2 := congrArg (fun w : Team => { w with threads := u.threads }) (Team.putFrame_rest (u := u) u.freeFrame (subFrame f (u.frame f).depth c))
    exact h1.trans h2
  · rw [hframe, if_neg]
    rintro rfl
    exact hk higone
  · obtain rfl := List.mem_singleton.1 hd
    refine ⟨u.freeFrame, hi0, by rw [hframe, if_pos rfl], fun p r h hp hpr hh => ?_⟩
    have hmem : (r, p) ∈ (call.ranksOf d).zipIdx := List.mem_zipIdx_iff_getElem?.2 ((Call.getElem?_ranksOf hp).trans hpr)
    obtain ⟨h', hh', rfl⟩ := hin (r, p) hmem h ((hthread r).trans hh)
    exact hh'
  · rw [hout r (by rw [List.zipIdx_map_fst]; exact hr c (List.mem_singleton_self c)), hthread]

end Begin

section BeginAll

variable {s m n : State} {t u v w : Team} {f id : Nat} {call : Call} {c : Callee} {l : List Callee}

theorem State.Begins.id_eq (h : s.Begins m id f call l u v) : v.id = u.id := by
  have := congrArg Team.id h.rest
  exact this

theorem State.Begins.die_eq (h : s.Begins m id f call l u v) : v.die = u.die := by
  have := congrArg Team.die h.rest
  exact this

theorem State.Begins.core_eq (h : s.Begins m id f call l u v) : v.core = u.core := by
  have := congrArg Team.core h.rest
  exact this

/-- A callee's threads are found in the team after it began. -/
theorem State.Begins.has_thread (h : s.Begins m id f call [c] u w) {r : Nat} (hr : ∃ x, u.thread? r = some x) : ∃ x, w.thread? r = some x := by
  obtain ⟨x, hx⟩ := hr
  by_cases hin : r ∈ call.ranksOf c
  · obtain ⟨p, hp, hpr⟩ := Call.mem_ranksOf.1 hin
    obtain ⟨i, -, -, hi⟩ := h.callees c (List.mem_singleton_self c)
    exact ⟨_, hi p r x hp hpr hx⟩
  · exact ⟨x, (h.others r fun d hd => List.mem_singleton.1 hd ▸ hin).trans hx⟩

/-- One callee, and then others of different threads. -/
theorem State.Begins.cons (h1 : s.Begins m id f call [c] u w) (h2 : m.Begins n id f call l w v) (hf : (u.frame f).status ≠ .gone)
    (hdisj : ∀ d ∈ l, ∀ r ∈ call.ranksOf c, r ∉ call.ranksOf d) : s.Begins n id f call (c :: l) u v := by
  have hwf : w.frame f = u.frame f := h1.frames f hf
  have hclock : m.clock w.die w.core = s.clock u.die u.core := by rw [State.clock_of_only h1.only.1, h1.die_eq, h1.core_eq]
  have hgtime : m.gtime w.die = s.gtime u.die := by rw [State.gtime_of_only h1.only.1, h1.die_eq]
  refine ⟨h1.only.trans h2.only, h2.found, ?_, h1.length.trans h2.length, fun k hk => ?_, fun d hd => ?_, fun r hr => ?_⟩
  · exact (congrArg (fun x : Team => { x with threads := u.threads, frames := u.frames }) h2.rest).trans h1.rest
  · exact (h2.frames k (by rwa [h1.frames k hk])).trans (h1.frames k hk)
  · rcases List.mem_cons.1 hd with rfl | hd
    · obtain ⟨i, hi, hframe, hthreads⟩ := h1.callees d (List.mem_singleton_self d)
      have hstands : (w.frame i).status ≠ .gone := by
        rw [hframe]
        exact fun h => nomatch h
      refine ⟨i, hi, (h2.frames i hstands).trans hframe, fun p r h hp hpr hh => ?_⟩
      have hin : r ∈ call.ranksOf d := Call.mem_ranksOf.2 ⟨p, hp, hpr⟩
      exact (h2.others r fun e he => hdisj e he r hin).trans (hthreads p r h hp hpr hh)
    · obtain ⟨i, hi, hframe, hthreads⟩ := h2.callees d hd
      rw [hwf] at hframe
      rw [hclock, hgtime] at hthreads
      refine ⟨i, hi, hframe, fun p r h hp hpr hh => hthreads p r h hp hpr ?_⟩
      have hin : r ∈ call.ranksOf d := Call.mem_ranksOf.2 ⟨p, hp, hpr⟩
      exact (h1.others r fun e he hc => hdisj d hd r (List.mem_singleton.1 he ▸ hc) hin).trans hh
  · obtain ⟨hc, hl⟩ := List.forall_mem_cons.1 hr
    exact (h2.others r hl).trans (h1.others r fun e he => List.mem_singleton.1 he ▸ hc)

/-- The callees of a call begin one after another. -/
theorem State.beginCallees_begins (l : List Callee) (hpair : l.Pairwise fun x y => x.start + x.size ≤ y.start) (hnd : call.ranks.Nodup)
    {s : State} {u : Team} (hu : s.team? u.id = some u) (hf : f < u.frames.length) (hstands : (u.frame f).status ≠ .gone)
    (hhas : ∀ r ∈ call.ranks, ∃ h, u.thread? r = some h) :
    ∃ v, s.Begins (l.foldl (fun s c => s.beginCallee u.id f call c) s) u.id f call l u v := by
  induction l generalizing s u with
  | nil => exact ⟨u, .refl s u.id, hu, rfl, Nat.le_refl _, fun _ _ => rfl, fun _ hc => absurd hc List.not_mem_nil,
      fun _ _ => rfl⟩
  | cons c l ih =>
    obtain ⟨hhead, htail⟩ := List.pairwise_cons.1 hpair
    obtain ⟨w, hw⟩ := State.beginCallee_begins hu hf c hnd hhas
    have hwid := hw.id_eq
    obtain ⟨v, hv⟩ := ih htail (u := w) (hwid ▸ hw.found) (hf.trans_le hw.length) (by rwa [hw.frames f hstands]) fun r hr => hw.has_thread (hhas r hr)
    rw [hwid] at hv
    exact ⟨v, hw.cons hv hstands fun d hd r hr => Call.ranksOf_disjoint hnd (hhead d hd) hr⟩

end BeginAll

/-! ### The markers of a call (R183, R184, R186) -/

theorem stackEntry_marker {d : Nat} (hd : d ≤ 127) (a : BitVec 56) : stackEntry true d a = BitVec.ofNat 64 (2 ^ 63 + d * 2 ^ 56 + a.toNat) := by
  have hd' : (BitVec.ofNat 7 d).toNat = d := by
    rw [BitVec.toNat_ofNat, Nat.mod_eq_of_lt (by omega)]
  have hlt : 2 ^ 63 + d * 2 ^ 56 + a.toNat < 2 ^ 64 := by
    have := a.isLt
    omega
  refine BitVec.eq_of_toNat_eq ?_
  rw [stackEntry, BitVec.toNat_append, BitVec.toNat_append, ← Nat.shiftLeft_add_eq_or_of_lt a.isLt, ← Nat.shiftLeft_add_eq_or_of_lt (BitVec.isLt _), hd',
    BitVec.toNat_ofNat, Nat.mod_eq_of_lt hlt, Nat.shiftLeft_eq, Nat.shiftLeft_eq]
  have htrue : (BitVec.ofBool true).toNat = 1 := rfl
  rw [htrue]
  omega

section Markers

variable {s : State} {t : Team} {h : Thread}

theorem pushOverflows_of_room (hlen : h.rstack.length < 16) (hdepth : h.nextDepth ≤ 127) (size : Nat) : pushOverflows h size = false := by
  rw [pushOverflows, decide_eq_false (Nat.not_lt.2 hdepth), decide_eq_false (Nat.not_le.2 hlen), Bool.false_and, Bool.or_false]

theorem State.push_of_room (hlen : h.rstack.length < 16) (hdepth : h.nextDepth ≤ 127) (addr : BitVec 56) (m : Bool) :
    s.push t h addr m = .ok (s.modThread t.id h.lrank fun x => { x with rstack := h.rstack ++ [stackEntry m h.nextDepth addr] }) := by
  unfold State.push
  extract_lets area e
  split
  · next hover =>
    rw [pushOverflows_of_room hlen hdepth] at hover
    cases hover
  · split
    · rfl
    · next hst => rw [hst, List.nil_append]

/-- A living thread's join marker is pushed. -/
theorem State.pushMarker_of_room (ht : s.team? t.id = some t) (hh : t.thread? h.lrank = some h) (hlive : h.exited = false)
    (hlen : h.rstack.length < 16) (hdepth : h.nextDepth ≤ 127) (a : BitVec 56) :
    s.pushMarker t.id h.lrank a = ((s.modThread t.id h.lrank fun x => { x with rstack := h.rstack ++ [stackEntry true h.nextDepth a] }).modThread
      t.id h.lrank (fun x => { x with pmk := false }), []) := by
  have hspill : s.spillOf t h = none := if_pos hlen
  simp only [State.pushMarker, ht, State.thread?_of ht, hh, hlive, hspill, State.push_of_room hlen hdepth]
  rfl

end Markers

section Markers

variable {s : State} {t : Team} {h : Thread}

/-- A thread whose join marker is pushed. -/
def Thread.withMarker (a : BitVec 56) (h : Thread) : Thread := { h with rstack := h.rstack ++ [stackEntry true h.nextDepth a], pmk := false }

/-- A living thread whose next entry needs no spill. -/
def Thread.HasRoom (h : Thread) : Prop := h.exited = false ∧ h.rstack.length < 16 ∧ h.nextDepth ≤ 127

/-- A living thread with room takes its marker without a failure. -/
theorem State.pushMarker_turns (ht : s.team? t.id = some t) (hh : t.thread? h.lrank = some h) (hroom : h.HasRoom) (a : BitVec 56) :
    (s.pushMarker t.id h.lrank a).2 = [] ∧ s.Turns (s.pushMarker t.id h.lrank a).1 t h fun h' => h' = h.withMarker a := by
  obtain ⟨hlive, hlen, hdepth⟩ := hroom
  rw [State.pushMarker_of_room ht hh hlive hlen hdepth a]
  exact ⟨rfl, (State.turns_modThread s t h (fun x => { x with rstack := h.rstack ++ [stackEntry true h.nextDepth a] }) ht hh
    fun _ => rfl).then_modThread rfl (fun x => { x with pmk := false }) fun _ => rfl⟩

/-- Threads with room take their join markers, none of them fails, and no other thread differs. -/
theorem State.pushMarkers_turns (ht : s.team? t.id = some t) (rs : List Nat) (hnd : rs.Nodup)
    (hroom : ∀ r ∈ rs, ∃ h, t.thread? r = some h ∧ h.HasRoom) (a : BitVec 56) :
    ∃ u, s.TurnsEach (s.pushMarkers t.id (rs.map fun r => (r, a))) t u (rs.map fun r => (r, a)) Prod.fst fun _ h h' => h' = h.withMarker a := by
  have hkeys : (rs.map fun r => (r, a)).map Prod.fst = rs := by
    rw [List.map_map]
    exact List.map_id rs
  have hroom' : ∀ e ∈ rs.map fun r => (r, a), ∃ h, t.thread? e.1 = some h ∧ h.HasRoom := by simpa using hroom
  have hall := State.turnsEach_of_steps (s := s) (st := Prod.fst) (I := fun r => r.2 = [])
    (g := fun (r : State × List (Nat × Fail)) e => let q := r.1.pushMarker t.id e.1 e.2; (q.1, r.2 ++ q.2)) (key := Prod.fst)
    (R := fun e h h' => h' = h.withMarker a) (rs.map fun r => (r, a)) (by rwa [hkeys]) (fun e he => (hroom' e he).imp fun _ h => h.1)
    (fun e he r u h hI hm hu hrest huh hth => by
      obtain ⟨h', hh', hroom⟩ := hroom' e he
      obtain rfl : h' = h := Option.some.inj (hh'.symm.trans hth)
      obtain ⟨r0, -, rfl⟩ := List.mem_map.1 he
      obtain rfl : h'.lrank = r0 := Team.lrank_of_thread? hth
      have hid : u.id = t.id := by rw [← hrest]
      obtain ⟨hnone, hturn⟩ := State.pushMarker_turns hu huh hroom a
      rw [hid] at hnone hturn
      exact ⟨List.append_eq_nil_iff.2 ⟨hI, hnone⟩, hturn⟩)
    (s, []) rfl rfl ht
  obtain ⟨hnone, u, hu⟩ := hall
  refine ⟨u, ?_⟩
  rw [State.pushMarkers, hnone, State.takeFailures_nil]
  exact hu

theorem State.pushMarkers_nil (s : State) (id : Nat) : s.pushMarkers id [] = s := rfl

/-- Teams without markers push none. -/
theorem State.foldl_pushMarkers_idle (l : List Team) (hidle : ∀ x ∈ l, x.markers = []) (s : State) :
    l.foldl (fun s t => s.pushMarkers t.id t.markers) s = s := by
  induction l with
  | nil => rfl
  | cons x l ih =>
    obtain ⟨hx, hl⟩ := List.forall_mem_cons.1 hidle
    rw [List.foldl_cons, hx, State.pushMarkers_nil]
    exact ih hl

end Markers

/-! ### The reservation of a call (R46, R49) -/

section Reservation

variable {s : State} {t u : Team} {f : Nat} {c : Core} {call : Call}

/-- A call whose forks are taken from the pool. -/
def Call.granted (call : Call) : Call := { call with reserved := true }

theorem Call.granted_of_reserved (h : call.reserved = true) : call.granted = call := by
  rw [Call.granted, ← h]

/-- The only call of the queue takes its forks, where it has not taken them already. -/
theorem State.reserve_grants (ht : s.team? t.id = some t) (hf : f < t.frames.length) (hc : s.core? t.die t.core = some c)
    (hq : c.forkQ = [(t.id, f)]) (hcall : (t.frame f).call = some call)
    (hfits : call.reserved = true ∨ s.poolUsed t.die t.core + 16 * call.callees.length ≤ 1024) :
    ∃ u, s.OnlyTeam (s.reserve t.die t.core (t.id, f)) t.id ∧ (s.reserve t.die t.core (t.id, f)).team? t.id = some u ∧ { u with frames := t.frames } = t ∧
      u.frames.length = t.frames.length ∧ u.frame f = { t.frame f with call := some call.granted } ∧ ∀ i, i ≠ f → u.frame i = t.frame i := by
  have hof : s.callOf (t.id, f) = some call := by
    rw [State.callOf, ht, Option.bind_some, hcall]
  simp only [State.reserve, hc, hof, hq, List.takeWhile_cons, bne_self_eq_false, Bool.false_eq_true, if_false, List.any_nil, Bool.or_false]
  cases hres : call.reserved with
  | true =>
    refine ⟨t, .refl s t.id, ht, rfl, rfl, ?_, fun _ _ => rfl⟩
    rw [Call.granted_of_reserved hres, ← hcall]
  | false =>
    have hpool : s.poolUsed t.die t.core + 16 * call.callees.length ≤ poolSize := hfits.resolve_left (by rw [hres]; decide)
    rw [Bool.false_or, decide_eq_false (Nat.not_lt.2 hpool)]
    exact ⟨_, State.onlyTeam_modTeam s t.id _ fun _ => rfl, State.team?_modTeam_some ht fun _ => rfl, rfl, length_setAt _ _ _,
      Team.frame_modFrame t f _ hf, fun i hi => Team.frame_modFrame_ne t f i _ hi⟩

/-- A call leaves its core's queue, and its frame waits for the join. -/
def State.callStarts (s : State) (die core id f : Nat) : State :=
  (s.modCore die core fun c => { c with forkQ := c.forkQ.filter (· != (id, f)) }).modFrame id f fun fr => { fr with call := none, status := .waitingJoin }

/-- Whether a thread's join marker is still to be pushed. -/
def State.marking (s : State) (id r : Nat) : Bool := match s.thread? id r with | some h => h.pmk | none => false

/-- The callees of a call begin, in their order. -/
def State.beginCall (s : State) (id f : Nat) (call : Call) : State := call.callees.foldl (fun s c => s.beginCallee id f call c) s

/-- The join markers of a call's threads are pushed. -/
def State.markCall (s : State) (id : Nat) (call : Call) : State :=
  s.pushMarkers id ((call.ranks.filter (s.marking id)).map fun r => (r, call.marker))

theorem State.forkReservation_of_due {m : State} {die core id : Nat}
    (hidle : ∀ x ∈ s.teams, x.die = die → x.core = core → x.standing = .resident → x.markers = [])
    (hc : s.core? die core = some c) (hq : c.forkQ = [(id, f)]) (hm : m = s.reserve die core (id, f)) (hu : m.team? id = some u)
    (hcall : (u.frame f).call = some call) (hst : u.standing = .resident) (hres : call.reserved = true) (htime : call.h + 2 ≤ m.gtime die) :
    s.forkReservation die core = (((m.callStarts die core id f).beginCall id f call).markCall id call).settle id := by
  have hof : m.callOf (id, f) = some call := by
    rw [State.callOf, hu, Option.bind_some, hcall]
  have hnone : (s.teams.filter fun t => t.die == die && t.core == core && t.standing == .resident).foldl (fun s t => s.pushMarkers t.id t.markers) s = s := by
    refine State.foldl_pushMarkers_idle _ (fun x hx => ?_) s
    obtain ⟨hx, hb⟩ := List.mem_filter.1 hx
    simp only [Bool.and_eq_true, beq_iff_eq] at hb
    exact hidle x hx hb.1.1 hb.1.2 hb.2
  have hdue : (u.standing == .resident && call.reserved && decide (call.h + 2 ≤ m.gtime die)) = true := by
    rw [hst, hres, decide_eq_true htime]
    rfl
  simp only [State.forkReservation, hc, hq, hnone, List.foldl_cons, List.foldl_nil, ← hm, List.find?_cons, hu, hof, hdue]
  rfl

end Reservation

section BegunThreads

theorem Thread.begun_rstack (h : Thread) (i rank : Nat) (entry : BitVec 56) (z clock time : Nat) : (h.begun i rank entry z clock time).rstack = h.rstack := by
  simp only [Thread.begun, Thread.releasedAt]
  split
  · rfl
  · split <;> rfl

theorem Thread.begun_exited (h : Thread) (i rank : Nat) (entry : BitVec 56) (z clock time : Nat) : (h.begun i rank entry z clock time).exited = h.exited := by
  simp only [Thread.begun, Thread.releasedAt]
  split
  · rfl
  · split <;> rfl

theorem Thread.begun_pmk {h : Thread} (hlive : h.exited = false) (i rank : Nat) (entry : BitVec 56) (z clock time : Nat) :
    (h.begun i rank entry z clock time).pmk = true := by
  rw [Thread.begun, if_neg (by rw [hlive]; decide)]

theorem Thread.begun_hasRoom {h : Thread} (hroom : h.HasRoom) (i rank : Nat) (entry : BitVec 56) (z clock time : Nat) :
    (h.begun i rank entry z clock time).HasRoom := by
  rw [Thread.HasRoom, Thread.nextDepth, Thread.begun_exited, Thread.begun_rstack]
  exact hroom

/-- A running thread begins at the entry with the acquired time and its marker. -/
theorem Thread.begun_withMarker {h : Thread} (hroom : h.HasRoom) (hs : h.stopped = false) (i rank : Nat) (entry : BitVec 56) (z clock time : Nat)
    (a : BitVec 56) :
    let h' := (h.begun i rank entry z clock time).withMarker a
    h'.frame = i ∧ h'.rank = rank ∧ h'.pc = entry ∧ h'.park = .none ∧ h'.fh = max h.fh z ∧ h'.rh = max h.rh z ∧ h'.v = h.v ∧ h'.preds = h.preds ∧
      h'.trap = h.trap.map (fun x => { x with resume := entry }) ∧
      h'.rstack = h.rstack ++ [BitVec.ofNat 64 (2 ^ 63 + h.nextDepth * 2 ^ 56 + a.toNat)] := by
  obtain ⟨hlive, -, hdepth⟩ := hroom
  have hbegun : h.begun i rank entry z clock time = { h.releasedAt clock time z with
      frame := i, rank := rank, pc := entry, cont := false, snap := none, pmk := true, trap := h.trap.map fun i => { i with resume := entry } } :=
    if_neg (by rw [hlive]; decide)
  rw [← stackEntry_marker hdepth, hbegun, Thread.releasedAt_of_running hs]
  exact ⟨rfl, rfl, rfl, rfl, rfl, rfl, rfl, rfl, rfl, rfl⟩

end BegunThreads

section CallBegins

variable {s m n : State} {t u v w : Team} {f id : Nat} {c : Core} {call : Call} {l : List Callee}

/-- A thread of a call begins in a callee, or is as it was. -/
theorem State.Begins.thread_cases (h : s.Begins m id f call l u v) {r : Nat} {x : Thread} (hx : u.thread? r = some x) :
    (∃ e ∈ l, ∃ i p, v.thread? r = some (x.begun i p e.entry call.h (s.clock u.die u.core) (s.gtime u.die))) ∨ v.thread? r = some x := by
  by_cases hin : ∃ e ∈ l, r ∈ call.ranksOf e
  · obtain ⟨e, he, hr⟩ := hin
    obtain ⟨p, hp, hpr⟩ := Call.mem_ranksOf.1 hr
    obtain ⟨i, -, -, hi⟩ := h.callees e he
    exact .inl ⟨e, he, i, p, hi p r x hp hpr hx⟩
  · exact .inr ((h.others r fun e he hr => hin ⟨e, he, hr⟩).trans hx)

/-- What a call's thread needs that its marker may be pushed at once. -/
def Thread.Callable (h : Thread) : Prop := h.rstack.length < 16 ∧ h.nextDepth ≤ 127 ∧ h.stopped = false ∧ h.pmk = false

theorem State.marking_of {r : Nat} {x : Thread} (hv : m.team? id = some v) (hx : v.thread? r = some x) : m.marking id r = x.pmk := by
  rw [State.marking, State.thread?_of hv, hx]

/-- The threads whose markers are pushed have room. -/
theorem State.Begins.marking_hasRoom (h : s.Begins m id f call l u v) (hcallable : ∀ r ∈ call.ranks, ∃ x, u.thread? r = some x ∧ x.Callable) {r : Nat}
    (hr : r ∈ call.ranks.filter (m.marking id)) : ∃ x, v.thread? r = some x ∧ x.HasRoom := by
  obtain ⟨hr, hmark⟩ := List.mem_filter.1 hr
  obtain ⟨x, hx, hlen, hdepth, -, hpmk⟩ := hcallable r hr
  cases hex : x.exited with
  | true =>
    have hsame : v.thread? r = some x := (h.thread_cases hx).elim (fun ⟨e, _, i, p, hi⟩ => by rwa [Thread.begun_of_exited hex] at hi) fun h => h
    rw [State.marking_of h.found hsame, hpmk] at hmark
    cases hmark
  | false =>
    rcases h.thread_cases hx with ⟨e, -, i, p, hi⟩ | hi
    · exact ⟨_, hi, Thread.begun_hasRoom ⟨hex, hlen, hdepth⟩ _ _ _ _ _ _⟩
    · exact ⟨x, hi, hex, hlen, hdepth⟩

/-- A living thread of a callee has its marker pushed. -/
theorem State.Begins.marking_of_callee (h : s.Begins m id f call l u v) {r i p z clock time : Nat} {entry : BitVec 56} {x : Thread} (hr : r ∈ call.ranks)
    (hx : v.thread? r = some (x.begun i p entry z clock time)) (hlive : x.exited = false) : r ∈ call.ranks.filter (m.marking id) := by
  exact List.mem_filter.2 ⟨hr, (State.marking_of h.found hx).trans (Thread.begun_pmk hlive _ _ _ _ _ _)⟩

/-- The core whose queue a call leaves. -/
theorem State.core?_callStarts {die core : Nat} (hc : s.core? die core = some c) (hq : c.forkQ = [(id, f)]) :
    (s.callStarts die core id f).core? die core = some { c with forkQ := [] } := by
  have hcore : (s.callStarts die core id f).core? die core =
      (s.core? die core).map fun c => if c.die == die && c.num == core then { c with forkQ := c.forkQ.filter (· != (id, f)) } else c :=
    find?_mapIf _ _ _ _ fun _ => rfl
  have hkey := List.find?_some hc
  rw [hcore, hc, Option.map_some, if_pos hkey, hq]
  simp

/-- The team whose call starts: its frame waits for the join. -/
theorem State.team?_callStarts {die core : Nat} (hu : s.team? id = some u) :
    (s.callStarts die core id f).team? id = some (u.modFrame f fun fr => { fr with call := none, status := .waitingJoin }) :=
  State.team?_modTeam_some (s := s.modCore die core _) hu fun _ => rfl

theorem State.OnlyTeam.core?_eq {die core : Nat} (h : s.OnlyTeam m id) : m.core? die core = s.core? die core := by
  have := congrArg (fun s : State => s.core? die core) h.1
  exact this

theorem State.OnlyTeam.mem_eq (h : s.OnlyTeam m id) : m.mem = s.mem := by
  have := congrArg State.mem h.1
  exact this

/-- A call whose forks the pool has leaves the queue, and its frame waits; the callees and the markers follow. -/
theorem State.forkReservation_waits (ht : s.team? t.id = some t) (hst : t.standing = .resident) (hf : f < t.frames.length)
    (hc : s.core? t.die t.core = some c) (hq : c.forkQ = [(t.id, f)]) (hcall : (t.frame f).call = some call) (htime : call.h + 2 ≤ s.gtime t.die)
    (hfits : call.reserved = true ∨ s.poolUsed t.die t.core + 16 * call.callees.length ≤ 1024)
    (hidle : ∀ x ∈ s.teams, x.die = t.die → x.core = t.core → x.standing = .resident → x.markers = []) :
    ∃ (m : State) (w : Team), s.forkReservation t.die t.core = ((m.beginCall t.id f call.granted).markCall t.id call.granted).settle t.id ∧ m.mem = s.mem ∧
      m.core? t.die t.core = some { c with forkQ := [] } ∧ m.team? t.id = some w ∧ w.id = t.id ∧ w.threads = t.threads ∧ f < w.frames.length ∧
      w.frame f = { t.frame f with call := none, status := .waitingJoin } := by
  obtain ⟨u, honly, hu, hrest, hlen, hframe, -⟩ := State.reserve_grants ht hf hc hq hcall hfits
  have huf : f < u.frames.length := by omega
  refine ⟨_, _, State.forkReservation_of_due hidle hc hq rfl hu (by rw [hframe]) (by rw [← hst, ← hrest]) rfl ?_, honly.mem_eq,
    State.core?_callStarts (honly.core?_eq.trans hc) hq, State.team?_callStarts hu, show u.id = t.id from State.id_of_team? hu, by rw [← hrest]; rfl,
    huf.trans_eq (length_setAt _ _ _).symm, ?_⟩
  · rw [State.gtime_of_only honly.1]
    exact htime
  · rw [Team.frame_modFrame u f _ huf, hframe]

/-- Where callees have begun, the markers of their living threads are pushed, and nothing else differs. -/
theorem State.Begins.markCall (h : s.Begins m t.id f call l u v) (hid : u.id = t.id) (hnd : call.ranks.Nodup)
    (hcallable : ∀ r ∈ call.ranks, ∃ x, u.thread? r = some x ∧ x.Callable) :
    ∃ w, m.OnlyTeam (m.markCall t.id call) t.id ∧ (m.markCall t.id call).team? t.id = some w ∧ (∀ i, w.frame i = v.frame i) ∧
      (∀ r ∈ call.ranks.filter (m.marking t.id), ∀ x, v.thread? r = some x → w.thread? r = some (x.withMarker call.marker)) ∧
      ∀ r, r ∉ call.ranks → w.thread? r = v.thread? r := by
  have hvid : v.id = t.id := h.id_eq.trans hid
  obtain ⟨w, honly, hw, hrest, hin, hout⟩ := State.pushMarkers_turns (hvid ▸ h.found) _ (hnd.filter (m.marking t.id))
    (fun r hr => h.marking_hasRoom hcallable hr) call.marker
  rw [hvid] at honly hw
  have hkeys : ((call.ranks.filter (m.marking t.id)).map fun r => (r, call.marker)).map Prod.fst = call.ranks.filter (m.marking t.id) := by
    rw [List.map_map]
    exact List.map_id _
  rw [hkeys] at hout
  refine ⟨w, honly, hw, fun i => by rw [← hrest]; rfl, fun r hr x hx => ?_, fun r hr => hout r fun hmem => hr (List.mem_filter.1 hmem).1⟩
  obtain ⟨x', hx', rfl⟩ := hin (r, call.marker) (List.mem_map_of_mem hr) x hx
  exact hx'

/-- A call whose forks the pool has begins. -/
theorem State.forkReservation_spec (ht : s.team? t.id = some t) (hst : t.standing = .resident) (hf : f < t.frames.length)
    (hc : s.core? t.die t.core = some c) (hq : c.forkQ = [(t.id, f)]) (hcall : (t.frame f).call = some call) (htime : call.h + 2 ≤ s.gtime t.die)
    (hfits : call.reserved = true ∨ s.poolUsed t.die t.core + 16 * call.callees.length ≤ 1024)
    (hpair : call.callees.Pairwise fun x y => x.start + x.size ≤ y.start) (hnd : call.ranks.Nodup)
    (hcallable : ∀ r ∈ call.ranks, ∃ h, t.thread? r = some h ∧ h.Callable) (hthreads : (t.threads.map (·.lrank)).Nodup)
    (hidle : ∀ x ∈ s.teams, x.die = t.die → x.core = t.core → x.standing = .resident → x.markers = []) :
    ∃ (m : State) (t' : Team), exec (.forkReservation t.die t.core) s = .next (m.settle t.id) ∧ m.mem = s.mem ∧ m.team? t.id = some t' ∧
      (t'.frame f).status = .waitingJoin ∧ (t'.frame f).call = none ∧ (∃ c', m.core? t.die t.core = some c' ∧ c'.forkQ = []) ∧
      (∀ e ∈ call.callees, ∃ i, i ≠ 0 ∧ (t'.frame i).parent = some f ∧ (t'.frame i).callee = e.idx ∧ (t'.frame i).nrank = e.size ∧
        (t'.frame i).depth = (t.frame f).depth + 1 ∧ (t'.frame i).status = .running ∧
        ∀ (p r : Nat) (h : Thread), p < e.size → call.ranks[e.start + p]? = some r → t.thread? r = some h → h.exited = false →
          ∃ h', t'.thread? r = some h' ∧ h'.frame = i ∧ h'.rank = p ∧
          h'.pc = e.entry ∧ h'.park = .none ∧ h'.fh = max h.fh call.h ∧ h'.rh = max h.rh call.h ∧ h'.v = h.v ∧ h'.preds = h.preds ∧
          h'.trap = h.trap.map (fun x => { x with resume := e.entry }) ∧
          h'.rstack = h.rstack ++ [BitVec.ofNat 64 (2 ^ 63 + h.nextDepth * 2 ^ 56 + call.marker.toNat)]) ∧
      ∀ h ∈ t.threads, h.lrank ∉ call.ranks → t'.thread? h.lrank = some h := by
  obtain ⟨s1, w, hexec, hmem, hcore, hw, hwid, hwthreads, hwlen, hwf⟩ := State.forkReservation_waits ht hst hf hc hq hcall htime hfits hidle
  have hthread : ∀ r, w.thread? r = t.thread? r := Team.thread?_congr hwthreads
  have hstands : (w.frame f).status ≠ .gone := by
    rw [hwf]
    exact fun h => nomatch h
  have hcallable' : ∀ r ∈ call.ranks, ∃ h, w.thread? r = some h ∧ h.Callable := fun r hr =>
    (hcallable r hr).imp fun _ h => ⟨(hthread r).trans h.1, h.2⟩
  obtain ⟨v, hv⟩ := State.beginCallees_begins (call := call.granted) call.callees hpair hnd (hwid ▸ hw) hwlen hstands fun r hr =>
    (hcallable' r hr).imp fun _ h => h.1
  rw [hwid] at hv
  obtain ⟨t', honly, ht', hframe, hin, hout⟩ := hv.markCall hwid hnd hcallable'
  refine ⟨_, t', congrArg Host.Outcome.next hexec, (honly.mem_eq.trans hv.only.mem_eq).trans hmem, ht', ?_, ?_,
    ⟨_, (honly.core?_eq.trans hv.only.core?_eq).trans hcore, rfl⟩, fun e he => ?_, fun h hh hno => ?_⟩
  · rw [hframe, hv.frames f hstands, hwf]
  · rw [hframe, hv.frames f hstands, hwf]
  · obtain ⟨i, hi0, hi, hbegun⟩ := hv.callees e he
    refine ⟨i, hi0, ?_⟩
    rw [hframe, hi, hwf]
    refine ⟨rfl, rfl, rfl, rfl, rfl, fun p r h hp hpr hh hlive => ?_⟩
    have hr : r ∈ call.ranks := List.mem_of_getElem? hpr
    obtain ⟨h0, hh0, hlen, hdepth, hrun, -⟩ := hcallable r hr
    obtain rfl : h0 = h := Option.some.inj (hh0.symm.trans hh)
    have hb := hbegun p r h0 hp hpr ((hthread r).trans hh)
    exact ⟨_, hin r (hv.marking_of_callee hr hb hlive) _ hb, Thread.begun_withMarker ⟨hlive, hlen, hdepth⟩ hrun _ _ _ _ _ _ _⟩
  · rw [hout h.lrank hno, hv.others h.lrank fun e _ hr => hno (Call.ranksOf_subset hr), hthread]
    exact Team.thread?_of_mem hthreads hh

end CallBegins

/-- The release of a cluster or grid barrier as the statement has it. -/
theorem State.barrierRelease_wide_spec {s : State} {t : Team} {grid : Bool} {hz : Nat} (ht : s.team? t.id = some t) (hst : t.standing ≠ .ended)
    (hnd : (s.teams.map (·.id)).Nodup) (harr : ∀ x, s.Mate t grid x → x.standing = .resident ∧ (if grid then x.arrG else x.arrC) = true)
    (hwhole : grid = true → ∃ l, s.launch? t.launch = some l ∧ l.desc.nteams ≤ l.nextTeam) (hmax : ∃ x, s.Mate t grid x ∧ x.wideH = hz)
    (hle : ∀ x, s.Mate t grid x → x.wideH ≤ hz ∧ hz + 2 ≤ s.gtime x.die) :
    ∃ s', exec (.barrierRelease (if grid then 2 else 1) t.id 0 0) s = .next s' ∧ { s' with teams := s.teams } = s ∧
      (∀ x, x ∈ s.teams → ¬ s.Mate t grid x → s'.team? x.id = some x) ∧
      ∀ x, s.Mate t grid x → ∃ x', s'.team? x.id = some x' ∧
        (grid = true → x'.arrG = false ∧ x'.phaseG = (!x.phaseG)) ∧ (grid = false → x'.arrC = false ∧ x'.phaseC = (!x.phaseC)) ∧
        x.Frees x' (s.clock x.die x.core) (s.gtime x.die) hz fun h => h.exited = false ∧ h.waitsAt = (if grid then .gbar else .cbar) := by
  obtain ⟨hrest, hothers, hmates⟩ := State.releaseWide_spec ht hst hnd harr hwhole hmax hle
  refine ⟨s.releaseWide t.id grid, by cases grid <;> rfl, hrest, hothers, fun x hx => ⟨_, hmates x hx, ?_, ?_, x.frees_turnWide grid hz _ _⟩⟩
  · rintro rfl
    exact ⟨rfl, rfl⟩
  · rintro rfl
    exact ⟨rfl, rfl⟩

/-- A saving team's window kept open too long. -/
theorem State.openWindowLimit_spec {s : State} {t : Team} {h : Thread} (ht : s.team? t.id = some t) (hh : t.thread? h.lrank = some h)
    (hst : t.standing = .saving) (hwin : h.openWin ≠ []) (hlate : 256 ≤ h.sinceOpen) :
    ∃ s' t', exec (.openWindowLimit t.id h.lrank) s = .next s' ∧ s.OnlyTeam s' t.id ∧ s'.team? t.id = some t' ∧
      { t' with win := t.win, threads := t.threads } = t ∧ (∃ h', t'.thread? h.lrank = some h' ∧ h' = { h with openWin := [] }) ∧
      ∀ c ∈ h.openWin, ∀ i, i < 256 → Memory.wf t.win = true → cget t'.win (256 * c + i) = 0 := by
  refine ⟨_, _, congrArg Host.Outcome.next (State.openWindowLimit_of_late ht hh hst hwin hlate), State.onlyTeam_modTeam s t.id _ fun _ => rfl,
    State.team?_modTeam_some ht fun _ => rfl, rfl, ⟨_, ?_, rfl⟩, fun c hc i hi _ => cget_cdrop_window hc t.win hi⟩
  have hmap := Team.thread?_mapIf t (fun x => x.lrank == h.lrank) (fun x => { x with openWin := [] }) (fun _ => rfl) h.lrank
  rw [hh, Option.map_some, if_pos (beq_self_eq_true _)] at hmap
  exact hmap

/-- Settles O55, one lemma for each event: a call that begins pushes its callees' threads into new frames, a join brings them back and takes the
results lowest callee first, and each release changes its own threads, one at a time. -/
theorem parkedThreadsGoOn : Obligations.ParkedThreadsGoOn := by
  unfold Obligations.ParkedThreadsGoOn
  refine ⟨fun s t f k ht hf hk => ⟨State.releaseTeam_spec ht hf hk, fun h => congrArg Host.Outcome.next (State.releaseTeam_of_waiting ht h)⟩,
    fun s t grid ht hst hnd harr hwhole hz => State.barrierRelease_wide_spec ht hst hnd harr hwhole,
    fun s t h a hz ht hlane ha hop hfull hnd => State.releaseSync_spec ht hlane ha hop hfull hnd,
    fun s t f c call ht hst hf hc hq hcall htime hfits hthreads hpair hnd hcallable =>
      State.forkReservation_spec ht hst hf hc hq hcall htime hfits hpair hnd hcallable hthreads,
    fun s0 s t f hz => State.join_spec,
    fun s l t => State.bowArrival_spec,
    fun s t h x ht hh hlive hst hx hframes => ⟨fun hno => ?_, fun f k hover => ?_⟩,
    fun s t h ht hh hst hwin => ⟨State.openWindowLimit_spec ht hh hst hwin,
      fun hearly => congrArg Host.Outcome.next (State.openWindowLimit_of_early ht hh hearly)⟩⟩
  · have hidle : _ → exec (.rendezvousWatchdog t.id h.lrank) s = .next s := fun hwait =>
      congrArg Host.Outcome.next (State.watchdog_of_no_overdue ht hh hno hwait)
    exact ⟨fun j _ hj => hidle (.inl ⟨j, hj⟩), fun hnone => hidle (.inr hnone)⟩
  · obtain ⟨hf, hbars⟩ := hframes f hover.1
    exact State.watchdog_spec ht hh hlive hst hx hf hbars hover

end Sys2Proof.Machine

/-!
LAWS. Keys, traps, yielding and the system registers (O48): a thread replaced by a record of its own launch rank, the fields of PREC, what a read
of a system register gives and latches, and a turn that leaves a thread in its frame.
-/

namespace Sys2Proof.Machine

open Sys2Proof

/-! ### A thread replaced by a record of its launch rank -/

/-- An update of the thread of launch rank `r` is determined by what it makes of records of that rank. -/
theorem Team.modThread_congr (t : Team) {r : Nat} {f g : Thread → Thread} (hfg : ∀ x, x.lrank = r → f x = g x) : t.modThread r f = t.modThread r g := by
  unfold Team.modThread mapIf
  congr 1
  refine List.map_congr_left fun x _ => ?_
  split
  · next hx => exact hfg x (beq_iff_eq.1 hx)
  · rfl

/-- A thread becomes the record `x`. -/
theorem State.turns_put {s : State} {t : Team} {h x : Thread} (ht : s.team? t.id = some t) (hh : t.thread? h.lrank = some h) (hx : x.lrank = h.lrank) :
    s.Turns (s.modThread t.id h.lrank fun _ => x) t h fun h' => h' = x := by
  have hput : s.modThread t.id h.lrank (fun _ => x) = s.modThread t.id h.lrank fun y => { x with lrank := y.lrank } :=
    congrArg (s.modTeam t.id) (funext fun u => u.modThread_congr fun y hy => by rw [hy, ← hx])
  rw [hput]
  refine (State.turns_modThread s t h (fun y => { x with lrank := y.lrank }) ht hh fun _ => rfl).imp fun h' hh' => hh'.trans ?_
  rw [← hx]

/-! ### Traps that a word finds (R197, R370, R371) -/

@[simp] theorem State.trapAt_cause (s : State) (cause slot : Nat) : (s.trapAt cause slot).cause = cause := by
  unfold State.trapAt
  cases s.bundle <;> rfl

@[simp] theorem State.trapAt_packet (s : State) (cause slot : Nat) : (s.trapAt cause slot).packet = s.here := by
  unfold State.trapAt State.here
  cases s.bundle <;> rfl

/-- A software trap is taken at the packet in progress and resumes at the next. -/
theorem State.softTrap_spec {s : State} {t : Team} {h : Thread} (ht : s.team? t.id = some t) (hh : t.thread? h.lrank = some h) (cause : Nat) :
    s.Leaves (s.softTrap t h cause) t h fun h' => ∃ i,
      h' = { h with pc := s.here + 16#56, cont := false, snap := none, trap := some i } ∧ i.cause = cause ∧ i.packet = s.here ∧
        i.resume = s.here + 16#56 :=
  (State.trap_spec s t h { s.trapAt cause s.slotNow with resume := s.after } ht hh).imp fun _ hh' =>
    ⟨_, hh', State.trapAt_cause .., State.trapAt_packet .., rfl⟩

/-- A trap found at issue waits for the thread's packet to end. -/
theorem State.trapAfter_spec {s : State} {t : Team} {h : Thread} (ht : s.team? t.id = some t) (hh : t.thread? h.lrank = some h) (cause : Nat) :
    s.Turns (s.trapAfter t.id h.lrank cause) t h fun h' => ∃ i, h' = { h with trap := some i } ∧ i.cause = cause ∧ i.packet = s.here :=
  (State.turns_modThread s t h (fun h => { h with trap := some (s.trapAt cause s.slotAfter) }) ht hh fun _ => rfl).imp fun _ hh' =>
    ⟨_, hh', State.trapAt_cause .., State.trapAt_packet ..⟩

/-! ### The fields of PREC (R64) -/

theorem toNat_precOf {p rm : Nat} (hp : p < 256) (hrm : rm < 8) (x xuf : Bool) :
    (precOf p rm x xuf).toNat = p + 256 * rm + x.toNat * 2048 + xuf.toNat * 4096 := by
  rw [precOf, BitVec.toNat_ofNat]
  cases x <;> cases xuf <;> simp <;> omega

theorem precP_precOf {p rm : Nat} (hp : p < 256) (hrm : rm < 8) (x xuf : Bool) : precP (precOf p rm x xuf) = p := by
  rw [precP, toNat_precOf hp hrm]
  omega

theorem precRM_precOf {p rm : Nat} (hp : p < 256) (hrm : rm < 8) (x xuf : Bool) : precRM (precOf p rm x xuf) = rm := by
  rw [precRM, toNat_precOf hp hrm]
  omega

theorem precX_precOf {p rm : Nat} (hp : p < 256) (hrm : rm < 8) (x xuf : Bool) : precX (precOf p rm x xuf) = x := by
  rw [precX, BitVec.getLsbD, toNat_precOf hp hrm, Nat.testBit_eq_decide_div_mod_eq]
  cases x <;> cases xuf <;> simp <;> omega

theorem precXUF_precOf {p rm : Nat} (hp : p < 256) (hrm : rm < 8) (x xuf : Bool) : precXUF (precOf p rm x xuf) = xuf := by
  rw [precXUF, BitVec.getLsbD, toNat_precOf hp hrm, Nat.testBit_eq_decide_div_mod_eq]
  cases x <;> cases xuf <;> simp <;> omega

theorem precWrite_of_legal {old new : Word} (h : 1 ≤ precP new ∧ precP new ≤ 237 ∧ precRM new ≤ 4) :
    precWrite old new = some (precOf (precP new) (precRM new) (precX new) (precXUF old && !precXUF new)) := if_pos h

theorem precWrite_of_illegal {old new : Word} (h : ¬ (1 ≤ precP new ∧ precP new ≤ 237 ∧ precRM new ≤ 4)) : precWrite old new = none := if_neg h

/-! ### Reads of system registers (R63 to R66, R200) -/

theorem tstatOf_eq (ens det mrgc : Bool) (f : Frame) : tstatOf ens det mrgc f = BitVec.ofNat 32 (f.depth % 16 + f.callee % 4 * 2 ^ 4 +
    (if mrgc then 2 ^ 8 else 0) + (if det then 2 ^ 9 else 0) + (if ens then 2 ^ 10 else 0)) := by
  rw [tstatOf, Nat.mul_comm]
  rfl

theorem State.plainReg_eq_sysValue (s : State) (t : Team) (h : Thread) (w : View) (n : Nat) : s.plainReg t h w n = s.sysValue t h w n := by
  unfold State.plainReg State.sysValue
  dsimp only
  split
  · rfl
  · rw [tstatOf_eq]
    cases s.desc? t <;> rfl
  · rfl
  · rfl
  · rfl
  · cases s.desc? t <;> rfl
  · rw [Nat.mul_comm]
    rfl
  · rfl
  · exact (BitVec.ofNat_toNat 32 w.akey).symm
  · next h0 h1 h6 h7 h8 h9 hA hB hE => simp only [if_neg h0, if_neg h1, if_neg h6, if_neg h7, if_neg h8, if_neg h9, if_neg hA, if_neg hB, if_neg hE]

theorem State.wideReg_eq_sysWide (s : State) (t : Team) (w : View) (n : Nat) : s.wideReg t w n = s.sysWide t w n := by
  unfold State.wideReg State.sysWide
  split
  · rfl
  · rfl
  · rfl
  · next h2 h4 hC =>
    rw [if_neg h2, if_neg h4, if_neg hC]
    cases s.core? t.die t.core <;> rfl

section Reads

variable {s : State} {t : Team} {h h' : Thread} {w : View} {n low : Nat} {x : Word}

/-- The low half of a wide register is read as it is, and its high half latched. -/
theorem State.readReg_low (hlow : lowOf low = some low) : s.readReg t h w low =
    ((s.sysWide t w low).extractLsb' 0 32, h.setShadow low (some ((s.sysWide t w low).extractLsb' 32 32))) := by
  simp only [State.readReg, hlow, if_true, State.wideReg_eq_sysWide]

/-- A high half takes what was latched, or else the half as it is. -/
theorem State.readReg_high (hlow : lowOf n = some low) (hne : n ≠ low) : s.readReg t h w n =
    ((h.shadow low).getD ((s.sysWide t w low).extractLsb' 32 32), h.setShadow low none) := by
  simp only [State.readReg, hlow, if_neg hne, State.wideReg_eq_sysWide]
  cases h.shadow low <;> rfl

theorem State.readReg_plain (hlow : lowOf n = none) : s.readReg t h w n = (s.sysValue t h w n, h) := by
  simp only [State.readReg, hlow, State.plainReg_eq_sysValue]

/-- A read of a system register is as R66 and R200 say: by its number, a low half, a high half, or a register of 32 bits. -/
theorem State.readReg_spec (s : State) (t : Team) (h : Thread) (w : View) (n : Nat) :
    s.SysRead t h w n (s.readReg t h w n).1 (s.readReg t h w n).2 := by
  unfold State.SysRead
  dsimp only
  split_ifs with h2 h3 h4 h5 hC hD hF h10
  · rw [h2, State.readReg_low rfl]; exact ⟨rfl, rfl⟩
  · rw [h3, State.readReg_high (low := 0x02) rfl (by decide)]; exact ⟨rfl, rfl⟩
  · rw [h4, State.readReg_low rfl]; exact ⟨rfl, rfl⟩
  · rw [h5, State.readReg_high (low := 0x04) rfl (by decide)]; exact ⟨rfl, rfl⟩
  · rw [hC, State.readReg_low rfl]; exact ⟨rfl, rfl⟩
  · rw [hD, State.readReg_high (low := 0x0C) rfl (by decide)]; exact ⟨rfl, rfl⟩
  · rw [hF, State.readReg_low rfl]; exact ⟨rfl, rfl⟩
  · rw [h10, State.readReg_high (low := 0x0F) rfl (by decide)]; exact ⟨rfl, rfl⟩
  · have hnone : lowOf n = none := by simp [lowOf]
    rw [State.readReg_plain hnone]; exact ⟨rfl, rfl⟩

/-- A read of a system register changes no more of the thread than its shadows. -/
theorem State.SysRead.shadows_only (hr : s.SysRead t h w n x h') :
    { h' with shFh := h.shFh, shRh := h.shRh, shGtime := h.shGtime, shTagrdy := h.shTagrdy } = h := by
  unfold State.SysRead at hr
  dsimp only at hr
  split_ifs at hr <;> rw [hr.2]

theorem State.SysRead.lrank_eq (hr : s.SysRead t h w n x h') : h'.lrank = h.lrank := by
  have := congrArg Thread.lrank hr.shadows_only
  exact this

theorem State.SysRead.frame_eq (hr : s.SysRead t h w n x h') : h'.frame = h.frame := by
  have := congrArg Thread.frame hr.shadows_only
  exact this

end Reads

/-- MFSR to a vector register (R198). -/
theorem State.mfsrV_turn {s : State} {t : Team} {h : Thread} (ht : s.team? t.id = some t) (hh : t.thread? h.lrank = some h) (w : View) (d n : Nat) :
    ∃ x h1, s.SysRead t h w n x h1 ∧
      s.Turns (s.modThread t.id h.lrank fun _ => (s.readReg t h w n).2.write (.reg d (s.readReg t h w n).1)) t h fun h' => h1.Sets h' d x := by
  have hread := State.readReg_spec s t h w n
  refine ⟨_, _, hread, (State.turns_put ht hh ((Thread.write_lrank _ _).trans hread.lrank_eq)).imp fun h' hh' => ?_⟩
  rw [hh']
  exact Thread.sets_reg _ d _

/-! ### MFSR to a uniform register (R198, R200) -/

/-- What every turn keeps, the turns of a bundle together keep. -/
theorem InTurn.keeps {P : State → Team → Thread → State → Prop} {I : State → Prop} {team : Nat}
    (hP : ∀ s t h m, s.team? t.id = some t → t.thread? h.lrank = some h → P s t h m → I s → I m) {ranks : List Nat} {s m : State}
    (hm : InTurn P team ranks s m) (hs : I s) : I m := by
  induction ranks generalizing s with
  | nil => exact (show m = s from hm) ▸ hs
  | cons r rest ih =>
    obtain ⟨s1, hturn, hrest⟩ := hm
    refine ih hrest ?_
    split at hturn
    · exact hturn ▸ hs
    · next t ht =>
      split at hturn
      · exact hturn ▸ hs
      · next h hh =>
        cases hx : h.exited with
        | true => exact hturn.1 hx ▸ hs
        | false => exact hP s t h s1 (State.id_of_team? ht ▸ ht) (Team.lrank_of_thread? hh ▸ hh) (hturn.2 hx) hs

/-- The frame that an operation of any thread notes, after a turn that leaves its thread in its frame. -/
theorem State.Turns.frameOf_eq {s m : State} {t : Team} {h x : Thread} (hm : s.Turns m t h fun h' => h' = x) (ht : s.team? t.id = some t)
    (hh : t.thread? h.lrank = some h) (hx : x.frame = h.frame) (id r : Nat) : m.frameOf id r = s.frameOf id r := by
  obtain ⟨-, hothers, t', ht', -, hthreads, h', hh', rfl⟩ := hm
  unfold State.frameOf
  by_cases hid : id = t.id
  · rw [hid, State.thread?_of ht', State.thread?_of ht]
    by_cases hr : r = h.lrank
    · rw [hr, hh', hh]
      exact hx
    · rw [hthreads r hr]
  · rw [State.thread?, State.thread?, hothers id hid]

/-- A turn of MFSR to a uniform register. -/
def SysReadTurn (n : Nat) (s : State) (t : Team) (h : Thread) (w : View) (m : State) : Prop :=
  ∃ y h1, s.SysRead t h w n y h1 ∧ s.Turns m t h fun h' => h' = h1

theorem SysReadTurn.guarded_frameOf_eq {s m : State} {t : Team} {h : Thread} {n : Nat} {g : BitVec 3} (hm : Guarded g (SysReadTurn n) s t h m)
    (ht : s.team? t.id = some t) (hh : t.thread? h.lrank = some h) (id r : Nat) : m.frameOf id r = s.frameOf id r := by
  cases hg : (t.view h).pred g.toNat with
  | false => rw [hm.2 hg]
  | true =>
    obtain ⟨y, h1, hread, hturn⟩ := hm.1 hg
    exact hturn.frameOf_eq ht hh hread.frame_eq id r

/-- MFSR to a uniform register: in its turn each thread latches or uses its own shadow (log entry 72), and then the lowest thread's value is
on its way, once for the bundle. -/
theorem State.mfsrU_spec {s : State} {b : Bundle} {t : Team} {low : Thread} (hs : s.Issues b t) (hl : lowest b t = some low) (d n : Nat) :
    ∃ m, InTurn (Guarded 7 (SysReadTurn n)) b.team b.ranks s m ∧
      m.SendsQuiet (s.mfsrU d n) t low .none (.uniform b.frame b.course b.ranks [(d, (s.readReg t low (t.view low) n).1)]) := by
  have hlanes := State.lanes_spec s b t 7 (fun s t h w => s.modThread t.id h.lrank fun _ => (s.readReg t h w n).2) (SysReadTurn n) hs
    fun s t h ht hh _ => ⟨_, _, s.readReg_spec t h (t.view h) n, State.turns_put ht hh (s.readReg_spec t h (t.view h) n).lrank_eq⟩
  obtain ⟨hb, ht⟩ := hs
  have hid : t.id = b.team := State.id_of_team? ht
  obtain ⟨r, -, hth⟩ := Option.bind_eq_some_iff.1 hl
  have hframe := hlanes.keeps (I := fun m => m.frameOf b.team low.lrank = low.frame)
    (fun s t h m ht hh hm hI => (SysReadTurn.guarded_frameOf_eq hm ht hh _ _).trans hI)
    (hid ▸ State.frameOf_of s t low (hid ▸ ht) (Team.lrank_of_thread? hth ▸ hth))
  refine ⟨_, hlanes, ?_⟩
  have hexec : s.mfsrU d n = (s.lanes 7 fun s t h w => s.modThread t.id h.lrank fun _ => (s.readReg t h w n).2).sendUniform b low
      [(d, (s.readReg t low (t.view low) n).1)] := by
    simp only [State.mfsrU, State.current, hb, ht, Option.map_some, hl]
  rw [hexec, State.sendUniform]
  exact ⟨⟨by rw [State.addOp_ops, hframe, hid], rfl, rfl⟩, rfl⟩

/-! ### Writes of system registers (R64, R65, R199) -/

theorem State.mtsr_of_two_le (s : State) {n : Nat} (hn : 2 ≤ n) (f : View → Word) : s.mtsr n f = s := by
  unfold State.mtsr
  split
  · omega
  · omega
  · rfl

theorem State.setPrec_spec {s : State} {t : Team} {h : Thread} (ht : s.team? t.id = some t) (hh : t.thread? h.lrank = some h) (p : Word) :
    s.Turns (s.modThread t.id h.lrank fun h => { h with prec := p }) t h fun h' => h' = { h with prec := p } :=
  State.turns_modThread s t h (fun h => { h with prec := p }) ht hh fun _ => rfl

/-- A write of PREC as a whole (R64). -/
theorem eachThread_of_mtsr_prec {i : Instr} {f : View → Word} (hi : ∀ s, exec i s = .next (s.mtsr 0 f)) : EachThread i 7 (PrecWriteTurn f) := by
  have hprec : ∀ s, exec i s = .next (s.precTo 7 fun w => precWrite w.mode (f w)) := hi
  refine eachThread_of_lanes hprec fun s t h ht hh _ => ⟨fun hgood => ?_, fun hbad => ?_⟩
  · have hp : precP (f (t.view h)) < 256 := Nat.mod_lt _ (by decide)
    have hrm : precRM (f (t.view h)) < 8 := Nat.mod_lt _ (by decide)
    dsimp only
    rw [precWrite_of_legal (new := f (t.view h)) hgood]
    exact (State.setPrec_spec ht hh _).imp fun h' hh' =>
      ⟨_, hh', precP_precOf hp hrm _ _, precRM_precOf hp hrm _ _, precX_precOf hp hrm _ _, precXUF_precOf hp hrm _ _⟩
  · dsimp only
    rw [precWrite_of_illegal (new := f (t.view h)) hbad]
    exact State.trapAfter_spec ht hh 2

/-- A write of TSTAT (R65). -/
theorem eachThread_of_mtsr_merged {i : Instr} {f : View → Word} (hi : ∀ s, exec i s = .next (s.mtsr 1 f)) : EachThread i 7 (MergedClearTurn f) := by
  have hlanes : ∀ s, exec i s = .next (s.lanes 7 fun s t _ w => if (f w).getLsbD 8 then s.modTeam t.id fun t => { t with mrgc := false } else s) := hi
  refine eachThread_of_lanes hlanes fun s t h ht _ _ => ⟨fun hset => ?_, fun hclear => ?_⟩
  · rw [if_pos hset]
    exact ⟨State.onlyTeam_modTeam s t.id _ fun _ => rfl, State.team?_modTeam_some ht fun _ => rfl⟩
  · exact if_neg (Bool.not_eq_true _ ▸ hclear)

/-! ### Keys, breaks and yielding (R196, R197) -/

theorem eachThreadThenSettled_of_setKey {i : Instr} {f : View → Byte} (hi : ∀ s, exec i s = .next (s.setKey f)) :
    EachThreadThenSettled i 7 fun s t h w m => s.Leaves m t h fun h' => h' = { s.onward t h (s.here + 16#56) with akey := f w } :=
  eachThreadThenSettled_of_eachLane hi fun s t h ht hh _ =>
    (State.goTo_spec s t h s.after ht hh).then_modThread rfl (fun x => { x with akey := f (t.view h) }) fun _ => rfl

/-- A break, outside a debug mode and in one (R375). -/
theorem brk_spec (x : BitVec 16) : EachThreadThenSettled (.brk x) 7 fun s t h _ m =>
    (s.debugMode t = 0 → s.Leaves m t h fun h' => ∃ i,
      h' = { h with pc := s.here + 16#56, cont := false, snap := none, trap := some i } ∧ i.cause = 5 ∧ i.packet = s.here ∧ i.resume = s.here + 16#56) ∧
    (s.debugMode t ≠ 0 → ∃ s1, s.Leaves s1 t h (fun h' => h' = s.onward t h (s.here + 16#56)) ∧ m = s1.debugStop t h.lrank 5 s.here) := by
  refine eachThreadThenSettled_of_eachLane (fun _ => rfl) fun s t h ht hh _ => ⟨fun hoff => ?_, fun hon => ?_⟩
  · rw [if_pos hoff]
    exact State.softTrap_spec ht hh 5
  · rw [if_neg hon]
    exact ⟨_, State.goTo_spec s t h s.after ht hh, rfl⟩

/-- A yield: the clock at which it ends, or its mark at once. -/
theorem yield_spec (n : BitVec 10) : EachThreadThenSettled (.yield n) 7 fun s t h _ m => s.Leaves m t h fun h' =>
    h' = { s.onward t h (s.here + 16#56) with
      yieldAt := (if n = 0 then none else some (s.clock t.die t.core + n.toNat)), yieldMark := decide (n = 0) } := by
  have hzero : n.toNat = 0 ↔ n = 0 := BitVec.toNat_eq (y := 0).symm
  refine eachThreadThenSettled_of_eachLane (fun _ => rfl) fun s t h ht hh _ => ?_
  simp only [← hzero]
  exact (State.goTo_spec s t h s.after ht hh).then_modThread rfl (fun x => { x with
    yieldAt := if n.toNat = 0 then none else some (s.clock t.die t.core + n.toNat), yieldMark := decide (n.toNat = 0) }) fun _ => rfl

/-- Settles O48, word by word: a turn that transfers control and then changes its thread, a software trap, or a read or write of a system register. -/
theorem keysTrapsAndRegisters : Obligations.KeysTrapsAndRegisters := by
  unfold Obligations.KeysTrapsAndRegisters
  intro c k sr u a d x n
  refine ⟨eachThreadThenSettled_of_setKey fun _ => rfl, ?setkeyReg, ?trap, brk_spec x, yield_spec n, ?mfsrV, ?mfsrU,
    eachThread_of_mtsr_prec fun _ => rfl, eachThread_of_mtsr_prec fun _ => rfl, eachThread_of_mtsr_merged fun _ => rfl,
    eachThread_of_mtsr_merged fun _ => rfl, ?readOnly⟩
  case setkeyReg => exact eachThreadThenSettled_of_setKey fun _ => rfl
  case trap => exact eachThreadThenSettled_of_eachLane (fun _ => rfl) fun s t h ht hh _ => State.softTrap_spec ht hh 4
  case mfsrV => exact eachThread_of_lanes (fun _ => rfl) fun s t h ht hh _ => State.mfsrV_turn ht hh (t.view h) d.toNat sr.toNat
  case mfsrU =>
    intro s b t low hs hl
    obtain ⟨m, hturns, hsends⟩ := State.mfsrU_spec hs hl u.toNat sr.toNat
    exact ⟨_, _, m, _, s.readReg_spec t low (t.view low) sr.toNat, hturns, rfl, hsends⟩
  case readOnly =>
    intro s hsr
    exact ⟨congrArg Host.Outcome.next (s.mtsr_of_two_le hsr _), congrArg Host.Outcome.next (s.mtsr_of_two_le hsr _)⟩

end Sys2Proof.Machine

/-!
LAWS. The words of a format and their numbers (R71, R72): the magnitude bits are ordered as their numbers are, a magnitude that a word holds is
encoded by that word, and one beyond the largest overflows (O29).
-/

namespace Sys2Proof.Machine

open Sys2Proof

/-! ### The magnitudes of a format, in order -/

/-- Magnitude bits as a fraction with its hidden bit, and the exponent above the lowest. -/
theorem Fmt.bits_form (f : Fmt) (b : Nat) : ∃ n t, b = n + t * 2 ^ f.fb ∧ n < 2 ^ (f.fb + 1) ∧ (t = 0 ∨ 2 ^ f.fb ≤ n) := by
  have hdiv := Nat.div_add_mod' b (2 ^ f.fb)
  have hmod : b % 2 ^ f.fb < 2 ^ f.fb := Nat.mod_lt _ (by positivity)
  have hpow : 2 ^ (f.fb + 1) = 2 * 2 ^ f.fb := by ring
  rcases Nat.eq_zero_or_pos (b / 2 ^ f.fb) with h | h
  · exact ⟨b, 0, by omega, by rw [h] at hdiv; omega, .inl rfl⟩
  · obtain ⟨t, ht⟩ := Nat.exists_eq_succ_of_ne_zero h.ne'
    rw [ht, Nat.succ_mul] at hdiv
    exact ⟨2 ^ f.fb + b % 2 ^ f.fb, t, by omega, by omega, .inr (by omega)⟩

theorem Fmt.mag_strictMono (f : Fmt) : StrictMono f.mag := by
  refine strictMono_nat_of_lt_succ fun b => ?_
  obtain ⟨n, t, rfl, hn, ht⟩ := f.bits_form b
  have hnext := f.mag_add (n := n + 1) (t := t) hn (ht.imp id fun h => h.trans (Nat.le_succ n))
  rw [show n + t * 2 ^ f.fb + 1 = n + 1 + t * 2 ^ f.fb by omega, hnext, f.mag_add hn.le ht]
  exact mul_lt_mul_of_pos_right (by exact_mod_cast Nat.lt_succ_self n) (by positivity)

theorem Fmt.mag_nonneg (f : Fmt) (b : Nat) : 0 ≤ f.mag b := f.mag_zero ▸ f.mag_strictMono.monotone (Nat.zero_le b)

/-- The number of magnitude bits in the form of `Fmt.num_form`. -/
theorem Fmt.mag_form (f : Fmt) (b : Nat) : ∃ k t : Nat, k < 2 ^ (f.fb + 1) ∧ f.mag b = k * 2 ^ (f.qmin + t) := by
  obtain ⟨n, t, rfl, hn, ht⟩ := f.bits_form b
  exact ⟨n, t, hn, f.mag_add hn.le ht⟩

/-! ### Rounding against the order -/

/-- No magnitude of a format is nearer than the one that rounding to nearest gives, and of two as near it gives the even one. -/
theorem Fmt.magBits_rne_near (f : Fmt) (hf : 0 < f.fb) (s : Bool) {m : Nat} (hm : m ≠ 0) (e : ℤ) (b : Nat) :
    |f.mag (f.magBits .rne s m e) - m * 2 ^ e| ≤ |f.mag b - m * 2 ^ e| ∧
      (|f.mag (f.magBits .rne s m e) - m * 2 ^ e| = |f.mag b - m * 2 ^ e| → f.mag b ≠ f.mag (f.magBits .rne s m e) →
        f.magBits .rne s m e % 2 = 0) := by
  obtain ⟨n, hmag, hpar, near⟩ := f.magBits_rne hf s hm e
  obtain ⟨k, t, hk, hb⟩ := f.mag_form b
  have key := f.nearest_place hm near false (t := t) hk
  rw [show signOf false = 1 from rfl, one_mul] at key
  rw [hpar, hmag, hb]
  exact key

/-- A magnitude at or above a number of the format rounds to that number or above, and one at or below it to that number or below. -/
theorem Fmt.le_magBits (f : Fmt) (hf : 0 < f.fb) (s : Bool) {m : Nat} (hm : m ≠ 0) {e : ℤ} {b : Nat} (h : f.mag b ≤ m * 2 ^ e) :
    b ≤ f.magBits .rne s m e := by
  by_contra hlt
  have hmag := f.mag_strictMono (not_le.mp hlt)
  have near := (f.magBits_rne_near hf s hm e b).1
  rw [abs_of_nonpos (by linarith), abs_of_nonpos (by linarith)] at near
  linarith

theorem Fmt.magBits_le (f : Fmt) (hf : 0 < f.fb) (s : Bool) {m : Nat} (hm : m ≠ 0) {e : ℤ} {b : Nat} (h : m * 2 ^ e ≤ f.mag b) :
    f.magBits .rne s m e ≤ b := by
  by_contra hlt
  have hmag := f.mag_strictMono (not_le.mp hlt)
  have near := (f.magBits_rne_near hf s hm e b).1
  rw [abs_of_nonneg (by linarith), abs_of_nonneg (by linarith)] at near
  linarith

/-- A number of the format is encoded by its own magnitude bits. -/
theorem Fmt.magBits_of_mag (f : Fmt) (hf : 0 < f.fb) (s : Bool) {m : Nat} (hm : m ≠ 0) {e : ℤ} {b : Nat} (h : m * 2 ^ e = f.mag b) :
    f.magBits .rne s m e = b :=
  le_antisymm (f.magBits_le hf s hm h.le) (f.le_magBits hf s hm h.ge)

/-- The word of a finite value, by its magnitude bits. -/
theorem Fmt.enc_rne_fin (f : Fmt) (s : Bool) {m : Nat} (hm : m ≠ 0) (e : ℤ) :
    f.enc .rne false (.fin s m e) = f.signBit s + min (f.magBits .rne s m e) f.infBits := by
  unfold Fmt.enc
  dsimp only
  rw [if_neg hm]
  congr 1
  split
  · next h => rw [min_eq_left h.le]
  · next h => exact (min_eq_right (not_lt.mp h)).symm

/-! ### Words that are encoded again (O29) -/

/-- A word of a format is its sign and its magnitude bits. -/
theorem Fmt.word_form (f : Fmt) {x : Nat} (hx : x < 2 ^ (f.eb + f.fb + 1)) : ∃ s b, x = f.signBit s + b ∧ b < 2 ^ (f.eb + f.fb) := by
  rw [pow_succ] at hx
  rcases lt_or_ge x (2 ^ (f.eb + f.fb)) with h | h
  · exact ⟨false, x, (Nat.zero_add x).symm, h⟩
  · exact ⟨true, x - 2 ^ (f.eb + f.fb), by simp only [Fmt.signBit, if_true]; omega, by omega⟩

/-- Every word that is no NaN is the encoding of its value. -/
theorem Fmt.enc_dec (f : Fmt) (hf : 0 < f.fb) {x : Nat} (hx : x < 2 ^ (f.eb + f.fb + 1)) (hnan : (f.dec x).isNan = false) :
    f.enc .rne false (f.dec x) = x := by
  obtain ⟨s, b, rfl, hb⟩ := f.word_form hx
  have hdec := f.dec_signBit_add s hb
  have hparts := Nat.div_add_mod' b (2 ^ f.fb)
  by_cases htop : b / 2 ^ f.fb = 2 ^ f.eb - 1
  · rw [if_pos htop] at hdec
    rw [htop] at hparts
    by_cases hfrac : b % 2 ^ f.fb = 0
    · rw [hdec, if_pos hfrac, ← hparts, hfrac]
      rfl
    · rw [hdec, if_neg hfrac] at hnan
      exact absurd hnan (by decide)
  · rw [if_neg htop] at hdec
    have he : b / 2 ^ f.fb < 2 ^ f.eb - 1 := by
      have : b / 2 ^ f.fb < 2 ^ f.eb := (Nat.div_lt_iff_lt_mul (by positivity)).mpr (by rwa [← pow_add])
      omega
    have hinf : b < f.infBits := (Nat.div_lt_iff_lt_mul (by positivity)).mp he
    have hnum := f.finite_num s b
    rw [hdec]
    obtain ⟨s', m, e, hv⟩ : ∃ s' m e, f.finite s (b / 2 ^ f.fb) (b % 2 ^ f.fb) = .fin s' m e := by
      unfold Fmt.finite
      split <;> exact ⟨_, _, _, rfl⟩
    obtain rfl : s' = s := by
      unfold Fmt.finite at hv
      split at hv <;> (injection hv with h1; exact h1.symm)
    rw [hv, Val.num_fin] at hnum
    have hmag : (m : ℚ) * 2 ^ e = f.mag b := by
      have hs : signOf s' ≠ 0 := fun h => by simpa [h] using signOf_mul_self s'
      exact mul_left_cancel₀ hs (Option.some.inj hnum)
    rw [hv]
    rcases eq_or_ne m 0 with rfl | hm
    · rw [Nat.cast_zero, zero_mul, ← f.mag_zero] at hmag
      obtain rfl := f.mag_strictMono.injective hmag
      rfl
    · rw [f.enc_rne_fin s' hm, f.magBits_of_mag hf s' hm hmag, min_eq_left hinf.le]

theorem encF32_decF32 {x : Word} (hx : (decF32 x).isNan = false) : encF32 (decF32 x) = x :=
  BitVec.eq_of_toNat_eq ((Nat.mod_eq_of_lt (fp32_enc_lt _)).trans (fp32.enc_dec (by decide) x.isLt hx))

theorem Val.eq_nan_of_isNan {v : Val} (h : v.isNan = true) : v = .nan := by
  cases v with
  | nan => rfl
  | inf s => exact nomatch h
  | fin s m e => exact nomatch h

/-- The infinity's magnitude bits, read as those of a number, are 2^128. -/
theorem fp32_mag_infBits : fp32.mag fp32.infBits = 2 ^ 128 := by
  have h := fp32.mag_add (n := 2 ^ 23) (t := 254) (by decide) (.inr le_rfl)
  rw [show 2 ^ 23 + 254 * 2 ^ fp32.fb = fp32.infBits by decide, show fp32.qmin + (254 : ℕ) = 105 by decide] at h
  rw [h]
  norm_num

theorem encF32_of_overflow (s : Bool) {m : Nat} {e : ℤ} (h : 2 ^ 128 ≤ (m : ℚ) * 2 ^ e) : encF32 (.fin s m e) = signedInf s := by
  have hm : m ≠ 0 := by
    rintro rfl
    norm_num at h
  have hb : fp32.infBits ≤ fp32.magBits .rne s m e := fp32.le_magBits (by decide) s hm (fp32_mag_infBits.trans_le h)
  unfold encF32
  rw [fp32.enc_rne_fin s hm, min_eq_right hb]
  cases s <;> decide

/-- Settles O29: a word's value has its magnitude bits, which rounding keeps; a magnitude of 2^128 or more is at or beyond the infinity's. -/
theorem singleEncoding : Obligations.SingleEncoding := by
  refine ⟨fun x => encF32_decF32, fun x hx => ?_, fun s m e => encF32_of_overflow s⟩
  rw [Val.eq_nan_of_isNan hx]
  decide

end Sys2Proof.Machine

/-!
LAWS. Narrow formats (R73 to R76, R83, R85): their numbers are FP32 numbers, the fields of a byte give its number, and a conversion to one of
them gives the nearest number of the format, even where two are as near (O24).
-/

namespace Sys2Proof.Machine

open Sys2Proof

/-! ### Values that FP32 holds -/

/-- A finite value has at most 24 bits, all of them at places of FP32. -/
def Val.FitsSingle (v : Val) : Prop := ∀ s m e, v = .fin s m e → ∃ k : Nat, k ≤ 24 ∧ m < 2 ^ k ∧ -149 ≤ e ∧ k + e ≤ 128

theorem decF32_encF32 (v : Val) : decF32 (encF32 v) = fp32.dec (fp32.enc .rne false v) :=
  congrArg fp32.dec (Nat.mod_eq_of_lt (fp32_enc_lt v))

/-- Nothing is lost where no bit lies below the last place kept. -/
theorem Fmt.mag_magBits_of_place_le (f : Fmt) (hf : 0 < f.fb) (s : Bool) {m : Nat} (hm : m ≠ 0) {e : ℤ} (h : f.place m e ≤ e) :
    f.mag (f.magBits .rne s m e) = m * 2 ^ e := by
  obtain ⟨n, hmag, -, near⟩ := f.magBits_rne hf s hm e
  have hx := mul_zpow_min m e _ h
  have key := (near (m * 2 ^ (e - f.place m e).toNat : ℕ)).1
  rw [Int.cast_natCast, ← hx, sub_self, abs_zero, abs_nonpos_iff, sub_eq_zero] at key
  exact hmag.trans key

theorem decF32_encF32_num {v : Val} (hv : v.FitsSingle) {x : ℚ} (hx : v.num = some x) : (decF32 (encF32 v)).num = some x := by
  obtain ⟨s, m, e, rfl, rfl⟩ := Val.num_eq_some hx
  rw [decF32_encF32]
  rcases eq_or_ne m 0 with rfl | hm
  · rw [show fp32.enc .rne false (.fin s 0 e) = fp32.signBit s + 0 from rfl, fp32.dec_num s (by decide), fp32.mag_zero, Nat.cast_zero, zero_mul]
  · obtain ⟨k, hk, hmk, he, hke⟩ := hv s m e rfl
    have hlog : m.log2 < k := (Nat.log2_lt hm).mpr hmk
    have hplace : fp32.place m e ≤ e := by
      refine max_le ?_ ?_
      · rw [show fp32.qmin = -149 by decide]
        exact he
      · rw [show (fp32.fb : ℤ) = 23 by decide]
        omega
    have hmag := fp32.mag_magBits_of_place_le (by decide) s hm hplace
    have hlt : fp32.mag (fp32.magBits .rne s m e) < fp32.mag fp32.infBits := by
      rw [hmag, fp32_mag_infBits]
      refine (mul_zpow_lt_of_log2 m e).trans_le ?_
      rw [← zpow_natCast]
      exact zpow_le_zpow_right₀ (by norm_num) (by push_cast; omega)
    have hb := fp32.mag_strictMono.lt_iff_lt.mp hlt
    rw [fp32.enc_rne_fin s hm, min_eq_left hb.le, fp32.dec_num s hb, hmag]

theorem fitsSingle_nan : Val.nan.FitsSingle := fun _ _ _ h => nomatch h
theorem fitsSingle_inf (s : Bool) : (Val.inf s).FitsSingle := fun _ _ _ h => nomatch h
theorem fitsSingle_fin {s : Bool} {m k : Nat} {e : ℤ} (hk : k ≤ 24) (hm : m < 2 ^ k) (he : -149 ≤ e) (hke : k + e ≤ 128) :
    (Val.fin s m e).FitsSingle := by
  intro s' m' e' h
  injection h with _ h2 h3
  subst h2 h3
  exact ⟨k, hk, hm, he, hke⟩

theorem Fmt.finite_fitsSingle (f : Fmt) (s : Bool) {e m : Nat} (hm : m < 2 ^ f.fb) (hf : f.fb + 1 ≤ 24) (hq : -149 ≤ f.qmin)
    (htop : ((f.fb + 1 : ℕ) : ℤ) + (f.qmin + (e - 1 : ℕ)) ≤ 128) : (f.finite s e m).FitsSingle := by
  have hpow : 2 ^ (f.fb + 1) = 2 * 2 ^ f.fb := by ring
  unfold Fmt.finite
  split
  · exact fitsSingle_fin hf (by omega) hq (by omega)
  · exact fitsSingle_fin hf (by omega) (by omega) htop

theorem Fmt.dec_fitsSingle (f : Fmt) (x : Nat) (hf : f.fb + 1 ≤ 24) (hq : -149 ≤ f.qmin)
    (htop : ((f.fb + 1 : ℕ) : ℤ) + (f.qmin + (2 ^ f.eb - 3 : ℕ)) ≤ 128) : (f.dec x).FitsSingle := by
  have he : x / 2 ^ f.fb % 2 ^ f.eb < 2 ^ f.eb := Nat.mod_lt _ (by positivity)
  unfold Fmt.dec
  dsimp only
  split
  · split
    · exact fitsSingle_inf _
    · exact fitsSingle_nan
  · exact f.finite_fitsSingle _ (Nat.mod_lt _ (by positivity)) hf hq (by omega)

theorem decE4m3_fitsSingle (b : Nat) : (decE4m3 b).FitsSingle := by
  unfold decE4m3
  split
  · exact fitsSingle_nan
  · refine e4m3.finite_fitsSingle _ (Nat.mod_lt _ (by decide)) (by decide) (by decide) ?_
    rw [show e4m3.qmin = -9 by decide, show e4m3.fb = 3 by decide]
    omega

theorem decE8m0_fitsSingle (b : Nat) : (decE8m0 b).FitsSingle := by
  unfold decE8m0
  split
  · exact fitsSingle_nan
  · exact fitsSingle_fin (k := 1) (by decide) (by decide) (by omega) (by omega)

theorem runLength_le (n x b : Nat) : runLength n x b ≤ n := by
  induction n with
  | zero => exact le_rfl
  | succ n ih =>
    unfold runLength
    split <;> omega

theorem taperDec_fitsSingle (n es x : Nat) (hn : n ≤ 23) (hes : (n : ℤ) * 2 ^ es ≤ 100) : (taperDec n es x).FitsSingle := by
  have hrun := runLength_le n (x % 2 ^ n) (x % 2 ^ n / 2 ^ (n - 1) % 2)
  unfold taperDec
  dsimp only
  split
  · split
    · exact fitsSingle_nan
    · exact fitsSingle_fin (k := 0) (by decide) (by decide) (by decide) (by decide)
  · next hmag =>
    unfold taperMag
    dsimp only
    rw [if_neg hmag]
    generalize runLength n (x % 2 ^ n) (x % 2 ^ n / 2 ^ (n - 1) % 2) = k at *
    generalize hkk : (if x % 2 ^ n / 2 ^ (n - 1) % 2 = 1 then (k : ℤ) - 1 else -k) = kk
    generalize he : (if es = 0 then 0 else if n - (k + 1) = 0 then 0 else x % 2 ^ n / 2 ^ (n - (k + 1) - 1) % 2) = e
    have hn0 : n ≠ 0 := by
      rintro rfl
      exact hmag (Nat.mod_one x)
    have hlow : -(n : ℤ) ≤ kk := by split at hkk <;> omega
    have hhigh : kk ≤ n := by split at hkk <;> omega
    have hele : e ≤ 1 := by
      rw [← he]
      split_ifs <;> omega
    have hpow : (0 : ℤ) < 2 ^ es := by positivity
    have h1 := mul_le_mul_of_nonneg_right hlow hpow.le
    rw [neg_mul] at h1
    have h2 := mul_le_mul_of_nonneg_right hhigh hpow.le
    have hfrac : x % 2 ^ n % 2 ^ (n - (k + 1) - es) < 2 ^ (n - (k + 1) - es) := Nat.mod_lt _ (by positivity)
    refine fitsSingle_fin (k := n - (k + 1) - es + 1) (by omega) (by rw [pow_succ]; omega) (by omega) (by omega)

theorem ofInt_fitsSingle {n : ℤ} (h : n.natAbs < 2 ^ 24) : (Val.ofInt n).FitsSingle :=
  fitsSingle_fin (k := 24) le_rfl h (by decide) (by decide)

/-- The codes of the sources of at most 16 bits. -/
theorem srcVal_fitsSingle {f : Nat} (hf : 1 ≤ f) (hf' : f ≤ 11) (sel : Nat) (a : Word) (p : Dword) : (srcVal f sel a p).FitsSingle := by
  have hb : byteOf a sel < 256 := Nat.mod_lt _ (by decide)
  have hu := fun h : BitVec 16 => h.isLt
  have hi : ∀ h : BitVec 16, h.toInt.natAbs < 2 ^ 24 := fun h => by
    have := h.toInt_lt
    have := h.le_toInt
    omega
  interval_cases f
  · exact fp16.dec_fitsSingle _ (by decide) (by decide) (by decide)
  · exact bf16.dec_fitsSingle _ (by decide) (by decide) (by decide)
  · exact decE4m3_fitsSingle _
  · exact e5m2.dec_fitsSingle _ (by decide) (by decide) (by decide)
  · exact taperDec_fitsSingle _ _ _ (by decide) (by decide)
  · exact taperDec_fitsSingle _ _ _ (by decide) (by decide)
  · exact decE8m0_fitsSingle _
  · refine ofInt_fitsSingle (n := sx 8 (byteOf a sel)) ?_
    unfold sx
    split <;> omega
  · exact ofInt_fitsSingle (n := (byteOf a sel : ℤ)) (by omega)
  · exact ofInt_fitsSingle (hi _)
  · exact ofInt_fitsSingle (by have := hu (if sel % 2 = 0 then h0 a else h1 a); omega)

/-- A conversion to FP32 with round to nearest writes the encoding of its source. -/
theorem cvtToF32_yields (c : BitVec 1) (g : BitVec 3) (d a : BitVec 6) (e : BitVec 2) (f : BitVec 4) (hf : 1 ≤ f.toNat) (hf' : f.toNat ≤ 11) :
    YieldsSuch (.cvtToF32 c g d a 0 e f) g d.toNat fun w x =>
      ∀ q, (srcVal f.toNat e.toNat (w.rd a.toNat) (w.pair a.toNat)).num = some q → (decF32 x).num = some q :=
  perThread_of_vec (fun _ => rfl) fun _ h =>
    ⟨_, fun _ hq => decF32_encF32_num (srcVal_fitsSingle hf hf' _ _ _) hq, h.sets_reg d.toNat _⟩

/-! ### The fields of a byte -/

theorem signOf_eq_pow {s : Nat} (hs : s ≤ 1) : signOf (s == 1) = (-1) ^ s := by
  interval_cases s <;> norm_num [signOf]

/-- The number of the fields of a finite word: a normal one, and a subnormal one. -/
theorem Fmt.finite_num_normal (f : Fmt) {s e : Nat} (hs : s ≤ 1) (he : 1 ≤ e) (m : Nat) {bias : ℤ} (hb : (f.bias : ℤ) = bias) {one : ℚ}
    (h1 : (2 : ℚ) ^ f.fb = one) : (f.finite (s == 1) e m).num = some ((-1) ^ s * (2 : ℚ) ^ ((e : ℤ) - bias) * (1 + m / one)) := by
  have h0 : one ≠ 0 := h1 ▸ by positivity
  have hexp : (2 : ℚ) ^ ((e : ℤ) - bias) = one * 2 ^ (f.qmin + (e - 1 : ℕ)) := by
    rw [← h1, ← zpow_natCast, ← zpow_add₀ (by norm_num), ← hb]
    unfold Fmt.qmin
    congr 1
    omega
  unfold Fmt.finite
  rw [if_neg (by omega), Val.num_fin, signOf_eq_pow hs, hexp]
  push_cast
  rw [h1]
  congr 1
  field_simp

theorem Fmt.finite_num_subnormal (f : Fmt) {s : Nat} (hs : s ≤ 1) (m : Nat) {low : ℤ} (hb : 1 - (f.bias : ℤ) = low) {one : ℚ}
    (h1 : (2 : ℚ) ^ f.fb = one) : (f.finite (s == 1) 0 m).num = some ((-1) ^ s * (2 : ℚ) ^ low * (m / one)) := by
  have h0 : one ≠ 0 := h1 ▸ by positivity
  have hexp : (2 : ℚ) ^ low = one * 2 ^ f.qmin := by
    rw [← h1, ← zpow_natCast, ← zpow_add₀ (by norm_num), ← hb]
    unfold Fmt.qmin
    congr 1
    omega
  unfold Fmt.finite
  rw [if_pos rfl, Val.num_fin, signOf_eq_pow hs, hexp]
  congr 1
  field_simp

theorem decE4m3_fields {s e m : Nat} (hs : s ≤ 1) (he : e < 16) (hm : m < 8) :
    decE4m3 (128 * s + 8 * e + m) = if e = 15 ∧ m = 7 then .nan else e4m3.finite (s == 1) e m := by
  have hsign : decide ((128 * s + 8 * e + m) / 128 % 2 = 1) = (s == 1) := by
    rw [show (128 * s + 8 * e + m) / 128 % 2 = s by omega]
    rfl
  unfold decE4m3
  rw [hsign, show (128 * s + 8 * e + m) / 8 % 16 = e by omega, show (128 * s + 8 * e + m) % 8 = m by omega]
  exact if_congr (by omega) rfl rfl

theorem decE5m2_fields {s e m : Nat} (hs : s ≤ 1) (he : e < 32) (hm : m < 4) :
    e5m2.dec (128 * s + 4 * e + m) = if e = 31 then (if m = 0 then .inf (s == 1) else .nan) else e5m2.finite (s == 1) e m := by
  have hsign : e5m2.signBit (s == 1) = 128 * s := by interval_cases s <;> rfl
  have key := e5m2.dec_signBit_add (s == 1) (b := 4 * e + m) (by rw [show e5m2.eb + e5m2.fb = 7 from rfl]; omega)
  rw [show 2 ^ e5m2.fb = 4 from rfl, show 2 ^ e5m2.eb - 1 = 31 from rfl, show (4 * e + m) / 4 = e by omega, show (4 * e + m) % 4 = m by omega,
    hsign, ← Nat.add_assoc] at key
  exact key

theorem decE8m0_num {b : Nat} (hb : b ≤ 254) : (decE8m0 b).num = some ((2 : ℚ) ^ ((b : ℤ) - 127)) := by
  unfold decE8m0
  rw [if_neg (by omega), Nat.mod_eq_of_lt (by omega), Val.num_fin, show signOf false = 1 from rfl, one_mul, Nat.cast_one, one_mul]

/-- A byte of T8 with a run of `k` bits `r`, an exponent bit and a fraction. -/
theorem decT8_fields : ∀ k ∈ List.range' 1 5, ∀ r : ℕ, r < 2 → ∀ e : ℕ, e < 2 → ∀ f : ℕ, f < 2 ^ (5 - k) → ∀ s : ℕ, s < 2 →
    decT8 (128 * s + (if r = 1 then (2 ^ k - 1) * 2 ^ (7 - k) else 2 ^ (6 - k)) + e * 2 ^ (5 - k) + f) =
      .fin (s == 1) (2 ^ (5 - k) + f) (2 * (if r = 1 then (k : ℤ) - 1 else -k) + e - (5 - k : ℕ)) := by
  decide +kernel

theorem decT8_long_run : ∀ s < 2, ∀ r < 2,
    decT8 (128 * s + if r = 1 then 0x7E else 1) = .fin (s == 1) 1 (2 * if r = 1 then (6 : ℤ) - 1 else -6) := by
  decide +kernel

theorem decT6_fields : ∀ k ∈ List.range' 1 4, ∀ r : ℕ, r < 2 → ∀ f : ℕ, f < 2 ^ (4 - k) → ∀ s : ℕ, s < 2 →
    decT6 (32 * s + (if r = 1 then (2 ^ k - 1) * 2 ^ (5 - k) else 2 ^ (4 - k)) + f) =
      .fin (s == 1) (2 ^ (4 - k) + f) ((if r = 1 then (k : ℤ) - 1 else -k) - (4 - k : ℕ)) := by
  decide +kernel

theorem decT8_all_ones : ∀ s < 2, decT8 (128 * s + 0x7F) = .fin (s == 1) 1 12 := by decide +kernel
theorem decT6_all_ones : ∀ s < 2, decT6 (32 * s + 0x1F) = .fin (s == 1) 1 4 := by decide +kernel

/-- The number of a hidden bit, a fraction of `w` bits and an exponent. -/
theorem num_hidden_fraction {s : Nat} (hs : s ≤ 1) (w f : Nat) (e : ℤ) :
    (Val.fin (s == 1) (2 ^ w + f) (e - w)).num = some ((-1) ^ s * (2 : ℚ) ^ e * (1 + f / 2 ^ w)) := by
  rw [Val.num_fin, signOf_eq_pow hs, zpow_sub₀ (by norm_num), zpow_natCast]
  push_cast
  congr 1
  field_simp

theorem four_zpow (k : ℤ) : (4 : ℚ) ^ k = 2 ^ (2 * k) := by
  rw [zpow_mul]
  norm_num

/-- The number of a power of two. -/
theorem num_power {s : Nat} (hs : s ≤ 1) (e : ℤ) : (Val.fin (s == 1) 1 e).num = some ((-1) ^ s * (2 : ℚ) ^ e) := by
  rw [Val.num_fin, signOf_eq_pow hs, Nat.cast_one, one_mul]

end Sys2Proof.Machine

/-!
LAWS. Conversions to the narrow formats (R83, R85): rounding to nearest among the magnitudes of a format, saturating at its largest, and the number
of the word that it gives (O24).
-/

namespace Sys2Proof.Machine

open Sys2Proof

/-! ### The nearest of the magnitudes up to a largest -/

/-- Of the magnitudes of the words up to `top`, that of `k` is nearest to `x`, and `k` is even where another is as near. -/
def NearestMag (mag : Nat → ℚ) (top : Nat) (x : ℚ) (k : Nat) : Prop :=
  k ≤ top ∧ ∀ b ≤ top, |mag k - x| ≤ |mag b - x| ∧ (|mag k - x| = |mag b - x| → mag b ≠ mag k → k % 2 = 0)

theorem NearestMag.zero {mag : Nat → ℚ} (h0 : mag 0 = 0) (top : Nat) : NearestMag mag top 0 0 := by
  refine ⟨Nat.zero_le _, fun b _ => ⟨?_, fun _ _ => rfl⟩⟩
  rw [h0, sub_zero, abs_zero]
  exact abs_nonneg _

/-- A word whose magnitude is the nearest, with the sign of the value, holds the nearest number: numbers of the other sign lie beyond zero. -/
theorem NearestMag.nearest {mag : Nat → ℚ} {dec : Nat → Val} {n top k w : Nat} {x : ℚ} {s : Bool} (h : NearestMag mag top x k) (h0 : mag 0 = 0)
    (hpos : ∀ b, 0 ≤ mag b) (hx : 0 ≤ x) (hdec : ∀ u < n, ∀ y, (dec u).num = some y → ∃ a, ∃ b ≤ top, y = signOf a * mag b) (hw : w < n)
    (hr : (dec w).num = some (signOf s * mag k)) (hpar : w % 2 = k % 2) : Nearest dec n (signOf s * x) w := by
  have flip : ∀ z : ℚ, |signOf s * z - signOf s * x| = |z - x| := fun z => by rw [← mul_sub, abs_mul, abs_signOf, one_mul]
  refine ⟨hw, _, hr, fun u y hu hy => ?_⟩
  obtain ⟨a, b, hb, rfl⟩ := hdec u hu y hy
  rw [hpar]
  by_cases hs : a = s
  · subst hs
    rw [flip, flip]
    exact ⟨(h.2 b hb).1, fun h1 h2 => (h.2 b hb).2 h1 fun h3 => h2 (by rw [h3])⟩
  · obtain rfl : a = !s := by revert hs; cases a <;> cases s <;> simp
    have hy : signOf (!s) * mag b = signOf s * -mag b := by rw [signOf_not]; ring
    have hbeyond : |(-mag b) - x| = mag b + x := by
      rw [abs_of_nonpos (by linarith [hpos b])]
      ring
    have hzero := h.2 0 (Nat.zero_le _)
    rw [h0, zero_sub, abs_neg, abs_of_nonneg hx] at hzero
    rw [hy, flip, flip, hbeyond]
    refine ⟨hzero.1.trans (by linarith [hpos b]), fun h1 h2 => hzero.2 (le_antisymm hzero.1 (by linarith [hpos b])) fun h3 => h2 ?_⟩
    have hb0 : mag b = 0 := le_antisymm (by linarith [hzero.1]) (hpos b)
    rw [hb0, ← h3, neg_zero]

/-! ### E4M3 and E5M2 -/

/-- Rounding to nearest that saturates gives the nearest of the magnitudes up to the largest. -/
theorem Fmt.clamped_nearest (f : Fmt) (hf : 0 < f.fb) (s : Bool) {m : Nat} (hm : m ≠ 0) (e : ℤ) (top : Nat) :
    NearestMag f.mag top (m * 2 ^ e) (min top (f.magBits .rne s m e)) := by
  refine ⟨min_le_left _ _, fun b hb => ?_⟩
  rcases le_or_gt (f.magBits .rne s m e) top with h | h
  · rw [min_eq_right h]
    exact f.magBits_rne_near hf s hm e b
  · rw [min_eq_left h.le]
    have hx : f.mag top < m * 2 ^ e := by
      by_contra hle
      exact absurd (f.magBits_le hf s hm (not_lt.mp hle)) (by omega)
    have hmono := f.mag_strictMono.monotone hb
    rw [abs_of_nonpos (by linarith), abs_of_nonpos (by linarith)]
    exact ⟨by linarith, fun h1 h2 => absurd (by linarith : f.mag b = f.mag top) h2⟩

theorem decE4m3_num_form {u : Nat} {y : ℚ} (h : (decE4m3 u).num = some y) : ∃ a, ∃ b ≤ 126, y = signOf a * e4m3.mag b := by
  unfold decE4m3 at h
  split at h
  · exact nomatch h
  · have key := e4m3.finite_num (decide (u / 128 % 2 = 1)) (u % 128)
    rw [show 2 ^ e4m3.fb = 8 from rfl, show u % 128 / 8 = u / 8 % 16 by omega, show u % 128 % 8 = u % 8 by omega, h] at key
    exact ⟨_, u % 128, by omega, Option.some.inj key⟩

theorem decE4m3_signBit_add (s : Bool) {b : Nat} (hb : b ≤ 126) : (decE4m3 (e4m3.signBit s + b)).num = some (signOf s * e4m3.mag b) := by
  have hsign : e4m3.signBit s = if s then 128 else 0 := rfl
  have key := e4m3.finite_num s b
  have hs : decide ((e4m3.signBit s + b) / 128 % 2 = 1) = s := by cases s <;> simp [hsign] <;> omega
  have hlow : e4m3.signBit s % 128 = 0 := by cases s <;> rfl
  unfold decE4m3
  rw [if_neg (by omega), hs, show (e4m3.signBit s + b) / 8 % 16 = b / 8 by omega, show (e4m3.signBit s + b) % 8 = b % 8 by omega]
  exact key

theorem encE4m3_nearest {v : Val} {x : ℚ} (hv : v.num = some x) : Nearest decE4m3 256 x (encE4m3 v) := by
  obtain ⟨s, m, e, rfl, rfl⟩ := Val.num_eq_some hv
  obtain ⟨k, hk, henc⟩ : ∃ k, NearestMag e4m3.mag 126 (m * 2 ^ e) k ∧ encE4m3 (.fin s m e) = e4m3.signBit s + k := by
    rcases eq_or_ne m 0 with rfl | hm
    · refine ⟨0, ?_, rfl⟩
      rw [Nat.cast_zero, zero_mul]
      exact .zero e4m3.mag_zero _
    · exact ⟨_, e4m3.clamped_nearest (by decide) s hm e 126, if_neg hm⟩
  have hle : e4m3.signBit s ≤ 128 := by cases s <;> decide
  have hpar : e4m3.signBit s % 2 = 0 := by cases s <;> rfl
  have htop := hk.1
  rw [henc]
  exact hk.nearest e4m3.mag_zero e4m3.mag_nonneg (by positivity) (fun u _ y => decE4m3_num_form) (by omega) (decE4m3_signBit_add s htop) (by omega)

theorem decE5m2_num_form {u : Nat} (hu : u < 256) {y : ℚ} (h : (e5m2.dec u).num = some y) : ∃ a, ∃ b ≤ 123, y = signOf a * e5m2.mag b := by
  obtain ⟨s, b, rfl, hb⟩ := e5m2.word_form hu
  rcases lt_or_ge b e5m2.infBits with hlt | hge
  · rw [e5m2.dec_num s hlt] at h
    exact ⟨s, b, Nat.le_of_lt_succ hlt, (Option.some.inj h).symm⟩
  · have hb' : b < 128 := hb
    have hge' : 124 ≤ b := hge
    rw [e5m2.dec_signBit_add s hb, if_pos (show b / 2 ^ e5m2.fb = 2 ^ e5m2.eb - 1 from (by omega : b / 4 = 31))] at h
    split at h <;> exact nomatch h

/-- The largest number of E5M2 is 57344, and the magnitude bits of its infinity read as those of a number are 65536. -/
theorem e5m2_mag_top : e5m2.mag 123 = 57344 ∧ e5m2.mag 124 = 65536 := by
  have h1 := e5m2.mag_add (n := 7) (t := 29) (by decide) (.inr (by decide))
  have h2 := e5m2.mag_add (n := 4) (t := 30) (by decide) (.inr (by decide))
  rw [show 7 + 29 * 2 ^ e5m2.fb = 123 from rfl, show e5m2.qmin + (29 : ℕ) = 13 by decide] at h1
  rw [show 4 + 30 * 2 ^ e5m2.fb = 124 from rfl, show e5m2.qmin + (30 : ℕ) = 14 by decide] at h2
  rw [h1, h2]
  norm_num

/-- Below the midpoint of the largest number and the next power of two a magnitude rounds to a number, and from there on it overflows: the largest
number's word is odd. -/
theorem e5m2_magBits_le {s : Bool} {m : Nat} (hm : m ≠ 0) {e : ℤ} (h : (m : ℚ) * 2 ^ e < 61440) : e5m2.magBits .rne s m e ≤ 123 := by
  obtain ⟨h123, h124⟩ := e5m2_mag_top
  rcases le_or_gt ((m : ℚ) * 2 ^ e) 57344 with hx | hx
  · exact e5m2.magBits_le (by decide) s hm (hx.trans h123.ge)
  · by_contra hb
    have hmag := e5m2.mag_strictMono.monotone (show 124 ≤ e5m2.magBits .rne s m e by omega)
    have near := (e5m2.magBits_rne_near (by decide) s hm e 123).1
    rw [abs_of_nonneg (by linarith), abs_of_nonpos (by linarith)] at near
    linarith

theorem e5m2_le_magBits {s : Bool} {m : Nat} (hm : m ≠ 0) {e : ℤ} (h : 61440 ≤ (m : ℚ) * 2 ^ e) : 124 ≤ e5m2.magBits .rne s m e := by
  obtain ⟨h123, h124⟩ := e5m2_mag_top
  rcases le_or_gt 65536 ((m : ℚ) * 2 ^ e) with hx | hx
  · exact e5m2.le_magBits (by decide) s hm (h124.trans_le hx)
  · by_contra hb
    have hmag := e5m2.mag_strictMono.monotone (show e5m2.magBits .rne s m e ≤ 123 by omega)
    obtain ⟨near, tie⟩ := e5m2.magBits_rne_near (by decide) s hm e 124
    rw [abs_of_nonpos (by linarith), abs_of_nonneg (by linarith)] at near tie
    have hodd : e5m2.magBits .rne s m e = 123 := e5m2.mag_strictMono.injective (by linarith)
    have heven := tie (by linarith) (by linarith)
    rw [hodd] at heven
    exact absurd heven (by decide)

theorem encE5m2_fin (sat s : Bool) {m : Nat} (hm : m ≠ 0) (e : ℤ) : encE5m2 sat (.fin s m e) =
    e5m2.signBit s + if e5m2.magBits .rne s m e < 124 then e5m2.magBits .rne s m e else if sat then 123 else 124 := by
  unfold encE5m2 Fmt.enc
  dsimp only
  rw [if_neg hm, show e5m2.infBits = 124 from rfl]
  cases sat <;> rfl

theorem encE5m2_nearest {v : Val} {x : ℚ} (hv : v.num = some x) {sat : Bool} (hx : sat = true ∨ |x| < 61440) :
    Nearest e5m2.dec 256 x (encE5m2 sat v) := by
  obtain ⟨s, m, e, rfl, rfl⟩ := Val.num_eq_some hv
  rw [abs_mul, abs_signOf, one_mul, abs_of_nonneg (by positivity)] at hx
  obtain ⟨k, hk, henc⟩ : ∃ k, NearestMag e5m2.mag 123 (m * 2 ^ e) k ∧ encE5m2 sat (.fin s m e) = e5m2.signBit s + k := by
    rcases eq_or_ne m 0 with rfl | hm
    · refine ⟨0, ?_, rfl⟩
      rw [Nat.cast_zero, zero_mul]
      exact .zero e5m2.mag_zero _
    · refine ⟨_, e5m2.clamped_nearest (by decide) s hm e 123, ?_⟩
      rw [encE5m2_fin sat s hm]
      congr 1
      split
      · omega
      · next h =>
        rw [if_pos (hx.resolve_right fun hlt => h (Nat.lt_succ_of_le (e5m2_magBits_le hm hlt)))]
        omega
  have hle : e5m2.signBit s ≤ 128 := by cases s <;> decide
  have hpar : e5m2.signBit s % 2 = 0 := by cases s <;> rfl
  have htop := hk.1
  rw [henc]
  exact hk.nearest e5m2.mag_zero e5m2.mag_nonneg (by positivity) (fun u hu y => decE5m2_num_form hu) (by omega)
    (e5m2.dec_num s (Nat.lt_succ_of_le htop)) (by omega)

theorem signOf_mul_neg_iff {s : Bool} {x : ℚ} (hx : 0 < x) : signOf s * x < 0 ↔ s = true := by
  cases s
  · simpa [signOf] using hx.le
  · simpa [signOf] using hx

theorem encE5m2_overflow {v : Val} {x : ℚ} (hv : v.num = some x) (hx : 61440 ≤ |x|) :
    e5m2.dec (encE5m2 false v) = .inf (decide (x < 0)) := by
  obtain ⟨s, m, e, rfl, rfl⟩ := Val.num_eq_some hv
  rw [abs_mul, abs_signOf, one_mul, abs_of_nonneg (by positivity)] at hx
  have hm : m ≠ 0 := by
    rintro rfl
    norm_num at hx
  have hsign : decide (signOf s * (m * 2 ^ e) < 0) = s := by
    simp only [signOf_mul_neg_iff (show 0 < (m : ℚ) * 2 ^ e by linarith), Bool.decide_eq_true]
  have hb := e5m2_le_magBits (s := s) hm hx
  rw [encE5m2_fin false s hm, if_neg (by omega), hsign]
  exact e5m2.dec_infBits s

/-! ### Tapered formats -/

theorem magLe_iff (m : Nat) (e : ℤ) (n : Nat) (f : ℤ) : magLe m e n f = true ↔ (m : ℚ) * 2 ^ e ≤ n * 2 ^ f := by
  have hu : (0 : ℚ) < 2 ^ min e f := by positivity
  unfold magLe
  rw [decide_eq_true_iff, mul_zpow_min m e _ (min_le_left e f), mul_zpow_min n f _ (min_le_right e f), mul_le_mul_iff_left₀ hu, Nat.cast_le]

/-- The number of a magnitude word of a tapered format. -/
def taperNum (n es b : Nat) : ℚ := (taperMag n es b).1 * 2 ^ (taperMag n es b).2

theorem taperNum_zero (n es : Nat) : taperNum n es 0 = 0 := by
  unfold taperNum taperMag
  rw [if_pos rfl, Nat.cast_zero, zero_mul]

theorem taperNum_nonneg (n es b : Nat) : 0 ≤ taperNum n es b := by
  unfold taperNum
  positivity

/-- The magnitudes of a tapered format ascend with their words. -/
def Ascends (n es : Nat) : Prop := ∀ b c, b < c → c < 2 ^ n → taperNum n es b < taperNum n es c

theorem ascends_of_steps {n es : Nat}
    (h : ∀ b < 2 ^ n - 1, magLe (taperMag n es (b + 1)).1 (taperMag n es (b + 1)).2 (taperMag n es b).1 (taperMag n es b).2 = false) : Ascends n es := by
  intro b c hbc
  induction c, hbc using Nat.le_induction with
  | base =>
    intro hc
    have hstep := h b (by omega)
    rw [← Bool.not_eq_true, magLe_iff, not_le] at hstep
    exact hstep
  | succ c hbc ih =>
    intro hc
    have hstep := h c (by omega)
    rw [← Bool.not_eq_true, magLe_iff, not_le] at hstep
    exact (ih (by omega)).trans hstep

theorem ascends_T8 : Ascends 7 1 := ascends_of_steps (by decide +kernel)
theorem ascends_T6 : Ascends 5 0 := ascends_of_steps (by decide +kernel)

/-- What the search downwards from word `k` finds. -/
theorem taperFloor_spec (n es k m : Nat) (e : ℤ) : taperFloor n es k m e ≤ k ∧ taperNum n es (taperFloor n es k m e) ≤ m * 2 ^ e ∧
    ∀ b ≤ k, taperFloor n es k m e < b → m * 2 ^ e < taperNum n es b := by
  induction k with
  | zero =>
    refine ⟨le_rfl, ?_, fun b hb hlt => absurd (hlt.trans_le hb) (lt_irrefl _)⟩
    show taperNum n es 0 ≤ _
    rw [taperNum_zero]
    positivity
  | succ k ih =>
    obtain ⟨hle, hlow, habove⟩ := ih
    unfold taperFloor
    split
    · next h => exact ⟨le_rfl, (magLe_iff _ _ _ _).mp h, fun b hb hlt => absurd (hlt.trans_le hb) (lt_irrefl _)⟩
    · next h =>
      rw [magLe_iff, not_le] at h
      refine ⟨hle.trans (Nat.le_succ k), hlow, fun b hb hlt => ?_⟩
      rcases Nat.le_succ_iff.mp hb with hb | rfl
      · exact habove b hb hlt
      · exact h

/-- The magnitude word that `taperEnc` chooses: the neighbour below or above, by twice the value against the sum of the two. -/
def taperNear (n es m : Nat) (e : ℤ) : Nat :=
  let lo := taperFloor n es (2 ^ n - 1) m e
  if lo = 2 ^ n - 1 then lo else
  let l := taperMag n es lo
  let h := taperMag n es (lo + 1)
  let g := min (min l.2 h.2) e
  let s := l.1 * 2 ^ (l.2 - g).toNat + h.1 * 2 ^ (h.2 - g).toNat
  let x := 2 * (m * 2 ^ (e - g).toNat)
  if x < s then lo else if s < x then lo + 1 else if lo % 2 = 0 then lo else lo + 1

theorem taperEnc_fin (n es : Nat) (s : Bool) (m : Nat) (e : ℤ) :
    taperEnc n es (.fin s m e) = if taperNear n es m e = 0 then 0 else (if s then 2 ^ n else 0) + taperNear n es m e := rfl

/-- The choice between two neighbours, in numbers. -/
theorem taperNear_cases (n es m : Nat) (e : ℤ) :
    let lo := taperFloor n es (2 ^ n - 1) m e
    let k := taperNear n es m e
    let sum := taperNum n es lo + taperNum n es (lo + 1)
    let x : ℚ := m * 2 ^ e
    (lo = 2 ^ n - 1 ∧ k = lo) ∨ (lo < 2 ^ n - 1 ∧ k = lo ∧ 2 * x ≤ sum ∧ (2 * x = sum → lo % 2 = 0)) ∨
      (lo < 2 ^ n - 1 ∧ k = lo + 1 ∧ sum ≤ 2 * x ∧ (2 * x = sum → (lo + 1) % 2 = 0)) := by
  intro lo k sum x
  have hlo : lo ≤ 2 ^ n - 1 := (taperFloor_spec n es _ m e).1
  rcases hlo.eq_or_lt with htop | htop
  · exact .inl ⟨htop, if_pos htop⟩
  let l := taperMag n es lo
  let h := taperMag n es (lo + 1)
  let g := min (min l.2 h.2) e
  let S := l.1 * 2 ^ (l.2 - g).toNat + h.1 * 2 ^ (h.2 - g).toNat
  let X := 2 * (m * 2 ^ (e - g).toNat)
  have hg : (0 : ℚ) < 2 ^ g := by positivity
  have hS : sum = S * 2 ^ g := by
    show (l.1 : ℚ) * 2 ^ l.2 + h.1 * 2 ^ h.2 = _
    rw [mul_zpow_min l.1 l.2 g ((min_le_left _ _).trans (min_le_left _ _)), mul_zpow_min h.1 h.2 g ((min_le_left _ _).trans (min_le_right _ _)),
      ← add_mul, ← Nat.cast_add]
  have hX : 2 * x = X * 2 ^ g := by
    show 2 * ((m : ℚ) * 2 ^ e) = _
    rw [mul_zpow_min m e g (min_le_right _ _), ← mul_assoc, ← Nat.cast_ofNat (n := 2), ← Nat.cast_mul]
  have hk : k = if X < S then lo else if S < X then lo + 1 else if lo % 2 = 0 then lo else lo + 1 := if_neg htop.ne
  rw [hS, hX, hk]
  simp only [mul_le_mul_iff_left₀ hg, mul_left_inj' hg.ne', Nat.cast_le, Nat.cast_inj]
  split_ifs <;> omega

theorem taperNear_nearest {n es : Nat} (hup : Ascends n es) (m : Nat) (e : ℤ) :
    NearestMag (taperNum n es) (2 ^ n - 1) (m * 2 ^ e) (taperNear n es m e) := by
  have hn : 0 < 2 ^ n := by positivity
  obtain ⟨hle, hlow, habove⟩ := taperFloor_spec n es (2 ^ n - 1) m e
  have hcases := taperNear_cases n es m e
  dsimp only at hcases
  generalize taperFloor n es (2 ^ n - 1) m e = lo at *
  generalize taperNear n es m e = k at *
  generalize (m : ℚ) * 2 ^ e = x at *
  have below : ∀ b ≤ lo, taperNum n es b ≤ taperNum n es lo := fun b hb => by
    rcases hb.eq_or_lt with rfl | hlt
    · exact le_rfl
    · exact (hup b lo hlt (by omega)).le
  have above : ∀ b, lo < b → b ≤ 2 ^ n - 1 → taperNum n es (lo + 1) ≤ taperNum n es b := fun b hb hb' => by
    rcases (Nat.succ_le_of_lt hb).eq_or_lt with rfl | hlt
    · exact le_rfl
    · exact (hup (lo + 1) b hlt (by omega)).le
  rcases hcases with ⟨htop, rfl⟩ | ⟨hlt, rfl, hsum, heven⟩ | ⟨hlt, rfl, hsum, heven⟩
  · refine ⟨hle, fun b hb => ?_⟩
    have h1 := below b (by omega)
    rw [abs_of_nonpos (by linarith), abs_of_nonpos (by linarith)]
    exact ⟨by linarith, fun h2 h3 => absurd (by linarith : taperNum n es b = taperNum n es k) h3⟩
  · refine ⟨hle, fun b hb => ?_⟩
    rw [abs_of_nonpos (by linarith)]
    rcases le_or_gt b k with h | h
    · have h1 := below b h
      rw [abs_of_nonpos (by linarith)]
      exact ⟨by linarith, fun h2 h3 => absurd (by linarith : taperNum n es b = taperNum n es k) h3⟩
    · have h1 := above b h hb
      have h2 := habove b hb h
      rw [abs_of_nonneg (by linarith)]
      exact ⟨by linarith, fun h3 _ => heven (by linarith)⟩
  · have hnext := habove (lo + 1) (by omega) (Nat.lt_succ_self lo)
    refine ⟨hlt, fun b hb => ?_⟩
    rw [abs_of_nonneg (by linarith)]
    rcases le_or_gt b lo with h | h
    · have h1 := below b h
      rw [abs_of_nonpos (by linarith)]
      exact ⟨by linarith, fun h3 _ => heven (by linarith)⟩
    · have h1 := above b h hb
      rw [abs_of_nonneg (by linarith)]
      exact ⟨by linarith, fun h2 h3 => absurd (by linarith : taperNum n es b = taperNum n es (lo + 1)) h3⟩

theorem taperDec_num_form {n es u : Nat} {y : ℚ} (h : (taperDec n es u).num = some y) :
    ∃ a, ∃ b ≤ 2 ^ n - 1, y = signOf a * taperNum n es b := by
  have hlt : u % 2 ^ n < 2 ^ n := Nat.mod_lt _ (by positivity)
  unfold taperDec at h
  dsimp only at h
  split at h
  · split at h
    · exact nomatch h
    · rw [Val.num_fin, Nat.cast_zero, zero_mul] at h
      exact ⟨false, 0, Nat.zero_le _, by rw [taperNum_zero]; exact (Option.some.inj h).symm⟩
  · rw [Val.num_fin] at h
    exact ⟨_, u % 2 ^ n, by omega, (Option.some.inj h).symm⟩

/-- The number of the word that a sign and a magnitude word make, where zero has no sign. -/
theorem taperDec_word (n es : Nat) (s : Bool) {k : Nat} (hk : k < 2 ^ n) :
    (taperDec n es (if k = 0 then 0 else (if s then 2 ^ n else 0) + k)).num = some (signOf s * taperNum n es k) := by
  rcases eq_or_ne k 0 with rfl | h0
  · rw [if_pos rfl, taperNum_zero, mul_zero]
    unfold taperDec
    rw [Nat.zero_mod, if_pos rfl, Nat.zero_div, if_neg (by decide), Val.num_fin, Nat.cast_zero, zero_mul, mul_zero]
  · have hmod : ((if s then 2 ^ n else 0) + k) % 2 ^ n = k := by cases s <;> simp [Nat.mod_eq_of_lt hk]
    have hdiv : decide (((if s then 2 ^ n else 0) + k) / 2 ^ n % 2 = 1) = s := by cases s <;> simp [Nat.div_eq_of_lt hk]
    unfold taperDec
    dsimp only
    rw [if_neg h0, hmod, hdiv, if_neg h0, Val.num_fin]
    rfl

theorem taperEnc_nearest {n es : Nat} (hn : 0 < n) (hup : Ascends n es) {v : Val} {x : ℚ} (hv : v.num = some x) :
    Nearest (taperDec n es) (2 ^ (n + 1)) x (taperEnc n es v) := by
  obtain ⟨s, m, e, rfl, rfl⟩ := Val.num_eq_some hv
  have hnear := taperNear_nearest hup m e
  have hpos : 0 < 2 ^ n := by positivity
  have heven : 2 ^ n % 2 = 0 := Nat.mod_eq_zero_of_dvd (dvd_pow_self 2 hn.ne')
  have htop := hnear.1
  rw [taperEnc_fin]
  refine hnear.nearest (taperNum_zero n es) (taperNum_nonneg n es) (by positivity) (fun u _ y => taperDec_num_form) ?_
    (taperDec_word n es s (by omega)) ?_
  · rw [pow_succ]
    split_ifs <;> omega
  · split_ifs <;> omega

theorem Nearest.congr {dec dec' : Nat → Val} {n w : Nat} {x : ℚ} (h : Nearest dec n x w) (hdec : ∀ u < n, dec' u = dec u) : Nearest dec' n x w := by
  obtain ⟨hw, r, hr, hnear⟩ := h
  exact ⟨hw, r, (hdec w hw).symm ▸ hr, fun u y hu hy => hnear u y hu (hdec u hu ▸ hy)⟩

theorem encT8_nearest {v : Val} {x : ℚ} (hv : v.num = some x) : Nearest decT8 256 x (encT8 v) :=
  (taperEnc_nearest (by decide) ascends_T8 hv).congr fun _ hu => congrArg (taperDec 7 1) (Nat.mod_eq_of_lt hu)
theorem encT6_nearest {v : Val} {x : ℚ} (hv : v.num = some x) : Nearest decT6 64 x (encT6 v) :=
  (taperEnc_nearest (by decide) ascends_T6 hv).congr fun _ hu => congrArg (taperDec 5 0) (Nat.mod_eq_of_lt hu)

/-- A zero of either sign becomes the zero word. -/
theorem taperEnc_zero {n es : Nat} (hup : Ascends n es) (s : Bool) (e : ℤ) : taperEnc n es (.fin s 0 e) = 0 := by
  have hnear := taperNear_nearest hup 0 e
  have hpos : 0 < 2 ^ n := by positivity
  have htop := hnear.1
  have h0 := (hnear.2 0 (Nat.zero_le _)).1
  rw [Nat.cast_zero, zero_mul, sub_zero, sub_zero, taperNum_zero, abs_zero, abs_nonpos_iff] at h0
  rw [taperEnc_fin, if_pos]
  by_contra hk
  have hlt := hup 0 _ (Nat.pos_of_ne_zero hk) (by omega)
  rw [h0, taperNum_zero] at hlt
  exact lt_irrefl _ hlt

/-! ### Block scales -/

/-- The power of two at or below a magnitude, within the range of E8M0. -/
theorem encE8m0_spec {v : Val} {x : ℚ} (hv : v.num = some x) :
    ((2 : ℚ) ^ (-127 : ℤ) ≤ |x| → |x| < (2 : ℚ) ^ 128 → ∃ b : Nat, encE8m0 v = b ∧ b ≤ 254 ∧ (2 : ℚ) ^ ((b : ℤ) - 127) ≤ |x| ∧
      |x| < (2 : ℚ) ^ ((b : ℤ) - 126)) ∧
    ((2 : ℚ) ^ 128 ≤ |x| → encE8m0 v = 254) ∧ (|x| < (2 : ℚ) ^ (-127 : ℤ) → encE8m0 v = 0) := by
  obtain ⟨s, m, e, rfl, rfl⟩ := Val.num_eq_some hv
  rw [abs_mul, abs_signOf, one_mul, abs_of_nonneg (by positivity)]
  rcases eq_or_ne m 0 with rfl | hm
  · rw [Nat.cast_zero, zero_mul]
    exact ⟨fun h => absurd h (by norm_num), fun h => absurd h (by norm_num), fun _ => rfl⟩
  have hlow := le_mul_zpow_of_log2 hm e
  have hhigh := mul_zpow_lt_of_log2 m e
  have henc : encE8m0 (.fin s m e) = (max 0 (min 254 ((m.log2 : ℤ) + e + 127))).toNat := if_neg hm
  have exponent_lt : ∀ {a b : ℤ}, (2 : ℚ) ^ a < 2 ^ b → a < b := fun h => (zpow_lt_zpow_iff_right₀ (by norm_num)).mp h
  rw [henc]
  generalize (m : ℚ) * 2 ^ e = x at *
  generalize (m.log2 : ℤ) + e = E at *
  refine ⟨fun h1 h2 => ?_, fun h1 => ?_, fun h1 => ?_⟩
  · have hE1 : -127 < E + 1 := exponent_lt (h1.trans_lt hhigh)
    have hE2 : E < 128 := exponent_lt (hlow.trans_lt h2)
    refine ⟨(E + 127).toNat, by omega, by omega, ?_, ?_⟩
    · rwa [show ((E + 127).toNat : ℤ) - 127 = E by omega]
    · rwa [show ((E + 127).toNat : ℤ) - 126 = E + 1 by omega]
  · have hE : 128 < E + 1 := exponent_lt (lt_of_le_of_lt h1 hhigh)
    omega
  · have hE : E < -127 := exponent_lt (hlow.trans_lt h1)
    omega

/-- What the fields of a byte of E4M3, E5M2 or E8M0 give. -/
theorem srcVal_byte (a : Word) (p : Dword) (sel s e m : Nat) (hs : s ≤ 1) :
    let sign : ℚ := (-1) ^ s
    let b := a.toNat / 256 ^ sel % 256
    (b = 128 * s + 8 * e + m → e < 16 → m < 8 →
      (e = 15 ∧ m = 7 → srcVal 3 sel a p = .nan) ∧
      (1 ≤ e → ¬ (e = 15 ∧ m = 7) → (srcVal 3 sel a p).num = some (sign * (2 : ℚ) ^ ((e : ℤ) - 7) * (1 + m / 8))) ∧
      (e = 0 → (srcVal 3 sel a p).num = some (sign * (2 : ℚ) ^ (-6 : ℤ) * (m / 8)))) ∧
    (b = 128 * s + 4 * e + m → e < 32 → m < 4 →
      (e = 31 → srcVal 4 sel a p = if m = 0 then .inf (s == 1) else .nan) ∧
      (1 ≤ e → e ≤ 30 → (srcVal 4 sel a p).num = some (sign * (2 : ℚ) ^ ((e : ℤ) - 15) * (1 + m / 4))) ∧
      (e = 0 → (srcVal 4 sel a p).num = some (sign * (2 : ℚ) ^ (-14 : ℤ) * (m / 4)))) ∧
    ((b = 255 → srcVal 7 sel a p = .nan) ∧ (b ≤ 254 → (srcVal 7 sel a p).num = some ((2 : ℚ) ^ ((b : ℤ) - 127)))) ∧
    (srcVal 5 sel a p = decT8 b ∧ srcVal 6 sel a p = decT6 b) := by
  intro sign b
  refine ⟨fun hb he hm => ?_, fun hb he hm => ?_, ⟨fun hb => ?_, fun hb => decE8m0_num hb⟩, rfl, rfl⟩
  · have hdec : srcVal 3 sel a p = if e = 15 ∧ m = 7 then .nan else e4m3.finite (s == 1) e m :=
      (congrArg decE4m3 hb).trans (decE4m3_fields hs he hm)
    rw [hdec]
    refine ⟨fun h => if_pos h, fun h1 h2 => ?_, fun h1 => ?_⟩
    · rw [if_neg h2]
      exact e4m3.finite_num_normal hs h1 m (by decide) (by norm_num [e4m3])
    · rw [if_neg (by omega), h1]
      exact e4m3.finite_num_subnormal hs m (by decide) (by norm_num [e4m3])
  · have hdec : srcVal 4 sel a p = if e = 31 then (if m = 0 then .inf (s == 1) else .nan) else e5m2.finite (s == 1) e m :=
      (congrArg e5m2.dec hb).trans (decE5m2_fields hs he hm)
    rw [hdec]
    refine ⟨fun h => if_pos h, fun h1 h2 => ?_, fun h1 => ?_⟩
    · rw [if_neg (by omega)]
      exact e5m2.finite_num_normal hs h1 m (by decide) (by norm_num [e5m2])
    · rw [if_neg (by omega), h1]
      exact e5m2.finite_num_subnormal hs m (by decide) (by norm_num [e5m2])
  · exact (congrArg decE8m0 hb).trans (by decide)

/-- The numbers of tapered words, by run, exponent bit and fraction. -/
theorem taper_byte (s r k e f : Nat) (hs : s ≤ 1) (hr : r ≤ 1) (hk : 1 ≤ k) (he : e ≤ 1) :
    let sign : ℚ := (-1) ^ s
    let run : ℤ := if r = 1 then k - 1 else -k
    (k ≤ 5 → f < 2 ^ (5 - k) →
      (decT8 (128 * s + (if r = 1 then (2 ^ k - 1) * 2 ^ (7 - k) else 2 ^ (6 - k)) + e * 2 ^ (5 - k) + f)).num =
        some (sign * (4 : ℚ) ^ run * (2 : ℚ) ^ e * (1 + f / 2 ^ (5 - k)))) ∧
    (k = 6 → (decT8 (128 * s + if r = 1 then 0x7E else 1)).num = some (sign * (4 : ℚ) ^ run)) ∧
    (k ≤ 4 → f < 2 ^ (4 - k) →
      (decT6 (32 * s + (if r = 1 then (2 ^ k - 1) * 2 ^ (5 - k) else 2 ^ (4 - k)) + f)).num = some (sign * (2 : ℚ) ^ run * (1 + f / 2 ^ (4 - k)))) ∧
    (decT8 (128 * s + 0x7F)).num = some (sign * (2 : ℚ) ^ 12) ∧ (decT6 (32 * s + 0x1F)).num = some (sign * (2 : ℚ) ^ 4) := by
  intro sign run
  refine ⟨fun h1 h2 => ?_, fun h1 => ?_, fun h1 h2 => ?_, ?_, ?_⟩
  · rw [decT8_fields k (List.mem_range'_1.mpr ⟨hk, by omega⟩) r (by omega) e (by omega) f h2 s (by omega), num_hidden_fraction hs, four_zpow,
      zpow_add₀ (by norm_num), zpow_natCast, ← mul_assoc]
  · subst h1
    rw [decT8_long_run s (by omega) r (by omega), num_power hs, four_zpow]
    rfl
  · rw [decT6_fields k (List.mem_range'_1.mpr ⟨hk, by omega⟩) r (by omega) f h2 s (by omega), num_hidden_fraction hs]
  · rw [decT8_all_ones s (by omega), num_power hs]
    rfl
  · rw [decT6_all_ones s (by omega), num_power hs]
    rfl

/-- Settles O24: a narrow number has few enough bits for FP32; a byte's fields give its number; rounding chooses the nearest of the magnitudes of a
format, which ascend with their words. -/
theorem exactConversions : Obligations.ExactConversions := by
  refine ⟨fun c g d a e f hf _ => cvtToF32_yields c g d a e f (by omega) (by omega), fun a p sel s e m _ hs => srcVal_byte a p sel s e m hs,
    fun s r k e f hs hr hk he => taper_byte s r k e f hs hr hk he, by decide, fun mode sat v x hv => ?numbers, fun mode sat n => ?specials⟩
  case numbers =>
    obtain ⟨hin, habove, hbelow⟩ := encE8m0_spec hv
    exact ⟨encE4m3_nearest hv, encT8_nearest hv, encT6_nearest hv, encE5m2_nearest hv, fun hsat hx => hsat ▸ encE5m2_overflow hv hx, hin, habove, hbelow⟩
  case specials =>
    refine ⟨⟨rfl, rfl, rfl, rfl, rfl⟩, ?_, fun e => ⟨?_, ?_, taperEnc_zero ascends_T8 n e, taperEnc_zero ascends_T6 n e⟩⟩
    · cases n <;> exact ⟨rfl, rfl, rfl, rfl, rfl⟩
    · cases n <;> rfl
    · cases n <;> rfl

end Sys2Proof.Machine

/-!
LAWS. Writing an XF result (R77 to R80): the fields and the value of packed words, rounding to a place in every mode, and the write of a result at the
smallest length that holds the precision (O33).
-/

namespace Sys2Proof.Machine

open Sys2Proof

/-! ### Packed words -/

theorem xfTail_length (f k : Nat) : (xfTail f k).length = k := by
  induction k with
  | zero => rfl
  | succ k ih => exact congrArg Nat.succ ih

theorem xfPack_length {n : Nat} (hn : 1 ≤ n) (s : Bool) (e f : Nat) : (xfPack n s e f).length = n := by
  rw [xfPack, List.length_cons, xfTail_length]
  omega

/-- The words after the header, put together again. -/
theorem foldl_xfTail (f k a : Nat) : (xfTail f k).foldl (fun x w => x * 2 ^ 32 + w.toNat) a = a * 2 ^ (32 * k) + f % 2 ^ (32 * k) := by
  induction k generalizing a with
  | zero => simp [xfTail, Nat.mod_one]
  | succ k ih =>
    have hsplit : f % 2 ^ (32 * (k + 1)) = f % 2 ^ (32 * k) + 2 ^ (32 * k) * (f / 2 ^ (32 * k) % 2 ^ 32) := by
      rw [show 32 * (k + 1) = 32 * k + 32 by ring, pow_add, Nat.mod_mul]
    have hpow : 2 ^ (32 * (k + 1)) = 2 ^ 32 * 2 ^ (32 * k) := by rw [← pow_add]; congr 1; ring
    rw [xfTail, List.foldl_cons, ih, BitVec.toNat_ofNat, hsplit, hpow]
    ring

/-- The header of packed words as a number. -/
theorem xfPack_header {n e : Nat} (hn : 1 ≤ n) (hn' : n ≤ 8) (s : Bool) (he : e < 2 ^ 15) (f : Nat) :
    ((xfPack n s e f).getD 0 0).toNat = (n - 1) * 2 ^ 29 + (if s then 2 ^ 28 else 0) + e * 2 ^ 13 + f / 2 ^ (32 * (n - 1)) % 2 ^ 13 := by
  have htop : f / 2 ^ (32 * (n - 1)) % 2 ^ 13 < 2 ^ 13 := Nat.mod_lt _ (by decide)
  rw [xfPack, List.getD_cons_zero, BitVec.toNat_ofNat]
  refine Nat.mod_eq_of_lt ?_
  split <;> omega

section Packed

variable {n e f : Nat} (hn : 1 ≤ n) (hn' : n ≤ 8) (s : Bool) (he : e < 2 ^ 15)
include hn hn' he

theorem xfLen_xfPack : xfLen ((xfPack n s e f).getD 0 0) = n := by
  have hhead := xfPack_header hn hn' s he f
  have htop : f / 2 ^ (32 * (n - 1)) % 2 ^ 13 < 2 ^ 13 := Nat.mod_lt _ (by decide)
  unfold xfLen fld
  rw [hhead, BitVec.toNat_ofNat]
  split <;> omega

theorem xfExp_xfPack : xfExp ((xfPack n s e f).getD 0 0) = e := by
  have hhead := xfPack_header hn hn' s he f
  have htop : f / 2 ^ (32 * (n - 1)) % 2 ^ 13 < 2 ^ 13 := Nat.mod_lt _ (by decide)
  unfold xfExp fld
  rw [hhead, BitVec.toNat_ofNat]
  split <;> omega

theorem xfSign_xfPack : ((xfPack n s e f).getD 0 0).getLsbD 28 = s := by
  have hhead := xfPack_header hn hn' s he f
  have htop : f / 2 ^ (32 * (n - 1)) % 2 ^ 13 < 2 ^ 13 := Nat.mod_lt _ (by decide)
  rw [BitVec.getLsbD, hhead, Nat.testBit_eq_decide_div_mod_eq]
  cases s
  · exact decide_eq_false (by rw [if_neg (by decide)]; omega)
  · exact decide_eq_true (by rw [if_pos rfl]; omega)

theorem xfFrac_xfPack (hf : f < 2 ^ xfCap n) : xfFrac (xfPack n s e f) = f := by
  have hhead := xfPack_header hn hn' s he f
  have hquot : f / 2 ^ (32 * (n - 1)) < 2 ^ 13 := (Nat.div_lt_iff_lt_mul (by positivity)).mpr (by rwa [← pow_add])
  have hlow : ∀ q < 2 ^ 13, ((n - 1) * 2 ^ 29 + (if s then 2 ^ 28 else 0) + e * 2 ^ 13 + q) % 2 ^ 13 = q := fun q hq => by split <;> omega
  rw [xfPack, List.getD_cons_zero] at hhead
  rw [xfPack, xfFrac, hhead, foldl_xfTail, Nat.mod_eq_of_lt hquot, hlow _ hquot]
  exact Nat.div_add_mod' f _

/-- The value of packed words, by their exponent field. -/
theorem xfVal_xfPack (hf : f < 2 ^ xfCap n) : xfVal (xfPack n s e f) =
    if e = 0 then .fin s 0 0 else if e = 0x7FFF then (if f = 0 then .inf s else .nan)
    else .fin s (2 ^ xfCap n + f) ((e : ℤ) - 16383 - xfCap n) := by
  unfold xfVal
  dsimp only
  rw [xfExp_xfPack hn hn' s he, xfSign_xfPack hn hn' s he, xfFrac_xfPack hn hn' s he hf, xfPack_length hn]

end Packed

/-! ### The smallest length -/

theorem xfWords_bounds {p : Nat} (hp : 1 ≤ p) (hp' : p ≤ 237) : 1 ≤ xfWords p ∧ xfWords p ≤ 8 ∧ p ≤ xfCap (xfWords p) ∧
    ∀ n, 1 ≤ n → p ≤ 13 + 32 * (n - 1) → xfWords p ≤ n := by
  unfold xfWords xfCap
  split <;> refine ⟨?_, ?_, ?_, fun n h1 h2 => ?_⟩ <;> omega

/-- Words packed at the smallest length whose fraction holds `p` bits. -/
theorem xfPack_smallest {p e : Nat} (hp : 1 ≤ p) (hp' : p ≤ 237) (s : Bool) (he : e < 2 ^ 15) (f : Nat) :
    let ws := xfPack (xfWords p) s e f
    ws.length = xfLen (ws.getD 0 0) ∧ p ≤ 13 + 32 * (ws.length - 1) ∧ ∀ n, 1 ≤ n → p ≤ 13 + 32 * (n - 1) → ws.length ≤ n := by
  obtain ⟨h1, h8, hcap, hmin⟩ := xfWords_bounds hp hp'
  intro ws
  have hlen : ws.length = xfWords p := xfPack_length h1 s e f
  rw [xfLen_xfPack h1 h8 s he, hlen]
  exact ⟨rfl, hcap, hmin⟩

/-! ### Rounding to a place in every mode -/

/-- A remainder away from zero is what rounding loses: the multiple below, or the one above. -/
theorem roundShift_cases (mode : Mode) (neg : Bool) (x d : Nat) :
    (x % 2 ^ d = 0 ∧ roundShift mode neg x d = x / 2 ^ d) ∨
      (x % 2 ^ d ≠ 0 ∧ (roundShift mode neg x d = x / 2 ^ d ∨ roundShift mode neg x d = x / 2 ^ d + 1) ∧
        (mode = .rtz → roundShift mode neg x d = x / 2 ^ d) ∧
        (mode = .rup → roundShift mode neg x d = if neg then x / 2 ^ d else x / 2 ^ d + 1) ∧
        (mode = .rdn → roundShift mode neg x d = if neg then x / 2 ^ d + 1 else x / 2 ^ d) ∧
        (mode = .rto → roundShift mode neg x d % 2 = 1)) := by
  unfold roundShift
  dsimp only
  split
  · next h => exact .inl ⟨h, rfl⟩
  · next h =>
    refine .inr ⟨h, ?_⟩
    cases mode with
    | rne =>
      dsimp only
      split <;> simp
    | rtz => simp
    | rup => cases neg <;> simp
    | rdn => cases neg <;> simp
    | rto =>
      dsimp only
      split
      · next hodd => simp [hodd]
      · next hodd => simp [show (x / 2 ^ d + 1) % 2 = 1 by omega]

/-- A magnitude `x` in units of `u` is rounded to `k` of them: to itself, or to the multiple on the side that the mode and the sign choose. -/
def RoundedMag (mode : Mode) (neg : Bool) (x u : ℚ) (k : Nat) : Prop :=
  k * u = x ∨ (|k * u - x| < u ∧ k * u ≠ x ∧ (mode = .rne → NearestMultiple u x k) ∧ (mode = .rtz → k * u < x) ∧
    (mode = .rup → if neg then k * u < x else x < k * u) ∧ (mode = .rdn → if neg then x < k * u else k * u < x) ∧ (mode = .rto → k % 2 = 1))

theorem exactAt_eq_true_iff (m : Nat) (e q : ℤ) : exactAt m e q = true ↔ q ≤ e ∨ m % 2 ^ (q - e).toNat = 0 := by
  unfold exactAt
  rw [Bool.or_eq_true, decide_eq_true_iff, beq_iff_eq]

theorem roundAt_rounded (mode : Mode) (neg : Bool) (m : Nat) (e q : ℤ) :
    RoundedMag mode neg (m * 2 ^ e) (2 ^ q) (roundAt mode neg m e q) ∧
      (exactAt m e q = true ↔ (roundAt mode neg m e q : ℚ) * 2 ^ q = m * 2 ^ e) := by
  rw [exactAt_eq_true_iff]
  rcases le_or_gt q e with h | h
  · have heq : ((roundAt mode neg m e q : ℕ) : ℚ) * 2 ^ q = m * 2 ^ e := by
      unfold roundAt
      rw [if_pos h]
      exact (mul_zpow_min m e q h).symm
    exact ⟨.inl heq, iff_of_true (.inl h) heq⟩
  · have hround : roundAt mode neg m e q = roundShift mode neg m (q - e).toNat := if_neg (not_le.mpr h)
    have hnear := roundAt_rne_nearest neg m e q
    have he : (0 : ℚ) < 2 ^ e := by positivity
    have hu : (2 : ℚ) ^ q = (2 ^ (q - e).toNat : ℕ) * 2 ^ e := by
      rw [zpow_eq_natPow_mul h.le]
      push_cast
      rfl
    have hm : (m : ℚ) = (m / 2 ^ (q - e).toNat : ℕ) * (2 ^ (q - e).toNat : ℕ) + (m % 2 ^ (q - e).toNat : ℕ) := by
      exact_mod_cast (Nat.div_add_mod' m _).symm
    have hr : ((m % 2 ^ (q - e).toNat : ℕ) : ℚ) < (2 ^ (q - e).toNat : ℕ) := by exact_mod_cast Nat.mod_lt _ (by positivity)
    have hcases := roundShift_cases mode neg m (q - e).toNat
    rw [← hround] at hcases
    rw [hu] at hnear ⊢
    generalize hk : roundAt mode neg m e q = k at *
    generalize m / 2 ^ (q - e).toNat = d at *
    generalize m % 2 ^ (q - e).toNat = r at *
    generalize 2 ^ (q - e).toNat = U at *
    rw [hm] at hnear ⊢
    have hU := mul_lt_mul_of_pos_right hr he
    have expand : ((d : ℚ) * U + r) * 2 ^ e = d * (U * 2 ^ e) + r * 2 ^ e := by ring
    rcases hcases with ⟨hr0, rfl⟩ | ⟨hr0, hside, htz, hup, hdn, hto⟩
    · have heq : (k : ℚ) * (U * 2 ^ e) = (k * U + r) * 2 ^ e := by rw [hr0]; push_cast; ring
      exact ⟨.inl heq, iff_of_true (.inr hr0) heq⟩
    · have hrpos : (0 : ℚ) < r * 2 ^ e := mul_pos (by exact_mod_cast Nat.pos_of_ne_zero hr0) he
      have below : k = d → (k : ℚ) * (U * 2 ^ e) < (d * U + r) * 2 ^ e ∧ |(k : ℚ) * (U * 2 ^ e) - (d * U + r) * 2 ^ e| < U * 2 ^ e := by
        rintro rfl
        rw [abs_of_nonpos (by linarith)]
        constructor <;> linarith
      have above : k = d + 1 → (d * U + r) * 2 ^ e < (k : ℚ) * (U * 2 ^ e) ∧ |(k : ℚ) * (U * 2 ^ e) - (d * U + r) * 2 ^ e| < U * 2 ^ e := by
        rintro rfl
        have hnext : ((d + 1 : ℕ) : ℚ) * (U * 2 ^ e) = d * (U * 2 ^ e) + U * 2 ^ e := by push_cast; ring
        rw [hnext, abs_of_nonneg (by linarith)]
        constructor <;> linarith
      have hne : (k : ℚ) * (U * 2 ^ e) ≠ (d * U + r) * 2 ^ e := hside.elim (fun h => (below h).1.ne) fun h => (above h).1.ne'
      refine ⟨.inr ⟨hside.elim (fun h => (below h).2) fun h => (above h).2, hne, ?_, fun h => (below (htz h)).1, fun h => ?_, fun h => ?_, hto⟩,
        iff_of_false (by rintro (h1 | h1) <;> omega) hne⟩
      · rintro rfl
        rwa [hk] at hnear
      · cases neg
        · exact (above (hup h)).1
        · exact (below (hup h)).1
      · cases neg
        · exact (below (hdn h)).1
        · exact (above (hdn h)).1

/-- The nearest multiple is at most half a unit away, and the even one of two that are half a unit away. -/
theorem NearestMultiple.half {u x : ℚ} {k : Nat} (hu : 0 < u) (h : NearestMultiple u x k) :
    2 * |k * u - x| ≤ u ∧ (2 * |k * u - x| = u → k % 2 = 0) := by
  have up := h (k + 1)
  have down := h (k - 1)
  push_cast at up down
  rw [add_mul, one_mul] at up
  rw [sub_mul, one_mul] at down
  rcases le_total ((k : ℚ) * u) x with hx | hx
  · rw [abs_of_nonpos (by linarith)] at up ⊢
    have hnext : 0 ≤ (k : ℚ) * u + u - x := by
      by_contra hneg
      rw [abs_of_neg (not_le.mp hneg)] at up
      linarith [up.1]
    rw [abs_of_nonneg hnext] at up
    exact ⟨by linarith [up.1], fun h1 => up.2 (by linarith) (by omega)⟩
  · rw [abs_of_nonneg (by linarith)] at down ⊢
    have hnext : (k : ℚ) * u - u - x ≤ 0 := by
      by_contra hpos
      rw [abs_of_pos (not_le.mp hpos)] at down
      linarith [down.1]
    rw [abs_of_nonpos hnext] at down
    exact ⟨by linarith [down.1], fun h1 => down.2 (by linarith) (by omega)⟩

/-- Rounding a magnitude and keeping the sign is rounding the number. -/
theorem RoundedMag.roundsBy {rm : Nat} {s : Bool} {x u : ℚ} {k : Nat} (hu : 0 < u) (hx : 0 ≤ x) (h : RoundedMag (modeOf rm) s x u k) :
    RoundsBy rm (signOf s * x) (signOf s * (k * u)) u k := by
  have hk : (0 : ℚ) ≤ k * u := by positivity
  have hdist : |signOf s * (k * u) - signOf s * x| = |k * u - x| := by rw [← mul_sub, abs_mul, abs_signOf, one_mul]
  have hsame : 0 ≤ signOf s * (k * u) * (signOf s * x) := by
    rw [mul_mul_mul_comm, signOf_mul_self, one_mul]
    exact mul_nonneg hk hx
  have hle : ∀ {p q : ℚ}, (if s then q ≤ p else p ≤ q) → signOf s * p ≤ signOf s * q := fun {p q} h => by
    cases s <;> simpa [signOf] using h
  have habs : ∀ {z : ℚ}, 0 ≤ z → |signOf s * z| = z := fun hz => by rw [abs_mul, abs_signOf, one_mul, abs_of_nonneg hz]
  unfold RoundsBy
  rw [hdist, habs hk, habs hx]
  rcases h with rfl | ⟨hlt, -, hrne, hrtz, hrup, hrdn, hrto⟩
  · rw [sub_self, abs_zero, mul_zero]
    refine ⟨rfl, hu, hsame, ?_⟩
    split
    · exact ⟨hu.le, fun h => absurd h hu.ne⟩
    · exact le_rfl
    · exact le_rfl
    · exact le_rfl
    · exact .inl rfl
  · refine ⟨rfl, hlt, hsame, ?_⟩
    rcases rm with _ | _ | _ | _ | rm
    · exact (hrne rfl).half hu
    · exact (hrtz rfl).le
    · refine hle ?_
      have hside := hrup rfl
      cases s <;> exact hside.le
    · refine hle ?_
      have hside := hrdn rfl
      cases s <;> exact hside.le
    · exact .inr (hrto rfl)

/-! ### The significand of a result -/

section Result

variable (mode : Mode) (s : Bool) {m : Nat} (hm : m ≠ 0) (e : ℤ) (p : Nat)
include hm

/-- A magnitude rounded to `p` bits below its leading one has that many, or is the next power of two. -/
theorem significand_bounds : 2 ^ p ≤ roundAt mode s m e ((m.log2 : ℤ) + e - p) ∧ roundAt mode s m e ((m.log2 : ℤ) + e - p) ≤ 2 ^ (p + 1) := by
  obtain ⟨hround, -⟩ := roundAt_rounded mode s m e ((m.log2 : ℤ) + e - p)
  have hlow := le_mul_zpow_of_log2 hm e
  have hhigh := mul_zpow_lt_of_log2 m e
  generalize roundAt mode s m e ((m.log2 : ℤ) + e - p) = r at *
  rw [show (m.log2 : ℤ) + e = p + ((m.log2 : ℤ) + e - p) by ring, zpow_add₀ (by norm_num)] at hlow
  rw [show (m.log2 : ℤ) + e + 1 = (p + 1 : ℕ) + ((m.log2 : ℤ) + e - p) by push_cast; ring, zpow_add₀ (by norm_num)] at hhigh
  generalize (m.log2 : ℤ) + e - p = q at *
  have hu : (0 : ℚ) < 2 ^ q := by positivity
  have hnear : |(r : ℚ) * 2 ^ q - m * 2 ^ e| < 2 ^ q := by
    rcases hround with h | ⟨h, -⟩
    · rwa [h, sub_self, abs_zero]
    · exact h
  obtain ⟨h1, h2⟩ := abs_lt.mp hnear
  have hr1 : ((2 ^ p : ℕ) : ℚ) < (r + 1 : ℕ) := by
    refine lt_of_mul_lt_mul_right ?_ hu.le
    push_cast
    rw [← zpow_natCast]
    linarith
  have hr2 : (r : ℚ) < (2 ^ (p + 1) + 1 : ℕ) := by
    refine lt_of_mul_lt_mul_right ?_ hu.le
    push_cast
    rw [zpow_natCast] at hhigh
    linarith
  exact ⟨Nat.lt_succ_iff.mp (by exact_mod_cast hr1), Nat.lt_succ_iff.mp (by exact_mod_cast hr2)⟩

/-- Its leading bit is that of the magnitude, or the next. -/
theorem significand_log2 : p ≤ (roundAt mode s m e ((m.log2 : ℤ) + e - p)).log2 ∧ (roundAt mode s m e ((m.log2 : ℤ) + e - p)).log2 ≤ p + 1 := by
  obtain ⟨hlow, hhigh⟩ := significand_bounds mode s hm e p
  generalize roundAt mode s m e ((m.log2 : ℤ) + e - p) = r at *
  have hr : r ≠ 0 := ((Nat.two_pow_pos p).trans_le hlow).ne'
  exact ⟨(Nat.le_log2 hr).mpr hlow, Nat.lt_succ_iff.mp ((Nat.log2_lt hr).mpr (hhigh.trans_lt (Nat.pow_lt_pow_right (by decide) (Nat.lt_succ_self _))))⟩

/-- A magnitude of at most `p` bits below its leading one is kept as it is. -/
theorem significand_exact (hbits : m.log2 ≤ p) : (roundAt mode s m e ((m.log2 : ℤ) + e - p) : ℚ) * 2 ^ ((m.log2 : ℤ) + e - p) = m * 2 ^ e ∧
    exactAt m e ((m.log2 : ℤ) + e - p) = true ∧
      ((roundAt mode s m e ((m.log2 : ℤ) + e - p)).log2 : ℤ) + ((m.log2 : ℤ) + e - p) ≤ (m.log2 : ℤ) + e := by
  have hexact : exactAt m e ((m.log2 : ℤ) + e - p) = true := (exactAt_eq_true_iff _ _ _).mpr (.inl (by omega))
  have heq := (roundAt_rounded mode s m e ((m.log2 : ℤ) + e - p)).2.mp hexact
  refine ⟨heq, hexact, ?_⟩
  have hr : roundAt mode s m e ((m.log2 : ℤ) + e - p) ≠ 0 := ((Nat.two_pow_pos p).trans_le (significand_bounds mode s hm e p).1).ne'
  have hlow := le_mul_zpow_of_log2 hr ((m.log2 : ℤ) + e - p)
  rw [heq] at hlow
  exact Int.lt_add_one_iff.mp ((zpow_lt_zpow_iff_right₀ (by norm_num)).mp (hlow.trans_lt (mul_zpow_lt_of_log2 m e)))

end Result

/-- The fraction bits of a significand of at most `cap` bits below its leading one, or of a power of two. -/
theorem significand_fraction {r cap : Nat} (hr : r ≠ 0) (h : r.log2 ≤ cap ∨ r = 2 ^ r.log2) :
    (2 ^ cap + r * 2 ^ cap / 2 ^ r.log2 % 2 ^ cap) * 2 ^ r.log2 = r * 2 ^ cap := by
  have hlow := Nat.log2_self_le hr
  have hhigh : r < 2 ^ (r.log2 + 1) := Nat.lt_log2_self
  have hdvd : 2 ^ r.log2 ∣ r * 2 ^ cap := by
    rcases h with h | h
    · exact (pow_dvd_pow 2 h).mul_left r
    · exact Dvd.dvd.mul_right (dvd_of_eq h.symm) _
  generalize r.log2 = L at *
  obtain ⟨G, hG⟩ := hdvd
  have hL : 0 < 2 ^ L := by positivity
  have hC : 0 < 2 ^ cap := by positivity
  rw [pow_succ] at hhigh
  have h1 : 2 ^ cap ≤ G := by
    refine Nat.le_of_mul_le_mul_left ?_ hL
    rw [← hG]
    exact Nat.mul_le_mul_right _ hlow
  have h2 : G < 2 ^ cap + 2 ^ cap := by
    refine Nat.lt_of_mul_lt_mul_left (a := 2 ^ L) ?_
    rw [← hG]
    calc r * 2 ^ cap < 2 ^ L * 2 * 2 ^ cap := Nat.mul_lt_mul_of_pos_right hhigh hC
      _ = 2 ^ L * (2 ^ cap + 2 ^ cap) := by ring
  rw [hG, Nat.mul_div_cancel_left _ hL, Nat.mod_eq_sub_mod h1, Nat.mod_eq_of_lt (by omega), Nat.add_sub_of_le h1, Nat.mul_comm]

/-! ### What a write gives -/

section Write

variable (prec : Word) (s : Bool) {m : Nat} (hm : m ≠ 0) (e : ℤ)

/-- The place of the last bit kept, the rounded significand there, and its exponent. -/
def xfPlace (prec : Word) (m : Nat) (e : ℤ) : ℤ := (m.log2 : ℤ) + e - precP prec
def xfSig (prec : Word) (s : Bool) (m : Nat) (e : ℤ) : Nat := roundAt (precMode prec) s m e (xfPlace prec m e)
def xfPower (prec : Word) (s : Bool) (m : Nat) (e : ℤ) : ℤ := ((xfSig prec s m e).log2 : ℤ) + xfPlace prec m e

include hm

theorem xfWrite_fin : xfWrite prec (.fin s m e) =
    let n := xfWords (precP prec)
    let cap := xfCap n
    if 16383 < xfPower prec s m e then
      if overflowsToInf (precMode prec) s then ⟨xfPack n s 0x7FFF 0, false, false⟩
      else ⟨xfPack n s 0x7FFE ((2 ^ precP prec - 1) * 2 ^ (cap - precP prec)), false, false⟩
    else if xfPower prec s m e < -16382 then ⟨xfPack n s 0 0, true, false⟩
    else ⟨xfPack n s (xfPower prec s m e + 16383).toNat ((xfSig prec s m e * 2 ^ cap / 2 ^ (xfSig prec s m e).log2) % 2 ^ cap), false,
      !exactAt m e (xfPlace prec m e)⟩ := if_neg hm

theorem xfPower_bounds : (m.log2 : ℤ) + e ≤ xfPower prec s m e ∧ xfPower prec s m e ≤ (m.log2 : ℤ) + e + 1 := by
  obtain ⟨h1, h2⟩ := significand_log2 (precMode prec) s hm e (precP prec)
  unfold xfPower xfSig xfPlace
  omega

end Write

/-- Whatever is written is packed at the smallest length. -/
theorem xfWrite_packed (prec : Word) (v : Val) :
    ∃ s e f, e < 2 ^ 15 ∧ (xfWrite prec v).words = xfPack (xfWords (precP prec)) s e f := by
  cases v with
  | nan => exact ⟨_, _, _, by decide, rfl⟩
  | inf s => exact ⟨_, _, _, by decide, rfl⟩
  | fin s m e =>
    rcases eq_or_ne m 0 with rfl | hm
    · exact ⟨_, _, _, by decide, rfl⟩
    · rw [xfWrite_fin prec s hm]
      dsimp only
      split_ifs
      · exact ⟨_, _, _, by decide, rfl⟩
      · exact ⟨_, _, _, by decide, rfl⟩
      · exact ⟨_, _, _, by decide, rfl⟩
      · exact ⟨_, _, _, by omega, rfl⟩

section Bounded

variable {prec : Word} (hp : 1 ≤ precP prec) (hp' : precP prec ≤ 237)
include hp hp'

theorem xfWrite_smallest (v : Val) :
    let ws := (xfWrite prec v).words
    ws.length = xfLen (ws.getD 0 0) ∧ precP prec ≤ 13 + 32 * (ws.length - 1) ∧ ∀ n, 1 ≤ n → precP prec ≤ 13 + 32 * (n - 1) → ws.length ≤ n := by
  obtain ⟨s, e, f, he, hws⟩ := xfWrite_packed prec v
  rw [hws]
  exact xfPack_smallest hp hp' s he f

theorem xfVal_packed (s : Bool) {e f : Nat} (he : e < 2 ^ 15) (hf : f < 2 ^ xfCap (xfWords (precP prec))) :
    xfVal (xfPack (xfWords (precP prec)) s e f) = if e = 0 then .fin s 0 0 else if e = 0x7FFF then (if f = 0 then .inf s else .nan)
      else .fin s (2 ^ xfCap (xfWords (precP prec)) + f) ((e : ℤ) - 16383 - xfCap (xfWords (precP prec))) := by
  obtain ⟨h1, h8, -, -⟩ := xfWords_bounds hp hp'
  exact xfVal_xfPack h1 h8 s he hf

theorem xfVal_zero (s : Bool) : xfVal (xfPack (xfWords (precP prec)) s 0 0) = .fin s 0 0 :=
  (xfVal_packed hp hp' s (by decide) (by positivity)).trans (if_pos rfl)

theorem xfVal_inf (s : Bool) : xfVal (xfPack (xfWords (precP prec)) s 0x7FFF 0) = .inf s :=
  (xfVal_packed hp hp' s (by decide) (by positivity)).trans rfl

/-- The largest number of `P` fraction bits. -/
theorem xfVal_largest (s : Bool) :
    (xfVal (xfPack (xfWords (precP prec)) s 0x7FFE ((2 ^ precP prec - 1) * 2 ^ (xfCap (xfWords (precP prec)) - precP prec)))).num =
      some (signOf s * (2 - (2 : ℚ) ^ (-(precP prec : ℤ))) * (2 : ℚ) ^ 16383) := by
  obtain ⟨-, -, hcap, -⟩ := xfWords_bounds hp hp'
  have hP : 0 < 2 ^ precP prec := by positivity
  have hpow : 2 ^ xfCap (xfWords (precP prec)) = 2 ^ precP prec * 2 ^ (xfCap (xfWords (precP prec)) - precP prec) := by
    rw [← pow_add, Nat.add_sub_of_le hcap]
  have hf : (2 ^ precP prec - 1) * 2 ^ (xfCap (xfWords (precP prec)) - precP prec) < 2 ^ xfCap (xfWords (precP prec)) := by
    rw [hpow]
    exact Nat.mul_lt_mul_of_pos_right (Nat.sub_one_lt hP.ne') (by positivity)
  have hsum : ((2 ^ xfCap (xfWords (precP prec)) + (2 ^ precP prec - 1) * 2 ^ (xfCap (xfWords (precP prec)) - precP prec) : ℕ) : ℚ) =
      (2 - (2 : ℚ) ^ (-(precP prec : ℤ))) * 2 ^ xfCap (xfWords (precP prec)) := by
    have hq : (2 : ℚ) ^ xfCap (xfWords (precP prec)) = 2 ^ precP prec * 2 ^ (xfCap (xfWords (precP prec)) - precP prec) := by exact_mod_cast hpow
    rw [Nat.cast_add, Nat.cast_mul, Nat.cast_sub hP]
    push_cast
    rw [hq, zpow_neg, zpow_natCast]
    field_simp
    ring
  rw [xfVal_packed hp hp' s (by decide) hf, if_neg (by decide), if_neg (by decide), Val.num_fin, hsum, mul_assoc _ (2 ^ _ : ℚ), ← zpow_natCast 2,
    ← zpow_natCast 2 16383, ← zpow_add₀ (by norm_num), ← mul_assoc]
  congr 3
  push_cast
  ring

/-- A result within the range is written as the value of its significand. -/
theorem xfWrite_within (s : Bool) {m : Nat} (hm : m ≠ 0) (e : ℤ) (h1 : -16382 ≤ xfPower prec s m e) (h2 : xfPower prec s m e ≤ 16383) :
    (xfVal (xfWrite prec (.fin s m e)).words).num = some (signOf s * (xfSig prec s m e * 2 ^ xfPlace prec m e)) ∧
      (xfWrite prec (.fin s m e)).xuf = false ∧ (xfWrite prec (.fin s m e)).exhausted = !exactAt m e (xfPlace prec m e) := by
  obtain ⟨-, -, hcap, -⟩ := xfWords_bounds hp hp'
  obtain ⟨hlow, hhigh⟩ := significand_bounds (precMode prec) s hm e (precP prec)
  obtain ⟨hlog, hlog'⟩ := significand_log2 (precMode prec) s hm e (precP prec)
  change 2 ^ precP prec ≤ xfSig prec s m e at hlow
  change xfSig prec s m e ≤ 2 ^ (precP prec + 1) at hhigh
  change precP prec ≤ (xfSig prec s m e).log2 at hlog
  change (xfSig prec s m e).log2 ≤ precP prec + 1 at hlog'
  rw [xfWrite_fin prec s hm]
  dsimp only
  rw [if_neg (by omega), if_neg (by omega)]
  refine ⟨?_, rfl, rfl⟩
  have hr : xfSig prec s m e ≠ 0 := ((Nat.two_pow_pos _).trans_le hlow).ne'
  have hfrac := significand_fraction (cap := xfCap (xfWords (precP prec))) hr (by
    rcases hlog'.lt_or_eq with h | h
    · exact .inl ((Nat.lt_succ_iff.mp h).trans hcap)
    · exact .inr (le_antisymm (h ▸ hhigh) (Nat.log2_self_le hr)))
  rw [xfVal_packed hp hp' s (by omega) (Nat.mod_lt _ (by positivity)), if_neg (by omega), if_neg (by omega), Val.num_fin]
  congr 2
  rw [show ((xfPower prec s m e + 16383).toNat : ℤ) - 16383 = (xfSig prec s m e).log2 + xfPlace prec m e by
    have : ((xfPower prec s m e + 16383).toNat : ℤ) = xfPower prec s m e + 16383 := by omega
    rw [this, xfPower]
    ring]
  generalize xfSig prec s m e = r at *
  generalize xfCap (xfWords (precP prec)) = cap at *
  have hq : ((2 ^ cap + r * 2 ^ cap / 2 ^ r.log2 % 2 ^ cap : ℕ) : ℚ) * 2 ^ r.log2 = r * 2 ^ cap := by exact_mod_cast hfrac
  rw [sub_eq_add_neg, zpow_add₀ (by norm_num), zpow_add₀ (by norm_num), zpow_natCast, zpow_neg, zpow_natCast, ← mul_assoc, ← mul_assoc, hq]
  field_simp

theorem xfWrite_overflow (s : Bool) {m : Nat} (hm : m ≠ 0) {e : ℤ} (h : 16384 ≤ (m.log2 : ℤ) + e) :
    (xfWrite prec (.fin s m e)).xuf = false ∧ (xfWrite prec (.fin s m e)).exhausted = false ∧
      (overflowsToInf (precMode prec) s = true → xfVal (xfWrite prec (.fin s m e)).words = .inf s) ∧
      (overflowsToInf (precMode prec) s = false → (xfVal (xfWrite prec (.fin s m e)).words).num =
        some (signOf s * (2 - (2 : ℚ) ^ (-(precP prec : ℤ))) * (2 : ℚ) ^ 16383)) := by
  have hpower := (xfPower_bounds prec s hm e).1
  rw [xfWrite_fin prec s hm]
  dsimp only
  rw [if_pos (by omega)]
  cases overflowsToInf (precMode prec) s with
  | true => exact ⟨rfl, rfl, fun _ => xfVal_inf hp hp' s, fun h => (nomatch h)⟩
  | false => exact ⟨rfl, rfl, fun h => (nomatch h), fun _ => xfVal_largest hp hp' s⟩

theorem xfWrite_underflow (s : Bool) {m : Nat} (hm : m ≠ 0) {e : ℤ} (h : (m.log2 : ℤ) + e < -16383) :
    xfVal (xfWrite prec (.fin s m e)).words = .fin s 0 0 ∧ (xfWrite prec (.fin s m e)).xuf = true ∧ (xfWrite prec (.fin s m e)).exhausted = false := by
  have hpower := (xfPower_bounds prec s hm e).2
  rw [xfWrite_fin prec s hm]
  dsimp only
  rw [if_neg (by omega), if_pos (by omega)]
  exact ⟨xfVal_zero hp hp' s, rfl, rfl⟩

end Bounded

/-- The modes in which an overflow gives the largest number, and those in which it gives the infinity (R71, R79). -/
theorem overflowsToInf_eq_false {rm : Nat} {s : Bool} (h : rm = 1 ∨ rm = 4 ∨ (rm = 2 ∧ s = true) ∨ (rm = 3 ∧ s = false)) :
    overflowsToInf (modeOf rm) s = false := by
  rcases h with rfl | rfl | ⟨rfl, rfl⟩ | ⟨rfl, rfl⟩ <;> rfl
theorem overflowsToInf_eq_true {rm : Nat} {s : Bool} (h : rm = 0 ∨ (rm = 2 ∧ s = false) ∨ (rm = 3 ∧ s = true)) :
    overflowsToInf (modeOf rm) s = true := by
  rcases h with rfl | ⟨rfl, rfl⟩ | ⟨rfl, rfl⟩ <;> rfl

section Bounded

variable {prec : Word} (hp : 1 ≤ precP prec) (hp' : precP prec ≤ 237)
include hp hp'

/-- A value of at most `P` bits within the range is written as it is. -/
theorem xfWrite_exact (s : Bool) {m : Nat} (hm : m ≠ 0) {e : ℤ} (hbits : m.log2 ≤ precP prec) (h1 : -16382 ≤ (m.log2 : ℤ) + e)
    (h2 : (m.log2 : ℤ) + e ≤ 16383) : (xfWrite prec (.fin s m e)).xuf = false ∧ (xfWrite prec (.fin s m e)).exhausted = false ∧
      (xfVal (xfWrite prec (.fin s m e)).words).num = some (signOf s * (m * 2 ^ e)) := by
  obtain ⟨hval, hexact, hpow⟩ := significand_exact (precMode prec) s hm e (precP prec) hbits
  have hle : xfPower prec s m e ≤ (m.log2 : ℤ) + e := hpow
  obtain ⟨hnum, hxuf, hex⟩ := xfWrite_within hp hp' s hm e (h1.trans (xfPower_bounds prec s hm e).1) (hle.trans h2)
  refine ⟨hxuf, hex.trans (congrArg not hexact), hnum.trans ?_⟩
  rw [← hval]
  rfl

/-- A value within the range is rounded in the mode of PREC, and is exhausted where bits were lost. -/
theorem xfWrite_rounded (s : Bool) {m : Nat} (hm : m ≠ 0) {e : ℤ} (h1 : -16382 ≤ (m.log2 : ℤ) + e) (h2 : (m.log2 : ℤ) + e ≤ 16382) :
    ∃ r k, (xfVal (xfWrite prec (.fin s m e)).words).num = some r ∧ (xfWrite prec (.fin s m e)).xuf = false ∧
      RoundsBy (precRM prec) (signOf s * (m * 2 ^ e)) r ((2 : ℚ) ^ ((m.log2 : ℤ) + e - precP prec)) k ∧
      ((xfWrite prec (.fin s m e)).exhausted = true ↔ r ≠ signOf s * (m * 2 ^ e)) := by
  obtain ⟨hround, hexact⟩ := roundAt_rounded (precMode prec) s m e (xfPlace prec m e)
  obtain ⟨hlow, hhigh⟩ := xfPower_bounds prec s hm e
  obtain ⟨hnum, hxuf, hex⟩ := xfWrite_within hp hp' s hm e (h1.trans hlow) (hhigh.trans (by omega))
  have hs : signOf s ≠ 0 := fun h => by simpa [h] using signOf_mul_self s
  refine ⟨_, xfSig prec s m e, hnum, hxuf, hround.roundsBy (by positivity) (by positivity), ?_⟩
  rw [hex, Bool.not_eq_true', ← Bool.not_eq_true, hexact, Ne, mul_right_inj' hs]
  rfl

theorem xfWrite_nan : let n := (xfWrite prec .nan).words
    xfVal n = .nan ∧ (n.getD 0 0).getLsbD 28 = false ∧ xfExp (n.getD 0 0) = 0x7FFF ∧ xfFrac n = 2 ^ (13 + 32 * (n.length - 1) - 1) := by
  obtain ⟨h1, h8, hcap, -⟩ := xfWords_bounds hp hp'
  intro n
  have hf : 2 ^ (xfCap (xfWords (precP prec)) - 1) < 2 ^ xfCap (xfWords (precP prec)) := Nat.pow_lt_pow_right (by decide) (by omega)
  have hlen : n.length = xfWords (precP prec) := xfPack_length h1 _ _ _
  rw [hlen]
  exact ⟨(xfVal_packed hp hp' false (by decide) hf).trans (if_neg (Nat.two_pow_pos _).ne'), xfSign_xfPack h1 h8 false (by decide),
    xfExp_xfPack h1 h8 false (by decide), xfFrac_xfPack h1 h8 false (by decide) hf⟩

end Bounded

/-- Settles O33: the words are packed at the smallest length, and their value is that of the rounded significand, of an overflow or of an underflow. -/
theorem xfWrite_spec : Obligations.XfWrite := by
  refine ⟨fun prec s m e x hp hp' _ hm hx => ?finite, fun prec hp hp' => ⟨fun v hv => ?lengths, xfWrite_nan hp hp',
    fun s => ⟨xfVal_inf hp hp' s, fun e => xfVal_zero hp hp' s⟩⟩⟩
  case finite =>
    obtain rfl : signOf s * (m * 2 ^ e) = x := Option.some.inj ((Val.num_fin s m e).symm.trans hx)
    obtain ⟨hlen, hcap, hmin⟩ := xfWrite_smallest hp hp' (.fin s m e)
    refine ⟨hlen, hcap, hmin, xfWrite_exact hp hp' s hm, fun h hrm => ?_, xfWrite_underflow hp hp' s hm, xfWrite_rounded hp hp' s hm, fun h => ?_⟩
    · obtain ⟨hxuf, hex, hinf, -⟩ := xfWrite_overflow hp hp' s hm h
      exact ⟨hinf (overflowsToInf_eq_true (.inl hrm)), hxuf, hex⟩
    · obtain ⟨hxuf, hex, hinf, hmax⟩ := xfWrite_overflow hp hp' s hm h
      exact ⟨hxuf, hex, fun hrm => hmax (overflowsToInf_eq_false hrm), fun hrm => hinf (overflowsToInf_eq_true (.inr hrm))⟩
  case lengths =>
    obtain ⟨hlen, hcap, hmin⟩ := xfWrite_smallest hp hp' v
    refine ⟨hlen, hcap, hmin, ?_⟩
    rcases hv with rfl | ⟨s, rfl⟩ | ⟨s, e, rfl⟩ <;> exact ⟨rfl, rfl⟩

end Sys2Proof.Machine

/-!
LAWS. Engine commands (R266, R276, R277, R389, R390): what the accesses of an engine leave as it is, the checks before a body, and the units that a step
performs.
-/

namespace Sys2Proof.Machine

open Sys2Proof

/-! ### What an engine's accesses leave as it is -/

/-- The command `k` keeps its bytes, its team and its state. -/
def State.KeepsCmd (k : Nat) (s m : State) : Prop :=
  (m.cmd? k).map (fun d => (d.bytes, d.team, d.state)) = (s.cmd? k).map fun d => (d.bytes, d.team, d.state)

theorem State.KeepsCmd.refl (k : Nat) (s : State) : s.KeepsCmd k s := rfl
theorem State.KeepsCmd.trans {k : Nat} {s m n : State} (h : s.KeepsCmd k m) (g : m.KeepsCmd k n) : s.KeepsCmd k n := Eq.trans g h

theorem State.KeepsCmd.of_cmds {k : Nat} {s m : State} (h : m.cmds = s.cmds) : s.KeepsCmd k m := by
  unfold State.KeepsCmd State.cmd?
  rw [h]

theorem State.KeepsWork.keepsCmd {k : Nat} {s m : State} (h : s.KeepsWork m) : s.KeepsCmd k m :=
  .of_cmds (State.keepsWork_iff.mp h).2.2.2.2.1

theorem State.KeepsCmd.found {k : Nat} {s m : State} (h : s.KeepsCmd k m) {d : Cmd} (hd : s.cmd? k = some d) :
    ∃ d', m.cmd? k = some d' ∧ d'.bytes = d.bytes ∧ d'.team = d.team ∧ d'.state = d.state := by
  unfold State.KeepsCmd at h
  rw [hd] at h
  obtain ⟨d', hd', heq⟩ := Option.map_eq_some_iff.mp h
  simp only [Prod.mk.injEq] at heq
  exact ⟨d', hd', heq⟩

theorem State.modCmd_keepsCmd (s : State) (k : Nat) (f : Cmd → Cmd) (hid : ∀ d, (f d).id = d.id)
    (hf : ∀ d, ((f d).bytes, (f d).team, (f d).state) = (d.bytes, d.team, d.state)) : s.KeepsCmd k (s.modCmd k f) := by
  unfold State.KeepsCmd
  rw [State.cmd?_modCmd s k f hid, Option.map_map]
  exact congrArg (Option.map · _) (funext hf)

theorem State.KeepsCmd.of_modCmd {k : Nat} {s m : State} (f : Cmd → Cmd) (h : m.cmds = (s.modCmd k f).cmds) (hid : ∀ d, (f d).id = d.id)
    (hf : ∀ d, ((f d).bytes, (f d).team, (f d).state) = (d.bytes, d.team, d.state)) : s.KeepsCmd k m :=
  (s.modCmd_keepsCmd k f hid hf).trans (.of_cmds h)

theorem State.leaseChecks_keepsWork (s : State) (ctx : Nat) (a : Access) : s.KeepsWork (s.leaseChecks ctx a) := by
  unfold State.leaseChecks
  split
  · exact List.foldlRecOn _ _ (.refl s) fun m hm l _ => hm.trans (m.leaseCheck_keepsWork _ _ _ _)
  · exact .refl s

theorem State.readSpace_keepsWork (s : State) (a : Access) : s.KeepsWork (s.readSpace a).1 := by
  unfold State.readSpace
  split
  · exact (s.readHome_atHomes _).keepsWork
  · split <;> exact .refl s
  · split <;> exact .refl s

theorem State.writeSpace_cmds (s : State) (a : Access) (data : List Byte) : (s.writeSpace a data).1.cmds = s.cmds := by
  unfold State.writeSpace
  split
  · exact (s.writeHome_atHomes _ _).cmds
  · rfl
  · rfl

theorem State.redAtDie_cmds (s : State) (die rop pa : Nat) (x : Dword) : (s.redAtDie die rop pa x).1.cmds = s.cmds := by
  unfold State.redAtDie
  dsimp only
  split_ifs
  · exact (s.merge_atHomes _).cmds
  · exact (s.merge_atHomes _).cmds
  · rfl
  · rfl

theorem State.redAt_keepsCmd {k : Nat} (s : State) (ctx die rop : Nat) (a : Access) (x : Dword) : s.KeepsCmd k (s.redAt ctx die rop a x).1 := by
  refine .trans ?_ (.of_cmds (State.redAtDie_cmds _ _ _ _ _))
  split
  · exact (s.mergeChecks_keepsWork ctx a).keepsCmd
  · exact .refl k s

theorem State.engineRes_keepsWork (s : State) (c : Cmd) (t : Team) (a n need align : Nat) : s.KeepsWork (s.engineRes c t a n need align).1 := by
  unfold State.engineRes
  dsimp only
  split
  · exact .refl s
  · split
    · exact .refl s
    · split
      · exact s.global_keepsWork _ _ _ _ _ _ _
      · exact .refl s

theorem State.scrub_keepsCmd (s : State) (c : Cmd) (p : Nat → Sram) (at_ : List Nat) : s.KeepsCmd c.id (s.scrub c p at_) := by
  unfold State.scrub
  split
  · exact .refl _ s
  · exact .of_modCmd _ rfl (fun _ => rfl) fun _ => rfl

theorem State.mend_keepsCmd (s : State) (c : Cmd) (x : Access) : s.KeepsCmd c.id (s.mend c x) := by
  unfold State.mend
  split
  · exact .refl _ s
  · exact .of_modCmd _ rfl (fun _ => rfl) fun _ => rfl

theorem State.rewritten_keepsCmd (s : State) (c : Cmd) (x : Access) : s.KeepsCmd c.id (s.rewritten c x) := by
  unfold State.rewritten
  split
  · exact s.scrub_keepsCmd c _ _
  · exact s.mend_keepsCmd c x

section Accesses

variable {s m : State} {c : Cmd} {t : Team} {a n align off w : Nat} {bs : List Byte}

/-- A read that succeeds resolves its address and reads what is there. -/
theorem State.engineRead_ok (h : s.engineRead c t a n align off = .ok m bs w) :
    ∃ s1 x, s.engineRes c t a n 0 align = (s1, .ok x) ∧ s1.readChecked t.ctx x = (m, bs, w) := by
  unfold State.engineRead at h
  dsimp only at h
  split at h
  · next s1 x hres =>
    split at h
    · exact nomatch h
    · split at h
      · exact nomatch h
      · injection h with h1 h2 h3
        exact ⟨s1, x, hres, Prod.ext h1 (Prod.ext h2 h3)⟩
  · exact nomatch h

theorem State.engineRead_keepsWork (h : s.engineRead c t a n align off = .ok m bs w) : s.KeepsWork m := by
  obtain ⟨s1, x, hres, hread⟩ := State.engineRead_ok h
  have h1 := s.engineRes_keepsWork c t a n 0 align
  rw [hres] at h1
  have h2 := (s1.mergeChecks_keepsWork t.ctx x).trans (State.readSpace_keepsWork _ x)
  rw [show ((s1.mergeChecks t.ctx x).readSpace x).1 = m from congrArg Prod.fst hread] at h2
  exact h1.trans h2

/-- Reads of several pieces keep what each read keeps. -/
theorem State.engineBytes_keepsWork (h : s.engineBytes c t a off n = .ok m bs w) : s.KeepsWork m := by
  induction n generalizing s a bs w with
  | zero =>
    injection h with h1
    exact h1 ▸ .refl s
  | succ n ih =>
    unfold State.engineBytes at h
    split at h
    · exact nomatch h
    · next h1 =>
      split at h
      · exact nomatch h
      · next h2 =>
        injection h with h3
        exact (State.engineRead_keepsWork h1).trans (ih (h3 ▸ h2))

theorem State.engineWrite_keepsCmd {data : List Byte} (h : s.engineWrite c t a align off data = .done m w) : s.KeepsCmd c.id m := by
  unfold State.engineWrite at h
  split at h
  · next s1 x hres =>
    have h1 := s.engineRes_keepsWork c t a data.length 1 align
    rw [hres] at h1
    split at h
    · exact nomatch h
    · injection h with h2
      subst h2
      exact ((h1.keepsCmd.trans (s1.rewritten_keepsCmd c x)).trans (State.leaseChecks_keepsWork _ _ x).keepsCmd).trans
        (.of_cmds (State.writeSpace_cmds _ _ _))
  · next r _ hr =>
    cases r <;> exact nomatch h

theorem State.engineCombine_keepsCmd {rop : Nat} {x : Dword} (h : s.engineCombine c t a n rop off x = .done m w) : s.KeepsCmd c.id m := by
  unfold State.engineCombine at h
  split at h
  · next s1 p hres =>
    have h1 := s.engineRes_keepsWork c t a n 1 n
    rw [hres] at h1
    dsimp only at h
    split at h
    · injection h with h2
      subst h2
      exact h1.keepsCmd.trans (s1.redAt_keepsCmd _ _ _ _ _)
    · split at h
      · exact nomatch h
      · split at h
        · exact nomatch h
        · injection h with h2
          subst h2
          exact (h1.keepsCmd.trans ((s1.leaseChecks_keepsWork t.ctx p).trans (State.readSpace_keepsWork _ p)).keepsCmd).trans
            (.of_cmds (State.writeSpace_cmds _ _ _))
  · next r _ hr =>
    cases r <;> exact nomatch h

theorem State.peerCombine_keepsCmd {k ctx va op : Nat} {x : Word} (h : s.peerCombine ctx va op x = .ok (m, w)) : s.KeepsCmd k m := by
  unfold State.peerCombine at h
  split at h
  · exact nomatch h
  · next s1 p hres =>
    have h1 : s.KeepsWork s1 := by
      unfold State.peerRes at hres
      dsimp only at hres
      split at hres
      · exact nomatch hres
      · split at hres
        · exact nomatch hres
        · next cx _ =>
          have hg := s.global_keepsWork bridge0 none cx (va % 2 ^ 56) 4 1 3
          split at hres
          · next heq =>
            injection hres with hres
            rw [heq] at hg
            exact (Prod.mk.inj hres).1 ▸ hg
          · exact nomatch hres
          · exact nomatch hres
    dsimp only at h
    split at h
    · injection h with h2
      obtain rfl := congrArg Prod.fst h2
      exact h1.keepsCmd.trans (s1.redAt_keepsCmd _ _ _ _ _)
    · split at h
      · exact nomatch h
      · injection h with h2
        obtain rfl := congrArg Prod.fst h2
        exact (h1.trans (s1.homeRead_keepsWork ctx p)).keepsCmd.trans
          ((State.leaseChecks_keepsWork _ ctx p).trans (State.writeHome_atHomes _ _ _).keepsWork).keepsCmd

end Accesses

/-! ### The checks before a body -/

/-- No field is at fault where every listed field passes and every byte that none of them shows is zero. -/
theorem firstFault_eq_none {bytes : List Byte} {fs : List (Nat × Nat × Bool)} (hok : ∀ f ∈ fs, f.2.2 = false)
    (hzero : ∀ i < 64, (∀ f ∈ fs, ¬ (f.1 ≤ i ∧ i < f.1 + f.2.1)) → fieldLe bytes i 1 = 0) : firstFault bytes fs = none := by
  unfold firstFault
  refine List.findSome?_eq_none_iff.mpr fun i hi => ?_
  dsimp only
  split
  · next f hf =>
    exact if_neg fun h => by
      rw [hok f (List.mem_of_find?_eq_some hf)] at h
      exact absurd h.2 (by decide)
  · next hf =>
    refine if_pos (hzero i (List.mem_range.mp hi) fun f hmem => ?_)
    simpa using List.find?_eq_none.mp hf f hmem

/-- The header of a fit command passes, and shows the bytes below 16. -/
theorem State.Fit.header {s : State} {c : Cmd} {t : Team} {opc : Nat} {shown : List (Nat × Nat)} (h : s.Fit c t opc shown) :
    ∀ f ∈ c.header, f.2.2 = false := by
  obtain ⟨hopc, hcls, hflags, htag, hclass, hzero, -, -⟩ := h
  have hmask : fieldLe c.bytes 1 1 % (flagMask c.opc + 1) = fieldLe c.bytes 1 1 := by
    rw [hopc]
    refine Nat.mod_eq_of_lt ?_
    unfold flagMask
    split at hflags
    · next h => rwa [if_pos h]
    · next h => rwa [if_neg h]
  have hcontains : (classOps c.cls).contains c.opc = true := List.contains_iff_mem.mpr (hopc ▸ hcls)
  have htag' : decide (64 ≤ c.tag ∧ c.tag < 255) = false := decide_eq_false (by omega)
  simp only [Cmd.header, List.forall_mem_cons, hcontains, hmask, htag', hclass, hzero]
  simp

theorem Cmd.header_shows (c : Cmd) {i : Nat} (hi : i < 16) : ∃ f ∈ c.header, f.1 ≤ i ∧ i < f.1 + f.2.1 := by
  simp only [Cmd.header, List.mem_cons, List.not_mem_nil, or_false, exists_eq_or_imp, exists_eq_left]
  omega

/-- The checks of a fit command find nothing where its body's fields and its opcode's own checks pass. -/
theorem State.Fit.precheck {s : State} {c : Cmd} {t : Team} {opc : Nat} {shown : List (Nat × Nat)} (h : s.Fit c t opc shown)
    {body : List (Nat × Nat × Bool)} {more : List (Option (Nat × Nat))} (hbody : ∀ f ∈ body, f.2.2 = false)
    (hshown : ∀ f ∈ shown, ∃ b, (f.1, f.2, b) ∈ body) (hmore : ∀ o ∈ more, o = none) : s.precheck c t body more = .clear := by
  have hfault : firstFault c.bytes (c.header ++ body) = none := by
    refine firstFault_eq_none (fun f hf => (List.mem_append.mp hf).elim (h.header f) (hbody f)) fun i hi hnone => ?_
    obtain ⟨-, -, -, -, -, -, -, hzero⟩ := h
    refine hzero i ?_ hi fun f hf hin => ?_
    · by_contra hlt
      obtain ⟨f, hf, hin⟩ := c.header_shows (not_le.mp hlt)
      exact hnone f (List.mem_append_left _ hf) hin
    · obtain ⟨b, hb⟩ := hshown f hf
      exact hnone _ (List.mem_append_right _ hb) hin
  obtain ⟨-, -, -, htag, -, -, hst, -⟩ := h
  have hown : ¬ (c.tag < 64 ∧ (!c.tagged) = true) := by
    rcases htag with ⟨-, h⟩ | h
    · simp [h]
    · omega
  have hclear : more.findSome? id = none := List.findSome?_eq_none_iff.mpr hmore
  unfold State.precheck
  rw [hst]
  dsimp only
  rw [hfault]
  dsimp only
  rw [if_neg hown, hclear]

theorem shown_of_map {shown : List (Nat × Nat)} {body : List (Nat × Nat × Bool)} (h : shown = body.map fun f => (f.1, f.2.1)) :
    ∀ f ∈ shown, ∃ b, (f.1, f.2, b) ∈ body := by
  rw [h]
  intro f hf
  obtain ⟨g, hg, rfl⟩ := List.mem_map.mp hf
  exact ⟨g.2.2, hg⟩

/-! ### A command as its engine takes it up -/

theorem State.cmd?_modCmd_of {s : State} {k : Nat} {d : Cmd} (h : s.cmd? k = some d) {f : Cmd → Cmd} (hf : ∀ x, (f x).id = x.id) :
    (s.modCmd k f).cmd? k = some (f d) := by
  rw [State.cmd?_modCmd s k f hf, h, Option.map_some]

/-- The command under way. -/
def Cmd.taken (c : Cmd) : Cmd := { c with state := .running }

@[simp] theorem Cmd.taken_u (c : Cmd) (i n : Nat) : c.taken.u i n = c.u i n := rfl
@[simp] theorem Cmd.taken_addr (c : Cmd) (i : Nat) : c.taken.addr i = c.addr i := rfl
@[simp] theorem Cmd.taken_s32 (c : Cmd) (i : Nat) : c.taken.s32 i = c.s32 i := rfl

theorem Cmd.taken_of_running {c : Cmd} (h : c.state = .running) : c.taken = c := by
  unfold Cmd.taken
  rw [← h]

theorem mapIf_eq_self {α : Type} {p : α → Bool} {f : α → α} (h : ∀ x, f x = x) (l : List α) : mapIf p f l = l := by
  unfold mapIf
  conv_rhs => rw [← List.map_id l]
  refine List.map_congr_left fun x _ => ?_
  rw [h, ite_self, id]

theorem State.begun_of_running {s : State} {c : Cmd} (h : c.state = .running) : s.begun c = s := by
  have hid : ∀ x : Cmd, (if c.state = .queued then { x with state := .running } else x) = x := fun x =>
    if_neg fun hq => nomatch (h.symm.trans hq : CmdState.running = .queued)
  show { s with cmds := mapIf _ _ s.cmds } = s
  rw [mapIf_eq_self hid]

theorem State.begun_of_queued {s : State} {c : Cmd} (h : c.state = .queued) : s.begun c = s.modCmd c.id fun x => { x with state := .running } :=
  congrArg (s.modCmd c.id) (funext fun _ => if_pos h)

section MayRun

variable {s : State} {c : Cmd} {t : Team} {opc : Nat} {shown : List (Nat × Nat)} {more : Prop}

/-- What the engine finds of a command that it may begin or go on with. -/
theorem State.startable_spec (h : s.startable c.id = some (c, t)) :
    s.cmd? c.id = some c ∧ s.team? c.team = some t ∧ t.id = c.team ∧ (c.state = .queued ∨ c.state = .running) := by
  unfold State.startable at h
  split at h
  · exact nomatch h
  · next d hd =>
    split at h
    · exact nomatch h
    · next u hu =>
      dsimp only at h
      split at h
      · next hstate =>
        injection h with h
        obtain ⟨rfl, rfl⟩ := Prod.mk.inj h
        rw [Bool.and_eq_true, Bool.or_eq_true, beq_iff_eq, beq_iff_eq] at hstate
        exact ⟨hd, hu, beq_iff_eq.mp (List.find?_some (p := fun x : Team => x.id == d.team) hu), hstate.1⟩
      · exact nomatch h

theorem State.MayRun.cmd?_begun (h : s.MayRun c t opc shown more) : (s.begun c).cmd? c.id = some c.taken := by
  obtain ⟨hc, -, -, hq | hr⟩ := State.startable_spec h.1
  · rw [State.begun_of_queued hq]
    exact State.cmd?_modCmd_of hc fun _ => rfl
  · rw [State.begun_of_running hr, hc, Cmd.taken_of_running hr]

/-- A command under way goes on with its body. -/
theorem State.startCmd_of_running (hstart : s.startable c.id = some (c, t)) (hopc : c.opc = opc) (hr : c.state = .running)
    (body : Cmd → Team → List (Nat × Nat × Bool)) (checks : Cmd → Team → List (Option (Nat × Nat))) (run : State → Cmd → Team → State) :
    s.startCmd c.id opc body checks run = run (s.begun c) c.taken t := by
  have hyes : (c.state == .running) = true := by rw [hr]; decide
  rw [State.begun_of_running hr, Cmd.taken_of_running hr]
  unfold State.startCmd
  rw [hstart]
  dsimp only
  rw [if_neg (not_not.mpr hopc), if_pos hyes]

/-- A command that its engine may begin or go on with runs its body, its checks over or passing. -/
theorem State.MayRun.startCmd (h : s.MayRun c t opc shown more) {body : Cmd → Team → List (Nat × Nat × Bool)}
    {checks : Cmd → Team → List (Option (Nat × Nat))} {run : State → Cmd → Team → State}
    (hshown : ∀ f ∈ shown, ∃ b, (f.1, f.2, b) ∈ body c t)
    (hbody : c.state = .queued → s.Fit c t opc shown → more → ∀ f ∈ body c t, f.2.2 = false)
    (hchecks : c.state = .queued → more → ∀ o ∈ checks c t, o = none) :
    s.startCmd c.id opc body checks run = run (s.begun c) c.taken t := by
  obtain ⟨hstart, hopc, hfit⟩ := h
  obtain ⟨-, -, -, hq | hr⟩ := State.startable_spec hstart
  · obtain ⟨hfit, hmore⟩ := hfit hq
    have hnot : ¬ (c.state == .running) = true := by rw [hq]; decide
    rw [State.begun_of_queued hq]
    unfold State.startCmd
    rw [hstart]
    dsimp only
    rw [if_neg (not_not.mpr hopc), if_neg hnot, hfit.precheck (hbody hq hfit hmore) hshown (hchecks hq hmore)]
    rfl
  · exact State.startCmd_of_running hstart hopc hr _ _ _

end MayRun

/-! ### Units of work -/

/-- The order that the units are performed in is the model's. -/
theorem Cmd.Order.unitOrder {c : Cmd} {n : Nat} {some_ order : List Nat} (h : c.Order n some_ order) : order = unitOrder n c.units some_ := by
  obtain ⟨hnone, hsome⟩ := h
  have hleft : ((List.range n).filter fun i => !c.units.contains i) = (List.range n).filter fun i => decide (i ∉ c.units) :=
    List.filter_congr fun i _ => by simp
  have hcontains : ∀ l : List Nat, l.contains = fun i => decide (i ∈ l) := fun l => funext fun i => by simp
  unfold Sys2Proof.Machine.unitOrder
  dsimp only
  rw [hleft, hcontains]
  generalize (List.range n).filter (fun i => decide (i ∉ c.units)) = left at *
  by_cases hex : ∃ j ∈ some_, j ∈ left
  · obtain ⟨j, hj, hjl⟩ := hex
    have hmem : j ∈ some_.dedup.filter fun i => decide (i ∈ left) := List.mem_filter.mpr ⟨List.mem_dedup.mpr hj, decide_eq_true hjl⟩
    rw [if_neg (by rw [List.isEmpty_iff]; exact List.ne_nil_of_mem hmem)]
    exact hsome ⟨j, hj, hjl⟩
  · have hempty : (some_.dedup.filter fun i => decide (i ∈ left)) = [] := List.filter_eq_nil_iff.mpr fun i hi hl =>
      hex ⟨i, List.mem_dedup.mp hi, of_decide_eq_true hl⟩
    rw [hempty, List.isEmpty_nil, if_pos rfl]
    exact hnone fun j hj hjl => hex ⟨j, hj, hjl⟩

theorem Performs.keepsCmd {k : Nat} {P : Nat → State → State → Prop} (hP : ∀ i m m', P i m m' → m.KeepsCmd k m') {order : List Nat} {s s1 : State}
    (h : Performs P order s s1) : s.KeepsCmd k s1 := by
  induction order generalizing s with
  | nil => exact h ▸ .refl k s
  | cons i rest ih =>
    obtain ⟨m, hi, hrest⟩ := h
    exact (hP i s m hi).trans (ih hrest)

/-- Units that are all done leave the device as they do one after another. -/
theorem runUnits_of_performs {P : Nat → State → State → Prop} {f : Nat → State → UnitRes} (hf : ∀ i m m', P i m m' → ∃ w, f i m = .done m' w)
    {order : List Nat} {s s1 : State} (h : Performs P order s s1) (done : List Nat) (tc : Nat) :
    ∃ tc', runUnits f order s done tc = (s1, order.reverse ++ done, tc', none) := by
  induction order generalizing s done tc with
  | nil => exact ⟨tc, by rw [show s1 = s from h]; rfl⟩
  | cons i rest ih =>
    obtain ⟨m, hi, hrest⟩ := h
    obtain ⟨w, hw⟩ := hf i s m hi
    obtain ⟨tc', htc⟩ := ih hrest (i :: done) (max tc w)
    refine ⟨tc', ?_⟩
    unfold runUnits
    rw [hw]
    dsimp only
    rw [htc, List.reverse_cons, List.append_assoc]
    rfl

theorem State.cmd?_cmdEnds {s : State} {k : Nat} {d : Cmd} (h : s.cmd? k = some d) (code detail count : Nat) :
    (s.cmdEnds k code detail count).cmd? k = some { d with state := .performed, code := code, detail := detail, count := count } :=
  State.cmd?_modCmd_of h fun _ => rfl

/-- The command with the units performed so far noted. -/
def Cmd.noting (units : List Nat) (tc : Nat) (x : Cmd) : Cmd := { x with units := units, tc := tc, state := .running }

/-- A step that performs units, each of which is done, is a step of work. -/
theorem State.runCmd_worked {s s1 : State} {c : Cmd} {t : Team} {n total : Nat} {some_ order : List Nat} {P : Nat → State → State → Prop}
    {f : Nat → State → UnitRes} {weigh : Nat → Nat} (hc : s.cmd? c.id = some c.taken) (horder : c.Order n some_ order)
    (hP : ∀ i m m', P i m m' → (∃ w, f i m = .done m' w) ∧ m.KeepsCmd c.id m') (h : Performs P order s s1) :
    s1.Worked (s.runCmd c.taken t n some_ f weigh total) c n order total := by
  obtain ⟨tc, hrun⟩ := runUnits_of_performs (fun i m m' hi => (hP i m m' hi).1) h c.units c.tc
  obtain ⟨d, hd, hbytes, hteam, -⟩ := (h.keepsCmd fun i m m' hi => (hP i m m' hi).2).found hc
  have hlen : (order.reverse ++ c.units).length = c.units.length + order.length := by
    rw [List.length_append, List.length_reverse, Nat.add_comm]
  have hstep : s.runCmd c.taken t n some_ f weigh total =
      if n ≤ c.units.length + order.length then (s1.modCmd c.id (Cmd.noting (order.reverse ++ c.units) tc)).cmdEnds c.id 0 0 total
      else s1.modCmd c.id (Cmd.noting (order.reverse ++ c.units) tc) := by
    unfold State.runCmd
    rw [show c.taken.units = c.units from rfl, ← horder.unitOrder, show c.taken.tc = c.tc from rfl, hrun]
    dsimp only
    rw [hlen]
    rfl
  have hfound : (s1.modCmd c.id (Cmd.noting (order.reverse ++ c.units) tc)).cmd? c.id = some (d.noting (order.reverse ++ c.units) tc) :=
    State.cmd?_modCmd_of hd fun _ => rfl
  rw [hstep]
  refine ⟨fun hdone => ?_, fun hmore => ?_⟩
  · rw [if_pos hdone]
    exact ⟨⟨_, State.cmd?_cmdEnds hfound 0 0 total, rfl, rfl, rfl, rfl, hbytes, hteam⟩, rfl⟩
  · rw [if_neg (not_le.mpr hmore)]
    refine ⟨rfl, _, hfound, rfl, hbytes, fun i => ?_⟩
    show i ∈ order.reverse ++ c.units ↔ _
    rw [List.mem_append, List.mem_reverse]
    exact or_comm

/-! ### COPY, COPYND and FILL -/

section Words

variable {m m' : State} {c : Cmd} {t : Team}

/-- A word read at one place and written at another, as a unit of a command under way. -/
theorem copyWord_done {src dst : Nat}
    (h : ∃ m1 bs w time, m.engineRead c t src 4 4 16 = .ok m1 bs w ∧ m1.engineWrite c t dst 4 24 bs = .done m' time) :
    (∃ w, copyWord c.taken t src dst 16 24 m = .done m' w) ∧ m.KeepsCmd c.id m' := by
  obtain ⟨m1, bs, w, time, hread, hwrite⟩ := h
  refine ⟨⟨time, ?_⟩, (State.engineRead_keepsWork hread).keepsCmd.trans (State.engineWrite_keepsCmd hwrite)⟩
  unfold copyWord
  rw [show m.engineRead c.taken t src 4 4 16 = .ok m1 bs w from hread]
  exact hwrite

end Words

section Moves

variable {s s1 : State} {c : Cmd} {t : Team} {some_ order : List Nat}

theorem State.copy_worked (h : s.MayRun c t 1 [(16, 8), (24, 8), (32, 8)] (c.u 32 8 % 4 = 0 ∧ c.u 32 8 ≤ 2 ^ 32))
    (ho : c.Order (c.u 32 8 / 4) some_ order)
    (hp : Performs (fun i m m' => ∃ m1 bs w time, m.engineRead c t (c.addr 16 + 4 * i) 4 4 16 = .ok m1 bs w ∧
      m1.engineWrite c t (c.addr 24 + 4 * i) 4 24 bs = .done m' time) order (s.begun c) s1) :
    s1.Worked (s.copy c.id some_) c (c.u 32 8 / 4) order (c.u 32 8) := by
  unfold State.copy
  rw [h.startCmd (shown_of_map rfl) (fun _ _ hmore => ?fields) fun _ _ _ hf => absurd hf List.not_mem_nil]
  · exact State.runCmd_worked h.cmd?_begun ho (fun i m m' hi => copyWord_done hi) hp
  case fields =>
    simp only [List.forall_mem_cons, List.not_mem_nil, false_implies, implies_true, true_and, and_true, decide_eq_false_iff_not]
    omega

theorem State.copynd_worked
    (h : s.MayRun c t 2 [(16, 8), (24, 8), (32, 4), (36, 2), (38, 2), (40, 4), (44, 4), (48, 4), (52, 4)]
      (c.u 32 4 % 4 = 0 ∧ c.u 36 2 ≠ 0 ∧ c.u 38 2 ≠ 0 ∧ c.u 40 4 % 4 = 0 ∧ c.u 44 4 % 4 = 0 ∧ c.u 48 4 % 4 = 0 ∧ c.u 52 4 % 4 = 0))
    {place : Nat → Int → Int → Nat → Nat} (hplace : place = fun (base : Nat) (s1 s2 : Int) (i : Nat) =>
      (((base : Int) + (4 * (i % (c.u 32 4 / 4)) : Nat) + (i / (c.u 32 4 / 4) % c.u 36 2 : Nat) * s1 + (i / (c.u 32 4 / 4) / c.u 36 2 : Nat) * s2) %
        (2 ^ 56 : Nat)).toNat)
    (ho : c.Order (c.u 32 4 / 4 * c.u 36 2 * c.u 38 2) some_ order)
    (hp : Performs (fun i m m' => ∃ m1 bs w time, m.engineRead c t (place (c.addr 16) (c.s32 40) (c.s32 44) i) 4 4 16 = .ok m1 bs w ∧
      m1.engineWrite c t (place (c.addr 24) (c.s32 48) (c.s32 52) i) 4 24 bs = .done m' time) order (s.begun c) s1) :
    s1.Worked (s.copynd c.id some_) c (c.u 32 4 / 4 * c.u 36 2 * c.u 38 2) order (c.u 32 4 * c.u 36 2 * c.u 38 2) := by
  have haddr : ∀ base s1 s2 i, addrPlus base (4 * (i % (c.u 32 4 / 4) : Nat) + (i / (c.u 32 4 / 4) % c.u 36 2 : Nat) * s1 +
      (i / (c.u 32 4 / 4) / c.u 36 2 : Nat) * s2) = place base s1 s2 i := fun base s1 s2 i => by
    rw [hplace]
    unfold addrPlus
    rw [← add_assoc, ← add_assoc]
    rfl
  unfold State.copynd
  rw [h.startCmd (shown_of_map rfl) (fun _ _ hmore => ?fields) fun _ _ _ hf => absurd hf List.not_mem_nil]
  · refine State.runCmd_worked h.cmd?_begun ho (fun i m m' hi => ?_) hp
    rw [← haddr, ← haddr] at hi
    exact copyWord_done hi
  case fields =>
    simpa [List.forall_mem_cons] using hmore

theorem State.fill_worked (h : s.MayRun c t 4 [(16, 8), (24, 8), (32, 4)] (c.u 24 8 % 4 = 0 ∧ c.u 24 8 ≤ 2 ^ 32))
    (ho : c.Order (c.u 24 8 / 4) some_ order)
    (hp : Performs (fun i m m' => ∃ time, m.engineWrite c t (c.addr 16 + 4 * i) 4 16 (toLe 4 (c.u 32 4)) = .done m' time) order (s.begun c) s1) :
    s1.Worked (s.fill c.id some_) c (c.u 24 8 / 4) order (c.u 24 8) := by
  unfold State.fill
  rw [h.startCmd (shown_of_map rfl) (fun _ _ hmore => ?fields) fun _ _ _ hf => absurd hf List.not_mem_nil]
  · exact State.runCmd_worked h.cmd?_begun ho (fun i m m' ⟨time, hw⟩ => ⟨⟨time, hw⟩, State.engineWrite_keepsCmd hw⟩) hp
  case fields =>
    simp only [List.forall_mem_cons, List.not_mem_nil, false_implies, implies_true, true_and, and_true, decide_eq_false_iff_not]
    omega

/-! ### OSBLOAD and ACCMOVE -/

theorem State.engineBytes_taken (s : State) (c : Cmd) (t : Team) (a off n : Nat) : s.engineBytes c.taken t a off n = s.engineBytes c t a off n := by
  induction n generalizing s a with
  | zero => rfl
  | succ n ih =>
    unfold State.engineBytes
    rw [show s.engineRead c.taken t a 1 1 off = s.engineRead c t a 1 1 off from rfl]
    split
    · rfl
    · rw [ih]

theorem State.osbload_worked {r : TileRec} (hr : c.tile? (s.oaOf t) (c.u 28 1) = some r) (hk : c.u 28 1 < 16) {lines : Nat}
    (hlines : lines = if c.u 34 2 = 0 then r.nl - c.u 32 2 else c.u 34 2)
    (h : s.MayRun c t 5 [(16, 8), (24, 4), (28, 1), (32, 2), (34, 2)] (c.u 32 2 + c.u 34 2 ≤ r.nl ∧ (c.u 34 2 = 0 → c.u 32 2 < r.nl)))
    (ho : c.Order ((r.lb + 3) / 4 * lines) some_ order)
    (hp : Performs (fun i m m' => ∃ m1 bs w, m.engineBytes c t
          (((c.addr 16 : Int) + ((i / ((r.lb + 3) / 4) : Nat) * c.s32 24 + (4 * (i % ((r.lb + 3) / 4)) : Nat))) % (2 ^ 56 : Nat)).toNat 16
          (min 4 (r.lb - 4 * (i % ((r.lb + 3) / 4)))) = .ok m1 bs w ∧
        m' = (m1.scrub c (.opbuf t.id) ((List.range (min 4 (r.lb - 4 * (i % ((r.lb + 3) / 4))))).map
            (r.off + (c.u 32 2 + i / ((r.lb + 3) / 4)) * r.lstr + 4 * (i % ((r.lb + 3) / 4)) + ·))).modTeam t.id
          fun u => { u with opbuf := putBytes u.opbuf (r.off + (c.u 32 2 + i / ((r.lb + 3) / 4)) * r.lstr + 4 * (i % ((r.lb + 3) / 4))) bs })
      order (s.begun c) s1) :
    s1.Worked (s.osbload c.id some_) c ((r.lb + 3) / 4 * lines) order (lines * r.lb) := by
  have htile : ∀ m : State, m.launches = s.launches → c.tile? (m.oaOf t) (c.u 28 1 % 16) = some r := fun m hm => by
    rw [Nat.mod_eq_of_lt hk, ← hr]
    unfold State.oaOf State.desc? State.launch?
    rw [hm]
  unfold State.osbload
  rw [h.startCmd (shown_of_map rfl) (fun _ _ _ => ?fields) fun _ hmore => ?checks]
  · dsimp only
    rw [show c.taken.tile? ((s.begun c).oaOf t) (c.taken.u 28 1 % 16) = some r from htile _ rfl]
    subst hlines
    refine State.runCmd_worked h.cmd?_begun ho (fun i m m' hi => ?_) hp
    obtain ⟨m1, bs, w, hread, rfl⟩ := hi
    refine ⟨⟨m1.coreT t, ?_⟩, (State.engineBytes_keepsWork hread).keepsCmd.trans ((m1.scrub_keepsCmd c _ _).trans (.of_cmds rfl))⟩
    have haddr : addrPlus (c.addr 16) ((i / ((r.lb + 3) / 4) : Nat) * c.s32 24 + 4 * (i % ((r.lb + 3) / 4) : Nat)) =
        (((c.addr 16 : Int) + ((i / ((r.lb + 3) / 4) : Nat) * c.s32 24 + (4 * (i % ((r.lb + 3) / 4)) : Nat))) % (2 ^ 56 : Nat)).toNat := rfl
    rw [State.engineBytes_taken, Cmd.taken_addr, Cmd.taken_s32, haddr, hread]
    rfl
  case fields =>
    simp only [List.forall_mem_cons, List.not_mem_nil, false_implies, implies_true, true_and, and_true, decide_eq_false_iff_not]
    omega
  case checks =>
    rw [htile s rfl]
    dsimp only
    rw [if_neg (by omega)]
    simp

end Moves

theorem State.accBad_eq_false {s : State} {t : Team} {e n : Nat} (h : ¬ s.AccPoisoned t e n) : s.accBad t.id e n = false := by
  unfold State.accBad
  rw [List.any_eq_false]
  exact fun i hi hbad => h ⟨i, List.mem_range.mp hi, List.contains_iff_mem.mp hbad⟩

section Accmove

variable {s s1 : State} {c : Cmd} {t : Team} {some_ order : List Nat}

/-- An entry as ACCMOVE writes it to memory, and one as it reads it from there (R277). -/
def Cmd.accOut (c : Cmd) (x : Word) : List Byte :=
  if c.u 33 1 = 0 then toLe 4 x.toNat else toLe 2 ((if c.u 33 1 = 1 then bf16 else fp16).enc .rne false (decF32 x))
def Cmd.accInto (c : Cmd) (bs : List Byte) : Word :=
  if c.u 33 1 = 0 then BitVec.ofNat 32 (leNat bs) else encF32 ((if c.u 33 1 = 1 then bf16 else fp16).dec (leNat bs))

theorem ite_size_eq_four {α : Type} (k : Nat) (x y : α) : (if (if k = 0 then 4 else 2) = 4 then x else y) = if k = 0 then x else y := by
  split <;> rfl

theorem State.accmove_worked {row size : Nat} (hrow : row = if c.u 36 4 = 0 then c.u 28 4 else c.u 36 4)
    (hsize : size = if c.u 33 1 = 0 then 4 else 2) {place : Nat → Nat}
    (hplace : place = fun (i : Nat) => (((c.addr 16 : Int) + ((i / row : Nat) * c.s32 40 + (i % row * size : Nat))) % (2 ^ 56 : Nat)).toNat)
    (h : s.MayRun c t 6 [(16, 8), (24, 4), (28, 4), (32, 1), (33, 1), (36, 4), (40, 4)]
      ((row ≠ 0 → c.u 28 4 % row = 0) ∧ c.u 32 1 ≤ 1 ∧ c.u 33 1 ≤ 2 ∧ c.u 40 4 % size = 0 ∧ c.u 24 4 + c.u 28 4 ≤ s.accOf t))
    (ho : c.Order (c.u 28 4) some_ order)
    (hp : Performs (fun i m m' =>
        (c.u 32 1 = 0 → ∃ u time, m.team? t.id = some u ∧ ¬ m.AccPoisoned u (c.u 24 4 + i) 1 ∧
          m.engineWrite c t (place i) size 16 (c.accOut (cget u.acc (c.u 24 4 + i))) = .done m' time) ∧
        (c.u 32 1 ≠ 0 → ∃ m1 bs w, m.engineRead c t (place i) size size 16 = .ok m1 bs w ∧
          m' = (m1.scrub c (.acc t.id) (accBytes (c.u 24 4 + i))).modTeam t.id fun u => { u with acc := cput u.acc (c.u 24 4 + i) (c.accInto bs) }))
      order (s.begun c) s1) :
    s1.Worked (s.accmove c.id some_) c (c.u 28 4) order (c.u 28 4) := by
  subst hrow hsize
  unfold State.accmove
  rw [h.startCmd (shown_of_map rfl) (fun _ _ hmore => ?fields) fun _ hmore => ?checks]
  · refine State.runCmd_worked h.cmd?_begun ho (fun i m m' hi => ?_) hp
    rw [hplace] at hi
    obtain ⟨hout, hinto⟩ := hi
    by_cases hdir : c.u 32 1 = 0
    · obtain ⟨u, time, hu, hgood, hwrite⟩ := hout hdir
      have hid : u.id = t.id := State.id_of_team? hu
      have hclean : m.accBad t.id (c.u 24 4 + i) 1 = false := hid ▸ State.accBad_eq_false hgood
      refine ⟨⟨time, ?_⟩, State.engineWrite_keepsCmd hwrite⟩
      refine (if_pos hdir).trans ((if_neg (hclean ▸ Bool.false_ne_true)).trans ?_)
      rw [hu, ite_size_eq_four]
      exact hwrite
    · obtain ⟨m1, bs, w, hread, rfl⟩ := hinto hdir
      refine ⟨⟨m1.coreT t, ?_⟩, (State.engineRead_keepsWork hread).keepsCmd.trans ((m1.scrub_keepsCmd c _ _).trans (.of_cmds rfl))⟩
      refine (if_neg hdir).trans ?_
      simp only [ite_size_eq_four]
      split
      · next hfail => exact nomatch hread.symm.trans hfail
      · next hok =>
        obtain ⟨rfl, rfl, -⟩ := ReadRes.ok.inj (hread.symm.trans hok)
        rfl
  case fields =>
    obtain ⟨hwhole, hdir, hcvt, hstride, -⟩ := hmore
    simpa [List.forall_mem_cons, hdir, hcvt, hstride] using not_imp_comm.mp hwhole
  case checks =>
    rw [if_neg (by omega)]
    simp

end Accmove

/-! ### What an engine's reads give, and the peers that they leave -/

theorem leNat_lt (bs : List Byte) : leNat bs < 256 ^ bs.length := by
  induction bs with
  | nil => exact Nat.one_pos
  | cons b t ih =>
    have hb : b.toNat < 256 := b.isLt
    rw [leNat, List.length_cons, pow_succ]
    omega

/-- The words of a whole number of words hold four bytes each. -/
theorem wordsOf_spec {n : Nat} : ∀ {bs : List Byte}, bs.length = 4 * n →
    (wordsOf bs).length = n ∧ ∀ i x, (wordsOf bs)[i]? = some x → x.toNat = fieldLe bs (4 * i) 4 := by
  induction n with
  | zero =>
    intro bs h
    obtain rfl := List.length_eq_zero_iff.mp h
    exact ⟨rfl, fun i x hx => by simp [wordsOf] at hx⟩
  | succ n ih =>
    intro bs h
    match bs, h with
    | a :: b :: c :: d :: rest, h =>
      obtain ⟨hlen, hget⟩ := ih (bs := rest) (by simpa [Nat.mul_succ] using h)
      refine ⟨by rw [wordsOf, List.length_cons, hlen], fun i x hx => ?_⟩
      cases i with
      | zero =>
        have hlt : leNat [a, b, c, d] < 2 ^ 32 := (leNat_lt _).trans_eq (by norm_num [List.length])
        obtain rfl : BitVec.ofNat 32 (leNat [a, b, c, d]) = x := by simpa [wordsOf] using hx
        rw [BitVec.toNat_ofNat, Nat.mod_eq_of_lt hlt]
        rfl
      | succ i => exact hget i x (by simpa [wordsOf] using hx)

/-- The package and job of every context stay as they are. -/
def State.KeepsPeers (s m : State) : Prop := ∀ k, (m.ctx? k).map (fun x => (x.job, x.prank)) = (s.ctx? k).map fun x => (x.job, x.prank)

theorem State.KeepsPeers.of_contexts {s m : State} (h : m.contexts = s.contexts) : s.KeepsPeers m := fun k => by
  unfold State.ctx?
  rw [h]

theorem State.KeepsPeers.refl (s : State) : s.KeepsPeers s := .of_contexts rfl

theorem State.KeepsPeers.trans {s m n : State} (h : s.KeepsPeers m) (g : m.KeepsPeers n) : s.KeepsPeers n := fun k => (g k).trans (h k)

theorem State.AtHomes.keepsPeers {s m : State} (h : s.AtHomes m) : s.KeepsPeers m := by
  have hctx := congrArg State.contexts h
  exact .of_contexts hctx

theorem State.modCtx_keepsPeers (s : State) (k : Nat) (f : Context → Context) (hf : ∀ x, (f x).num = x.num ∧ (f x).job = x.job ∧ (f x).prank = x.prank) :
    s.KeepsPeers (s.modCtx k f) := fun j => by
  unfold State.ctx? State.modCtx
  rw [find?_mapIf _ _ _ _ fun x => by rw [(hf x).1], Option.map_map]
  refine congrArg (Option.map · _) (funext fun x => ?_)
  rw [Function.comp_apply]
  split
  · rw [(hf x).2.1, (hf x).2.2]
  · rfl

theorem State.KeepsPeers.ownRank {s m : State} (h : s.KeepsPeers m) (k : Nat) : m.ownRank k = s.ownRank k := by
  have hk := h k
  unfold State.ownRank
  cases hm : m.ctx? k <;> cases hs : s.ctx? k <;> rw [hm, hs] at hk <;> simp_all

/-- The job that a transfer of a context carries. -/
theorem State.KeepsPeers.job {s m : State} (h : s.KeepsPeers m) {k : Nat} {x : Context} (hx : s.ctx? k = some x) :
    ∃ y, m.ctx? k = some y ∧ y.job = x.job := by
  have hk := h k
  rw [hx] at hk
  obtain ⟨y, hy, heq⟩ := Option.map_eq_some_iff.mp hk
  exact ⟨y, hy, (Prod.mk.inj heq).1⟩

theorem State.recordBytes_keepsPeers (s : State) (ctx : Nat) (bs : List Byte) (bits : Word) : s.KeepsPeers (s.recordBytes ctx bs bits) := by
  unfold State.recordBytes
  split
  · exact .refl s
  · next c _ =>
    have hreports := (s.countRead_reports c.ring).trans ((s.countRead c.ring).ringPut_reports c.ring bs)
    have hctx := congrArg State.contexts hreports.1
    have hring : s.KeepsPeers ((s.countRead c.ring).ringPut c.ring bs).1 := .of_contexts hctx
    dsimp only
    split
    · exact hring.trans (State.modCtx_keepsPeers _ _ _ fun _ => ⟨rfl, rfl, rfl⟩)
    · exact hring.trans (State.modCtx_keepsPeers _ _ _ fun _ => ⟨rfl, rfl, rfl⟩)

theorem State.leaseCheck_keepsPeers (s : State) (ctx scope va pa : Nat) : s.KeepsPeers (s.leaseCheck ctx scope va pa) := by
  unfold State.leaseCheck
  dsimp only
  split
  · exact (s.setLine_atHomes _).keepsPeers.trans (State.recordBytes_keepsPeers _ _ _ _)
  · exact .refl s

theorem State.mergeChecks_keepsPeers (s : State) (ctx : Nat) (a : Access) : s.KeepsPeers (s.mergeChecks ctx a) := by
  unfold State.mergeChecks State.leaseChecks
  split
  · split
    · exact List.foldlRecOn _ _ (.refl s) fun m hm l _ => hm.trans (m.leaseCheck_keepsPeers _ _ _ _)
    · exact .refl s
  · exact .refl s

/-- What a read from a space leaves, and how many bytes it gives. -/
theorem State.readSpace_spec (s : State) (a : Access) : s.KeepsPeers (s.readSpace a).1 ∧ (s.readSpace a).2.1.length = a.bytes.length := by
  unfold State.readSpace
  split
  · exact ⟨(s.readHome_atHomes _).keepsPeers, List.length_map _⟩
  · split
    · exact ⟨.refl s, List.length_map _⟩
    · exact ⟨.refl s, List.length_map _⟩
  · split
    · exact ⟨.refl s, by rw [getAt, List.length_map, List.length_map]⟩
    · exact ⟨.refl s, List.length_map _⟩

theorem State.global_spec (s : State) (die : Nat) (core : Option Nat) (c : Context) (a n need kind : Nat) :
    (s.global die core c a n need kind).1.contexts = s.contexts ∧ ∀ x, (s.global die core c a n need kind).2 = .ok x → x.bytes.length = n := by
  have hframe := congrArg State.contexts (s.translate_frame die core c (c.windowAddr a) kind)
  have h : (s.translate die core c (c.windowAddr a) kind).1.contexts = s.contexts := hframe
  unfold State.global
  dsimp only
  split
  · exact ⟨rfl, fun _ hx => nomatch hx⟩
  · split <;> rename_i heq <;> rw [heq] at h
    · split
      · refine ⟨h, fun x hx => ?_⟩
        obtain rfl := Res.ok.inj hx
        rw [List.length_map, List.length_range]
      · exact ⟨h, fun _ hx => nomatch hx⟩
    · exact ⟨h, fun _ hx => nomatch hx⟩
    · exact ⟨h, fun _ hx => nomatch hx⟩

theorem State.localRes_bytes_length {s : State} {t : Team} {a n : Nat} {win : Bool} {x : Access} (h : s.localRes t a n win = .ok x) :
    x.bytes.length = n := by
  have hrange : ∀ p, ((List.range n).map (p + ·)).length = n := fun p => by rw [List.length_map, List.length_range]
  unfold State.localRes at h
  dsimp only at h
  split_ifs at h
  · obtain rfl := Res.ok.inj h
    exact hrange _
  · split at h
    · obtain rfl := Res.ok.inj h
      exact hrange _
    · exact nomatch h
  · obtain rfl := Res.ok.inj h
    exact hrange _

theorem State.engineRes_spec (s : State) (c : Cmd) (t : Team) (a n need align : Nat) :
    (s.engineRes c t a n need align).1.contexts = s.contexts ∧ ∀ x, (s.engineRes c t a n need align).2 = .ok x → x.bytes.length = n := by
  unfold State.engineRes
  dsimp only
  split
  · exact ⟨rfl, fun _ hx => nomatch hx⟩
  · split
    · refine ⟨rfl, fun x hx => ?_⟩
      split at hx
      · next y hy =>
        split at hx
        · split at hx
          · exact Res.ok.inj hx ▸ State.localRes_bytes_length hy
          · exact nomatch hx
        · exact Res.ok.inj hx ▸ State.localRes_bytes_length hy
      · exact State.localRes_bytes_length hx
    · split
      · exact s.global_spec _ _ _ _ _ _ _
      · exact ⟨rfl, fun _ hx => nomatch hx⟩

section Reads

variable {s m : State} {c : Cmd} {t : Team} {a n align off w : Nat} {bs : List Byte}

theorem State.engineRead_spec (h : s.engineRead c t a n align off = .ok m bs w) : s.KeepsPeers m ∧ bs.length = n := by
  obtain ⟨s1, x, hres, hread⟩ := State.engineRead_ok h
  obtain ⟨hctx, hlen⟩ := s.engineRes_spec c t a n 0 align
  obtain ⟨hpeers, hbytes⟩ := (s1.mergeChecks t.ctx x).readSpace_spec x
  rw [show (s1.mergeChecks t.ctx x).readSpace x = (m, bs, w) from hread] at hpeers hbytes
  rw [hres] at hctx hlen
  exact ⟨((State.KeepsPeers.of_contexts hctx).trans (s1.mergeChecks_keepsPeers _ x)).trans hpeers, hbytes.trans (hlen x rfl)⟩

/-- The words that a command reads in a row. -/
theorem State.engineWords_spec (h : s.engineWords c t a off n = .ok m bs w) : s.KeepsWork m ∧ s.KeepsPeers m ∧ bs.length = 4 * n := by
  induction n generalizing s a bs w with
  | zero =>
    obtain ⟨rfl, rfl, -⟩ := ReadRes.ok.inj h
    exact ⟨.refl s, .refl s, rfl⟩
  | succ n ih =>
    unfold State.engineWords at h
    split at h
    · exact nomatch h
    · next hone =>
      split at h
      · exact nomatch h
      · next hrest =>
        obtain ⟨rfl, rfl, -⟩ := ReadRes.ok.inj h
        obtain ⟨hpeers, hlen⟩ := State.engineRead_spec hone
        obtain ⟨hwork', hpeers', hlen'⟩ := ih hrest
        refine ⟨(State.engineRead_keepsWork hone).trans hwork', hpeers.trans hpeers', ?_⟩
        rw [List.length_append, hlen, hlen']
        omega

theorem State.engineWords_taken (s : State) (c : Cmd) (t : Team) (a off n : Nat) : s.engineWords c.taken t a off n = s.engineWords c t a off n := by
  induction n generalizing s a with
  | zero => rfl
  | succ n ih =>
    unfold State.engineWords
    rw [show s.engineRead c.taken t a 4 4 off = s.engineRead c t a 4 4 off from rfl]
    split
    · rfl
    · rw [ih]

end Reads

/-! ### COPYRED -/

section Copyred

variable {s s1 : State} {c : Cmd} {t : Team} {some_ order : List Nat}

/-- A COPYRED that its engine may begin or go on with has its body run. -/
theorem State.copyred_begun (h : s.MayRun c t 3 [(16, 8), (24, 8), (32, 8), (40, 1), (41, 1), (44, 4)]
      (c.u 32 8 % 4 = 0 ∧ c.u 32 8 ≤ 2 ^ 32 ∧ c.u 40 1 % 16 ≤ 2 ∧ c.u 40 1 / 16 ≤ 2 ∧ (s.isDet t = true → c.u 40 1 ≠ 0x20) ∧ c.u 41 1 ≤ 1 ∧
        (c.u 41 1 = 0 → c.u 44 4 = 0))) :
    s.copyred c.id some_ =
      if c.u 41 1 = 0 then (s.begun c).runCmd c.taken t (c.u 32 8 / 4) some_ (copyredWord c.taken t) (fun _ => 4) (c.u 32 8)
      else if c.coll.isSome then s.begun c
      else if c.u 44 4 = s.ownRank t.ctx then (s.begun c).runCmd c.taken t (c.u 32 8 / 4) some_ (copyredOwn c.taken t) (fun _ => 4) (c.u 32 8)
      else if !s.reaches t.ctx (c.u 44 4) then (s.begun c).cmdError c.taken t 0x0305 44 0
      else (s.begun c).copyredSend c.taken t := by
  unfold State.copyred
  rw [h.startCmd (shown_of_map rfl) (fun _ _ hmore => ?fields) fun _ _ _ hf => absurd hf List.not_mem_nil]
  · rfl
  case fields =>
    obtain ⟨hwhole, hlen, hop, hkind, hdet, hpeer, hrank⟩ := hmore
    have hadd : (c.u 40 1 == 0x20 && s.isDet t) = false := by
      cases hd : s.isDet t
      · rw [Bool.and_false]
      · rw [Bool.and_true, beq_eq_false_iff_ne]
        exact hdet hd
    have hown : (c.u 41 1 == 0 && c.u 44 4 != 0) = false := by
      rw [Bool.and_eq_false_imp, beq_iff_eq, bne_eq_false_iff_eq]
      exact hrank
    simp only [State.copyredFields, List.forall_mem_cons, hadd, hown, Bool.or_false, List.not_mem_nil, false_implies, implies_true, true_and, and_true,
      decide_eq_false_iff_not]
    omega

theorem copyredWord_done {i : Nat} {m m' : State}
    (h : ∃ m1 bs w time, m.engineRead c t (c.addr 16 + 4 * i) 4 4 16 = .ok m1 bs w ∧
      m1.engineCombine c t (c.addr 24 + 4 * i) 4 (combineRop (c.u 40 1 / 16) (c.u 40 1 % 16)) 24 (BitVec.ofNat 64 (leNat bs)) = .done m' time) :
    (∃ w, copyredWord c.taken t i m = .done m' w) ∧ m.KeepsCmd c.id m' := by
  obtain ⟨m1, bs, w, time, hread, hcombine⟩ := h
  refine ⟨⟨time, ?_⟩, (State.engineRead_keepsWork hread).keepsCmd.trans (State.engineCombine_keepsCmd hcombine)⟩
  unfold copyredWord
  rw [show m.engineRead c.taken t (c.taken.addr 16 + 4 * i) 4 4 16 = .ok m1 bs w from hread]
  exact hcombine

theorem copyredOwn_done {i : Nat} {m m' : State}
    (h : ∃ m1 bs w time, m.engineRead c t (c.addr 16 + 4 * i) 4 4 16 = .ok m1 bs w ∧
      m1.peerCombine t.ctx (c.addr 24 + 4 * i) (c.u 40 1) (BitVec.ofNat 32 (leNat bs)) = .ok (m', time)) :
    (∃ w, copyredOwn c.taken t i m = .done m' w) ∧ m.KeepsCmd c.id m' := by
  obtain ⟨m1, bs, w, time, hread, hcombine⟩ := h
  refine ⟨⟨time, ?_⟩, (State.engineRead_keepsWork hread).keepsCmd.trans (State.peerCombine_keepsCmd hcombine)⟩
  unfold copyredOwn
  rw [show m.engineRead c.taken t (c.taken.addr 16 + 4 * i) 4 4 16 = .ok m1 bs w from hread]
  dsimp only [Cmd.taken_addr, Cmd.taken_u]
  rw [hcombine]

/-- The transfers of a COPYRED to another package, and how they stand before any acknowledgement (R314). -/
def Cmd.elements (c : Cmd) (s : State) (t : Team) (bs : List Byte) : List FabricMsg :=
  (wordsOf bs).zipIdx.map fun e =>
    { job := match s.ctx? t.ctx with | some x => x.job | none => 0, src := s.ownRank t.ctx, dst := c.u 44 4, cmd := c.id, seq := e.2,
      kind := .combine (BitVec.ofNat 8 (c.u 40 1)), va := (c.addr 24 + 4 * e.2) % 2 ^ 56, data := toLe 4 e.1.toNat, t := 0 }
def Cmd.unanswered (c : Cmd) : CollState :=
  { CollState.fresh with unacked := (List.range (c.u 32 8 / 4)).map fun i => (i, c.u 44 4, 0), steps := c.u 32 8 / 4, seq := c.u 32 8 / 4 }
def Cmd.sending (c x : Cmd) : Cmd := { x with coll := some c.unanswered }

/-- A COPYRED to another package sends its elements one by one, and waits for as many acknowledgements. -/
theorem State.copyredSend_spec {n : Nat} (hn : n = c.u 32 8 / 4) (hpos : 0 < n) (hc : (s.begun c).cmd? c.id = some c.taken) {bs : List Byte} {w : Nat}
    (hread : (s.begun c).engineWords c t (c.addr 16) 16 n = .ok s1 bs w) :
    ∃ sent d st, { (s.begun c).copyredSend c.taken t with cmds := s1.cmds, outbox := s1.outbox } = s1 ∧
      ((s.begun c).copyredSend c.taken t).outbox = s1.outbox ++ sent ∧ sent.length = n ∧ ((s.begun c).copyredSend c.taken t).cmd? c.id = some d ∧
      d.state = .running ∧ d.coll = some st ∧ st.unacked.length = n ∧
      ∀ (i : Nat) (m : FabricMsg), sent[i]? = some m → m.src = s.ownRank t.ctx ∧ m.dst = c.u 44 4 ∧ m.cmd = c.id ∧ m.seq = i ∧
        (i, m.dst, 0) ∈ st.unacked ∧ (∀ x, s.ctx? t.ctx = some x → m.job = x.job) ∧ m.kind = .combine (BitVec.ofNat 8 (c.u 40 1)) ∧
        m.va = (c.addr 24 + 4 * i) % 2 ^ 56 ∧ leNat m.data = fieldLe bs (4 * i) 4 := by
  obtain ⟨hwork, hpeers, hlen⟩ := State.engineWords_spec hread
  obtain ⟨hwords, hword⟩ := wordsOf_spec hlen
  obtain ⟨d, hd, -, -, hstate⟩ := hwork.keepsCmd.found hc
  subst hn
  have hsend : (s.begun c).copyredSend c.taken t = State.modCmd { s1 with outbox := s1.outbox ++ c.elements s1 t bs } c.id (Cmd.sending c) := by
    have hread' : (s.begun c).engineWords c.taken t (c.taken.addr 16) 16 (c.taken.u 32 8 / 4) = .ok s1 bs w :=
      (State.engineWords_taken _ _ _ _ _ _).trans hread
    unfold State.copyredSend
    dsimp only
    rw [hread']
    exact if_neg hpos.ne'
  rw [hsend]
  refine ⟨c.elements s1 t bs, c.sending d, c.unanswered, rfl, rfl, ?_, State.cmd?_modCmd_of hd fun _ => rfl, hstate, rfl, ?_, fun i m hm => ?_⟩
  · rw [Cmd.elements, List.length_map, List.length_zipIdx, hwords]
  · exact (List.length_map _).trans List.length_range
  · rw [Cmd.elements, List.getElem?_map, List.getElem?_zipIdx] at hm
    obtain ⟨e, he, rfl⟩ := Option.map_eq_some_iff.mp hm
    obtain ⟨x, hx, rfl⟩ := Option.map_eq_some_iff.mp he
    have hi : i < c.u 32 8 / 4 := hwords ▸ (List.getElem?_eq_some_iff.mp hx).1
    dsimp only
    rw [Nat.zero_add]
    refine ⟨hpeers.ownRank t.ctx, rfl, rfl, rfl, List.mem_map_of_mem (List.mem_range.mpr hi), fun y hy => ?_, rfl, rfl, ?_⟩
    · obtain ⟨z, hz, hjob⟩ := hpeers.job (s := s.begun c) (x := y) hy
      rw [hz]
      exact hjob
    · rw [leNat_toLe, ← hword i x hx]
      exact Nat.mod_eq_of_lt x.isLt

end Copyred

/-! ### Products (R88, R89) -/

/-- The sum of the first products is exact. -/
theorem foldl_products_num {a b : Nat → Val} {x y : Nat → ℚ} {lo n : Nat}
    (h : ∀ i < n, (a (lo + i)).num = some (x (lo + i)) ∧ (b (lo + i)).num = some (y (lo + i))) :
    ((List.range n).foldl (fun (v : Val) i => v.add .rne ((a (lo + i)).mul (b (lo + i)))) (.fin false 0 0)).num =
      some (∑ i ∈ Finset.range n, x (lo + i) * y (lo + i)) := by
  induction n with
  | zero => simp [Val.num]
  | succ n ih =>
    obtain ⟨ha, hb⟩ := h n (Nat.lt_succ_self n)
    rw [List.range_succ, List.foldl_append, List.foldl_cons, List.foldl_nil, Finset.sum_range_succ]
    exact num_add .rne (ih fun i hi => h i (Nat.lt_succ_of_lt hi)) (num_mul ha hb)

theorem dot_num {a b : Nat → Val} {x y : Nat → ℚ} {lo hi : Nat} (h : ∀ i, lo ≤ i → i < hi → (a i).num = some (x i) ∧ (b i).num = some (y i)) :
    (dot a b lo hi).num = some (∑ i ∈ Finset.Ico lo hi, x i * y i) := by
  rw [Finset.sum_Ico_eq_sum_range]
  exact foldl_products_num fun i hi => h (lo + i) (by omega) (by omega)

/-- Whole chunks: each rounds once, over the one before. -/
theorem fpOut_chunks {len : Nat} (hlen : 0 < len) (n : Nat) (acc : Word) (a b : Nat → Val) :
    fpOut len (n * len) acc a b = (List.range n).foldl (fun acc i => chunkStep acc (dot a b (i * len) ((i + 1) * len))) acc := by
  have hn : (n * len + len - 1) / len = n := by
    rw [Nat.add_sub_assoc hlen, Nat.mul_comm, Nat.mul_add_div hlen, Nat.div_eq_of_lt (Nat.sub_lt hlen Nat.one_pos), Nat.add_zero]
  unfold fpOut
  rw [hn]
  refine List.foldl_ext _ _ acc fun x i hi => ?_
  rw [min_eq_left (Nat.mul_le_mul_right len (List.mem_range.mp hi))]

theorem fpOut_succ {len : Nat} (hlen : 0 < len) (n : Nat) (acc : Word) (a b : Nat → Val) :
    fpOut len ((n + 1) * len) acc a b = chunkStep (fpOut len (n * len) acc a b) (dot a b (n * len) ((n + 1) * len)) := by
  rw [fpOut_chunks hlen, fpOut_chunks hlen, List.range_succ, List.foldl_append, List.foldl_cons, List.foldl_nil]

theorem intOut_eq_sum (k : Nat) (acc : Word) (a b : Nat → Int) : intOut k acc a b = acc + BitVec.ofInt 32 (∑ i ∈ Finset.range k, a i * b i) := by
  unfold intOut
  induction k with
  | zero => simp
  | succ k ih =>
    rw [List.range_succ, List.foldl_append, List.foldl_cons, List.foldl_nil, ih, Finset.sum_range_succ, BitVec.ofInt_add, BitVec.add_assoc]

/-! ### Matrix commands: the checks (R278, R279, R280, R390) -/

theorem fieldLe_eq_zero {bs : List Byte} {off n : Nat} (h : ∀ i, off ≤ i → i < off + n → fieldLe bs i 1 = 0) : fieldLe bs off n = 0 := by
  induction n generalizing off with
  | zero => rw [fieldLe, List.take_zero, leNat]
  | succ n ih =>
    have hfirst := h off le_rfl (by omega)
    have hrest : fieldLe bs (off + 1) n = 0 := ih fun i hlo hhi => h i (by omega) (by omega)
    unfold fieldLe at *
    rw [← List.drop_drop] at hrest
    cases hdrop : bs.drop off with
    | nil => rfl
    | cons b rest =>
      rw [hdrop] at hfirst hrest
      simp only [List.take_succ_cons, leNat, List.take_zero, List.drop_succ_cons, List.drop_zero] at *
      omega

/-- The body fields of a matrix command by offset and length. -/
def matrixShown : List (Nat × Nat) :=
  [(16, 1), (17, 1), (18, 2), (20, 2), (22, 2), (24, 2), (26, 2), (28, 2), (32, 4), (36, 4), (40, 2), (42, 2), (44, 4), (48, 1), (49, 1), (50, 1), (51, 1)]

section Checks

variable {s : State} {c : Cmd} {t : Team} {a b : TileRec} {md : Option TileRec} {acc nreg opc : Nat}

theorem Cmd.sparse_of_opc (h : c.opc = 0x10 ∨ c.opc = 0x11) : (c.opc = 0x10 ∧ c.sparse = false) ∨ (c.opc = 0x11 ∧ c.sparse = true) := by
  unfold Cmd.sparse
  rcases h with h | h <;> rw [h] <;> decide

theorem Cmd.MatrixFits.fields (h : c.MatrixFits t acc nreg a b md) (hfit : s.Fit c t opc matrixShown) (hopc : c.opc = 0x10 ∨ c.opc = 0x11)
    (ha : s.tileA c t = some a) (hb : s.tileB c t = some b) : ∀ f ∈ s.mmaFields c t, f.2.2 = false := by
  obtain ⟨hhb, hm1, hm2, hn1, hn2, hk1, hk2, hk0, hldc, hldd, hctl, hctl1, hctl2,
    ⟨hsa, -⟩, ⟨hsb, -⟩, -, -, -, -, -, -, -, -, -, -, -, hdense, hsparse⟩ := h
  obtain ⟨-, -, -, -, -, -, -, hzero⟩ := hfit
  have hout : ∀ i < 64, (30 ≤ i ∧ i < 32 ∨ 52 ≤ i) → ∀ f ∈ matrixShown, ¬ (f.1 ≤ i ∧ i < f.1 + f.2) := by decide
  have hz30 : c.u 30 2 = 0 := fieldLe_eq_zero fun i _ _ => hzero i (by omega) (by omega) (hout i (by omega) (by omega))
  have hz52 : c.u 52 12 = 0 := fieldLe_eq_zero fun i _ _ => hzero i (by omega) (by omega) (hout i (by omega) (by omega))
  have hmeta : (c.hm != 0 && !c.sparse) = false ∧ (c.sparse && c.k % 4 != 0) = false := by
    rcases Cmd.sparse_of_opc hopc with ⟨ho, hs⟩ | ⟨ho, hs⟩
    · simp [hs, (hdense ho).1]
    · simp [hs, (hsparse ho).1]
  have hsign : (c.ctl 1 && !hasFmt (some a) 8) = false ∧ (c.ctl 2 && !hasFmt (some b) 8) = false := by
    simpa [hasFmt] using And.intro hctl1 hctl2
  have hstray : ∀ (r : TileRec) (off : Nat), (r.scl ≠ 2 → c.u off 1 = 0) → (c.u off 1 != 0 && !hasScl (some r) 2) = false := fun r off hr => by
    simpa [hasScl] using not_imp_comm.mp hr
  simp only [State.mmaFields, ha, hb, List.forall_mem_cons, List.not_mem_nil, false_implies, implies_true, hmeta, hsign, hz30, hz52,
    hstray a 48 fun h => (hsa h).1, hstray a 49 fun h => (hsa h).2, hstray b 50 fun h => (hsb h).1, hstray b 51 fun h => (hsb h).2, Bool.or_false,
    true_and, and_true, decide_eq_false_iff_not, bne_self_eq_false, hk0]
  omega

theorem scaleBad_eq_false {r : TileRec} {lines off : Nat}
    (h : r.scl = 2 → lines ≤ 32 ∧ c.u (off + 1) 1 % 4 + (c.k + 31) / 32 ≤ 4 * (c.u (off + 1) 1 / 4 % 8 + 1) ∧
      c.u off 1 + (c.u (off + 1) 1 / 4 % 8 + 1) ≤ nreg ∧ c.u (off + 1) 1 < 32) : scaleBad c nreg (some r) lines off = false := by
  unfold scaleBad
  dsimp only
  rw [Bool.and_eq_false_imp]
  intro hscl
  obtain ⟨hlines, hbytes, hregs, hsel⟩ := h (beq_iff_eq.mp hscl)
  simp only [Bool.or_eq_false_iff, decide_eq_false_iff_not]
  omega

/-- The checks of a matrix command whose handles are reserved. -/
theorem State.mmaChecks_eq (ha : s.tileA c t = some a) (hb : s.tileB c t = some b) (hm : s.tileM c t = md) : s.mmaChecks c t =
    [if suitsA c (some a) then none else some (0x0102, c.ha), if suitsM c md then none else some (0x0102, c.hm),
     if suitsB c (some a) (some b) then none else some (0x0102, c.hb),
     if scaleBad c ((s.desc? t).elim 0 (·.nreg)) (some a) c.m 48 then some (0x0105, 0) else none,
     if scaleBad c ((s.desc? t).elim 0 (·.nreg)) (some b) c.n 50 then some (0x0105, 1) else none,
     (s.metaBad c t).map fun l => (0x0106, l),
     if (!c.ctl 0 && s.accOf t < c.u 32 4 + (c.m - 1) * c.u 40 2 + c.n) || s.accOf t < c.u 36 4 + (c.m - 1) * c.u 42 2 + c.n
       then some (0x0103, 0) else none] := by
  unfold State.mmaChecks
  rw [ha, hb, hm]
  cases s.desc? t <;> rfl

/-- No metadata line is bad where every nibble names its positions in order. -/
theorem State.metaBad_eq_none (hm : s.tileM c t = md) (h : ∀ m, md = some m → ∀ i j, i < c.m → j < c.k / 4 →
      metaNibble t.opbuf m (c.u 24 2 + i) (c.u 28 2 / 4 + j) % 4 < metaNibble t.opbuf m (c.u 24 2 + i) (c.u 28 2 / 4 + j) / 4) :
    s.metaBad c t = none := by
  unfold State.metaBad
  rw [hm]
  cases md with
  | none => rfl
  | some m =>
    refine List.findSome?_eq_none_iff.mpr fun i hi => if_neg ?_
    rw [Bool.not_eq_true, List.any_eq_false]
    intro j hj
    rw [decide_eq_true_iff, not_le]
    exact h m rfl i j (List.mem_range.mp hi) (List.mem_range.mp hj)

theorem Cmd.MatrixFits.checks (h : c.MatrixFits t (s.accOf t) ((s.desc? t).elim 0 (·.nreg)) a b md) (hopc : c.opc = 0x10 ∨ c.opc = 0x11)
    (ha : s.tileA c t = some a) (hb : s.tileB c t = some b) (hm : s.tileM c t = md) : ∀ o ∈ s.mmaChecks c t, o = none := by
  obtain ⟨-, -, -, -, -, -, -, -, -, -, -, -, -, ⟨-, hsa⟩, ⟨-, hsb⟩,
    hafmt, hasp, hanl, hakt, hbfmt, hbsp, hbnl, hbkt, hints, haccr, haccw, hdense, hsparse⟩ := h
  have hA : suitsA c (some a) = true := by
    simp [suitsA, Cmd.sparse, hafmt, hasp, hanl, hakt]
  have hM : suitsM c md = true := by
    rcases Cmd.sparse_of_opc hopc with ⟨-, hs⟩ | ⟨ho, hs⟩
    · simp [suitsM, hs]
    · obtain ⟨-, m, rfl, hfmt, hnl, hkt, -⟩ := hsparse ho
      simp [suitsM, hfmt, hnl, hkt]
  have hB : suitsB c (some a) (some b) = true := by
    simp [suitsB, hasFmt, hbfmt, hbsp, hbnl, hbkt, hints]
  have hmeta : s.metaBad c t = none := State.metaBad_eq_none hm fun m hmd => by
    rcases hopc with ho | ho
    · rw [(hdense ho).2] at hmd
      exact nomatch hmd
    · obtain ⟨-, m', hm', -, -, -, hnib⟩ := hsparse ho
      obtain rfl := Option.some.inj (hm'.symm.trans hmd)
      exact hnib
  have hacc : ((!c.ctl 0 && decide (s.accOf t < c.u 32 4 + (c.m - 1) * c.u 40 2 + c.n)) ||
      decide (s.accOf t < c.u 36 4 + (c.m - 1) * c.u 42 2 + c.n)) = false := by
    rw [Bool.or_eq_false_iff, Bool.and_eq_false_imp, decide_eq_false_iff_not, decide_eq_false_iff_not, not_lt, not_lt, Bool.not_eq_true']
    exact ⟨haccr, haccw⟩
  rw [State.mmaChecks_eq ha hb hm, hA, hM, hB, scaleBad_eq_false hsa, scaleBad_eq_false hsb, hmeta, hacc]
  simp

theorem shown_mmaFields : ∀ f ∈ matrixShown, ∃ x, (f.1, f.2, x) ∈ s.mmaFields c t := by
  have hmap : (s.mmaFields c t).map (fun f => (f.1, f.2.1)) = [(16, 1), (17, 1), (18, 2), (20, 2), (22, 2), (24, 2), (26, 2), (28, 2), (30, 2), (32, 4),
    (36, 4), (40, 2), (42, 2), (44, 4), (48, 1), (49, 1), (50, 1), (51, 1), (52, 12)] := rfl
  have hsub : matrixShown ⊆ (s.mmaFields c t).map fun f => (f.1, f.2.1) := by
    rw [hmap]
    decide
  intro f hf
  obtain ⟨g, hg, rfl⟩ := List.mem_map.mp (hsub hf)
  exact ⟨g.2.2, hg⟩

/-- A matrix command that its engine may begin or go on with has its body run. -/
theorem State.mma_begun (h : s.MayRun c t opc matrixShown True) (hopc : opc = 0x10 ∨ opc = 0x11) (ha : s.tileA c t = some a) (hb : s.tileB c t = some b)
    (hm : s.tileM c t = md) (hfits : c.state = .queued → c.MatrixFits t (s.accOf t) ((s.desc? t).elim 0 (·.nreg)) a b md) (some_ : List Nat) :
    s.mma c.id opc some_ = (s.begun c).mmaRun c.taken t some_ := by
  have ho : c.opc = 0x10 ∨ c.opc = 0x11 := h.2.1 ▸ hopc
  exact h.startCmd shown_mmaFields (fun hq hfit _ => (hfits hq).fields hfit ho ha hb) fun hq _ => (hfits hq).checks ho ha hb hm

end Checks

/-! ### Matrix commands: the entries (R128, R279, R281) -/

/-- An entry written by a row of writes holds what one of them wrote there; any other holds what it did. -/
theorem cget_foldl_cput {w : Nat} (l : List (Nat × BitVec w)) (m : Cells w) (k : Nat) :
    ((∃ x, (k, x) ∈ l) → (k, cget (l.foldl (fun m e => cput m e.1 e.2) m) k) ∈ l) ∧
      ((∀ x, (k, x) ∉ l) → cget (l.foldl (fun m e => cput m e.1 e.2) m) k = cget m k) := by
  induction l generalizing m with
  | nil => exact ⟨fun ⟨_, hx⟩ => absurd hx List.not_mem_nil, fun _ => rfl⟩
  | cons e l ih =>
    obtain ⟨hin, hout⟩ := ih (cput m e.1 e.2)
    rw [List.foldl_cons]
    refine ⟨fun hex => ?_, fun hnot => ?_⟩
    · by_cases hl : ∃ x, (k, x) ∈ l
      · exact List.mem_cons_of_mem _ (hin hl)
      · obtain ⟨x, hx⟩ := hex
        have hxe : (k, x) = e := (List.mem_cons.mp hx).resolve_right fun h => hl ⟨x, h⟩
        rw [hout fun y hy => hl ⟨y, hy⟩, ← hxe, cget_cput_self]
        exact List.mem_cons_self
    · rw [hout fun x hx => hnot x (List.mem_cons_of_mem _ hx)]
      exact cget_cput_ne _ _ _ _ fun h => hnot e.2 (h ▸ List.mem_cons_self)

/-- The entries that a step writes, and those that it leaves for later ones. -/
def entriesNow (some_ : List Nat) (left : List (Nat × Word)) : List (Nat × Word) :=
  if some_.isEmpty then left else left.filter fun e => some_.contains e.1
def entriesLater (some_ : List Nat) (left : List (Nat × Word)) : List (Nat × Word) :=
  if some_.isEmpty then [] else left.filter fun e => !some_.contains e.1

theorem mem_entriesNow {some_ : List Nat} {left : List (Nat × Word)} {k : Nat} {x : Word} :
    (k, x) ∈ entriesNow some_ left ↔ (k, x) ∈ left ∧ (some_ = [] ∨ k ∈ some_) := by
  unfold entriesNow
  cases some_ with
  | nil => simp
  | cons j some_ => simp [List.mem_filter]

theorem mem_entriesLater {some_ : List Nat} {left : List (Nat × Word)} {k : Nat} {x : Word} :
    (k, x) ∈ entriesLater some_ left ↔ (k, x) ∈ left ∧ ¬ (some_ = [] ∨ k ∈ some_) := by
  unfold entriesLater
  cases some_ with
  | nil => simp
  | cons j some_ => simp [List.mem_filter]

/-- The device with entries of the accumulator written, and the command with those that are left. -/
def State.entriesPut (s : State) (t : Team) (now : List (Nat × Word)) : State :=
  s.modTeam t.id fun u => { u with acc := now.foldl (fun m e => cput m e.1 e.2) u.acc }
def Cmd.leaving (later : List (Nat × Word)) (tc : Nat) (x : Cmd) : Cmd := { x with tc := max x.tc tc, outs := some later }

def State.multiplied (s : State) (c : Cmd) (t : Team) (now later : List (Nat × Word)) : State :=
  let m := (s.entriesPut t now).modCmd c.id (Cmd.leaving later ((s.entriesPut t now).coreT t))
  if later.isEmpty then m.cmdEnds c.id 0 0 (c.m * c.n) else m

theorem State.modCmd_withCmds (s : State) (k : Nat) (f : Cmd → Cmd) (l : List Cmd) : { s.modCmd k f with cmds := l } = { s with cmds := l } := rfl

/-- But for commands, the device differs in the entries written. -/
theorem State.multiplied_withCmds (s : State) (c : Cmd) (t : Team) (now later : List (Nat × Word)) (l : List Cmd) :
    { s.multiplied c t now later with cmds := l } = { s.entriesPut t now with cmds := l } := by
  unfold State.multiplied State.cmdEnds
  dsimp only
  split
  · rw [State.modCmd_withCmds, State.modCmd_withCmds]
  · rw [State.modCmd_withCmds]

theorem State.modCmd_entriesPut (s : State) (k : Nat) (f : Cmd → Cmd) (t : Team) (now : List (Nat × Word)) :
    (s.modCmd k f).entriesPut t now = (s.entriesPut t now).modCmd k f := rfl

section Run

variable {s : State} {c : Cmd} {t : Team} {a b : TileRec} {md : Option TileRec} {some_ : List Nat} {left : List (Nat × Word)}

theorem State.mmaBad_eq_false (hsram : s.dev.badSram = []) : s.mmaBad c t a b md = false := by
  unfold State.mmaBad
  rw [hsram]
  rfl

theorem State.scrub_of_good (hsram : s.dev.badSram = []) (p : Nat → Sram) (at_ : List Nat) : s.scrub c p at_ = s := by
  unfold State.scrub
  rw [hsram]
  exact if_pos (by simp)

/-- A step that names no operand word writes entries. -/
theorem State.mmaRun_entries (ha : s.tileA c t = some a) (hb : s.tileB c t = some b) (hsram : s.dev.badSram = [])
    (hahead : c.outs.isNone = true → ∀ k ∈ some_, k < 2 ^ 20) (hleft : left = c.outs.getD (mmaOuts c (c.seen t) a b (s.tileM c t))) :
    s.mmaRun c t some_ = s.multiplied c t (entriesNow some_ left) (entriesLater some_ left) := by
  have hnone : (c.outs.isNone && !((some_.filter (readAhead ≤ ·)).map (· - readAhead)).isEmpty) = false := by
    rw [Bool.and_eq_false_imp]
    intro ho
    have hempty : some_.filter (readAhead ≤ ·) = [] := List.filter_eq_nil_iff.mpr fun k hk => by
      rw [decide_eq_true_iff, not_le]
      exact hahead ho k hk
    rw [hempty]
    rfl
  unfold State.mmaRun
  rw [ha, hb]
  dsimp only
  rw [State.mmaBad_eq_false hsram, Bool.and_false, hnone, if_neg Bool.false_ne_true, if_neg Bool.false_ne_true, State.scrub_of_good hsram, ← hleft]
  unfold State.multiplied State.entriesPut entriesNow entriesLater
  rfl

/-- A step that names operand words reads them ahead. -/
theorem State.mmaRun_ahead (ha : s.tileA c t = some a) (hb : s.tileB c t = some b) (hsram : s.dev.badSram = []) (hnone : c.outs = none)
    (hahead : ∃ k ∈ some_, 2 ^ 20 ≤ k) : s.mmaRun c t some_ =
      s.modCmd c.id fun x => { x with early := some (c.reads t (s.tileM c t) ((some_.filter (readAhead ≤ ·)).map (· - readAhead))) } := by
  have hsome : (c.outs.isNone && !((some_.filter (readAhead ≤ ·)).map (· - readAhead)).isEmpty) = true := by
    obtain ⟨k, hk, hle⟩ := hahead
    have hmem : k ∈ some_.filter (readAhead ≤ ·) := List.mem_filter.mpr ⟨hk, decide_eq_true hle⟩
    rw [hnone, Option.isNone_none, Bool.true_and, Bool.not_eq_true', List.isEmpty_map, ← Bool.not_eq_true, List.isEmpty_iff]
    exact List.ne_nil_of_mem hmem
  unfold State.mmaRun
  rw [ha, hb]
  dsimp only
  rw [State.mmaBad_eq_false hsram, Bool.and_false, hsome, if_neg Bool.false_ne_true, if_pos rfl]

/-- Every entry of a step takes its value, and no other entry differs. -/
theorem cget_entriesNow {want : Nat → Option Word} (hwant : ∀ k x, want k = some x ↔ (k, x) ∈ left) (m : Cells 32) (k : Nat) :
    ((want k).isSome = true ∧ (some_ = [] ∨ k ∈ some_) → some (cget ((entriesNow some_ left).foldl (fun m e => cput m e.1 e.2) m) k) = want k) ∧
      (¬ ((want k).isSome = true ∧ (some_ = [] ∨ k ∈ some_)) →
        cget ((entriesNow some_ left).foldl (fun m e => cput m e.1 e.2) m) k = cget m k) := by
  obtain ⟨hin, hout⟩ := cget_foldl_cput (entriesNow some_ left) m k
  refine ⟨fun ⟨hsome, hnow⟩ => ?_, fun hnot => hout fun x hx => ?_⟩
  · obtain ⟨x, hx⟩ := Option.isSome_iff_exists.mp hsome
    exact ((hwant k _).mpr (mem_entriesNow.mp (hin ⟨x, mem_entriesNow.mpr ⟨(hwant k x).mp hx, hnow⟩⟩)).1).symm
  · obtain ⟨hleft, hnow⟩ := mem_entriesNow.mp hx
    exact hnot ⟨Option.isSome_iff_exists.mpr ⟨x, (hwant k x).mpr hleft⟩, hnow⟩

/-- Writing entries is a step of a matrix command. -/
theorem State.multiplied_multiplies (hc : (s.begun c).cmd? c.id = some c.taken) (ht : s.team? t.id = some t) {want : Nat → Option Word}
    (hwant : ∀ k x, want k = some x ↔ (k, x) ∈ left) :
    s.Multiplies ((s.begun c).multiplied c.taken t (entriesNow some_ left) (entriesLater some_ left)) c t want some_ := by
  have hlater : ∀ k x, (k, x) ∈ entriesLater some_ left ↔ want k = some x ∧ ¬ ((want k).isSome = true ∧ (some_ = [] ∨ k ∈ some_)) := fun k x => by
    rw [mem_entriesLater, ← hwant]
    exact and_congr_right fun hx => by rw [hx, Option.isSome_some, eq_self, true_and]
  generalize entriesLater some_ left = later at *
  have hframe : { (s.begun c).multiplied c.taken t (entriesNow some_ left) later with cmds := s.cmds } = s.entriesPut t (entriesNow some_ left) := by
    rw [State.multiplied_withCmds, State.begun, State.modCmd_entriesPut, State.modCmd_withCmds]
    rfl
  have hfound : ∀ tc, (((s.begun c).entriesPut t (entriesNow some_ left)).modCmd c.id (Cmd.leaving later tc)).cmd? c.id = some (c.taken.leaving later tc) :=
    fun tc => State.cmd?_modCmd_of hc fun _ => rfl
  refine ⟨?only, ⟨{ t with acc := (entriesNow some_ left).foldl (fun m e => cput m e.1 e.2) t.acc }, ?team, rfl, cget_entriesNow hwant t.acc⟩, ?done, ?more⟩
  case only =>
    rw [hframe]
    exact State.onlyTeam_modTeam _ _ _ fun _ => rfl
  case team =>
    have hteams := congrArg (fun m : State => m.team? t.id) hframe
    exact hteams.trans (State.team?_modTeam_some ht fun _ => rfl)
  case done =>
    intro hall
    have hempty : later = [] := List.eq_nil_iff_forall_not_mem.mpr fun e he => by
      obtain ⟨hw, hnot⟩ := (hlater e.1 e.2).mp he
      exact hnot (hall e.1 (Option.isSome_iff_exists.mpr ⟨e.2, hw⟩))
    unfold State.multiplied
    rw [hempty, List.isEmpty_nil, if_pos rfl]
    rw [hempty] at hfound
    exact ⟨_, State.cmd?_cmdEnds (hfound _) 0 0 _, rfl, rfl, rfl, rfl, rfl, rfl⟩
  case more =>
    rintro ⟨k, hsome, hnot⟩
    obtain ⟨x, hx⟩ := Option.isSome_iff_exists.mp hsome
    have hne : ¬ later.isEmpty = true := fun h => by
      rw [List.isEmpty_iff.mp h] at hlater
      exact absurd ((hlater k x).mpr ⟨hx, hnot⟩) List.not_mem_nil
    unfold State.multiplied
    rw [if_neg hne]
    exact ⟨_, later, hfound _, rfl, rfl, rfl, hlater⟩

end Run

/-! ### Matrix commands: what a step computes and reads ahead -/

theorem mem_mmaOuts {c : Cmd} {t : Team} {a b : TileRec} {md : Option TileRec} {k : Nat} {x : Word} :
    (k, x) ∈ mmaOuts c t a b md ↔ ∃ i j, i < c.m ∧ j < c.n ∧ k = c.u 36 4 + i * c.u 42 2 + j ∧ x = mmaOut c t a b md i j := by
  simp only [mmaOuts, List.mem_flatMap, List.mem_map, List.mem_range, Prod.mk.injEq]
  constructor
  · rintro ⟨i, hi, j, hj, hk, hx⟩
    exact ⟨i, j, hi, hj, hk.symm, hx.symm⟩
  · rintro ⟨i, j, hi, hj, hk, hx⟩
    exact ⟨i, hi, j, hj, hk.symm, hx.symm⟩

theorem Cmd.Sees.seen {c : Cmd} {t : Team} {op : Cells 8} (h : c.Sees t.opbuf op) : c.seen t = { t with opbuf := op } := by
  unfold Cmd.Sees at h
  unfold Cmd.seen
  rw [h]
  cases c.early <;> rfl

/-- Where no entry is listed twice, the entry found under a number is the one listed. -/
theorem find?_snd_eq_some {l : List (Nat × Word)} (hnodup : (l.map (·.1)).Nodup) (k : Nat) (x : Word) :
    (l.find? fun e => e.1 == k).map (·.2) = some x ↔ (k, x) ∈ l := by
  rw [Option.map_eq_some_iff]
  constructor
  · rintro ⟨e, he, rfl⟩
    have hk : e.1 = k := beq_iff_eq.mp (List.find?_some (p := fun e : Nat × Word => e.1 == k) he)
    exact hk ▸ List.mem_of_find?_eq_some he
  · intro hx
    cases hfind : l.find? fun e => e.1 == k with
    | none => exact absurd (beq_self_eq_true k) (List.find?_eq_none.mp hfind _ hx)
    | some e =>
      have hk : e.1 = k := beq_iff_eq.mp (List.find?_some (p := fun e : Nat × Word => e.1 == k) hfind)
      exact ⟨e, rfl, congrArg Prod.snd (List.inj_on_of_nodup_map hnodup (List.mem_of_find?_eq_some hfind) hx hk)⟩

/-- The words of the operand buffer that hold some lines. -/
theorem TileRec.mem_wordsIn {r : TileRec} {first n w : Nat} :
    w ∈ r.wordsIn first n ↔ ∃ i j, i < n ∧ j ≤ r.lb / 4 ∧ w = (r.off + (first + i) * r.lstr) / 4 + j := by
  simp only [TileRec.wordsIn, List.mem_dedup, List.mem_flatMap, List.mem_map, List.mem_range, Nat.lt_succ_iff]
  constructor
  · rintro ⟨i, hi, j, hj, hw⟩
    exact ⟨i, j, hi, hj, hw.symm⟩
  · rintro ⟨i, j, hi, hj, hw⟩
    exact ⟨i, hi, j, hj, hw.symm⟩

/-- A word of the operand buffer as it stands. -/
def Team.opWord (t : Team) (w : Nat) : Word := BitVec.ofNat 32 (leNat (getBytes t.opbuf (4 * w) 4))

/-- What a matrix command has read before a step. -/
def Cmd.had (c : Cmd) (t : Team) (md : Option TileRec) : List (Nat × Word) :=
  c.early.getD (match md with | some m => (m.wordsIn (c.u 24 2) c.m).map fun w => (w, t.opWord w) | none => [])

theorem Cmd.mem_had {c : Cmd} {t : Team} {md : Option TileRec} {w : Nat} {x : Word} : (w, x) ∈ c.had t md ↔
    (∀ l, c.early = some l → (w, x) ∈ l) ∧ (c.early = none → x = t.opWord w ∧ ∃ m i j, md = some m ∧ i < c.m ∧ j ≤ m.lb / 4 ∧
      w = (m.off + (c.u 24 2 + i) * m.lstr) / 4 + j) := by
  unfold Cmd.had
  cases c.early with
  | some l => simp
  | none =>
    cases md with
    | none => simp
    | some m => simp [TileRec.mem_wordsIn, and_comm, eq_comm]

theorem mem_filter_sub_readAhead {some_ : List Nat} {w : Nat} : w ∈ (some_.filter (readAhead ≤ ·)).map (· - readAhead) ↔ 2 ^ 20 + w ∈ some_ := by
  simp only [List.mem_map, List.mem_filter, readAhead]
  constructor
  · rintro ⟨k, ⟨hk, hle⟩, rfl⟩
    rwa [Nat.add_sub_cancel' (of_decide_eq_true hle)]
  · exact fun h => ⟨_, ⟨h, decide_eq_true (Nat.le_add_right _ _)⟩, Nat.add_sub_cancel_left _ _⟩

/-- A word that had been read stays as it was read; any other that a step names is read as it stands. -/
theorem Cmd.mem_reads {c : Cmd} {t : Team} {md : Option TileRec} {ws : List Nat} {w : Nat} {x : Word} :
    (w, x) ∈ c.reads t md ws ↔ (w, x) ∈ c.had t md ∨ (w ∈ ws ∧ (∀ y, (w, y) ∉ c.had t md) ∧ x = t.opWord w) := by
  have hreads : c.reads t md ws = c.had t md ++ (ws.filter fun w => !(c.had t md).any (·.1 == w)).map fun w => (w, t.opWord w) := rfl
  have hnew : ∀ w, (!(c.had t md).any (·.1 == w)) = true ↔ ∀ y, (w, y) ∉ c.had t md := fun w => by
    rw [Bool.not_eq_true', List.any_eq_false]
    exact ⟨fun h y hy => h _ hy (beq_self_eq_true w), fun h e he hew => h e.2 (beq_iff_eq.mp hew ▸ he)⟩
  rw [hreads, List.mem_append, List.mem_map]
  refine or_congr_right ⟨?_, ?_⟩
  · rintro ⟨v, hv, heq⟩
    obtain ⟨rfl, rfl⟩ := Prod.mk.inj heq
    obtain ⟨hmem, hv⟩ := List.mem_filter.mp hv
    exact ⟨hmem, (hnew v).mp hv, rfl⟩
  · rintro ⟨hmem, hfresh, rfl⟩
    exact ⟨w, List.mem_filter.mpr ⟨hmem, (hnew w).mpr hfresh⟩, rfl⟩

section Matrix

variable {s : State} {c : Cmd} {t : Team} {a b : TileRec} {md : Option TileRec} {opc : Nat} {some_ : List Nat}

theorem State.team?_of_mayRun {shown : List (Nat × Nat)} {more : Prop} (h : s.MayRun c t opc shown more) : s.team? t.id = some t := by
  obtain ⟨-, ht, hid, -⟩ := State.startable_spec h.1
  exact hid ▸ ht

/-- A step that names no operand word computes the entries and writes those that it names. -/
theorem State.mma_multiplies (h : s.MayRun c t opc matrixShown True) (hopc : opc = 0x10 ∨ opc = 0x11) (ha : s.tileA c t = some a)
    (hb : s.tileB c t = some b) (hm : s.tileM c t = md) (hsram : s.dev.badSram = []) (hnone : c.outs = none)
    (hfits : c.MatrixFits t (s.accOf t) ((s.desc? t).elim 0 (·.nreg)) a b md) (hsome : ∀ k ∈ some_, k < 2 ^ 20) {op : Cells 8}
    (hop : c.Sees t.opbuf op) {left : Nat → Option Word} (hleft : ∀ k x, left k = some x ↔
      ∃ i j, i < c.m ∧ j < c.n ∧ k = c.u 36 4 + i * c.u 42 2 + j ∧ x = mmaOut c { t with opbuf := op } a b md i j) :
    s.Multiplies (s.mma c.id opc some_) c t left some_ := by
  have houts : mmaOuts c { t with opbuf := op } a b md = c.taken.outs.getD (mmaOuts c.taken (c.taken.seen t) a b ((s.begun c).tileM c.taken t)) := by
    rw [show c.taken.outs = none from hnone, show (s.begun c).tileM c.taken t = md from hm, show c.taken.seen t = _ from hop.seen]
    rfl
  rw [State.mma_begun h hopc ha hb hm (fun _ => hfits), State.mmaRun_entries (s := s.begun c) (c := c.taken) ha hb hsram (fun _ => hsome) houts]
  exact State.multiplied_multiplies h.cmd?_begun (State.team?_of_mayRun h) fun k x => (hleft k x).trans mem_mmaOuts.symm

/-- A later step writes the entries that it names of those that are left. -/
theorem State.mma_goesOn (h : s.MayRun c t opc matrixShown True) (hopc : opc = 0x10 ∨ opc = 0x11) (ha : s.tileA c t = some a)
    (hb : s.tileB c t = some b) (hsram : s.dev.badSram = []) {l : List (Nat × Word)} (hl : c.outs = some l) (hr : c.state = .running)
    (hnodup : (l.map (·.1)).Nodup) : s.Multiplies (s.mma c.id opc some_) c t (fun k => (l.find? fun e => e.1 == k).map (·.2)) some_ := by
  have houts : l = c.taken.outs.getD (mmaOuts c.taken (c.taken.seen t) a b ((s.begun c).tileM c.taken t)) := by
    rw [show c.taken.outs = some l from hl]
    rfl
  rw [State.mma_begun h hopc ha hb rfl (fun hq => nomatch (hq.symm.trans hr : CmdState.queued = .running)),
    State.mmaRun_entries (s := s.begun c) (c := c.taken) ha hb hsram (fun hn => by rw [show c.taken.outs = some l from hl] at hn; exact nomatch hn) houts]
  exact State.multiplied_multiplies h.cmd?_begun (State.team?_of_mayRun h) (find?_snd_eq_some hnodup)

/-- A step that names operand words reads them ahead of the others. -/
theorem State.mma_readsAhead (h : s.MayRun c t opc matrixShown True) (hopc : opc = 0x10 ∨ opc = 0x11) (ha : s.tileA c t = some a)
    (hb : s.tileB c t = some b) (hm : s.tileM c t = md) (hsram : s.dev.badSram = []) (hnone : c.outs = none)
    (hfits : c.MatrixFits t (s.accOf t) ((s.desc? t).elim 0 (·.nreg)) a b md) (hsome : ∃ k ∈ some_, 2 ^ 20 ≤ k) :
    s.ReadsAhead (s.mma c.id opc some_) c t md some_ := by
  rw [State.mma_begun h hopc ha hb hm (fun _ => hfits), State.mmaRun_ahead (s := s.begun c) (c := c.taken) ha hb hsram hnone hsome]
  refine ⟨rfl, _, _, State.cmd?_modCmd_of h.cmd?_begun fun _ => rfl, rfl, rfl, hnone, rfl, fun w x => ?_⟩
  rw [show (s.begun c).tileM c.taken t = md from hm, Cmd.mem_reads, mem_filter_sub_readAhead]
  simp only [Cmd.mem_had]
  rfl

/-- What an instruction that steps a matrix command does, in every case that the obligation names. -/
theorem State.mma_steps (h : s.MayRun c t opc matrixShown True) (hopc : opc = 0x10 ∨ opc = 0x11) (ha : s.tileA c t = some a)
    (hb : s.tileB c t = some b) (hm : s.tileM c t = md) (hsram : s.dev.badSram = []) {out : Out} (hout : out = .next (s.mma c.id opc some_)) :
    (c.outs = none → c.MatrixFits t (s.accOf t) ((s.desc? t).elim 0 (·.nreg)) a b md →
      ((∀ k ∈ some_, k < 2 ^ 20) → ∀ (op : Cells 8) (left : Nat → Option Word), c.Sees t.opbuf op →
        (∀ k x, left k = some x ↔ ∃ i j, i < c.m ∧ j < c.n ∧ k = c.u 36 4 + i * c.u 42 2 + j ∧ x = mmaOut c { t with opbuf := op } a b md i j) →
        ∃ s', out = .next s' ∧ s.Multiplies s' c t left some_) ∧
      ((∃ k ∈ some_, 2 ^ 20 ≤ k) → ∃ s', out = .next s' ∧ s.ReadsAhead s' c t md some_)) ∧
    (∀ l, c.outs = some l → c.state = .running → (l.map (·.1)).Nodup →
      ∃ s', out = .next s' ∧ s.Multiplies s' c t (fun k => (l.find? fun e => e.1 == k).map (·.2)) some_) :=
  ⟨fun hnone hfits => ⟨fun hsome _ _ hop hleft => ⟨_, hout, State.mma_multiplies h hopc ha hb hm hsram hnone hfits hsome hop hleft⟩,
      fun hsome => ⟨_, hout, State.mma_readsAhead h hopc ha hb hm hsram hnone hfits hsome⟩⟩,
    fun _ hl hr hnodup => ⟨_, hout, State.mma_goesOn h hopc ha hb hsram hl hr hnodup⟩⟩

end Matrix

/-- Settles O57: a command that its engine may begin or go on with runs its body at once (`State.MayRun.startCmd`); units that are all done leave
the device as they do one after another, and the command with them noted (`State.runCmd_worked`); a matrix command's step writes a part of the
entries left (`State.multiplied_multiplies`) or reads words ahead (`State.mma_readsAhead`). -/
theorem engineBodies : Obligations.EngineBodies := by
  unfold Obligations.EngineBodies
  refine ⟨?copies, ?combines, ?moves, ?mma, ?mmas, ?products, ?chunks, ?integers⟩
  case copies =>
    intro s c t some_ order s1 copies
    exact ⟨fun h ho hp => ⟨_, rfl, State.copy_worked h ho hp⟩, fun h ho hp => ⟨_, rfl, State.copynd_worked h rfl ho hp⟩⟩
  case combines =>
    intro s c t some_ order s1 n op h
    refine ⟨fun hown ho hp => ⟨_, rfl, ?_⟩, fun hpeer hfresh hrank ho hp => ⟨_, rfl, ?_⟩, fun hpeer hfresh hrank hreach hpos bs w hread => ?_⟩
    · rw [State.copyred_begun h, if_pos hown]
      exact State.runCmd_worked h.cmd?_begun ho (fun _ _ _ => copyredWord_done) hp
    · rw [State.copyred_begun h, if_neg hpeer, hfresh, Option.isSome_none, if_neg Bool.false_ne_true, if_pos hrank]
      exact State.runCmd_worked h.cmd?_begun ho (fun _ _ _ => copyredOwn_done) hp
    · obtain ⟨sent, d, st, hsent⟩ := State.copyredSend_spec rfl hpos h.cmd?_begun hread
      refine ⟨(s.begun c).copyredSend c.taken t, sent, d, st, congrArg Host.Outcome.next ?_, hsent⟩
      rw [State.copyred_begun h, if_neg hpeer, hfresh, Option.isSome_none, if_neg Bool.false_ne_true, if_neg hrank, hreach]
      rfl
  case moves =>
    intro s c t some_ order s1
    exact ⟨fun h ho hp => ⟨_, rfl, State.fill_worked h ho hp⟩, fun r hr hk h ho hp => ⟨_, rfl, State.osbload_worked hr hk rfl h ho hp⟩,
      fun h ho hp => ⟨_, rfl, State.accmove_worked rfl rfl rfl h ho hp⟩⟩
  case mma => exact fun s c t a b md some_ h ha hb hm hsram => State.mma_steps h (.inl rfl) ha hb hm hsram rfl
  case mmas => exact fun s c t a b md some_ h ha hb hm hsram => State.mma_steps h (.inr rfl) ha hb hm hsram rfl
  case products => exact fun a b x y lo hi h => dot_num h
  case chunks => exact fun len n acc a b hlen => fpOut_succ hlen n acc a b
  case integers => exact intOut_eq_sum

end Sys2Proof.Machine
